-- ==== Sys2Proof/Word.lean ====
section
/-! DEFINITION. The word types of the machine. Bits are numbered from 0 at the least significant end (R2), which is
`BitVec`'s numbering. -/

namespace Sys2Proof

/-- A byte. -/
abbrev W8 := BitVec 8

/-- A half word of 16 bits. -/
abbrev W16 := BitVec 16

/-- A word of 32 bits: one lane of a vector register, a lane mask, an instruction word. -/
abbrev W32 := BitVec 32

/-- A word of 64 bits: a scalar register, an address. -/
abbrev W64 := BitVec 64

end Sys2Proof
end

