-- ==== Sys2Proof/Syntax.lean ====
section
/-! DEFINITION. The syntax of the machine: one constructor of `Instr` for each row of spec/opcode_table.json.

Three kinds of row stand side by side. A packet word (R95, R102) carries the fields of its word, under the table's
names: `d` [25:20], `a` [19:14], `b` [13:8], and so on. An epilogue word (R238) carries its fields likewise. A row
without a word is a step of the device (spec/95_what_each_step_holds.md): it carries what names the step (which core,
which die, which entry of a queue) and what the outside world supplies with it (the bytes of a host write). -/

namespace Sys2Proof

/-- The two program-counter slots of a warp (R49). -/
inductive SlotId where
  | a | b
  deriving DecidableEq, Repr

/-- What an error-correcting check finds in a stored item (R298, R401). -/
inductive EccOutcome where
  | clean | corrected | uncorrectable
  deriving DecidableEq, Repr

/-- Why a translation is made (R310): a read, a write, an instruction fetch, or a prefetch, which requests no page. -/
inductive WalkKind where
  | read | write | fetch | prefetch
  deriving DecidableEq, Repr

/-- One record of the error log before it is written (R407); its fields by name. -/
structure ErrRecord where
  code : W8
  detail : W8
  cls : BitVec 2
  fn : BitVec 6
  core : W8
  agent : W8
  vid : W8
  domain : BitVec 6
  addr : W64
  deriving DecidableEq, Repr

/-- What an error struck, where the machine marks or repairs it (R270, R281, R298, R302): a sector of a home or guest line in a slice of the
die, by its physical address; of the copy of a version; of HBM, as a read finds it; the holder mask of a home line; a sector of the record's
core: of a lane's store, of shared memory, of a tile store, or of L1; the transfer of a copy or of a drain of a core (R204, R239); or a structure
of the record's core, by the type and the item of the section of a dump that shows it (R398, R399, R406). -/
inductive ErrorPlace where
  | other
  | slice (pa : Nat)
  | copyOf (pa domain vid : Nat)
  | hbm (pa : Nat)
  | holders (pa : Nat)
  | lane (warp lane addr : Nat)
  | shared (addr : Nat)
  | tileW (addr : Nat)
  | tileA (addr : Nat)
  | tileC (addr : Nat)
  | l1 (pa : Nat)
  | engine (core : Nat) (drain : Bool) (id : Nat)
  | structure_ (type item : Nat)
  deriving DecidableEq, Repr

/-- The acceptance counters of a domain (R378). -/
inductive AcceptReg where
  | accept | proposed | accepted
  deriving DecidableEq, Repr

/-- The four link registers of a felt module (R77). -/
inductive LinkReg where
  | rate | width | replay | retired
  deriving DecidableEq, Repr

/-- The firmware-visible counters of R379. -/
inductive CounterId where
  | crcErr (bundle module : Nat)
  | replayWin (bundle module : Nat)
  | issued (core : Nat)
  | apIssued (core : Nat)
  | fragSplit (core : Nat)
  | fragFull (core : Nat)
  | wTrap (core : Nat)
  | raEnter (core : Nat)
  | raInstr (core : Nat)
  | raPref (core : Nat)
  | hit (slice cls : Nat)
  | miss (slice cls : Nat)
  | sel (slice cls : Nat)
  | pageReq
  | kills
  | halts
  | spillx
  | corrErr
  deriving DecidableEq, Repr

/-- Management registers that have no row of their own, by their access code (R6): the replay threshold of a felt
module (RW, R380), an error-log record (RO, R407), and a reserved offset of the window (RSV, R7). -/
inductive MgmtReg where
  | replayThr (bundle module : Nat)
  | errorLog (die k : Nat)
  | reserved (offset : Nat)
  deriving DecidableEq, Repr

/-- The two paths to the management endpoint (R446, R451). -/
inductive MgmtPath where
  | i3c | pcie
  deriving DecidableEq, Repr

/-- The SPDM requests whose answer R449 and R450 give. -/
inductive SpdmRequest where
  | measurements | certificate
  deriving DecidableEq, Repr

/-- A firmware image as the boot sequence meets it (R447): the path that offers it, whether each of its two signatures
verifies against the fused key hashes, its security version, the digest of its bytes (R449), and the peer slots with their packages that it writes
in step 5 of the boot (R305, R447). -/
structure FirmwareImage where
  path : MgmtPath
  ecdsaOk : Bool
  lmsOk : Bool
  version : Nat
  digest : Nat
  peers : List (Nat × Nat)
  deriving DecidableEq, Repr

/-- The queue whose descriptor is written, and the function through whose window the write comes (R342, R427). -/
structure QueueWrite where
  fn : Nat
  queue : Nat
  deriving DecidableEq, Repr

/-- The sensors of each die (R450). -/
inductive Sensor where
  | voltageGlitch | clockGlitch | lidTamper
  deriving DecidableEq, Repr

/-- The operations of an atomic, MOD [2:0] (R197). -/
inductive AtomOp where
  | add | min | max | and | or | xor | exch | fadd
  deriving DecidableEq, Repr

/-- What the Couches of the members of a domain tell each other (R452). To the coordinating Couch: a resolve (the number under which its status returns,
the issuer's VID, the target, the proposed count, who asks: 0 a `RESOLVE`, 1 a walker, 2 a full spill partition, 3 a redundant pair), the wish for VIDs of
a fork or of redundant pairs, that every slice has applied a notice, that a block of a VID begins or ends there, and that its slices have swept a
VID in an epoch. From it: the answer to a number, with the domain's resolve count, and a notice with the table, each entry with its VID and its epoch, and the domain's counters. -/
inductive CouchMsg where
  | resolve (id vid target proposed who : Nat) (squash : Bool)
  | vids (id count parent : Nat) (chain pair : Bool)
  | applied (seq : Nat)
  | blocks (vid : Nat) (up : Bool)
  | swept (vid epoch : Nat)
  | answer (id status : Nat) (vids : List Nat) (count : BitVec 32)
  | notice (seq : Nat) (couched broke : List Nat) (table : List (Nat × Nat × BitVec 320)) (count : BitVec 32) (accept : BitVec 16) (proposed accepted : Nat)
  deriving DecidableEq, Repr

/-- What a UALink request asks for (R424, R440): a read of `len` bytes, a write of the listed bytes (none where a byte enable
is off), an atomic, a walk of a leaf slot (R311), or what the Couch of a member of a domain says (R452). -/
inductive UaOp where
  | read (len : Nat)
  | write (bytes : List (Option W8))
  | atomic (op : AtomOp) (wide : Bool) (operand : W64)
  | cas (wide : Bool) (compare new : W64)
  | walk (write : Bool)
  | couch (msg : CouchMsg)
  deriving DecidableEq, Repr

/-- A request from a peer package (R424 to R426): its device prefix (KIND, DOMAIN, VID, SRCPKG; `prefixOk` is false when the prefix is
missing), the copy whose sector it is, as BDIE, BCORE and COPYID name it, the physical address, and the operation. -/
structure UaRequest where
  prefixOk : Bool
  kind : W8
  domain : Nat
  vid : Nat
  srcPkg : Nat
  copy : Option (Nat × Nat × Nat)
  addr : Nat
  op : UaOp
  deriving DecidableEq, Repr

/-- A barrier signal from a peer package (R425, R426). -/
structure UaSignal where
  srcPkg : Nat
  baddr : Nat
  bdie : Nat
  bcore : Nat
  bcount : Nat
  copyId : Nat
  deriving DecidableEq, Repr

/-- The instructions and steps of the part, one constructor for each row of the opcode table. -/
inductive Instr where
  /-- `NOP` (R118): Does nothing and counts one slot towards the run limit. -/
  | nop
  /-- `YIELD` (R118): Ends the run and acts as a yield hint for the next arbitration on the port; in the access
  processor it acts as NOP. -/
  | yield
  /-- `TRAP` (R131): Raises the resumable software-trap warp trap with DETAIL n for the issuing slot if any lane
  passes the guard. -/
  | trap (n : BitVec 8)
  /-- `BKPT` (R131): Raises the resumable breakpoint warp trap with DETAIL n for the issuing slot if any lane
  passes the guard. -/
  | bkpt (n : BitVec 8)
  /-- `RTT` (R132): Returns from the warp trap handler at the PC held in TRAPPC and makes both PC slots eligible
  again. -/
  | rtt
  /-- `RTT_ADV` (R69): Returns from the trap handler at the instruction after the one that TRAPPC names. -/
  | rttAdv
  /-- `MFS` (R119): Copies the selected system register into a vector or scalar destination. -/
  | mfs (d : BitVec 6) (e : BitVec 12)
  /-- `MTS` (R119): Writes the scalar source into the selected system register; writes to read-only registers are
  ignored. -/
  | mts (t : BitVec 6) (e : BitVec 12)
  /-- `EXIT` (R120): Removes the guard-passing lanes from the warp, and in the access processor ends it and closes
  every aq queue. -/
  | exit
  /-- `JMP` (R116): Moves every lane of the slot to the packet address held in sA when any lane passes the guard.
  -/
  | jmp (a : BitVec 6)
  /-- `CALL_REG` (R116): Writes the link into sD and jumps to the packet address in sA. -/
  | callReg (d a : BitVec 6)
  /-- `CALL_DISP` (R116): Writes the link into sD and jumps to the packet given by the required XIMM displacement.
  -/
  | callDisp (d : BitVec 6)
  /-- `RET` (R116): Moves the slot to the slot PC held in sA. -/
  | ret (a : BitVec 6)
  /-- `LOOP` (R121): Pushes a zero-overhead loop entry with the count taken from sA, or skips the body when the
  count is zero. -/
  | loop (a : BitVec 6)
  /-- `LOOPBRK` (R122): Pops the innermost loop entry and continues after its end packet. -/
  | loopbrk
  /-- `BRA` (R116): Branches the whole slot to the packet at the packet displacement when any lane passes the
  guard. -/
  | bra (d : BitVec 26)
  /-- `BRV` (R125): Splits the issuing slot by its guard, sending the passing lanes to the target and the rest to
  the other slot or a path frame. -/
  | brv
  /-- `RECONV` (R124): Pushes a join frame at the target packet and makes it the slot's reconvergence address. -/
  | reconv
  /-- `JOINW` (R129): Gathers the warp's holders at one PC, merging with a waiting slot or starting a wait for the
  expected lanes. -/
  | joinw (d a : BitVec 6)
  /-- `FRAGWAKE` (R128): Marks one or every parked fragment of the block ready, as sA selects. -/
  | fragwake (a : BitVec 6)
  /-- `SADD` (R139): Writes the 64-bit sum of sA and sB or an immediate. -/
  | sadd (d a b : BitVec 6) (i : BitVec 1)
  /-- `SSUB` (R139): Writes the 64-bit difference. -/
  | ssub (d a b : BitVec 6) (i : BitVec 1)
  /-- `SMUL` (R139): Writes the low 64 bits of the product. -/
  | smul (d a b : BitVec 6) (i : BitVec 1)
  /-- `SMULH` (R139): Writes the high 64 bits of the signed or unsigned 128-bit product. -/
  | smulh (d a b : BitVec 6) (u : BitVec 1)
  /-- `SDIV` (R139): Writes the signed or unsigned quotient, with fixed results for division by zero and overflow.
  -/
  | sdiv (d a b : BitVec 6) (u : BitVec 1)
  /-- `SAND` (R139): Writes the bitwise AND. -/
  | sand (d a b : BitVec 6) (i : BitVec 1)
  /-- `SOR` (R139): Writes the bitwise OR. -/
  | sor (d a b : BitVec 6) (i : BitVec 1)
  /-- `SXOR` (R139): Writes the bitwise XOR. -/
  | sxor (d a b : BitVec 6) (i : BitVec 1)
  /-- `SSHL` (R139): Writes a shifted left by b, or 0 for counts of 64 or more. -/
  | sshl (d a b : BitVec 6) (i : BitVec 1)
  /-- `SSHR` (R139): Writes a logically shifted right by b. -/
  | sshr (d a b : BitVec 6) (i : BitVec 1)
  /-- `SSRA` (R139): Writes a arithmetically shifted right by min(b, 63). -/
  | ssra (d a b : BitVec 6) (i : BitVec 1)
  /-- `SMIN` (R139): Writes the signed or unsigned minimum. -/
  | smin (d a b : BitVec 6) (u i : BitVec 1)
  /-- `SMAX` (R139): Writes the signed or unsigned maximum. -/
  | smax (d a b : BitVec 6) (u i : BitVec 1)
  /-- `SCMP` (R139): Writes −1, 0 or +1 by a signed or unsigned comparison. -/
  | scmp (d a b : BitVec 6) (u i : BitVec 1)
  /-- `SSEL` (R139): Writes a if sD is non-zero, else b. -/
  | ssel (d a b : BitVec 6) (i : BitVec 1)
  /-- `SPOPC` (R139): Writes the number of one bits of sA. -/
  | spopc (d a : BitVec 6)
  /-- `SCLZ` (R139): Writes the number of leading zeros of sA. -/
  | sclz (d a : BitVec 6)
  /-- `SBFE` (R140): Extracts a bit field of sA, sign- or zero-extended. -/
  | sbfe (d a b : BitVec 6) (u : BitVec 1)
  /-- `SBFI` (R140): Inserts a bit field of sA into sD. -/
  | sbfi (d a b : BitVec 6)
  /-- `SMOV` (R139): Copies sA to sD. -/
  | smov (d a : BitVec 6)
  /-- `SMOV_AQ` (R142): Pops one 64-bit entry from the block's aq queue into sD, waiting while it is empty and
  open. -/
  | smovAq (d a : BitVec 6)
  /-- `SADDI` (R141): Writes sA plus the sign-extended immediate. -/
  | saddi (d a : BitVec 6) (i : BitVec 14)
  /-- `SLI` (R141): Writes the sign-extended immediate into sD. -/
  | sli (d : BitVec 6) (i : BitVec 20)
  /-- `PAND` (R143): Writes pA AND pB, or pA AND NOT pB with .n. -/
  | pand (d a b : BitVec 6) (n : BitVec 1)
  /-- `POR` (R143): Writes pA OR pB, or pA OR NOT pB with .n. -/
  | por (d a b : BitVec 6) (n : BitVec 1)
  /-- `PXOR` (R143): Writes pA XOR pB. -/
  | pxor (d a b : BitVec 6)
  /-- `PNOT` (R143): Writes NOT pA. -/
  | pnot (d a : BitVec 6)
  /-- `PMOV_PP` (R143): Copies predicate pA to pD. -/
  | pmovPp (d a : BitVec 6)
  /-- `PMOV_PS` (R143): Writes sA[31:0] into pD. -/
  | pmovPs (d a : BitVec 6)
  /-- `PMOV_SP` (R143): Writes pA zero-extended into sD once. -/
  | pmovSp (d a : BitVec 6)
  /-- `PMOV_CC` (R143): Sets pD to all ones or zero by comparing signed sA with zero under the named condition. -/
  | pmovCc (d a : BitVec 6) (m : BitVec 4)
  /-- `PSETI` (R143): Writes the sign-extended XIMM value, or 0, into pD. -/
  | pseti (d : BitVec 6)
  /-- `PPOPC` (R143): Writes the number of one bits of pA AND the passing lanes into sD. -/
  | ppopc (d a : BitVec 6)
  /-- `PFIRST` (R143): Writes the index of the lowest one bit of pA AND the passing lanes, or 32. -/
  | pfirst (d a : BitVec 6)
  /-- `VADD` (R145): Adds lane by lane modulo 2^32. -/
  | vadd (d a b : BitVec 6) (i : BitVec 1)
  /-- `VSUB` (R145): Subtracts lane by lane. -/
  | vsub (d a b : BitVec 6) (i : BitVec 1)
  /-- `VADDC` (R146): Adds with carry in and carry out through p6 in each passing lane. -/
  | vaddc (d a b : BitVec 6)
  /-- `VMUL` (R145): Writes the low 32 bits of each lane product. -/
  | vmul (d a b : BitVec 6) (i : BitVec 1)
  /-- `VMULH` (R145): Writes the high 32 bits of each signed or unsigned lane product. -/
  | vmulh (d a b : BitVec 6) (u : BitVec 1)
  /-- `VMAD` (R145): Writes the low 32 bits of a × b plus vD. -/
  | vmad (d a b : BitVec 6)
  /-- `VAND` (R145): Bitwise AND per lane. -/
  | vand (d a b : BitVec 6) (i : BitVec 1)
  /-- `VOR` (R145): Bitwise OR per lane. -/
  | vor (d a b : BitVec 6) (i : BitVec 1)
  /-- `VXOR` (R145): Bitwise XOR per lane. -/
  | vxor (d a b : BitVec 6) (i : BitVec 1)
  /-- `VSHL` (R145): Shifts each lane left. -/
  | vshl (d a b : BitVec 6) (i : BitVec 1)
  /-- `VSHR` (R145): Shifts each lane right logically. -/
  | vshr (d a b : BitVec 6) (i : BitVec 1)
  /-- `VSRA` (R145): Shifts each lane right arithmetically. -/
  | vsra (d a b : BitVec 6) (i : BitVec 1)
  /-- `VMIN` (R145): Signed or unsigned minimum per lane. -/
  | vmin (d a b : BitVec 6) (u i : BitVec 1)
  /-- `VMAX` (R145): Signed or unsigned maximum per lane. -/
  | vmax (d a b : BitVec 6) (u i : BitVec 1)
  /-- `VABSD` (R145): Writes the magnitude of a − b per lane as an unsigned value. -/
  | vabsd (d a b : BitVec 6) (u : BitVec 1)
  /-- `VPOPC` (R145): Counts one bits per lane. -/
  | vpopc (d a : BitVec 6)
  /-- `VCLZ` (R145): Counts leading zeros per lane. -/
  | vclz (d a : BitVec 6)
  /-- `VBFE` (R140): Extracts a bit field per lane. -/
  | vbfe (d a b : BitVec 6) (u : BitVec 1)
  /-- `VBFI` (R140): Inserts a bit field per lane into vD. -/
  | vbfi (d a b : BitVec 6)
  /-- `VMOV` (R145): Copies vA to vD in passing lanes. -/
  | vmov (d a : BitVec 6)
  /-- `VMOV_FROM_MQI` (R148): Pops one whole message from a receive register into vD, waiting while it is empty.
  -/
  | vmovFromMqi (d a : BitVec 6)
  /-- `VMOV_TO_MQO` (R148): Sends one message through a bound send register, waiting while the receiver holds 16
  messages. -/
  | vmovToMqo (d a : BitVec 6)
  /-- `VDOT4` (R145): Accumulates the four byte products of each lane into vD. -/
  | vdot4 (d a b : BitVec 6) (u : BitVec 1)
  /-- `VADDI` (R147): Adds the immediate to each lane. -/
  | vaddi (d a : BitVec 6) (i : BitVec 14)
  /-- `VLI` (R147): Writes the immediate into each passing lane. -/
  | vli (d : BitVec 6) (i : BitVec 20)
  /-- `VCMP_EQ` (R149): Sets pD bits of passing lanes where a equals b. -/
  | vcmpEq (d a b : BitVec 6) (i : BitVec 1)
  /-- `VCMP_NE` (R149): Sets pD bits where a differs from b. -/
  | vcmpNe (d a b : BitVec 6) (i : BitVec 1)
  /-- `VCMP_LT` (R149): Sets pD bits where a is less than b, signed or unsigned. -/
  | vcmpLt (d a b : BitVec 6) (u i : BitVec 1)
  /-- `VCMP_LE` (R149): Sets pD bits where a is at most b. -/
  | vcmpLe (d a b : BitVec 6) (u i : BitVec 1)
  /-- `VCMP_GT` (R149): Sets pD bits where a is greater than b. -/
  | vcmpGt (d a b : BitVec 6) (u i : BitVec 1)
  /-- `VCMP_GE` (R149): Sets pD bits where a is at least b. -/
  | vcmpGe (d a b : BitVec 6) (u i : BitVec 1)
  /-- `VSEL` (R149): Writes a where vD is non-zero, else b, per lane. -/
  | vsel (d a b : BitVec 6) (i : BitVec 1)
  /-- `FADD` (R171): FP32 add rounded once in the selected mode. -/
  | fadd (d a b : BitVec 6) (r : BitVec 2)
  /-- `FSUB` (R171): FP32 subtract. -/
  | fsub (d a b : BitVec 6) (r : BitVec 2)
  /-- `FMUL` (R171): FP32 multiply. -/
  | fmul (d a b : BitVec 6) (r : BitVec 2)
  /-- `FMIN` (R172): FP32 minimum with −0 below +0 and NaN ignored. -/
  | fmin (d a b : BitVec 6)
  /-- `FMAX` (R172): FP32 maximum. -/
  | fmax (d a b : BitVec 6)
  /-- `FCMP` (R173): Sets pD bits by an FP32 comparison under the condition in d[5:3]. -/
  | fcmp (c p : BitVec 3) (a b : BitVec 6)
  /-- `FNEG` (R172): Inverts the FP32 sign bit. -/
  | fneg (d a : BitVec 6)
  /-- `FABS` (R172): Clears the FP32 sign bit. -/
  | fabs (d a : BitVec 6)
  /-- `FCLAMP` (R172): Clamps vD between vA and vB. -/
  | fclamp (d a b : BitVec 6)
  /-- `FDOT2` (R171): Adds a two-element dot product of register pairs to vD with one rounding. -/
  | fdot2 (d a b : BitVec 6) (r : BitVec 2)
  /-- `FROUND` (R174): Rounds each FP32 value to an integral value in the selected mode. -/
  | fround (d a : BitVec 6) (r : BitVec 2)
  /-- `FSCALE` (R174): Multiplies each FP32 value by 2^k and rounds. -/
  | fscale (d a b : BitVec 6) (r : BitVec 2)
  /-- `FADD_T` (R171): Add in FP64 or a packed 16-bit type chosen by T. -/
  | faddT (d a b : BitVec 6) (t r : BitVec 2)
  /-- `FSUB_T` (R171): Subtract in the type chosen by T. -/
  | fsubT (d a b : BitVec 6) (t r : BitVec 2)
  /-- `FMUL_T` (R171): Multiply in the type chosen by T. -/
  | fmulT (d a b : BitVec 6) (t r : BitVec 2)
  /-- `FMIN_T` (R172): Minimum in the type chosen by T. -/
  | fminT (d a b : BitVec 6) (t : BitVec 2)
  /-- `FMAX_T` (R172): Maximum in the type chosen by T. -/
  | fmaxT (d a b : BitVec 6) (t : BitVec 2)
  /-- `FCMP_F64` (R173): FP64 comparison into a predicate. -/
  | fcmpF64 (c p : BitVec 3) (a b : BitVec 6)
  /-- `FNEG_T` (R172): Sign inversion in the type chosen by T. -/
  | fnegT (d a : BitVec 6) (t : BitVec 2)
  /-- `FABS_T` (R172): Sign clearing in the type chosen by T. -/
  | fabsT (d a : BitVec 6) (t : BitVec 2)
  /-- `FCLAMP_T` (R172): Clamp in the type chosen by T. -/
  | fclampT (d a b : BitVec 6) (t : BitVec 2)
  /-- `FDOT2_PACKED` (R171): Packed 16-bit two-element dot product accumulated into FP32 vD. -/
  | fdot2Packed (d a b : BitVec 6) (t : BitVec 1) (r : BitVec 2)
  /-- `FROUND_T` (R174): Round to integral in the type chosen by T. -/
  | froundT (d a : BitVec 6) (t r : BitVec 2)
  /-- `FSCALE_T` (R174): Scale by a power of two in the type chosen by T. -/
  | fscaleT (d a b : BitVec 6) (t r : BitVec 2)
  /-- `FFMA` (R171): Fused multiply-add a × b + vD with one rounding in the type chosen by T. -/
  | ffma (d a b : BitVec 6) (t r : BitVec 2)
  /-- `EXP2` (R176): Computes 2^x per lane by the fixed polynomial. -/
  | exp2 (d a : BitVec 6)
  /-- `LG2` (R177): Computes log2 x per lane by the fixed polynomial. -/
  | lg2 (d a : BitVec 6)
  /-- `RCP` (R175): Correctly rounded reciprocal. -/
  | rcp (d a : BitVec 6) (r : BitVec 2)
  /-- `RSQ` (R175): Correctly rounded reciprocal square root. -/
  | rsq (d a : BitVec 6) (r : BitVec 2)
  /-- `SQRT` (R175): Correctly rounded square root. -/
  | sqrt (d a : BitVec 6) (r : BitVec 2)
  /-- `CVT` (R178): Converts one value per lane between the float and integer types coded in b. -/
  | cvt (d a : BitVec 6) (x y : BitVec 3) (m : BitVec 4)
  /-- `CVTPK2` (R180): Packs two FP32 values into two 16-bit elements. -/
  | cvtpk2 (d a t : BitVec 6) (m : BitVec 4)
  /-- `CVTPK4` (R180): Packs four FP32 values into 8-bit or 4-bit elements. -/
  | cvtpk4 (d a t : BitVec 6) (m : BitVec 4)
  /-- `CVTWIDE` (R181): Widens the narrow elements of vA into FP32 or 32-bit integers in a pair or quad. -/
  | cvtwide (d a t : BitVec 6)
  /-- `MXSCALE` (R182): Computes one E8M0 shared scale over the passing lanes. -/
  | mxscale (d a t : BitVec 6)
  /-- `MXQ` (R183): Quantises each lane's value by the E8M0 scale in vD and writes it back as FP32. -/
  | mxq (d a t : BitVec 6) (m : BitVec 4)
  /-- `PERM` (R150): Each lane reads vA from the lane named in vB. -/
  | perm (d a b : BitVec 6)
  /-- `PERMX` (R150): Each lane reads vA from lane i XOR m. -/
  | permx (d a b : BitVec 6)
  /-- `SHFLUP` (R150): Each lane reads vA from lane i − k. -/
  | shflup (d a b : BitVec 6)
  /-- `SHFLDN` (R150): Each lane reads vA from lane i + k. -/
  | shfldn (d a b : BitVec 6)
  /-- `BCAST_REG` (R150): Broadcasts vA from the lane named by sB. -/
  | bcastReg (d a b : BitVec 6)
  /-- `BCAST_IMM` (R150): Broadcasts vA from lane j. -/
  | bcastImm (d a b : BitVec 6)
  /-- `VOTE_BALLOT` (R154): Writes pA AND the passing lanes into sD. -/
  | voteBallot (d a : BitVec 6)
  /-- `VOTE_ANY` (R154): Sets passing pD bits if any passing lane of pA is set. -/
  | voteAny (d a : BitVec 6)
  /-- `VOTE_ALL` (R154): Sets passing pD bits if every passing lane of pA is set. -/
  | voteAll (d a : BitVec 6)
  /-- `VOTE_UNI` (R154): Sets passing pD bits if every passing lane holds the same vA bits. -/
  | voteUni (d a : BitVec 6)
  /-- `REDUCE` (R152): Combines the passing lanes by a fixed butterfly and writes the result to every passing
  lane. -/
  | reduce (d a : BitVec 6) (m : BitVec 4)
  /-- `SCAN` (R152): Computes an inclusive prefix combination in a fixed order. -/
  | scan (d a : BitVec 6) (m : BitVec 4)
  /-- `ARGMAX` (R153): Writes the largest passing value and its lane into a register pair. -/
  | argmax (d a : BitVec 6) (m : BitVec 4)
  /-- `MATCH` (R154): Writes to each passing lane the mask of passing lanes holding the same value. -/
  | matchAny (d a : BitVec 6)
  /-- `MATCH_FIRST` (R154): Sets the pD bit of each passing lane that is the first holder of its value. -/
  | matchFirst (d a : BitVec 6)
  /-- `LD` (R190): Global vector load, format E, one element per performing lane. -/
  | ld (d a : BitVec 6) (o : BitVec 14)
  /-- `LDC` (R195): Global load whose destination lanes are tainted so that dependent addresses are ordered after
  it. -/
  | ldc (d a : BitVec 6) (o : BitVec 14)
  /-- `ST` (R190): Global vector store, format E, in ascending lane order. -/
  | st (d a : BitVec 6) (o : BitVec 14)
  /-- `LD_INDEXED` (R185): Indexed load, format F, in the global or a core-local space. -/
  | ldIndexed (d a b : BitVec 6) (s : BitVec 2) (z m : BitVec 3)
  /-- `ST_INDEXED` (R185): Indexed store, format F. -/
  | stIndexed (d a b : BitVec 6) (s : BitVec 2) (z m : BitVec 3)
  /-- `LDS` (R189): Scalar load performed once for the slot. -/
  | lds (d a : BitVec 6) (o : BitVec 14)
  /-- `STS` (R189): Scalar store performed once for the slot. -/
  | sts (d a : BitVec 6) (o : BitVec 14)
  /-- `LDSH` (R196): Shared-memory load that waits on empty lines. -/
  | ldsh (d a : BitVec 6) (o : BitVec 14)
  /-- `STSH` (R196): Shared-memory store, setting lines full in the .f mode. -/
  | stsh (d a : BitVec 6) (o : BitVec 14)
  /-- `LDL` (R265): Lane-store load from the lane's own slice. -/
  | ldl (d a : BitVec 6) (o : BitVec 14)
  /-- `STL` (R265): Lane-store store into the lane's own slice. -/
  | stl (d a : BitVec 6) (o : BitVec 14)
  /-- `LDTS` (R269): Warp load from the tc: accumulator buffer. -/
  | ldts (d a : BitVec 6) (o : BitVec 14)
  /-- `STTS` (R269): Warp store into the tw: or ta: operand buffer. -/
  | stts (d a : BitVec 6) (o : BitVec 14)
  /-- `ATOM` (R198): Global atomic read-modify-write at the home slice returning the old value. -/
  | atom (d a b : BitVec 6) (m : BitVec 4)
  /-- `ATOMCAS` (R198): Global compare-and-swap returning the old value. -/
  | atomcas (d a b : BitVec 6) (w : BitVec 1)
  /-- `ATOMSH` (R198): Shared-memory atomic returning the old value. -/
  | atomsh (d a b : BitVec 6) (m : BitVec 4)
  /-- `RED` (R198): Global atomic reduction with no return value. -/
  | red (d a b : BitVec 6) (m : BitVec 4)
  /-- `COPY` (R200): Hands one tensor box transfer to the core's copy unit. -/
  | copy (a b : BitVec 6) (m : BitVec 4)
  /-- `TBINIT` (R207): Initialises a transaction barrier with its arrival count. -/
  | tbinit (a b : BitVec 6)
  /-- `TBEXPECT` (R207): Adds expected sectors to the barrier's phase. -/
  | tbexpect (a b : BitVec 6)
  /-- `TBARRIVE` (R207): Decrements the barrier's pending arrivals. -/
  | tbarrive (a : BitVec 6)
  /-- `TBWAIT` (R207): Waits until the named phase has completed and returns LASTERR. -/
  | tbwait (d a b : BitVec 6)
  /-- `FEMARK` (R207): Marks shared-memory lines empty. -/
  | femark (a b : BitVec 6)
  /-- `FEPOLL` (R207): Reads full/empty bits into a predicate. -/
  | fepoll (d a : BitVec 6)
  /-- `BAR` (R210): Arrives on a hardware barrier and waits for the phase to complete. -/
  | bar (b : BitVec 6)
  /-- `BARARR` (R210): Arrives on a hardware barrier without waiting. -/
  | bararr (b : BitVec 6)
  /-- `BARWAIT` (R210): Waits for the phase of the warp's last arrival to complete. -/
  | barwait (b : BitVec 6)
  /-- `BARDROP` (R210): Arrives and leaves the barrier, reducing E for later phases. -/
  | bardrop (b : BitVec 6)
  /-- `FENCE` (R213): Holds the warp until earlier accesses are complete and performed at the named scope. -/
  | fence (k : BitVec 6) (s : BitVec 4)
  /-- `FENCE_COMPLETE` (R213): A waiting fence completes once its conditions hold, invalidating L1 for acquires at
  .gang or wider. -/
  | fenceComplete (core agent : Nat)
  /-- `WAITC_REG` (R214): Waits until an in-flight counter is at or below sA. -/
  | waitcReg (a : BitVec 6) (p : BitVec 2)
  /-- `WAITC_IMM` (R214): Waits until an in-flight counter is at or below k. -/
  | waitcImm (k : BitVec 6) (p : BitVec 2)
  /-- `WAITB` (R215): Waits until the numbered matrix batch has completed. -/
  | waitb (a : BitVec 6)
  /-- `TFENCE` (R216): Waits until the warp's tile-store stores are written and makes them visible to later matrix
  operations. -/
  | tfence
  /-- `AQPUSH` (R222): Access processor appends an entry to an aq queue, waiting while it is full. -/
  | aqpush (d a : BitVec 6)
  /-- `AQCLOSE` (R222): Marks an aq queue closed. -/
  | aqclose (d : BitVec 6)
  /-- `MQBIND` (R223): Binds a send register to a receive register of a block in the same span. -/
  | mqbind (d a : BitVec 6)
  /-- `MQTRY` (R225): Sets predicate bits if a receive register holds a message. -/
  | mqtry (d a : BitVec 6)
  /-- `RGIVE` (R55): Releases the top m registers of the warp's window to the block pool after its counters drain.
  -/
  | rgive (k : BitVec 6)
  /-- `RCLAIM` (R55): Joins the block's claim queue and waits to grow the window by m registers. -/
  | rclaim (k : BitVec 6)
  /-- `RCLAIM_T` (R55): Grows the window at once if possible, reporting success in a predicate, never waiting. -/
  | rclaimT (d k : BitVec 6)
  /-- `CLAIM_GRANT` (R56): At the end of a cycle released granules join the pool and claim-queue heads are granted
  in order. -/
  | claimGrant (core : Nat)
  /-- `MMA` (R229): Queues a tile multiply-accumulate into accumulator tile t. -/
  | mma (d a b : BitVec 6) (m : BitVec 4)
  /-- `MZERO` (R230): Queues zeroing of accumulator tile t and clearing of its poison marks. -/
  | mzero (d : BitVec 6)
  /-- `MBATCH` (R233): Closes the open matrix commands into a batch and returns its number. -/
  | mbatch (d : BitVec 6)
  /-- `EPISET` (R235): Loads an epilogue program and auxiliary base for later drains. -/
  | episet (a b : BitVec 6)
  /-- `DRAIN` (R236): Queues a drain of tile t through the epilogue program. -/
  | drain (d a b : BitVec 6)
  /-- `RESOLVE_C` (R244): Commits a version chain of a domain and squashes the rest. -/
  | resolveC (d a b : BitVec 6)
  /-- `RESOLVE_S` (R244): Squashes a version and everything below it. -/
  | resolveS (d a b : BitVec 6)
  /-- `VIDQ` (R248): Returns the state, depth and parent of a VID. -/
  | vidq (d a b : BitVec 6)
  /-- `VIDQ_FREE` (R248): Returns the number of free VIDs of a domain. -/
  | vidqFree (d a : BitVec 6)
  /-- `SPECCHK` (R249): Reports whether the block's version is VID 0 or couched. -/
  | specchk (d : BitVec 6)
  /-- `SPECCHK_LIVE` (R249): Reports whether the block's version is not broke. -/
  | specchkLive (d : BitVec 6)
  /-- `SIGSYNC` (R250): Compares the store signatures of a redundant pair at a midpoint. -/
  | sigsync (d : BitVec 6)
  /-- `EGRSV` (R253): Reserves positions in the domain's egress ring, waiting while it is full. -/
  | egrsv (d a : BitVec 6)
  /-- `EGPUB` (R254): Publishes an open egress reservation of the block. -/
  | egpub (a : BitVec 6)
  /-- `EGPUSH` (R254): Writes held token slots into the shadow ring. -/
  | egpush (a b : BitVec 6)
  /-- `EGREL` (R255): Releases committed egress positions to the host ring and returns the cursors. -/
  | egrel (d a b : BitVec 6)
  /-- `EGREL_V` (R255): Releases egress positions, rejecting tokens as void. -/
  | egrelV (d a b : BitVec 6)
  /-- `KVXL` (R257): Translates sequence positions to KV block addresses, setting the replay mask p4. -/
  | kvxl (d a b : BitVec 6)
  /-- `KVAPPEND` (R258): Maps a KV block for each position, popping the free list where unmapped. -/
  | kvappend (d a b : BitVec 6)
  /-- `KVMAP` (R259): Writes block-table entries directly. -/
  | kvmap (d a b : BitVec 6)
  /-- `FLPOP` (R260): Pops a block from a pool's free list, or returns 0. -/
  | flpop (d a : BitVec 6)
  /-- `FLPUSH` (R260): Pushes a block onto a pool's free list and wakes parked fragments. -/
  | flpush (a b : BitVec 6)
  /-- `PREF` (R217): Prefetches lines into their home slices. -/
  | pref (a b : BitVec 6)
  /-- `PREF_RO` (R217): Prefetches lines into the read-only cluster cache. -/
  | prefRo (a b : BitVec 6)
  /-- `CINV_RO` (R217): Invalidates the cluster read-only cache and the core instruction cache. -/
  | cinvRo
  /-- `CINV_L1` (R217): Invalidates the core's L1 data cache. -/
  | cinvL1
  /-- `PGREQ` (R217): Requests residency of the pages the passing lanes name. -/
  | pgreq (a b : BitVec 6)
  /-- `TLBINV` (R317): Removes one page's entries from the core and cluster TLBs. -/
  | tlbinv (a : BitVec 6)
  /-- `TLBINV_ALL` (R317): Removes all entries of the block's address space from the core and cluster TLBs. -/
  | tlbinvAll
  /-- `VDOT4_I16` (R155): Accumulates products of 16-bit halves, optionally saturating. -/
  | vdot4I16 (d a b : BitVec 6) (m : BitVec 3)
  /-- `VDOT4_I4` (R155): Accumulates products of 4-bit fields, optionally saturating. -/
  | vdot4I4 (d a b : BitVec 6) (m : BitVec 3)
  /-- `VMOV_BT` (R156): Transposes a 32 × 32 bit matrix held across lanes. -/
  | vmovBt (d a : BitVec 6)
  /-- `VOR_BMM` (R156): Bit-matrix multiply over OR. -/
  | vorBmm (d a b : BitVec 6)
  /-- `VXOR_BMM` (R156): Bit-matrix multiply over XOR. -/
  | vxorBmm (d a b : BitVec 6)
  /-- `EMULATED_MAJOR` (R105): An instruction of majors 0x32–0x3E takes the emulation trap or the illegal-
  instruction fault. -/
  | emulatedMajor (w : BitVec 32)
  /-- `XIMM` (R100): Supplies immediate bits to the following instruction, issuing with it as one instruction. -/
  | ximm (x : BitVec 26)
  /-- `ENOP` (R238): Epilogue word with no effect. -/
  | enop
  /-- `EADD` (R238): Epilogue FP32 add of 16 elements. -/
  | eadd (d a b : BitVec 4)
  /-- `EMUL` (R238): Epilogue FP32 multiply. -/
  | emul (d a b : BitVec 4)
  /-- `EFMA` (R238): Epilogue fused multiply-add into eD. -/
  | efma (d a b : BitVec 4)
  /-- `EMAX` (R238): Epilogue maximum. -/
  | emax (d a b : BitVec 4)
  /-- `EMIN` (R238): Epilogue minimum. -/
  | emin (d a b : BitVec 4)
  /-- `ECLAMP` (R238): Epilogue clamp of eD. -/
  | eclamp (d a b : BitVec 4)
  /-- `EEXP2` (R238): Epilogue EXP2 of each element. -/
  | eexp2 (d a : BitVec 4)
  /-- `ECVT` (R238): Epilogue conversion to a narrow type, zero-extended. -/
  | ecvt (d a : BitVec 4) (c : BitVec 3)
  /-- `EMOV_REG` (R238): Epilogue register copy. -/
  | emovReg (d a : BitVec 4)
  /-- `EMOV_IMM` (R238): Epilogue move of an immediate shifted left by 18. -/
  | emovImm (d : BitVec 4) (k : BitVec 14)
  /-- `ESEL` (R238): Epilogue select by eD. -/
  | esel (d a b : BitVec 4)
  /-- `EROW` (R238): Writes the current row as FP32. -/
  | erow (d : BitVec 4)
  /-- `ECOL` (R238): Writes each element's column as FP32. -/
  | ecol (d : BitVec 4)
  /-- `ELDB` (R238): Loads auxiliary words indexed by column from shared memory. -/
  | eldb (d : BitVec 4) (o : BitVec 12)
  /-- `ELDS` (R238): Loads an auxiliary word indexed by row. -/
  | elds (d : BitVec 4) (o : BitVec 12)
  /-- `EST` (R238): Stores elements into shared memory at the drain's destination. -/
  | est (a : BitVec 4) (z : BitVec 2)
  /-- `ESTG` (R238): Stores elements into global memory under the block's version. -/
  | estg (a : BitVec 4) (z : BitVec 2)
  /-- `ERED` (R238): Reduces elements into global memory with RED.fadd. -/
  | ered (a : BitVec 4)
  /-- `ESIG` (R238): Adds elements to a redundant block's store signature. -/
  | esig (a : BitVec 4)
  /-- `EEND` (R238): Ends the epilogue run for a group. -/
  | eend
  /-- `DOORBELL_WRITE` (R428): A host write to BAR2 sets a queue's TAIL if accepted. -/
  | doorbellWrite (fn offset size : Nat) (value : W64)
  /-- `WALKER_TAKE_RECORD` (R343): The graph walker reads the record at HEAD, raises HEAD and starts the
  invocation. -/
  | walkerTakeRecord (queue : Nat)
  /-- `WALKER_READ_RETRY` (R345): After a page restore the walker repeats a read that found its page absent. -/
  | walkerReadRetry (queue : Nat)
  /-- `LAUNCH_NODE` (R346): The walker reads the launch record and count words and hands spans to dispatchers. -/
  | launchNode (queue : Nat)
  /-- `CONDITIONAL_NODE` (R346): Reads the condition word and moves to TRUE or FALSE. -/
  | conditionalNode (queue : Nat)
  /-- `WHILE_NODE` (R346): Reads the condition word and iterates or exits. -/
  | whileNode (queue : Nat)
  /-- `FORK_NODE` (R348): Reads the fork width and parent and begins waiting for free VIDs. -/
  | forkNode (queue : Nat)
  /-- `FORK_VIDS_TAKEN` (R348): Once enough VIDs are free the fork takes them and launches the sibling grids. -/
  | forkVidsTaken (queue : Nat)
  /-- `RESOLVE_WAIT_NODE` (R349): Continues once a resolve of the domain has completed since the last fork. -/
  | resolveWaitNode (queue : Nat)
  /-- `RESOLVE_WAIT_TIMEOUT` (R349): On timeout the walker squashes the fork's live VIDs and records status 0x05.
  -/
  | resolveWaitTimeout (queue : Nat)
  /-- `END_NODE` (R346): Ends the invocation. -/
  | endNode (queue : Nat)
  /-- `NODE_STEP_LIMIT` (R346): An invocation starting its 2^20+1-th node step ends with status 0x03. -/
  | nodeStepLimit (queue : Nat)
  /-- `DISPATCH_DECISION` (R351): The dispatcher selects and places at most one gang per fabric cycle. -/
  | dispatchDecision (die : Nat)
  /-- `GANG_AGED` (R354): A candidate waiting AGE fabric cycles becomes aged and reserves a cluster. -/
  | gangAged (die grid : Nat)
  /-- `CORESIDENT_PLACEMENT` (R355): Once every die reports its reservation the co-resident grid's gangs are
  placed and the token passes on. -/
  | coresidentPlacement
  /-- `CLEARING_DONE` (R263): Clearing of the block's allocations ends and its first issue may follow. -/
  | clearingDone (core : Nat)
  /-- `PORT_ARBITRATION` (R356): An issue port chooses the ready warp and PC slot that runs next. -/
  | portArbitration (core port : Nat)
  /-- `RECONVERGENCE_ARRIVAL` (R126): A slot reaching its reconvergence address joins its join frame instead of
  issuing. -/
  | reconvergenceArrival (core warp : Nat) (slot : SlotId)
  /-- `JOINW_COMPLETE` (R129): A waiting JOINW slot completes once it holds the expected live lanes. -/
  | joinwComplete (core warp : Nat) (slot : SlotId)
  /-- `JOINW_TIMEOUT` (R129): A JOINW wait ends when its timeout expires. -/
  | joinwTimeout (core warp : Nat) (slot : SlotId)
  /-- `JOINW_DEADLOCK_BREAK` (R130): When both slots wait at JOINW and neither can complete, the earlier wait ends
  as if timed out. -/
  | joinwDeadlockBreak (core warp : Nat)
  /-- `WARP_TRAP_ENTRY` (R132): After fixed-latency results land, trap registers are written and the slot enters
  the handler. -/
  | warpTrapEntry (core agent : Nat)
  /-- `LINKWATCH_TRAP` (R74): A held link-degradation event is taken at the warp's next issue. -/
  | linkwatchTrap (core warp : Nat)
  /-- `LOAD_DATA_RETURN` (R190): Load or returning-atomic data is written to its destinations and the in-flight
  counter falls in order. -/
  | loadDataReturn (core agent idx : Nat)
  /-- `STORE_ACKNOWLEDGE` (R193): The home slice acknowledges a store and the store counter falls. -/
  | storeAcknowledge (core agent idx : Nat)
  /-- `MESSAGE_ARRIVE` (R47): A message reaches its receive register and a waiting receiver may pop it. -/
  | messageArrive (idx : Nat)
  /-- `BARRIER_DEAD` (R212): A block whose waits no agent can end takes the barrier-dead fault and is killed. -/
  | barrierDead (core : Nat)
  /-- `BUDGET_EXCEEDED` (R358): The watchdog reaching the block budget kills the block. -/
  | budgetExceeded (core : Nat)
  /-- `BLOCK_COMPLETE` (R26): A block whose warps, fragments, access processor and accesses are all done completes
  and frees its core. -/
  | blockComplete (core : Nat)
  /-- `BLOCK_RELEASE` (R264): After engine commands end the block's allocations are released and caches
  invalidated. -/
  | blockRelease (core : Nat)
  /-- `GRID_COMPLETE` (R28): When every block has completed the grid completes as a release to the walker. -/
  | gridComplete (grid : Nat)
  /-- `RUNAHEAD_ENTER` (R359): A warp waiting on a missed global load begins run-ahead. -/
  | runaheadEnter (core warp : Nat)
  /-- `RUNAHEAD_EXIT` (R360): Run-ahead ends, the buffer is discarded and the warp resumes at the waiting
  instruction. -/
  | runaheadExit (core warp : Nat)
  /-- `AP_ACCESS_RESUME` (R386): An access-processor access stalled on an absent page is performed after the
  restore. -/
  | apAccessResume (core : Nat)
  /-- `COPY_VALIDATION` (R201): The copy unit reads and validates the deckle record and the .cp counter falls. -/
  | copyValidation (core idx : Nat)
  /-- `COPY_SECTOR_LAND` (R203): A copied sector lands and is counted into the barrier. -/
  | copySectorLand (core idx : Nat)
  /-- `MATRIX_COMMAND_START` (R232): The matrix engine starts the next queued command, or hands a drain to the
  epilogue processor. -/
  | matrixCommandStart (core : Nat)
  /-- `MATRIX_COMMAND_COMPLETE` (R233): An MMA or MZERO finishes writing its tile. -/
  | matrixCommandComplete (core idx : Nat)
  /-- `DRAIN_COMPLETE` (R239): A drain's writes are acknowledged and it counts 512 units into its barrier. -/
  | drainComplete (core idx : Nat)
  /-- `RESOLVE_APPLY` (R244): The domain's Couch applies a resolve, marking versions and updating acceptance
  counters. -/
  | resolveApply (domain : Nat)
  /-- `RESOLVE_COMPLETE` (R244): Once every slice and member has applied it the resolve returns its status. -/
  | resolveComplete (domain : Nat)
  /-- `SLICE_RESOLVE_NOTICE` (R289): A slice applies a Couch notice between two requests, switching every line at
  once. -/
  | sliceResolveNotice (die slice : Nat)
  /-- `VERSION_NOTICE_APPLY` (R293): An agent applies a squash notice, cancelling the broke version's work. -/
  | versionNoticeApply (core : Nat)
  /-- `SWEEP_PASS_START` (R291): A slice begins a sweep pass over the pending VIDs. -/
  | sweepPassStart (die slice : Nat)
  /-- `SWEEP_VISIT` (R291): The sweep merges couched copies and frees broke copies in one set or spill record. -/
  | sweepVisit (die slice : Nat)
  /-- `SWEEP_PASS_END` (R291): A sweep pass ends. -/
  | sweepPassEnd (die slice : Nat)
  /-- `VID_RECYCLE` (R292): The Couch returns a swept VID to the free pool. -/
  | vidRecycle (domain vid : Nat)
  /-- `PAIR_COMPARE` (R404): When both blocks of a redundant pair complete their signatures are compared and
  committed. -/
  | pairCompare (die pair : Nat)
  /-- `PAIR_RERUN_START` (R405): The pair restarts on the same cores once two new VIDs are free. -/
  | pairRerunStart (die pair : Nat)
  /-- `SLICE_REQUEST` (R278): A slice serves one request per fabric cycle, allocating, filling and replacing as
  needed. -/
  | sliceRequest (core agent idx : Nat)
  /-- `SLICE_REPLY_DELIVER` (R331): A reply from a remote home slice is held until causally deliverable. -/
  | sliceReplyDeliver (core agent idx : Nat)
  /-- `REMOTE_WRITE_APPLY` (R331): A causal write from another die is applied once deliverable. -/
  | remoteWriteApply (die idx : Nat)
  /-- `GUEST_UPDATE_APPLY` (R281): A die applies a guest update of whole sectors in one step. -/
  | guestUpdateApply (die idx : Nat)
  /-- `GUEST_INVALIDATION_APPLY` (R281): A die drops a guest line on an invalidation. -/
  | guestInvalidationApply (die idx : Nat)
  /-- `CLOCK_NOTICE_TIMER` (R332): A die sends a clock notice at least every 4,096 fabric cycles after sending
  causal messages. -/
  | clockNoticeTimer (die : Nat)
  /-- `CLOCK_NOTICE_APPLY` (R332): A die raises its clock entry for the sender on applying a notice. -/
  | clockNoticeApply (die idx : Nat)
  /-- `CLOCK_ACK_REQUEST` (R337): A die asked to acknowledge a clock answers once its entries reach it. -/
  | clockAckRequest (die idx : Nat)
  /-- `CLOCK_ACK` (R337): An acknowledgement of a .sc fence's clock reaches the issuing die. -/
  | clockAck (die idx : Nat)
  /-- `PATROL_SCRUB_VISIT` (R300): The patrol scrub reads a sector and rewrites it if corrected. -/
  | patrolScrubVisit (die sector : Nat) (outcome : EccOutcome)
  /-- `PAGE_WALK` (R310): A walk completes as fatal, not present or resident, filling TLBs and setting DIEA. -/
  | pageWalk (die cluster asid : Nat) (va : W64) (kind : WalkKind)
  /-- `PAGE_RESTORE_START` (R319): The migration engine begins restoring a requested page. -/
  | pageRestoreStart (die frame : Nat)
  /-- `PAGE_RESTORE_COMPLETE` (R320): The page entry is written present and completion is reported. -/
  | pageRestoreComplete (die : Nat)
  /-- `EVICTION_COMMAND` (R321): Firmware asks the migration engine to evict a page, which sets MIG and shoots it
  down. -/
  | evictionCommand (die asid : Nat) (va : W64) (hostFrame : Nat) (hostValid : Bool)
  /-- `EVICTION_COMMIT` (R321): After copying, the engine commits or abandons the eviction by compare-and-swap. -/
  | evictionCommit (die : Nat)
  /-- `SHOOTDOWN_REQUEST` (R316): A die receives a shootdown request for a page. -/
  | shootdownRequest (die asid : Nat) (va : W64)
  /-- `SHOOTDOWN_ACK` (R316): A die acknowledges once walks end, entries are removed and accesses complete. -/
  | shootdownAck (die idx : Nat)
  /-- `GRID_HALT_REPORT` (R394): The coordinator receives a fatal report, records the first or second fault and
  sends halts. -/
  | gridHaltReport (idx : Nat)
  /-- `HALT_ARRIVE` (R394): A die stops every block of the halting grid and cancels unvalidated commands. -/
  | haltArrive (die grid : Nat)
  /-- `DUMP_RECORD_WRITE` (R398): After its engine commands end a stopped block's dump record is written. -/
  | dumpRecordWrite (core : Nat)
  /-- `DUMP_HEADER_WRITE` (R396): The die writes its dump header after all its records. -/
  | dumpHeaderWrite (die grid : Nat)
  /-- `HALT_COMPLETE` (R400): When every die has written its header the invocation ends with status 0x04. -/
  | haltComplete (grid : Nat)
  /-- `REGFILE_SCRUB` (R401): The register-file scrub reads a register and corrects or poisons it. -/
  | regfileScrub (core agent reg lane : Nat) (outcome : EccOutcome)
  /-- `ERROR_REPORT` (R407): An error writes a log record and is signalled by the owning function. -/
  | errorReport (die : Nat) (record : ErrRecord) (place : ErrorPlace)
  /-- `NETWORK_FLIT_HOP` (R414): A switch forwards a flit on an upward or downward port. -/
  | networkFlitHop (idx : Nat)
  /-- `BRIDGE_DELIVER` (R416): A destination bridge delivers causal flits in CSEQ order. -/
  | bridgeDeliver (die src : Nat)
  /-- `FELT_FLIT_RECEIVE` (R419): A felt receiver checks a flit's CRC and delivers or discards it. `module` counts on by 8 for the other direction of its module. -/
  | feltFlitReceive (bundle module : Nat) (crcOk : Bool)
  /-- `FELT_REPLAY` (R419): The sender retransmits the failed flit and every later unacknowledged flit. `module` is as in FELT_FLIT_RECEIVE. -/
  | feltReplay (bundle module : Nat)
  /-- `REPLAY_WINDOW_EXPIRY` (R380): A 2^24-cycle window ends and REPLAYWIN clears. -/
  | replayWindowExpiry (bundle module : Nat)
  /-- `MODULE_RETRAIN` (R421): After 16 retransmissions of one flit the module retrains. -/
  | moduleRetrain (bundle module failing : Nat)
  /-- `RETRAIN_COMPLETE` (R421): The retrain applies the first applicable degradation step. -/
  | retrainComplete (bundle module : Nat)
  /-- `BUNDLE_DRAIN_COMPLETE` (R420): All sent flits are acknowledged and the new module mapping applies. -/
  | bundleDrainComplete (bundle : Nat)
  /-- `UALINK_REQUEST_RECEIVE` (R424): An incoming UALink request goes to its home slice at class 5. -/
  | ualinkRequestReceive (req : UaRequest)
  /-- `UALINK_BARRIER_SIGNAL` (R426): A barrier signal completes once its counted sectors are performed at the
  peer. -/
  | ualinkBarrierSignal (signal : UaSignal)
  /-- `UALINK_RESPONSE` (R425): A UALink response completes the access; an error response raises the fatal address
  fault. -/
  | ualinkResponse (id : Nat) (error : Bool) (data : BitVec 256)
  /-- `UALINK_PORT_STATE_CHANGE` (R423): A port changing state drains the affected ports. -/
  | ualinkPortStateChange (port : Nat) (up : Bool)
  /-- `HOST_BAR4_ACCESS` (R430): A host read or write through BAR4 is a committed access at its home slice. -/
  | hostBar4Access (addr : Nat) (write : Bool) (data : List W8) (len : Nat)
  /-- `QUEUE_DESCRIPTOR_WRITE` (R342): A driver write to a host queue descriptor, with its ENABLE and field rules.
  -/
  | queueDescriptorWrite (queue : QueueWrite) (desc : BitVec 256)
  /-- `EGRESS_DESCRIPTOR_WRITE` (R251): Firmware configures a domain's egress ring. -/
  | egressDescriptorWrite (domain : Nat) (desc : BitVec 256)
  /-- `EGRESS_HCUR_WRITE` (R253): The host raises HCUR, freeing ring room for waiting EGRSV. -/
  | egressHcurWrite (domain : Nat) (value : W32)
  /-- `SHARE_TABLE_WRITE` (R353): Firmware writes a domain's draft share entry. -/
  | shareTableWrite (die domain : Nat) (value : W32)
  /-- `AGE_THRESHOLD_WRITE` (R354): Firmware sets the aging threshold; out-of-range values are ignored. -/
  | ageThresholdWrite (die value : Nat)
  /-- `KV_POOL_DESCRIPTOR_WRITE` (R370): Firmware writes a KV pool descriptor, copied to every die. -/
  | kvPoolDescriptorWrite (die pool : Nat) (desc : BitVec 512)
  /-- `LOGBASE_WRITE` (R372): Firmware sets the allocation-log base. -/
  | logbaseWrite (die value : Nat)
  /-- `DUMP_REGION_WRITE` (R396): Firmware sets DUMPBASE and DUMPSIZE. -/
  | dumpRegionWrite (die base size : Nat)
  /-- `MEMBERS_WRITE` (R369): Firmware sets a domain's member packages while every VID is free. -/
  | membersWrite (domain : Nat) (mask : W32)
  /-- `ACCEPT_COUNTER_WRITE` (R378): Firmware writes an acceptance counter in the domain's order. -/
  | acceptCounterWrite (domain : Nat) (which : AcceptReg) (value : Nat)
  /-- `PCCTL_CLEAR` (R381): Clears every firmware counter of the die in one fabric cycle. -/
  | pcctlClear (die : Nat)
  /-- `PCCTL_FREEZE` (R381): Stops or resumes the die's firmware counters. -/
  | pcctlFreeze (die : Nat) (freeze : Bool)
  /-- `COUNTER_ZERO_WRITE` (R379): Firmware writes zero to a firmware counter. -/
  | counterZeroWrite (die : Nat) (counter : CounterId) (value : Nat)
  /-- `LINK_REGISTER_WRITE` (R77): Firmware writes link registers during bring-up or rate and width changes. -/
  | linkRegisterWrite (bundle module : Nat) (which : LinkReg) (value : Nat)
  /-- `LINK_RATE_CHANGE` (R418): Firmware raises or lowers a module's rate or restores its width after a drain. -/
  | linkRateChange (bundle module rate width : Nat)
  /-- `PEER_SLOT_TABLE_WRITE` (R305): Firmware writes a peer-slot entry on every die. -/
  | peerSlotTableWrite (slot package : Nat) (valid : Bool)
  /-- `ADDRESS_SPACE_TABLE_WRITE` (R306): Firmware sets an address space's level-3 table and valid bit. -/
  | addressSpaceTableWrite (asid root : Nat) (valid : Bool)
  /-- `RSTREQ_WRITE` (R446): Writing the magic value to RSTREQ requests a warm reset. -/
  | rstreqWrite (value : W32)
  /-- `REGISTER_WRITE` (R6): A write to a management register without a row of its own, following its access code.
  -/
  | registerWrite (reg : MgmtReg) (value : W64)
  /-- `MCTP_WARM_RESET_REQUEST` (R446): The MCTP Warm Reset message is answered and a warm reset begins. -/
  | mctpWarmResetRequest (path : MgmtPath)
  /-- `SPDM_REQUEST` (R449): An SPDM request over DOE or MCTP is answered with signed measurements. -/
  | spdmRequest (path : MgmtPath) (request : SpdmRequest)
  /-- `COLD_RESET` (R445): Cold reset clears all state and runs the boot sequence. -/
  | coldReset
  /-- `BOOT_IMAGE_TIMEOUT` (R447): If I3C offers no image within 2 s the host path is used. -/
  | bootImageTimeout
  /-- `FIRMWARE_IMAGE_OFFER` (R447): In recovery a new firmware image is offered and verified. -/
  | firmwareImageOffer (image : FirmwareImage)
  /-- `WARM_RESET` (R301): Warm reset writes back dirty data, discards versions and frees every VID. -/
  | warmReset
  /-- `FUNCTION_LEVEL_RESET` (R445): Resets one function's queues and kills its grids with code 0x37. -/
  | functionLevelReset (fn : Nat)
  /-- `POWER_LIMIT_THROTTLE` (R443): Module input above 11.5 kW lowers every die's core clock by a step. -/
  | powerLimitThrottle (watts : Nat)
  /-- `POWER_CLOCK_RESTORE` (R443): After 10 ms below 11.0 kW the core clock is raised again. -/
  | powerClockRestore (watts millis : Nat)
  /-- `SECURITY_SENSOR_TRIP` (R450): A tripped sensor raises event 0x52 and logs or erases keys and stops. -/
  | securitySensorTrip (die : Nat) (sensor : Sensor)
  /-- `SELF_REFRESH_ENTRY` (R301): Firmware places an idle HBM stack in self-refresh, keeping every byte and
  poison codeword. -/
  | selfRefreshEntry (stack : Nat)
  /-- `SELF_REFRESH_EXIT` (R301): A stack in self-refresh finishes exiting, and the requests that waited on it
  proceed. -/
  | selfRefreshExit (stack : Nat)
  /-- `SCRUB_WITH_CLEAR` (R299): Firmware scrubs a sector with clear, writing zeros with a valid check field and
  removing its poison. -/
  | scrubWithClear (die sector : Nat)
  /-- `HOST_MEMORY_COMPLETION` (R335): A completion or acknowledgement over PCIe arrives for a device-initiated
  read or write of host memory. -/
  | hostMemoryCompletion (idx : Nat)
  deriving DecidableEq, Repr

end Sys2Proof
end

