-- ==== Sys2Proof/WellFormed.lean ====
section
/-! DEFINITION. Which terms of `Instr` are instructions or steps of the part: the MOD values that an entry assigns
(R101), the operand codes of an epilogue word (R238), and the numbers that name a core, a die, a domain and so on. -/

namespace Sys2Proof

/-- Bits [lo + len - 1 : lo] of a word. -/
def fld (lo len : Nat) (w : W32) : BitVec len := w.extractLsb' lo len

/-- The MOD values of `COPY`: direction in bit 3 and a local space of `.g`, `.sh`, `.tw`, `.ta`; `.ta` only inward
(R200). -/
def copyModOk (m : BitVec 4) : Bool :=
  m.toNat == 0x0 || m.toNat == 0x2 || m.toNat == 0x3 || m.toNat == 0x4 || m.toNat == 0x8 || m.toNat == 0xA ||
    m.toNat == 0xB

/-- Cores are numbered die × 128 + `CORENUM` over the package (R10, R60). -/
def coreOk (n : Nat) : Bool := n < 1536

/-- A warp 0 to 15, or the access processor as agent 16 (R396). -/
def agentOk (n : Nat) : Bool := n ≤ 16

/-- Well-formed instructions and steps. -/
def Instr.wf (i : Instr) : Bool :=
  match i with
  | .pmovCc _ _ m => 3 ≤ m.toNat && m.toNat ≤ 8
  | .faddT _ _ _ t _ => t ≠ 0#2
  | .fsubT _ _ _ t _ => t ≠ 0#2
  | .fmulT _ _ _ t _ => t ≠ 0#2
  | .fminT _ _ _ t => t ≠ 0#2
  | .fmaxT _ _ _ t => t ≠ 0#2
  | .fnegT _ _ t => t ≠ 0#2
  | .fabsT _ _ t => t ≠ 0#2
  | .fclampT _ _ _ t => t ≠ 0#2
  | .froundT _ _ t _ => t ≠ 0#2
  | .fscaleT _ _ _ t _ => t ≠ 0#2
  | .cvt _ _ _ _ m => m.toNat ≤ 4
  | .cvtpk2 _ _ _ m => m.toNat ≤ 4
  | .cvtpk4 _ _ _ m => m.toNat ≤ 4
  | .mxq _ _ _ m => m.toNat ≤ 4
  | .reduce _ _ m => m.toNat ≤ 0xA
  | .scan _ _ m => m.toNat ≤ 0xA
  | .argmax _ _ m => m.toNat ≤ 2
  | .copy _ _ m => copyModOk m
  | .fence _ s => s.toNat ≤ 6
  | .fenceComplete core agent => coreOk core && agentOk agent
  | .claimGrant core => coreOk core
  | .mma _ _ _ m => m.toNat ≤ 8
  | .emulatedMajor w => 0x32 ≤ (fld 26 6 w).toNat && (fld 26 6 w).toNat ≤ 0x3E
  | .ecvt _ _ c => c.toNat ≤ 5
  | .est _ z => z.toNat ≤ 2
  | .estg _ z => z.toNat ≤ 2
  | .doorbellWrite fn _ _ _ => decide (fn ≤ 32)
  | .walkerTakeRecord queue => decide (queue < 18432)
  | .walkerReadRetry queue => decide (queue < 18432)
  | .launchNode queue => decide (queue < 18432)
  | .conditionalNode queue => decide (queue < 18432)
  | .whileNode queue => decide (queue < 18432)
  | .forkNode queue => decide (queue < 18432)
  | .forkVidsTaken queue => decide (queue < 18432)
  | .resolveWaitNode queue => decide (queue < 18432)
  | .resolveWaitTimeout queue => decide (queue < 18432)
  | .endNode queue => decide (queue < 18432)
  | .nodeStepLimit queue => decide (queue < 18432)
  | .dispatchDecision die => decide (die < 12)
  | .gangAged die _ => decide (die < 12)
  | .clearingDone core => coreOk core
  | .portArbitration core port => coreOk core && decide (port < 4)
  | .reconvergenceArrival core warp _ => coreOk core && decide (warp < 16)
  | .joinwComplete core warp _ => coreOk core && decide (warp < 16)
  | .joinwTimeout core warp _ => coreOk core && decide (warp < 16)
  | .joinwDeadlockBreak core warp => coreOk core && decide (warp < 16)
  | .warpTrapEntry core agent => coreOk core && agentOk agent
  | .linkwatchTrap core warp => coreOk core && decide (warp < 16)
  | .loadDataReturn core agent _ => coreOk core && agentOk agent
  | .storeAcknowledge core agent _ => coreOk core && agentOk agent
  | .barrierDead core => coreOk core
  | .budgetExceeded core => coreOk core
  | .blockComplete core => coreOk core
  | .blockRelease core => coreOk core
  | .runaheadEnter core warp => coreOk core && decide (warp < 16)
  | .runaheadExit core warp => coreOk core && decide (warp < 16)
  | .apAccessResume core => coreOk core
  | .copyValidation core _ => coreOk core
  | .copySectorLand core _ => coreOk core
  | .matrixCommandStart core => coreOk core
  | .matrixCommandComplete core _ => coreOk core
  | .drainComplete core _ => coreOk core
  | .resolveApply domain => decide (domain < 64)
  | .resolveComplete domain => decide (domain < 64)
  | .sliceResolveNotice die slice => decide (die < 12) && decide (slice < 64)
  | .versionNoticeApply core => coreOk core
  | .sweepPassStart die slice => decide (die < 12) && decide (slice < 64)
  | .sweepVisit die slice => decide (die < 12) && decide (slice < 64)
  | .sweepPassEnd die slice => decide (die < 12) && decide (slice < 64)
  | .vidRecycle domain vid => decide (domain < 64) && decide (vid < 256)
  | .pairCompare die pair => decide (die < 12) && decide (pair < 64)
  | .pairRerunStart die pair => decide (die < 12) && decide (pair < 64)
  | .sliceRequest core agent _ => coreOk core && (agentOk agent || agent == 18)
  | .sliceReplyDeliver core agent _ => coreOk core && (agentOk agent || agent == 18)
  | .remoteWriteApply die _ => decide (die < 12)
  | .guestUpdateApply die _ => decide (die < 12)
  | .guestInvalidationApply die _ => decide (die < 12)
  | .clockNoticeTimer die => decide (die < 12)
  | .clockNoticeApply die _ => decide (die < 12)
  | .clockAckRequest die _ => decide (die < 12)
  | .clockAck die _ => decide (die < 12)
  | .patrolScrubVisit die _ _ => decide (die < 12)
  | .pageWalk die cluster asid _ _ => decide (die < 12) && decide (cluster < 16) && decide (asid < 256)
  | .pageRestoreStart die _ => decide (die < 12)
  | .pageRestoreComplete die => decide (die < 12)
  | .evictionCommand die asid _ _ _ => decide (die < 12) && decide (asid < 256)
  | .evictionCommit die => decide (die < 12)
  | .shootdownRequest die asid _ => decide (die < 12) && decide (asid < 256)
  | .shootdownAck die _ => decide (die < 12)
  | .haltArrive die _ => decide (die < 12)
  | .dumpRecordWrite core => coreOk core
  | .dumpHeaderWrite die _ => decide (die < 12)
  | .regfileScrub core agent reg lane _ => coreOk core && agentOk agent && decide (reg < 64) && decide (lane < 32)
  | .errorReport die _ _ => decide (die < 12)
  | .bridgeDeliver die src => decide (die < 12) && decide (src < 12)
  | .feltFlitReceive bundle module _ => decide (bundle < 16) && decide (module < 16)
  | .feltReplay bundle module => decide (bundle < 16) && decide (module < 16)
  | .replayWindowExpiry bundle module => decide (bundle < 16) && decide (module < 8)
  | .moduleRetrain bundle module _ => decide (bundle < 16) && decide (module < 8)
  | .retrainComplete bundle module => decide (bundle < 16) && decide (module < 8)
  | .bundleDrainComplete bundle => decide (bundle < 16)
  | .ualinkPortStateChange port _ => decide (port < 18)
  | .queueDescriptorWrite queue _ => decide (queue.fn ≤ 32) && decide (queue.queue < 18432)
  | .egressDescriptorWrite domain _ => decide (domain < 64)
  | .egressHcurWrite domain _ => decide (domain < 64)
  | .shareTableWrite die domain _ => decide (die < 12) && decide (domain < 64)
  | .ageThresholdWrite die _ => decide (die < 12)
  | .kvPoolDescriptorWrite die pool _ => decide (die < 12) && decide (pool < 256)
  | .logbaseWrite die _ => decide (die < 12)
  | .dumpRegionWrite die _ _ => decide (die < 12)
  | .membersWrite domain _ => decide (domain < 64)
  | .acceptCounterWrite domain _ _ => decide (domain < 64)
  | .pcctlClear die => decide (die < 12)
  | .pcctlFreeze die _ => decide (die < 12)
  | .counterZeroWrite die _ _ => decide (die < 12)
  | .linkRegisterWrite bundle module _ _ => decide (bundle < 16) && decide (module < 8)
  | .linkRateChange bundle module _ _ => decide (bundle < 16) && decide (module < 8)
  | .peerSlotTableWrite slot _ _ => decide (slot < 32)
  | .addressSpaceTableWrite asid _ _ => decide (asid < 256)
  | .functionLevelReset fn => decide (fn ≤ 32)
  | .securitySensorTrip die _ => decide (die < 12)
  | .selfRefreshEntry stack => decide (stack < 24)
  | .selfRefreshExit stack => decide (stack < 24)
  | .scrubWithClear die _ => decide (die < 12)
  | .nop => true
  | .yield => true
  | .trap _ => true
  | .bkpt _ => true
  | .rtt => true
  | .rttAdv => true
  | .mfs _ _ => true
  | .mts _ _ => true
  | .exit => true
  | .jmp _ => true
  | .callReg _ _ => true
  | .callDisp _ => true
  | .ret _ => true
  | .loop _ => true
  | .loopbrk => true
  | .bra _ => true
  | .brv => true
  | .reconv => true
  | .joinw _ _ => true
  | .fragwake _ => true
  | .sadd _ _ _ _ => true
  | .ssub _ _ _ _ => true
  | .smul _ _ _ _ => true
  | .smulh _ _ _ _ => true
  | .sdiv _ _ _ _ => true
  | .sand _ _ _ _ => true
  | .sor _ _ _ _ => true
  | .sxor _ _ _ _ => true
  | .sshl _ _ _ _ => true
  | .sshr _ _ _ _ => true
  | .ssra _ _ _ _ => true
  | .smin _ _ _ _ _ => true
  | .smax _ _ _ _ _ => true
  | .scmp _ _ _ _ _ => true
  | .ssel _ _ _ _ => true
  | .spopc _ _ => true
  | .sclz _ _ => true
  | .sbfe _ _ _ _ => true
  | .sbfi _ _ _ => true
  | .smov _ _ => true
  | .smovAq _ _ => true
  | .saddi _ _ _ => true
  | .sli _ _ => true
  | .pand _ _ _ _ => true
  | .por _ _ _ _ => true
  | .pxor _ _ _ => true
  | .pnot _ _ => true
  | .pmovPp _ _ => true
  | .pmovPs _ _ => true
  | .pmovSp _ _ => true
  | .pseti _ => true
  | .ppopc _ _ => true
  | .pfirst _ _ => true
  | .vadd _ _ _ _ => true
  | .vsub _ _ _ _ => true
  | .vaddc _ _ _ => true
  | .vmul _ _ _ _ => true
  | .vmulh _ _ _ _ => true
  | .vmad _ _ _ => true
  | .vand _ _ _ _ => true
  | .vor _ _ _ _ => true
  | .vxor _ _ _ _ => true
  | .vshl _ _ _ _ => true
  | .vshr _ _ _ _ => true
  | .vsra _ _ _ _ => true
  | .vmin _ _ _ _ _ => true
  | .vmax _ _ _ _ _ => true
  | .vabsd _ _ _ _ => true
  | .vpopc _ _ => true
  | .vclz _ _ => true
  | .vbfe _ _ _ _ => true
  | .vbfi _ _ _ => true
  | .vmov _ _ => true
  | .vmovFromMqi _ _ => true
  | .vmovToMqo _ _ => true
  | .vdot4 _ _ _ _ => true
  | .vaddi _ _ _ => true
  | .vli _ _ => true
  | .vcmpEq _ _ _ _ => true
  | .vcmpNe _ _ _ _ => true
  | .vcmpLt _ _ _ _ _ => true
  | .vcmpLe _ _ _ _ _ => true
  | .vcmpGt _ _ _ _ _ => true
  | .vcmpGe _ _ _ _ _ => true
  | .vsel _ _ _ _ => true
  | .fadd _ _ _ _ => true
  | .fsub _ _ _ _ => true
  | .fmul _ _ _ _ => true
  | .fmin _ _ _ => true
  | .fmax _ _ _ => true
  | .fcmp _ _ _ _ => true
  | .fneg _ _ => true
  | .fabs _ _ => true
  | .fclamp _ _ _ => true
  | .fdot2 _ _ _ _ => true
  | .fround _ _ _ => true
  | .fscale _ _ _ _ => true
  | .fcmpF64 _ _ _ _ => true
  | .fdot2Packed _ _ _ _ _ => true
  | .ffma _ _ _ _ _ => true
  | .exp2 _ _ => true
  | .lg2 _ _ => true
  | .rcp _ _ _ => true
  | .rsq _ _ _ => true
  | .sqrt _ _ _ => true
  | .cvtwide _ _ _ => true
  | .mxscale _ _ _ => true
  | .perm _ _ _ => true
  | .permx _ _ _ => true
  | .shflup _ _ _ => true
  | .shfldn _ _ _ => true
  | .bcastReg _ _ _ => true
  | .bcastImm _ _ _ => true
  | .voteBallot _ _ => true
  | .voteAny _ _ => true
  | .voteAll _ _ => true
  | .voteUni _ _ => true
  | .matchAny _ _ => true
  | .matchFirst _ _ => true
  | .ld _ _ _ => true
  | .ldc _ _ _ => true
  | .st _ _ _ => true
  | .ldIndexed _ _ _ _ _ _ => true
  | .stIndexed _ _ _ _ _ _ => true
  | .lds _ _ _ => true
  | .sts _ _ _ => true
  | .ldsh _ _ _ => true
  | .stsh _ _ _ => true
  | .ldl _ _ _ => true
  | .stl _ _ _ => true
  | .ldts _ _ _ => true
  | .stts _ _ _ => true
  | .atom _ _ _ _ => true
  | .atomcas _ _ _ _ => true
  | .atomsh _ _ _ _ => true
  | .red _ _ _ _ => true
  | .tbinit _ _ => true
  | .tbexpect _ _ => true
  | .tbarrive _ => true
  | .tbwait _ _ _ => true
  | .femark _ _ => true
  | .fepoll _ _ => true
  | .bar _ => true
  | .bararr _ => true
  | .barwait _ => true
  | .bardrop _ => true
  | .waitcReg _ _ => true
  | .waitcImm _ _ => true
  | .waitb _ => true
  | .tfence => true
  | .aqpush _ _ => true
  | .aqclose _ => true
  | .mqbind _ _ => true
  | .mqtry _ _ => true
  | .rgive _ => true
  | .rclaim _ => true
  | .rclaimT _ _ => true
  | .mzero _ => true
  | .mbatch _ => true
  | .episet _ _ => true
  | .drain _ _ _ => true
  | .resolveC _ _ _ => true
  | .resolveS _ _ _ => true
  | .vidq _ _ _ => true
  | .vidqFree _ _ => true
  | .specchk _ => true
  | .specchkLive _ => true
  | .sigsync _ => true
  | .egrsv _ _ => true
  | .egpub _ => true
  | .egpush _ _ => true
  | .egrel _ _ _ => true
  | .egrelV _ _ _ => true
  | .kvxl _ _ _ => true
  | .kvappend _ _ _ => true
  | .kvmap _ _ _ => true
  | .flpop _ _ => true
  | .flpush _ _ => true
  | .pref _ _ => true
  | .prefRo _ _ => true
  | .cinvRo => true
  | .cinvL1 => true
  | .pgreq _ _ => true
  | .tlbinv _ => true
  | .tlbinvAll => true
  | .vdot4I16 _ _ _ _ => true
  | .vdot4I4 _ _ _ _ => true
  | .vmovBt _ _ => true
  | .vorBmm _ _ _ => true
  | .vxorBmm _ _ _ => true
  | .ximm _ => true
  | .enop => true
  | .eadd _ _ _ => true
  | .emul _ _ _ => true
  | .efma _ _ _ => true
  | .emax _ _ _ => true
  | .emin _ _ _ => true
  | .eclamp _ _ _ => true
  | .eexp2 _ _ => true
  | .emovReg _ _ => true
  | .emovImm _ _ => true
  | .esel _ _ _ => true
  | .erow _ => true
  | .ecol _ => true
  | .eldb _ _ => true
  | .elds _ _ => true
  | .ered _ => true
  | .esig _ => true
  | .eend => true
  | .coresidentPlacement => true
  | .messageArrive _ => true
  | .gridComplete _ => true
  | .gridHaltReport _ => true
  | .haltComplete _ => true
  | .networkFlitHop _ => true
  | .ualinkRequestReceive _ => true
  | .ualinkBarrierSignal _ => true
  | .ualinkResponse _ _ _ => true
  | .hostBar4Access _ _ _ _ => true
  | .rstreqWrite _ => true
  | .registerWrite _ _ => true
  | .mctpWarmResetRequest _ => true
  | .spdmRequest _ _ => true
  | .coldReset => true
  | .bootImageTimeout => true
  | .firmwareImageOffer _ => true
  | .warmReset => true
  | .powerLimitThrottle _ => true
  | .powerClockRestore _ _ => true
  | .hostMemoryCompletion _ => true

end Sys2Proof
end

