-- ==== Sys2Proof/Decode.lean ====
section
/-! DEFINITION. Decoding an instruction word (R95 to R102), and after it the encoder, both from the encoding tables of
spec/04, 02, 05 to 10. A word decodes together with the XIMM prefixes before it, because the attribute of an XIMM
(R98) decides which memory instruction majors 0x12 to 0x17 hold. -/

namespace Sys2Proof

/-- The 26 bits an XIMM carries (R95, format X). -/
abbrev Ximm := BitVec 26

/-- The attribute of a format-E access: bits [9:0] of the XIMM before it, or the major's default (R98). -/
def attrOf (dflt : BitVec 10) (xs : List Ximm) : BitVec 10 :=
  match xs with
  | [x] => x.extractLsb' 0 10
  | _ => dflt

/-- The default attribute of majors 0x12, 0x13, 0x16 and 0x17 (R98). -/
def defaultAttr (major : Nat) : BitVec 10 :=
  match major with
  | 0x13 => 0x280#10
  | 0x16 => 0x0C0#10
  | 0x17 => 0x090#10
  | _ => 0x080#10

/-- DIR of an attribute: true for a store (R98). -/
def attrStore (t : BitVec 10) : Bool := t.getLsbD 9

/-- SIZE of an attribute (R98). -/
def attrSize (t : BitVec 10) : BitVec 3 := t.extractLsb' 6 3

/-- SPACE of an attribute (R98). -/
def attrSpace (t : BitVec 10) : BitVec 3 := t.extractLsb' 3 3

/-- MODE of an attribute (R98). -/
def attrMode (t : BitVec 10) : BitVec 3 := t.extractLsb' 0 3

/-- Majors 0x12 to 0x17: the memory accesses. In 0x12 the consume mode makes an `LDC`; in 0x16 DIR chooses `LDS` or
`STS`; in 0x17 DIR and SPACE choose among the six core-local accesses (R102, R188). A space that the major forbids
(R98) is left to the check of the attribute. -/
def decodeMemory (xs : List Ximm) (major : Nat) (w : W32) : Option (Instr × Bool) :=
  let t := attrOf (defaultAttr major) xs
  let d := fld 20 6 w
  let a := fld 14 6 w
  let o := fld 0 14 w
  match major with
  | 0x12 => if attrMode t = 4#3 then some (.ldc d a o, true) else some (.ld d a o, true)
  | 0x13 => some (.st d a o, true)
  | 0x14 => some (.ldIndexed d a (fld 8 6 w) (fld 6 2 w) (fld 3 3 w) (fld 0 3 w), true)
  | 0x15 => some (.stIndexed d a (fld 8 6 w) (fld 6 2 w) (fld 3 3 w) (fld 0 3 w), true)
  | 0x16 => if attrStore t then some (.sts d a o, true) else some (.lds d a o, true)
  | 0x17 =>
    if attrStore t then
      if attrSpace t = 1#3 then some (.stl d a o, true)
      else if attrSpace t = 3#3 ∨ attrSpace t = 4#3 ∨ attrSpace t = 5#3 then some (.stts d a o, true)
      else some (.stsh d a o, true)
    else
      if attrSpace t = 1#3 then some (.ldl d a o, true)
      else if attrSpace t = 3#3 ∨ attrSpace t = 4#3 ∨ attrSpace t = 5#3 then some (.ldts d a o, true)
      else some (.ldsh d a o, true)
  | _ => none

/-- Major 0x00, chosen by fn [7:0] (R102). -/
def decodeMajor00 (w : W32) : Option (Instr × Bool) :=
  if w &&& 0xFF#32 = 0x00#32 then some (.nop, w &&& 0x3FFFF00#32 == 0#32)
  else if w &&& 0xFF#32 = 0x10#32 then some (.yield, w &&& 0x3FFFF00#32 == 0#32)
  else if w &&& 0xFF#32 = 0x20#32 then some (.trap (fld 8 8 w), w &&& 0x3FF0000#32 == 0#32)
  else if w &&& 0xFF#32 = 0x30#32 then some (.bkpt (fld 8 8 w), w &&& 0x3FF0000#32 == 0#32)
  else if w &&& 0xFF#32 = 0x40#32 then some (.rtt, w &&& 0x3FFFF00#32 == 0#32)
  else if w &&& 0xFF#32 = 0x41#32 then some (.rttAdv, w &&& 0x3FFFF00#32 == 0#32)
  else if w &&& 0xFF#32 = 0x50#32 then some (.mfs (fld 20 6 w) (fld 8 12 w), true)
  else if w &&& 0xFF#32 = 0x60#32 then some (.mts (fld 20 6 w) (fld 8 12 w), true)
  else if w &&& 0xFF#32 = 0x70#32 then some (.exit, w &&& 0x3FFFF00#32 == 0#32)
  else if w &&& 0xFF#32 = 0x80#32 then some (.jmp (fld 14 6 w), w &&& 0x3F03F00#32 == 0#32)
  else if w &&& 0xFF#32 = 0x90#32 then some (.callReg (fld 20 6 w) (fld 14 6 w), w &&& 0x3F00#32 == 0#32)
  else if w &&& 0xFF#32 = 0x91#32 then some (.callDisp (fld 20 6 w), w &&& 0xFFF00#32 == 0#32)
  else if w &&& 0xFF#32 = 0xA0#32 then some (.ret (fld 14 6 w), w &&& 0x3F03F00#32 == 0#32)
  else if w &&& 0xFF#32 = 0xB0#32 then some (.loop (fld 14 6 w), w &&& 0x3F03F00#32 == 0#32)
  else if w &&& 0xFF#32 = 0xC0#32 then some (.loopbrk, w &&& 0x3FFFF00#32 == 0#32)
  else none

/-- Major 0x01: BRA, format D (R102). -/
def decodeMajor01 (w : W32) : Option (Instr × Bool) := some (.bra (fld 0 26 w), true)

/-- Major 0x02, chosen by fn [7:0] (R102). -/
def decodeMajor02 (w : W32) : Option (Instr × Bool) :=
  if w &&& 0xFF#32 = 0x00#32 then some (.brv, w &&& 0x3FFFF00#32 == 0#32)
  else if w &&& 0xFF#32 = 0x10#32 then some (.reconv, w &&& 0x3FFFF00#32 == 0#32)
  else if w &&& 0xFF#32 = 0x20#32 then some (.joinw (fld 20 6 w) (fld 14 6 w), w &&& 0x3F00#32 == 0#32)
  else if w &&& 0xFF#32 = 0x30#32 then some (.fragwake (fld 14 6 w), w &&& 0x3F03F00#32 == 0#32)
  else none

/-- Major 0x03, chosen by fn [7:0] (R102). -/
def decodeMajor03 (w : W32) : Option (Instr × Bool) :=
  if w &&& 0xBF#32 = 0x00#32 then some (.sadd (fld 20 6 w) (fld 14 6 w) (fld 8 6 w) (fld 6 1 w), true)
  else if w &&& 0xBF#32 = 0x01#32 then some (.ssub (fld 20 6 w) (fld 14 6 w) (fld 8 6 w) (fld 6 1 w), true)
  else if w &&& 0xBF#32 = 0x02#32 then some (.smul (fld 20 6 w) (fld 14 6 w) (fld 8 6 w) (fld 6 1 w), true)
  else if w &&& 0x7F#32 = 0x03#32 then some (.smulh (fld 20 6 w) (fld 14 6 w) (fld 8 6 w) (fld 7 1 w), true)
  else if w &&& 0x7F#32 = 0x04#32 then some (.sdiv (fld 20 6 w) (fld 14 6 w) (fld 8 6 w) (fld 7 1 w), true)
  else if w &&& 0xBF#32 = 0x05#32 then some (.sand (fld 20 6 w) (fld 14 6 w) (fld 8 6 w) (fld 6 1 w), true)
  else if w &&& 0xBF#32 = 0x06#32 then some (.sor (fld 20 6 w) (fld 14 6 w) (fld 8 6 w) (fld 6 1 w), true)
  else if w &&& 0xBF#32 = 0x07#32 then some (.sxor (fld 20 6 w) (fld 14 6 w) (fld 8 6 w) (fld 6 1 w), true)
  else if w &&& 0xBF#32 = 0x08#32 then some (.sshl (fld 20 6 w) (fld 14 6 w) (fld 8 6 w) (fld 6 1 w), true)
  else if w &&& 0xBF#32 = 0x09#32 then some (.sshr (fld 20 6 w) (fld 14 6 w) (fld 8 6 w) (fld 6 1 w), true)
  else if w &&& 0xBF#32 = 0x0A#32 then some (.ssra (fld 20 6 w) (fld 14 6 w) (fld 8 6 w) (fld 6 1 w), true)
  else if w &&& 0x3F#32 = 0x0B#32 then some (.smin (fld 20 6 w) (fld 14 6 w) (fld 8 6 w) (fld 7 1 w) (fld 6 1 w), true)
  else if w &&& 0x3F#32 = 0x0C#32 then some (.smax (fld 20 6 w) (fld 14 6 w) (fld 8 6 w) (fld 7 1 w) (fld 6 1 w), true)
  else if w &&& 0x3F#32 = 0x0D#32 then some (.scmp (fld 20 6 w) (fld 14 6 w) (fld 8 6 w) (fld 7 1 w) (fld 6 1 w), true)
  else if w &&& 0xBF#32 = 0x0E#32 then some (.ssel (fld 20 6 w) (fld 14 6 w) (fld 8 6 w) (fld 6 1 w), true)
  else if w &&& 0xFF#32 = 0x0F#32 then some (.spopc (fld 20 6 w) (fld 14 6 w), w &&& 0x3F00#32 == 0#32)
  else if w &&& 0xFF#32 = 0x10#32 then some (.sclz (fld 20 6 w) (fld 14 6 w), w &&& 0x3F00#32 == 0#32)
  else if w &&& 0x7F#32 = 0x11#32 then some (.sbfe (fld 20 6 w) (fld 14 6 w) (fld 8 6 w) (fld 7 1 w), true)
  else if w &&& 0xFF#32 = 0x12#32 then some (.sbfi (fld 20 6 w) (fld 14 6 w) (fld 8 6 w), true)
  else if w &&& 0xFF#32 = 0x13#32 then some (.smov (fld 20 6 w) (fld 14 6 w), w &&& 0x3F00#32 == 0#32)
  else if w &&& 0xFF#32 = 0x14#32 then some (.smovAq (fld 20 6 w) (fld 14 6 w), w &&& 0x3F00#32 == 0#32)
  else none

/-- Major 0x04 (R102). -/
def decodeMajor04 (w : W32) : Option (Instr × Bool) := some (.saddi (fld 20 6 w) (fld 14 6 w) (fld 0 14 w), true)

/-- Major 0x05 (R102). -/
def decodeMajor05 (w : W32) : Option (Instr × Bool) := some (.sli (fld 20 6 w) (fld 0 20 w), true)

/-- Major 0x06, chosen by fn [7:0] (R102). -/
def decodeMajor06 (w : W32) : Option (Instr × Bool) :=
  if w &&& 0xFE#32 = 0x00#32 then some (.pand (fld 20 6 w) (fld 14 6 w) (fld 8 6 w) (fld 0 1 w), true)
  else if w &&& 0xFE#32 = 0x10#32 then some (.por (fld 20 6 w) (fld 14 6 w) (fld 8 6 w) (fld 0 1 w), true)
  else if w &&& 0xFF#32 = 0x20#32 then some (.pxor (fld 20 6 w) (fld 14 6 w) (fld 8 6 w), true)
  else if w &&& 0xFF#32 = 0x30#32 then some (.pnot (fld 20 6 w) (fld 14 6 w), w &&& 0x3F00#32 == 0#32)
  else if w &&& 0xFF#32 = 0x40#32 then some (.pmovPp (fld 20 6 w) (fld 14 6 w), w &&& 0x3F00#32 == 0#32)
  else if w &&& 0xFF#32 = 0x41#32 then some (.pmovPs (fld 20 6 w) (fld 14 6 w), w &&& 0x3F00#32 == 0#32)
  else if w &&& 0xFF#32 = 0x42#32 then some (.pmovSp (fld 20 6 w) (fld 14 6 w), w &&& 0x3F00#32 == 0#32)
  else if w &&& 0xFF#32 = 0x50#32 then some (.pseti (fld 20 6 w), w &&& 0xFFF00#32 == 0#32)
  else if w &&& 0xFF#32 = 0x60#32 then some (.ppopc (fld 20 6 w) (fld 14 6 w), w &&& 0x3F00#32 == 0#32)
  else if w &&& 0xFF#32 = 0x70#32 then some (.pfirst (fld 20 6 w) (fld 14 6 w), w &&& 0x3F00#32 == 0#32)
  else if (w &&& 0xF0#32 = 0x40#32) ∧ 3 ≤ (fld 0 4 w).toNat ∧ (fld 0 4 w).toNat ≤ 8 then some (.pmovCc (fld 20 6 w) (fld 14 6 w) (fld 0 4 w), w &&& 0x3F00#32 == 0#32)
  else none

/-- Major 0x07, chosen by fn [7:0] (R102). -/
def decodeMajor07 (w : W32) : Option (Instr × Bool) :=
  if w &&& 0xBF#32 = 0x00#32 then some (.vadd (fld 20 6 w) (fld 14 6 w) (fld 8 6 w) (fld 6 1 w), true)
  else if w &&& 0xBF#32 = 0x01#32 then some (.vsub (fld 20 6 w) (fld 14 6 w) (fld 8 6 w) (fld 6 1 w), true)
  else if w &&& 0xFF#32 = 0x02#32 then some (.vaddc (fld 20 6 w) (fld 14 6 w) (fld 8 6 w), true)
  else if w &&& 0xBF#32 = 0x03#32 then some (.vmul (fld 20 6 w) (fld 14 6 w) (fld 8 6 w) (fld 6 1 w), true)
  else if w &&& 0x7F#32 = 0x04#32 then some (.vmulh (fld 20 6 w) (fld 14 6 w) (fld 8 6 w) (fld 7 1 w), true)
  else if w &&& 0xFF#32 = 0x05#32 then some (.vmad (fld 20 6 w) (fld 14 6 w) (fld 8 6 w), true)
  else if w &&& 0xBF#32 = 0x06#32 then some (.vand (fld 20 6 w) (fld 14 6 w) (fld 8 6 w) (fld 6 1 w), true)
  else if w &&& 0xBF#32 = 0x07#32 then some (.vor (fld 20 6 w) (fld 14 6 w) (fld 8 6 w) (fld 6 1 w), true)
  else if w &&& 0xBF#32 = 0x08#32 then some (.vxor (fld 20 6 w) (fld 14 6 w) (fld 8 6 w) (fld 6 1 w), true)
  else if w &&& 0xBF#32 = 0x09#32 then some (.vshl (fld 20 6 w) (fld 14 6 w) (fld 8 6 w) (fld 6 1 w), true)
  else if w &&& 0xBF#32 = 0x0A#32 then some (.vshr (fld 20 6 w) (fld 14 6 w) (fld 8 6 w) (fld 6 1 w), true)
  else if w &&& 0xBF#32 = 0x0B#32 then some (.vsra (fld 20 6 w) (fld 14 6 w) (fld 8 6 w) (fld 6 1 w), true)
  else if w &&& 0x3F#32 = 0x0C#32 then some (.vmin (fld 20 6 w) (fld 14 6 w) (fld 8 6 w) (fld 7 1 w) (fld 6 1 w), true)
  else if w &&& 0x3F#32 = 0x0D#32 then some (.vmax (fld 20 6 w) (fld 14 6 w) (fld 8 6 w) (fld 7 1 w) (fld 6 1 w), true)
  else if w &&& 0x7F#32 = 0x0E#32 then some (.vabsd (fld 20 6 w) (fld 14 6 w) (fld 8 6 w) (fld 7 1 w), true)
  else if w &&& 0xFF#32 = 0x0F#32 then some (.vpopc (fld 20 6 w) (fld 14 6 w), w &&& 0x3F00#32 == 0#32)
  else if w &&& 0xFF#32 = 0x10#32 then some (.vclz (fld 20 6 w) (fld 14 6 w), w &&& 0x3F00#32 == 0#32)
  else if w &&& 0x7F#32 = 0x11#32 then some (.vbfe (fld 20 6 w) (fld 14 6 w) (fld 8 6 w) (fld 7 1 w), true)
  else if w &&& 0xFF#32 = 0x12#32 then some (.vbfi (fld 20 6 w) (fld 14 6 w) (fld 8 6 w), true)
  else if w &&& 0xFF#32 = 0x13#32 then some (.vmov (fld 20 6 w) (fld 14 6 w), w &&& 0x3F00#32 == 0#32)
  else if w &&& 0xFF#32 = 0x14#32 then some (.vmovFromMqi (fld 20 6 w) (fld 14 6 w), w &&& 0x3F00#32 == 0#32)
  else if w &&& 0xFF#32 = 0x15#32 then some (.vmovToMqo (fld 20 6 w) (fld 14 6 w), w &&& 0x3F00#32 == 0#32)
  else if w &&& 0x7F#32 = 0x16#32 then some (.vdot4 (fld 20 6 w) (fld 14 6 w) (fld 8 6 w) (fld 7 1 w), true)
  else none

/-- Major 0x08 (R102). -/
def decodeMajor08 (w : W32) : Option (Instr × Bool) := some (.vaddi (fld 20 6 w) (fld 14 6 w) (fld 0 14 w), true)

/-- Major 0x09 (R102). -/
def decodeMajor09 (w : W32) : Option (Instr × Bool) := some (.vli (fld 20 6 w) (fld 0 20 w), true)

/-- Major 0x0A, chosen by fn [7:0] (R102). -/
def decodeMajor0A (w : W32) : Option (Instr × Bool) :=
  if w &&& 0xBF#32 = 0x00#32 then some (.vcmpEq (fld 20 6 w) (fld 14 6 w) (fld 8 6 w) (fld 6 1 w), true)
  else if w &&& 0xBF#32 = 0x01#32 then some (.vcmpNe (fld 20 6 w) (fld 14 6 w) (fld 8 6 w) (fld 6 1 w), true)
  else if w &&& 0x3F#32 = 0x02#32 then some (.vcmpLt (fld 20 6 w) (fld 14 6 w) (fld 8 6 w) (fld 7 1 w) (fld 6 1 w), true)
  else if w &&& 0x3F#32 = 0x03#32 then some (.vcmpLe (fld 20 6 w) (fld 14 6 w) (fld 8 6 w) (fld 7 1 w) (fld 6 1 w), true)
  else if w &&& 0x3F#32 = 0x04#32 then some (.vcmpGt (fld 20 6 w) (fld 14 6 w) (fld 8 6 w) (fld 7 1 w) (fld 6 1 w), true)
  else if w &&& 0x3F#32 = 0x05#32 then some (.vcmpGe (fld 20 6 w) (fld 14 6 w) (fld 8 6 w) (fld 7 1 w) (fld 6 1 w), true)
  else if w &&& 0xBF#32 = 0x08#32 then some (.vsel (fld 20 6 w) (fld 14 6 w) (fld 8 6 w) (fld 6 1 w), true)
  else none

/-- Major 0x0B, chosen by fn [7:0] (R102). -/
def decodeMajor0B (w : W32) : Option (Instr × Bool) :=
  if w &&& 0xFC#32 = 0x00#32 then some (.fadd (fld 20 6 w) (fld 14 6 w) (fld 8 6 w) (fld 0 2 w), true)
  else if w &&& 0xFC#32 = 0x10#32 then some (.fsub (fld 20 6 w) (fld 14 6 w) (fld 8 6 w) (fld 0 2 w), true)
  else if w &&& 0xFC#32 = 0x20#32 then some (.fmul (fld 20 6 w) (fld 14 6 w) (fld 8 6 w) (fld 0 2 w), true)
  else if w &&& 0xFF#32 = 0x30#32 then some (.fmin (fld 20 6 w) (fld 14 6 w) (fld 8 6 w), true)
  else if w &&& 0xFF#32 = 0x40#32 then some (.fmax (fld 20 6 w) (fld 14 6 w) (fld 8 6 w), true)
  else if w &&& 0xFF#32 = 0x50#32 then some (.fcmp (fld 23 3 w) (fld 20 3 w) (fld 14 6 w) (fld 8 6 w), true)
  else if w &&& 0xFF#32 = 0x60#32 then some (.fneg (fld 20 6 w) (fld 14 6 w), w &&& 0x3F00#32 == 0#32)
  else if w &&& 0xFF#32 = 0x70#32 then some (.fabs (fld 20 6 w) (fld 14 6 w), w &&& 0x3F00#32 == 0#32)
  else if w &&& 0xFF#32 = 0x80#32 then some (.fclamp (fld 20 6 w) (fld 14 6 w) (fld 8 6 w), true)
  else if w &&& 0xFC#32 = 0x90#32 then some (.fdot2 (fld 20 6 w) (fld 14 6 w) (fld 8 6 w) (fld 0 2 w), true)
  else if w &&& 0xFC#32 = 0xA0#32 then some (.fround (fld 20 6 w) (fld 14 6 w) (fld 0 2 w), w &&& 0x3F00#32 == 0#32)
  else if w &&& 0xFC#32 = 0xB0#32 then some (.fscale (fld 20 6 w) (fld 14 6 w) (fld 8 6 w) (fld 0 2 w), true)
  else none

/-- Major 0x0C, chosen by fn [7:0] (R102). -/
def decodeMajor0C (w : W32) : Option (Instr × Bool) :=
  if (w &&& 0xF0#32 = 0x00#32) ∧ (fld 2 2 w) ≠ 0#2 then some (.faddT (fld 20 6 w) (fld 14 6 w) (fld 8 6 w) (fld 2 2 w) (fld 0 2 w), true)
  else if (w &&& 0xF0#32 = 0x10#32) ∧ (fld 2 2 w) ≠ 0#2 then some (.fsubT (fld 20 6 w) (fld 14 6 w) (fld 8 6 w) (fld 2 2 w) (fld 0 2 w), true)
  else if (w &&& 0xF0#32 = 0x20#32) ∧ (fld 2 2 w) ≠ 0#2 then some (.fmulT (fld 20 6 w) (fld 14 6 w) (fld 8 6 w) (fld 2 2 w) (fld 0 2 w), true)
  else if (w &&& 0xF3#32 = 0x30#32) ∧ (fld 2 2 w) ≠ 0#2 then some (.fminT (fld 20 6 w) (fld 14 6 w) (fld 8 6 w) (fld 2 2 w), true)
  else if (w &&& 0xF3#32 = 0x40#32) ∧ (fld 2 2 w) ≠ 0#2 then some (.fmaxT (fld 20 6 w) (fld 14 6 w) (fld 8 6 w) (fld 2 2 w), true)
  else if w &&& 0xFF#32 = 0x54#32 then some (.fcmpF64 (fld 23 3 w) (fld 20 3 w) (fld 14 6 w) (fld 8 6 w), true)
  else if (w &&& 0xF3#32 = 0x60#32) ∧ (fld 2 2 w) ≠ 0#2 then some (.fnegT (fld 20 6 w) (fld 14 6 w) (fld 2 2 w), w &&& 0x3F00#32 == 0#32)
  else if (w &&& 0xF3#32 = 0x70#32) ∧ (fld 2 2 w) ≠ 0#2 then some (.fabsT (fld 20 6 w) (fld 14 6 w) (fld 2 2 w), w &&& 0x3F00#32 == 0#32)
  else if (w &&& 0xF3#32 = 0x80#32) ∧ (fld 2 2 w) ≠ 0#2 then some (.fclampT (fld 20 6 w) (fld 14 6 w) (fld 8 6 w) (fld 2 2 w), true)
  else if w &&& 0xF8#32 = 0x98#32 then some (.fdot2Packed (fld 20 6 w) (fld 14 6 w) (fld 8 6 w) (fld 2 1 w) (fld 0 2 w), true)
  else if (w &&& 0xF0#32 = 0xA0#32) ∧ (fld 2 2 w) ≠ 0#2 then some (.froundT (fld 20 6 w) (fld 14 6 w) (fld 2 2 w) (fld 0 2 w), w &&& 0x3F00#32 == 0#32)
  else if (w &&& 0xF0#32 = 0xB0#32) ∧ (fld 2 2 w) ≠ 0#2 then some (.fscaleT (fld 20 6 w) (fld 14 6 w) (fld 8 6 w) (fld 2 2 w) (fld 0 2 w), true)
  else none

/-- Major 0x0D, chosen by fn [7:0] (R102). -/
def decodeMajor0D (w : W32) : Option (Instr × Bool) :=
  if w &&& 0xF0#32 = 0x00#32 then some (.ffma (fld 20 6 w) (fld 14 6 w) (fld 8 6 w) (fld 2 2 w) (fld 0 2 w), true)
  else none

/-- Major 0x0E, chosen by fn [7:0] (R102). -/
def decodeMajor0E (w : W32) : Option (Instr × Bool) :=
  if w &&& 0xFF#32 = 0x00#32 then some (.exp2 (fld 20 6 w) (fld 14 6 w), w &&& 0x3F00#32 == 0#32)
  else if w &&& 0xFF#32 = 0x10#32 then some (.lg2 (fld 20 6 w) (fld 14 6 w), w &&& 0x3F00#32 == 0#32)
  else if w &&& 0xFC#32 = 0x20#32 then some (.rcp (fld 20 6 w) (fld 14 6 w) (fld 0 2 w), w &&& 0x3F00#32 == 0#32)
  else if w &&& 0xFC#32 = 0x30#32 then some (.rsq (fld 20 6 w) (fld 14 6 w) (fld 0 2 w), w &&& 0x3F00#32 == 0#32)
  else if w &&& 0xFC#32 = 0x40#32 then some (.sqrt (fld 20 6 w) (fld 14 6 w) (fld 0 2 w), w &&& 0x3F00#32 == 0#32)
  else none

/-- Major 0x0F, chosen by fn [7:0] (R102). -/
def decodeMajor0F (w : W32) : Option (Instr × Bool) :=
  if (w &&& 0xF0#32 = 0x00#32) ∧ (fld 0 4 w).toNat ≤ 4 then some (.cvt (fld 20 6 w) (fld 14 6 w) (fld 11 3 w) (fld 8 3 w) (fld 0 4 w), true)
  else if (w &&& 0xF0#32 = 0x10#32) ∧ (fld 0 4 w).toNat ≤ 4 then some (.cvtpk2 (fld 20 6 w) (fld 14 6 w) (fld 8 6 w) (fld 0 4 w), true)
  else if (w &&& 0xF0#32 = 0x20#32) ∧ (fld 0 4 w).toNat ≤ 4 then some (.cvtpk4 (fld 20 6 w) (fld 14 6 w) (fld 8 6 w) (fld 0 4 w), true)
  else if w &&& 0xFF#32 = 0x30#32 then some (.cvtwide (fld 20 6 w) (fld 14 6 w) (fld 8 6 w), true)
  else if w &&& 0xFF#32 = 0x40#32 then some (.mxscale (fld 20 6 w) (fld 14 6 w) (fld 8 6 w), true)
  else if (w &&& 0xF0#32 = 0x50#32) ∧ (fld 0 4 w).toNat ≤ 4 then some (.mxq (fld 20 6 w) (fld 14 6 w) (fld 8 6 w) (fld 0 4 w), true)
  else none

/-- Major 0x10, chosen by fn [7:0] (R102). -/
def decodeMajor10 (w : W32) : Option (Instr × Bool) :=
  if w &&& 0xFF#32 = 0x00#32 then some (.perm (fld 20 6 w) (fld 14 6 w) (fld 8 6 w), true)
  else if w &&& 0xFF#32 = 0x10#32 then some (.permx (fld 20 6 w) (fld 14 6 w) (fld 8 6 w), true)
  else if w &&& 0xFF#32 = 0x20#32 then some (.shflup (fld 20 6 w) (fld 14 6 w) (fld 8 6 w), true)
  else if w &&& 0xFF#32 = 0x30#32 then some (.shfldn (fld 20 6 w) (fld 14 6 w) (fld 8 6 w), true)
  else if w &&& 0xFF#32 = 0x40#32 then some (.bcastReg (fld 20 6 w) (fld 14 6 w) (fld 8 6 w), true)
  else if w &&& 0xFF#32 = 0x41#32 then some (.bcastImm (fld 20 6 w) (fld 14 6 w) (fld 8 6 w), true)
  else none

/-- Major 0x11, chosen by fn [7:0] (R102). -/
def decodeMajor11 (w : W32) : Option (Instr × Bool) :=
  if w &&& 0xFF#32 = 0x00#32 then some (.voteBallot (fld 20 6 w) (fld 14 6 w), w &&& 0x3F00#32 == 0#32)
  else if w &&& 0xFF#32 = 0x01#32 then some (.voteAny (fld 20 6 w) (fld 14 6 w), w &&& 0x3F00#32 == 0#32)
  else if w &&& 0xFF#32 = 0x02#32 then some (.voteAll (fld 20 6 w) (fld 14 6 w), w &&& 0x3F00#32 == 0#32)
  else if w &&& 0xFF#32 = 0x03#32 then some (.voteUni (fld 20 6 w) (fld 14 6 w), w &&& 0x3F00#32 == 0#32)
  else if (w &&& 0xF0#32 = 0x10#32) ∧ (fld 0 4 w).toNat ≤ 0xA then some (.reduce (fld 20 6 w) (fld 14 6 w) (fld 0 4 w), w &&& 0x3F00#32 == 0#32)
  else if (w &&& 0xF0#32 = 0x20#32) ∧ (fld 0 4 w).toNat ≤ 0xA then some (.scan (fld 20 6 w) (fld 14 6 w) (fld 0 4 w), w &&& 0x3F00#32 == 0#32)
  else if (w &&& 0xF0#32 = 0x30#32) ∧ (fld 0 4 w).toNat ≤ 2 then some (.argmax (fld 20 6 w) (fld 14 6 w) (fld 0 4 w), w &&& 0x3F00#32 == 0#32)
  else if w &&& 0xFF#32 = 0x40#32 then some (.matchAny (fld 20 6 w) (fld 14 6 w), w &&& 0x3F00#32 == 0#32)
  else if w &&& 0xFF#32 = 0x41#32 then some (.matchFirst (fld 20 6 w) (fld 14 6 w), w &&& 0x3F00#32 == 0#32)
  else none

/-- Major 0x18, chosen by fn [7:0] (R102). -/
def decodeMajor18 (w : W32) : Option (Instr × Bool) :=
  if w &&& 0xF0#32 = 0x00#32 then some (.atom (fld 20 6 w) (fld 14 6 w) (fld 8 6 w) (fld 0 4 w), true)
  else if w &&& 0xF7#32 = 0x10#32 then some (.atomcas (fld 20 6 w) (fld 14 6 w) (fld 8 6 w) (fld 3 1 w), true)
  else if w &&& 0xF0#32 = 0x20#32 then some (.atomsh (fld 20 6 w) (fld 14 6 w) (fld 8 6 w) (fld 0 4 w), true)
  else if w &&& 0xF0#32 = 0x30#32 then some (.red (fld 20 6 w) (fld 14 6 w) (fld 8 6 w) (fld 0 4 w), true)
  else none

/-- Major 0x19, chosen by fn [7:0] (R102). -/
def decodeMajor19 (w : W32) : Option (Instr × Bool) :=
  if (w &&& 0xF0#32 = 0x00#32) ∧ copyModOk (fld 0 4 w) then some (.copy (fld 14 6 w) (fld 8 6 w) (fld 0 4 w), w &&& 0x3F00000#32 == 0#32)
  else none

/-- Major 0x1A, chosen by fn [7:0] (R102). -/
def decodeMajor1A (w : W32) : Option (Instr × Bool) :=
  if w &&& 0xFF#32 = 0x00#32 then some (.tbinit (fld 14 6 w) (fld 8 6 w), w &&& 0x3F00000#32 == 0#32)
  else if w &&& 0xFF#32 = 0x10#32 then some (.tbexpect (fld 14 6 w) (fld 8 6 w), w &&& 0x3F00000#32 == 0#32)
  else if w &&& 0xFF#32 = 0x20#32 then some (.tbarrive (fld 14 6 w), w &&& 0x3F03F00#32 == 0#32)
  else if w &&& 0xFF#32 = 0x30#32 then some (.tbwait (fld 20 6 w) (fld 14 6 w) (fld 8 6 w), true)
  else if w &&& 0xFF#32 = 0x40#32 then some (.femark (fld 14 6 w) (fld 8 6 w), w &&& 0x3F00000#32 == 0#32)
  else if w &&& 0xFF#32 = 0x50#32 then some (.fepoll (fld 20 6 w) (fld 14 6 w), w &&& 0x3F00#32 == 0#32)
  else none

/-- Major 0x1B, chosen by fn [7:0] (R102). -/
def decodeMajor1B (w : W32) : Option (Instr × Bool) :=
  if w &&& 0xFF#32 = 0x00#32 then some (.bar (fld 8 6 w), w &&& 0x3FFC000#32 == 0#32)
  else if w &&& 0xFF#32 = 0x10#32 then some (.bararr (fld 8 6 w), w &&& 0x3FFC000#32 == 0#32)
  else if w &&& 0xFF#32 = 0x20#32 then some (.barwait (fld 8 6 w), w &&& 0x3FFC000#32 == 0#32)
  else if w &&& 0xFF#32 = 0x30#32 then some (.bardrop (fld 8 6 w), w &&& 0x3FFC000#32 == 0#32)
  else if (w &&& 0xF0#32 = 0x40#32) ∧ (fld 0 4 w).toNat ≤ 6 then some (.fence (fld 20 6 w) (fld 0 4 w), w &&& 0xFFF00#32 == 0#32)
  else if w &&& 0xFC#32 = 0x50#32 then some (.waitcReg (fld 14 6 w) (fld 0 2 w), w &&& 0x3F03F00#32 == 0#32)
  else if w &&& 0xFC#32 = 0x54#32 then some (.waitcImm (fld 8 6 w) (fld 0 2 w), w &&& 0x3FFC000#32 == 0#32)
  else if w &&& 0xFF#32 = 0x60#32 then some (.waitb (fld 14 6 w), w &&& 0x3F03F00#32 == 0#32)
  else if w &&& 0xFF#32 = 0x70#32 then some (.tfence, w &&& 0x3FFFF00#32 == 0#32)
  else none

/-- Major 0x1C, chosen by fn [7:0] (R102). -/
def decodeMajor1C (w : W32) : Option (Instr × Bool) :=
  if w &&& 0xFF#32 = 0x00#32 then some (.aqpush (fld 20 6 w) (fld 14 6 w), w &&& 0x3F00#32 == 0#32)
  else if w &&& 0xFF#32 = 0x10#32 then some (.aqclose (fld 20 6 w), w &&& 0xFFF00#32 == 0#32)
  else if w &&& 0xFF#32 = 0x20#32 then some (.mqbind (fld 20 6 w) (fld 14 6 w), w &&& 0x3F00#32 == 0#32)
  else if w &&& 0xFF#32 = 0x30#32 then some (.mqtry (fld 20 6 w) (fld 14 6 w), w &&& 0x3F00#32 == 0#32)
  else none

/-- Major 0x1D, chosen by fn [7:0] (R102). -/
def decodeMajor1D (w : W32) : Option (Instr × Bool) :=
  if w &&& 0xFF#32 = 0x00#32 then some (.rgive (fld 8 6 w), w &&& 0x3FFC000#32 == 0#32)
  else if w &&& 0xFF#32 = 0x01#32 then some (.rclaim (fld 8 6 w), w &&& 0x3FFC000#32 == 0#32)
  else if w &&& 0xFF#32 = 0x02#32 then some (.rclaimT (fld 20 6 w) (fld 8 6 w), w &&& 0xFC000#32 == 0#32)
  else none

/-- Major 0x1E, chosen by fn [7:0] (R102). -/
def decodeMajor1E (w : W32) : Option (Instr × Bool) :=
  if (w &&& 0xF0#32 = 0x00#32) ∧ (fld 0 4 w).toNat ≤ 8 then some (.mma (fld 20 6 w) (fld 14 6 w) (fld 8 6 w) (fld 0 4 w), true)
  else if w &&& 0xFF#32 = 0x10#32 then some (.mzero (fld 20 6 w), w &&& 0xFFF00#32 == 0#32)
  else none

/-- Major 0x1F, chosen by fn [7:0] (R102). -/
def decodeMajor1F (w : W32) : Option (Instr × Bool) :=
  if w &&& 0xFF#32 = 0x00#32 then some (.mbatch (fld 20 6 w), w &&& 0xFFF00#32 == 0#32)
  else if w &&& 0xFF#32 = 0x10#32 then some (.episet (fld 14 6 w) (fld 8 6 w), w &&& 0x3F00000#32 == 0#32)
  else if w &&& 0xFF#32 = 0x20#32 then some (.drain (fld 20 6 w) (fld 14 6 w) (fld 8 6 w), true)
  else none

/-- Major 0x20, chosen by fn [7:0] (R102). -/
def decodeMajor20 (w : W32) : Option (Instr × Bool) :=
  if w &&& 0xFF#32 = 0x00#32 then some (.resolveC (fld 20 6 w) (fld 14 6 w) (fld 8 6 w), true)
  else if w &&& 0xFF#32 = 0x01#32 then some (.resolveS (fld 20 6 w) (fld 14 6 w) (fld 8 6 w), true)
  else if w &&& 0xFF#32 = 0x10#32 then some (.vidq (fld 20 6 w) (fld 14 6 w) (fld 8 6 w), true)
  else if w &&& 0xFF#32 = 0x11#32 then some (.vidqFree (fld 20 6 w) (fld 14 6 w), w &&& 0x3F00#32 == 0#32)
  else if w &&& 0xFF#32 = 0x20#32 then some (.specchk (fld 20 6 w), w &&& 0xFFF00#32 == 0#32)
  else if w &&& 0xFF#32 = 0x21#32 then some (.specchkLive (fld 20 6 w), w &&& 0xFFF00#32 == 0#32)
  else if w &&& 0xFF#32 = 0x30#32 then some (.sigsync (fld 20 6 w), w &&& 0xFFF00#32 == 0#32)
  else none

/-- Major 0x21, chosen by fn [7:0] (R102). -/
def decodeMajor21 (w : W32) : Option (Instr × Bool) :=
  if w &&& 0xFF#32 = 0x00#32 then some (.egrsv (fld 20 6 w) (fld 14 6 w), w &&& 0x3F00#32 == 0#32)
  else if w &&& 0xFF#32 = 0x10#32 then some (.egpub (fld 14 6 w), w &&& 0x3F03F00#32 == 0#32)
  else if w &&& 0xFF#32 = 0x20#32 then some (.egpush (fld 14 6 w) (fld 8 6 w), w &&& 0x3F00000#32 == 0#32)
  else if w &&& 0xFF#32 = 0x30#32 then some (.egrel (fld 20 6 w) (fld 14 6 w) (fld 8 6 w), true)
  else if w &&& 0xFF#32 = 0x31#32 then some (.egrelV (fld 20 6 w) (fld 14 6 w) (fld 8 6 w), true)
  else none

/-- Major 0x22, chosen by fn [7:0] (R102). -/
def decodeMajor22 (w : W32) : Option (Instr × Bool) :=
  if w &&& 0xFF#32 = 0x00#32 then some (.kvxl (fld 20 6 w) (fld 14 6 w) (fld 8 6 w), true)
  else if w &&& 0xFF#32 = 0x10#32 then some (.kvappend (fld 20 6 w) (fld 14 6 w) (fld 8 6 w), true)
  else if w &&& 0xFF#32 = 0x20#32 then some (.kvmap (fld 20 6 w) (fld 14 6 w) (fld 8 6 w), true)
  else none

/-- Major 0x23, chosen by fn [7:0] (R102). -/
def decodeMajor23 (w : W32) : Option (Instr × Bool) :=
  if w &&& 0xFF#32 = 0x00#32 then some (.flpop (fld 20 6 w) (fld 14 6 w), w &&& 0x3F00#32 == 0#32)
  else if w &&& 0xFF#32 = 0x10#32 then some (.flpush (fld 14 6 w) (fld 8 6 w), w &&& 0x3F00000#32 == 0#32)
  else none

/-- Major 0x24, chosen by fn [7:0] (R102). -/
def decodeMajor24 (w : W32) : Option (Instr × Bool) :=
  if w &&& 0xFF#32 = 0x00#32 then some (.pref (fld 14 6 w) (fld 8 6 w), w &&& 0x3F00000#32 == 0#32)
  else if w &&& 0xFF#32 = 0x01#32 then some (.prefRo (fld 14 6 w) (fld 8 6 w), w &&& 0x3F00000#32 == 0#32)
  else if w &&& 0xFF#32 = 0x10#32 then some (.cinvRo, w &&& 0x3FFFF00#32 == 0#32)
  else if w &&& 0xFF#32 = 0x11#32 then some (.cinvL1, w &&& 0x3FFFF00#32 == 0#32)
  else if w &&& 0xFF#32 = 0x20#32 then some (.pgreq (fld 14 6 w) (fld 8 6 w), w &&& 0x3F00000#32 == 0#32)
  else if w &&& 0xFF#32 = 0x30#32 then some (.tlbinv (fld 14 6 w), w &&& 0x3F03F00#32 == 0#32)
  else if w &&& 0xFF#32 = 0x31#32 then some (.tlbinvAll, w &&& 0x3FFFF00#32 == 0#32)
  else none

/-- Major 0x30, chosen by fn [7:0] (R102). -/
def decodeMajor30 (w : W32) : Option (Instr × Bool) :=
  if w &&& 0xF8#32 = 0x00#32 then some (.vdot4I16 (fld 20 6 w) (fld 14 6 w) (fld 8 6 w) (fld 0 3 w), true)
  else if w &&& 0xF8#32 = 0x10#32 then some (.vdot4I4 (fld 20 6 w) (fld 14 6 w) (fld 8 6 w) (fld 0 3 w), true)
  else none

/-- Major 0x31, chosen by fn [7:0] (R102). -/
def decodeMajor31 (w : W32) : Option (Instr × Bool) :=
  if w &&& 0xFF#32 = 0x00#32 then some (.vmovBt (fld 20 6 w) (fld 14 6 w), w &&& 0x3F00#32 == 0#32)
  else if w &&& 0xFF#32 = 0x10#32 then some (.vorBmm (fld 20 6 w) (fld 14 6 w) (fld 8 6 w), true)
  else if w &&& 0xFF#32 = 0x20#32 then some (.vxorBmm (fld 20 6 w) (fld 14 6 w) (fld 8 6 w), true)
  else none

/-- The instruction a slot word holds after the prefixes `xs`, and whether every field that its entry leaves unused is
zero (R96). `none`: a reserved major, or an OP, MOD, U or I that its entry does not list (R101, R102). -/
def decodeRaw (xs : List Ximm) (w : W32) : Option (Instr × Bool) :=
  match (fld 26 6 w).toNat with
  | 0x00 => decodeMajor00 w
  | 0x01 => decodeMajor01 w
  | 0x02 => decodeMajor02 w
  | 0x03 => decodeMajor03 w
  | 0x04 => decodeMajor04 w
  | 0x05 => decodeMajor05 w
  | 0x06 => decodeMajor06 w
  | 0x07 => decodeMajor07 w
  | 0x08 => decodeMajor08 w
  | 0x09 => decodeMajor09 w
  | 0x0A => decodeMajor0A w
  | 0x0B => decodeMajor0B w
  | 0x0C => decodeMajor0C w
  | 0x0D => decodeMajor0D w
  | 0x0E => decodeMajor0E w
  | 0x0F => decodeMajor0F w
  | 0x10 => decodeMajor10 w
  | 0x11 => decodeMajor11 w
  | 0x12 => decodeMemory xs 0x12 w
  | 0x13 => decodeMemory xs 0x13 w
  | 0x14 => decodeMemory xs 0x14 w
  | 0x15 => decodeMemory xs 0x15 w
  | 0x16 => decodeMemory xs 0x16 w
  | 0x17 => decodeMemory xs 0x17 w
  | 0x18 => decodeMajor18 w
  | 0x19 => decodeMajor19 w
  | 0x1A => decodeMajor1A w
  | 0x1B => decodeMajor1B w
  | 0x1C => decodeMajor1C w
  | 0x1D => decodeMajor1D w
  | 0x1E => decodeMajor1E w
  | 0x1F => decodeMajor1F w
  | 0x20 => decodeMajor20 w
  | 0x21 => decodeMajor21 w
  | 0x22 => decodeMajor22 w
  | 0x23 => decodeMajor23 w
  | 0x24 => decodeMajor24 w
  | 0x30 => decodeMajor30 w
  | 0x31 => decodeMajor31 w
  | 0x3F => some (.ximm (fld 0 26 w), true)
  | m => if 0x32 ≤ m ∧ m ≤ 0x3E then some (.emulatedMajor w, true) else none

/-- Strict decoding: the instruction, or `none` where the encoding is unlisted or an unused field is not zero. -/
def decode (xs : List Ximm) (w : W32) : Option Instr :=
  match decodeRaw xs w with
  | some (i, true) => some i
  | _ => none

/-- Decoding a word of an epilogue program (R238): `none` where the word breaks the word layout. -/
def decodeEpi (w : W32) : Option Instr :=
  if w &&& 0xFFFFFFFF#32 = 0x00000000#32 then some (.enop)
  else if w &&& 0xF8007FFF#32 = 0x08000000#32 then some (.eadd (fld 23 4 w) (fld 19 4 w) (fld 15 4 w))
  else if w &&& 0xF8007FFF#32 = 0x10000000#32 then some (.emul (fld 23 4 w) (fld 19 4 w) (fld 15 4 w))
  else if w &&& 0xF8007FFF#32 = 0x18000000#32 then some (.efma (fld 23 4 w) (fld 19 4 w) (fld 15 4 w))
  else if w &&& 0xF8007FFF#32 = 0x20000000#32 then some (.emax (fld 23 4 w) (fld 19 4 w) (fld 15 4 w))
  else if w &&& 0xF8007FFF#32 = 0x28000000#32 then some (.emin (fld 23 4 w) (fld 19 4 w) (fld 15 4 w))
  else if w &&& 0xF8007FFF#32 = 0x30000000#32 then some (.eclamp (fld 23 4 w) (fld 19 4 w) (fld 15 4 w))
  else if w &&& 0xF807FFFF#32 = 0x38000000#32 then some (.eexp2 (fld 23 4 w) (fld 19 4 w))
  else if (w &&& 0xF807FFF8#32 = 0x40000000#32) ∧ (fld 0 3 w).toNat ≤ 5 then some (.ecvt (fld 23 4 w) (fld 19 4 w) (fld 0 3 w))
  else if w &&& 0xF807FFFF#32 = 0x48000000#32 then some (.emovReg (fld 23 4 w) (fld 19 4 w))
  else if w &&& 0xF87FC000#32 = 0x48004000#32 then some (.emovImm (fld 23 4 w) (fld 0 14 w))
  else if w &&& 0xF8007FFF#32 = 0x50000000#32 then some (.esel (fld 23 4 w) (fld 19 4 w) (fld 15 4 w))
  else if w &&& 0xF87FFFFF#32 = 0x58000000#32 then some (.erow (fld 23 4 w))
  else if w &&& 0xF87FFFFF#32 = 0x60000000#32 then some (.ecol (fld 23 4 w))
  else if w &&& 0xF87FF000#32 = 0x68000000#32 then some (.eldb (fld 23 4 w) (fld 0 12 w))
  else if w &&& 0xF87FF000#32 = 0x70000000#32 then some (.elds (fld 23 4 w) (fld 0 12 w))
  else if (w &&& 0xFF87FFFC#32 = 0x78000000#32) ∧ (fld 0 2 w).toNat ≤ 2 then some (.est (fld 19 4 w) (fld 0 2 w))
  else if (w &&& 0xFF87FFFC#32 = 0x80000000#32) ∧ (fld 0 2 w).toNat ≤ 2 then some (.estg (fld 19 4 w) (fld 0 2 w))
  else if w &&& 0xFF87FFFF#32 = 0x88000000#32 then some (.ered (fld 19 4 w))
  else if w &&& 0xFF87FFFF#32 = 0x90000000#32 then some (.esig (fld 19 4 w))
  else if w &&& 0xFFFFFFFF#32 = 0x98000000#32 then some (.eend)
  else none

/-- The word of an instruction, or of an epilogue operation; `none` for a step that has no word. The prefixes that a
form needs are not part of it (R99). -/
def encode (i : Instr) : Option W32 :=
  match i with
  | .nop => some (0x0#6 ++ 0x0#18 ++ 0x0#8)
  | .yield => some (0x0#6 ++ 0x0#18 ++ 0x10#8)
  | .trap n => some (0x0#6 ++ 0x0#10 ++ n ++ 0x20#8)
  | .bkpt n => some (0x0#6 ++ 0x0#10 ++ n ++ 0x30#8)
  | .rtt => some (0x0#6 ++ 0x0#18 ++ 0x40#8)
  | .rttAdv => some (0x0#6 ++ 0x0#18 ++ 0x41#8)
  | .mfs d e => some (0x0#6 ++ d ++ e ++ 0x50#8)
  | .mts t e => some (0x0#6 ++ t ++ e ++ 0x60#8)
  | .exit => some (0x0#6 ++ 0x0#18 ++ 0x70#8)
  | .jmp a => some (0x0#6 ++ 0x0#6 ++ a ++ 0x0#6 ++ 0x80#8)
  | .callReg d a => some (0x0#6 ++ d ++ a ++ 0x0#6 ++ 0x90#8)
  | .callDisp d => some (0x0#6 ++ d ++ 0x0#12 ++ 0x91#8)
  | .ret a => some (0x0#6 ++ 0x0#6 ++ a ++ 0x0#6 ++ 0xA0#8)
  | .loop a => some (0x0#6 ++ 0x0#6 ++ a ++ 0x0#6 ++ 0xB0#8)
  | .loopbrk => some (0x0#6 ++ 0x0#18 ++ 0xC0#8)
  | .bra d => some (0x1#6 ++ d)
  | .brv => some (0x2#6 ++ 0x0#18 ++ 0x0#8)
  | .reconv => some (0x2#6 ++ 0x0#18 ++ 0x10#8)
  | .joinw d a => some (0x2#6 ++ d ++ a ++ 0x0#6 ++ 0x20#8)
  | .fragwake a => some (0x2#6 ++ 0x0#6 ++ a ++ 0x0#6 ++ 0x30#8)
  | .sadd d a b i => some (0x3#6 ++ d ++ a ++ b ++ 0x0#1 ++ i ++ 0x0#6)
  | .ssub d a b i => some (0x3#6 ++ d ++ a ++ b ++ 0x0#1 ++ i ++ 0x1#6)
  | .smul d a b i => some (0x3#6 ++ d ++ a ++ b ++ 0x0#1 ++ i ++ 0x2#6)
  | .smulh d a b u => some (0x3#6 ++ d ++ a ++ b ++ u ++ 0x3#7)
  | .sdiv d a b u => some (0x3#6 ++ d ++ a ++ b ++ u ++ 0x4#7)
  | .sand d a b i => some (0x3#6 ++ d ++ a ++ b ++ 0x0#1 ++ i ++ 0x5#6)
  | .sor d a b i => some (0x3#6 ++ d ++ a ++ b ++ 0x0#1 ++ i ++ 0x6#6)
  | .sxor d a b i => some (0x3#6 ++ d ++ a ++ b ++ 0x0#1 ++ i ++ 0x7#6)
  | .sshl d a b i => some (0x3#6 ++ d ++ a ++ b ++ 0x0#1 ++ i ++ 0x8#6)
  | .sshr d a b i => some (0x3#6 ++ d ++ a ++ b ++ 0x0#1 ++ i ++ 0x9#6)
  | .ssra d a b i => some (0x3#6 ++ d ++ a ++ b ++ 0x0#1 ++ i ++ 0xA#6)
  | .smin d a b u i => some (0x3#6 ++ d ++ a ++ b ++ u ++ i ++ 0xB#6)
  | .smax d a b u i => some (0x3#6 ++ d ++ a ++ b ++ u ++ i ++ 0xC#6)
  | .scmp d a b u i => some (0x3#6 ++ d ++ a ++ b ++ u ++ i ++ 0xD#6)
  | .ssel d a b i => some (0x3#6 ++ d ++ a ++ b ++ 0x0#1 ++ i ++ 0xE#6)
  | .spopc d a => some (0x3#6 ++ d ++ a ++ 0x0#6 ++ 0xF#8)
  | .sclz d a => some (0x3#6 ++ d ++ a ++ 0x0#6 ++ 0x10#8)
  | .sbfe d a b u => some (0x3#6 ++ d ++ a ++ b ++ u ++ 0x11#7)
  | .sbfi d a b => some (0x3#6 ++ d ++ a ++ b ++ 0x12#8)
  | .smov d a => some (0x3#6 ++ d ++ a ++ 0x0#6 ++ 0x13#8)
  | .smovAq d a => some (0x3#6 ++ d ++ a ++ 0x0#6 ++ 0x14#8)
  | .saddi d a i => some (0x4#6 ++ d ++ a ++ i)
  | .sli d i => some (0x5#6 ++ d ++ i)
  | .pand d a b n => some (0x6#6 ++ d ++ a ++ b ++ 0x0#7 ++ n)
  | .por d a b n => some (0x6#6 ++ d ++ a ++ b ++ 0x8#7 ++ n)
  | .pxor d a b => some (0x6#6 ++ d ++ a ++ b ++ 0x20#8)
  | .pnot d a => some (0x6#6 ++ d ++ a ++ 0x0#6 ++ 0x30#8)
  | .pmovPp d a => some (0x6#6 ++ d ++ a ++ 0x0#6 ++ 0x40#8)
  | .pmovPs d a => some (0x6#6 ++ d ++ a ++ 0x0#6 ++ 0x41#8)
  | .pmovSp d a => some (0x6#6 ++ d ++ a ++ 0x0#6 ++ 0x42#8)
  | .pmovCc d a m => some (0x6#6 ++ d ++ a ++ 0x0#6 ++ 0x4#4 ++ m)
  | .pseti d => some (0x6#6 ++ d ++ 0x0#12 ++ 0x50#8)
  | .ppopc d a => some (0x6#6 ++ d ++ a ++ 0x0#6 ++ 0x60#8)
  | .pfirst d a => some (0x6#6 ++ d ++ a ++ 0x0#6 ++ 0x70#8)
  | .vadd d a b i => some (0x7#6 ++ d ++ a ++ b ++ 0x0#1 ++ i ++ 0x0#6)
  | .vsub d a b i => some (0x7#6 ++ d ++ a ++ b ++ 0x0#1 ++ i ++ 0x1#6)
  | .vaddc d a b => some (0x7#6 ++ d ++ a ++ b ++ 0x2#8)
  | .vmul d a b i => some (0x7#6 ++ d ++ a ++ b ++ 0x0#1 ++ i ++ 0x3#6)
  | .vmulh d a b u => some (0x7#6 ++ d ++ a ++ b ++ u ++ 0x4#7)
  | .vmad d a b => some (0x7#6 ++ d ++ a ++ b ++ 0x5#8)
  | .vand d a b i => some (0x7#6 ++ d ++ a ++ b ++ 0x0#1 ++ i ++ 0x6#6)
  | .vor d a b i => some (0x7#6 ++ d ++ a ++ b ++ 0x0#1 ++ i ++ 0x7#6)
  | .vxor d a b i => some (0x7#6 ++ d ++ a ++ b ++ 0x0#1 ++ i ++ 0x8#6)
  | .vshl d a b i => some (0x7#6 ++ d ++ a ++ b ++ 0x0#1 ++ i ++ 0x9#6)
  | .vshr d a b i => some (0x7#6 ++ d ++ a ++ b ++ 0x0#1 ++ i ++ 0xA#6)
  | .vsra d a b i => some (0x7#6 ++ d ++ a ++ b ++ 0x0#1 ++ i ++ 0xB#6)
  | .vmin d a b u i => some (0x7#6 ++ d ++ a ++ b ++ u ++ i ++ 0xC#6)
  | .vmax d a b u i => some (0x7#6 ++ d ++ a ++ b ++ u ++ i ++ 0xD#6)
  | .vabsd d a b u => some (0x7#6 ++ d ++ a ++ b ++ u ++ 0xE#7)
  | .vpopc d a => some (0x7#6 ++ d ++ a ++ 0x0#6 ++ 0xF#8)
  | .vclz d a => some (0x7#6 ++ d ++ a ++ 0x0#6 ++ 0x10#8)
  | .vbfe d a b u => some (0x7#6 ++ d ++ a ++ b ++ u ++ 0x11#7)
  | .vbfi d a b => some (0x7#6 ++ d ++ a ++ b ++ 0x12#8)
  | .vmov d a => some (0x7#6 ++ d ++ a ++ 0x0#6 ++ 0x13#8)
  | .vmovFromMqi d a => some (0x7#6 ++ d ++ a ++ 0x0#6 ++ 0x14#8)
  | .vmovToMqo d a => some (0x7#6 ++ d ++ a ++ 0x0#6 ++ 0x15#8)
  | .vdot4 d a b u => some (0x7#6 ++ d ++ a ++ b ++ u ++ 0x16#7)
  | .vaddi d a i => some (0x8#6 ++ d ++ a ++ i)
  | .vli d i => some (0x9#6 ++ d ++ i)
  | .vcmpEq d a b i => some (0xA#6 ++ d ++ a ++ b ++ 0x0#1 ++ i ++ 0x0#6)
  | .vcmpNe d a b i => some (0xA#6 ++ d ++ a ++ b ++ 0x0#1 ++ i ++ 0x1#6)
  | .vcmpLt d a b u i => some (0xA#6 ++ d ++ a ++ b ++ u ++ i ++ 0x2#6)
  | .vcmpLe d a b u i => some (0xA#6 ++ d ++ a ++ b ++ u ++ i ++ 0x3#6)
  | .vcmpGt d a b u i => some (0xA#6 ++ d ++ a ++ b ++ u ++ i ++ 0x4#6)
  | .vcmpGe d a b u i => some (0xA#6 ++ d ++ a ++ b ++ u ++ i ++ 0x5#6)
  | .vsel d a b i => some (0xA#6 ++ d ++ a ++ b ++ 0x0#1 ++ i ++ 0x8#6)
  | .fadd d a b r => some (0xB#6 ++ d ++ a ++ b ++ 0x0#6 ++ r)
  | .fsub d a b r => some (0xB#6 ++ d ++ a ++ b ++ 0x4#6 ++ r)
  | .fmul d a b r => some (0xB#6 ++ d ++ a ++ b ++ 0x8#6 ++ r)
  | .fmin d a b => some (0xB#6 ++ d ++ a ++ b ++ 0x30#8)
  | .fmax d a b => some (0xB#6 ++ d ++ a ++ b ++ 0x40#8)
  | .fcmp c p a b => some (0xB#6 ++ c ++ p ++ a ++ b ++ 0x50#8)
  | .fneg d a => some (0xB#6 ++ d ++ a ++ 0x0#6 ++ 0x60#8)
  | .fabs d a => some (0xB#6 ++ d ++ a ++ 0x0#6 ++ 0x70#8)
  | .fclamp d a b => some (0xB#6 ++ d ++ a ++ b ++ 0x80#8)
  | .fdot2 d a b r => some (0xB#6 ++ d ++ a ++ b ++ 0x24#6 ++ r)
  | .fround d a r => some (0xB#6 ++ d ++ a ++ 0x0#6 ++ 0x28#6 ++ r)
  | .fscale d a b r => some (0xB#6 ++ d ++ a ++ b ++ 0x2C#6 ++ r)
  | .faddT d a b t r => some (0xC#6 ++ d ++ a ++ b ++ 0x0#4 ++ t ++ r)
  | .fsubT d a b t r => some (0xC#6 ++ d ++ a ++ b ++ 0x1#4 ++ t ++ r)
  | .fmulT d a b t r => some (0xC#6 ++ d ++ a ++ b ++ 0x2#4 ++ t ++ r)
  | .fminT d a b t => some (0xC#6 ++ d ++ a ++ b ++ 0x3#4 ++ t ++ 0x0#2)
  | .fmaxT d a b t => some (0xC#6 ++ d ++ a ++ b ++ 0x4#4 ++ t ++ 0x0#2)
  | .fcmpF64 c p a b => some (0xC#6 ++ c ++ p ++ a ++ b ++ 0x54#8)
  | .fnegT d a t => some (0xC#6 ++ d ++ a ++ 0x0#6 ++ 0x6#4 ++ t ++ 0x0#2)
  | .fabsT d a t => some (0xC#6 ++ d ++ a ++ 0x0#6 ++ 0x7#4 ++ t ++ 0x0#2)
  | .fclampT d a b t => some (0xC#6 ++ d ++ a ++ b ++ 0x8#4 ++ t ++ 0x0#2)
  | .fdot2Packed d a b t r => some (0xC#6 ++ d ++ a ++ b ++ 0x13#5 ++ t ++ r)
  | .froundT d a t r => some (0xC#6 ++ d ++ a ++ 0x0#6 ++ 0xA#4 ++ t ++ r)
  | .fscaleT d a b t r => some (0xC#6 ++ d ++ a ++ b ++ 0xB#4 ++ t ++ r)
  | .ffma d a b t r => some (0xD#6 ++ d ++ a ++ b ++ 0x0#4 ++ t ++ r)
  | .exp2 d a => some (0xE#6 ++ d ++ a ++ 0x0#6 ++ 0x0#8)
  | .lg2 d a => some (0xE#6 ++ d ++ a ++ 0x0#6 ++ 0x10#8)
  | .rcp d a r => some (0xE#6 ++ d ++ a ++ 0x0#6 ++ 0x8#6 ++ r)
  | .rsq d a r => some (0xE#6 ++ d ++ a ++ 0x0#6 ++ 0xC#6 ++ r)
  | .sqrt d a r => some (0xE#6 ++ d ++ a ++ 0x0#6 ++ 0x10#6 ++ r)
  | .cvt d a x y m => some (0xF#6 ++ d ++ a ++ x ++ y ++ 0x0#4 ++ m)
  | .cvtpk2 d a t m => some (0xF#6 ++ d ++ a ++ t ++ 0x1#4 ++ m)
  | .cvtpk4 d a t m => some (0xF#6 ++ d ++ a ++ t ++ 0x2#4 ++ m)
  | .cvtwide d a t => some (0xF#6 ++ d ++ a ++ t ++ 0x30#8)
  | .mxscale d a t => some (0xF#6 ++ d ++ a ++ t ++ 0x40#8)
  | .mxq d a t m => some (0xF#6 ++ d ++ a ++ t ++ 0x5#4 ++ m)
  | .perm d a b => some (0x10#6 ++ d ++ a ++ b ++ 0x0#8)
  | .permx d a b => some (0x10#6 ++ d ++ a ++ b ++ 0x10#8)
  | .shflup d a b => some (0x10#6 ++ d ++ a ++ b ++ 0x20#8)
  | .shfldn d a b => some (0x10#6 ++ d ++ a ++ b ++ 0x30#8)
  | .bcastReg d a b => some (0x10#6 ++ d ++ a ++ b ++ 0x40#8)
  | .bcastImm d a b => some (0x10#6 ++ d ++ a ++ b ++ 0x41#8)
  | .voteBallot d a => some (0x11#6 ++ d ++ a ++ 0x0#6 ++ 0x0#8)
  | .voteAny d a => some (0x11#6 ++ d ++ a ++ 0x0#6 ++ 0x1#8)
  | .voteAll d a => some (0x11#6 ++ d ++ a ++ 0x0#6 ++ 0x2#8)
  | .voteUni d a => some (0x11#6 ++ d ++ a ++ 0x0#6 ++ 0x3#8)
  | .reduce d a m => some (0x11#6 ++ d ++ a ++ 0x0#6 ++ 0x1#4 ++ m)
  | .scan d a m => some (0x11#6 ++ d ++ a ++ 0x0#6 ++ 0x2#4 ++ m)
  | .argmax d a m => some (0x11#6 ++ d ++ a ++ 0x0#6 ++ 0x3#4 ++ m)
  | .matchAny d a => some (0x11#6 ++ d ++ a ++ 0x0#6 ++ 0x40#8)
  | .matchFirst d a => some (0x11#6 ++ d ++ a ++ 0x0#6 ++ 0x41#8)
  | .ld d a o => some (0x12#6 ++ d ++ a ++ o)
  | .ldc d a o => some (0x12#6 ++ d ++ a ++ o)
  | .st d a o => some (0x13#6 ++ d ++ a ++ o)
  | .ldIndexed d a b s z m => some (0x14#6 ++ d ++ a ++ b ++ s ++ z ++ m)
  | .stIndexed d a b s z m => some (0x15#6 ++ d ++ a ++ b ++ s ++ z ++ m)
  | .lds d a o => some (0x16#6 ++ d ++ a ++ o)
  | .sts d a o => some (0x16#6 ++ d ++ a ++ o)
  | .ldsh d a o => some (0x17#6 ++ d ++ a ++ o)
  | .stsh d a o => some (0x17#6 ++ d ++ a ++ o)
  | .ldl d a o => some (0x17#6 ++ d ++ a ++ o)
  | .stl d a o => some (0x17#6 ++ d ++ a ++ o)
  | .ldts d a o => some (0x17#6 ++ d ++ a ++ o)
  | .stts d a o => some (0x17#6 ++ d ++ a ++ o)
  | .atom d a b m => some (0x18#6 ++ d ++ a ++ b ++ 0x0#4 ++ m)
  | .atomcas d a b w => some (0x18#6 ++ d ++ a ++ b ++ 0x1#4 ++ w ++ 0x0#3)
  | .atomsh d a b m => some (0x18#6 ++ d ++ a ++ b ++ 0x2#4 ++ m)
  | .red d a b m => some (0x18#6 ++ d ++ a ++ b ++ 0x3#4 ++ m)
  | .copy a b m => some (0x19#6 ++ 0x0#6 ++ a ++ b ++ 0x0#4 ++ m)
  | .tbinit a b => some (0x1A#6 ++ 0x0#6 ++ a ++ b ++ 0x0#8)
  | .tbexpect a b => some (0x1A#6 ++ 0x0#6 ++ a ++ b ++ 0x10#8)
  | .tbarrive a => some (0x1A#6 ++ 0x0#6 ++ a ++ 0x0#6 ++ 0x20#8)
  | .tbwait d a b => some (0x1A#6 ++ d ++ a ++ b ++ 0x30#8)
  | .femark a b => some (0x1A#6 ++ 0x0#6 ++ a ++ b ++ 0x40#8)
  | .fepoll d a => some (0x1A#6 ++ d ++ a ++ 0x0#6 ++ 0x50#8)
  | .bar b => some (0x1B#6 ++ 0x0#12 ++ b ++ 0x0#8)
  | .bararr b => some (0x1B#6 ++ 0x0#12 ++ b ++ 0x10#8)
  | .barwait b => some (0x1B#6 ++ 0x0#12 ++ b ++ 0x20#8)
  | .bardrop b => some (0x1B#6 ++ 0x0#12 ++ b ++ 0x30#8)
  | .fence k s => some (0x1B#6 ++ k ++ 0x0#12 ++ 0x4#4 ++ s)
  | .fenceComplete _ _ => none
  | .waitcReg a p => some (0x1B#6 ++ 0x0#6 ++ a ++ 0x0#6 ++ 0x14#6 ++ p)
  | .waitcImm k p => some (0x1B#6 ++ 0x0#12 ++ k ++ 0x15#6 ++ p)
  | .waitb a => some (0x1B#6 ++ 0x0#6 ++ a ++ 0x0#6 ++ 0x60#8)
  | .tfence => some (0x1B#6 ++ 0x0#18 ++ 0x70#8)
  | .aqpush d a => some (0x1C#6 ++ d ++ a ++ 0x0#6 ++ 0x0#8)
  | .aqclose d => some (0x1C#6 ++ d ++ 0x0#12 ++ 0x10#8)
  | .mqbind d a => some (0x1C#6 ++ d ++ a ++ 0x0#6 ++ 0x20#8)
  | .mqtry d a => some (0x1C#6 ++ d ++ a ++ 0x0#6 ++ 0x30#8)
  | .rgive k => some (0x1D#6 ++ 0x0#12 ++ k ++ 0x0#8)
  | .rclaim k => some (0x1D#6 ++ 0x0#12 ++ k ++ 0x1#8)
  | .rclaimT d k => some (0x1D#6 ++ d ++ 0x0#6 ++ k ++ 0x2#8)
  | .claimGrant _ => none
  | .mma d a b m => some (0x1E#6 ++ d ++ a ++ b ++ 0x0#4 ++ m)
  | .mzero d => some (0x1E#6 ++ d ++ 0x0#12 ++ 0x10#8)
  | .mbatch d => some (0x1F#6 ++ d ++ 0x0#12 ++ 0x0#8)
  | .episet a b => some (0x1F#6 ++ 0x0#6 ++ a ++ b ++ 0x10#8)
  | .drain d a b => some (0x1F#6 ++ d ++ a ++ b ++ 0x20#8)
  | .resolveC d a b => some (0x20#6 ++ d ++ a ++ b ++ 0x0#8)
  | .resolveS d a b => some (0x20#6 ++ d ++ a ++ b ++ 0x1#8)
  | .vidq d a b => some (0x20#6 ++ d ++ a ++ b ++ 0x10#8)
  | .vidqFree d a => some (0x20#6 ++ d ++ a ++ 0x0#6 ++ 0x11#8)
  | .specchk d => some (0x20#6 ++ d ++ 0x0#12 ++ 0x20#8)
  | .specchkLive d => some (0x20#6 ++ d ++ 0x0#12 ++ 0x21#8)
  | .sigsync d => some (0x20#6 ++ d ++ 0x0#12 ++ 0x30#8)
  | .egrsv d a => some (0x21#6 ++ d ++ a ++ 0x0#6 ++ 0x0#8)
  | .egpub a => some (0x21#6 ++ 0x0#6 ++ a ++ 0x0#6 ++ 0x10#8)
  | .egpush a b => some (0x21#6 ++ 0x0#6 ++ a ++ b ++ 0x20#8)
  | .egrel d a b => some (0x21#6 ++ d ++ a ++ b ++ 0x30#8)
  | .egrelV d a b => some (0x21#6 ++ d ++ a ++ b ++ 0x31#8)
  | .kvxl d a b => some (0x22#6 ++ d ++ a ++ b ++ 0x0#8)
  | .kvappend d a b => some (0x22#6 ++ d ++ a ++ b ++ 0x10#8)
  | .kvmap d a b => some (0x22#6 ++ d ++ a ++ b ++ 0x20#8)
  | .flpop d a => some (0x23#6 ++ d ++ a ++ 0x0#6 ++ 0x0#8)
  | .flpush a b => some (0x23#6 ++ 0x0#6 ++ a ++ b ++ 0x10#8)
  | .pref a b => some (0x24#6 ++ 0x0#6 ++ a ++ b ++ 0x0#8)
  | .prefRo a b => some (0x24#6 ++ 0x0#6 ++ a ++ b ++ 0x1#8)
  | .cinvRo => some (0x24#6 ++ 0x0#18 ++ 0x10#8)
  | .cinvL1 => some (0x24#6 ++ 0x0#18 ++ 0x11#8)
  | .pgreq a b => some (0x24#6 ++ 0x0#6 ++ a ++ b ++ 0x20#8)
  | .tlbinv a => some (0x24#6 ++ 0x0#6 ++ a ++ 0x0#6 ++ 0x30#8)
  | .tlbinvAll => some (0x24#6 ++ 0x0#18 ++ 0x31#8)
  | .vdot4I16 d a b m => some (0x30#6 ++ d ++ a ++ b ++ 0x0#5 ++ m)
  | .vdot4I4 d a b m => some (0x30#6 ++ d ++ a ++ b ++ 0x2#5 ++ m)
  | .vmovBt d a => some (0x31#6 ++ d ++ a ++ 0x0#6 ++ 0x0#8)
  | .vorBmm d a b => some (0x31#6 ++ d ++ a ++ b ++ 0x10#8)
  | .vxorBmm d a b => some (0x31#6 ++ d ++ a ++ b ++ 0x20#8)
  | .emulatedMajor w => some w
  | .ximm x => some (0x3F#6 ++ x)
  | .enop => some (0x0#6 ++ 0x0#18 ++ 0x0#8)
  | .eadd d a b => some (0x1#5 ++ d ++ a ++ b ++ 0x0#7 ++ 0x0#8)
  | .emul d a b => some (0x2#5 ++ d ++ a ++ b ++ 0x0#7 ++ 0x0#8)
  | .efma d a b => some (0x3#5 ++ d ++ a ++ b ++ 0x0#7 ++ 0x0#8)
  | .emax d a b => some (0x4#5 ++ d ++ a ++ b ++ 0x0#7 ++ 0x0#8)
  | .emin d a b => some (0x5#5 ++ d ++ a ++ b ++ 0x0#7 ++ 0x0#8)
  | .eclamp d a b => some (0x6#5 ++ d ++ a ++ b ++ 0x0#7 ++ 0x0#8)
  | .eexp2 d a => some (0x7#5 ++ d ++ a ++ 0x0#11 ++ 0x0#8)
  | .ecvt d a c => some (0x8#5 ++ d ++ a ++ 0x0#11 ++ 0x0#5 ++ c)
  | .emovReg d a => some (0x9#5 ++ d ++ a ++ 0x0#11 ++ 0x0#8)
  | .emovImm d k => some (0x9#5 ++ d ++ 0x1#9 ++ k)
  | .esel d a b => some (0xA#5 ++ d ++ a ++ b ++ 0x0#7 ++ 0x0#8)
  | .erow d => some (0xB#5 ++ d ++ 0x0#15 ++ 0x0#8)
  | .ecol d => some (0xC#5 ++ d ++ 0x0#15 ++ 0x0#8)
  | .eldb d o => some (0xD#5 ++ d ++ 0x0#11 ++ o)
  | .elds d o => some (0xE#5 ++ d ++ 0x0#11 ++ o)
  | .est a z => some (0x1E#6 ++ 0x0#3 ++ a ++ 0x0#11 ++ 0x0#6 ++ z)
  | .estg a z => some (0x20#6 ++ 0x0#3 ++ a ++ 0x0#11 ++ 0x0#6 ++ z)
  | .ered a => some (0x22#6 ++ 0x0#3 ++ a ++ 0x0#11 ++ 0x0#8)
  | .esig a => some (0x24#6 ++ 0x0#3 ++ a ++ 0x0#11 ++ 0x0#8)
  | .eend => some (0x26#6 ++ 0x0#18 ++ 0x0#8)
  | .doorbellWrite _ _ _ _ => none
  | .walkerTakeRecord _ => none
  | .walkerReadRetry _ => none
  | .launchNode _ => none
  | .conditionalNode _ => none
  | .whileNode _ => none
  | .forkNode _ => none
  | .forkVidsTaken _ => none
  | .resolveWaitNode _ => none
  | .resolveWaitTimeout _ => none
  | .endNode _ => none
  | .nodeStepLimit _ => none
  | .dispatchDecision _ => none
  | .gangAged _ _ => none
  | .coresidentPlacement => none
  | .clearingDone _ => none
  | .portArbitration _ _ => none
  | .reconvergenceArrival _ _ _ => none
  | .joinwComplete _ _ _ => none
  | .joinwTimeout _ _ _ => none
  | .joinwDeadlockBreak _ _ => none
  | .warpTrapEntry _ _ => none
  | .linkwatchTrap _ _ => none
  | .loadDataReturn _ _ _ => none
  | .storeAcknowledge _ _ _ => none
  | .messageArrive _ => none
  | .barrierDead _ => none
  | .budgetExceeded _ => none
  | .blockComplete _ => none
  | .blockRelease _ => none
  | .gridComplete _ => none
  | .runaheadEnter _ _ => none
  | .runaheadExit _ _ => none
  | .apAccessResume _ => none
  | .copyValidation _ _ => none
  | .copySectorLand _ _ => none
  | .matrixCommandStart _ => none
  | .matrixCommandComplete _ _ => none
  | .drainComplete _ _ => none
  | .resolveApply _ => none
  | .resolveComplete _ => none
  | .sliceResolveNotice _ _ => none
  | .versionNoticeApply _ => none
  | .sweepPassStart _ _ => none
  | .sweepVisit _ _ => none
  | .sweepPassEnd _ _ => none
  | .vidRecycle _ _ => none
  | .pairCompare _ _ => none
  | .pairRerunStart _ _ => none
  | .sliceRequest _ _ _ => none
  | .sliceReplyDeliver _ _ _ => none
  | .remoteWriteApply _ _ => none
  | .guestUpdateApply _ _ => none
  | .guestInvalidationApply _ _ => none
  | .clockNoticeTimer _ => none
  | .clockNoticeApply _ _ => none
  | .clockAckRequest _ _ => none
  | .clockAck _ _ => none
  | .patrolScrubVisit _ _ _ => none
  | .pageWalk _ _ _ _ _ => none
  | .pageRestoreStart _ _ => none
  | .pageRestoreComplete _ => none
  | .evictionCommand _ _ _ _ _ => none
  | .evictionCommit _ => none
  | .shootdownRequest _ _ _ => none
  | .shootdownAck _ _ => none
  | .gridHaltReport _ => none
  | .haltArrive _ _ => none
  | .dumpRecordWrite _ => none
  | .dumpHeaderWrite _ _ => none
  | .haltComplete _ => none
  | .regfileScrub _ _ _ _ _ => none
  | .errorReport _ _ _ => none
  | .networkFlitHop _ => none
  | .bridgeDeliver _ _ => none
  | .feltFlitReceive _ _ _ => none
  | .feltReplay _ _ => none
  | .replayWindowExpiry _ _ => none
  | .moduleRetrain _ _ _ => none
  | .retrainComplete _ _ => none
  | .bundleDrainComplete _ => none
  | .ualinkRequestReceive _ => none
  | .ualinkBarrierSignal _ => none
  | .ualinkResponse _ _ _ => none
  | .ualinkPortStateChange _ _ => none
  | .hostBar4Access _ _ _ _ => none
  | .queueDescriptorWrite _ _ => none
  | .egressDescriptorWrite _ _ => none
  | .egressHcurWrite _ _ => none
  | .shareTableWrite _ _ _ => none
  | .ageThresholdWrite _ _ => none
  | .kvPoolDescriptorWrite _ _ _ => none
  | .logbaseWrite _ _ => none
  | .dumpRegionWrite _ _ _ => none
  | .membersWrite _ _ => none
  | .acceptCounterWrite _ _ _ => none
  | .pcctlClear _ => none
  | .pcctlFreeze _ _ => none
  | .counterZeroWrite _ _ _ => none
  | .linkRegisterWrite _ _ _ _ => none
  | .linkRateChange _ _ _ _ => none
  | .peerSlotTableWrite _ _ _ => none
  | .addressSpaceTableWrite _ _ _ => none
  | .rstreqWrite _ => none
  | .registerWrite _ _ => none
  | .mctpWarmResetRequest _ => none
  | .spdmRequest _ _ => none
  | .coldReset => none
  | .bootImageTimeout => none
  | .firmwareImageOffer _ => none
  | .warmReset => none
  | .functionLevelReset _ => none
  | .powerLimitThrottle _ => none
  | .powerClockRestore _ _ => none
  | .securitySensorTrip _ _ => none
  | .selfRefreshEntry _ => none
  | .selfRefreshExit _ => none
  | .scrubWithClear _ _ => none
  | .hostMemoryCompletion _ => none

/-- The 32-bit word that four bytes hold, least significant byte first (R3). -/
def wordOfBytes (b0 b1 b2 b3 : W8) : W32 := b3 ++ b2 ++ b1 ++ b0

/-- The instruction that the decoder reads from a table row's word: a packet word without prefixes, and where no packet
instruction has that word, an epilogue word. -/
def decodeTableWord (nbits w : Nat) : Option Instr :=
  if nbits = 32 then
    let v := BitVec.ofNat 32 w
    let word := wordOfBytes (v.extractLsb' 0 8) (v.extractLsb' 8 8) (v.extractLsb' 16 8) (v.extractLsb' 24 8)
    match decode [] word with
    | some i => some i
    | none => decodeEpi word
  else none

end Sys2Proof
end

