-- ==== Sys2Proof/Config.lean ====
section
/-! DEFINITION. What the part fixes as constants, and the free values: what the spec leaves open while the machine goes
on (R8). A free value has no body, so no statement can rest on what it is. -/

namespace Sys2Proof.Config

/-- A free bit: whether an early read takes the new value (R93), whether a load of a broke version is answered (R285). -/
opaque freeBit : Nat → Bool

/-- A free byte: each undefined byte the matrix engine reads (R234). -/
opaque freeByte : Nat → W8

/-- A free word of 32 bits: each value of a poisoned accumulator element (R230), each undefined barrier field (R206). -/
opaque freeWord : Nat → W32

/-- A free number: the depth that `VIDQ` shows of a version of depth 16 in its 4 bits (R248). -/
opaque freeNat : Nat → Nat

/-- The signature bytes of an SPDM answer (R449): the identity key is fused per package. -/
opaque freeSignature : Nat → W64

/-- The measurement of the mask ROM (R449). -/
opaque romMeasurement : W64

/-- The measurement of a firmware image of a digest (R449). -/
opaque imageMeasurement : Nat → W64

/-- The measurement of the fused policy (R449). -/
opaque policyMeasurement : W64

/-- The fused minimum security version of a firmware image (R447). -/
opaque fusedMinimumVersion : Nat

/-- The fused policy bit ERASE (R450). -/
opaque fusedErase : Bool

/-- Where the die's firmware has placed a record of a slice's spill partition: its offset in the die's HBM (R287). -/
opaque spillPlace (slice record : Nat) : Nat

/-- Dies of the package (R10). -/
def dies : Nat := 12

/-- Cores of a die (R15). -/
def coresPerDie : Nat := 128

/-- Last-level-cache slices of a die (R15). -/
def slicesPerDie : Nat := 64

/-- Host work queues of a die (R15). -/
def queuesPerDie : Nat := 1536

/-- Capacity of an `aq` queue (R37, R76). -/
def aqDepth : Nat := 32

/-- Messages a receive register holds (R37). -/
def mqDepth : Nat := 16

/-- Slots a run may hold (R91). -/
def runLimit : Nat := 24

/-- Entries of the run-ahead buffer (R52). -/
def aheadBuffer : Nat := 16

/-- Slots a run-ahead may issue (R360). -/
def aheadLimit : Nat := 64

/-- The value at which an in-flight counter stops an access (R214). -/
def counterLimit : Nat := 63

/-- Entries of the fragment table (R366). -/
def fragmentEntries : Nat := 32

/-- Commands the matrix command queue holds (R232). -/
def matrixQueue : Nat := 16

/-- Warp-registers of a core (R15, R53). -/
def warpRegisters : Nat := 768

/-- Version copies of one line that a slice holds (R286). -/
def copiesPerLine : Nat := 4

/-- Records of a slice's spill partition (R287). -/
def spillRecords : Nat := 65536

/-- Greatest depth of a version tree (R33). -/
def versionDepth : Nat := 16

/-- Entries of an allocation log (R372). -/
def logEntries : Nat := 1048576

/-- Node steps of an invocation (R346). -/
def nodeSteps : Nat := 1048576

end Sys2Proof.Config
end

