-- ==== Sys2Proof/Machine/Mem.lean ====
section
/-! DEFINITION. The two containers of the state: byte memories in one canonical form, and finite maps keyed by a
number, in ascending order of their keys. -/

namespace Sys2Proof.Machine

/-- A byte memory: cells of strictly rising address, none of which holds the value that an unlisted address reads as. -/
abbrev Mem := List Host.Cell

/-- What an unlisted byte reads as: zero, which clearing leaves in core-local memories (R263) and scrubbing with clear
in HBM (R299, R447). -/
def blankByte : W8 := 0#8

/-- The byte at an address. -/
def Mem.read (m : Mem) (x : Nat) : W8 :=
  match m with
  | [] => blankByte
  | (y, b) :: rest => if y = x then b else if x < y then blankByte else Mem.read rest x

/-- Take an address out of a memory, so that it reads as blank. -/
def Mem.erase (m : Mem) (x : Nat) : Mem :=
  match m with
  | [] => []
  | (y, b) :: rest => if y = x then rest else if x < y then (y, b) :: rest else (y, b) :: Mem.erase rest x

/-- List a byte at an address, whatever its value. -/
def Mem.insert (m : Mem) (x : Nat) (v : W8) : Mem :=
  match m with
  | [] => [(x, v)]
  | (y, b) :: rest =>
    if y = x then (x, v) :: rest else if x < y then (x, v) :: (y, b) :: rest else (y, b) :: Mem.insert rest x v

/-- Write one byte, keeping the canonical form. -/
def Mem.write (m : Mem) (x : Nat) (v : W8) : Mem :=
  if v = blankByte then m.erase x else m.insert x v

/-- Every listed address is at or above `lo`, addresses rise strictly and no listed byte is blank. -/
def Mem.wfFrom (lo : Nat) (m : Mem) : Bool :=
  match m with
  | [] => true
  | (y, b) :: rest => decide (lo ≤ y) && decide (b ≠ blankByte) && Mem.wfFrom (y + 1) rest

/-- The canonical form of a memory. -/
def Mem.wf (m : Mem) : Bool := Mem.wfFrom 0 m

/-- `n` bytes from an address up. -/
def Mem.readBytes (m : Mem) (x n : Nat) : List W8 := (List.range n).map fun k => m.read (x + k)

/-- Write a list of bytes from an address up, in order. -/
def Mem.writeBytes (m : Mem) (x : Nat) (bs : List W8) : Mem :=
  match bs with
  | [] => m
  | b :: rest => Mem.writeBytes (m.write x b) (x + 1) rest

/-- The number that a list of bytes holds, least significant byte first (R3). -/
def natOfBytes (bs : List W8) : Nat :=
  match bs with
  | [] => 0
  | b :: rest => b.toNat + 256 * natOfBytes rest

/-- The `n` low bytes of a number, least significant first (R3). -/
def bytesOfNat (n v : Nat) : List W8 :=
  match n with
  | 0 => []
  | k + 1 => BitVec.ofNat 8 v :: bytesOfNat k (v / 256)

/-- The number in `n` bytes at an address. -/
def Mem.readNat (m : Mem) (x n : Nat) : Nat := natOfBytes (m.readBytes x n)

/-- A finite map keyed by a number, its keys in ascending order. -/
abbrev KMap (α : Type) := List (Nat × α)

/-- The value a key has, if any. -/
def KMap.find {α : Type} (m : KMap α) (k : Nat) : Option α :=
  match m with
  | [] => none
  | (j, v) :: rest => if j = k then some v else KMap.find rest k

/-- Give a key a value. -/
def KMap.put {α : Type} (m : KMap α) (k : Nat) (v : α) : KMap α :=
  match m with
  | [] => [(k, v)]
  | (j, w) :: rest => if j = k then (k, v) :: rest else if k < j then (k, v) :: (j, w) :: rest else (j, w) :: KMap.put rest k v

/-- Take a key out. -/
def KMap.del {α : Type} (m : KMap α) (k : Nat) : KMap α :=
  match m with
  | [] => []
  | (j, w) :: rest => if j = k then KMap.del rest k else (j, w) :: KMap.del rest k

/-- Change the value of a key that is there. -/
def KMap.alter {α : Type} (m : KMap α) (k : Nat) (f : α → α) : KMap α :=
  match m with
  | [] => []
  | (j, w) :: rest => if j = k then (j, f w) :: rest else (j, w) :: KMap.alter rest k f

/-- Element `k` of a list, or the default given. -/
def nth {α : Type} (l : List α) (k : Nat) (dflt : α) : α := (l[k]?).getD dflt

/-- Change element `k` of a list, if there is one. -/
def alterAt {α : Type} (l : List α) (k : Nat) (f : α → α) : List α :=
  match l, k with
  | [], _ => []
  | x :: rest, 0 => f x :: rest
  | x :: rest, j + 1 => x :: alterAt rest j f

/-- Change element `k` of a list that stands for a file in which every element not listed is `dflt`. -/
def alterPad {α : Type} (dflt : α) (l : List α) (k : Nat) (f : α → α) : List α :=
  match l, k with
  | [], 0 => [f dflt]
  | [], j + 1 => dflt :: alterPad dflt [] j f
  | x :: rest, 0 => f x :: rest
  | x :: rest, j + 1 => x :: alterPad dflt rest j f

/-- Take element `k` out of a list. -/
def dropAt {α : Type} (l : List α) (k : Nat) : List α :=
  match l, k with
  | [], _ => []
  | _ :: rest, 0 => rest
  | x :: rest, j + 1 => x :: dropAt rest j

/-- A set of numbers as a strictly rising list: add one. -/
def setAdd (l : List Nat) (x : Nat) : List Nat :=
  match l with
  | [] => [x]
  | y :: rest => if y = x then y :: rest else if x < y then x :: y :: rest else y :: setAdd rest x

/-- Take a number out of a set. -/
def setDel (l : List Nat) (x : Nat) : List Nat := l.filter fun y => y != x

end Sys2Proof.Machine
end

