-- ==== Sys2Proof/Machine/State.lean ====
section
/-! DEFINITION. The state of the package: everything the spec gives the machine, as plain data. Fields whose docstring
says MODEL are the model's own: they hold what is due next, or mark what the spec only describes in words. -/

namespace Sys2Proof.Machine

/-! ## Registers, slots and what a thread holds -/

/-- A vector register: 32 lanes, with a taint bit and a poison mark per lane (R37, R50, R51). -/
structure VReg where
  val : List W32
  taint : W32
  poison : W32
  deriving DecidableEq, Repr

/-- A vector register of zeros, untainted and unpoisoned (R37). -/
def VReg.zero : VReg := { val := List.replicate 32 0#32, taint := 0#32, poison := 0#32 }

/-- A scalar register with its taint bit and its poison mark (R38, R50, R51). -/
structure SReg where
  val : W64
  taint : Bool
  poison : Bool
  deriving DecidableEq, Repr

/-- A scalar register of zero (R37). -/
def SReg.zero : SReg := { val := 0#64, taint := false, poison := false }

/-- The name of a register that a warp or an access processor can read or write (R37). -/
inductive RegRef where
  | v (n : Nat)
  | s (n : Nat)
  | p (n : Nat)
  deriving DecidableEq, Repr

/-- The four in-flight counters, by their path code (R193, R209). -/
inductive Path where
  | gl | gs | lo | cp
  deriving DecidableEq, Repr

/-- The scopes of a fence, in the order of their codes (R209, R326). -/
inductive Scope where
  | warp | block | gang | die | pkg | pod | sys
  deriving DecidableEq, Repr

/-- The kinds of a fence, in the order of their codes (R209). -/
inductive FenceKind where
  | ar | acq | rel | sc
  deriving DecidableEq, Repr

/-- What a waiting slot waits for: the blocking waits of the spec. A wait that will write a scalar register writes none once an instruction issued later has
written it (R42): it names register 64 then. -/
inductive Wait where
  /-- A pop of an `aq` queue that is open and has no entry for it (R45, R46). -/
  | pop (q : Nat)
  /-- A receive from an empty `mqi` register (R45). -/
  | receive (q : Nat)
  /-- A send to a full receive register, or to a block not yet resident (R47, R223). -/
  | send (q : Nat)
  /-- `BAR` (R210). -/
  | bar (n : Nat)
  /-- `BARWAIT` (R210). -/
  | barwait (n : Nat)
  /-- `TBWAIT`: the register it writes, with its taint, the barrier's address and the phase (R207). -/
  | tbwait (d : Nat) (addr : Nat) (phase : Nat) (taint : Bool)
  /-- `WAITC`: the counter must come to the value or below (R214). -/
  | counter (path : Path) (k : Nat)
  /-- `WAITB` (R215). -/
  | batch (n : Nat)
  /-- `RGIVE`, until `.gl` and `.lo` are 0 (R55). -/
  | rgive
  /-- `RCLAIM`, until the claim is granted (R55). -/
  | rclaim
  /-- `FENCE` (R213); once the warp's own accesses are performed, the clock whose acknowledgement was asked for (R337) and
  the numbers below which the writes to the host and to peers must be acknowledged (R336). -/
  | fence (kind : FenceKind) (scope : Scope) (asked : Option (List W32 × Nat × Nat))
  /-- `JOINW` (R129): its predicate, its expected lanes, when it began, its limit, and the PC of its target word. -/
  | joinw (pd : Nat) (expected : W32) (start : Nat) (limit : Nat) (tpc : W64)
  /-- `RESOLVE` (R244), named by its number among all accesses. -/
  | resolve (tag : Nat)
  /-- `SIGSYNC` (R250), the n-th of the block, the predicate it writes in the lanes named, and the number below which the
  block's writes must have been acknowledged. -/
  | sigsync (pd : Nat) (lanes : W32) (n : Nat) (tag : Nat)
  /-- `EGRSV` (R253): the register it writes, with its taint, the positions it asks for, and the cycle in which it issued. -/
  | egrsv (d : Nat) (taint : Bool) (count : Nat) (since : Nat)
  /-- `EGREL` (R255), until its release is done: the domain, the register it writes, with its taint and its value; and, once the accesses
  before it are performed, the numbers below which writes to the host and to peers must be acknowledged. -/
  | egrel (dom d : Nat) (taint : Bool) (v : W64) (asked : Option (Nat × Nat))
  /-- A full matrix command queue (R232), a full `aq` queue (R222) or an unfinished source of the access processor. -/
  | structural
  /-- An access of the access processor to a page that is not present (R386). -/
  | page (asid : Nat) (page : Nat)
  /-- A fetch that found a fatal address: the grid's halt is on its way (R310, R394). -/
  | halted
  deriving DecidableEq, Repr

/-- The state of a PC slot (R49). -/
inductive SlotState where
  | empty
  | live
  | waiting (w : Wait)
  deriving DecidableEq, Repr

/-- A PC slot: its state, the PC of its next instruction word, its lanes, its reconvergence address, and the fragment
its lanes came from (R49, R65). -/
structure Slot where
  st : SlotState
  pc : W64
  mask : W32
  ra : Option W64
  fragId : W8
  deriving DecidableEq, Repr

/-- The empty slot. -/
def Slot.none : Slot := { st := .empty, pc := 0#64, mask := 0#32, ra := Option.none, fragId := 0xFF#8 }

/-- A frame of the divergence stack (R123, R367); a path frame keeps the fragment its lanes came from (R65). -/
inductive Frame where
  | path (pc : W64) (mask : W32) (ra : Option W64) (frag : W8)
  | join (l : W64) (expected arrived : W32) (saved : Option W64)
  deriving DecidableEq, Repr

/-- An entry of the loop stack (R121). -/
structure LoopEntry where
  start : W64
  last : W64
  count : W32
  deriving DecidableEq, Repr

/-- A yield hint (R90). -/
inductive Hint where
  | neutral | yield | raise
  deriving DecidableEq, Repr

/-- A result that may not be read yet: the register, the lanes of it that were written, the cycle in which the instruction issued and the
cycle from which it may be read, and the values it replaces (R42, R88, R93). One that is ready in its own cycle is unseen only within its
chain group (R92). -/
structure Recent where
  reg : RegRef
  lanes : W32
  issuedAt : Nat
  readyAt : Nat
  old : VReg
  oldScalar : SReg
  oldPred : W32
  deriving DecidableEq, Repr

/-- What a trap entry records (R68, R384, R385). -/
structure TrapInfo where
  code : W8
  detail : W8
  resume : Bool
  pc : W64
  mask : W32
  deriving DecidableEq, Repr

/-! ## Memory requests -/

/-- The memory spaces, by their codes (R98). -/
inductive Space where
  | global | ls | sh | tw | ta | tc
  deriving DecidableEq, Repr

/-- What one element of a request does at its home. -/
inductive ElemOp where
  | read
  | put (v : BitVec 128)
  | atom (op : AtomOp) (wide : Bool) (v : W64)
  | cas (wide : Bool) (cmp new : W64)
  | kv (v : W32)
  deriving DecidableEq, Repr

/-- One element of a request to a line: the lane it belongs to, its virtual address, its byte within the line (its
nibble for a 4-bit element), its SIZE code, what it does, and what it returned. -/
structure Elem where
  lane : Nat
  va : Nat
  off : Nat
  size : Nat
  op : ElemOp
  got : BitVec 128
  poison : Bool
  deriving DecidableEq, Repr

/-- How far a request to one line has come: not yet at its home; sent to another die; performed there with the answer on
its way, stamped with the clock of the home die (R331); answered. -/
inductive ReqState where
  | pending
  | sent
  | replied (home : Nat) (stamp : List W32)
  | answered
  deriving DecidableEq, Repr

/-- Whose request it is. -/
inductive Owner where
  | access (core agent id : Nat)
  | copy (core id unit : Nat)
  | drain (core id : Nat)
  | host
  | engine
  | peer (pkg : Nat)
  deriving DecidableEq, Repr

/-- A request to one 128-byte line (R278): whose it is, its number among all accesses, the domain and VID of its issuer, whether its page is versioned in that
domain, the physical address of the line, its traffic class (R297), whether it is `.st`, its elements, and the line as
the answer shows it, for fills; `epoch` says whether the answer may fill L1. `plain` says that its page is plain (R280), `ordered` that an
address of it is tainted (R338), and `kept` that its home holds the line and, for a guest, its bit in the holder mask (R280, R288). -/
structure LineReq where
  owner : Owner
  tag : Nat
  die : Nat
  domain : Nat
  vid : Nat
  versioned : Bool
  line : Nat
  cls : Nat
  distant : Bool
  elems : List Elem
  st : ReqState
  epoch : Nat
  missed : Bool
  fill : BitVec 1024
  fillBad : BitVec 4
  plain : Bool
  ordered : Bool
  kept : Bool
  deriving DecidableEq, Repr

/-- The kinds of access that a counter counts (R193, R207, R257, R259). -/
inductive AccessKind where
  | load | store | atom | cas | red
  | kvxl | kvappend | kvmap
  | tbinit | tbexpect | tbarrive | femark | fepoll
  | copy
  deriving DecidableEq, Repr

/-- How a load is served (R98, R188). -/
inductive Mode where
  | normal | ro | nf | st | consume | full
  deriving DecidableEq, Repr

/-- An access that a thread has issued (R193). `tag` names it; `lanes` are the lanes that passed its guard; core-local
elements stand in `elems`, those of a 128-bit access that were performed before the others in `landed` (R328), and requests to global lines in `reqs`; `extra` holds what the lanes of a `KVXL` add to their
block's place; `taint` is what the lanes of the result take; `stuck` marks one whose translation was fatal, which
never completes (R310). -/
structure Access where
  tag : Nat
  kind : AccessKind
  path : Path
  space : Space
  mode : Mode
  scalar : Bool
  dst : Nat
  dests : List (RegRef × W32)
  size : Nat
  pc : W64
  lanes : W32
  absent : W32
  reqs : List LineReq
  elems : List Elem
  landed : List Elem
  extra : List W64
  taint : W32
  stuck : Bool
  done : Bool
  deriving DecidableEq, Repr

/-! ## Run-ahead -/

/-- An entry of the run-ahead buffer: the register it holds and its invalid bits (R52). -/
structure AheadEntry where
  reg : RegRef
  invalid : W32
  deriving DecidableEq, Repr

/-- A run-ahead under way (R359, R360): the slot that runs ahead and what it held as it waited, the registers and loop stack
to restore, the registers that outstanding loads will write, the buffer, and the slots issued in it. -/
structure Ahead where
  slot : SlotId
  saved : Slot
  v : List VReg
  s : List SReg
  p : List W32
  loops : List LoopEntry
  fpstat : W32
  gen : List W32
  recent : List Recent
  unknown : List RegRef
  buffer : List AheadEntry
  issued : Nat
  deriving DecidableEq, Repr

/-- A warp, or the access processor of a block (R36, R37). -/
structure Thread where
  v : List VReg
  s : List SReg
  p : List W32
  slotA : Slot
  slotB : Slot
  stack : List Frame
  loops : List LoopEntry
  window : Nat
  role : W8
  trapCause : W32
  trapPc : W64
  trapMask : W32
  handler : Option SlotId
  fpstat : W32
  wctl : W32
  inhibit : Bool
  gen : List W32
  inflight : List Access
  recent : List Recent
  nextAt : Nat
  hint : Hint
  lastSlot : SlotId
  readyAt : Nat
  passed : Nat
  linkEvents : List W8
  deferred : List TrapInfo
  ahead : Option Ahead
  aheadDone : List SlotId
  parked : Bool
  ls : List Mem
  lsPoison : List Nat
  fullTrap : Option W64
  ended : Bool
  deriving DecidableEq, Repr

/-! ## The block and its core -/

/-- An `aq` queue (R37, R46); for each entry, the number below which the accesses of the access processor must be performed before a pop may take
it (R339); and the slots whose pops wait, each with the cycle in which it issued, in their order (R46). -/
structure AQueue where
  entries : List W64
  after : List Nat
  waiters : List (Nat × SlotId × Nat)
  closed : Bool
  deriving DecidableEq, Repr

/-- A queue that is closed and empty. -/
def AQueue.shut : AQueue := { entries := [], after := [], waiters := [], closed := true }

/-- A receive register: its messages, oldest first, and how many more have been promised (R37, R47); how many arrived in the last cycle in
which one did (R225). -/
structure MQueue where
  messages : List (List W32)
  promised : Nat
  freshAt : Nat
  fresh : Nat
  deriving DecidableEq, Repr

/-- A receive register that holds nothing. -/
def MQueue.empty : MQueue := { messages := [], promised := 0, freshAt := 0, fresh := 0 }

/-- A binding of a send register: the target gang, block and receive register, and the cycle in which it was made (R223). -/
structure Binding where
  gang : Nat
  block : Nat
  queue : Nat
  since : Nat
  deriving DecidableEq, Repr

/-- An entry of the fragment table (R366). -/
structure Fragment where
  valid : Bool
  ready : Bool
  warp : Nat
  cause : W8
  pc : W64
  ra : Option W64
  mask : W32
  key : W64
  deriving DecidableEq, Repr

/-- A free fragment entry. -/
def Fragment.free : Fragment :=
  { valid := false, ready := false, warp := 0, cause := 0#8, pc := 0#64, ra := none, mask := 0#32, key := 0#64 }

/-- An entry of the barrier table, with the lane-arrival mask and the phase of the last arrival of each warp
(R210, R368); `after` holds for each warp the number below which its accesses must be performed before its arrival counts (R339); `know` what
the warps that arrived in this phase knew of others' `TFENCE`s, `knew` the same of the last phase (R216); `leaving` are the warps that have ended
after they arrived in this phase, while their arrival does not count yet (R210, R339). -/
structure Barrier where
  phase : W32
  expected : Nat
  dropped : List Nat
  arrived : List Nat
  lanes : List W32
  dropping : List W32
  after : List Nat
  know : List Nat
  knew : List Nat
  lastPhase : List W32
  leaving : List Nat
  deriving DecidableEq, Repr

/-- How far a copy has come: not validated; moving, with the units landed so far; failed or cancelled, with the code that
its remaining units count with (R201 to R204). -/
inductive CopyState where
  | waiting
  | moving
  | ended
  deriving DecidableEq, Repr

/-- A validated deckle record (R201, R373). -/
structure Deckle where
  base : Nat
  extents : List Nat
  strides : List Nat
  box : List Nat
  typeLog : Nat
  rank : Nat
  fill : Nat
  skew : Nat
  deriving DecidableEq, Repr

/-- A sector that a copy moves (R203): its reads, and once these are answered its writes; whether its bytes have landed in core-local memory and wait only
to be counted (R205). -/
structure CopyUnit where
  unit : Nat
  reads : List LineReq
  writes : List LineReq
  landed : Bool
  deriving DecidableEq, Repr

/-- A `COPY` that the copy unit holds (R200): who issued it and from where, its direction and local space, its operands, its
record once validated; the sectors under way, those counted, and those written to a peer in their order, with the first
of its lines; signals cover the first `signalled` of them (R426). -/
structure Copy where
  id : Nat
  agent : Nat
  tag : Nat
  pc : W64
  mask : W32
  out : Bool
  space : Space
  recAddr : W64
  loc : W64
  coords : List Int
  barrier : Option Nat
  reserved : Bool
  st : CopyState
  deckle : Option Deckle
  units : List CopyUnit
  counted : List Nat
  peerWait : List Nat
  peerLine : Nat
  signalled : Nat
  deriving DecidableEq, Repr

/-- A matrix command (R228): an MMA with its type and bases, a clearing, or a drain with its destination, operands and
the epilogue setting it issued under (R235). -/
inductive MatrixOp where
  | mma (type : Nat) (a b : Nat)
  | mzero
  | drain (dest : W64) (pitch : Nat) (barrier : Option Nat) (program : List W32) (aux : Nat)
  deriving DecidableEq, Repr

/-- The run of a drain (R237): the row and group it is at, the word it executes next, the registers e0 to e15 and their
poisoned elements, the writes it has made to global memory, whether every run has ended; and how many sectors it has written
to a peer, with the first of its lines; signals cover the first `signalled` of them (R426). -/
structure EpiRun where
  row : Nat
  group : Nat
  word : Nat
  e : List (List W32)
  pois : List (List Bool)
  writes : List LineReq
  finished : Bool
  peerSectors : Nat
  peerLine : Nat
  signalled : Nat
  deriving DecidableEq, Repr

/-- The state of a matrix command: in the queue, running in the engine, draining, completed (R232, R233). -/
inductive MatrixState where
  | queued
  | running
  | draining (run : EpiRun)
  | done
  deriving DecidableEq, Repr

/-- Bytes of `tw:` or `ta:` that a matrix command may not rely on yet (R216, R234): the warp that stored them, with the number of its `TFENCE`
since, or the barrier of the copy that wrote them (none for a copy without one); what they held before, where a command reads the old or the
new value of each: else the value is undefined; and the sectors of them that were marked before (R230, R234). -/
structure Loose where
  warp : Option Nat
  fence : Option Nat
  barrier : Option Nat
  space : Space
  addr : Nat
  len : Nat
  old : Option (List W8)
  bad : List Nat
  deriving DecidableEq, Repr

/-- A matrix command with its place in the batches (R233); `tag` is its number among all
accesses, and `loose` the bytes that it may not rely on (R234). -/
structure MatrixCmd where
  id : Nat
  tag : Nat
  pc : W64
  tile : Nat
  op : MatrixOp
  batch : W32
  loose : List Loose
  st : MatrixState
  deriving DecidableEq, Repr

/-- An L1 line: its line, its bytes, which sectors are held, their poison marks (R271). -/
structure L1Line where
  line : Nat
  data : BitVec 1024
  valid : BitVec 4
  poison : BitVec 4
  deriving DecidableEq, Repr

/-- A translation held in a TLB (R312, R313). -/
structure TlbEntry where
  asid : Nat
  page : Nat
  big : Bool
  frame : Nat
  w : Bool
  x : Bool
  d : Bool
  ver : Bool
  domain : Nat
  deriving DecidableEq, Repr

/-- What an issue port is doing: the warp and slot whose run it executes, the slots that run has issued, and the cycle
from which the port, and its float pipe, can issue again (R17, R31, R87). -/
structure Port where
  run : Option (Nat × SlotId)
  count : Nat
  nextAt : Nat
  pipeAt : Nat
  deriving DecidableEq, Repr

/-- A port on which nothing runs. -/
def Port.idle : Port := { run := none, count := 0, nextAt := 0, pipeAt := 0 }

/-- The resources and addresses a block has from its launch record (R363). -/
structure Launch where
  code : W64
  params : W64
  epitab : W64
  epiCount : Nat
  warpEntry : W32
  apEntry : W32
  trapEntry : W32
  emulEntry : W32
  warps : Nat
  window : Nat
  laneUnits : Nat
  shared : Nat
  tileW : Nat
  tileA : Nat
  tileC : Nat
  budget : Nat
  roles : List W8
  seed : W32
  divFrames : Nat
  asid : Nat
  domain : Nat
  ahead : Bool
  coresident : Bool
  redundant : Bool
  divBase : W64
  dieMask : BitVec 12
  gangs : Nat
  blocks : Nat
  deriving DecidableEq, Repr

/-- The life of a block on its core (R26, R33, R263, R392, R394). -/
inductive Phase where
  | clearing
  | running
  | stopping
  | killed
  | halted
  | completed
  deriving DecidableEq, Repr

/-- A resident block and what its core holds for it (R12, R15); `squashed` says that the notice that its version is broke has
reached the core (R293). `claims` are the warps that wait in `RCLAIM`, with what each needs and the cycle in which it issued; `released` are the
registers released and not yet in the pool, with their cycles (R56). `stale` are the sectors of L1 lines that loads are not served from until a fill
replaces them, and `engineWrote` the sectors of global lines that its copies and drains have written and no `TBWAIT` or `WAITB` has acquired (R339). `know` holds for each agent the number of the last `TFENCE` of each warp that
it has learnt of through synchronisations of the block, and `tbKnow` what the arrivals at each transaction barrier knew (R216). `mqo` holds for each send register its binding, and after one made in this
cycle the one before (R223). `damaged` and `heldCounts` are for the block's dump record: the sections, by type and item, that
a second fault damaged, and its in-flight counters at the halt (R398, R399). `reframe` are the warps whose frames are still to be written again (R123, R367). -/
structure Core where
  grid : Nat
  queue : Nat
  span : Nat
  gang : Nat
  block : Nat
  vid : Nat
  launch : Launch
  phase : Phase
  squashed : Bool
  clearedAt : Nat
  firstIssue : Option Nat
  stopAt : Option Nat
  stamp : Nat
  thr : List Thread
  pool : Nat
  claims : List (Nat × Nat × Nat)
  released : List (Nat × Nat)
  aq : List AQueue
  mqo : List (List Binding)
  mqi : List MQueue
  sh : Mem
  shPoison : List Nat
  full : List Nat
  tw : Mem
  twPoison : List Nat
  ta : Mem
  taPoison : List Nat
  tc : Mem
  tcPoison : List Nat
  loose : List Loose
  know : List (List Nat)
  tbKnow : KMap (List Nat)
  frags : List Fragment
  bars : List Barrier
  copies : List Copy
  nextCopy : Nat
  mx : List MatrixCmd
  nextMx : Nat
  curBatch : W32
  lastBatch : W32
  epiProgram : List W32
  epiAux : Nat
  l1 : List L1Line
  l1Epoch : Nat
  stale : List (Nat × BitVec 4)
  engineWrote : List (Nat × BitVec 4)
  icache : List (Nat × BitVec 128)
  tlb : List TlbEntry
  ports : List Port
  pairSide : Nat
  pairIdx : Nat
  sig : W64
  sigCount : Nat
  sigAt : List W64
  namedBars : List Nat
  damaged : List (Nat × Nat)
  reframe : List Nat
  heldCounts : List (List Nat)
  deriving DecidableEq, Repr

/-! ## A die -/

/-- The kinds of entry a way of a slice holds (R278). -/
inductive WayKind where
  | home
  | guest
  | copy (domain vid : Nat)
  deriving DecidableEq, Repr

/-- A valid way of a slice (R278): the physical line address, its kind, its bytes, which sectors are present and which
are dirty, poison marks, the byte mask of a copy, the re-reference value, the guest-holder mask and the rank of a copy
by its last use. -/
structure Way where
  kind : WayKind
  line : Nat
  data : BitVec 1024
  present : BitVec 4
  dirty : BitVec 4
  poison : BitVec 4
  mask : BitVec 128
  rrpv : Nat
  holders : BitVec 12
  rank : Nat
  deriving DecidableEq, Repr

/-- A valid spill record (R287). -/
structure SpillRecord where
  data : BitVec 1024
  mask : BitVec 128
  domain : Nat
  vid : Nat
  poison : BitVec 4
  line : Nat
  deriving DecidableEq, Repr

/-- A sweep pass under way (R291): the VIDs it covers, those of them whose blocks had all released their cores when it
began, each with its epoch (R292), and the next set. -/
structure Sweep where
  vids : List (Nat × Nat)
  released : List (Nat × Nat × Nat)
  next : Nat
  deriving DecidableEq, Repr

/-- A last-level-cache slice (R278, R287, R296, R379). -/
structure Slice where
  ways : KMap Way
  sel : List Nat
  bimodal : Nat
  hits : List Nat
  misses : List Nat
  spill : KMap SpillRecord
  sweep : Option Sweep
  uses : Nat
  deriving DecidableEq, Repr

/-- A slice that holds nothing (R296: every selector starts at 512). -/
def Slice.empty : Slice :=
  { ways := [], sel := List.replicate 8 512, bimodal := 0, hits := List.replicate 8 0, misses := List.replicate 8 0,
    spill := [], sweep := none, uses := 0 }

/-- What a causal message carries (R330), and the notices that travel in its order (R332, R337). An update names the agent whose write it
carries; an invalidation every agent that has written the line since, whose fences wait for it as for an update (R335). -/
inductive MsgBody where
  | write (req : LineReq)
  | update (line : Nat) (sectors : BitVec 4) (data : BitVec 1024) (poison : BitVec 4) (core agent : Nat)
  | invalidate (line : Nat) (marks : List (Nat × Nat))
  | notice (entry : W32)
  | ackRequest (stamp : List W32)
  | ack (of : Nat) (stamp : List W32) (entry : W32)
  | askNotice
  deriving DecidableEq, Repr

/-- A message from one die to another, its number among the causal messages of its sender and its stamp (R330). -/
structure Msg where
  src : Nat
  dst : Nat
  seq : Nat
  stamp : List W32
  body : MsgBody
  deriving DecidableEq, Repr

/-- Where a flit is (R411, R415): at a leaf, an edge, a middle or a top switch of a die, or on a module of a bundle, at the place of its first byte among
the bytes of network flits that the module's direction carries back to back (R417, R419). -/
inductive Place where
  | leaf (die leaf : Nat)
  | edgeUp (die edge : Nat)
  | edgeDown (die edge : Nat)
  | midUp (die mid : Nat)
  | midDown (die mid : Nat)
  | top (die top : Nat)
  | felt (bundle module toDie offset : Nat)
  deriving DecidableEq, Repr

/-- What a flit carries (R412). -/
inductive FlitBody where
  | msg (m : Msg)
  | message (words : List W32) (core queue : Nat) (srcCore : Nat) (srcQueue : Nat)
  deriving DecidableEq, Repr

/-- A network flit (R412): its header fields and its body. -/
structure Flit where
  dDie : Nat
  dLeaf : Nat
  sDie : Nat
  sLeaf : Nat
  cls : Nat
  resp : Bool
  domain : Nat
  vid : Nat
  form : Nat
  cseq : W16
  key : Nat
  body : FlitBody
  at_ : Place
  deriving DecidableEq, Repr

/-- A fragment that the restore of a page woke and that has not executed its instruction again (R390): the page, the core and warp, its index in the
fragment table, and the PC at which it resumes. -/
structure Woken where
  asid : Nat
  page : Nat
  core : Nat
  warp : Nat
  frag : Nat
  pc : W64
  deriving DecidableEq, Repr

/-- A page request (R314): the space, the page, and the fragment-table index of the lanes that met it first, with their core; none for a
request of `PGREQ` or of an engine. -/
structure PageReq where
  asid : Nat
  page : Nat
  frag : Option (Nat × Nat)
  deriving DecidableEq, Repr

/-- A restore that the migration engine has under way (R319, R320); once the entry is written, the dies and, from 12 on, the peer slots that have
not acknowledged its shootdown (R316). `sent` says which step on an entry in a peer's table awaits its answer: 1 the write, 2 the exchange. -/
structure Restore where
  asid : Nat
  page : Nat
  big : Bool
  slot : Nat
  frame : Nat
  hostFrame : Nat
  written : Bool
  sent : Nat
  awaits : List Nat
  deriving DecidableEq, Repr

/-- An eviction under way (R321), with the dies and, from 12 on, the peer slots that have not acknowledged its shootdown. `sent` says which step on an
entry in a peer's table awaits its answer: 1 setting MIG, 2 the exchange, 3 the commit, 4 clearing MIG; `entry` is what that step expects. -/
structure Evict where
  asid : Nat
  page : Nat
  slot : Nat
  hostFrame : Nat
  hostValid : Bool
  sent : Nat
  entry : W64
  awaits : List Nat
  deriving DecidableEq, Repr

/-- A shootdown under way on a die (R316): the page, and the accesses it waits for: the core, the agent, the access or command, and the unit of a copy. -/
structure Shoot where
  asid : Nat
  page : Nat
  waits : List (Nat × Nat × Nat × Nat)
  fromDie : Option Nat
  deriving DecidableEq, Repr

/-- A span that a dispatcher holds (R350): its grid, its index, its next gang, since when that gang is the candidate, the
cluster it has reserved, and whether it holds clusters under the co-residency token (R355). -/
structure Span where
  grid : Nat
  queue : Nat
  index : Nat
  next : Nat
  since : Nat
  reserved : List Nat
  reported : Bool
  deriving DecidableEq, Repr

/-- The dispatcher of a die (R350 to R354): `next` is the fabric cycle from which it may decide again, `freed` when each core became free (R27). -/
structure Dispatcher where
  spans : List Span
  defs : KMap Int
  pointers : List Nat
  share : KMap W32
  draftCC : KMap Nat
  allCC : KMap Nat
  age : Nat
  next : Nat
  freed : KMap Nat
  deriving DecidableEq, Repr

/-- A redundant pair (R374). -/
structure Pair where
  grid : Nat
  gang : Nat
  block : Nat
  span : Nat
  sigP : W64
  sigT : W64
  vidP : Nat
  vidT : Nat
  domain : Nat
  coreP : Nat
  coreT : Nat
  nP : Nat
  nT : Nat
  st : Nat
  rerun : Bool
  deriving DecidableEq, Repr

/-- A line of a read-only cluster cache: its view tag, its line, its bytes, when it was filled (R274, R275). -/
structure RoLine where
  domain : Nat
  vid : Nat
  line : Nat
  data : BitVec 1024
  poison : BitVec 4
  filled : Nat
  deriving DecidableEq, Repr

/-- An acknowledgement request that a die has not answered (R337). -/
structure AckReq where
  fromDie : Nat
  stamp : List W32
  deriving DecidableEq, Repr

/-- An entry of the allocation log (R372). -/
structure LogEntry where
  held : Bool
  free : Bool
  pool : Nat
  vid : Nat
  domain : Nat
  block : Nat
  deriving DecidableEq, Repr

/-- A record of the error log (R407). -/
structure LogRecord where
  code : W8
  detail : W8
  cls : BitVec 2
  fn : BitVec 6
  core : W8
  agent : W8
  vid : W8
  domain : BitVec 6
  addr : W64
  deriving DecidableEq, Repr

/-- The firmware counters of a core (R379), kept beside the block because they outlive it. -/
structure CoreCounters where
  issued : Nat
  apIssued : Nat
  fragSplit : Nat
  fragFull : Nat
  wTrap : Nat
  raEnter : Nat
  raInstr : Nat
  raPref : Nat
  deriving DecidableEq, Repr

/-- Counters of a core at reset. -/
def CoreCounters.zero : CoreCounters :=
  { issued := 0, apIssued := 0, fragSplit := 0, fragFull := 0, wTrap := 0, raEnter := 0, raInstr := 0, raPref := 0 }

/-- Sectors of a line homed on another die that a write of this die keeps pending (R280): the line, the sectors, and the
number of the write among all accesses. -/
structure PendingWrite where
  line : Nat
  sectors : BitVec 4
  tag : Nat
  deriving DecidableEq, Repr

/-- A die (R15). `coreTlb` keeps, for a core that holds no block, the address space of its last block and its TLB (R323); `bulkTlb` is the
TLB of the eight bulk copy engines (R312), to which the spec gives no command and no other state; `busy` are the pages whose eviction was refused,
as reported to firmware (R321); `evictQueue` are the eviction commands not begun: the address space, the address, the host frame and whether its copy
is valid (R319); `heldWrites` are the writes of its engines to other dies that it holds back (R332); `events` are the events 0x50 to 0x52 raised to its
control processor, oldest first, with their DETAIL (R288, R384, R422, R450). -/
structure Die where
  clock : List W32
  slices : KMap Slice
  pending : List PendingWrite
  inbox : List Msg
  sinceNotice : Bool
  ackReqs : List AckReq
  acked : List (Nat × List W32)
  lastReport : List W32
  clusterTlb : List (List TlbEntry)
  coreTlb : KMap (Nat × List TlbEntry)
  bulkTlb : List TlbEntry
  ro : List (List RoLine)
  pageReqs : List PageReq
  migrQueue : List PageReq
  restore : Option Restore
  evict : Option Evict
  evictQueue : List (Nat × W64 × Nat × Bool)
  woken : List Woken
  busy : List (Nat × Nat)
  shoot : List Shoot
  disp : Dispatcher
  pairs : KMap Pair
  errlog : List LogRecord
  pageReqCount : Nat
  kills : Nat
  halts : Nat
  spillx : Nat
  corrErr : Nat
  cores : KMap CoreCounters
  freeze : Bool
  dumpBase : Nat
  dumpSize : Nat
  logBase : Nat
  logEntries : List LogEntry
  logHead : Nat
  logTail : Nat
  inRefresh : List Nat
  heldWrites : List LineReq
  events : List (W8 × W8)
  deriving DecidableEq, Repr

/-! ## The package -/

/-- The states of a VID (R248). -/
inductive VidState where
  | free | live | couched | broke
  deriving DecidableEq, Repr

/-- An entry of a version table (R369); beside it, the place of its couching in the domain's order (R291), the slices
that have swept it since its last block released, and its epoch in the domain: a fork or the placing of a block begins a new one (R292). -/
structure VEntry where
  st : VidState
  depth : Nat
  parent : Nat
  anc : BitVec 256
  blocks : Nat
  twin : Nat
  couchedAt : Nat
  swept : List Nat
  epoch : Nat
  deriving DecidableEq, Repr

/-- A free VID. -/
def VEntry.free : VEntry :=
  { st := .free, depth := 0, parent := 0, anc := 0#256, blocks := 0, twin := 0, couchedAt := 0, swept := [], epoch := 0 }

/-- A reservation in an egress ring (R252): its block, its range, whether it is published and by whom: the core, the agent and the number below which
its accesses must be performed first (R339); whether its block completed while it was open, whether its VID has become couched (R252), whether its slots
stand in their last state, and its pushed positions. -/
structure Reservation where
  core : Nat
  grid : Nat
  vid : Nat
  first : W32
  count : Nat
  published : Bool
  publisher : Option (Nat × Nat × Nat)
  isVoid : Bool
  couched : Bool
  written : Bool
  pushed : List W32
  deriving DecidableEq, Repr

/-- The egress ring of a domain (R251), with its reserve, publish and release cursors; LCUR follows the release cursor once the
slots are written. -/
structure Egress where
  hcur : W32
  lcur : W32
  shadow : Nat
  logn : Nat
  base : Nat
  r : W32
  p : W32
  l : W32
  reservations : List Reservation
  deriving DecidableEq, Repr

/-- An egress ring that is not configured (R251). -/
def Egress.reset : Egress :=
  { hcur := 0#32, lcur := 0#32, shadow := 0, logn := 0, base := 0, r := 0#32, p := 0#32, l := 0#32, reservations := [] }

/-- What a domain holds of the other packages of its member set (R452): the notices that a package has not applied; as a member, the coordinating
Couch's notices that are not acknowledged; the VIDs that a package has swept in their present epoch; VIDs asked for: for whom, the number of the request,
and the answer with the resolve count it came with, once it is there; and VIDs that were given for pairs and are not placed yet. -/
structure Members where
  awaiting : List (Nat × Nat)
  owed : List Nat
  swept : List (Nat × Nat)
  asks : List (Nat × Nat × Option (List Nat × W32))
  stock : List Nat
  deriving DecidableEq, Repr

/-- No member has been asked for anything. -/
def Members.none_ : Members := { awaiting := [], owed := [], swept := [], asks := [], stock := [] }

/-- A speculation domain (R33, R369, R378). -/
structure Domain where
  joint : Members
  table : KMap VEntry
  members : W32
  resolveCount : W32
  accept : W16
  proposed : Nat
  accepted : Nat
  egress : Egress
  couchSeq : Nat
  epochs : Nat
  deriving DecidableEq, Repr

/-- A domain at reset. -/
def Domain.reset : Domain :=
  { joint := Members.none_, table := [], members := 0#32, resolveCount := 0#32, accept := 0#16, proposed := 0, accepted := 0,
    egress := Egress.reset, couchSeq := 0, epochs := 0 }

/-- A notice from a Couch to the slices (R289): its number in its domain, what it couched, from the root towards the target, what it made broke,
the table as it was before, and the slices that have not applied it. -/
structure Notice where
  id : Nat
  domain : Nat
  couched : List Nat
  broke : List Nat
  old : KMap VEntry
  waiting : List Nat
  deriving DecidableEq, Repr

/-- Who asks a Couch for a change of versions: a `RESOLVE`, a walker's timeout (R349), a full spill partition (R288), or
the rules of redundant pairs (R404, R405), on this package or on a member (R452). -/
inductive ResolveSource where
  | instr (core agent : Nat) (slot : SlotId) (tag : Nat)
  | walker (queue : Nat)
  | spill
  | pair
  | member (pkg id who : Nat)
  deriving DecidableEq, Repr

/-- A `RESOLVE` at its Couch (R244): who waits for it, the domain and VID of that block, its operands, its status and the number of its notice once applied, and
the register it writes, with its taint; and the number under which the coordinating Couch was asked (R452). -/
structure Resolve where
  source : ResolveSource
  ofDomain : Nat
  ofVid : Nat
  domain : Nat
  target : Nat
  proposed : Nat
  squash : Bool
  status : Option Nat
  notice : Nat
  dst : Nat
  taint : Bool
  asked : Option Nat
  deriving DecidableEq, Repr

/-- A KV pool descriptor (R370). -/
structure Pool where
  base : Nat
  tbase : Nat
  flbase : Nat
  bbytes : Nat
  pstride : Nat
  nblk : Nat
  nseq : Nat
  maxblk : Nat
  bshift : Nat
  home : Nat
  enable : Bool
  flhead : W32
  fltail : W32
  deriving DecidableEq, Repr

/-- A host work queue descriptor (R341). -/
structure Queue where
  head : W32
  tail : W32
  budgetCap : Nat
  quantum : Nat
  asid : Nat
  prio : Nat
  draft : Bool
  vf : Nat
  logn : Nat
  enable : Bool
  base : Nat
  deriving DecidableEq, Repr

/-- A queue at reset (R341). -/
def Queue.reset : Queue :=
  { head := 0#32, tail := 0#32, budgetCap := 0, quantum := 0, asid := 0, prio := 0, draft := false, vf := 0, logn := 0,
    enable := false, base := 0 }

/-- Where an invocation stands (R345 to R349): at a node, waiting for grids, for VIDs, for a resolve, or for the resolves
that a timeout applied. -/
inductive InvState where
  | atNode
  | waitGrids (grids : List Nat)
  | waitVids (count : Nat) (parent : Nat) (chain : Bool) (launch : Launch) (stride : Nat) (params : W64)
  | waitResolve (domain : Nat) (start : Nat) (limit : Nat)
  | waitSquash (domain : Nat)
  | waitPage (asid page : Nat) (ending : Bool)
  | ended
  deriving DecidableEq, Repr

/-- A graph invocation (R343 to R349); `nodes` is NODES of its first node (R365), `next` the
node after the one that it waits at; `reads` the words that its step has read so far (R345): address space, address and value. -/
structure Invocation where
  queue : Nat
  record : Nat
  graph : Nat
  args : W64
  done : Nat
  tag : W32
  interrupt : Bool
  node : Nat
  nodes : Nat
  next : Nat
  steps : Nat
  status : Nat
  iters : KMap Nat
  forkDomain : KMap W32
  forkVids : KMap (List Nat)
  reads : List (Nat × W64 × W64)
  st : InvState
  deriving DecidableEq, Repr

/-- A grid under way (R28): its launch, its invocation, the dies of its spans, its blocks not yet completed, and the cores
its blocks have run on. -/
structure Grid where
  queue : Nat
  launch : Launch
  vid : Nat
  dies : List Nat
  remaining : Nat
  cores : List Nat
  deriving DecidableEq, Repr

/-- A fault of a halt as the dump reports it (R396). -/
structure HaltFault where
  code : W8
  detail : W8
  pc : W64
  addr : W64
  die : Nat
  core : W8
  agent : W8
  section_ : W8
  block : W8
  cycle : Nat
  deriving DecidableEq, Repr

/-- A grid halt (R394 to R400): the first fault, the second, how many more there were, the dies whose cores have stopped
and the dies whose header has been written, and the records of each die. -/
structure Halt where
  grid : Nat
  first : HaltFault
  second : Option HaltFault
  more : Nat
  arrived : List Nat
  written : List Nat
  offsets : KMap (List (Nat × Nat))
  recorded : List Nat
  lengths : KMap Nat
  deriving DecidableEq, Repr

/-- A module of a felt bundle (R77, R379, R380, R417, R419 to R421): its registers and counters, whether the error for replays has been
reported in this window, how often each direction has retransmitted the flit it failed on, the lanes that a retraining found failing,
the directions (0 towards the higher die) that wait for a replay, how many of its own flits each direction has received in sequence, and the fabric cycle
in which the present window of replays began. -/
structure FeltModule where
  rate : Nat
  width : Nat
  replays : Nat
  retired : Nat
  crcErr : Nat
  replayWin : Nat
  replayThr : Nat
  overThr : Bool
  retrans : List Nat
  retraining : Option Nat
  bad : List Nat
  taken : List Nat
  winStart : Nat
  deriving DecidableEq, Repr

/-- A module at cold reset (R77, R380). -/
def FeltModule.reset : FeltModule :=
  { rate := 0, width := 0, replays := 0, retired := 0, crcErr := 0, replayWin := 0, replayThr := 256, overThr := false, retrans := [0, 0],
    retraining := none, bad := [], taken := [0, 0], winStart := 0 }

/-- A felt bundle: its modules, and the mapping change it drains for, if any (R417, R420). -/
structure Bundle where
  modules : List FeltModule
  draining : Bool
  inService : List Nat
  deriving DecidableEq, Repr

/-- What the package has sent over UALink and waits for (R424 to R426, R440): a read of a table of a peer (R310), with the die, the slot, whether it
marks the leaf and for a write, and who waits for it (R311); what a migration engine does to an entry in a peer's table (R319). -/
inductive UaWait where
  | fill (line : Nat) (sector : Nat)
  | writeback (line : Nat) (sector : Nat) (data : BitVec 256) (bad : Bool)
  | atomic (req : LineReq)
  | walk (die slot : Nat) (mark : Option Bool) (askers : List Nat)
  | migrate (die : Nat) (evict : Bool) (op : UaOp)
  | signal (core copy units : Nat)
  | drainSignal (core cmd : Nat)
  deriving DecidableEq, Repr

/-- The answer to a walk's read of a slot in a peer's table: the entry and its companion word, and who has yet to take it (R310, R311). -/
structure WalkAnswer where
  die : Nat
  slot : Nat
  mark : Option Bool
  entry : W64
  companion : W64
  askers : List Nat
  deriving DecidableEq, Repr

/-- An outstanding UALink request (R423): its device prefix, where it carries one (R425), and the request of a copy or a drain whose write it sends
on, which an error response concerns. -/
structure UaOut where
  id : Nat
  port : Option Nat
  slot : Nat
  addr : Nat
  what : UaWait
  prefix_ : Option (BitVec 128)
  for_ : Option LineReq
  deriving DecidableEq, Repr

/-- The UALink side of the package (R423 to R426): the ports that are up, this package's identifier, requests out, the
sectors that each copy of a peer has written here, signals waiting for them, answers sent (to whom, whether an error, the bytes),
the sectors of peer lines whose fill was answered with an error and that no access waits for, the answers to walks, and the shootdowns that software
has asked of peer slots, with the address space and the page (R316); and what the Couches of domains have told members: the package, the domain and the message (R452).
`last` is the count of the last signal answered of each copy of a peer (R426); `passing` are the sectors read of peer lines that no way can hold
(R288); `missed` are the lines, with the number of the access, whose request has waited for a peer's sectors, which its slice counts as a miss (R379);
`draining` is a change of the ports that waits for the requests on them (R423). -/
structure Ualink where
  portsUp : List Nat
  ident : Nat
  out : List UaOut
  nextId : Nat
  performed : List ((Nat × Nat × Nat × Nat) × Nat)
  signals : List UaSignal
  answers : List (Nat × Bool × List W8)
  errors : List (Nat × Nat)
  walks : List WalkAnswer
  shoots : List (Nat × Nat × Nat)
  last : List ((Nat × Nat × Nat × Nat) × Nat)
  passing : List (Nat × Nat × BitVec 256)
  missed : List (Nat × Nat)
  draining : Option (List Nat)
  couch : List (Nat × Nat × CouchMsg)
  deriving DecidableEq, Repr

/-- A measurement of an SPDM answer (R449): of the mask ROM, the firmware image, its security version, or the fused policy. -/
inductive Measurement where
  | rom (value : W64)
  | image (value : W64)
  | version (n : Nat)
  | policy (value : W64)
  deriving DecidableEq, Repr

/-- What an SPDM request is answered with (R449). -/
structure SpdmAnswer where
  measurements : List Measurement
  signature : W64
  deriving DecidableEq, Repr

/-- What the package has sent to the host (R344, R407, R429, R449). -/
inductive HostOut where
  | msix (fn vector : Nat)
  | errCor (fn : Nat)
  | errNonFatal (fn : Nat)
  | errFatal
  | bar4Data (bytes : List W8)
  | mctpAnswer (path : MgmtPath)
  | spdm (path : MgmtPath) (request : SpdmRequest) (answer : Option SpdmAnswer)
  | ready
  deriving DecidableEq, Repr

/-- The host side (R427 to R430): what has been sent, and line writes to host memory not yet completed over PCIe. -/
structure HostSide where
  out : List HostOut
  writes : List (Nat × Nat)
  nextId : Nat
  deriving DecidableEq, Repr

/-- The boot sequence (R447): its next step, or recovery, or ready. -/
inductive Boot where
  | step (n : Nat)
  | recovery
  | ready
  deriving DecidableEq, Repr

/-- Bytes of a poisoned sector that one copy or one drain has written (R299): its core, its number there, whether it is a drain, the domain and VID of
the copy of the line it wrote (0 and 0 for the committed line), the sector, and the bytes. -/
structure Cover where
  core : Nat
  id : Nat
  drain : Bool
  domain : Nat
  vid : Nat
  sector : Nat
  bytes : W32
  deriving DecidableEq, Repr

/-- MODEL. The slot being issued (R99): the core, the agent (0 to 15 a warp, 0x10 the access processor, 0x12 the epilogue
processor: R396), the PC slot, the PC of its first word, the PC of its target word, its XIMM prefixes, its guard, and the bits that are set in fields which the
instruction leaves unused (R96). -/
structure Issue where
  core : Nat
  agent : Nat
  slot : SlotId
  pc : W64
  tpc : W64
  xs : List Ximm
  guard : BitVec 4
  unused : W32
  deriving DecidableEq, Repr

/-- MODEL. What acts next: an event, a port of a core, an access processor, an epilogue processor, or a core cycle. -/
inductive Plan where
  | event (i : Instr)
  | port (core p : Nat)
  | ap (core : Nat)
  | epi (core : Nat)
  | tick
  deriving DecidableEq, Repr

/-- The state of the package. `image` is the firmware image that runs (R447, R449). The core clock stands `clockSteps` steps below its rate since the cycle `clockAt`, at fabric cycle
`fabricAt` (R443). `seq` counts the accesses issued so far, which names each of them. -/
structure State where
  mem : Mem
  poison : List Nat
  covers : List Cover
  cores : KMap Core
  dies : List Die
  domains : KMap Domain
  notices : List Notice
  resolves : List Resolve
  reports : List (Nat × HaltFault)
  pools : KMap Pool
  queues : KMap Queue
  invs : KMap Invocation
  grids : KMap Grid
  halts : KMap Halt
  token : List Nat
  roots : KMap Nat
  peers : KMap Nat
  felts : List Bundle
  flits : List Flit
  ualink : Ualink
  host : HostSide
  boot : Boot
  image : Option FirmwareImage
  clockSteps : Nat
  clockAt : Nat
  fabricAt : Nat
  stopped : Bool
  keysErased : Bool
  frozenDoorbells : List Nat
  resetAt : Nat
  now : Nat
  nextGrid : Nat
  seq : Nat
  walkTurn : List Nat
  walkNext : List Nat
  cur : Option Issue
  plan : List Plan
  free : Nat
  deriving DecidableEq, Repr

/-- A step ends in a fault where nothing can act. -/
inductive Fault where
  /-- `exec` of an instruction word while no agent issues one: a core that holds no block issues no instruction (R12).
  Raised by every meaning of a packet or epilogue word. Safe: no machine is in this state. -/
  | noIssuer
  deriving DecidableEq, Repr

/-- A refusal by name. -/
inductive Refusal where
  /-- An instruction that the model does not hold yet, by its mnemonic. Raised by `exec` alone. Safe. -/
  | notModelled (mnemonic : String)
  deriving DecidableEq, Repr

/-- A dispatcher at reset (R352, R353, R354). -/
def Dispatcher.reset : Dispatcher :=
  { spans := [], defs := [], pointers := List.replicate 8 0, share := [], draftCC := [], allCC := [], age := 1048576, next := 0, freed := [] }

/-- A die at cold reset. -/
def Die.reset : Die :=
  { clock := List.replicate 12 0#32, slices := [], pending := [], inbox := [], sinceNotice := false,
    ackReqs := [], acked := [], lastReport := List.replicate 12 0#32, clusterTlb := List.replicate 16 [], coreTlb := [],
    bulkTlb := [],
    ro := List.replicate 16 [], pageReqs := [], migrQueue := [], restore := none, evict := none, evictQueue := [], woken := [], busy := [], shoot := [],
    disp := Dispatcher.reset, pairs := [], errlog := [], pageReqCount := 0, kills := 0, halts := 0, spillx := 0,
    corrErr := 0, cores := [], freeze := false, dumpBase := 0, dumpSize := 0, logBase := 0, logEntries := [],
    logHead := 0, logTail := 0, inRefresh := [], heldWrites := [], events := [] }

/-- A bundle at cold reset (R448: every module at 32 GT/s and 64 lanes). -/
def Bundle.reset : Bundle :=
  { modules := List.replicate 8 FeltModule.reset, draining := false, inService := [0, 1, 2, 3, 4, 5, 6, 7] }

/-- The machine right after cold reset (R445): no work, every table free, the mask ROM at its first step (R447). -/
def State.reset : State :=
  { mem := [], poison := [], covers := [], cores := [], dies := List.replicate 12 Die.reset, domains := [], notices := [],
    resolves := [], reports := [], pools := [], queues := [], invs := [], grids := [], halts := [], token := [], roots := [],
    peers := [], felts := List.replicate 16 Bundle.reset, flits := [],
    ualink := { portsUp := [], ident := 0, out := [], nextId := 0, performed := [], signals := [], answers := [], errors := [], walks := [], shoots := [], last := [], passing := [], missed := [], draining := none, couch := [] },
    host := { out := [], writes := [], nextId := 0 }, boot := .step 1, image := none, clockSteps := 0, clockAt := 0, fabricAt := 0, stopped := false,
    keysErased := false, frozenDoorbells := [], resetAt := 0, now := 0, nextGrid := 0, seq := 0,
    walkTurn := List.replicate 12 0, walkNext := List.replicate 12 0, cur := none, plan := [], free := 0 }

end Sys2Proof.Machine
end

