-- ==== Sys2Proof/Machine/Access.lean ====
section
/-! DEFINITION. Reaching into the state: cores, dies, threads, slots, domains and registers by number, and changing one
of them. -/

namespace Sys2Proof.Machine

/-- What a step answers. -/
abbrev Out := Host.Outcome State Fault Refusal

/-- The number of the access processor among the agents of a core (R396). -/
def apAgent : Nat := 16

/-- The number of the epilogue processor among the agents of a core (R396). -/
def epiAgent : Nat := 18

/-- The die of a core key. -/
def dieOfCore (k : Nat) : Nat := k / Config.coresPerDie

/-- The CORENUM of a core key (R60). -/
def coreNum (k : Nat) : Nat := k % Config.coresPerDie

/-- The cluster, within its die, of a core key (R60). -/
def clusterOfCore (k : Nat) : Nat := coreNum k / 8

/-- The block on a core, if one is resident. -/
def State.core? (s : State) (k : Nat) : Option Core := s.cores.find k

/-- Change the block on a core. -/
def State.updCore (s : State) (k : Nat) (f : Core → Core) : State := { s with cores := s.cores.alter k f }

/-- A die. -/
def State.die (s : State) (d : Nat) : Die := nth s.dies d Die.reset

/-- Change a die of the package. -/
def State.updDie (s : State) (d : Nat) (f : Die → Die) : State :=
  if d < Config.dies then { s with dies := alterPad Die.reset s.dies d f } else s

/-- A speculation domain. -/
def State.domain (s : State) (d : Nat) : Domain := (s.domains.find d).getD Domain.reset

/-- Change a domain. -/
def State.updDomain (s : State) (d : Nat) (f : Domain → Domain) : State :=
  { s with domains := s.domains.put d (f (s.domain d)) }

/-- A host work queue. -/
def State.queue (s : State) (q : Nat) : Queue := (s.queues.find q).getD Queue.reset

/-- Change a host work queue. -/
def State.updQueue (s : State) (q : Nat) (f : Queue → Queue) : State :=
  { s with queues := s.queues.put q (f (s.queue q)) }

/-- Fabric cycles: 2 GHz against a core clock of 1.25 GHz, less 62.5 MHz for each step (R5, R443, R444). -/
def State.fabric (s : State) : Nat := s.fabricAt + (s.now - s.clockAt) * 32 / (20 - s.clockSteps)

/-- A thread that has nothing: what a core without that warp holds. -/
def Thread.absent : Thread :=
  { v := [], s := [], p := [], slotA := Slot.none, slotB := Slot.none, stack := [], loops := [], window := 0,
    role := 0#8, trapCause := 0#32, trapPc := 0#64, trapMask := 0#32, handler := none,
    fpstat := 0#32, wctl := 0#32, inhibit := false, gen := [], inflight := [], recent := [], nextAt := 0,
    hint := .neutral, lastSlot := .b, readyAt := 0, passed := 0, linkEvents := [], deferred := [], ahead := none,
    aheadDone := [], parked := false, ls := [], lsPoison := [], fullTrap := none, ended := true }

/-- A thread of a block. -/
def Core.thread (c : Core) (a : Nat) : Thread := nth c.thr a Thread.absent

/-- The block's accesses still complete: it runs, or goes on to the end of its runs after a squash (R293, R392). -/
def Core.acts (c : Core) : Bool := decide (c.phase = .running) || decide (c.phase = .stopping)

/-- The block on a core runs, or goes on to the end of its runs after a squash. -/
def State.blockActs (s : State) (k : Nat) : Bool := (s.core? k).any fun c => c.acts

/-- Change a thread of a block: one of its warps or its access processor. -/
def Core.updThread (c : Core) (a : Nat) (f : Thread → Thread) : Core :=
  if a ≤ apAgent then { c with thr := alterPad Thread.absent c.thr a f } else c

/-- A thread of the package. -/
def State.thread (s : State) (k a : Nat) : Thread :=
  match s.core? k with
  | some c => c.thread a
  | none => Thread.absent

/-- Change a thread of the package. -/
def State.updThread (s : State) (k a : Nat) (f : Thread → Thread) : State := s.updCore k fun c => c.updThread a f

/-- A slot of a thread. -/
def Thread.slot (t : Thread) (w : SlotId) : Slot :=
  match w with
  | .a => t.slotA
  | .b => t.slotB

/-- Change a slot of a thread. -/
def Thread.updSlot (t : Thread) (w : SlotId) (f : Slot → Slot) : Thread :=
  match w with
  | .a => { t with slotA := f t.slotA }
  | .b => { t with slotB := f t.slotB }

/-- Change a slot of a thread of the package. -/
def State.updSlot (s : State) (k a : Nat) (w : SlotId) (f : Slot → Slot) : State :=
  s.updThread k a fun t => t.updSlot w f

/-- The other slot. -/
def otherSlot (w : SlotId) : SlotId :=
  match w with
  | .a => .b
  | .b => .a

/-- Bit `i` of a mask. -/
def bit (m : W32) (i : Nat) : Bool := m.getLsbD i

/-- The mask whose bit `i` is `f i`. -/
def maskOf (f : Nat → Bool) : W32 :=
  BitVec.ofNat 32 ((List.range 32).foldl (fun acc i => if f i then acc + 2 ^ i else acc) 0)

/-- The lanes of a mask, ascending. -/
def lanesOf (m : W32) : List Nat := (List.range 32).filter fun i => bit m i

/-- How many lanes a mask holds. -/
def countLanes (m : W32) : Nat := (lanesOf m).length

/-- The mask of all lanes. -/
def allLanes : W32 := 0xFFFFFFFF#32

/-- All lanes or none. -/
def spread (b : Bool) : W32 := if b then allLanes else 0#32

/-- A vector register of a thread; one outside the file reads as zeros. -/
def Thread.vreg (t : Thread) (n : Nat) : VReg := nth t.v n VReg.zero

/-- A lane of a vector register. -/
def Thread.lane (t : Thread) (n i : Nat) : W32 := nth (t.vreg n).val i 0#32

/-- A scalar register of a thread. -/
def Thread.sreg (t : Thread) (n : Nat) : SReg := nth t.s n SReg.zero

/-- The value of a scalar register. -/
def Thread.sval (t : Thread) (n : Nat) : W64 := (t.sreg n).val

/-- The value of a predicate; `p7` reads as all ones (R41). -/
def Thread.pval (t : Thread) (n : Nat) : W32 := if n = 7 then allLanes else nth t.p n 0#32

/-- The lanes of a value that a mask selects, the others of another value. -/
def blend (m new old : W32) : W32 := (new &&& m) ||| (old &&& ~~~m)

/-- Write lanes of a vector register of the window: the lanes of `m` take the value, the taint and a clear poison mark (R39, R51). -/
def Thread.setV (t : Thread) (n : Nat) (m : W32) (f : Nat → W32) (taint : W32) : Thread :=
  if t.window ≤ n then t
  else { t with v := alterPad VReg.zero t.v n fun r =>
      { val := (List.range 32).map fun i => if bit m i then f i else nth r.val i 0#32
        taint := blend m taint r.taint
        poison := blend m 0#32 r.poison } }

/-- Write part of each lane of `m`, keeping its poison marks (R51). -/
def Thread.setVKeep (t : Thread) (n : Nat) (m : W32) (f : Nat → W32) (taint : W32) : Thread :=
  if t.window ≤ n then t
  else { t with v := alterPad VReg.zero t.v n fun r =>
      { val := (List.range 32).map fun i => if bit m i then f i else nth r.val i 0#32
        taint := blend m taint r.taint
        poison := r.poison } }

/-- Write lanes of a vector register together with poison marks (R51). -/
def Thread.setVMarks (t : Thread) (n : Nat) (m : W32) (f : Nat → W32) (taint poison : W32) : Thread :=
  if t.window ≤ n then t
  else { t with v := alterPad VReg.zero t.v n fun r =>
      { val := (List.range 32).map fun i => if bit m i then f i else nth r.val i 0#32
        taint := blend m taint r.taint
        poison := blend m poison r.poison } }

/-- Write a scalar register. -/
def Thread.setS (t : Thread) (n : Nat) (v : W64) (taint : Bool) : Thread :=
  { t with s := alterPad SReg.zero t.s n fun _ => { val := v, taint := taint, poison := false } }

/-- Write a scalar register together with its poison mark. -/
def Thread.setSMarks (t : Thread) (n : Nat) (v : W64) (taint poison : Bool) : Thread :=
  { t with s := alterPad SReg.zero t.s n fun _ => { val := v, taint := taint, poison := poison } }

/-- Write the bits of `m` of a predicate; writes to `p7` are discarded (R41). -/
def Thread.setP (t : Thread) (n : Nat) (m v : W32) : Thread :=
  if n = 7 then t else { t with p := alterPad 0#32 t.p n fun o => blend m v o }

/-- Slot 1 of the packet at an address (R49). -/
def slot1 (packet : W64) : W64 := (packet &&& ~~~0xF#64) + 4#64

/-- The packet that holds a PC. -/
def packetOf (pc : W64) : W64 := pc &&& ~~~0xF#64

/-- The place of a PC in its packet: 1, 2 or 3 (R49). -/
def placeOf (pc : W64) : Nat := ((pc &&& 0xF#64) >>> 2).toNat

/-- The PC of the next slot in memory order (R82). -/
def nextPc (pc : W64) : W64 := if placeOf pc = 3 then slot1 (packetOf pc + 16#64) else pc + 4#64

/-- The lanes of the fragments of a warp (R123). -/
def Core.fragLanes (c : Core) (w : Nat) : W32 :=
  c.frags.foldl (fun m f => if f.valid && decide (f.warp = w) then m ||| f.mask else m) 0#32

/-- The lanes that a frame holds (R123): a join frame holds those that have arrived. -/
def Frame.held (f : Frame) : W32 :=
  match f with
  | .path _ m _ _ => m
  | .join _ _ arrived _ => arrived

/-- The live lanes of a warp: those of its slots, its fragments and its divergence stack (R49). -/
def Core.live (c : Core) (w : Nat) : W32 :=
  let t := c.thread w
  t.stack.foldl (fun m f => m ||| f.held) (t.slotA.mask ||| t.slotB.mask ||| c.fragLanes w)

/-- A warp is converged when it has one live slot, no fragment and an empty divergence stack (R55). -/
def Core.converged (c : Core) (w : Nat) : Bool :=
  let t := c.thread w
  let one := (t.slotA.st = .empty) != (t.slotB.st = .empty)
  one && t.stack.isEmpty && (c.frags.all fun f => !(f.valid && decide (f.warp = w)))

/-- The kinds of access that return a value. -/
def AccessKind.returns (x : AccessKind) : Bool :=
  match x with
  | .load | .atom | .cas | .kvxl | .kvappend | .fepoll => true
  | _ => false

/-- The number of outstanding accesses on a path: an access counts as complete only when it and every earlier access on
the path have completed (R214). -/
def Thread.counter (t : Thread) (path : Path) : Nat :=
  ((t.inflight.filter fun a => decide (a.path = path)).dropWhile fun a => a.done).length

/-- An entry of a domain's version table; entry 0 reads as couched with every other field 0 (R369). -/
def Domain.entry (d : Domain) (v : Nat) : VEntry :=
  if v = 0 then { VEntry.free with st := .couched } else (d.table.find v).getD VEntry.free

/-- The state of the version a block runs in. -/
def State.versionOf (s : State) (c : Core) : VidState := ((s.domain c.launch.domain).entry c.vid).st

/-- Change a thread as it stands outside run-ahead, whose register writes go to the buffer alone (R52). -/
def Thread.outside (t : Thread) (f : Thread → Thread) : Thread :=
  match t.ahead with
  | none => f t
  | some h =>
    let u := f { t with v := h.v, s := h.s, p := h.p, loops := h.loops, fpstat := h.fpstat, gen := h.gen, recent := h.recent,
                        ahead := none }
    { u with v := t.v, s := t.s, p := t.p, loops := t.loops, fpstat := t.fpstat, gen := t.gen, recent := t.recent,
             ahead := some { h with v := u.v, s := u.s, p := u.p, loops := u.loops, fpstat := u.fpstat, gen := u.gen,
                                    recent := u.recent } }

/-- The version on whose overlay the block's accesses act: its VID while that is live or broke, 0 once it is couched
(R246, R285). -/
def State.actingVid (s : State) (c : Core) : Nat := if s.versionOf c = .couched then 0 else c.vid

/-- Add to a counter that wraps at a power of two (R376), unless the die's counters are frozen (R381). -/
def Die.count (d : Die) (old bits : Nat) : Nat := if d.freeze then old else (old + 1) % 2 ^ bits

/-- Add to a counter of a core. -/
def State.countCore (s : State) (k : Nat) (f : CoreCounters → CoreCounters) : State :=
  s.updDie (dieOfCore k) fun d =>
    if d.freeze then d
    else { d with cores := d.cores.put (coreNum k) (f ((d.cores.find (coreNum k)).getD CoreCounters.zero)) }

end Sys2Proof.Machine
end

