-- ==== Sys2Proof/Machine/Flags.lean ====
section
/-! DEFINITION. Number formats, rounding and the floating-point flags (R157 to R183). Values are exact: a sign, a
magnitude and a power of two. -/

namespace Sys2Proof.Machine

/-- The flags of FPSTAT, by their bits (R71). -/
def flagNV : W32 := 16#32
/-- Division by zero. -/
def flagDZ : W32 := 8#32
/-- Overflow. -/
def flagOF : W32 := 4#32
/-- Underflow. -/
def flagUF : W32 := 2#32
/-- Inexact. -/
def flagNX : W32 := 1#32

/-- How a format encodes NaN (R157): as IEEE 754 does, as E4M3 does, or not at all. -/
inductive NanKind where
  | ieee | ones | never
  deriving DecidableEq, Repr

/-- A floating-point format (R157): its width, fraction bits and bias, its largest finite code, whether it has infinity,
its NaN encodings and its canonical NaN. -/
structure Format where
  bits : Nat
  mbits : Nat
  bias : Nat
  maxCode : Nat
  hasInf : Bool
  nans : NanKind
  canonical : Nat
  deriving DecidableEq, Repr

/-- FP64. -/
def fp64 : Format :=
  { bits := 64, mbits := 52, bias := 1023, maxCode := 0x7FEFFFFFFFFFFFFF, hasInf := true, nans := .ieee,
    canonical := 0x7FF8000000000000 }
/-- FP32. -/
def fp32 : Format :=
  { bits := 32, mbits := 23, bias := 127, maxCode := 0x7F7FFFFF, hasInf := true, nans := .ieee, canonical := 0x7FC00000 }
/-- FP16. -/
def fp16 : Format :=
  { bits := 16, mbits := 10, bias := 15, maxCode := 0x7BFF, hasInf := true, nans := .ieee, canonical := 0x7E00 }
/-- BF16. -/
def bf16 : Format :=
  { bits := 16, mbits := 7, bias := 127, maxCode := 0x7F7F, hasInf := true, nans := .ieee, canonical := 0x7FC0 }
/-- E4M3. -/
def e4m3 : Format :=
  { bits := 8, mbits := 3, bias := 7, maxCode := 0x7E, hasInf := false, nans := .ones, canonical := 0x7F }
/-- E5M2. -/
def e5m2 : Format :=
  { bits := 8, mbits := 2, bias := 15, maxCode := 0x7B, hasInf := true, nans := .ieee, canonical := 0x7E }
/-- E2M3. -/
def e2m3 : Format :=
  { bits := 6, mbits := 3, bias := 1, maxCode := 0x1F, hasInf := false, nans := .never, canonical := 0 }
/-- E3M2. -/
def e3m2 : Format :=
  { bits := 6, mbits := 2, bias := 3, maxCode := 0x1F, hasInf := false, nans := .never, canonical := 0 }
/-- E2M1. -/
def e2m1 : Format :=
  { bits := 4, mbits := 1, bias := 1, maxCode := 0x7, hasInf := false, nans := .never, canonical := 0 }

/-- The value of an encoding (R158): NaN, an infinity, a zero, or a sign, a positive magnitude and a power of two. -/
inductive Num where
  | nan
  | inf (neg : Bool)
  | zero (neg : Bool)
  | fin (neg : Bool) (m : Nat) (e : Int)
  deriving DecidableEq, Repr

/-- The rounding modes (R161). -/
inductive RMode where
  | rne | rz | ru | rd | sr
  deriving DecidableEq, Repr

/-- A rounding mode by MOD [1:0] (R161). -/
def RMode.ofBits (r : BitVec 2) : RMode :=
  match r.toNat with
  | 0 => .rne
  | 1 => .rz
  | 2 => .ru
  | _ => .rd

/-- The code of infinity in a format. -/
def Format.infCode (f : Format) : Nat := f.maxCode + 1

/-- The bits of a code below the sign. -/
def Format.magnitude (f : Format) (c : Nat) : Nat := c % 2 ^ (f.bits - 1)

/-- The sign of a code. -/
def Format.neg (f : Format) (c : Nat) : Bool := c.testBit (f.bits - 1)

/-- A code with a sign. -/
def Format.sign (f : Format) (neg : Bool) (mag : Nat) : Nat := if neg then mag + 2 ^ (f.bits - 1) else mag

/-- The value a code holds (R158). -/
def Format.decode (f : Format) (code : Nat) : Num :=
  let c := f.magnitude code
  let n := f.neg code
  if f.nans = .ieee ∧ c > f.infCode then .nan
  else if f.nans = .ones ∧ c > f.maxCode then .nan
  else if f.hasInf ∧ c = f.infCode then .inf n
  else if c = 0 then .zero n
  else
    let ex := c >>> f.mbits
    let fr := c % 2 ^ f.mbits
    if ex = 0 then .fin n fr (1 - (f.bias : Int) - f.mbits)
    else .fin n (fr + 2 ^ f.mbits) ((ex : Int) - f.bias - f.mbits)

/-- The overflow result of a format (R163). -/
def Format.overflow (f : Format) (neg : Bool) (mode : RMode) : Nat :=
  let toMax := !f.hasInf || match mode with
    | .rz => true
    | .ru => neg
    | .rd => !neg
    | _ => false
  f.sign neg (if toMax then f.maxCode else f.infCode)

/-- Rounding the fraction `rem / 2^shift` (and a sticky remainder beyond it) onto the integer `q` below it (R162). -/
def roundUp (neg : Bool) (mode : RMode) (q rem : Nat) (shift : Nat) (sticky : Bool) (draw : Nat) : Bool :=
  let exact := rem = 0 ∧ sticky = false
  match mode with
  | .rne =>
    let half := 2 ^ shift
    let twice := 2 * rem
    decide (twice > half) || (decide (twice = half) && (sticky || q % 2 == 1))
  | .rz => false
  | .ru => !decide exact && !neg
  | .rd => !decide exact && neg
  | .sr => decide (rem * 65536 / 2 ^ shift + draw ≥ 65536)

/-- `round` (R162): the magnitude lies at `m * 2^e`, or strictly between it and the next multiple of `2^e` when `sticky`
holds. Returns the code and the flags. A shift by more than 17 places beyond the magnitude leaves what one of 18 leaves. -/
def Format.round (f : Format) (neg : Bool) (m : Nat) (e : Int) (sticky : Bool) (mode : RMode) (draw : Nat) : Nat × W32 :=
  let top : Int := (Nat.log2 m : Int) + e
  let least : Int := 1 - (f.bias : Int)
  let ex := max top least
  let shift := ex - f.mbits - e
  let down := min shift.toNat (Nat.log2 m + 18)
  let q := if shift ≤ 0 then m * 2 ^ (-shift).toNat else m / 2 ^ down
  let rem := if shift ≤ 0 then 0 else m % 2 ^ down
  let n := if roundUp neg mode q rem down sticky draw then q + 1 else q
  let exact := decide (rem = 0) && !sticky
  let code := ((ex + f.bias - 1).toNat) * 2 ^ f.mbits + n
  if code > f.maxCode then (f.overflow neg mode, flagOF ||| flagNX)
  else
    let fl := if exact then 0#32 else if top < least then flagNX ||| flagUF else flagNX
    (f.sign neg code, fl)

/-- A value as a signed multiple of a power of two. -/
def Num.scaled (x : Num) (e : Int) : Int :=
  match x with
  | .fin n m k => let v : Int := m * 2 ^ (k - e).toNat; if n then -v else v
  | _ => 0

/-- The exponent of a value, if it has one. -/
def Num.exp? (x : Num) : Option Int :=
  match x with
  | .fin _ _ k => some k
  | _ => none

/-- The least exponent among values. -/
def minExp (xs : List Num) : Int :=
  xs.foldl (fun acc x => match x.exp? with | some k => min acc k | none => acc) 4096

/-- The exact sum of finite values, with the exponent it is a multiple of. -/
def exactSum (xs : List Num) : Int × Int :=
  let e := minExp xs
  (xs.foldl (fun acc x => acc + x.scaled e) 0, e)

/-- A term of `sum_round`: an operand, or an exact product of two (R170). -/
inductive Term where
  | one (x : Num)
  | prod (x y : Num)
  deriving DecidableEq, Repr

/-- A value is NaN. -/
def Num.isNan (x : Num) : Bool := decide (x = .nan)

/-- A value is zero. -/
def Num.isZero (x : Num) : Bool := match x with | .zero _ => true | _ => false

/-- A value is infinite. -/
def Num.isInf (x : Num) : Bool := match x with | .inf _ => true | _ => false

/-- The sign of a value. -/
def Num.isNeg (x : Num) : Bool :=
  match x with
  | .nan => false
  | .inf n => n
  | .zero n => n
  | .fin n _ _ => n

/-- The exact product of two values that are not NaN; 0 times infinity is NaN here. -/
def Num.mul (x y : Num) : Num :=
  let n := x.isNeg != y.isNeg
  match x, y with
  | .nan, _ => .nan
  | _, .nan => .nan
  | .inf _, .zero _ => .nan
  | .zero _, .inf _ => .nan
  | .inf _, _ => .inf n
  | _, .inf _ => .inf n
  | .zero _, _ => .zero n
  | _, .zero _ => .zero n
  | .fin _ a i, .fin _ b j => .fin n (a * b) (i + j)

/-- A value with its sign inverted. -/
def Num.negate (x : Num) : Num :=
  match x with
  | .nan => .nan
  | .inf n => .inf (!n)
  | .zero n => .zero (!n)
  | .fin n m e => .fin (!n) m e

/-- Some operand of a term is NaN. -/
def Term.nan (t : Term) : Bool :=
  match t with
  | .one x => x.isNan
  | .prod x y => x.isNan || y.isNan

/-- A term is a product of zero and infinity. -/
def Term.zeroInf (t : Term) : Bool :=
  match t with
  | .one _ => false
  | .prod x y => (x.isZero && y.isInf) || (x.isInf && y.isZero)

/-- The value of a term. -/
def Term.value (t : Term) : Num :=
  match t with
  | .one x => x
  | .prod x y => x.mul y

/-- `sum_round` (R170): one rounding of the exact sum of the terms. -/
def sumRound (ts : List Term) (f : Format) (mode : RMode) : Nat × W32 :=
  let zi := ts.any Term.zeroInf
  let vals := ts.map Term.value
  if ts.any Term.nan then (f.canonical, if zi then flagNV else 0#32)
  else if zi then (f.canonical, flagNV)
  else if (vals.any fun x => decide (x = .inf false)) && (vals.any fun x => decide (x = .inf true)) then
    (f.canonical, flagNV)
  else if vals.any fun x => decide (x = .inf false) then (f.sign false f.infCode, 0#32)
  else if vals.any fun x => decide (x = .inf true) then (f.sign true f.infCode, 0#32)
  else
    let (t, e) := exactSum vals
    if t = 0 then
      if vals.all fun x => decide (x = .zero true) then (f.sign true 0, 0#32)
      else if vals.all fun x => decide (x = .zero false) then (0, 0#32)
      else (f.sign (decide (mode = .rd)) 0, 0#32)
    else f.round (decide (t < 0)) t.natAbs e false mode 0

/-- An order on values that are not NaN, −0 below +0. -/
def Num.lt (x y : Num) : Bool :=
  match x, y with
  | .inf true, .inf true => false
  | .inf true, _ => true
  | _, .inf true => false
  | .inf false, _ => false
  | _, .inf false => true
  | .zero a, .zero b => a && !b
  | _, _ =>
    let e := minExp [x, y]
    decide (x.scaled e < y.scaled e)

/-- Equality of values that are not NaN, the two zeros equal (R173). -/
def Num.same (x y : Num) : Bool := (x.isZero && y.isZero) || (!x.lt y && !y.lt x)

/-- `FMIN` (R172). -/
def fminCode (f : Format) (a b : Nat) : Nat :=
  let x := f.decode a
  let y := f.decode b
  if x.isNan && y.isNan then f.canonical else if x.isNan then b else if y.isNan then a
  else if y.lt x then b else a

/-- `FMAX` (R172). -/
def fmaxCode (f : Format) (a b : Nat) : Nat :=
  let x := f.decode a
  let y := f.decode b
  if x.isNan && y.isNan then f.canonical else if x.isNan then b else if y.isNan then a
  else if x.lt y then b else a

/-- `FCLAMP` of x to lo and hi (R172). -/
def fclampCode (f : Format) (x lo hi : Nat) : Nat :=
  if (f.decode x).isNan then f.canonical else fminCode f (fmaxCode f x lo) hi

/-- `FNEG` (R172). -/
def fnegCode (f : Format) (a : Nat) : Nat :=
  if (f.decode a).isNan then f.canonical else f.sign (!f.neg a) (f.magnitude a)

/-- `FABS` (R172). -/
def fabsCode (f : Format) (a : Nat) : Nat := if (f.decode a).isNan then f.canonical else f.magnitude a

/-- The condition of `FCMP` and its flag (R173). -/
def fcmpCode (f : Format) (cc : Nat) (a b : Nat) : Bool × W32 :=
  let x := f.decode a
  let y := f.decode b
  let un := x.isNan || y.isNan
  match cc with
  | 0 => (!un && x.same y, 0#32)
  | 1 => (un || !x.same y, 0#32)
  | 2 => if un then (false, flagNV) else (x.lt y && !x.same y, 0#32)
  | 3 => if un then (false, flagNV) else (x.lt y || x.same y, 0#32)
  | 4 => if un then (false, flagNV) else (y.lt x && !x.same y, 0#32)
  | 5 => if un then (false, flagNV) else (y.lt x || x.same y, 0#32)
  | 6 => (un, 0#32)
  | _ => (!un, 0#32)

/-- The magnitude of a finite value rounded to an integer, and whether that was exact. -/
def roundInt (neg : Bool) (m : Nat) (e : Int) (mode : RMode) : Nat × Bool :=
  if e ≥ 0 then (m * 2 ^ e.toNat, true)
  else
    let sh := (-e).toNat
    let q := m / 2 ^ sh
    let rem := m % 2 ^ sh
    (if roundUp neg mode q rem sh false 0 then q + 1 else q, decide (rem = 0))

/-- `FROUND` (R174). -/
def froundCode (f : Format) (a : Nat) (mode : RMode) : Nat :=
  match f.decode a with
  | .nan => f.canonical
  | .inf _ => a
  | .zero _ => a
  | .fin n m e =>
    let (k, _) := roundInt n m e mode
    if k = 0 then f.sign n 0 else (f.round n k 0 false .rz 0).1

/-- `FSCALE` by a power of two (R174). -/
def fscaleCode (f : Format) (a : Nat) (k : Int) (mode : RMode) : Nat × W32 :=
  match f.decode a with
  | .nan => (f.canonical, 0#32)
  | .inf _ => (a, 0#32)
  | .zero _ => (a, 0#32)
  | .fin n m e => f.round n m (e + k) false mode 0

/-- `RCP` (R175). -/
def rcpCode (a : Nat) (mode : RMode) : Nat × W32 :=
  match fp32.decode a with
  | .nan => (fp32.canonical, 0#32)
  | .zero n => (fp32.sign n fp32.infCode, flagDZ)
  | .inf n => (fp32.sign n 0, 0#32)
  | .fin n m e =>
    let q := 2 ^ 64 / m
    fp32.round n q (-e - 64) (decide (2 ^ 64 % m ≠ 0)) mode 0

/-- The integer square root of a number below 2^(2k): the largest whose square does not exceed it. -/
def isqrt (k n : Nat) : Nat :=
  match k with
  | 0 => 0
  | j + 1 =>
    let r := 2 * isqrt j (n / 4)
    if (r + 1) * (r + 1) ≤ n then r + 1 else r

/-- `SQRT` (R175). -/
def sqrtCode (a : Nat) (mode : RMode) : Nat × W32 :=
  match fp32.decode a with
  | .nan => (fp32.canonical, 0#32)
  | .zero _ => (a, 0#32)
  | .inf false => (a, 0#32)
  | .inf true => (fp32.canonical, flagNV)
  | .fin true _ _ => (fp32.canonical, flagNV)
  | .fin false m e =>
    let odd := decide (e % 2 ≠ 0)
    let m' := (if odd then 2 * m else m) * 2 ^ 64
    let e' := (if odd then e - 1 else e) - 64
    let r := isqrt 48 m'
    fp32.round false r (e' / 2) (decide (r * r ≠ m')) mode 0

/-- `RSQ` (R175). -/
def rsqCode (a : Nat) (mode : RMode) : Nat × W32 :=
  match fp32.decode a with
  | .nan => (fp32.canonical, 0#32)
  | .zero n => (fp32.sign n fp32.infCode, flagDZ)
  | .inf false => (0, 0#32)
  | .inf true => (fp32.canonical, flagNV)
  | .fin true _ _ => (fp32.canonical, flagNV)
  | .fin false m e =>
    let odd := decide (e % 2 ≠ 0)
    let m' := if odd then 2 * m else m
    let e' := if odd then e - 1 else e
    let q := 2 ^ 128 / m'
    let r := isqrt 66 q
    fp32.round false r (-64 - e' / 2) (decide (r * r ≠ q) || decide (2 ^ 128 % m' ≠ 0)) mode 0

/-- `EXP2` (R176). -/
def exp2Code (a : Nat) : Nat × W32 :=
  match fp32.decode a with
  | .nan => (0x7FC00000, 0#32)
  | .inf false => (0x7F800000, 0#32)
  | .inf true => (0, 0#32)
  | x =>
    let e : Int := match x with | .fin _ _ k => min k 0 | _ => 0
    let v := x.scaled e
    let den : Int := 2 ^ (-e).toNat
    let n := v / den
    let fr := ((v % den) * 8388608 / den).toNat
    let t0 := 654336
    let t1 := 1897472 + fr * t0 / 8388608
    let t2 := 5836800 + fr * t1 / 8388608
    let p := 8388608 + fr * t2 / 8388608
    if n < -126 then (0, flagUF)
    else if n > 127 then (0x7F800000, flagOF)
    else ((n + 127).toNat * 8388608 + (p - 8388608), 0#32)

/-- `LG2` (R177). -/
def lg2Code (a : Nat) : Nat × W32 :=
  match fp32.decode a with
  | .nan => (0x7FC00000, 0#32)
  | .zero _ => (0xFF800000, flagDZ)
  | .inf true => (0x7FC00000, flagNV)
  | .inf false => (0x7F800000, 0#32)
  | .fin true _ _ => (0x7FC00000, flagNV)
  | .fin false m k =>
    let h := Nat.log2 m
    let e : Int := (h : Int) + k
    let mant : Int := ((m * 2 ^ (23 - h)) % 8388608 : Nat)
    let v0 : Int := 1292288
    let v1 := -4806656 + Int.tdiv (mant * v0) 8388608
    let v2 := 11902976 + Int.tdiv (mant * v1) 8388608
    let q := Int.tdiv (mant * v2) 8388608
    let t := e * 8388608 + q
    if t = 0 then (0, 0#32) else ((fp32.round (decide (t < 0)) t.natAbs (-23) false .rne 0).1, 0#32)

/-- Conversion of a value to a floating-point format (R162, R166). -/
def convert (x : Num) (f : Format) (mode : RMode) (draw : Nat) : Nat × W32 :=
  match x with
  | .nan => if f.nans = .never then (0, flagNV) else (f.canonical, 0#32)
  | .inf n => if f.hasInf then (f.sign n f.infCode, 0#32) else (f.sign n f.maxCode, flagOF ||| flagNX)
  | .zero n => (f.sign n 0, 0#32)
  | .fin n m e => f.round n m e false mode draw

/-- `cvt_int` (R167). -/
def cvtInt (x : Num) (lo hi : Int) (mode : RMode) : Int × W32 :=
  match x with
  | .nan => (0, flagNV)
  | .inf false => (hi, flagNV)
  | .inf true => (lo, flagNV)
  | .zero _ => (0, 0#32)
  | .fin n m e =>
    let (k, exact) := roundInt n m e mode
    let v : Int := if n then -k else k
    if v < lo then (lo, flagNV) else if v > hi then (hi, flagNV) else (v, if exact then 0#32 else flagNX)

/-- An integer as a value (R178). -/
def numOfInt (v : Int) : Num := if v = 0 then .zero false else .fin (decide (v < 0)) v.natAbs 0

/-- One step of a stochastic generator: its next state, whose top half is the draw (R165). -/
def drawStep (g : W32) : W32 :=
  let x1 := g ^^^ (g <<< 13)
  let x2 := x1 ^^^ (x1 >>> 17)
  x2 ^^^ (x2 <<< 5)

/-- The generator state of lane `i` of warp `w` at block start (R165). -/
def genStart (seed : W32) (span gang block w i : Nat) : W32 :=
  let g := ((span * 16 + gang) * 8 + block) * 512 + w * 32 + i
  let x := seed + BitVec.ofNat 32 (g * 0x9E3779B9)
  if x = 0#32 then 1#32 else x

/-- The quantised value of `MXQ` as an FP32 code (R183). -/
def mxqCode (a : Nat) (c : Nat) (f : Format) (mode : RMode) (draw : Nat) : Nat × W32 :=
  match fp32.decode a with
  | .nan => (0x7FC00000, 0#32)
  | x =>
    if c = 0xFF then (0x7FC00000, 0#32)
    else
      let clip : Format := { f with hasInf := false }
      let back (code : Nat) : Nat := (convert (f.decode code) fp32 .rne 0).1
      match x with
      | .inf n => (back (f.sign n f.maxCode), flagOF ||| flagNX)
      | .fin n m e =>
        let (code, fl) := clip.round n m (e - ((c : Int) - 127)) false mode draw
        (back code, fl)
      | _ => (a, 0#32)

/-- The sum that an atomic `.fadd` leaves: RNE, no flag (R197, R198). -/
def faddCode (f : Format) (a b : Nat) : Nat := (sumRound [.one (f.decode a), .one (f.decode b)] f .rne).1

end Sys2Proof.Machine
end

