-- ==== Sys2Proof/Machine/Slices.lean ====
section
/-! DEFINITION. The last-level-cache slices and what stands behind them: where a line lives, committed lines, version
copies, merges, replacement, guest updates, and a request performed at a home slice (R277 to R303). -/

namespace Sys2Proof.Machine

/-! ## Where a line lives -/

/-- Start of host memory among physical addresses (R304). -/
def hostBase : Nat := 0x1000000000000

/-- Start of the peer slots among physical addresses (R304). -/
def peerBase : Nat := 0x8000000000000

/-- The HBM a die owns (R277). -/
def hbmBytes : Nat := 0x1800000000

/-- A physical address in the HBM map of a die (R277, R304). -/
def isHbm (pa : Nat) : Bool := decide (pa / 2 ^ 37 < Config.dies) && decide (pa % 2 ^ 37 < hbmBytes)

/-- A physical address in host memory (R304). -/
def isHost (pa : Nat) : Bool := decide (hostBase ≤ pa) && decide (pa < 2 * hostBase)

/-- A physical address in a peer slot (R304). -/
def isPeer (pa : Nat) : Bool := decide (peerBase ≤ pa) && decide (pa < 2 * peerBase)

/-- A physical address in a spill area (R277). -/
def inSpill (pa : Nat) : Bool := isHbm pa && decide (0x17C0000000 ≤ pa % 2 ^ 37)

/-- The line index of an address (R277, R304). -/
def lineIndex (pa : Nat) : Nat :=
  (if isPeer pa then pa - peerBase else if isHost pa then pa - hostBase else pa % 2 ^ 37) / 128

/-- The die that holds the home slice of an address (R277, R304). -/
def homeDie (pa : Nat) : Nat := if isPeer pa || isHost pa then lineIndex pa % Config.dies else pa / 2 ^ 37

/-- The slice hash of a line index (R277). -/
def sliceHash (n : Nat) : Nat :=
  ((n % 64) ^^^ (n / 2 ^ 6 % 64)) ^^^ ((n / 2 ^ 12 % 64) ^^^ (n / 2 ^ 18 % 64)) ^^^ (n / 2 ^ 24 % 64)

/-- The slice of an address, on its home die and, for a guest line, on every other die (R277, R280). -/
def sliceOf (pa : Nat) : Nat := sliceHash (lineIndex pa)

/-- The set of an address within its slice: n[15:6] (R277). -/
def setOf (pa : Nat) : Nat := lineIndex pa / 64 % 1024

/-! ## UALink requests (R423) -/

/-- The ports of a die (R423). -/
def portsOfDie (d : Nat) : List Nat :=
  match d with
  | 0 => [0, 12]
  | 2 => [2, 13]
  | 4 => [4, 14]
  | 7 => [7, 15]
  | 9 => [9, 16]
  | 11 => [11, 17]
  | _ => [d]

/-- The bundles that a route between two dies crosses (R415). -/
def routeLength (a b : Nat) : Nat :=
  (a % 6 - b % 6) + (b % 6 - a % 6) + (if a / 6 = b / 6 then 0 else 1)

/-- The port that carries requests for a line: a working port of its die, the second one when n[12] = 1; else of the nearest
die that has one (R423). -/
def uaPort (up : List Nat) (n : Nat) : Option Nat :=
  let working (d : Nat) : List Nat := (portsOfDie d).filter fun p => up.contains p
  let die := (List.range Config.dies).foldl (fun (best : Option Nat) d =>
    if (working d).isEmpty then best
    else match best with
      | some b => if routeLength (n % Config.dies) d < routeLength (n % Config.dies) b then some d else best
      | none => some d) none
  match die with
  | none => none
  | some d => match working d with
    | [p, q] => some (if n.testBit 12 then q else p)
    | p :: _ => some p
    | [] => none

/-- The port that a request for a line takes now: while a change of the ports drains them, one whose port changes waits (R420, R423). -/
def Ualink.portFor (u : Ualink) (n : Nat) : Option Nat :=
  let now := uaPort u.portsUp n
  match u.draining with
  | none => now
  | some ports => if uaPort ports n = now then now else none

/-- The fields of a device prefix that say whose it is (R425). -/
def devicePrefix (kind src baddr core count copy : Nat) : BitVec 128 :=
  BitVec.ofNat 128 (kind * 2 ^ 120 + src % 2 ^ 10 * 2 ^ 96 + baddr % 2 ^ 16 * 2 ^ 80 + core / 128 % 2 ^ 4 * 2 ^ 76 + core % 128 * 2 ^ 69 +
    count % 2 ^ 24 * 2 ^ 40 + copy % 2 ^ 8 * 2 ^ 32)

/-- The device prefix of a request (R425): a read carries none; copies of a line stand at its home slice, so that no versioned write goes out. -/
def State.uaPrefix (s : State) (what : UaWait) : Option (BitVec 128) :=
  let src := s.ualink.ident
  let bar (b : Option Nat) : Nat := b.getD 0 / 16
  match what with
  | .fill _ _ => none
  | .walk _ _ _ _ => none
  | .migrate _ _ _ => some (devicePrefix 0 src 0 0 0 0)
  | .writeback _ _ _ _ => some (devicePrefix 0 src 0 0 0 0)
  | .atomic _ => some (devicePrefix 0 src 0 0 0 0)
  | .signal k id n =>
    let b := ((s.cores.find k).bind fun c => (c.copies.find? fun x => decide (x.id = id)).map fun x => bar x.barrier).getD 0
    some (devicePrefix 2 src b k n id)
  | .drainSignal k id =>
    let cmd := (s.cores.find k).bind fun c => c.mx.find? fun m => decide (m.id = id)
    let b := match cmd with | some m => (match m.op with | .drain _ _ x _ _ => bar x | _ => 0) | none => 0
    let n := match cmd with | some m => (match m.st with | .draining run => run.peerSectors | _ => 0) | none => 0
    some (devicePrefix 2 src b k n id)

/-- Send a UALink request for a byte of a peer slot; without a working port it waits for one (R423). -/
def State.sendUa (s : State) (pa : Nat) (what : UaWait) : State :=
  let u := s.ualink
  { s with ualink := { u with
      out := u.out ++ [{ id := u.nextId, port := u.portFor (lineIndex pa), slot := (pa - peerBase) / 2 ^ 46,
                         addr := pa % 2 ^ 46, what := what, prefix_ := s.uaPrefix what, for_ := none }]
      nextId := u.nextId + 1 } }

/-! ## Bytes and sectors of a line -/

/-- The mask with one bit for each byte of the sectors named. -/
def bytesOfSectors (b : BitVec 4) : BitVec 128 :=
  BitVec.ofNat 128 ((List.range 4).foldl (fun acc i => if b.getLsbD i then acc + (2 ^ 32 - 1) * 2 ^ (32 * i) else acc) 0)

/-- The sectors that a byte mask touches. -/
def sectorsOf (m : BitVec 128) : BitVec 4 :=
  BitVec.ofNat 4 ((List.range 4).foldl
    (fun acc i => if m.extractLsb' (32 * i) 32 ≠ 0#32 then acc + 2 ^ i else acc) 0)

/-- The sectors that a byte mask covers whole. -/
def wholeSectors (m : BitVec 128) : BitVec 4 :=
  BitVec.ofNat 4 ((List.range 4).foldl
    (fun acc i => if m.extractLsb' (32 * i) 32 = allLanes then acc + 2 ^ i else acc) 0)

/-- A byte mask as a bit mask. -/
def bitsOfBytes (m : BitVec 128) : BitVec 1024 :=
  if m = 0#128 then 0#1024
  else BitVec.ofNat 1024 ((List.range 128).foldl
    (fun acc i => if m.getLsbD i then acc + 255 * 2 ^ (8 * i) else acc) 0)

/-- Replace the masked bytes of a line. -/
def putBytes (line new : BitVec 1024) (m : BitVec 128) : BitVec 1024 :=
  let x := bitsOfBytes m
  (line &&& ~~~x) ||| (new &&& x)

/-- The mask of `n` bytes from byte `off` of a line. -/
def byteRange (off n : Nat) : BitVec 128 := BitVec.ofNat 128 ((2 ^ n - 1) * 2 ^ off)

/-- A sector of memory and whether it is the poison codeword (R298). -/
def State.memSector (s : State) (sec : Nat) : BitVec 256 × Bool :=
  (BitVec.ofNat 256 (s.mem.readNat (sec * 32) 32), s.poison.contains sec)

/-- A sector of a line where no way holds the line: of memory, or as it came from its peer (R288, R298). -/
def State.farSector (s : State) (line i : Nat) : BitVec 256 × Bool :=
  if isPeer (line * 128) then
    (((s.ualink.passing.find? fun x => decide (x.1 = line) && decide (x.2.1 = i)).map fun x => x.2.2).getD 0#256, false)
  else s.memSector (line * 4 + i)

/-- The sectors of a peer line that have come and that no way holds (R288). -/
def State.passingSectors (s : State) (line : Nat) : BitVec 4 :=
  BitVec.ofNat 4 ((List.range 4).foldl
    (fun acc i => if s.ualink.passing.any fun x => decide (x.1 = line) && decide (x.2.1 = i) then acc + 2 ^ i else acc) 0)

/-- Sectors of a peer line that came without a way have been used. -/
def State.dropPassing (s : State) (line : Nat) : State :=
  if s.ualink.passing.any fun x => decide (x.1 = line) then
    { s with ualink := { s.ualink with passing := s.ualink.passing.filter fun x => decide (x.1 ≠ line) } }
  else s

/-- Write a sector of memory, with a valid check field or as the poison codeword (R298). -/
def State.setMemSector (s : State) (sec : Nat) (v : BitVec 256) (bad : Bool) : State :=
  { s with mem := s.mem.writeBytes (sec * 32) (bytesOfNat 32 v.toNat)
           poison := if bad then setAdd s.poison sec else setDel s.poison sec }

/-! ## Slices -/

/-- A slice of a die. -/
def State.slice (s : State) (d k : Nat) : Slice := ((s.die d).slices.find k).getD Slice.empty

/-- Change a slice. -/
def State.updSlice (s : State) (d k : Nat) (f : Slice → Slice) : State :=
  s.updDie d fun x => { x with slices := x.slices.put k (f ((x.slices.find k).getD Slice.empty)) }

/-- The way of a set that satisfies a test; ways are keyed by 16 × set + way. -/
def Slice.findWay (sl : Slice) (set : Nat) (p : Way → Bool) : Option (Nat × Way) :=
  sl.ways.find? fun x => decide (x.1 / 16 = set) && p x.2

/-- The home line of a line number. -/
def Slice.homeLine (sl : Slice) (set line : Nat) : Option (Nat × Way) :=
  sl.findWay set fun w => decide (w.kind = .home) && decide (w.line = line)

/-- The guest line of a line number. -/
def Slice.guestLine (sl : Slice) (set line : Nat) : Option (Nat × Way) :=
  sl.findWay set fun w => decide (w.kind = .guest) && decide (w.line = line)

/-- Change a way. -/
def State.updWay (s : State) (d k key : Nat) (f : Way → Way) : State :=
  s.updSlice d k fun sl => { sl with ways := sl.ways.alter key f }

/-- The order of notices: what a slice holds of a domain's version table (R289). -/
def State.sliceEntry (s : State) (d k dom vid : Nat) : VEntry :=
  let now := (s.domain dom).entry vid
  match s.notices.find? fun n => decide (n.domain = dom) && n.waiting.contains (d * 64 + k) with
  | some n =>
    match n.old.find vid with
    | some e => if vid = 0 then now else e
    | none => now
  | none => now

/-! ## Causal messages (R330) -/

/-- A message that a die counts as causal (R330). -/
def MsgBody.causal (b : MsgBody) : Bool :=
  match b with
  | .write _ | .update _ _ _ _ _ _ | .invalidate _ _ => true
  | _ => false

/-- The causal messages and clock messages under way from one die to another, in the network and in the inbox. -/
def State.underWay (s : State) (src dst : Nat) : List Msg :=
  (s.flits.filterMap fun f => match f.body with
    | .msg m => if m.src = src ∧ m.dst = dst then some m else none
    | _ => none) ++ ((s.die dst).inbox.filter fun m => decide (m.src = src))

/-- A clock entry is at or above another (R330). -/
def clockAtLeast (a b : W32) : Bool := decide ((a - b).toNat < 2 ^ 31)

/-- The clock that a die keeps (R80, R330), which `CLOCKVEC` reads and which its causal messages and its replies carry. -/
def State.clockOf (s : State) (e : Nat) : List W32 := (s.die e).clock

/-- The leaf of the die to which a message goes (R410): the slice of its line, or the management leaf. -/
def MsgBody.leaf (b : MsgBody) : Nat :=
  match b with
  | .write r => 32 + sliceOf (r.line * 128)
  | .update line _ _ _ _ _ => 32 + sliceOf (line * 128)
  | .invalidate line _ => 32 + sliceOf (line * 128)
  | _ => 103

/-- The flit that carries a message from one die to another, at its first leaf (R412); a write has the class of its request (R297). One that carries data
stands for its command flit and the data flit which follows that back to back. -/
def flitOf (m : Msg) (leaf key : Nat) : Flit :=
  { dDie := m.dst, dLeaf := m.body.leaf, sDie := m.src, sLeaf := leaf, cls := (match m.body with | .write r => r.cls | _ => 7), resp := false,
    domain := (match m.body with | .write r => if r.vid = 0 then 0 else r.domain | _ => 0),
    vid := (match m.body with | .write r => r.vid | _ => 0),
    form := (match m.body with
      | .write _ => 0 | .update _ _ _ _ _ _ => 1 | .invalidate _ _ => 0
      | .notice _ => 3 | .ackRequest _ => 4 | .ack _ _ _ => 4 | .askNotice => 3),
    cseq := (match m.body with | .ackRequest _ => 0#16 | .ack _ _ _ => 0#16 | _ => BitVec.ofNat 16 m.seq), key := key, body := .msg m, at_ := .leaf m.src leaf }

/-- Send one causal message to each of the dies named: the sender raises its own entry by one and stamps the message
with its whole clock (R330). A device that has stopped sends nothing (R408). -/
def State.sendCausal (s : State) (src : Nat) (dsts : List Nat) (leaf key : Nat) (body : MsgBody) : State :=
  if dsts.isEmpty || s.stopped then s
  else
    let own := nth (s.die src).clock src 0#32 + 1#32
    let stamp := (s.clockOf src).set src own
    let s := s.updDie src fun d => { d with clock := d.clock.set src own, sinceNotice := true }
    let flits := dsts.map fun e => flitOf { src := src, dst := e, seq := own.toNat, stamp := stamp, body := body } leaf key
    { s with flits := s.flits ++ flits }

/-- Send a notice, a request or an answer of the clocks, which raises no entry (R332, R337). -/
def State.sendPlain (s : State) (src dst : Nat) (body : MsgBody) : State :=
  if s.stopped then s
  else
    let m : Msg := { src := src, dst := dst, seq := (nth (s.die src).clock src 0#32).toNat, stamp := s.clockOf src, body := body }
    { s with flits := s.flits ++ [flitOf m 103 dst] }

/-- A die sends no new causal message while its own entry leads what another die last reported of it by 2^30 (R332). -/
def Die.holdsBack (d : Die) (die : Nat) : Bool :=
  let own := nth d.clock die 0#32
  (List.range Config.dies).any fun e => decide (e ≠ die) && decide (2 ^ 30 ≤ (own - nth d.lastReport e 0#32).toNat)

/-- A write of an agent reaches a line of which an invalidation is still under way: the agent's fences wait for it too (R335). -/
def State.markInvalidations (s : State) (line core agent : Nat) : State :=
  let mark (m : Msg) : Msg := match m.body with
    | .invalidate l ms => if l = line ∧ m.src = homeDie (line * 128) then { m with body := .invalidate l (ms ++ [(core, agent)]) } else m
    | _ => m
  let on (f : Flit) : Flit := match f.body with
    | .msg m => { f with body := .msg (mark m) }
    | _ => f
  { s with flits := s.flits.map on, dies := s.dies.map fun d => { d with inbox := d.inbox.map mark } }

/-- The dies of a holder mask. -/
def diesOf (m : BitVec 12) : List Nat := (List.range 12).filter fun i => m.getLsbD i

/-! ## Replacement (R295, R296) -/

/-- The value a fill inserts with, and the selector and bimodal counter after it (R296). -/
def Slice.insertValue (sl : Slice) (set cls : Nat) (distant : Bool) : Slice × Nat :=
  let k := set % 32
  let sel := nth sl.sel cls 512
  let leader := decide (k < 16) && decide (k / 2 = cls)
  let bimodal := if leader then decide (k % 2 = 1) else sel.testBit 9
  let sel' := if leader then (if k % 2 = 0 then min 1023 (sel + 1) else sel - 1) else sel
  let sl := { sl with sel := sl.sel.set cls sel' }
  let (sl, v) :=
    if bimodal then
      ({ sl with bimodal := (sl.bimodal + 1) % 32 }, if sl.bimodal = 31 then 2 else 3)
    else (sl, 2)
  (sl, if distant then 3 else v)

/-- A record number that is free in a spill partition (R287). -/
def Slice.freeRecord (sl : Slice) : Option Nat :=
  if sl.spill.length < Config.spillRecords then
    (List.range (sl.spill.length + 1)).find? fun i => (sl.spill.find i).isNone
  else none

/-- The tag word of a valid spill record, bytes 144 to 151 (R287). -/
def SpillRecord.tagWord (r : SpillRecord) : W64 :=
  BitVec.ofNat 64 (2 ^ 63 + r.domain % 64 * 2 ^ 44 + r.vid % 256 * 2 ^ 36 + r.poison.toNat * 2 ^ 32 + lineIndex (r.line * 128) % 2 ^ 30)

/-- The 256 bytes of a record as a number: the copy's bytes, MASK, the tag word, zeros (R287). -/
def SpillRecord.image (r : SpillRecord) : Nat := r.data.toNat + 2 ^ 1024 * r.mask.toNat + 2 ^ 1152 * r.tagWord.toNat

/-- The address of a record: in the die's spill area, where its firmware has placed it (R277, R287). -/
def spillAddr (d k r : Nat) : Nat := d * 2 ^ 37 + 0x17C0000000 + 256 * (Config.spillPlace k r % 2 ^ 22)

/-- What bytes of HBM hold as a record of a line: none where VALID is clear (R287). -/
def SpillRecord.ofImage (n line : Nat) : Option SpillRecord :=
  let tag := n / 2 ^ 1152
  if tag.testBit 63 then
    some { data := BitVec.ofNat 1024 n, mask := BitVec.ofNat 128 (n / 2 ^ 1024), domain := tag / 2 ^ 44 % 64, vid := tag / 2 ^ 36 % 256,
           poison := BitVec.ofNat 4 (tag / 2 ^ 32), line := line }
  else none

/-- Write a record of a spill partition to HBM; one that is freed loses VALID alone (R286, R287). -/
def State.storeRecord (s : State) (d k r : Nat) : State :=
  let a := spillAddr d k r
  match (s.slice d k).spill.find r with
  | some x =>
    { s with mem := s.mem.writeBytes a (bytesOfNat 256 x.image), poison := s.poison.filter fun sec => !(decide (a / 32 ≤ sec) && decide (sec < a / 32 + 8)) }
  | none => { s with mem := s.mem.writeBytes (a + 151) [0#8] }

/-- Change a slice and, with it, the records of its spill partition in HBM (R286, R287). -/
def State.updSpill (s : State) (d k : Nat) (f : Slice → Slice) : State :=
  let old := (s.slice d k).spill
  let s := s.updSlice d k f
  let new := (s.slice d k).spill
  if old = new then s
  else (((old ++ new).map fun x => x.1).eraseDups.filter fun r => decide (old.find r ≠ new.find r)).foldl (fun s r => s.storeRecord d k r) s

/-- Move a version copy to the spill partition (R286). -/
def Slice.spillWay (sl : Slice) (key : Nat) : Slice :=
  match sl.ways.find key, sl.freeRecord with
  | some w, some r =>
    match w.kind with
    | .copy dom vid =>
      { sl with
        ways := sl.ways.del key
        spill := sl.spill.put r { data := w.data, mask := w.mask, domain := dom, vid := vid, poison := w.poison, line := w.line } }
    | _ => sl
  | _, _ => sl

/-- A request that is served at once makes a stack in self-refresh exit first (R301). -/
def State.wake (s : State) (pa : Nat) : State :=
  if isHbm pa then s.updDie (homeDie pa) fun d => { d with inRefresh := setDel d.inRefresh (2 * homeDie pa + sliceOf pa / 32) } else s

/-- A write straight to where a line lives that is not HBM goes on there: to the host, whose completion is awaited, or to a peer (R423, R427). -/
def State.passOn (s : State) (line i : Nat) (v : BitVec 256) (bad : Bool) : State :=
  if isPeer (line * 128) then s.sendUa (line * 128 + 32 * i) (.writeback line i v bad)
  else if isHost (line * 128) then
    { s with host := { s.host with writes := s.host.writes ++ [(s.host.nextId, line)], nextId := s.host.nextId + 1 } }
  else s

/-- Write the dirty sectors of a home line back: to HBM or host memory, a poisoned sector as the codeword (R279, R298);
to a peer over UALink (R423). -/
def State.writeBack (s : State) (w : Way) : State :=
  (List.range 4).foldl (fun s i =>
    if w.dirty.getLsbD i then
      let sec := w.line * 4 + i
      let v := w.data.extractLsb' (256 * i) 256
      if isPeer (w.line * 128) then
        s.sendUa (w.line * 128 + 32 * i) (.writeback w.line i v (w.poison.getLsbD i))
      else
        ((s.wake (w.line * 128)).setMemSector sec v (w.poison.getLsbD i)).passOn w.line i v (w.poison.getLsbD i)
    else s) s

/-- Dispose of a way that is to be replaced (R279, R281, R286). -/
def State.evictWay (s : State) (d k key : Nat) : State :=
  match (s.slice d k).ways.find key with
  | none => s
  | some w =>
    match w.kind with
    | .guest => s.updSlice d k fun sl => { sl with ways := sl.ways.del key }
    | .copy _ _ => s.updSpill d k fun sl => sl.spillWay key
    | .home =>
      let s := s.writeBack w
      let s := s.sendCausal d (diesOf w.holders) (32 + k) (lineIndex (w.line * 128)) (.invalidate w.line [])
      s.updSlice d k fun sl => { sl with ways := sl.ways.del key }

/-- The victim of a set: the lowest invalid way, else the lowest with value 3 after raising every value as often as it
takes (R295). Copies are no victims while the spill partition is full (R288). -/
def Slice.victim (sl : Slice) (set : Nat) : Option (Slice × Nat) :=
  let keys := (List.range 16).map fun w => set * 16 + w
  match keys.find? fun key => (sl.ways.find key).isNone with
  | some key => some (sl, key)
  | none =>
    let full := sl.freeRecord.isNone
    let allowed (key : Nat) : Bool := match sl.ways.find key with
      | some w => !(full && (match w.kind with | .copy _ _ => true | _ => false))
      | none => false
    let cands := keys.filter allowed
    if cands.isEmpty then none
    else
      let top := cands.foldl (fun m key => max m (match sl.ways.find key with | some w => w.rrpv | none => 0)) 0
      let raised := { sl with ways := sl.ways.map fun x =>
        if x.1 / 16 = set then (x.1, { x.2 with rrpv := min 3 (x.2.rrpv + (3 - top)) }) else x }
      match cands.find? fun key => match raised.ways.find key with | some w => decide (w.rrpv = 3) | none => false with
      | some key => some (raised, key)
      | none => none

/-- Take a way of a set for a new entry, disposing of its victim. -/
def State.claimWay (s : State) (d k set : Nat) : State × Option Nat :=
  match (s.slice d k).victim set with
  | none => (s, none)
  | some (sl, key) => ((s.updSlice d k fun _ => sl).evictWay d k key, some key)

/-- Put an entry into a claimed way, by the insertion policy (R296). -/
def State.insertWay (s : State) (d k key cls : Nat) (distant : Bool) (w : Way) : State :=
  s.updSlice d k fun sl =>
    let (sl, v) := sl.insertValue (key / 16) cls distant
    { sl with ways := sl.ways.put key { w with rrpv := v, rank := sl.uses }, uses := sl.uses + 1 }

/-- A way that holds nothing of a line yet. -/
def Way.fresh (kind : WayKind) (line : Nat) : Way :=
  { kind := kind, line := line, data := 0#1024, present := 0#4, dirty := 0#4, poison := 0#4, mask := 0#128, rrpv := 2,
    holders := 0#12, rank := 0 }

/-- An event is raised to the control processor of a die, with its DETAIL (R384). -/
def State.raiseEvent (s : State) (die : Nat) (code detail : W8) : State := s.updDie die fun d => { d with events := d.events ++ [(code, detail)] }

/-- The spill-exhausted event (R288): the die's counter, and no AER message. -/
def State.spillExhausted (s : State) (d : Nat) : State :=
  (s.updDie d fun x => { x with spillx := x.count x.spillx 32 }).raiseEvent d 0x51#8 0#8

/-- The way of a line's home, allocated if it was absent; none where every way holds a copy and the spill partition is
full (R279, R288). -/
def State.homeWay (s : State) (pa cls : Nat) (distant : Bool) : State × Option Nat :=
  let d := homeDie pa
  let k := sliceOf pa
  let set := setOf pa
  match (s.slice d k).homeLine set (pa / 128) with
  | some (key, _) =>
    (s.updWay d k key fun w => { w with rrpv := 0 }, some key)
  | none =>
    match s.claimWay d k set with
    | (s, some key) => (s.insertWay d k key cls distant (Way.fresh .home (pa / 128)), some key)
    | (s, none) => (s, none)

/-- Fetch the absent ones of the sectors named from memory (R279). Sectors of a peer line come over UALink. -/
def State.fillSectors (s : State) (d k key : Nat) (need : BitVec 4) : State :=
  match (s.slice d k).ways.find key with
  | none => s
  | some w =>
    if isPeer (w.line * 128) then s
    else
      let w' := (List.range 4).foldl (fun (w : Way) i =>
        if need.getLsbD i && !w.present.getLsbD i then
          let (v, bad) := s.memSector (w.line * 4 + i)
          { w with
            data := (w.data &&& ~~~((BitVec.ofNat 1024 (2 ^ 256 - 1)) <<< (256 * i))) ||| (v.setWidth 1024 <<< (256 * i))
            present := w.present ||| BitVec.ofNat 4 (2 ^ i)
            poison := if bad then w.poison ||| BitVec.ofNat 4 (2 ^ i) else w.poison &&& ~~~(BitVec.ofNat 4 (2 ^ i)) }
        else w) w
      s.updWay d k key fun _ => w'

/-! ## Version copies (R282 to R287) -/

/-- A version copy of a line, in a way or spilled. -/
structure CopyView where
  domain : Nat
  vid : Nat
  data : BitVec 1024
  mask : BitVec 128
  poison : BitVec 4
  deriving DecidableEq, Repr

/-- Every copy that a slice holds of a line, in its ways and in its spill partition. -/
def Slice.copies (sl : Slice) (set line : Nat) : List CopyView :=
  (sl.ways.filterMap fun x =>
    if x.1 / 16 = set ∧ x.2.line = line then
      match x.2.kind with
      | .copy d v => some { domain := d, vid := v, data := x.2.data, mask := x.2.mask, poison := x.2.poison }
      | _ => none
    else none) ++
  (sl.spill.filterMap fun x =>
    if x.2.line = line then
      some { domain := x.2.domain, vid := x.2.vid, data := x.2.data, mask := x.2.mask, poison := x.2.poison }
    else none)

/-- Free the copy of a version of a line. -/
def Slice.freeCopy (sl : Slice) (line dom vid : Nat) : Slice :=
  { sl with
    ways := sl.ways.filter fun x => !(decide (x.2.kind = .copy dom vid) && decide (x.2.line = line))
    spill := sl.spill.filter fun x => !(decide (x.2.domain = dom) && decide (x.2.vid = vid) && decide (x.2.line = line)) }

/-- The bytes of a line with their poison, byte by byte. -/
structure LineBytes where
  data : BitVec 1024
  bad : BitVec 128
  deriving DecidableEq, Repr

/-- Overlay a copy. -/
def LineBytes.overlay (l : LineBytes) (c : CopyView) : LineBytes :=
  { data := putBytes l.data c.data c.mask
    bad := (l.bad &&& ~~~c.mask) ||| (c.mask &&& bytesOfSectors c.poison) }

/-- Put copies in order: earlier couched first, then from the root towards the deepest (R284, R291). -/
def orderCopies (key : CopyView → Nat) (cs : List CopyView) : List CopyView :=
  cs.foldl (fun acc c => (acc.takeWhile fun x => decide (key x ≤ key c)) ++ [c] ++
    (acc.dropWhile fun x => decide (key x ≤ key c))) []

/-- The unmerged couched copies of a line, in the order of a merge (R284). -/
def State.couchedCopies (s : State) (d k set line : Nat) : List CopyView :=
  let cs := ((s.slice d k).copies set line).filter fun c => decide ((s.sliceEntry d k c.domain c.vid).st = .couched)
  orderCopies (fun c => let e := s.sliceEntry d k c.domain c.vid; e.couchedAt * 32 + e.depth) cs

/-- The chain of live versions from a version to the root, deepest first (R184). -/
def State.chain (s : State) (d k dom : Nat) (fuel : Nat) (vid : Nat) : List Nat :=
  match fuel with
  | 0 => []
  | n + 1 =>
    if vid = 0 then []
    else
      let e := s.sliceEntry d k dom vid
      if e.st = .live then vid :: s.chain d k dom n e.parent else []

/-- Tell the holders of a line what changed in it (R281). -/
def State.propagate (s : State) (d k key : Nat) (sectors : BitVec 4) (core agent : Nat) : State :=
  match (s.slice d k).ways.find key with
  | none => s
  | some w =>
    if sectors = 0#4 then s
    else s.sendCausal d (diesOf w.holders) (32 + k) (lineIndex (w.line * 128))
      (.update w.line sectors w.data w.poison core agent)

/-- Write bytes into a home line (R279): the sectors touched become dirty. A sector written in part keeps its mark; `cleans` are those whose marks
the write clears, `poisons` those that it marks. -/
def State.writeHome (s : State) (d k key : Nat) (new : BitVec 1024) (mask : BitVec 128) (cleans poisons : BitVec 4) (core agent : Nat) : State :=
  let touched := sectorsOf mask
  let s := s.fillSectors d k key (touched &&& ~~~wholeSectors mask)
  let s := s.updWay d k key fun w =>
    { w with
      data := putBytes w.data new mask
      present := w.present ||| touched
      dirty := w.dirty ||| touched
      poison := (w.poison &&& ~~~cleans) ||| poisons }
  (s.markInvalidations (((s.slice d k).ways.find key).elim 0 fun w => w.line) core agent).propagate d k key touched core agent

/-- Write bytes of a line straight to where it lives, where no way can hold the line (R288); marks as in `writeHome`. The sectors of a peer line that a
write covers in part were read from the peer before. -/
def State.writeThrough (s : State) (line : Nat) (new : BitVec 1024) (mask : BitVec 128) (cleans poisons : BitVec 4) (core agent : Nat) : State :=
  let s := s.markInvalidations line core agent
  (List.range 4).foldl (fun s i =>
    let m := mask.extractLsb' (32 * i) 32
    if m = 0#32 then s
    else
      let (v, was) := s.farSector line i
      let w := putBytes (v.setWidth 1024 <<< (256 * i)) new (m.setWidth 128 <<< (32 * i))
      let bad := (was && !cleans.getLsbD i) || poisons.getLsbD i
      let s := if isPeer (line * 128) then s else s.setMemSector (line * 4 + i) (w.extractLsb' (256 * i) 256) bad
      s.passOn line i (w.extractLsb' (256 * i) 256) bad) s

/-- What a merge does to poison (R284): a sector all of whose bytes come from clean copy sectors is clean; else one that receives a byte of a poisoned
copy sector is poisoned. -/
def mergeMarks (cs : List CopyView) (l : LineBytes) (mask : BitVec 128) : BitVec 4 × BitVec 4 :=
  let cleans := wholeSectors mask &&& ~~~sectorsOf (l.bad &&& mask)
  (cleans, cs.foldl (fun p c => p ||| (sectorsOf c.mask &&& c.poison)) 0#4 &&& ~~~cleans)

/-- Merge couched copies into the home line and free them (R284). -/
def State.mergeCopies (s : State) (pa : Nat) (cs : List CopyView) (cls core agent : Nat) : State :=
  match cs with
  | [] => s
  | _ =>
    let d := homeDie pa
    let k := sliceOf pa
    let all := cs.foldl (fun (l : LineBytes) c => l.overlay c) { data := 0#1024, bad := 0#128 }
    let mask := cs.foldl (fun m c => m ||| c.mask) 0#128
    let (cleans, poisons) := mergeMarks cs all mask
    let s :=
      match s.homeWay pa cls false with
      | (s, some key) => s.writeHome d k key all.data mask cleans poisons core agent
      | (s, none) => (s.spillExhausted d).writeThrough (pa / 128) all.data mask cleans poisons core agent
    s.updSpill d k fun sl => cs.foldl (fun sl c => sl.freeCopy (pa / 128) c.domain c.vid) sl

/-- Merge a line's couched copies, if it has any (R285). -/
def State.mergeLine (s : State) (pa cls core agent : Nat) : State :=
  s.mergeCopies pa (s.couchedCopies (homeDie pa) (sliceOf pa) (setOf pa) (pa / 128)) cls core agent

/-- The sectors of a peer line that a merge of its couched copies would write in part and that its home does not hold (R423). -/
def State.mergeNeeds (s : State) (pa : Nat) : BitVec 4 :=
  if !isPeer pa then 0#4
  else
    let mask := (s.couchedCopies (homeDie pa) (sliceOf pa) (setOf pa) (pa / 128)).foldl (fun m c => m ||| c.mask) 0#128
    let need := sectorsOf mask &&& ~~~wholeSectors mask
    match (s.slice (homeDie pa) (sliceOf pa)).homeLine (setOf pa) (pa / 128) with
    | some (_, w) => need &&& ~~~w.present
    | none => need &&& ~~~s.passingSectors (pa / 128)

/-- The version copies of a line that stand in ways. -/
def Slice.copyWays (sl : Slice) (set line : Nat) : List (Nat × Way) :=
  sl.ways.filter fun x =>
    decide (x.1 / 16 = set) && decide (x.2.line = line) && (match x.2.kind with | .copy _ _ => true | _ => false)

/-- Where a line has as many copies in ways as it may, the one of oldest last use moves to the spill partition (R286). -/
def State.makeRoom (s : State) (d k set line : Nat) : State :=
  match (s.slice d k).copyWays set line with
  | [] => s
  | x :: xs =>
    if xs.length + 1 < Config.copiesPerLine then s
    else
      let old := xs.foldl (fun (m : Nat × Way) y => if y.2.rank < m.2.rank then y else m) x
      s.updSpill d k fun sl => sl.spillWay old.1

/-- Bring a spilled copy back into a way, which may spill another (R286), with the value of the insertion policy (R295). -/
def State.recallCopy (s : State) (d k set line dom vid cls : Nat) (distant : Bool) : State :=
  match (s.slice d k).spill.find? fun x => decide (x.2.line = line) && decide (x.2.domain = dom) && decide (x.2.vid = vid) with
  | none => s
  | some (r, rec) =>
    let s := (s.updSpill d k fun sl => { sl with spill := sl.spill.del r }).makeRoom d k set line
    match s.claimWay d k set with
    | (s, some key) =>
      s.insertWay d k key cls distant
        { Way.fresh (.copy dom vid) line with data := rec.data, mask := rec.mask, poison := rec.poison }
    | (s, none) => s.updSpill d k fun sl => { sl with spill := sl.spill.put r rec }

/-- The way of a copy of a line, if it stands in one. -/
def State.copyAt (s : State) (d k set line dom vid : Nat) : Option (Nat × Way) :=
  (s.slice d k).findWay set fun w => decide (w.kind = .copy dom vid) && decide (w.line = line)

/-- A lookup uses a copy of a line: a hit makes it the last used, with value 0; a spilled one is brought back (R286, R295). -/
def State.useCopy (s : State) (d k set line dom vid cls : Nat) (distant : Bool) : State :=
  match s.copyAt d k set line dom vid with
  | some (key, _) =>
    s.updSlice d k fun sl =>
      { sl with ways := sl.ways.alter key fun w => { w with rrpv := 0, rank := sl.uses }, uses := sl.uses + 1 }
  | none => s.recallCopy d k set line dom vid cls distant

/-- The way of version `vid`'s copy of a line, made if it does not exist (R282); a fifth copy moves the one of oldest last
use to the spill partition (R286). None where every way of the set holds a copy and the partition is full (R288); DESIGN CHOICE (log 147): the same where
the line has four copies and the partition is full, which the spec does not say. -/
def State.copyWay (s : State) (pa dom vid cls : Nat) (distant : Bool) : State × Option Nat :=
  let d := homeDie pa
  let k := sliceOf pa
  let set := setOf pa
  let line := pa / 128
  let s := s.useCopy d k set line dom vid cls distant
  match s.copyAt d k set line dom vid with
  | some (key, _) => (s, some key)
  | none =>
    let s := s.makeRoom d k set line
    if Config.copiesPerLine ≤ ((s.slice d k).copyWays set line).length then (s, none)
    else match s.claimWay d k set with
    | (s, some key) => (s.insertWay d k key cls distant (Way.fresh (.copy dom vid) line), some key)
    | (s, none) => (s, none)

/-! ## One request at a home slice (R278) -/

/-- The bytes of a size code (R98); a nibble lies in one byte. -/
def sizeBytes (size : Nat) : Nat := match size with | 0 => 1 | 1 => 2 | 2 => 4 | 3 => 8 | 4 => 16 | _ => 1

/-- The byte of a line at which an element lies. -/
def Elem.byte (e : Elem) : Nat := if e.size = 5 then e.off / 2 else e.off

/-- The bytes of a line that an element touches. -/
def Elem.bytes (e : Elem) : BitVec 128 := byteRange e.byte (sizeBytes e.size)

/-- An element writes. -/
def ElemOp.writes (o : ElemOp) : Bool := match o with | .read => false | _ => true

/-- The value an element reads from a line. -/
def Elem.value (e : Elem) (l : LineBytes) : BitVec 128 :=
  let raw := (l.data >>> (8 * e.byte)).setWidth 128 &&& BitVec.ofNat 128 (2 ^ (8 * sizeBytes e.size) - 1)
  if e.size = 5 then (if e.off % 2 = 0 then raw &&& 0xF#128 else (raw >>> 4) &&& 0xF#128) else raw

/-- The new value of an atomic (R197). -/
def atomResult (op : AtomOp) (wide : Bool) (old v : W64) : W64 :=
  let narrow (x : W32) : W64 := x.setWidth 64
  let o32 := old.setWidth 32
  let v32 := v.setWidth 32
  match op with
  | .add => if wide then old + v else narrow (o32 + v32)
  | .min => if wide then (if old.slt v then old else v) else narrow (if o32.slt v32 then o32 else v32)
  | .max => if wide then (if old.slt v then v else old) else narrow (if o32.slt v32 then v32 else o32)
  | .and => if wide then old &&& v else narrow (o32 &&& v32)
  | .or => if wide then old ||| v else narrow (o32 ||| v32)
  | .xor => if wide then old ^^^ v else narrow (o32 ^^^ v32)
  | .exch => if wide then v else narrow v32
  | .fadd =>
    if wide then
      let lo := faddCode bf16 (o32.toNat % 65536) (v32.toNat % 65536)
      let hi := faddCode bf16 (o32.toNat / 65536) (v32.toNat / 65536)
      BitVec.ofNat 64 (hi * 65536 + lo)
    else BitVec.ofNat 64 (faddCode fp32 o32.toNat v32.toNat)

/-- What an element leaves in its bytes, if it writes (R190, R191, R197, R198). -/
def Elem.result (e : Elem) (old : BitVec 128) (l : LineBytes) : Option (BitVec 128) :=
  match e.op with
  | .read => none
  | .put v =>
    if e.size = 5 then
      let raw := (l.data >>> (8 * e.byte)).setWidth 128 &&& 0xFF#128
      some (if e.off % 2 = 0 then (raw &&& 0xF0#128) ||| (v &&& 0xF#128) else (raw &&& 0x0F#128) ||| ((v &&& 0xF#128) <<< 4))
    else some v
  | .atom op wide v => some ((atomResult op wide (old.setWidth 64) v).setWidth 128)
  | .cas wide cmp new =>
    let o := old.setWidth 64
    let hit := if wide then decide (o = cmp) else decide (o.setWidth 32 = (cmp.setWidth 32 : W32))
    if hit then some (new.setWidth 128) else none
  | .kv v => some (v.setWidth 128)

/-- Elements applied one after another to the bytes of a line: what each returned, the bytes after them, and the bytes
that were written. Bytes written into a sector that stays poisoned (`stays`) are poisoned when read again (R285). -/
def applyElems (es : List Elem) (l : LineBytes) (stays : BitVec 128) : List Elem × LineBytes × BitVec 128 :=
  es.foldl (fun acc e =>
    let (done, l, m) := acc
    let old := e.value l
    let bad := decide (l.bad &&& e.bytes ≠ 0#128)
    let e' := { e with got := old, poison := bad }
    match e.result old l with
    | none => (done ++ [e'], l, m)
    | some v =>
      let sz := sizeBytes e.size
      let new := (v.setWidth 1024 &&& BitVec.ofNat 1024 (2 ^ (8 * sz) - 1)) <<< (8 * e.byte)
      let partly := decide (e.size = 5)
      (done ++ [e'],
       { data := putBytes l.data new e.bytes, bad := if partly then l.bad else (l.bad &&& ~~~e.bytes) ||| (stays &&& e.bytes) },
       m ||| e.bytes)) ([], l, 0#128)

/-- The bytes that a request reads before it writes: its reads, and the bytes of its atomics and nibble stores. -/
def readsOf (es : List Elem) : BitVec 128 :=
  es.foldl (fun m e =>
    match e.op with
    | .put _ => if e.size = 5 then m ||| e.bytes else m
    | .kv _ => m
    | _ => m ||| e.bytes) 0#128

/-- The bytes that a request may write. -/
def writesOf (es : List Elem) : BitVec 128 := es.foldl (fun m e => if e.op.writes then m ||| e.bytes else m) 0#128

/-- The bytes that the stores of a request write whole. -/
def putsOf (es : List Elem) : BitVec 128 :=
  es.foldl (fun m e =>
    match e.op with
    | .put _ => if e.size = 5 then m else m ||| e.bytes
    | .kv _ => m ||| e.bytes
    | _ => m) 0#128

/-- The copies that a version reads through (R184, R284), in the order in which they lie over the home line: the couched copies, then those of the
live chain from the root down. -/
def State.viewCopies (s : State) (pa dom vid : Nat) (versioned : Bool) : List CopyView :=
  let d := homeDie pa
  let k := sliceOf pa
  let committed := s.couchedCopies d k (setOf pa) (pa / 128)
  if vid = 0 || !versioned then committed
  else
    let cs := (s.slice d k).copies (setOf pa) (pa / 128)
    committed ++ (s.chain d k dom 17 vid).reverse.filterMap fun u =>
      cs.find? fun c => decide (c.domain = dom) && decide (c.vid = u)

/-- The bytes of the home line, or of memory where no slice holds the line. -/
def State.homeBytes (s : State) (pa : Nat) : LineBytes :=
  match (s.slice (homeDie pa) (sliceOf pa)).homeLine (setOf pa) (pa / 128) with
  | some (_, w) => { data := w.data, bad := bytesOfSectors w.poison }
  | none =>
    (List.range 4).foldl (fun (l : LineBytes) i =>
      let (v, bad) := s.farSector (pa / 128) i
      { data := l.data ||| (v.setWidth 1024 <<< (256 * i))
        bad := if bad then l.bad ||| bytesOfSectors (BitVec.ofNat 4 (2 ^ i)) else l.bad }) { data := 0#1024, bad := 0#128 }

/-- The line as a version sees it (R184, R284). -/
def State.viewLine (s : State) (pa dom vid : Nat) (versioned : Bool) : LineBytes :=
  (s.viewCopies pa dom vid versioned).foldl LineBytes.overlay (s.homeBytes pa)

/-- Count a hit or a miss of a class (R379), unless the die's counters are frozen. -/
def State.countLookup (s : State) (d k cls : Nat) (hit : Bool) : State :=
  if (s.die d).freeze then s
  else s.updSlice d k fun sl =>
    if hit then { sl with hits := sl.hits.set cls ((nth sl.hits cls 0 + 1) % 2 ^ 48) }
    else { sl with misses := sl.misses.set cls ((nth sl.misses cls 0 + 1) % 2 ^ 48) }

/-- Whose version a request writes: the copy of a live version, committed memory, or nothing for a broke one
(R282, R285). -/
inductive WriteTarget where
  | committed | copy | dropped
  deriving DecidableEq, Repr

/-- Where the writes of a version go at a slice. -/
def State.targetOf (s : State) (d k dom vid : Nat) (versioned : Bool) : WriteTarget :=
  if vid = 0 || !versioned then .committed
  else
    match (s.sliceEntry d k dom vid).st with
    | .live => .copy
    | .broke => .dropped
    | _ => .committed

/-- Where the writes of a request go; a request that writes nothing reads only. -/
def State.targetFor (s : State) (r : LineReq) : WriteTarget :=
  if writesOf r.elems = 0#128 then .committed
  else s.targetOf (homeDie (r.line * 128)) (sliceOf (r.line * 128)) r.domain r.vid r.versioned

/-- The bytes that a request takes from the line: the sectors that a load's answer shows, or what an atomic or a nibble store reads. -/
def LineReq.taken (r : LineReq) : BitVec 128 :=
  if writesOf r.elems = 0#128 then bytesOfSectors (sectorsOf (readsOf r.elems)) else readsOf r.elems

/-- The sectors of the home line that a request needs (R279): those of the bytes that it takes and that no copy supplies, and those that a committed write
covers in part. A write into a copy needs none (R282), nor one that is dropped (R285). -/
def State.homeNeeds (s : State) (r : LineReq) : BitVec 4 :=
  if s.targetFor r = .dropped then 0#4 else
  let supplied := (s.viewCopies (r.line * 128) r.domain r.vid r.versioned).foldl (fun m c => m ||| c.mask) 0#128
  let wr := writesOf r.elems
  sectorsOf (r.taken &&& ~~~supplied) |||
    (if s.targetFor r = .committed then sectorsOf wr &&& ~~~wholeSectors wr else 0#4)

/-- The sectors of a peer line that a request needs and that its home does not hold (R423). -/
def State.peerMissing (s : State) (r : LineReq) : BitVec 4 :=
  let pa := r.line * 128
  if !isPeer pa then 0#4
  else match (s.slice (homeDie pa) (sliceOf pa)).homeLine (setOf pa) r.line with
    | some (_, w) => s.homeNeeds r &&& ~~~w.present
    | none => s.homeNeeds r &&& ~~~s.passingSectors r.line

/-- A request of a copy or a drain (R426). -/
def Owner.isEngine (o : Owner) : Bool :=
  match o with
  | .copy _ _ _ => true
  | .drain _ _ => true
  | _ => false

/-- What a copy or a drain has written of poisoned sectors in all, and those of them that it has now written whole (R299). -/
def State.cover (s : State) (o : Owner) (line dom vid : Nat) (marks : BitVec 4) (mask : BitVec 128) : State × BitVec 4 :=
  let add (core id : Nat) (drain : Bool) : State × BitVec 4 :=
    (List.range 4).foldl (fun (acc : State × BitVec 4) i =>
      let (s, cleans) := acc
      let m := mask.extractLsb' (32 * i) 32
      if m = 0#32 || !marks.getLsbD i then acc
      else
        let same (c : Cover) : Bool := decide (c.core = core) && decide (c.id = id) && decide (c.drain = drain) && decide (c.domain = dom) &&
          decide (c.vid = vid) && decide (c.sector = line * 4 + i)
        let now := (s.covers.find? same).elim m fun c => c.bytes ||| m
        let rest := s.covers.filter fun c => !same c
        if now = allLanes then ({ s with covers := rest }, cleans ||| BitVec.ofNat 4 (2 ^ i))
        else ({ s with covers := rest ++ [{ core := core, id := id, drain := drain, domain := dom, vid := vid, sector := line * 4 + i, bytes := now }] },
          cleans)) (s, 0#4)
  match o with
  | .copy k id _ => add k id false
  | .drain k id => add k id true
  | _ => (s, 0#4)

/-- The spill-exhausted squash of a version (R288). -/
def State.squashFull (s : State) (dom vid : Nat) : State :=
  { s with resolves := s.resolves ++
      [{ source := .spill, ofDomain := 0, ofVid := 0, domain := dom, target := vid, proposed := 0, squash := true, status := none,
         notice := 0, dst := 0, taint := false, asked := none }] }

/-- The writes of a request land in committed memory: in the way of the home line, or in memory itself where no way holds it (R279, R288). -/
def State.landHome (s : State) (r : LineReq) (key : Option Nat) (after : BitVec 1024) (mask : BitVec 128) (core agent : Nat) : State :=
  let pa := r.line * 128
  let (s, covered) := s.cover r.owner r.line 0 0 (sectorsOf (s.homeBytes pa).bad) mask
  let cleans := wholeSectors (putsOf r.elems) ||| covered
  match key with
  | some key => s.writeHome (homeDie pa) (sliceOf pa) key after mask cleans 0#4 core agent
  | none => s.writeThrough r.line after mask cleans 0#4 core agent

/-- The writes of a request land in a copy (R282, R283); `taken` are the bytes it had to take from a poisoned sector first. -/
def State.landCopy (s : State) (r : LineReq) (key : Nat) (after : BitVec 1024) (mask : BitVec 128) (bad : BitVec 128) : State :=
  let pa := r.line * 128
  let marks := ((s.slice (homeDie pa) (sliceOf pa)).ways.find key).elim 0#4 fun w => w.poison
  let (s, covered) := s.cover r.owner r.line r.domain r.vid marks mask
  let nibbles := r.elems.foldl (fun m e => if e.size = 5 && e.op.writes then m ||| e.bytes else m) 0#128
  s.updWay (homeDie pa) (sliceOf pa) key fun w =>
    { w with data := putBytes w.data after mask
             mask := w.mask ||| mask
             poison := (w.poison &&& ~~~(wholeSectors (putsOf r.elems) ||| covered)) ||| sectorsOf (nibbles &&& ~~~w.mask &&& bad) }

/-- Whether a request has waited for sectors of a peer, which is its miss (R379, R423); it waits no longer. -/
def State.takeWaited (s : State) (line tag : Nat) : State × Bool :=
  if s.ualink.missed.contains (line, tag) then ({ s with ualink := { s.ualink with missed := s.ualink.missed.erase (line, tag) } }, true) else (s, false)

/-- What a lookup finds (R379): every sector that a request needs is present. -/
def isHit (need held : BitVec 4) : Bool := decide (need &&& ~~~held = 0#4) && (decide (held ≠ 0#4) || decide (need = 0#4))

/-- The sectors that the home line of an address holds. -/
def State.homeSectors (s : State) (pa : Nat) : BitVec 4 :=
  match (s.slice (homeDie pa) (sliceOf pa)).homeLine (setOf pa) (pa / 128) with | some (_, w) => w.present | none => 0#4

/-- A merge by a sweep or a notice is a request of class 7 to the slice (R297, R379). -/
def State.countMerge (s : State) (pa : Nat) : State :=
  match s.couchedCopies (homeDie pa) (sliceOf pa) (setOf pa) (pa / 128) with
  | [] => s
  | cs =>
    let mask := cs.foldl (fun m c => m ||| c.mask) 0#128
    let hit := isHit (sectorsOf mask &&& ~~~wholeSectors mask) (s.homeSectors pa)
    let (s, waited) := s.takeWaited (pa / 128) 0
    s.countLookup (homeDie pa) (sliceOf pa) 7 (hit && !waited)

/-- A request that reads the committed view of a line. -/
def LineReq.readsCommitted (r : LineReq) : Bool := decide (writesOf r.elems = 0#128) && (decide (r.vid = 0) || !r.versioned)

/-- Perform a request at its home slice (R278 to R288): its reads and writes, in element order, at one instant. A committed read or write allocates the
home line (R279). A write that cannot be given a copy squashes its own version and is dropped (R288); one of a broke version changes nothing (R285, R303). -/
def State.performReq (s : State) (r : LineReq) (core agent : Nat) : State × LineReq :=
  let pa := r.line * 128
  let d := homeDie pa
  let k := sliceOf pa
  let set := setOf pa
  let wr := writesOf r.elems
  let target := s.targetFor r
  let commits := decide (wr ≠ 0#128) && decide (target = .committed)
  let s := if commits then s.mergeLine pa r.cls core agent else s
  let need := s.homeNeeds r
  let held := s.homeSectors pa
  let (s, waited) := s.takeWaited r.line r.tag
  let s := s.countLookup d k r.cls (isHit need held && !waited)
  let used := (s.viewCopies pa r.domain r.vid r.versioned).filter fun c => decide (target ≠ .dropped) && decide (c.mask &&& r.taken ≠ 0#128)
  let s := used.foldl (fun s c => s.useCopy d k set r.line c.domain c.vid r.cls r.distant) s
  let home := commits || decide (need ≠ 0#4) || r.readsCommitted
  let (s, key) := if home then s.homeWay pa r.cls r.distant else (s, none)
  let s := match key with
    | some key => s.fillSectors d k key need
    | none => if home then s.spillExhausted d else s
  let view := s.viewLine pa r.domain r.vid r.versioned
  let stays := match target with
    | .copy => ((s.copyAt d k set r.line r.domain r.vid).elim 0#128 fun w => bytesOfSectors w.2.poison)
    | _ => view.bad
  let (es, after, mask) := applyElems r.elems view stays
  let done := { r with elems := es, missed := waited || decide (need &&& ~~~held ≠ 0#4), fill := view.data, fillBad := sectorsOf view.bad }
  let s := s.dropPassing r.line
  if mask = 0#128 then (s, done)
  else
    match target with
    | .dropped => (s, done)
    | .committed => (s.landHome r key after.data mask core agent, done)
    | .copy =>
      match s.copyWay pa r.domain r.vid r.cls r.distant with
      | (s, some key) => (s.landCopy r key after.data mask view.bad, done)
      | (s, none) => ((if home && key.isNone then s else s.spillExhausted d).squashFull r.domain r.vid, done)

/-- A request of a die engine at committed memory (class 7, no version). -/
def engineReq (pa : Nat) (es : List Elem) : LineReq :=
  { owner := .engine, tag := 0, die := homeDie pa, domain := 0, vid := 0, versioned := false, line := pa / 128, cls := 7,
    distant := false, elems := es, st := .pending, epoch := 0, missed := false, fill := 0#1024, fillBad := 0#4, plain := true,
    ordered := false, kept := false }

/-- One element of a die engine. -/
def engineElem (pa size : Nat) (op : ElemOp) : Elem :=
  { lane := 0, va := pa, off := pa % 128, size := size, op := op, got := 0#128, poison := false }

/-- Read a naturally aligned element of committed memory, with its poison. -/
def State.readCommitted (s : State) (pa size : Nat) : State × W64 × Bool :=
  let (s, r) := (s.wake pa).performReq (engineReq pa [engineElem pa size .read]) 0 0
  match r.elems with
  | e :: _ => (s, e.got.setWidth 64, e.poison)
  | [] => (s, 0#64, false)

/-- Write a naturally aligned element of committed memory. -/
def State.writeCommitted (s : State) (pa size : Nat) (v : W64) : State :=
  ((s.wake pa).performReq (engineReq pa [engineElem pa size (.put (v.setWidth 128))]) 0 0).1

/-- The management leaf, at which the engines of a die send and receive (R410). -/
def engineLeaf : Nat := 103

/-- The PCIe endpoint, at which the host's requests enter die 0 (R410, R427). -/
def hostLeaf : Nat := 101

/-- Send a write of an engine of die `e` to the home of its line (R330). -/
def State.sendEngineWrite (s : State) (e : Nat) (r : LineReq) : State :=
  s.sendCausal e [homeDie (r.line * 128)] (if r.owner = .host then hostLeaf else engineLeaf) (lineIndex (r.line * 128)) (.write r)

/-- A write of an engine of die `e`, or of the host: performed at a home of its own die at once, sent elsewhere by a causal message (R330), which the die holds
back while it must (R332). -/
def State.engineSend (s : State) (e : Nat) (r : LineReq) : State :=
  if homeDie (r.line * 128) = e then ((s.wake (r.line * 128)).performReq r 0 0).1
  else
    let r := { r with die := e }
    if (s.die e).holdsBack e || !(s.die e).heldWrites.isEmpty then s.updDie e fun d => { d with heldWrites := d.heldWrites ++ [r] }
    else s.sendEngineWrite e r

/-- An engine of die `e` writes an element of committed memory: at a home of its own die at once, elsewhere by a causal message (R330), which the die
holds back while it must (R332). -/
def State.engineWrite (s : State) (e pa size : Nat) (v : W64) : State := s.engineSend e (engineReq pa [engineElem pa size (.put (v.setWidth 128))])

/-- A die sends on the oldest write of its engines that it has held back, once it may (R332). -/
def State.sendHeld (s : State) (e : Nat) : State :=
  match (s.die e).heldWrites with
  | [] => s
  | r :: rest => if (s.die e).holdsBack e then s else (s.updDie e fun d => { d with heldWrites := rest }).sendEngineWrite e r

/-- Entries of a die's clock, other than those of two dies, are at or above a stamp's (R331, condition 2). -/
def State.clockCovers (s : State) (e j : Nat) (v : List W32) : Bool :=
  (List.range Config.dies).all fun k =>
    decide (k = e) || decide (k = j) || clockAtLeast (nth (s.clockOf e) k 0#32) (nth v k 0#32)

/-- A message writes for an engine of its die or for the host. -/
def MsgBody.ofEngine (b : MsgBody) : Bool :=
  match b with
  | .write r => decide (r.owner = .engine) || decide (r.owner = .host)
  | _ => false

/-- What die `e` reads of a home on die `h` may be used at once (R331): every causal message that the home has sent it is applied, its clock covers
the home's, and no write of its own engines to that home is under way. -/
def State.viewOf (s : State) (e h : Nat) : Bool :=
  decide (h = e) || ((s.underWay h e).all fun m => !m.body.causal) && s.clockCovers e h (s.clockOf h) &&
    ((s.underWay e h).all fun m => !m.body.ofEngine) && (s.die e).heldWrites.all fun r => decide (homeDie (r.line * 128) ≠ h)

/-- What die `e` reads of the home of an address may be used at once. -/
def State.viewReady (s : State) (e pa : Nat) : Bool := s.viewOf e (homeDie pa)

/-- A request of a die engine for bytes of one line. -/
def bytesReq (pa : Nat) (ops : List ElemOp) : LineReq :=
  engineReq pa (((List.range ops.length).zip ops).map fun x => engineElem (pa + x.1) 0 x.2)

/-- A range of bytes, cut at the ends of lines. -/
def linePieces {α : Type} (fuel pa : Nat) (l : List α) : List (Nat × List α) :=
  match fuel, l with
  | n + 1, _ :: _ => (pa, l.take (128 - pa % 128)) :: linePieces n (pa + (128 - pa % 128)) (l.drop (128 - pa % 128))
  | _, _ => []

/-- Read `n` bytes of committed memory, a line at a time. -/
def State.readBytes (s : State) (pa n : Nat) : State × List W8 :=
  (linePieces (n / 128 + 2) pa (List.replicate n ElemOp.read)).foldl (fun acc x =>
    let (s, r) := (acc.1.wake x.1).performReq (bytesReq x.1 x.2) 0 0
    (s, acc.2 ++ r.elems.map fun e => e.got.setWidth 8)) (s, [])

/-- Write bytes of committed memory, a line at a time. -/
def State.writeBytes (s : State) (pa : Nat) (bs : List W8) : State :=
  (linePieces (bs.length / 128 + 2) pa bs).foldl (fun s x =>
    ((s.wake x.1).performReq (bytesReq x.1 (x.2.map fun b => .put (b.setWidth 128))) 0 0).1) s

/-- The host writes bytes of committed memory: its requests enter die 0, which performs those of its own lines and sends the others on as its own causal
messages (R427, R430). -/
def State.hostWrite (s : State) (pa : Nat) (bs : List W8) : State :=
  (linePieces (bs.length / 128 + 2) pa bs).foldl (fun s x =>
    s.engineSend 0 { bytesReq x.1 (x.2.map fun b => .put (b.setWidth 128)) with owner := .host }) s

end Sys2Proof.Machine
end

