-- ==== Sys2Proof/Machine/Xlate.lean ====
section
/-! DEFINITION. Address translation: the walk of the page tables, the TLBs, page requests, and the instruction fetch
(R85, R274, R275, R304 to R315). -/

namespace Sys2Proof.Machine

/-- Ask for the sectors of a peer line over UALink (R304, R423); the request that needs them is a miss (R379). -/
def State.askPeer (s : State) (line : Nat) (sectors : BitVec 4) (tag : Nat) : State :=
  let s := if s.ualink.missed.contains (line, tag) then s else { s with ualink := { s.ualink with missed := s.ualink.missed ++ [(line, tag)] } }
  (List.range 4).foldl (fun s i =>
    let asked := s.ualink.out.any fun o => decide (o.what = .fill line i)
    if sectors.getLsbD i && !asked then s.sendUa (line * 128 + 32 * i) (.fill line i) else s) s

/-- An error answer to the fill of a line that nothing has taken yet (R425). -/
def State.takeError (s : State) (line : Nat) : Option State :=
  if s.ualink.errors.any fun e => decide (e.1 = line) then
    some { s with ualink := { s.ualink with errors := s.ualink.errors.filter fun e => decide (e.1 ≠ line) } }
  else none

/-- Read one 8-byte word for an engine of a die; none while a peer's sector is still on its way (R310), or an answer from another die is held
(R331). The Boolean says that the word comes from a poisoned sector. -/
def State.readWord (s : State) (die pa : Nat) : State × Option (W64 × Bool) :=
  let r := engineReq pa [engineElem pa 3 .read]
  let missing := s.peerMissing r
  if missing ≠ 0#4 then (s.askPeer (pa / 128) missing 0, none)
  else if !s.viewReady die pa then (s, none)
  else
    let (s, v, bad) := s.readCommitted pa 3
    (s, some (v, bad))

/-- What a walk ends in (R310), with whether the entry that decides it maps a 2 MiB page, or that a peer's table is still being read. -/
inductive XResult where
  | fatal (detail : W8) (big : Bool)
  | absent (big : Bool)
  | resident (e : TlbEntry)
  | pending
  deriving DecidableEq, Repr

/-- An address is canonical: bits [63:56] all equal bit 55 (R304). -/
def isCanonical (va : W64) : Bool :=
  let top := va.extractLsb' 55 9
  decide (top = 0#9) || decide (top = 0x1FF#9)

/-- The significant part of a virtual address. -/
def vaNat (va : W64) : Nat := (va.extractLsb' 0 56).toNat

/-- Why a frame is no place for a table or a page, if it is none (R304, R305, R310). -/
def State.frameFault (s : State) (pa : Nat) : Option W8 :=
  if isPeer pa then (if (s.peers.find ((pa - peerBase) / 2 ^ 46)).isSome then none else some 0x05#8)
  else if isHost pa then none
  else if isHbm pa && !inSpill pa then none
  else some 0x04#8

/-- A field of an entry. -/
def pteFrame (e : W64) : Nat := (e.extractLsb' 12 40).toNat * 4096

/-- The index bits of a level (R307). -/
def levelIndex (level va : Nat) : Nat :=
  match level with
  | 3 => va / 2 ^ 45 % 2048
  | 2 => va / 2 ^ 33 % 4096
  | 1 => va / 2 ^ 21 % 4096
  | _ => va / 2 ^ 16 % 32

/-- An engine of a die may change a line at its home at once: what it has sent there is applied, and the home knows what it knows (R331). -/
def State.instantReady (s : State) (e h : Nat) : Bool :=
  decide (e = h) || !(s.die e).holdsBack e && ((s.underWay e h).all fun m => !m.body.causal) && s.clockCovers h e (s.clockOf e)

/-- A causal message that is sent and applied at once (R330, R331). -/
def State.instantMessage (s : State) (e h : Nat) : State :=
  if e = h then s
  else
    let own := nth (s.die e).clock e 0#32 + 1#32
    (s.updDie e fun d => { d with clock := d.clock.set e own, sinceNotice := true }).updDie h fun d =>
      { d with clock := d.clock.set e own }

/-- The OR that a walk makes into the companion word of a leaf slot: a bit of DIEA or PEERA and, for a write, D (R311). -/
def State.orCompanion (s : State) (slot : Nat) (bit : Nat) (write : Bool) : State × W64 :=
  let m : W64 := BitVec.ofNat 64 (2 ^ bit) ||| (if write then 1#64 <<< 63 else 0#64)
  let (s, r) := (s.wake slot).performReq (engineReq (slot + 8) [engineElem (slot + 8) 3 (.atom .or true m)]) 0 0
  match r.elems with
  | e :: _ => (s, e.got.setWidth 64 ||| m)
  | [] => (s, m)

/-- The OR of a die's walk; none while an answer of its home could not be used. A walk carries no stamp and moves no entry of a clock (R331). -/
def State.markCompanion (s : State) (die slot : Nat) (write : Bool) : State × Option W64 :=
  if s.viewReady die slot then
    let (s, c) := s.orCompanion slot die write
    (s, some c)
  else (s, none)

/-- A request that a walk of a die has sent for a slot. -/
def UaWait.isWalk (w : UaWait) (die slot : Nat) (mark : Option Bool) : Bool :=
  match w with
  | .walk d x m _ => decide (d = die) && decide (x = slot) && decide (m = mark)
  | _ => false

/-- One more waits for the answer to a walk. -/
def UaWait.ask (w : UaWait) (asker : Nat) : UaWait :=
  match w with
  | .walk d x m as => .walk d x m (setAdd as asker)
  | w => w

/-- Those who have asked and still stand: an asker from 12 on is a core, with its block. -/
def State.standing (s : State) (as : List Nat) : List Nat := as.filter fun a => decide (a < 12) || (s.cores.find (a - 12)).isSome

/-- The answer to a walk is there for everyone who had asked when it came (R311). -/
def State.takeAnswer (s : State) (w : WalkAnswer) (asker : Nat) : State :=
  let left := setDel (s.standing w.askers) asker
  let rest := s.ualink.walks.filter fun x => decide (x ≠ w)
  { s with ualink := { s.ualink with walks := if left = [] then rest else { w with askers := left } :: rest } }

/-- A slot in a peer's memory is read there (R310): a leaf with a walk of its own, which marks it (R311). Walks of one slot by a die that are outstanding
at once are one. The answer is the entry and its companion word; none while it is on its way. -/
def State.peerSlot (s : State) (die slot : Nat) (mark : Option Bool) (asker : Nat) : State × Option (W64 × W64) :=
  match s.ualink.walks.find? fun x => decide (x.die = die) && decide (x.slot = slot) && decide (x.mark = mark) with
  | some w => (s.takeAnswer w asker, some (w.entry, w.companion))
  | none =>
    if s.ualink.out.any fun o => o.what.isWalk die slot mark then
      ({ s with ualink := { s.ualink with
        out := s.ualink.out.map fun o => if o.what.isWalk die slot mark then { o with what := o.what.ask asker } else o } }, none)
    else (s.sendUa slot (.walk die slot mark [asker]), none)

/-- One that waits still keeps the answers it has taken: its next attempt takes them again (R311). -/
def State.keepAnswers (t s : State) : State := { t with ualink := { t.ualink with walks := s.ualink.walks } }

/-- Mark and read a leaf slot (R311): the entry and its companion word. -/
def State.readLeaf (s : State) (die slot : Nat) (write : Bool) (asker : Nat) : State × Option (W64 × W64) :=
  if isPeer slot then s.peerSlot die slot (some write) asker
  else match s.markCompanion die slot write with
    | (s, none) => (s, none)
    | (s, some c) =>
      match s.readWord die slot with
      | (s, none) => (s, none)
      | (s, some (e, _)) => (s, some (e, c))

/-- Read an entry of a table, without marking it: one in a peer's memory is read there (R310). -/
def State.readEntry (s : State) (die slot asker : Nat) : State × Option W64 :=
  if isPeer slot then
    match s.peerSlot die slot none asker with
    | (s, x) => (s, x.map fun p => p.1)
  else match s.readWord die slot with
    | (s, x) => (s, x.map fun p => p.1)

/-- A walk whose table is read from a peer waits for its answer; an error answer is fatal (R425). -/
def State.walkWaits (s asked : State) (slot : Nat) : State × XResult :=
  match s.takeError (slot / 128) with
  | some t => (t, .fatal 0x05#8 false)
  | none => (asked, .pending)

/-- The checks of a present entry at a level, before its use (R310 step 3). -/
def State.entryFault (s : State) (level : Nat) (e : W64) : Option W8 :=
  let leaf := e.getLsbD 1
  if e.extractLsb' 52 4 ≠ 0#4 ∨ e.extractLsb' 6 6 ≠ 0#6 then some 0x01#8
  else if (leaf ∧ level ≥ 2) ∨ (!leaf ∧ level = 0) then some 0x02#8
  else if (level = 0 ∧ pteFrame e % 2 ^ 16 ≠ 0) ∨ (leaf ∧ level = 1 ∧ pteFrame e % 2 ^ 21 ≠ 0) then some 0x03#8
  else s.frameFault (pteFrame e)

/-- What a leaf entry answers (R310 steps 4 to 6), with its companion word (R309). -/
def leafResult (asid va : Nat) (big : Bool) (kind : WalkKind) (e c : W64) : XResult :=
  if kind = .write ∧ !e.getLsbD 2 then .fatal 0x06#8 big
  else if kind = .fetch ∧ !e.getLsbD 3 then .fatal 0x07#8 big
  else if e.getLsbD 5 then (if kind = .fetch then .fatal 0x07#8 big else .absent big)
  else .resident
    { asid := asid, page := if big then va / 2 ^ 21 else va / 2 ^ 16, big := big, frame := pteFrame e,
      w := e.getLsbD 2, x := e.getLsbD 3, d := c.getLsbD 63, ver := c.getLsbD 62, domain := (c.extractLsb' 56 6).toNat }

/-- What an entry with P = 0 ends a walk in (R310). -/
def notPresent (kind : WalkKind) : XResult := if kind = .fetch then .fatal 0x07#8 false else .absent false

/-- The end of a walk at a leaf slot of level 0 or 1: mark it, read it, check it (R310, R311); `table` is what follows where the entry that is read is no
leaf of level 1 any more. -/
def State.walkLeaf (s : State) (die asid va : Nat) (kind : WalkKind) (slot : Nat) (big : Bool) (asker : Nat)
    (table : State → W64 → State × XResult) : State × XResult :=
  match s.readLeaf die slot (decide (kind = .write)) asker with
  | (t, none) => s.walkWaits t slot
  | (s, some (e, c)) =>
    if !e.getLsbD 0 then (s, notPresent kind)
    else match s.entryFault (if big then 1 else 0) e with
      | some d => (s, .fatal d (big && e.getLsbD 1))
      | none => if big && !e.getLsbD 1 then table s e else (s, leafResult asid va big kind e c)

/-- The walk from a table of a level down (R307, R310). -/
def State.walkFrom (s : State) (die asid va : Nat) (kind : WalkKind) (asker level table : Nat) : State × XResult :=
  let slot := table + 16 * levelIndex level va
  match level with
  | 0 => s.walkLeaf die asid va kind slot false asker fun s _ => (s, .pending)
  | n + 1 =>
    match s.readEntry die slot asker with
    | (t, none) => s.walkWaits t slot
    | (s, some e) =>
      let down (s : State) (e : W64) : State × XResult := s.walkFrom die asid va kind asker n (pteFrame e)
      if !e.getLsbD 0 then (s, notPresent kind)
      else if e.getLsbD 1 && decide (n = 0) then s.walkLeaf die asid va kind slot true asker down
      else match s.entryFault (n + 1) e with
        | some d => (s, .fatal d false)
        | none => down s e

/-- A walk by a die for one who asks: the die itself, or a core from 12 on (R310). -/
def State.walkFor (s : State) (die asid : Nat) (va : W64) (kind : WalkKind) (asker : Nat) : State × XResult :=
  if !isCanonical va then (s, .fatal 0x00#8 false)
  else match s.roots.find asid with
    | none => (s, .fatal 0x08#8 false)
    | some root =>
      match s.frameFault root with
      | some d => (s, .fatal d false)
      | none =>
        match s.walkFrom die asid (vaNat va) kind asker 3 root with
        | (t, .pending) => (t.keepAnswers s, .pending)
        | x => x

/-- A walk by a die for an engine of its own (R310). -/
def State.walk (s : State) (die asid : Nat) (va : W64) (kind : WalkKind) : State × XResult := s.walkFor die asid va kind die

/-- An entry translates an address of its space. -/
def TlbEntry.covers (e : TlbEntry) (asid va : Nat) : Bool :=
  decide (e.asid = asid) && (if e.big then decide (e.page = va / 2 ^ 21) else decide (e.page = va / 2 ^ 16))

/-- The physical address that an entry gives. -/
def TlbEntry.phys (e : TlbEntry) (va : Nat) : Nat := e.frame + (if e.big then va % 2 ^ 21 else va % 2 ^ 16)

/-- Put an entry first in a TLB of `sets` sets of `ways`, dropping the least recently used of its set (R312). -/
def tlbInsert (sets ways : Nat) (tlb : List TlbEntry) (e : TlbEntry) : List TlbEntry :=
  let rest := tlb.filter fun x => !(decide (x.asid = e.asid) && decide (x.page = e.page) && decide (x.big = e.big))
  let inSet (x : TlbEntry) : Bool := decide (x.page % sets = e.page % sets)
  let keep := (rest.filter inSet).take (ways - 1)
  e :: rest.filter fun x => !inSet x || keep.contains x

/-- Fill both TLBs of a core (R312). -/
def State.fillTlbs (s : State) (k : Nat) (e : TlbEntry) : State :=
  let s := s.updCore k fun c => { c with tlb := tlbInsert 64 4 c.tlb e }
  s.updDie (dieOfCore k) fun d =>
    { d with clusterTlb := alterPad [] d.clusterTlb (clusterOfCore k) fun t => tlbInsert 256 16 t e }

/-- Whether a cached entry can serve an access without a walk: a first write needs one (R313). -/
def TlbEntry.serves (e : TlbEntry) (kind : WalkKind) : Bool :=
  match kind with
  | .write => e.w && e.d
  | .fetch => e.x
  | _ => true

/-- What a cached translation answers: an access to a peer slot whose entry is no longer valid is fatal (R305). -/
def State.cached (s : State) (e : TlbEntry) : XResult :=
  if isPeer e.frame && (s.frameFault e.frame).isSome then .fatal 0x05#8 e.big else .resident e

/-- Translate for a core: its TLB, its cluster's, then a walk (R312, R313). -/
def State.translate (s : State) (k asid : Nat) (va : W64) (kind : WalkKind) : State × XResult :=
  if !isCanonical va then (s, .fatal 0x00#8 false)
  else
    let x := vaNat va
    let own := match s.core? k with | some c => c.tlb | none => []
    match own.find? fun e => e.covers asid x && e.serves kind with
    | some e => (s.updCore k fun c => { c with tlb := tlbInsert 64 4 c.tlb e }, s.cached e)
    | none =>
      match (nth (s.die (dieOfCore k)).clusterTlb (clusterOfCore k) []).find? fun e => e.covers asid x && e.serves kind with
      | some e => (s.fillTlbs k e, s.cached e)
      | none =>
        match s.walkFor (dieOfCore k) asid va kind (12 + k) with
        | (s, .resident e) => (s.fillTlbs k e, .resident e)
        | (s, r) => (s, r)

/-- One page request of a die, merged with one already made (R314), for a page of 2 MiB with one of any part of it. -/
def State.requestPage (s : State) (die asid page : Nat) (frag : Option (Nat × Nat)) (big : Bool := false) : State :=
  s.updDie die fun d =>
    let r : PageReq := { asid := asid, page := page, frag := frag }
    if d.pageReqs.any fun x => decide (x.asid = asid) && (decide (x.page = page) || big && decide (x.page / 32 = page / 32)) then d
    else { d with pageReqs := d.pageReqs ++ [r], migrQueue := d.migrQueue ++ [r], pageReqCount := d.count d.pageReqCount 32 }

/-- Report a fatal address fault of a grid to its coordinator (R394). In a block that has heard that its version is broke it is discarded, and the block
stops (R387). -/
def State.reportFatal (s : State) (k agent : Nat) (detail : W8) (pc addr : W64) (sect : W8) : State :=
  match s.core? k with
  | none => s
  | some c =>
    if c.squashed then (if c.phase = .running then s.updCore k fun c => { c with phase := .stopping } else s)
    else
    { s with reports := s.reports ++
      [(c.grid, { code := 0x40#8, detail := detail, pc := pc, addr := addr, die := dieOfCore k,
                  core := BitVec.ofNat 8 (coreNum k), agent := BitVec.ofNat 8 agent, section_ := sect,
                  block := 0xFF#8,
                  cycle := s.now - s.resetAt })] }

/-! ## Instruction fetch -/

/-- What a fetch of a packet gives. -/
inductive FetchResult where
  | packet (p : BitVec 128)
  | fatal (detail : W8)
  | pending
  deriving DecidableEq, Repr

/-- A line read for a read-only cache (R274): its bytes, its poisoned sectors, whether no version on the chain has written it, and whether
the slice missed. -/
structure LineRead where
  data : BitVec 1024
  bad : BitVec 4
  untouched : Bool
  missed : Bool
  deriving DecidableEq, Repr

/-- Reads of every byte of a line. -/
def lineReads (pa : Nat) : List Elem := (List.range 8).map fun i => engineElem (pa / 128 * 128 + 16 * i) 4 .read

/-- A whole line from its home slice, in the VID 0 view, at class 6 (R274, R297). -/
def State.fetchLine (s : State) (line : Nat) : State × LineRead :=
  let (s, r) := (s.wake (line * 128)).performReq { engineReq (line * 128) (lineReads (line * 128)) with cls := 6 } 0 0
  (s, { data := r.fill, bad := r.fillBad, untouched := true, missed := r.missed })

/-- The sets of the read-only cluster cache: 2 MiB of 128-byte lines in 16 ways (R274). -/
def roSets : Nat := 1024

/-- Put a line first among the lines of a cluster's cache. DESIGN CHOICE (log 148, unsafe): the spec gives the 16 ways neither an index nor a replacement
rule; of more than 16 lines with one number modulo 1024 the least recently used goes. -/
def roInsert (ls : List RoLine) (l : RoLine) : List RoLine :=
  let same (x : RoLine) : Bool := decide (x.line = l.line) && decide (x.vid = l.vid) && decide (x.domain = l.domain)
  let rest := ls.filter fun x => !same x
  let inSet (x : RoLine) : Bool := decide (x.line % roSets = l.line % roSets)
  let keep := (rest.filter inSet).take 15
  l :: rest.filter fun x => !inSet x || keep.contains x

/-- A line through the read-only cluster cache (R274): one of the view tag, filled no earlier than the core's start
stamp (R275), else a fill from the home slice. -/
def State.readOnlyLine (s : State) (k dom vid line : Nat) (read : State → State × LineRead) : State × LineRead :=
  let die := dieOfCore k
  let cl := clusterOfCore k
  let stamp := match s.core? k with | some c => c.stamp | none => 0
  let tagged (l : RoLine) : Bool :=
    decide (l.line = line) && (decide (l.vid = 0) || (decide (l.vid = vid) && decide (l.domain = dom)))
  let keep (s : State) (l : RoLine) : State := s.updDie die fun d => { d with ro := alterPad [] d.ro cl fun ls => roInsert ls l }
  match (nth (s.die die).ro cl []).find? fun l => tagged l && decide (stamp ≤ l.filled) with
  | some l => (keep s l, { data := l.data, bad := l.poison, untouched := decide (l.vid = 0), missed := false })
  | none =>
    let (s, x) := read s
    let fresh : RoLine :=
      { domain := if x.untouched then 0 else dom, vid := if x.untouched then 0 else vid, line := line, data := x.data, poison := x.bad,
        filled := s.fabric }
    (keep s fresh, x)

/-- Put a packet first among those of an instruction cache of 64 KiB (R15). -/
def icachePut (ic : List (Nat × BitVec 128)) (pa : Nat) (p : BitVec 128) : List (Nat × BitVec 128) :=
  ((pa, p) :: ic.filter fun x => decide (x.1 ≠ pa)).take 4096

/-- Fetch the packet that holds a PC (R85): through the core instruction cache and the cluster cache; a cached packet that
differs from memory stands or gives way, as a free bit says. -/
def State.fetch (s : State) (k : Nat) (pc : W64) : State × FetchResult :=
  match s.core? k with
  | none => (s, .pending)
  | some c =>
    match s.translate k c.launch.asid (packetOf pc) .fetch with
    | (s, .fatal d _) => (s, .fatal d)
    | (s, .absent _) => (s, .fatal 0x07#8)
    | (s, .pending) => (s, .pending)
    | (s, .resident e) =>
      let pa := e.phys (vaNat (packetOf pc))
      let half (v : BitVec 1024) : BitVec 128 := (v >>> (8 * (pa % 128))).setWidth 128
      let missing := s.peerMissing (engineReq pa (lineReads pa))
      if missing ≠ 0#4 then
        match s.takeError (pa / 128) with
        | some t => (t, .fatal 0x05#8)
        | none => (s.askPeer (pa / 128) missing 0, .pending)
      else
        match KMap.find c.icache pa with
        | some old =>
          let now := half (s.viewLine pa 0 0 false).data
          if old = now then (s.updCore k fun c => { c with icache := icachePut c.icache pa old }, .packet old)
          else
            let s' := { s with free := s.free + 1 }
            if Config.freeBit s.free then
              (s'.updCore k fun c => { c with icache := icachePut c.icache pa now }, .packet now)
            else (s', .packet old)
        | none =>
          if !s.viewReady (dieOfCore k) pa then (s, .pending)
          else
            let (s, x) := s.readOnlyLine k 0 0 (pa / 128) fun s => s.fetchLine (pa / 128)
            (s.updCore k fun c => { c with icache := icachePut c.icache pa (half x.data) }, .packet (half x.data))

end Sys2Proof.Machine
end

