-- ==== Sys2Proof/Machine/Ops.lean ====
section
/-! DEFINITION. The operations that instructions and events share: reports, ending a run, advancing a slot, taking a trap
and returning from it, killing a block, holders of lanes, and fragments. -/

namespace Sys2Proof.Machine

/-! ## Reports (R379, R406, R407) -/

/-- Write a record into the error log of a die; the oldest of 1024 is overwritten (R407). -/
def State.logError (s : State) (die : Nat) (r : LogRecord) : State :=
  s.updDie die fun d =>
    let l := d.errlog ++ [r]
    { d with errlog := if l.length > 1024 then l.drop 1 else l }

/-- A record of an agent of a core. -/
def State.recordOf (s : State) (k agent : Nat) (code detail : W8) (cls : BitVec 2) (addr : W64) : LogRecord :=
  match s.core? k with
  | some c =>
    { code := code, detail := detail, cls := cls, fn := BitVec.ofNat 6 (s.queue c.queue).vf,
      core := BitVec.ofNat 8 (coreNum k), agent := BitVec.ofNat 8 agent, vid := BitVec.ofNat 8 c.vid,
      domain := BitVec.ofNat 6 c.launch.domain, addr := addr }
  | none =>
    { code := code, detail := detail, cls := cls, fn := 0#6, core := BitVec.ofNat 8 (coreNum k),
      agent := BitVec.ofNat 8 agent, vid := 0#8, domain := 0#6, addr := addr }

/-- Send something to the host, unless the device has stopped sending (R408). -/
def State.toHost (s : State) (o : HostOut) : State :=
  if s.stopped then s else { s with host := { s.host with out := s.host.out ++ [o] } }

/-- A report by its class (R406, R407, R429): a log record always; ERR_COR for a correctable error, which counts, and ERR_NONFATAL for an
uncorrectable non-fatal one, from the function that owns the queue, with its MSI-X vector 0. -/
def State.report (s : State) (die : Nat) (r : LogRecord) : State :=
  let s := s.logError die r
  if r.cls = 1#2 then
    let s := s.updDie die fun d => { d with corrErr := if d.freeze then d.corrErr else min (2 ^ 32 - 1) (d.corrErr + 1) }
    (s.toHost (.errCor r.fn.toNat)).toHost (.msix r.fn.toNat 0)
  else if r.cls = 2#2 then (s.toHost (.errNonFatal r.fn.toNat)).toHost (.msix r.fn.toNat 0)
  else s

/-- A report that concerns no agent: signalled by the physical function (R407). -/
def engineRecord (code detail : W8) (cls : BitVec 2) (fn : Nat) (addr : W64) : LogRecord :=
  { code := code, detail := detail, cls := cls, fn := BitVec.ofNat 6 fn, core := 0xFF#8, agent := 0x13#8, vid := 0#8,
    domain := 0#6, addr := addr }

/-! ## Runs and slots -/

/-- End the run of a warp on its port (R31); the access processor has no runs. -/
def State.endRun (s : State) (k a : Nat) : State :=
  if a ≥ 16 then s
  else s.updCore k fun c =>
    { c with ports := alterPad Port.idle c.ports (a % 4) fun p =>
        match p.run with
        | some (w, _) => if w = a then { p with run := none, count := 0 } else p
        | none => p }

/-- End the run of one slot of a warp (R31); a run of the warp's other slot goes on. -/
def State.endRunOf (s : State) (k a : Nat) (w : SlotId) : State :=
  if a ≥ 16 then s
  else s.updCore k fun c =>
    { c with ports := alterPad Port.idle c.ports (a % 4) fun p => if p.run = some (a, w) then { p with run := none, count := 0 } else p }

/-- Make a slot wait (R49): a blocking wait ends the run (R31), a structural wait does not (R87). -/
def State.wait (s : State) (k a : Nat) (w : SlotId) (why : Wait) : State :=
  let s := s.updSlot k a w fun sl => { sl with st := .waiting why }
  if why = .structural then s else s.endRunOf k a w

/-- Move a slot to a PC; it issues next from there. -/
def State.goto (s : State) (k a : Nat) (w : SlotId) (pc : W64) : State :=
  s.updSlot k a w fun sl => { sl with st := .live, pc := pc }

/-- The PC after a word, and the loop stack after the loop test (R122): at slot 3 of the end packet of the innermost entry
the count falls and the body repeats, or the entry is popped. -/
def Thread.loopNext (t : Thread) (tpc : W64) : W64 × List LoopEntry :=
  match t.loops with
  | [] => (nextPc tpc, [])
  | l :: rest =>
    if placeOf tpc = 3 ∧ packetOf tpc = l.last then
      if l.count.toNat > 1 then (l.start, { l with count := l.count - 1#32 } :: rest) else (nextPc tpc, rest)
    else (nextPc tpc, t.loops)

/-- A thread whose slot goes on past its instruction; a wait of that slot has ended (R359). -/
def Thread.advanced (t : Thread) (w : SlotId) (tpc : W64) : Thread :=
  let (pc, loops) := t.loopNext tpc
  { t.updSlot w fun sl => { sl with st := .live, pc := pc } with
    loops := loops
    aheadDone := if t.ahead.isSome then t.aheadDone else t.aheadDone.filter fun x => x != w }

/-- Advance a slot past its instruction (R82, R122). While the other slot runs ahead, this one stands outside it. -/
def State.advance (s : State) (k a : Nat) (w : SlotId) (tpc : W64) : State :=
  s.updThread k a fun t =>
    match t.ahead with
    | some h => if h.slot = w then t.advanced w tpc else t.outside fun t => t.advanced w tpc
    | none => t.advanced w tpc

/-! ## The divergence stack in memory (R367) -/

/-- The 128 bits of a frame (R367). -/
def Frame.encode (f : Frame) (code : W64) : BitVec 128 :=
  let rel (x : W64) : W32 := (x - code).setWidth 32
  match f with
  | .path pc m ra _ =>
    let (r, v) : BitVec 28 × BitVec 1 := match ra with | some x => ((rel x).extractLsb' 4 28, 1#1) | none => (0#28, 0#1)
    (1#2) ++ ((rel pc).extractLsb' 2 30) ++ m ++ r ++ v ++ 0#35
  | .join l e arr sv =>
    let (r, v) : BitVec 28 × BitVec 1 := match sv with | some x => ((rel x).extractLsb' 4 28, 1#1) | none => (0#28, 0#1)
    (2#2) ++ ((rel l).extractLsb' 4 28) ++ r ++ v ++ 0#5 ++ e ++ arr

/-- The address of frame `i` of a warp (R367). -/
def Core.frameAddr (c : Core) (w i : Nat) : W64 :=
  let g := (c.span * 16 + c.gang) * 8 + c.block
  c.launch.divBase + BitVec.ofNat 64 (1024 * (16 * g + w) + 16 * i)

/-- The frames of a warp are still to be written. -/
def State.reframe (s : State) (k w : Nat) : State := s.updCore k fun c => { c with reframe := setAdd c.reframe w }

/-- The PC of the instruction that an agent issues, or 0 where none does. -/
def State.issuePc (s : State) (k a : Nat) : W64 := match s.cur with | some i => if i.core = k ∧ i.agent = a then i.pc else 0#64 | none => 0#64

/-- Write one frame to memory, under VID 0 at class 7 (R367). Where the walk is under way, or the page of a frame that is rewritten is absent, the warp's frames
are written once its translation is there (log 14). -/
def State.writeFrame (s : State) (k w i : Nat) (f : Frame) : State :=
  match s.core? k with
  | none => s
  | some c =>
    let va := c.frameAddr w i
    match s.translate k c.launch.asid va .write with
    | (s, .resident e) =>
      let v := f.encode c.launch.code
      let pa := e.phys (vaNat va)
      (s.engineWrite (dieOfCore k) pa 3 (v.extractLsb' 0 64)).engineWrite (dieOfCore k) (pa + 8) 3 (v.extractLsb' 64 64)
    | (s, .fatal d _) => s.reportFatal k w d (s.issuePc k w) va 0#8
    | (s, .absent big) => s.requestPage (dieOfCore k) c.launch.asid (vaNat va / 2 ^ 16) none big |>.reframe k w
    | (s, .pending) => s.reframe k w

/-- Rewrite the frames of a warp after a change inside the list (R123, R367). The list of the state stands bottom last. -/
def State.writeFrames (s : State) (k w : Nat) : State :=
  let st := (s.thread k w).stack.reverse
  ((List.range st.length).zip st).foldl (fun s x => s.writeFrame k w x.1 x.2) s

/-- Where the next frame of a warp would go: not in reach while its page is absent, which stalls a push (R367). -/
def State.pushReady (s : State) (k w : Nat) : State × Bool :=
  match s.core? k with
  | none => (s, true)
  | some c =>
    let va := c.frameAddr w (c.thread w).stack.length
    match s.translate k c.launch.asid va .write with
    | (s, .absent big) => (s.requestPage (dieOfCore k) c.launch.asid (vaNat va / 2 ^ 16) none big, false)
    | (s, .pending) => (s, false)
    | (s, _) => (s, true)

/-- Write the frames of a warp that are still to be written, if they can be. -/
def State.framesDue (s : State) (k w : Nat) : State :=
  if (s.core? k).any fun c => c.acts && c.reframe.contains w then
    (s.updCore k fun c => { c with reframe := setDel c.reframe w }).writeFrames k w
  else s

/-- Push a frame (R123); the caller has checked the depth. -/
def State.pushFrame (s : State) (k w : Nat) (f : Frame) : State :=
  let i := (s.thread k w).stack.length
  (s.updThread k w fun t => { t with stack := f :: t.stack }).writeFrame k w i f

/-! ## Holders of lanes (R123 to R127) -/

/-- Take a completed join frame out of the list (R126): what it becomes, if it holds lanes. `live` is the set of the warp's
live lanes. -/
def takeJoin (live : W32) (stack : List Frame) : Option (List Frame × Option (W64 × W32 × Option W64) × Nat) :=
  match stack with
  | [] => none
  | f :: rest =>
    match f with
    | .join l e arr sv =>
      if arr = (e &&& live) then some (rest, if arr = 0#32 then none else some (slot1 l, arr, sv), 0)
      else match takeJoin live rest with
        | some (r, h, n) => some (f :: r, h, n + 1)
        | none => none
    | _ => match takeJoin live rest with
      | some (r, h, n) => some (f :: r, h, n + 1)
      | none => none

/-- The lowest ready fragment of a warp. -/
def Core.readyFragment (c : Core) (w : Nat) : Option (Nat × Fragment) :=
  ((List.range c.frags.length).zip c.frags).find? fun x => x.2.valid && x.2.ready && decide (x.2.warp = w)

/-- Free a fragment entry; warps parked by a full table may go on (R389). -/
def Core.freeFragment (c : Core) (i : Nat) : Core :=
  { c with frags := alterAt c.frags i fun _ => Fragment.free, thr := c.thr.map fun t => { t with parked := false } }

/-- The first empty slot of a thread, A before B (R127). -/
def Thread.emptySlot (t : Thread) : Option SlotId :=
  if t.slotA.st = .empty then some .a else if t.slotB.st = .empty then some .b else none

/-- The topmost path frame of a list, and the list without it. -/
def takePath (stack : List Frame) : Option (List Frame × W64 × W32 × Option W64 × W8) :=
  match stack with
  | [] => none
  | .path pc m ra frag :: rest => some (rest, pc, m, ra, frag)
  | f :: rest => match takePath rest with
    | some (r, x) => some (f :: r, x)
    | none => none

/-- Fill one empty slot from a fragment or a path frame (R127). -/
def Core.refillOnce (c : Core) (w : Nat) : Option Core :=
  let t := c.thread w
  match t.emptySlot with
  | none => none
  | some sl =>
    match c.readyFragment w with
    | some (i, f) =>
      some ((c.freeFragment i).updThread w fun t => t.updSlot sl fun _ =>
        { st := .live, pc := f.pc, mask := f.mask, ra := f.ra, fragId := BitVec.ofNat 8 i })
    | none =>
      match takePath t.stack with
      | some (rest, pc, m, ra, frag) =>
        some (c.updThread w fun t => { t.updSlot sl fun _ =>
          { st := .live, pc := pc, mask := m, ra := ra, fragId := frag } with stack := rest })
      | none => none

/-- Complete every join frame that can complete, putting each holder into an empty slot, or back in its place on the list
as a path frame (R126, R127). -/
def Core.settleJoins (c : Core) (w : Nat) (fuel : Nat) : Core :=
  match fuel with
  | 0 => c
  | n + 1 =>
    match takeJoin (c.live w) (c.thread w).stack with
    | none => c
    | some (rest, none, _) => (c.updThread w fun t => { t with stack := rest }).settleJoins w n
    | some (rest, some (pc, m, sv), at_) =>
      let t := c.thread w
      let c' := match t.emptySlot with
        | some sl => c.updThread w fun t => { t.updSlot sl fun _ =>
            { st := .live, pc := pc, mask := m, ra := sv, fragId := 0xFF#8 } with stack := rest }
        | none => c.updThread w fun t => { t with stack := rest.take at_ ++ [Frame.path pc m sv 0xFF#8] ++ rest.drop at_ }
      c'.settleJoins w n

/-- Fill empty slots until none can be filled (R127). -/
def Core.refill (c : Core) (w : Nat) : Core :=
  match c.refillOnce w with
  | none => c
  | some c1 => match c1.refillOnce w with
    | none => c1
    | some c2 => c2

/-- After a slot has lost lanes: a slot left without any becomes empty, which ends a handler it ran (R132; log 130); completed joins
and holders fill the empty slots (R126, R127). -/
def State.settle (s : State) (k w : Nat) : State :=
  let before := (s.thread k w).stack
  let s := s.updCore k fun c =>
    let c := c.updThread w fun t =>
      let drop (sl : Slot) : Slot := if sl.mask = 0#32 then Slot.none else sl
      let t := { t with slotA := drop t.slotA, slotB := drop t.slotB }
      match t.handler with
      | some h => if (t.slot h).st = .empty then { t with handler := none } else t
      | none => t
    let c := c.settleJoins w 65
    c.refill w
  if (s.thread k w).stack = before then s else s.writeFrames k w

/-! ## Killing a block (R392, R393) -/

/-- Record a status in an invocation: the first non-zero one stands (R344). -/
def State.setStatus (s : State) (q code : Nat) : State :=
  { s with invs := s.invs.alter q fun i => { i with status := if i.status = 0 then code else i.status } }

/-- A ring is configured: LOGN lies in 8 to 20 (R251). -/
def Egress.configured (e : Egress) : Bool := decide (8 ≤ e.logn) && decide (e.logn ≤ 20)

/-- The slots of a ring (R251). -/
def Egress.size (e : Egress) : Nat := 2 ^ e.logn

/-- The address of a position in the shadow (R251). -/
def Egress.shadowSlot (e : Egress) (q : W32) : Nat := e.shadow + 8 * (q.toNat % e.size)

/-- The 8 bytes of a slot (R251). -/
def slotWord (st vid : Nat) (token : W32) : W64 := BitVec.ofNat 64 (st * 2 ^ 40 + vid * 2 ^ 32) ||| token.setWidth 64

/-- Write the shadow slot of a position. -/
def State.putShadow (s : State) (d : Nat) (q : W32) (v : W64) : State :=
  s.engineWrite (d % Config.dies) ((s.domain d).egress.shadowSlot q) 3 v

/-- Give the shadow slot of a position a STATE (R251), keeping what it holds beside it. -/
def State.putShadowState (s : State) (d : Nat) (q : W32) (st : W8) : State :=
  s.engineWrite (d % Config.dies) ((s.domain d).egress.shadowSlot q + 5) 0 (st.setWidth 64)

/-! ### Accesses that are performed (R335) -/

/-- An access is performed at scope `.block`: it has returned, or its home slices have acknowledged it (R335). -/
def Access.performed (x : Access) : Bool :=
  x.done || decide (x.kind = .copy) ||
    (!x.kind.returns && decide (x.path ≠ .lo) && !x.stuck && x.reqs.all fun r => decide (r.st = .answered))

/-- Every access of a thread with a number below one given is performed at scope `.block` (R339). -/
def Thread.performedBelow (t : Thread) (tag : Nat) : Bool := t.inflight.all fun x => decide (tag ≤ x.tag) || x.performed

/-- A message carries a write of an agent to a die that holds a guest copy. -/
def MsgBody.from_ (b : MsgBody) (core agent : Nat) : Bool :=
  match b with
  | .update _ _ _ _ c a => decide (c = core) && decide (a = agent)
  | .invalidate _ ms => ms.contains (core, agent)
  | _ => false

/-- Updates that an agent's writes caused are still on their way (R335). -/
def State.updatesOut (s : State) (core agent : Nat) : Bool :=
  (s.flits.any fun f => match f.body with | .msg m => m.body.from_ core agent | _ => false) ||
    s.dies.any fun d => d.inbox.any fun m => m.body.from_ core agent

/-- A publication takes effect once the accesses before it are performed at `.pkg` (R254, R339). -/
def State.publicationDue (s : State) (r : Reservation) : Bool :=
  match r.publisher with
  | some (k, a, tag) => (s.thread k a).performedBelow tag && !s.updatesOut k a
  | none => true

/-- Bring a reservation that has become committed or void to its last state (R251, R252): a position pushed in a committed one
becomes a token, every other position void. -/
def State.settleReservation (s : State) (d i : Nat) : State :=
  match (s.domain d).egress.reservations[i]? with
  | none => s
  | some r =>
    let st := ((s.domain d).entry r.vid).st
    let couched := r.couched || decide (st = .couched)
    let s := s.updDomain d fun x => { x with egress := { x.egress with
      reservations := alterAt x.egress.reservations i fun r => { r with couched := couched } } }
    let committed := r.published && couched && s.publicationDue r
    let dead := r.isVoid || (!couched && decide (st = .broke))
    if r.written || !(committed || dead) then s
    else
      let s := (List.range r.count).foldl (fun s j =>
        let q := r.first + BitVec.ofNat 32 j
        if committed && r.pushed.contains q then s.putShadowState d q 1#8
        else s.putShadow d q (slotWord 2 r.vid 0#32)) s
      s.updDomain d fun x => { x with egress := { x.egress with
        reservations := alterAt x.egress.reservations i fun r => { r with written := true } } }

/-- The publish cursor passes every committed or void reservation that begins at it (R252). -/
def Egress.advance (e : Egress) (fuel : Nat) : Egress :=
  match fuel with
  | 0 => e
  | n + 1 =>
    match e.reservations.find? fun r => r.written && decide (r.first = e.p) with
    | some r => { e with p := e.p + BitVec.ofNat 32 r.count, reservations := e.reservations.erase r }.advance n
    | none => e

/-- Bring the reservations of a domain up to date with its versions. -/
def State.settleEgress (s : State) (d : Nat) : State :=
  let n := (s.domain d).egress.reservations.length
  ((List.range n).foldl (fun s i => s.settleReservation d i) s).updDomain d fun x => { x with egress := x.egress.advance n }

/-- The open reservations of a block become void (R252). -/
def State.voidReservations (s : State) (k grid dom : Nat) : State :=
  (s.updDomain dom fun d =>
    { d with egress := { d.egress with
        reservations := d.egress.reservations.map fun r =>
          if r.core = k && r.grid = grid && !r.published then { r with isVoid := true } else r } }).settleEgress dom

/-- A kill's class of report (R393, R445). -/
def killClass (code detail : W8) : BitVec 2 :=
  if (code = 0x33#8 ∨ code = 0x34#8) ∧ detail = 0x0A#8 then 2#2
  else if code = 0x32#8 ∨ code = 0x36#8 then 2#2 else 0#2

/-- The in-flight counters of every agent of a block, as a dump shows them (R398). -/
def Core.countsNow (c : Core) : List (List Nat) := c.thr.map fun t => [.gl, .gs, .lo, .cp].map fun p => t.counter p

/-- Kill a block (R392): no slot issues any more; its fragments are freed (R390), queued matrix commands and copies not yet validated are discarded; one
record is logged, KILLS rises, the grid goes on without the block, and a pair's other block is squashed (R405). -/
def State.killBlock (s : State) (k : Nat) (code detail : W8) (agent : Nat) (pc : W64) : State :=
  match s.core? k with
  | none => s
  | some c =>
    if c.phase = .killed ∨ c.phase = .halted ∨ (c.phase = .completed ∧ code ≠ 0x32#8 ∧ code ≠ 0x37#8) then s
    else
      let die := dieOfCore k
      let s := s.updCore k fun c =>
        { c with
          phase := .killed
          stopAt := if c.phase = .completed then c.stopAt else some s.now
          heldCounts := c.countsNow
          ports := c.ports.map fun p => { p with run := none, count := 0 }
          claims := []
          frags := c.frags.map fun _ => Fragment.free
          mx := c.mx.map fun m => if m.st = .queued then { m with st := .done, loose := [] } else m
          copies := c.copies.map fun x => if x.st = .waiting then { x with st := .ended } else x }
      let s := s.report die (s.recordOf k agent code detail (killClass code detail) pc)
      let s := s.updDie die fun d => { d with kills := d.count d.kills 32 }
      let s := if code = 0x37#8 then s else s.setStatus c.queue 0x06
      let s := s.voidReservations k c.grid c.launch.domain
      if c.launch.redundant ∧ code ≠ 0x32#8 then
        { s with resolves := s.resolves ++
          [{ source := .pair, ofDomain := 0, ofVid := 0, domain := c.launch.domain, target := c.vid, proposed := 0, squash := true, status := none, notice := 0, dst := 0, taint := false, asked := none }] }
      else s

/-! ## Taking a trap and returning from it (R68, R132, R386, R389, R391) -/

/-- The word that TRAPCAUSE takes (R68). -/
def causeWord (code detail : W8) (resume : Bool) (w : SlotId) : W32 :=
  let b : W32 := if w = .b then 0x40000#32 else 0#32
  let r : W32 := if resume then 0x10000#32 else 0#32
  b ||| r ||| (detail.setWidth 32 <<< 8) ||| code.setWidth 32

/-- The fragment-table-full code. -/
def codeFull : W8 := 0x11#8

/-- Trap entry (R132): the results in flight land, the trap registers are written, and the slot goes on at the handler. -/
def State.enterHandler (s : State) (k a : Nat) (w : SlotId) (t : TrapInfo) (entry : W64) : State :=
  let s := s.updThread k a fun th =>
    let ready := th.recent.foldl (fun m r => max m r.readyAt) th.nextAt
    { (th.updSlot w fun sl => { sl with st := .live, pc := slot1 entry }) with
      trapCause := causeWord t.code t.detail t.resume w
      trapPc := t.pc
      trapMask := t.mask
      handler := some w
      fullTrap := if t.code = codeFull then some t.pc else none
      recent := []
      nextAt := ready }
  (s.countCore k fun x => { x with wTrap := (x.wTrap + 1) % 2 ^ 32 }).endRun k a

/-- End run-ahead: everything is as it was when it began (R52). -/
def Thread.exitAhead (t : Thread) : Thread :=
  match t.ahead with
  | none => t
  | some h =>
    { t.updSlot h.slot (fun _ => h.saved) with
      v := h.v, s := h.s, p := h.p, loops := h.loops, fpstat := h.fpstat, gen := h.gen, recent := h.recent, ahead := none
      aheadDone := h.slot :: t.aheadDone.filter fun x => x != h.slot }

/-- End the run-ahead of a warp. -/
def State.exitAhead (s : State) (k a : Nat) : State := (s.updThread k a Thread.exitAhead).endRun k a

/-- A fault of a block that has heard that its version is broke is discarded, and the block stops (R134, R387). -/
def State.discardFault (s : State) (k a : Nat) : State := (s.updCore k fun c => { c with phase := .stopping }).endRun k a

/-- Take a warp trap (R132, R391). In the access processor a fault kills the block (R386). In a broke version it is
discarded and the block stops, and in run-ahead it is suppressed (R387). Poison consumed is reported when its trap is delivered
(R401). In a handler it kills the block as a nested trap, and without a handler as an
unhandled one; fragment-table-full then acts as if a handler had returned at once, and parks the warp (R389). -/
def State.takeTrap (s : State) (k a : Nat) (w : SlotId) (t : TrapInfo) : State :=
  match s.core? k with
  | none => s
  | some c =>
    if (c.thread a).ahead.isSome then s.exitAhead k a
    else if c.squashed then s.discardFault k a
    else if a ≥ 16 then s.killBlock k 0x35#8 t.code a t.pc
    else if (c.thread a).handler.isSome then s.killBlock k 0x34#8 t.code a t.pc
    else if c.launch.trapEntry = 0xFFFFFFFF#32 then
      if t.code = codeFull then
        let s := s.updThread k a fun th =>
          { th with trapCause := causeWord t.code t.detail t.resume w, trapPc := t.pc, trapMask := t.mask, parked := true }
        (s.countCore k fun x => { x with wTrap := (x.wTrap + 1) % 2 ^ 32 }).endRun k a
      else s.killBlock k 0x33#8 t.code a t.pc
    else
      let s :=
        if t.code = 0x0A#8 then s.report (dieOfCore k) (s.recordOf k a t.code t.detail 2#2 t.pc) else s
      s.enterHandler k a w t (c.launch.code + c.launch.trapEntry.setWidth 64)

/-- Return from the handler to a PC (R69, R132): both slots become eligible again. A return from fragment-table-full with
TRAPPC unchanged parks the warp until an entry is freed (R389). -/
def State.returnFromTrap (s : State) (k a : Nat) (w : SlotId) (pc : W64) : State :=
  (s.updThread k a fun th =>
    { (th.updSlot w fun sl => { sl with st := .live, pc := if placeOf pc = 0 then pc + 4#64 else pc }) with
      handler := none
      parked := decide (th.fullTrap = some pc)
      fullTrap := none }).endRun k a

/-- An illegal-instruction trap with a DETAIL (R104, R385), not resumable. -/
def illegal (detail : W8) (pc : W64) (mask : W32) : TrapInfo :=
  { code := 0x04#8, detail := detail, resume := false, pc := pc, mask := mask }

/-- A misaligned trap with a DETAIL (R385), not resumable. -/
def misaligned (detail : W8) (pc : W64) (mask : W32) : TrapInfo :=
  { code := 0x08#8, detail := detail, resume := false, pc := pc, mask := mask }

/-! ## Fragments (R388 to R390) -/

/-- Split lanes off a slot into the fragment table (R388); in a block that has heard that its version is broke nothing is split (R387). With no free entry the fragment-table-full trap is raised and
nothing else happens (R389). A split in a handler kills the block (R391). Answers whether the lanes left. -/
def State.splitFragment (s : State) (k a : Nat) (w : SlotId) (lanes : W32) (cause : W8) (key : W64) (pc : W64) :
    State × Bool :=
  match s.core? k with
  | none => (s, false)
  | some c =>
    if c.squashed then (s.discardFault k a, false)
    else if (c.thread a).handler.isSome then (s.killBlock k 0x34#8 cause a pc, false)
    else
      match (List.range c.frags.length).find? fun i => !(nth c.frags i Fragment.free).valid with
      | none =>
        let s := s.countCore k fun x => { x with fragFull := (x.fragFull + 1) % 2 ^ 32 }
        (s.takeTrap k a w { code := codeFull, detail := 0#8, resume := true, pc := pc, mask := lanes }, false)
      | some i =>
        let s := s.updCore k fun c =>
          let ra := ((c.thread a).slot w).ra
          let c := { c with frags := alterAt c.frags i fun _ =>
            { valid := true, ready := false, warp := a, cause := cause, pc := pc, ra := ra, mask := lanes, key := key } }
          c.updThread a fun t => t.updSlot w fun sl => { sl with mask := sl.mask &&& ~~~lanes }
        (s.countCore k fun x => { x with fragSplit := (x.fragSplit + 1) % 2 ^ 32 }, true)

/-- The table index that the next fragment of a core would have. -/
def Core.nextFragment (c : Core) : Option Nat :=
  (List.range c.frags.length).find? fun i => !(nth c.frags i Fragment.free).valid

/-- The fragment of a page (R366). -/
def pageKey (asid page : Nat) : W64 := BitVec.ofNat 64 (asid * 2 ^ 40 + page)

/-- Mark parked fragments of a core ready, as a test selects them, and let empty slots take them (R127, R128). A block that has stopped for a dump keeps
its table as it is (R398). -/
def State.wakeFragments (s : State) (k : Nat) (p : Nat → Fragment → Bool) : State :=
  if (s.core? k).any fun c => !c.acts then s
  else
  let s := s.updCore k fun c =>
    { c with frags := ((List.range c.frags.length).zip c.frags).map fun x =>
        if x.2.valid && p x.1 x.2 then { x.2 with ready := true } else x.2 }
  match s.core? k with
  | none => s
  | some c => (List.range c.launch.warps).foldl (fun s w => s.settle k w) s

/-! ## What L1 may be trusted with (R271, R334, R339) -/

/-- The L1 line of a line number. -/
def Core.l1Line (c : Core) (line : Nat) : Option L1Line := c.l1.find? fun l => decide (l.line = line)

/-- No outstanding load of a line may fill L1 any more. -/
def Core.noFill (c : Core) (line : Nat) : Core :=
  { c with thr := c.thr.map fun t => { t with inflight := t.inflight.map fun x =>
      { x with reqs := x.reqs.map fun r => if r.line = line then { r with epoch := 0 } else r } } }

/-- The sectors of a line from which no load is served until a fill replaces them (R334, R339). -/
def Core.staleOf (c : Core) (line : Nat) : BitVec 4 := c.stale.foldl (fun b x => if x.1 = line then b ||| x.2 else b) 0#4

/-- No load may find in L1, or bring into it by a request already made, what it holds of sectors of a line. DESIGN CHOICE (log 134): L1 keeps the line (R272,
R276); a load asks its home for such a sector, and its answer replaces it. -/
def Core.distrust (c : Core) (line : Nat) (b : BitVec 4) : Core :=
  let held := match c.l1Line line with | some l => l.valid | none => 0#4
  { c.noFill line with stale := (line, (c.staleOf line ||| b) &&& held) :: c.stale.filter fun x => decide (x.1 ≠ line) }

/-- A `TBWAIT` or a `WAITB` acquires what the block's engines have written to global memory (R339). -/
def Core.acquireEngines (c : Core) : Core :=
  { c.engineWrote.foldl (fun c x => c.distrust x.1 x.2) c with engineWrote := [] }

/-- An engine of the block has written lines of global memory. -/
def Core.noteWrites (c : Core) (rs : List LineReq) : Core :=
  { c with engineWrote := rs.foldl (fun l r => let x := (r.line, sectorsOf (writesOf r.elems)); if x.2 = 0#4 ∨ l.contains x then l else l ++ [x]) c.engineWrote }

end Sys2Proof.Machine
end

