-- ==== Sys2Proof/Machine/Operands.lean ====
section
/-! DEFINITION. Operand forms: for every packet word its issuers, its pipe, its XIMM prefixes, the checks of its fields
and the registers it reads and writes; and `issue`, which every meaning of a packet word goes through: the checks of
R104 from step 5 on, guards, early reads, poison, run-ahead, and then the instruction's own effect. -/

namespace Sys2Proof.Machine

/-! ## Forms -/

/-- The pipes (R17, R102). The forms of 64 bits occupy the VFP pipe for four cycles. -/
inductive Pipe where
  | ctl | sca | via | vfp | sfu | xl | mem | mxu | none
  deriving DecidableEq, Repr

/-- The check of one field (R96): a register or value of any sort; unused; a group of vector registers from `n` up with
the alignment of a pair or quad (R39, R40, R160); a condition with the DETAIL of its failure. -/
inductive FieldCheck where
  | any
  | unused
  | vec (n count align : Nat)
  | must (ok : Bool) (detail : W8)
  deriving DecidableEq, Repr

/-- What an instruction does in run-ahead (R133, R138, R168, R218, R261): acts into the buffer; transfers control when
what it reads is valid; is suppressed, its destinations invalid; ends run-ahead before it; reads memory. -/
inductive AheadAct where
  | act | control | quiet | stop | load
  deriving DecidableEq, Repr

/-- Which lanes of its vector sources a lane of the result reads. -/
inductive Cross where
  | lane | gather | all | upto | rows
  deriving DecidableEq, Repr

/-- The operand form of a packet word. -/
structure Form where
  warp : Bool := true
  ap : Bool := false
  xmin : Nat := 0
  xmax : Nat := 0
  pipe : Pipe
  lat : Nat := 0
  slow : Bool := false
  d : FieldCheck := .any
  a : FieldCheck := .any
  b : FieldCheck := .any
  fn : Bool := true
  unguarded : Bool := false
  vr : List Nat := []
  sr : List Nat := []
  pr : List Nat := []
  vw : List Nat := []
  sw : List Nat := []
  pw : List Nat := []
  cross : Cross := .lane
  ahead : AheadAct := .act
  deriving DecidableEq, Repr

/-- Registers `n` to `n + count - 1`. -/
def regs (n : BitVec 6) (count : Nat) : List Nat := (List.range count).map fun k => n.toNat + k

/-- A vector field that names one register. -/
def vec1 (n : BitVec 6) : FieldCheck := .vec n.toNat 1 1

/-- A vector field that names a pair or a quad. -/
def vecs (n : BitVec 6) (count : Nat) : FieldCheck := .vec n.toNat count count

/-- A field that must hold a value up to a bound. -/
def upto (n : BitVec 6) (k : Nat) : FieldCheck := .must (decide (n.toNat ≤ k)) 0#8

/-- A scalar instruction of major 0x03 with two sources. -/
def scalarForm (d a b : BitVec 6) (i : BitVec 1) : Form :=
  { ap := true, pipe := .sca, lat := 2, sr := if i = 1#1 then [a.toNat] else [a.toNat, b.toNat], sw := [d.toNat] }

/-- A scalar instruction of major 0x03 with one source. -/
def scalarForm1 (d a : BitVec 6) : Form :=
  { ap := true, pipe := .sca, lat := 2, b := .unused, sr := [a.toNat], sw := [d.toNat] }

/-- A predicate instruction with predicates named in its fields. -/
def predForm (d : BitVec 6) (srcs : List (BitVec 6)) : Form :=
  { ap := true, pipe := .sca, lat := 2, d := upto d 7
    a := match srcs with | x :: _ => upto x 7 | [] => .unused
    b := match srcs with | [_, y] => upto y 7 | _ => .unused
    pr := srcs.map BitVec.toNat, pw := [d.toNat] }

/-- A vector integer instruction with two sources (R145). -/
def vectorForm (d a b : BitVec 6) (i : BitVec 1) : Form :=
  { pipe := .via, lat := 4, d := vec1 d, a := vec1 a, b := if i = 1#1 then .any else vec1 b
    vr := if i = 1#1 then [a.toNat] else [a.toNat, b.toNat], vw := [d.toNat] }

/-- A vector integer instruction with one source (R145). -/
def vectorForm1 (d a : BitVec 6) : Form :=
  { pipe := .via, lat := 4, d := vec1 d, a := vec1 a, b := .unused, vr := [a.toNat], vw := [d.toNat] }

/-- A form that reads its vector destination too. -/
def Form.accumulates (f : Form) : Form := { f with vr := f.vr ++ f.vw }

/-- A vector compare (R149). -/
def compareForm (d a b : BitVec 6) (i : BitVec 1) : Form :=
  { pipe := .via, lat := 4, d := upto d 7, a := vec1 a, b := if i = 1#1 then .any else vec1 b
    vr := if i = 1#1 then [a.toNat] else [a.toNat, b.toNat], pw := [d.toNat] }

/-- The registers an operand of a type field takes: a pair for FP64 (R169). -/
def typeCount (t : BitVec 2) : Nat := if t = 1#2 then 2 else 1

/-- A floating-point form over operands of `n` registers each. -/
def floatForm (n : Nat) (d : BitVec 6) (srcs : List (BitVec 6)) : Form :=
  { pipe := .vfp, lat := if n = 2 then 7 else 4, slow := decide (n = 2), d := vecs d n
    a := match srcs with | x :: _ => vecs x n | [] => .unused
    b := match srcs with | [_, y] => vecs y n | _ => .unused
    vr := srcs.flatMap fun x => regs x n, vw := regs d n }

/-- A special function (R175). -/
def specialForm (d a : BitVec 6) : Form :=
  { pipe := .sfu, lat := 8, d := vec1 d, a := vec1 a, b := .unused, vr := [a.toNat], vw := [d.toNat] }

/-- The registers of a `CVT` operand: a pair for the 64-bit types (R178). -/
def cvtCount (t : BitVec 3) : Nat := if t = 1#3 ∨ t = 6#3 ∨ t = 7#3 then 2 else 1

/-- The modes a `CVT` accepts (R178). -/
def cvtOk (x y : BitVec 3) (m : BitVec 4) : Bool :=
  decide (x ≠ y) && (decide (m.toNat ≤ 3) ||
    (decide (m = 4#4) && (decide (x = 2#3) || decide (x = 3#3) || (decide (x = 0#3) && decide (y = 1#3)))))

/-- A narrow type code is one of the floating-point types (R179). -/
def narrowFloat (t : BitVec 6) : Bool :=
  decide (t.toNat ≤ 1) || (decide (4 ≤ t.toNat) && decide (t.toNat ≤ 7)) || decide (t.toNat = 10) || decide (t.toNat = 11)

/-- A cross-lane form (R150, R151, R154). -/
def crossForm (d a : BitVec 6) (c : Cross) : Form :=
  { pipe := .xl, lat := 6, d := vec1 d, a := vec1 a, b := .unused, vr := [a.toNat], vw := [d.toNat], cross := c }

/-- The registers of an element of a SIZE code (R186). -/
def sizeRegs (size : BitVec 3) : Nat := if size = 3#3 then 2 else if size = 4#3 then 4 else 1

/-- A size is allowed in a space (R185). -/
def sizeOk (space size : BitVec 3) : Bool :=
  decide (size.toNat ≤ 4) || (decide (size = 5#3) && (decide (space = 0#3) || decide (space = 2#3)))

/-- A load mode is allowed in a space (R185, R188); consume is a mode of `LDC`. -/
def loadOk (space mode : BitVec 3) : Bool :=
  match space.toNat with
  | 0 => decide (mode.toNat ≤ 4)
  | 1 => decide (mode = 0#3)
  | 2 => decide (mode = 0#3)
  | 5 => decide (mode = 0#3)
  | _ => false

/-- A store mode is allowed in a space (R185, R188). -/
def storeOk (space mode : BitVec 3) : Bool :=
  match space.toNat with
  | 0 => decide (mode = 0#3) || decide (mode = 3#3)
  | 1 => decide (mode = 0#3)
  | 2 => decide (mode = 0#3) || decide (mode = 5#3)
  | 3 => decide (mode = 0#3)
  | 4 => decide (mode = 0#3)
  | _ => false

/-- The predicate that a mode writes (R194). -/
def modePred (mode : BitVec 3) : List Nat := if mode = 2#3 then [5] else []

/-- A format-E lane access (R98, R185, R188). -/
def memForm (d a : BitVec 6) (t : BitVec 10) (dir inSpace : Bool) : Form :=
  let n := sizeRegs (attrSize t)
  let ok := decide (attrStore t = dir) && inSpace && sizeOk (attrSpace t) (attrSize t) &&
    (if dir then storeOk (attrSpace t) (attrMode t) else loadOk (attrSpace t) (attrMode t))
  let base : Form :=
    { pipe := .mem, xmax := 1, d := vecs d n, sr := [a.toNat], fn := ok, ahead := if dir then .quiet else .load }
  if dir then { base with vr := regs d n } else { base with vw := regs d n, pw := modePred (attrMode t) }

/-- The space that an XIMM gives a format-F access (R100). -/
def indexSpace (xs : List Ximm) : BitVec 3 :=
  match xs with
  | [x] => x.extractLsb' 0 3
  | _ => 0#3

/-- A format-F lane access (R98, R185). -/
def indexForm (d a b : BitVec 6) (scale : BitVec 2) (z m space : BitVec 3) (dir : Bool) : Form :=
  let n := sizeRegs z
  let ok := sizeOk space z && (if dir then storeOk space m else loadOk space m) &&
    (decide (z ≠ 5#3) || decide (scale = 0#2))
  let base : Form :=
    { pipe := .mem, xmax := 1, d := vecs d n, b := vec1 b, sr := [a.toNat], fn := ok
      ahead := if dir then .quiet else .load }
  if dir then { base with vr := regs d n ++ [b.toNat] }
  else { base with vr := [b.toNat], vw := regs d n, pw := modePred m }

/-- A scalar access (R188, R189). -/
def scalarMemForm (d a : BitVec 6) (t : BitVec 10) (dir : Bool) : Form :=
  let space := attrSpace t
  let mode := attrMode t
  let modeOk :=
    if space = 0#3 then (if dir then storeOk space mode else decide (mode.toNat ≠ 2) && loadOk space mode)
    else decide (space = 2#3) && decide (mode = 0#3)
  let base : Form :=
    { ap := true, pipe := .mem, xmax := 1, fn := decide ((attrSize t).toNat ≤ 3) && modeOk
      ahead := if dir then .quiet else .load }
  if dir then { base with sr := [a.toNat, d.toNat] } else { base with sr := [a.toNat], sw := [d.toNat] }

/-- An atomic (R197): `count` vector registers of operand, the first `out` of which it writes. -/
def atomForm (ap : Bool) (d a b : BitVec 6) (count out : Nat) : Form :=
  if ap then
    { ap := true, pipe := .mem, sr := [a.toNat, b.toNat, d.toNat], sw := if out = 0 then [] else [d.toNat], ahead := .quiet }
  else
    { ap := true, pipe := .mem, d := .vec d.toNat count (if count = 1 then 1 else 2), b := vec1 b, sr := [a.toNat]
      vr := regs d count ++ [b.toNat], vw := regs d out, ahead := .quiet }

/-- A hardware-barrier instruction (R209). -/
def barForm (b : BitVec 6) : Form :=
  { pipe := .ctl, d := .unused, a := .unused, b := upto b 15, unguarded := true, ahead := .quiet }

/-- A form of majors 0x1A, 0x20, 0x21 and 0x23 with scalar operands that acts once. -/
def onceForm (pipe : Pipe) (sr sw : List (BitVec 6)) : Form :=
  { ap := true, pipe := pipe, sr := sr.map BitVec.toNat, sw := sw.map BitVec.toNat, ahead := .quiet }

/-- A form of major 0x24 over lane addresses (R217). -/
def lineForm (ap : Bool) (a b : BitVec 6) (how : AheadAct) : Form :=
  let f : Form := { ap := true, pipe := .mem, d := .unused, sr := [a.toNat], ahead := how }
  if ap then { f with sr := [a.toNat, b.toNat] } else { f with b := vec1 b, vr := [b.toNat] }

/-- The system registers, by selector (R60): whether the destination of `MFS` is a vector, and whether the access
processor may name it. -/
def sysReg? (sel : Nat) : Option (Bool × Bool) :=
  match sel with
  | 0x000 => some (true, false)
  | 0x001 => some (false, false)
  | 0x002 => some (false, false)
  | 0x003 => some (false, false)
  | 0x010 => some (false, true)
  | 0x011 => some (false, true)
  | 0x012 => some (false, true)
  | 0x013 => some (false, true)
  | 0x014 => some (false, true)
  | 0x015 => some (false, false)
  | 0x020 => some (false, false)
  | 0x021 => some (false, false)
  | 0x022 => some (false, false)
  | 0x030 => some (false, false)
  | 0x031 => some (false, false)
  | 0x040 => some (false, true)
  | 0x041 => some (false, true)
  | 0x050 => some (false, true)
  | 0x051 => some (false, true)
  | 0x052 => some (false, true)
  | 0x053 => some (false, true)
  | 0x054 => some (false, true)
  | 0x060 => some (false, false)
  | 0x061 => some (false, false)
  | 0x062 => some (false, false)
  | 0x063 => some (false, false)
  | 0x070 => some (false, true)
  | 0x071 => some (false, true)
  | 0x072 => some (false, true)
  | 0x073 => some (true, false)
  | _ => none

/-- The selector field of `MFS` and `MTS` (R60, R61): unknown, or closed to the access processor. -/
def selCheck (ap : Bool) (e : BitVec 12) : FieldCheck :=
  match sysReg? e.toNat with
  | none => .must false 4#8
  | some (_, apOk) => .must (!ap || apOk) 0#8

/-- The form of `MFS` (R61, R119). -/
def mfsForm (ap : Bool) (d : BitVec 6) (e : BitVec 12) : Form :=
  let isVec := match sysReg? e.toNat with | some (v, _) => v | none => false
  if isVec then { ap := true, pipe := .ctl, d := vec1 d, a := selCheck ap e, vw := [d.toNat] }
  else { ap := true, pipe := .ctl, a := selCheck ap e, sw := [d.toNat] }

/-- A control instruction without register operands. -/
def plainForm (ap : Bool) (how : AheadAct) : Form :=
  { ap := ap, pipe := .ctl, d := .unused, a := .unused, b := .unused, ahead := how }

/-- The form of a word of majors 0x00 to 0x02. -/
def formControl (ap : Bool) (i : Instr) : Option Form :=
  match i with
  | .nop => some (plainForm true .act)
  | .yield => some (plainForm true .quiet)
  | .trap _ => some (plainForm true .stop)
  | .bkpt _ => some (plainForm true .stop)
  | .rtt => some (plainForm false .stop)
  | .rttAdv => some (plainForm false .stop)
  | .mfs d e => some (mfsForm ap d e)
  | .mts t e => some { ap := true, pipe := .ctl, a := selCheck ap e, sr := [t.toNat], ahead := .quiet }
  | .exit => some (plainForm true .stop)
  | .jmp a => some { plainForm true .control with a := .any, sr := [a.toNat] }
  | .callReg d a => some { plainForm true .control with d := .any, a := .any, sr := [a.toNat], sw := [d.toNat] }
  | .callDisp d => some { plainForm true .control with d := .any, xmin := 1, xmax := 1, sw := [d.toNat] }
  | .ret a => some { plainForm true .control with a := .any, sr := [a.toNat] }
  | .loop a => some { plainForm true .control with a := .any, xmin := 1, xmax := 1, unguarded := true, sr := [a.toNat] }
  | .loopbrk => some (plainForm true .control)
  | .bra _ => some { ap := true, pipe := .ctl, xmax := 1, ahead := .control }
  | .brv => some { plainForm false .control with xmin := 1, xmax := 1 }
  | .reconv => some { plainForm false .stop with xmin := 1, xmax := 1, unguarded := true }
  | .joinw d a => some { plainForm false .stop with d := upto d 6, a := .any, xmax := 1, unguarded := true, sr := [a.toNat],
                                                    pw := [d.toNat] }
  | .fragwake a => some { plainForm false .stop with a := .any, sr := [a.toNat] }
  | _ => none

/-- The form of a word of majors 0x03 to 0x06. -/
def formScalar (i : Instr) : Option Form :=
  match i with
  | .sadd d a b i => some (scalarForm d a b i)
  | .ssub d a b i => some (scalarForm d a b i)
  | .smul d a b i => some (scalarForm d a b i)
  | .smulh d a b _ => some (scalarForm d a b 0#1)
  | .sdiv d a b _ => some (scalarForm d a b 0#1)
  | .sand d a b i => some (scalarForm d a b i)
  | .sor d a b i => some (scalarForm d a b i)
  | .sxor d a b i => some (scalarForm d a b i)
  | .sshl d a b i => some (scalarForm d a b i)
  | .sshr d a b i => some (scalarForm d a b i)
  | .ssra d a b i => some (scalarForm d a b i)
  | .smin d a b _ i => some (scalarForm d a b i)
  | .smax d a b _ i => some (scalarForm d a b i)
  | .scmp d a b _ i => some (scalarForm d a b i)
  | .ssel d a b i => let f := scalarForm d a b i; some { f with sr := f.sr ++ [d.toNat] }
  | .spopc d a => some (scalarForm1 d a)
  | .sclz d a => some (scalarForm1 d a)
  | .sbfe d a b _ => some (scalarForm d a b 0#1)
  | .sbfi d a b => let f := scalarForm d a b 0#1; some { f with sr := f.sr ++ [d.toNat] }
  | .smov d a => some (scalarForm1 d a)
  | .smovAq d a => some { pipe := .sca, lat := 2, a := upto a 3, b := .unused, sw := [d.toNat], ahead := .stop }
  | .saddi d a _ => some { ap := true, xmax := 2, pipe := .sca, lat := 2, sr := [a.toNat], sw := [d.toNat] }
  | .sli d _ => some { ap := true, xmax := 2, pipe := .sca, lat := 2, sw := [d.toNat] }
  | .pand d a b _ => some (predForm d [a, b])
  | .por d a b _ => some (predForm d [a, b])
  | .pxor d a b => some (predForm d [a, b])
  | .pnot d a => some (predForm d [a])
  | .pmovPp d a => some (predForm d [a])
  | .pmovPs d a => some { predForm d [] with a := .any, sr := [a.toNat] }
  | .pmovSp d a => some { predForm 0#6 [a] with d := .any, pw := [], sw := [d.toNat] }
  | .pmovCc d a _ => some { predForm d [] with a := .any, sr := [a.toNat] }
  | .pseti d => some { predForm d [] with xmax := 1 }
  | .ppopc d a => some { predForm 0#6 [a] with d := .any, pw := [], sw := [d.toNat], cross := .all }
  | .pfirst d a => some { predForm 0#6 [a] with d := .any, pw := [], sw := [d.toNat], cross := .all }
  | _ => none

/-- The form of a word of majors 0x07 to 0x0A, 0x30 and 0x31. -/
def formVector (i : Instr) : Option Form :=
  match i with
  | .vadd d a b i => some (vectorForm d a b i)
  | .vsub d a b i => some (vectorForm d a b i)
  | .vaddc d a b => some { vectorForm d a b 0#1 with pr := [6], pw := [6] }
  | .vmul d a b i => some (vectorForm d a b i)
  | .vmulh d a b _ => some (vectorForm d a b 0#1)
  | .vmad d a b => some (vectorForm d a b 0#1).accumulates
  | .vand d a b i => some (vectorForm d a b i)
  | .vor d a b i => some (vectorForm d a b i)
  | .vxor d a b i => some (vectorForm d a b i)
  | .vshl d a b i => some (vectorForm d a b i)
  | .vshr d a b i => some (vectorForm d a b i)
  | .vsra d a b i => some (vectorForm d a b i)
  | .vmin d a b _ i => some (vectorForm d a b i)
  | .vmax d a b _ i => some (vectorForm d a b i)
  | .vabsd d a b _ => some (vectorForm d a b 0#1)
  | .vpopc d a => some (vectorForm1 d a)
  | .vclz d a => some (vectorForm1 d a)
  | .vbfe d a b _ => some (vectorForm d a b 0#1)
  | .vbfi d a b => some (vectorForm d a b 0#1).accumulates
  | .vmov d a => some (vectorForm1 d a)
  | .vmovFromMqi d a => some { pipe := .via, lat := 4, d := vec1 d, a := upto a 3, b := .unused, vw := [d.toNat], ahead := .stop }
  | .vmovToMqo d a => some { pipe := .via, lat := 4, d := upto d 3, a := vec1 a, b := .unused, vr := [a.toNat], ahead := .quiet }
  | .vdot4 d a b _ => some (vectorForm d a b 0#1).accumulates
  | .vaddi d a _ => some { pipe := .via, lat := 4, xmax := 2, d := vec1 d, a := vec1 a, vr := [a.toNat], vw := [d.toNat] }
  | .vli d _ => some { pipe := .via, lat := 4, xmax := 2, d := vec1 d, vw := [d.toNat] }
  | .vcmpEq d a b i => some (compareForm d a b i)
  | .vcmpNe d a b i => some (compareForm d a b i)
  | .vcmpLt d a b _ i => some (compareForm d a b i)
  | .vcmpLe d a b _ i => some (compareForm d a b i)
  | .vcmpGt d a b _ i => some (compareForm d a b i)
  | .vcmpGe d a b _ i => some (compareForm d a b i)
  | .vsel d a b i => some (vectorForm d a b i).accumulates
  | .vdot4I16 d a b _ => some (vectorForm d a b 0#1).accumulates
  | .vdot4I4 d a b _ => some (vectorForm d a b 0#1).accumulates
  | .vmovBt d a => some { vectorForm1 d a with cross := .all }
  | .vorBmm d a b => some { vectorForm d a b 0#1 with cross := .rows }
  | .vxorBmm d a b => some { vectorForm d a b 0#1 with cross := .rows }
  | _ => none

/-- The form of a word of majors 0x0B to 0x0F. -/
def formFloat (i : Instr) : Option Form :=
  match i with
  | .fadd d a b _ => some (floatForm 1 d [a, b])
  | .fsub d a b _ => some (floatForm 1 d [a, b])
  | .fmul d a b _ => some (floatForm 1 d [a, b])
  | .fmin d a b => some (floatForm 1 d [a, b])
  | .fmax d a b => some (floatForm 1 d [a, b])
  | .fcmp _ p a b => some { floatForm 1 0#6 [a, b] with d := .any, vw := [], pw := [p.toNat] }
  | .fneg d a => some (floatForm 1 d [a])
  | .fabs d a => some (floatForm 1 d [a])
  | .fclamp d a b => some (floatForm 1 d [a, b]).accumulates
  | .fdot2 d a b _ => some { floatForm 1 d [a, b] with a := vecs a 2, b := vecs b 2, vr := regs a 2 ++ regs b 2 ++ [d.toNat] }
  | .fround d a _ => some (floatForm 1 d [a])
  | .fscale d a b _ => some (floatForm 1 d [a, b])
  | .faddT d a b t _ => some (floatForm (typeCount t) d [a, b])
  | .fsubT d a b t _ => some (floatForm (typeCount t) d [a, b])
  | .fmulT d a b t _ => some (floatForm (typeCount t) d [a, b])
  | .fminT d a b t => some (floatForm (typeCount t) d [a, b])
  | .fmaxT d a b t => some (floatForm (typeCount t) d [a, b])
  | .fcmpF64 _ p a b => some { floatForm 2 0#6 [a, b] with d := .any, vw := [], pw := [p.toNat] }
  | .fnegT d a t => some (floatForm (typeCount t) d [a])
  | .fabsT d a t => some (floatForm (typeCount t) d [a])
  | .fclampT d a b t => some (floatForm (typeCount t) d [a, b]).accumulates
  | .fdot2Packed d a b _ _ => some (floatForm 1 d [a, b]).accumulates
  | .froundT d a t _ => some (floatForm (typeCount t) d [a])
  | .fscaleT d a b t _ =>
    some { floatForm (typeCount t) d [a] with b := vec1 b, vr := regs a (typeCount t) ++ [b.toNat] }
  | .ffma d a b t _ => some (floatForm (typeCount t) d [a, b]).accumulates
  | .exp2 d a => some (specialForm d a)
  | .lg2 d a => some (specialForm d a)
  | .rcp d a _ => some (specialForm d a)
  | .rsq d a _ => some (specialForm d a)
  | .sqrt d a _ => some (specialForm d a)
  | .cvt d a x y m =>
    let wide := decide (cvtCount x = 2) || decide (cvtCount y = 2)
    some { pipe := .vfp, lat := if wide then 7 else 4, slow := wide, d := vecs d (cvtCount x), a := vecs a (cvtCount y)
           b := .must (decide (x ≠ y)) 0#8, fn := cvtOk x y m, vr := regs a (cvtCount y), vw := regs d (cvtCount x) }
  | .cvtpk2 d a t m =>
    some { pipe := .vfp, lat := 4, d := vec1 d, a := vecs a 2, b := upto t 3, fn := decide (m.toNat ≤ 3) || narrowFloat t
           vr := regs a 2, vw := [d.toNat] }
  | .cvtpk4 d a t m =>
    some { pipe := .vfp, lat := 4, d := vec1 d, a := vecs a 4, b := .must (decide (4 ≤ t.toNat) && decide (t.toNat ≤ 15)) 0#8
           fn := decide (m.toNat ≤ 3) || narrowFloat t, vr := regs a 4, vw := [d.toNat] }
  | .cvtwide d a t =>
    let n := if t.toNat ≤ 3 then 2 else 4
    some { pipe := .vfp, lat := 4, d := vecs d n, a := vec1 a, b := upto t 15, vr := [a.toNat], vw := regs d n }
  | .mxscale d a t =>
    some { pipe := .vfp, lat := 4, d := vec1 d, a := vec1 a
           b := .must ((decide (4 ≤ t.toNat) && decide (t.toNat ≤ 7)) || decide (t.toNat = 10)) 0#8
           vr := [a.toNat], vw := [d.toNat], cross := .all }
  | .mxq d a t _ =>
    some { pipe := .vfp, lat := 4, d := vec1 d, a := vec1 a
           b := .must ((decide (4 ≤ t.toNat) && decide (t.toNat ≤ 7)) || decide (t.toNat = 10)) 0#8
           vr := [a.toNat, d.toNat], vw := [d.toNat] }
  | _ => none

/-- The form of a word of majors 0x10 and 0x11. -/
def formCross (i : Instr) : Option Form :=
  match i with
  | .perm d a b => some { crossForm d a .gather with b := vec1 b, vr := [a.toNat, b.toNat] }
  | .permx d a b => some { crossForm d a .gather with b := upto b 31 }
  | .shflup d a b => some { crossForm d a .gather with b := upto b 31 }
  | .shfldn d a b => some { crossForm d a .gather with b := upto b 31 }
  | .bcastReg d a b => some { crossForm d a .gather with b := .any, sr := [b.toNat] }
  | .bcastImm d a b => some { crossForm d a .gather with b := upto b 31 }
  | .voteBallot d a => some { crossForm d a .all with d := .any, a := upto a 7, vr := [], pr := [a.toNat], vw := [], sw := [d.toNat] }
  | .voteAny d a => some { crossForm d a .all with d := upto d 7, a := upto a 7, vr := [], pr := [a.toNat], vw := [], pw := [d.toNat] }
  | .voteAll d a => some { crossForm d a .all with d := upto d 7, a := upto a 7, vr := [], pr := [a.toNat], vw := [], pw := [d.toNat] }
  | .voteUni d a => some { crossForm d a .all with d := upto d 7, vw := [], pw := [d.toNat] }
  | .reduce d a _ => some (crossForm d a .all)
  | .scan d a _ => some (crossForm d a .upto)
  | .argmax d a _ => some { crossForm d a .all with d := vecs d 2, vw := regs d 2 }
  | .matchAny d a => some (crossForm d a .all)
  | .matchFirst d a => some { crossForm d a .all with d := upto d 7, vw := [], pw := [d.toNat] }
  | _ => none

/-- The form of a word of majors 0x12 to 0x1A and 0x24. -/
def formMemory (ap : Bool) (xs : List Ximm) (i : Instr) : Option Form :=
  let t (major : Nat) := attrOf (defaultAttr major) xs
  match i with
  | .ld d a _ => some (memForm d a (t 0x12) false (decide (attrSpace (t 0x12) = 0#3)))
  | .ldc d a _ => some (memForm d a (t 0x12) false (decide (attrSpace (t 0x12) = 0#3)))
  | .st d a _ => some (memForm d a (t 0x13) true (decide (attrSpace (t 0x13) = 0#3)))
  | .ldIndexed d a b s z m => some (indexForm d a b s z m (indexSpace xs) false)
  | .stIndexed d a b s z m => some (indexForm d a b s z m (indexSpace xs) true)
  | .lds d a _ => some (scalarMemForm d a (t 0x16) false)
  | .sts d a _ => some (scalarMemForm d a (t 0x16) true)
  | .ldsh d a _ => some (memForm d a (t 0x17) false (decide (attrSpace (t 0x17) = 2#3)))
  | .stsh d a _ => some (memForm d a (t 0x17) true (decide (attrSpace (t 0x17) = 2#3)))
  | .ldl d a _ => some (memForm d a (t 0x17) false (decide (attrSpace (t 0x17) = 1#3)))
  | .stl d a _ => some (memForm d a (t 0x17) true (decide (attrSpace (t 0x17) = 1#3)))
  | .ldts d a _ => some (memForm d a (t 0x17) false (decide (3 ≤ (attrSpace (t 0x17)).toNat)))
  | .stts d a _ => some (memForm d a (t 0x17) true (decide (3 ≤ (attrSpace (t 0x17)).toNat)))
  | .atom d a b m => let n := if m.getLsbD 3 && decide (m ≠ 15#4) then 2 else 1; some (atomForm ap d a b n n)
  | .atomcas d a b w =>
    let f := atomForm ap d a b (if w = 1#1 then 4 else 2) (if w = 1#1 then 2 else 1)
    some (if ap then { f with d := upto d 62, sr := f.sr ++ [d.toNat + 1] } else f)
  | .atomsh d a b m => let n := if m.getLsbD 3 && decide (m ≠ 15#4) then 2 else 1; some (atomForm ap d a b n n)
  | .red d a b m => let n := if m.getLsbD 3 && decide (m ≠ 15#4) then 2 else 1; some (atomForm ap d a b n 0)
  | .copy a b _ =>
    some { ap := true, pipe := .mem, d := .unused, b := .must (decide (b.toNat % 4 = 0)) 0#8, sr := a.toNat :: regs b 4, ahead := .quiet }
  | .tbinit a b => some { onceForm .mem [a, b] [] with d := .unused }
  | .tbexpect a b => some { onceForm .mem [a, b] [] with d := .unused }
  | .tbarrive a => some { onceForm .mem [a] [] with d := .unused, b := .unused }
  | .tbwait d a b => some (onceForm .mem [a, b] [d])
  | .femark a b => some { onceForm .mem [a, b] [] with d := .unused }
  | .fepoll d a => some { onceForm .mem [a] [] with d := upto d 7, b := .unused, pw := [d.toNat], ahead := .load }
  | .pref a b => some (lineForm ap a b .act)
  | .prefRo a b => some (lineForm ap a b .act)
  | .cinvRo => some { plainForm true .quiet with pipe := .mem }
  | .cinvL1 => some { plainForm true .quiet with pipe := .mem }
  | .pgreq a b => some (lineForm ap a b .quiet)
  | .tlbinv a => some { plainForm true .quiet with pipe := .mem, a := .any, sr := [a.toNat] }
  | .tlbinvAll => some { plainForm true .quiet with pipe := .mem }
  | _ => none

/-- The form of a word of majors 0x1B to 0x23, and of the remaining majors. -/
def formSystem (ap : Bool) (i : Instr) : Option Form :=
  match i with
  | .bar b => some (barForm b)
  | .bararr b => some (barForm b)
  | .barwait b => some (barForm b)
  | .bardrop b => some (barForm b)
  | .fence k _ => some { plainForm true .quiet with d := upto k 3 }
  | .waitcReg a _ => some { plainForm true .quiet with a := .any, sr := [a.toNat] }
  | .waitcImm _ _ => some { plainForm true .quiet with b := .any }
  | .waitb a => some { plainForm true .quiet with a := .any, sr := [a.toNat] }
  | .tfence => some (plainForm true .quiet)
  | .aqpush d a => some { plainForm true .stop with warp := false, d := upto d 3, a := .any, sr := [a.toNat] }
  | .aqclose d => some { plainForm true .stop with warp := false, d := upto d 3 }
  | .mqbind d a => some { plainForm false .stop with d := upto d 3, a := .any, sr := [a.toNat] }
  | .mqtry d a => some { plainForm false .stop with d := upto d 7, a := upto a 3, pw := [d.toNat] }
  | .rgive k => some { barForm k with b := .must (decide (1 ≤ k.toNat) && decide (k.toNat ≤ 6)) 0#8, ahead := .stop }
  | .rclaim k => some { barForm k with b := .must (decide (1 ≤ k.toNat) && decide (k.toNat ≤ 6)) 0#8, ahead := .stop }
  | .rclaimT d k =>
    some { barForm k with d := upto d 6, b := .must (decide (1 ≤ k.toNat) && decide (k.toNat ≤ 6)) 0#8, pw := [d.toNat], ahead := .stop }
  | .mma d a b _ => some { onceForm .mxu [a, b] [] with warp := false, d := upto d 15 }
  | .mzero d => some { plainForm true .quiet with warp := false, pipe := .mxu, d := upto d 15 }
  | .mbatch d => some { plainForm true .quiet with warp := false, pipe := .mxu, d := .any, sw := [d.toNat] }
  | .episet a b => some { onceForm .mxu [a, b] [] with warp := false, d := .unused }
  | .drain d a b => some { onceForm .mxu [a, b] [] with warp := false, d := upto d 15 }
  | .resolveC d a b => some (onceForm .ctl [a, b] [d])
  | .resolveS d a b => some (onceForm .ctl [a, b] [d])
  | .vidq d a b => some { onceForm .ctl [a, b] [d] with ahead := .act }
  | .vidqFree d a => some { onceForm .ctl [a] [d] with b := .unused, ahead := .act }
  | .specchk d => some { plainForm true .act with d := upto d 7, pw := [d.toNat] }
  | .specchkLive d => some { plainForm true .act with d := upto d 7, pw := [d.toNat] }
  | .sigsync d => some { plainForm true .quiet with d := upto d 7, pw := [d.toNat] }
  | .egrsv d a => some { onceForm .mem [a] [d] with b := .unused }
  | .egpub a => some { onceForm .mem [a] [] with d := .unused, b := .unused }
  | .egpush a b => some (lineForm ap a b .quiet)
  | .egrel d a b => some (onceForm .mem [a, b] [d])
  | .egrelV d a b => some (onceForm .mem [a, b] [d])
  | .kvxl d a b =>
    some { pipe := .mem, d := vecs d 2, a := vecs a 2, vr := regs a 2, sr := [b.toNat], vw := regs d 2, pw := [4], ahead := .load }
  | .kvappend d a b =>
    some { pipe := .mem, d := vec1 d, a := vecs a 2, vr := regs a 2, sr := [b.toNat], vw := [d.toNat], ahead := .quiet }
  | .kvmap d a b =>
    some { pipe := .mem, d := vec1 d, a := vecs a 2, vr := d.toNat :: regs a 2, sr := [b.toNat], ahead := .quiet }
  | .flpop d a => some { onceForm .mem [a] [d] with b := .unused }
  | .flpush a b => some { onceForm .mem [a, b] [] with d := .unused }
  | .emulatedMajor _ => some { ap := true, xmax := 2, pipe := .ctl, ahead := .stop }
  | _ => none

/-- The form of a packet word. -/
def form? (ap : Bool) (xs : List Ximm) (i : Instr) : Option Form :=
  match formControl ap i with
  | some f => some f
  | none => match formScalar i with
    | some f => some f
    | none => match formVector i with
      | some f => some f
      | none => match formFloat i with
        | some f => some f
        | none => match formCross i with
          | some f => some f
          | none => match formMemory ap xs i with
            | some f => some f
            | none => formSystem ap i

/-- A form for what is no packet word. -/
def Form.empty : Form := { pipe := .none }

/-- The form of a word that is known to be a packet word. -/
def form (ap : Bool) (xs : List Ximm) (i : Instr) : Form := (form? ap xs i).getD Form.empty

/-! ## The static checks (R104, step 5, items b to d, and the guard requirements of item e) -/

/-- The DETAIL of a field's failure, if it fails: a register outside the window, then an unknown selector, then another value
out of range or a set bit in an unused field (R104 d). -/
def FieldCheck.detail (c : FieldCheck) (window : Nat) (dirty : Bool) : Option W8 :=
  match c with
  | .vec n count align =>
    if n + count > window then some 1#8 else if n % align ≠ 0 ∨ dirty then some 0#8 else none
  | .must ok e => if !ok then some e else if dirty then some 0#8 else none
  | _ => if dirty then some 0#8 else none

/-- The first failing static check of a form (R104 b to d, then the guard requirement of e): its DETAIL. -/
def Form.reject (f : Form) (ap : Bool) (window : Nat) (iss : Issue) : Option W8 :=
  let n := iss.xs.length
  if (ap && !f.ap) || (!ap && !f.warp) then some 2#8
  else if n < f.xmin ∨ n > f.xmax then some 3#8
  else match f.d.detail window (decide (iss.unused.extractLsb' 20 6 ≠ 0#6)) with
    | some e => some e
    | none => match f.a.detail window (decide (iss.unused.extractLsb' 14 6 ≠ 0#6)) with
      | some e => some e
      | none => match f.b.detail window (decide (iss.unused.extractLsb' 8 6 ≠ 0#6)) with
        | some e => some e
        | none =>
          if !f.fn ∨ iss.unused.extractLsb' 0 8 ≠ 0#8 then some 0#8
          else if f.unguarded ∧ iss.guard ≠ 7#4 then some 0#8 else none

/-! ## What an instruction sees -/

/-- What an instruction sees as it executes: who issues it, the block, the registers as it reads them, its form and the lanes
that pass its guard. -/
structure Ctx where
  iss : Issue
  core : Core
  th : Thread
  form : Form
  instr : Instr
  pass : W32
  deriving DecidableEq, Repr

/-- The core key. -/
def Ctx.k (c : Ctx) : Nat := c.iss.core

/-- The agent. -/
def Ctx.a (c : Ctx) : Nat := c.iss.agent

/-- The issuer is the access processor. -/
def Ctx.ap (c : Ctx) : Bool := decide (c.iss.agent ≥ 16)

/-- The issuing slot's mask. -/
def Ctx.mask (c : Ctx) : W32 := (c.th.slot c.iss.slot).mask

/-- A scalar operand. -/
def Ctx.s (c : Ctx) (n : BitVec 6) : W64 := c.th.sval n.toNat

/-- A vector operand in a lane. -/
def Ctx.v (c : Ctx) (n : BitVec 6) (i : Nat) : W32 := c.th.lane n.toNat i

/-- The second operand of layout I: a scalar register or the field value (R139). -/
def Ctx.sOrImm (c : Ctx) (b : BitVec 6) (i : BitVec 1) : W64 := if i = 1#1 then b.setWidth 64 else c.s b

/-- The second operand of layout I in a lane (R145). -/
def Ctx.vOrImm (c : Ctx) (b : BitVec 6) (i : BitVec 1) (lane : Nat) : W32 := if i = 1#1 then b.setWidth 32 else c.v b lane

/-- A pair of vector registers as 64 bits (R39). -/
def Ctx.v2 (c : Ctx) (n : BitVec 6) (i : Nat) : W64 := c.th.lane (n.toNat + 1) i ++ c.th.lane n.toNat i

/-- The immediate of a format-B word (R100). -/
def Ctx.imm14 (c : Ctx) (i : BitVec 14) : W64 :=
  match c.iss.xs with
  | [] => i.signExtend 64
  | [x] => (x ++ i).signExtend 64
  | x :: y :: _ => (x ++ y ++ i).setWidth 64

/-- The immediate of a format-C word (R100). -/
def Ctx.imm20 (c : Ctx) (i : BitVec 20) : W64 :=
  match c.iss.xs with
  | [] => i.signExtend 64
  | [x] => (x ++ i).signExtend 64
  | x :: y :: _ => (x ++ y ++ i).setWidth 64

/-- The displacement of a format-D word (R100). -/
def Ctx.disp26 (c : Ctx) (i : BitVec 26) : W64 :=
  match c.iss.xs with
  | [x] => (x ++ i).signExtend 64
  | _ => i.signExtend 64

/-- The value that a single XIMM supplies to a format-A word, 0 without one (R100). -/
def Ctx.x (c : Ctx) : W64 :=
  match c.iss.xs with
  | [x] => x.signExtend 64
  | _ => 0#64

/-- The packet that a displacement from the target word's packet names (R115). -/
def Ctx.target (c : Ctx) (disp : W64) : W64 := packetOf c.iss.tpc + (disp <<< 4)

/-- The lane that a permute reads for a lane (R150). -/
def sourceLane (i : Instr) (t : Thread) (lane : Nat) : Nat :=
  match i with
  | .perm _ _ b => (t.lane b.toNat lane).toNat % 32
  | .permx _ _ b => lane ^^^ b.toNat
  | .shflup _ _ b => if lane < b.toNat then lane else lane - b.toNat
  | .shfldn _ _ b => if lane + b.toNat > 31 then lane else lane + b.toNat
  | .bcastReg _ _ b => (t.sval b.toNat).toNat % 32
  | .bcastImm _ _ b => b.toNat
  | _ => lane

/-- The vector lanes that an instruction reads for one passing lane (R51, R137). -/
def Ctx.reads (c : Ctx) (lane : Nat) : List (Nat × Nat) :=
  match c.form.cross with
  | .lane => c.form.vr.map fun n => (n, lane)
  | .gather =>
    let j := sourceLane c.instr c.th lane
    match c.form.vr with
    | [] => []
    | n :: rest => (if bit c.pass j then [(n, j)] else []) ++ rest.map fun m => (m, lane)
  | .all => c.form.vr.flatMap fun n => (lanesOf c.pass).map fun j => (n, j)
  | .upto => c.form.vr.flatMap fun n => ((lanesOf c.pass).filter fun j => decide (j ≤ lane)).map fun j => (n, j)
  | .rows =>
    match c.form.vr with
    | [] => []
    | n :: rest =>
      (n, lane) :: rest.flatMap fun m =>
        ((lanesOf c.pass).filter fun j => bit (c.th.lane n lane) j).map fun j => (m, j)

/-- The taint of a lane's sources (R50). -/
def Ctx.taintAt (c : Ctx) (lane : Nat) : Bool :=
  (c.form.sr.any fun n => (c.th.sreg n).taint) || ((c.reads lane).any fun x => bit (c.th.vreg x.1).taint x.2)

/-- The taint of every passing lane's sources. -/
def Ctx.taint (c : Ctx) : W32 := maskOf fun i => bit c.pass i && c.taintAt i

/-- The taint of a scalar result: that of every source it reads. -/
def Ctx.taintAny (c : Ctx) : Bool :=
  (c.form.sr.any fun n => (c.th.sreg n).taint) || (lanesOf c.pass).any fun i => c.taintAt i

/-- The passing lanes that read a poisoned lane or register (R51). -/
def Ctx.poisoned (c : Ctx) : W32 :=
  if c.form.sr.any fun n => (c.th.sreg n).poison then c.pass
  else maskOf fun i => bit c.pass i && (c.reads i).any fun x => bit (c.th.vreg x.1).poison x.2

/-! ## Early reads (R88, R93) -/

/-- The registers that a form reads, and its guard's predicate. -/
def Form.readRefs (f : Form) (guard : BitVec 4) : List RegRef :=
  f.vr.map RegRef.v ++ f.sr.map RegRef.s ++ f.pr.map RegRef.p ++
    (if guard.extractLsb' 0 3 = 7#3 then [] else [RegRef.p (guard.extractLsb' 0 3).toNat])

/-- The registers that a form writes. -/
def Form.writeRefs (f : Form) : List RegRef := f.vw.map RegRef.v ++ f.sw.map RegRef.s ++ f.pw.map RegRef.p

/-- A register is read before its last fixed-latency result may be. -/
def Thread.early (t : Thread) (now : Nat) (r : RegRef) : Bool :=
  t.recent.any fun e => decide (e.reg = r) && decide (e.issuedAt < now) && decide (now < e.readyAt)

/-- The cycle from which every register named may be read. -/
def Thread.readyFor (t : Thread) (rs : List RegRef) (now : Nat) : Nat :=
  t.recent.foldl (fun m e => if rs.contains e.reg then max m e.readyAt else m) now

/-- A result that a read in this cycle may not see: of the same chain group, or too new. -/
def Recent.unseen (e : Recent) (now : Nat) : Bool := decide (now < e.readyAt) || decide (e.issuedAt = now)

/-- Lanes of a vector register taken from another. -/
def VReg.take (r old : VReg) (m : W32) : VReg :=
  { val := (List.range 32).map fun i => if bit m i then nth old.val i 0#32 else nth r.val i 0#32
    taint := blend m old.taint r.taint
    poison := blend m old.poison r.poison }

/-- A thread as an instruction reads it: a result of the same chain group is not seen (R92); each lane of an earlier one that
is read too soon is old or new, as free bits say (R93). Answers the free values used. -/
def Thread.readView (t : Thread) (rs : List RegRef) (now free : Nat) : Thread × Nat :=
  t.recent.foldl (fun acc e =>
    let (t, free) := acc
    if !rs.contains e.reg || !e.unseen now then (t, free)
    else
      let group := decide (e.issuedAt = now)
      let pick : W32 := e.lanes &&& (if group then allLanes else maskOf fun i => Config.freeBit (free + i))
      let free := if group then free else free + 32
      match e.reg with
      | .v n => ({ t with v := alterAt t.v n fun r => r.take e.old pick }, free)
      | .s n => ({ t with s := alterAt t.s n fun r => if bit pick 0 then e.oldScalar else r }, free)
      | .p n => ({ t with p := alterAt t.p n fun r => blend pick e.oldPred r }, free)) (t, free)

/-- The lanes of a slot that pass a guard (R94). -/
def guardPass (t : Thread) (mask : W32) (guard : BitVec 4) : W32 :=
  let p := t.pval (guard.extractLsb' 0 3).toNat
  mask &&& (if guard.getLsbD 3 then ~~~p else p)

/-! ## Writing results -/

/-- A later instruction writes a register that a wait will write: the wait no longer writes it, or those lanes of a predicate (R42). -/
def Wait.supersede (w : Wait) (r : RegRef) (m : W32) : Wait :=
  match w with
  | .tbwait d a p t => if r = .s d then .tbwait 64 a p t else w
  | .egrsv d t n since => if r = .s d then .egrsv 64 t n since else w
  | .egrel x d t v asked => if r = .s d then .egrel x 64 t v asked else w
  | .sigsync p lanes n tag => if r = .p p then .sigsync p (lanes &&& ~~~m) n tag else w
  | _ => w

/-- The same of a slot that waits. -/
def Slot.supersede (sl : Slot) (r : RegRef) (m : W32) : Slot :=
  match sl.st with
  | .waiting w => { sl with st := .waiting (w.supersede r m) }
  | _ => sl

/-- A later instruction writes a register: an outstanding load or a wait no longer writes those lanes (R42). -/
def Thread.supersede (t : Thread) (r : RegRef) (m : W32) : Thread :=
  { t with
    slotA := t.slotA.supersede r m
    slotB := t.slotB.supersede r m
    inflight := t.inflight.map fun x =>
      { x with dests := x.dests.map fun y => if y.1 = r then (y.1, y.2 &&& ~~~m) else y } }

/-- What the lanes of a register held before the results that may not be read yet (R42, R88). -/
def Thread.oldVReg (t : Thread) (now : Nat) (r : RegRef) (v : VReg) : VReg :=
  t.recent.foldl (fun v e => if e.reg = r ∧ e.unseen now then v.take e.old e.lanes else v) v

/-- What a scalar register held before a result that may not be read yet. -/
def Thread.oldSReg (t : Thread) (now : Nat) (r : RegRef) (v : SReg) : SReg :=
  t.recent.foldl (fun v e => if e.reg = r ∧ e.unseen now then e.oldScalar else v) v

/-- What a predicate held before the results that may not be read yet. -/
def Thread.oldPred (t : Thread) (now : Nat) (r : RegRef) (v : W32) : W32 :=
  t.recent.foldl (fun v e => if e.reg = r ∧ e.unseen now then blend e.lanes e.oldPred v else v) v

/-- The results that may not be read yet, but for those of lanes of a register that a later instruction writes (R42). -/
def Thread.pendingBut (t : Thread) (now : Nat) (r : RegRef) (m : W32) : List Recent :=
  ((t.recent.filter fun e => e.unseen now).map fun e => if e.reg = r then { e with lanes := e.lanes &&& ~~~m } else e).filter fun e =>
    decide (e.lanes ≠ 0#32)

/-- Remember what the result of an instruction replaces in the lanes that it writes, until it may be read (R88, R92); it stands over the
earlier ones there (R42). -/
def Thread.remember (t : Thread) (now lat : Nat) (r : RegRef) (m : W32) : Thread :=
  let e : Recent :=
    { reg := r, lanes := m, issuedAt := now, readyAt := now + lat, old := VReg.zero, oldScalar := SReg.zero, oldPred := 0#32 }
  let e : Recent := match r with
    | .v n => { e with old := t.oldVReg now r (t.vreg n) }
    | .s n => { e with oldScalar := t.oldSReg now r (t.sreg n) }
    | .p n => { e with oldPred := t.oldPred now r (nth t.p n 0#32) }
  { t with recent := e :: t.pendingBut now r m }

/-- A result that lands on its own leaves nothing earlier to be read in its lanes (R42). -/
def Thread.forget (t : Thread) (now : Nat) (r : RegRef) (m : W32) : Thread := { t with recent := t.pendingBut now r m }

/-- Write the passing lanes of a vector register (R39, R50). -/
def Ctx.putV (c : Ctx) (s : State) (n : Nat) (f : Nat → W32) : State :=
  s.updThread c.k c.a fun t =>
    ((t.remember s.now c.form.lat (.v n) c.pass).supersede (.v n) c.pass).setV n c.pass f c.taint

/-- Write part of each passing lane of a vector register: the mark stays and the old taint counts (R51, R180). DESIGN CHOICE (log 145): where an earlier
load to the lane is outstanding, the kept half is the one from before the load, and the load's write to the lane is dropped whole (R42). -/
def Ctx.putVPart (c : Ctx) (s : State) (n : Nat) (f : Nat → W32) : State :=
  s.updThread c.k c.a fun t =>
    ((t.remember s.now c.form.lat (.v n) c.pass).supersede (.v n) c.pass).setVKeep n c.pass f (c.taint ||| (t.vreg n).taint)

/-- Write a pair of vector registers. -/
def Ctx.putV2 (c : Ctx) (s : State) (n : BitVec 6) (f : Nat → W64) : State :=
  c.putV (c.putV s n.toNat fun i => (f i).setWidth 32) (n.toNat + 1) fun i => (f i).extractLsb' 32 32

/-- Write a scalar register. -/
def Ctx.putS (c : Ctx) (s : State) (n : BitVec 6) (v : W64) : State :=
  s.updThread c.k c.a fun t =>
    ((t.remember s.now c.form.lat (.s n.toNat) allLanes).supersede (.s n.toNat) allLanes).setS n.toNat v c.taintAny

/-- Write a scalar register with a clear taint bit (R50). -/
def Ctx.putSClean (c : Ctx) (s : State) (n : BitVec 6) (v : W64) : State :=
  s.updThread c.k c.a fun t =>
    ((t.remember s.now c.form.lat (.s n.toNat) allLanes).supersede (.s n.toNat) allLanes).setS n.toNat v false

/-- Write a predicate: the passing bits in a warp; in the access processor one bit, set when the value is not zero
(R143, R144). -/
def Ctx.putP (c : Ctx) (s : State) (n : Nat) (v : W32) : State :=
  let x := if c.ap then spread (decide (v ≠ 0#32)) else v
  let m := if c.ap then allLanes else c.pass
  s.updThread c.k c.a fun t =>
    ((t.remember s.now c.form.lat (.p n) m).supersede (.p n) m).setP n m x

/-- Go on after the instruction. -/
def Ctx.next (c : Ctx) (s : State) : State := s.advance c.k c.a c.iss.slot c.iss.tpc

/-- Wait at the instruction. -/
def Ctx.wait (c : Ctx) (why : Wait) (s : State) : State := s.wait c.k c.a c.iss.slot why

/-- Take a trap at the instruction (R68, R99). -/
def Ctx.trap (c : Ctx) (t : TrapInfo) (s : State) : State := s.takeTrap c.k c.a c.iss.slot t

/-- Take a trap of a code that cannot be resumed, with its lanes. -/
def Ctx.trapWith (c : Ctx) (code detail : W8) (lanes : W32) (s : State) : State :=
  c.trap { code := code, detail := detail, resume := false, pc := c.iss.pc, mask := lanes } s

/-! ## Run-ahead (R52, R359, R360) -/

/-- The invalid bits of a register in run-ahead: those of its buffer entry, or all where an outstanding load will write it. -/
def Ahead.invalid (h : Ahead) (r : RegRef) : W32 :=
  match h.buffer.find? fun e => decide (e.reg = r) with
  | some e => e.invalid
  | none => if h.unknown.contains r then allLanes else 0#32

/-- The slot's lanes whose guard is not known in run-ahead (R52). -/
def Ctx.unknownGuard (c : Ctx) (h : Ahead) : W32 :=
  if c.iss.guard.extractLsb' 0 3 = 7#3 then 0#32 else c.mask &&& h.invalid (.p (c.iss.guard.extractLsb' 0 3).toNat)

/-- The result of a lane combines a lane whose guard is not known: one that a gather, a reduction, a scan or a bit-matrix row reads (R138). -/
def Ctx.combines (c : Ctx) (g : W32) (lane : Nat) : Bool :=
  match c.form.cross with
  | .lane => false
  | .gather => bit g (sourceLane c.instr c.th lane)
  | .all => decide (g ≠ 0#32)
  | .upto => (lanesOf g).any fun j => decide (j ≤ lane)
  | .rows => match c.form.vr with
    | n :: _ => decide (g &&& c.th.lane n lane ≠ 0#32)
    | [] => false

/-- A predicate source of a lane is invalid: its own bit, every bit for a result that all of them enter, or the passing ones for one that is
reduced (R52, R138, R143). -/
def Ctx.invalidPred (c : Ctx) (h : Ahead) (lane : Nat) : Bool :=
  c.form.pr.any fun n =>
    let x := h.invalid (.p n)
    match c.form.cross with
    | .all => decide (x &&& c.pass ≠ 0#32)
    | _ => if c.form.sw = [] then bit x lane else decide (x ≠ 0#32)

/-- The lanes of a result that are invalid: those whose guard is not known, and passing ones with an invalid source (R52, R138). -/
def Ctx.invalidLanes (c : Ctx) (h : Ahead) : W32 :=
  let g := c.unknownGuard h
  let sc := c.form.sr.any fun n => bit (h.invalid (.s n)) 0
  maskOf fun i => bit g i ||
    (bit c.pass i && (sc || c.combines g i || c.invalidPred h i ||
      (c.reads (match c.form.cross with | .upto => 31 | _ => i)).any fun x => bit (h.invalid (.v x.1)) x.2))

/-- Mark the results of an instruction in the buffer: the written lanes take these invalid bits. No entry left ends
run-ahead without a write. -/
def Ahead.mark (h : Ahead) (written invalid : W32) (r : RegRef) : Option Ahead :=
  let scalar := match r with | .s _ => true | _ => false
  let m := if scalar then allLanes else written
  let inv := if scalar then spread (decide (invalid ≠ 0#32)) else invalid
  match h.buffer.find? fun e => decide (e.reg = r) with
  | some _ =>
    some { h with buffer := h.buffer.map fun e => if e.reg = r then { e with invalid := blend m inv e.invalid } else e }
  | none =>
    if h.buffer.length ≥ Config.aheadBuffer then none
    else some { h with buffer := h.buffer ++ [{ reg := r, invalid := blend m inv (h.invalid r) }] }

/-- Mark every destination; where no lane is written, nothing is. -/
def Ahead.markAll (h : Ahead) (written invalid : W32) (rs : List RegRef) : Option Ahead :=
  if written = 0#32 then some h
  else rs.foldl (fun acc r => match acc with | some h => if r = .p 7 then some h else h.mark written invalid r | none => none) (some h)

/-- Advance in run-ahead with the destinations marked, or end it where the buffer is full. -/
def Ctx.aheadMark (c : Ctx) (h : Ahead) (invalid : W32) (s : State) : State :=
  match h.markAll (c.pass ||| invalid) invalid c.form.writeRefs with
  | none => s.exitAhead c.k c.a
  | some h' => c.next (s.updThread c.k c.a fun t => { t with ahead := some h' })

/-- An instruction that acts in run-ahead: its results go to the buffer; no flag is merged and no generator advances. -/
def Ctx.aheadAct (c : Ctx) (h : Ahead) (body : Ctx → State → State) (s : State) : State :=
  let invalid := c.invalidLanes h
  match h.markAll (c.pass ||| invalid) invalid c.form.writeRefs with
  | none => s.exitAhead c.k c.a
  | some h' =>
    if c.pass = 0#32 then c.next (s.updThread c.k c.a fun t => { t with ahead := some h' })
    else
      let old := s.thread c.k c.a
      let s := body c s
      if (s.thread c.k c.a).ahead.isNone then s
      else s.updThread c.k c.a fun t => { t with ahead := some h', fpstat := old.fpstat, gen := old.gen }

/-- A transfer in run-ahead: as always when its guard lanes and operands are valid (R133); `CALL` writes its link to the
buffer. -/
def Ctx.aheadControl (c : Ctx) (h : Ahead) (body : Ctx → State → State) (s : State) : State :=
  if c.invalidLanes h ≠ 0#32 then s.exitAhead c.k c.a
  else c.aheadAct h body s

/-! ## Issue -/

/-- Nothing more to check. -/
def noCheck : Ctx → State → Option W8 := fun _ _ => none

/-- An access processor waits while an outstanding load will write a register that it names, or a result that it reads is not yet there
(R93, R220). -/
def Ctx.interlocked (c : Ctx) (now : Nat) : Bool :=
  c.ap && ((c.th.inflight.any fun x => !x.done && x.dests.any fun d =>
    c.form.writeRefs.contains d.1 || (c.form.readRefs c.iss.guard).contains d.1) ||
    (c.form.readRefs c.iss.guard).any fun r => c.th.early now r)

/-- The guard's predicate is read too soon. -/
def Ctx.guardEarly (c : Ctx) (now : Nat) : Bool :=
  c.iss.guard.extractLsb' 0 3 ≠ 7#3 && c.th.early now (.p (c.iss.guard.extractLsb' 0 3).toNat)

/-- The scoreboard's fault, if any: the slot's mask where the guard cannot be read, else the passing lanes (R68, R93). -/
def Ctx.shortStall (c : Ctx) (now : Nat) : Option TrapInfo :=
  if c.ap || !c.th.wctl.getLsbD 0 then none
  else
    let t (m : W32) : TrapInfo := { code := 6#8, detail := 0#8, resume := true, pc := c.iss.pc, mask := m }
    if c.guardEarly now then some (t c.mask)
    else if decide (c.pass ≠ 0#32) && (c.form.readRefs 7#4).any fun r => c.th.early now r then some (t c.pass)
    else none

/-- An instruction outside run-ahead whose static checks hold (R104 e, R93, R94, R51, then its effect). -/
def Ctx.execute (c : Ctx) (chk : Ctx → State → Option W8) (body : Ctx → State → State) (s : State) : State :=
  let blind := c.th.wctl.getLsbD 0 && c.guardEarly s.now
  match chk (if blind then { c with pass := 0#32 } else c) s with
  | some e => c.trap (illegal e c.iss.pc c.pass) s
  | none =>
    match c.shortStall s.now with
    | some t => c.trap t s
    | none =>
      if c.pass = 0#32 then c.next s
      else if c.poisoned ≠ 0#32 then c.trapWith 0x0A#8 0#8 c.poisoned s
      else body c s

/-- An instruction in run-ahead (R133, R138, R168, R218, R261): every fault is suppressed, its lanes invalid. DEDUCED, log 154: a transfer whose own
check fails, such as `LOOPBRK` with an empty loop stack, or that reads a poisoned register ends run-ahead. -/
def Ctx.runAhead (c : Ctx) (h : Ahead) (chk : Ctx → State → Option W8) (body : Ctx → State → State)
    (load : Ctx → Ahead → State → State) (bad : Bool) (s : State) : State :=
  let all := c.pass ||| c.unknownGuard h
  let faulty := bad || (chk c s).isSome || decide (c.poisoned ≠ 0#32)
  match c.form.ahead with
  | .stop => s.exitAhead c.k c.a
  | .quiet => c.aheadMark h all s
  | .control => if faulty then s.exitAhead c.k c.a else c.aheadControl h body s
  | .act => if faulty then c.aheadMark h all s else c.aheadAct h body s
  | .load => if faulty || decide (c.pass = 0#32) then c.aheadMark h all s else load c h s

/-- In run-ahead an early read is invalid (R93). DESIGN CHOICE, log 156: every lane of the register that is read early is invalid, until it is written
again. -/
def Ahead.withEarly (h : Ahead) (t : Thread) (now : Nat) (rs : List RegRef) : Ahead :=
  { h with unknown := h.unknown ++ rs.filter fun r =>
      t.early now r && !(h.buffer.any fun e => decide (e.reg = r))
           buffer := h.buffer.map fun e => if rs.contains e.reg && t.early now e.reg then { e with invalid := allLanes } else e }

/-- The context of an issue: the registers as the instruction reads them, and the state with the free values used. -/
def mkCtx (iss : Issue) (core : Core) (i : Instr) (s : State) : Ctx × State :=
  let f := form (decide (iss.agent ≥ 16)) iss.xs i
  let t := core.thread iss.agent
  let (view, free) := if iss.agent ≥ 16 then (t, s.free) else t.readView (f.readRefs iss.guard) s.now s.free
  ({ iss := iss, core := core, th := view, form := f, instr := i, pass := guardPass view (view.slot iss.slot).mask iss.guard },
   { s with free := free })

/-- Issue a packet word: what every meaning of one goes through. `chk` is the rest of R104 e, `body` the effect, `load` the
effect of a load in run-ahead. -/
def issueWith (i : Instr) (chk : Ctx → State → Option W8) (body : Ctx → State → State)
    (load : Ctx → Ahead → State → State) (s : State) : Out :=
  match s.cur with
  | none => .fault .noIssuer
  | some iss =>
    match s.core? iss.core with
    | none => .fault .noIssuer
    | some core =>
      let (c, s) := mkCtx iss core i s
      let reject := c.form.reject c.ap c.th.window iss
      match c.th.ahead with
      | some h =>
        .next (c.runAhead (h.withEarly c.th s.now (c.form.readRefs iss.guard)) chk body load reject.isSome s)
      | none =>
        if c.interlocked s.now then .next (c.wait .structural s)
        else match reject with
          | some e => .next (c.trap (illegal e iss.pc c.pass) s)
          | none => .next (c.execute chk body s)

/-- Issue a packet word that is no load. -/
def issue (i : Instr) (chk : Ctx → State → Option W8) (body : Ctx → State → State) (s : State) : Out :=
  issueWith i chk body (fun c h s => c.aheadMark h (c.pass ||| c.unknownGuard h) s) s

end Sys2Proof.Machine
end

