-- ==== Sys2Proof/Machine/Barrier.lean ====
section
/-! DEFINITION. Hardware barriers, the register pool, and lanes that leave a warp (R53 to R58, R120, R210 to R212). -/

namespace Sys2Proof.Machine

/-! ## Hardware barriers -/

/-- A barrier at block start (R210). -/
def Barrier.start (warps : Nat) : Barrier :=
  { phase := 0#32, expected := warps, dropped := [], arrived := [], lanes := List.replicate 16 0#32,
    dropping := List.replicate 16 0#32, after := List.replicate 16 0, know := [], knew := [], lastPhase := List.replicate 16 0#32, leaving := [] }

/-- What two agents know of the `TFENCE`s of the warps (R216). -/
def joinKnow (x y : List Nat) : List Nat := (List.range 16).map fun w => max (nth x w 0) (nth y w 0)

/-- What an agent knows. -/
def Core.knows (c : Core) (a : Nat) : List Nat := nth c.know a []

/-- An agent learns what another knew, by a synchronisation of the block (R216). -/
def Core.learn (c : Core) (a : Nat) (ks : List Nat) : Core := { c with know := alterPad [] c.know a fun x => joinKnow x ks }

/-- A warp's arrival is complete when every live lane has arrived; one that came through `BARDROP` sets the dropped bit
(R210). -/
def Barrier.arriveWarp (b : Barrier) (w : Nat) (live : W32) : Barrier :=
  if b.arrived.contains w || decide (live = 0#32) || decide (live &&& ~~~(nth b.lanes w 0#32) ≠ 0#32) then b
  else
    { b with
      arrived := setAdd b.arrived w
      dropped := if nth b.dropping w 0#32 ≠ 0#32 then setAdd b.dropped w else b.dropped
      lastPhase := alterPad 0#32 b.lastPhase w fun _ => b.phase }

/-- The phase completes when as many warps have arrived as are expected, and at least one is (R210). -/
def Barrier.complete (b : Barrier) : Bool := decide (b.arrived.length = b.expected) && decide (1 ≤ b.expected)

/-- The barrier after its phase completes: the warps that dropped in it are expected no longer (R210). -/
def Barrier.nextPhase (b : Barrier) : Barrier :=
  { b with
    phase := b.phase + 1#32
    expected := b.expected - (b.arrived.filter fun w => b.dropped.contains w).length
    arrived := []
    lanes := List.replicate 16 0#32
    dropping := List.replicate 16 0#32
    know := []
    leaving := []
    knew := joinKnow b.know b.knew }

/-- The lanes whose arrival makes a warp's (R210): its live ones, or those that had all arrived when it ended. -/
def Barrier.awaited (b : Barrier) (w : Nat) (live : W32) : W32 := if b.leaving.contains w then nth b.lanes w 0#32 else live

/-- The barrier once the accesses are performed that the arrivals made at it wait for (R210, R339). -/
def Core.settledBar (c : Core) (b : Barrier) : Barrier :=
  (List.range c.launch.warps).foldl (fun (b : Barrier) w => b.arriveWarp w (b.awaited w (c.live w))) b

/-- A barrier of a core. -/
def Core.bar (c : Core) (n : Nat) : Barrier := nth c.bars n (Barrier.start 0)

/-- Go on past a wait, in one slot of a warp, where a test on the wait holds; a block that has been killed or halted stays where it stood (R398). -/
def State.releaseSlot (s : State) (k a : Nat) (w : SlotId) (p : Wait → Bool) : State :=
  let sl := (s.thread k a).slot w
  match sl.st with
  | .waiting x => if p x && s.blockActs k then s.advance k a w sl.pc else s
  | _ => s

/-- Every agent that waits at a barrier learns what those knew that have arrived there (R216, R339). -/
def Core.learnAt (c : Core) (n : Nat) : Core :=
  let here (sl : Slot) : Bool := decide (sl.st = .waiting (.bar n)) || decide (sl.st = .waiting (.barwait n))
  (List.range 16).foldl (fun c w => if here (c.thread w).slotA || here (c.thread w).slotB then c.learn w (c.bar n).knew else c) c

/-- Go on past a wait in every slot of the block where a test holds. -/
def State.releaseAll (s : State) (k : Nat) (p : Wait → Bool) : State :=
  (List.range 17).foldl (fun s a => (s.releaseSlot k a .a p).releaseSlot k a .b p) s

/-- Batch `n` counts as complete (R215). -/
def Core.batchDone (c : Core) (n : W32) : Bool := decide ((c.lastBatch - n).toNat < 2 ^ 31)

/-- The next batch has been closed, and all of its commands have completed (R233). -/
def Core.batchReady (c : Core) : Bool :=
  let n := c.lastBatch + 1#32
  decide (n ≠ c.curBatch) && c.mx.all fun m => decide (m.batch ≠ n) || decide (m.st = .done)

/-- Complete batches in their order, and forget their commands. -/
def Core.completeBatches (c : Core) (fuel : Nat) : Core :=
  match fuel with
  | 0 => c
  | f + 1 =>
    if c.batchReady then
      let n := c.lastBatch + 1#32
      { c with lastBatch := n, mx := c.mx.filter fun m => decide (m.batch ≠ n) }.completeBatches f
    else c

/-- Complete what batches can complete, and end the waits for them (R215, R233). -/
def State.settleBatches (s : State) (k : Nat) : State :=
  let s := s.updCore k fun c => c.completeBatches (c.curBatch - c.lastBatch).toNat
  match s.core? k with
  | some c =>
    let ends (w : Wait) : Bool := match w with | .batch n => c.batchDone (BitVec.ofNat 32 n) | _ => false
    let waits := c.thr.any fun t => [t.slotA, t.slotB].any fun sl => match sl.st with | .waiting w => ends w | _ => false
    (if waits then s.updCore k Core.acquireEngines else s).releaseAll k ends
  | none => s

/-- Re-evaluate one barrier: warps whose lanes have all arrived, with their earlier accesses performed, and then the phase (R210, R339). -/
def State.settleBar (s : State) (k n : Nat) : State :=
  match s.core? k with
  | none => s
  | some c =>
    let b := (List.range c.launch.warps).foldl (fun (b : Barrier) w =>
      if (c.thread w).performedBelow (nth b.after w 0) then b.arriveWarp w (b.awaited w (c.live w)) else b) (c.bar n)
    if b.complete then
      let s := s.updCore k fun c => { c with bars := alterPad (Barrier.start 0) c.bars n fun _ => b.nextPhase }.learnAt n
      s.releaseAll k fun w => decide (w = .bar n) || decide (w = .barwait n)
    else s.updCore k fun c => { c with bars := alterPad (Barrier.start 0) c.bars n fun _ => b }

/-- Re-evaluate every barrier of a block. -/
def State.settleBars (s : State) (k : Nat) : State := (List.range 16).foldl (fun s n => s.settleBar k n) s

/-- Re-evaluate the barriers at which lanes of a warp have arrived, as an access of the warp completes (R339). -/
def State.settleArrivals (s : State) (k w : Nat) : State :=
  match s.core? k with
  | none => s
  | some c =>
    (List.range 16).foldl (fun s n =>
      if nth (c.bar n).lanes w 0#32 ≠ 0#32 ∧ !(c.bar n).arrived.contains w then s.settleBar k n else s) s

/-- The lanes of a warp that may not arrive: every one once the warp has dropped, else those that have arrived (R211). -/
def Barrier.overrun (b : Barrier) (w : Nat) (lanes : W32) : W32 :=
  if b.dropped.contains w then lanes else lanes &&& nth b.lanes w 0#32

/-- Lanes of a warp arrive; the arrival counts once the warp's accesses below `tag` are performed (R339). -/
def Barrier.arriveLanes (b : Barrier) (w : Nat) (lanes : W32) (dropping : Bool) (tag : Nat) (know : List Nat) : Barrier :=
  { b with
    know := joinKnow b.know know
    lanes := alterPad 0#32 b.lanes w fun m => m ||| lanes
    after := alterPad 0 b.after w fun _ => tag
    dropping := if dropping then alterPad 0#32 b.dropping w fun m => m ||| lanes else b.dropping }

/-- What `BAR`, `BARARR` and `BARDROP` do (R210, R211): the lanes arrive; `BAR` waits, and what completes the phase ends
every wait. -/
def Ctx.arrive (c : Ctx) (n : Nat) (dropping waits : Bool) (s : State) : State :=
  let twice := (c.core.bar n).overrun c.a c.pass
  if twice ≠ 0#32 then c.trapWith 0x0D#8 0#8 twice s
  else
    let s := s.updCore c.k fun x => { x with bars := alterPad (Barrier.start 0) x.bars n fun b => b.arriveLanes c.a c.pass dropping s.seq (x.knows c.a) }
    if waits then
      let done := s.settleBar c.k n
      if (done.core? c.k).any fun x => decide ((x.bar n).phase ≠ (c.core.bar n).phase) then
        c.next (done.updCore c.k fun x => x.learn c.a (x.bar n).knew)
      else c.wait (.bar n) done
    else (c.next s).settleBar c.k n

/-- `BAR #n`. -/
def execBar (b : BitVec 6) (s : State) : Out :=
  issue (.bar b) noCheck (fun c s => c.arrive b.toNat false true s) s

/-- `BARARR #n`. -/
def execBararr (b : BitVec 6) (s : State) : Out :=
  issue (.bararr b) noCheck (fun c s => c.arrive b.toNat false false s) s

/-- `BARDROP #n`. -/
def execBardrop (b : BitVec 6) (s : State) : Out :=
  issue (.bardrop b) noCheck (fun c s => c.arrive b.toNat true false s) s

/-- Every live lane of a warp has arrived in the phase in progress (R210). -/
def Core.hasArrived (c : Core) (w n : Nat) : Bool :=
  (c.bar n).arrived.contains w || decide (c.live w &&& ~~~(nth (c.bar n).lanes w 0#32) = 0#32)

/-- `BARWAIT #n`: it completes unless the warp has arrived in the phase in progress (R210). -/
def execBarwait (b : BitVec 6) (s : State) : Out :=
  issue (.barwait b) noCheck (fun c s =>
    if c.core.hasArrived c.a b.toNat then c.wait (.barwait b.toNat) s
    else c.next (s.updCore c.k fun x => x.learn c.a (x.bar b.toNat).knew)) s

/-! ## The register window (R53 to R58) -/

/-- The registers released in cycles before a given one, which belong to the pool (R56). -/
def releasedBefore (now : Nat) (rs : List (Nat × Nat)) : Nat := rs.foldl (fun n r => if r.1 < now then n + r.2 else n) 0

/-- A claim could be granted: the head of the queue needs no more than the pool will hold at the end of the cycle (R56). -/
def Core.grantable (c : Core) : Bool :=
  match c.claims with
  | (_, need, _) :: _ => decide (need ≤ c.pool + c.released.foldl (fun n r => n + r.2) 0)
  | [] => false

/-- Give a warp `m` more registers, of zero (R55). -/
def Thread.grow (t : Thread) (m : Nat) : Thread :=
  { t with v := t.v ++ List.replicate m VReg.zero, window := t.window + m }

/-- Add a claim to the queue: in the order of their cycles, within one by WARPID (R56). -/
def addClaim (x : Nat × Nat × Nat) (l : List (Nat × Nat × Nat)) : List (Nat × Nat × Nat) :=
  match l with
  | [] => [x]
  | y :: rest => if x.2.2 < y.2.2 ∨ (x.2.2 = y.2.2 ∧ x.1 < y.1) then x :: y :: rest else y :: addClaim x rest

/-- Release registers in a cycle: they enter the pool at its end (R56). -/
def Core.release (c : Core) (now n : Nat) : Core := if n = 0 then c else { c with released := c.released ++ [(now, n)] }

/-- Grant the head of the claim queue, if it issued in an earlier cycle and the pool holds enough (R56). -/
def State.grantHead (s : State) (k : Nat) : State :=
  match s.core? k with
  | none => s
  | some c =>
    match c.claims with
    | (w, need, since) :: rest =>
      if need ≤ c.pool ∧ since < s.now then
        let s := s.updCore k fun c => { c.updThread w (fun t => t.grow need) with claims := rest, pool := c.pool - need }
        (s.releaseSlot k w .a fun x => decide (x = .rclaim)).releaseSlot k w .b fun x => decide (x = .rclaim)
      else s
    | [] => s

/-- What the ends of the cycles before this one do (R56): the registers released enter the pool; then claims are granted from the head until one
needs more than the pool holds. -/
def State.endCycles (s : State) (k : Nat) : State :=
  let s := s.updCore k fun c =>
    { c with pool := c.pool + releasedBefore s.now c.released, released := c.released.filter fun r => decide (s.now ≤ r.1) }
  (List.range 16).foldl (fun s _ => s.grantHead k) s

/-- `CLAIM_GRANT` (R56): the ends of the cycles that have passed. -/
def execClaimGrant (core : Nat) (s : State) : Out := .next (s.endCycles core)

/-- The state conditions of major 0x1D (R55): converged, and a window within its limits. -/
def windowCheck (ok : Nat → Bool) : Ctx → State → Option W8 := fun c _ =>
  if !c.core.converged c.a then some 0x0C#8 else if ok c.th.window then none else some 0#8

/-- `RGIVE #m` (R54, R55). -/
def execRgive (k : BitVec 6) (s : State) : Out :=
  let m := 8 * k.toNat
  issue (.rgive k) (windowCheck fun w => decide (16 + m ≤ w)) (fun c s =>
    if c.th.counter .gl = 0 ∧ c.th.counter .lo = 0 then
      c.next (s.updCore c.k fun x =>
        (x.updThread c.a fun t => { t with v := t.v.take (t.window - m), window := t.window - m }).release s.now m)
    else c.wait .rgive s) s

/-- `RCLAIM #m` (R54, R55, R56): it joins the queue and waits for its grant. -/
def execRclaim (k : BitVec 6) (s : State) : Out :=
  let m := 8 * k.toNat
  issue (.rclaim k) (windowCheck fun w => decide (w + m ≤ 64)) (fun c s =>
    c.wait .rclaim (s.updCore c.k fun x => { x with claims := addClaim (c.a, m, s.now) x.claims })) s

/-- Write every lane of a predicate as a result of its own cycle (R42, R55). -/
def Ctx.putPAll (c : Ctx) (s : State) (n : Nat) (v : W32) : State :=
  s.updThread c.k c.a fun t =>
    ((t.remember s.now c.form.lat (.p n) allLanes).supersede (.p n) allLanes).setP n allLanes v

/-- `RCLAIM.t pD, #m` (R54, R55): it never waits. -/
def execRclaimT (d k : BitVec 6) (s : State) : Out :=
  let m := 8 * k.toNat
  issue (.rclaimT d k) (windowCheck fun w => decide (w + m ≤ 64)) (fun c s =>
    let s := s.endCycles c.k
    let got := (s.core? c.k).any fun x => x.claims.isEmpty && decide (m ≤ x.pool)
    let s := if got then s.updCore c.k fun x => { x.updThread c.a (fun t => t.grow m) with pool := x.pool - m } else s
    c.next (c.putPAll s d.toNat (spread got))) s

/-! ## Lanes that exit (R120, R210) -/

/-- A warp whose last live lanes have gone counts as dropped on every barrier; where it had not arrived in the phase in progress it is expected in it
no longer, and where those lanes had arrived its arrival counts once its accesses are performed (R210, R339). -/
def Barrier.leave (b : Barrier) (w : Nat) (last : W32) : Barrier :=
  if b.dropped.contains w then b
  else if b.arrived.contains w then { b with dropped := setAdd b.dropped w }
  else if last ≠ 0#32 ∧ last &&& ~~~(nth b.lanes w 0#32) = 0#32 then { b with dropped := setAdd b.dropped w, leaving := setAdd b.leaving w }
  else { b with dropped := setAdd b.dropped w, expected := b.expected - 1 }

/-- A warp without live lanes ends: its window returns to the pool (R56, R120). `last` are the lanes that went last. -/
def State.endWarp (s : State) (k w : Nat) (last : W32) : State :=
  match s.core? k with
  | none => s
  | some c =>
    if c.live w ≠ 0#32 ∨ (c.thread w).ended then s
    else
      let s := s.updCore k fun c =>
        { (c.updThread w fun t => { t with ended := true, window := 0, v := [], handler := none }).release s.now (c.thread w).window with
          bars := c.bars.map fun b => b.leave w last }
      s.endRun k w

/-- Remove lanes of a slot from a warp (R120): joins and barriers are re-evaluated, and an empty slot is refilled. -/
def State.exitLanes (s : State) (k w : Nat) (sl : SlotId) (lanes : W32) : State :=
  let last := ((s.thread k w).slot sl).mask &&& lanes
  let s := s.updSlot k w sl fun x => { x with mask := x.mask &&& ~~~lanes }
  let s := if ((s.thread k w).slot sl).mask = 0#32 then s.endRunOf k w sl else s
  ((s.settle k w).endWarp k w last).settleBars k

end Sys2Proof.Machine
end

