-- ==== Sys2Proof/Machine/Memory.lean ====
section
/-! DEFINITION. Lane and scalar accesses: addresses, the checks of R187, translation of the lanes, core-local memories, the
L1 data cache, and the issue of loads and stores of majors 0x12 to 0x17 (R184 to R196, R262 to R273, R312 to R314). -/

namespace Sys2Proof.Machine

/-! ## Addresses (R100, R185) -/

/-- The offset of a format-E word (R100). -/
def Ctx.offsetE (c : Ctx) (o : BitVec 14) : W64 :=
  match c.iss.xs with
  | [x] => (x.extractLsb' 10 16 ++ o).signExtend 64
  | _ => o.signExtend 64

/-- The offset of a format-F word (R100). -/
def Ctx.offsetF (c : Ctx) : W64 :=
  match c.iss.xs with
  | [x] => (x.extractLsb' 3 23).signExtend 64
  | _ => 0#64

/-- A SPACE code (R98). -/
def spaceOf (x : BitVec 3) : Space :=
  match x.toNat with
  | 1 => .ls
  | 2 => .sh
  | 3 => .tw
  | 4 => .ta
  | 5 => .tc
  | _ => .global

/-- A MODE code (R98). -/
def modeOf (x : BitVec 3) : Mode :=
  match x.toNat with
  | 1 => .ro
  | 2 => .nf
  | 3 => .st
  | 4 => .consume
  | 5 => .full
  | _ => .normal

/-- The address of a lane in format E, and its nibble within that byte (R185). -/
def Ctx.addrE (c : Ctx) (a : BitVec 6) (o : BitVec 14) (size : Nat) (sp : Space) (i : Nat) : W64 × Nat :=
  let base := c.s a + c.offsetE o
  if size = 5 then (base + BitVec.ofNat 64 (i / 2), i % 2)
  else if sp = .ls then (base, 0)
  else (base + BitVec.ofNat 64 (i * sizeBytes size), 0)

/-- The address of a lane in format F (R97, R185). -/
def Ctx.addrF (c : Ctx) (a b : BitVec 6) (scale : BitVec 2) (size : Nat) (i : Nat) : W64 × Nat :=
  let base := c.s a + c.offsetF
  let x : W64 := (c.v b i).signExtend 64
  if size = 5 then (base + x.sshiftRight 1, if x.getLsbD 0 then 1 else 0)
  else (base + (x <<< scale.toNat), 0)

/-- One lane's part of an access before its translation. -/
structure Want where
  lane : Nat
  va : W64
  nib : Nat
  op : ElemOp
  deriving DecidableEq, Repr

/-- An access as an instruction asks for it: its kind, the counter it raises, space, mode and size, its destinations, the
lanes' parts in ascending order, the lanes that pass the guard, those whose address is tainted and those whose result is, the
traffic class, and whether it acts once for the warp. -/
structure Ask where
  kind : AccessKind
  path : Path
  space : Space := .global
  mode : Mode := .normal
  size : Nat
  dests : List (RegRef × W32) := []
  wants : List Want
  lanes : W32
  tainted : W32 := 0#32
  taint : W32 := 0#32
  cls : Nat := 0
  scalar : Bool := false
  dst : Nat := 0
  extra : List W64 := []
  deriving DecidableEq, Repr

/-- The element that a part becomes: in a line its byte, for a 4-bit element its nibble. -/
def Want.elem (w : Want) (size x : Nat) : Elem :=
  { lane := w.lane, va := x, off := if size = 5 then 2 * (x % 128) + w.nib else x % 128, size := size, op := w.op,
    got := 0#128, poison := false }

/-- What a half of a 128-bit element does (R186). -/
def ElemOp.half (o : ElemOp) (upper : Bool) : ElemOp :=
  match o with
  | .put v => .put (if upper then v >>> 64 else v &&& BitVec.ofNat 128 (2 ^ 64 - 1))
  | o => o

/-- The elements that a part becomes, each with its virtual address: a 128-bit one is two 64-bit halves, of which no order is kept (R186, R328). -/
def Want.elems (w : Want) (size x : Nat) : List Elem :=
  if size = 4 then
    [{ { w with op := w.op.half false }.elem 3 x with va := vaNat w.va },
     { { w with op := w.op.half true }.elem 3 (x + 8) with va := vaNat w.va + 8 }]
  else [{ w.elem size x with va := vaNat w.va }]

/-- The lanes whose address breaks a size's alignment (R186). -/
def Ask.misaligned (q : Ask) : W32 :=
  maskOf fun i => q.wants.any fun w => decide (w.lane = i) && decide (w.va.toNat % sizeBytes q.size ≠ 0)

/-- The bytes of a block's allocation in a space (R262). -/
def Core.limit (c : Core) (sp : Space) : Nat :=
  match sp with
  | .global => 2 ^ 64
  | .ls => 64 * c.launch.laneUnits
  | .sh => c.launch.shared
  | .tw => c.launch.tileW
  | .ta => c.launch.tileA
  | .tc => c.launch.tileC

/-- The lanes outside the allocation (R187). -/
def Ask.outside (q : Ask) (limit : Nat) : W32 :=
  if q.space = .global then 0#32
  else maskOf fun i => q.wants.any fun w => decide (w.lane = i) && decide (w.va.toNat + sizeBytes q.size > limit)

/-- The failing lanes as the trap names them: the slot's passing lanes for an access that acts once. -/
def Ask.failing (q : Ask) (m : W32) : W32 := if q.scalar && decide (m ≠ 0#32) then q.lanes else m

/-! ## Translation of the lanes (R312 to R314) -/

/-- What the lanes' pages answer: the first fatal address, and the lanes that have one; the lanes of a table still being read; those whose page
is absent, each with its page; the 2 MiB pages among those that are not resident; and the entries of the others. -/
structure Found where
  fatal : Option (W8 × W64) := none
  bad : List (Nat × Nat) := []
  pending : List (Nat × Nat) := []
  absent : List (Nat × Nat) := []
  bigs : List Nat := []
  hits : List (Nat × TlbEntry) := []
  deriving DecidableEq, Repr

/-- What an earlier lane of the same page was answered (R312). -/
def Found.known (f : Found) (asid x : Nat) : Option XResult :=
  let page := x / 2 ^ 16
  let on (ls : List (Nat × Nat)) : Bool := ls.any fun p => decide (p.2 = page) || (decide (p.2 / 32 = page / 32) && f.bigs.contains (page / 32))
  match f.hits.find? fun h => h.2.covers asid x with
  | some h => some (.resident h.2)
  | none =>
    let big := f.bigs.contains (page / 32)
    if on f.absent then some (.absent big) else if on f.pending then some .pending else if on f.bad then some (.fatal 0#8 big) else none

/-- Note the answer for a lane. -/
def Found.add (f : Found) (lane : Nat) (va : W64) (r : XResult) : Found :=
  let p := (lane, vaNat va / 2 ^ 16)
  match r with
  | .fatal d b => { f with bad := f.bad ++ [p], fatal := if f.fatal.isSome then f.fatal else some (d, va), bigs := if b then setAdd f.bigs (p.2 / 32) else f.bigs }
  | .pending => { f with pending := f.pending ++ [p] }
  | .absent b => { f with absent := f.absent ++ [p], bigs := if b then setAdd f.bigs (p.2 / 32) else f.bigs }
  | .resident e => { f with hits := f.hits ++ [(lane, e)] }

/-- Translate the lanes in ascending order, each distinct page once (R312). -/
def State.translateLanes (s : State) (k asid : Nat) (kind : WalkKind) (ws : List Want) : State × Found :=
  ws.foldl (fun acc w =>
    let (s, f) := acc
    match if isCanonical w.va then f.known asid (vaNat w.va) else none with
    | some r => (s, f.add w.lane w.va r)
    | none =>
      let (s, r) := s.translate k asid w.va kind
      (s, f.add w.lane w.va r)) (s, {})

/-- Translate the lanes of an access; while a page waits, so does the access, and the answers of the others' walks stay for its next attempt. -/
def State.translateAll (s : State) (k asid : Nat) (kind : WalkKind) (ws : List Want) : State × Found :=
  let (t, f) := s.translateLanes k asid kind ws
  (if f.pending ≠ [] then t.keepAnswers s else t, f)

/-- The lanes of a list of lanes. -/
def maskOfLanes (ls : List (Nat × Nat)) : W32 := maskOf fun i => ls.any fun p => decide (p.1 = i)

/-- The lanes whose page is absent. -/
def Found.absentLanes (f : Found) : W32 := maskOfLanes f.absent

/-- The entry that translates a lane. -/
def Found.entry (f : Found) (i : Nat) : Option TlbEntry := (f.hits.find? fun h => decide (h.1 = i)).map fun h => h.2

/-- A write by this kind of access. -/
def AccessKind.writes (x : AccessKind) : Bool :=
  match x with
  | .store | .atom | .cas | .red | .kvappend | .kvmap => true
  | _ => false

/-- Ask for each absent page once, naming the fragment that its lanes become (R314). -/
def State.requestPages (s : State) (die asid : Nat) (f : Found) (frag : Option (Nat × Nat)) : State :=
  f.absent.foldl (fun s p => s.requestPage die asid p.2 frag (f.bigs.contains (p.2 / 32))) s

/-! ## The L1 data cache (R271 to R273) -/

/-- The L1 sector that holds an element. -/
def L1Line.holds (l : L1Line) (e : Elem) : Bool := l.valid.getLsbD (e.byte / 32)

/-- Make a line the most recently used; of more than four lines of one set the oldest goes (R271). DESIGN CHOICE (log 128, unsafe): which of the
128 sets a line is in, the spec does not say; it is the line number mod 128. -/
def l1Insert (ls : List L1Line) (l : L1Line) : List L1Line :=
  let rest := ls.filter fun x => decide (x.line ≠ l.line)
  let inSet (x : L1Line) : Bool := decide (x.line % 128 = l.line % 128)
  let keep := (rest.filter inSet).take 3
  l :: rest.filter fun x => !inSet x || keep.contains x

/-- Invalidate L1 in whole (R273). -/
def Core.dropL1 (c : Core) : Core := { c with l1 := [], l1Epoch := c.l1Epoch + 1, stale := [] }

/-- Write the bytes of elements into the held sectors of a line (R272). -/
def L1Line.store (l : L1Line) (es : List Elem) : L1Line :=
  let (_, after, mask) := applyElems (es.filter fun e => l.holds e) { data := l.data, bad := bytesOfSectors l.poison } 0#128
  { l with data := after.data, poison := l.poison &&& ~~~wholeSectors mask }

/-- A load of this thread of the sector of an element has not returned: a later one may not find an older value in L1. DEDUCED (log 129): R327. -/
def Thread.awaits (t : Thread) (line : Nat) (e : Elem) : Bool :=
  t.inflight.any fun x => !x.kind.writes && decide (x.mode ≠ .ro) && x.reqs.any fun r =>
    decide (r.line = line) && decide (r.st ≠ .answered) && (sectorsOf (readsOf r.elems)).getLsbD (e.byte / 32)

/-- What L1 does at the issue of a request that writes (R272): a store writes into it, an atomic invalidates the line. A
`KVMAP` acts as a store and a `KVAPPEND` as an atomic. -/
def Core.l1Issue (c : Core) (kind : AccessKind) (r : LineReq) : Core :=
  let c := c.noFill r.line
  match kind with
  | .store | .kvmap => { c with l1 := c.l1.map fun l => if l.line = r.line then l.store r.elems else l }
  | .atom | .cas | .red | .kvappend => { c with l1 := c.l1.filter fun l => decide (l.line ≠ r.line) }
  | _ => c

/-! ## Issue of an access (R187, R193) -/

/-- Add an element to the request of its line; `apart` keeps the halves of 128-bit elements in requests of their own (R328). -/
def addElem (mk : Nat → LineReq) (apart : Bool) (line : Nat) (e : Elem) (rs : List LineReq) : List LineReq :=
  match rs with
  | [] => [{ mk line with elems := [e] }]
  | r :: rest =>
    if r.line = line ∧ (!apart ∨ r.elems.all fun x => decide (x.off / 8 % 2 = e.off / 8 % 2)) then { r with elems := r.elems ++ [e] } :: rest
    else r :: addElem mk apart line e rest

/-- The request of one element of an access. -/
def Ctx.request (c : Ctx) (q : Ask) (tag : Nat) (e : TlbEntry) (line : Nat) : LineReq :=
  { owner := .access c.k c.a tag, tag := tag, die := dieOfCore c.k, domain := c.core.launch.domain, vid := c.core.vid,
    versioned := e.ver && decide (e.domain = c.core.launch.domain), line := line, cls := q.cls,
    distant := decide (q.mode = .st), elems := [], st := .pending, epoch := 0, missed := false, fill := 0#1024, fillBad := 0#4,
    plain := !e.ver, ordered := false, kept := false }

/-- A load that looks up L1 (R271, R338). -/
def Ask.looksUp (q : Ask) : Bool :=
  decide (q.kind = .load) && (decide (q.mode = .normal) || decide (q.mode = .consume) || decide (q.mode = .nf))

/-- The requests of the translated lanes: an element found in L1 is answered at once. -/
def Ctx.requests (c : Ctx) (q : Ask) (tag : Nat) (f : Found) : List LineReq × List LineReq :=
  q.wants.foldl (fun acc w =>
    let (hits, rs) := acc
    match f.entry w.lane with
    | none => acc
    | some e =>
      let pa := e.phys (vaNat w.va)
      let line := pa / 128
      let mk (n : Nat) : LineReq := { c.request q tag e n with ordered := q.tainted ≠ 0#32 }
      (w.elems q.size pa).foldl (fun acc el =>
        let (hits, rs) := acc
        match c.core.l1Line line with
        | some l =>
          if q.looksUp && l.holds el && decide (q.tainted = 0#32) && !(c.core.staleOf line).getLsbD (el.byte / 32) && !c.th.awaits line el then
            let got := el.value { data := l.data, bad := 0#128 }
            let el := { el with got := got, poison := l.poison.getLsbD (el.byte / 32) }
            (addElem (fun n => { mk n with st := .answered }) false line el hits, rs)
          else (hits, addElem mk (decide (q.size = 4)) line el rs)
        | none => (hits, addElem mk (decide (q.size = 4)) line el rs)) (hits, rs)) ([], [])

/-- The outstanding access that an instruction leaves. -/
def Ctx.outstanding (c : Ctx) (q : Ask) (tag : Nat) : Access :=
  { tag := tag, kind := q.kind, path := q.path, space := q.space, mode := q.mode, scalar := q.scalar, dst := q.dst,
    dests := q.dests, size := q.size, pc := c.iss.pc, lanes := q.lanes, absent := 0#32, reqs := [], elems := [], landed := [],
    extra := q.extra, taint := q.taint, stuck := false, done := false }

/-- Raise the counter: append an access, whose destinations earlier ones no longer write (R42). -/
def Ctx.append (c : Ctx) (x : Access) (s : State) : State :=
  let s := { s with seq := s.seq + 1 }
  s.updThread c.k c.a fun t =>
    let t := x.dests.foldl (fun t d => t.supersede d.1 d.2) t
    { t with inflight := t.inflight ++ [x] }

/-- The writes of an access to other dies keep their sectors pending (R280), and L1 acts on them (R272). -/
def Ctx.writesIssue (c : Ctx) (q : Ask) (tag : Nat) (rs : List LineReq) (s : State) : State :=
  if !q.kind.writes then s
  else rs.foldl (fun s r =>
    let d := dieOfCore c.k
    let s := s.updCore c.k fun x => x.l1Issue q.kind r
    if homeDie (r.line * 128) = d then s
    else s.updDie d fun x =>
      { x with pending := x.pending ++ [{ line := r.line, sectors := sectorsOf (writesOf r.elems), tag := tag }] }) s

/-- Perform step 7 of R187 for the lanes that remain, and go on. -/
def Ctx.send (c : Ctx) (q : Ask) (f : Found) (absent : W32) (s : State) : State :=
  let tag := s.seq
  let (hits, rs) := c.requests q tag f
  let x := { c.outstanding q tag with
    reqs := hits ++ rs
    absent := absent
    dests := if q.mode = .nf then q.dests else q.dests.map fun d => (d.1, if q.scalar then d.2 else d.2 &&& ~~~absent)
    lanes := if q.mode = .nf then q.lanes else q.lanes &&& ~~~absent }
  let s := c.append x s
  let s := hits.foldl (fun s r => s.updCore c.k fun x =>
    match x.l1Line r.line with | some l => { x with l1 := l1Insert x.l1 l } | none => x) s
  c.writesIssue q tag rs s

/-- Lanes that a page kept from performing have left as a fragment: the slot goes on with the rest, or is empty (R388). -/
def Ctx.nextAfterSplit (c : Ctx) (s : State) : State :=
  if ((s.thread c.k c.a).slot c.iss.slot).mask = 0#32 then
    (s.updSlot c.k c.a c.iss.slot fun sl => { sl with st := .live }).endRun c.k c.a |>.settle c.k c.a
  else (c.next s).settle c.k c.a

/-- The lanes that write to a plain page, or to a versioned page of another domain, from a non-zero version (R187, R282). -/
def Ctx.plainLanes (c : Ctx) (q : Ask) (f : Found) : W32 :=
  if !q.kind.writes || decide (c.core.vid = 0) then 0#32
  else maskOf fun i => match f.entry i with
    | some e => !(e.ver && decide (e.domain = c.core.launch.domain))
    | none => false

/-- A global access after its checks of alignment (R187, steps 4 to 7, R189, R386). -/
def Ctx.globalAccess (c : Ctx) (q : Ask) (s : State) : State :=
  let asid := c.core.launch.asid
  let (s, f) := s.translateAll c.k asid (if q.kind.writes then .write else .read) q.wants
  match f.fatal with
  | some (d, va) =>
    if c.core.squashed then s.discardFault c.k c.a else
    let x := { c.outstanding q s.seq with dests := [], stuck := true }
    c.next (c.append x (s.reportFatal c.k c.a d c.iss.pc va 0#8))
  | none =>
    if f.pending ≠ [] then c.wait .structural s
    else
      let gone : W32 := f.absentLanes
      let plain := c.plainLanes q f
      let refuse (s : State) : State := c.trapWith 0x0B#8 0#8 (q.failing plain) s
      if gone = 0#32 then (if plain ≠ 0#32 then refuse s else c.next (c.send q f 0#32 s))
      else if q.mode = .nf then c.next (c.send q f gone s)
      else
        let page := match f.absent with | p :: _ => p.2 | [] => 0
        if c.ap && c.core.squashed then s.discardFault c.k c.a
        else if c.ap then c.wait (.page asid page) (s.requestPages (dieOfCore c.k) asid f none)
        else
          let frag := ((s.core? c.k).bind Core.nextFragment).map fun i => (c.k, i)
          let lanes := if q.scalar then q.lanes else gone
          let (s, left) := s.splitFragment c.k c.a c.iss.slot lanes 0x20#8 (pageKey asid page) c.iss.pc
          let s := if left then s.requestPages (dieOfCore c.k) asid f frag else s
          if !left then s
          else if plain ≠ 0#32 then (refuse s).settle c.k c.a
          else if q.scalar || decide (q.lanes &&& ~~~gone = 0#32) then c.nextAfterSplit s
          else c.nextAfterSplit (c.send q f gone s)

/-- The elements of a core-local access; an operation on a transaction barrier is one. -/
def Ask.localElems (q : Ask) : List Elem :=
  match q.kind with
  | .load | .store => q.wants.flatMap fun w => w.elems q.size w.va.toNat
  | _ => q.wants.map fun w => w.elem q.size w.va.toNat

/-- Issue an access (R187, R193, R214). -/
def Ctx.access (c : Ctx) (q : Ask) (s : State) : State :=
  if c.th.counter q.path ≥ Config.counterLimit then c.wait .structural s
  else if q.misaligned ≠ 0#32 then c.trapWith 8#8 0#8 (q.failing q.misaligned) s
  else if q.outside (c.core.limit q.space) ≠ 0#32 then c.trapWith 8#8 1#8 (q.failing (q.outside (c.core.limit q.space))) s
  else if q.space = .global then c.globalAccess q s
  else
    c.next (c.append { c.outstanding q s.seq with elems := q.localElems } s)

/-! ## Core-local memories (R265 to R270) -/

/-- Every byte of a 32-byte sector is written by stores among the elements (R270). -/
def wholeSector (es : List Elem) (sec : Nat) : Bool :=
  let store (e : Elem) : Bool := match e.op with | .put _ => decide (e.size ≠ 5) | _ => false
  (List.range 32).all fun j => es.any fun e => store e && decide (e.va ≤ 32 * sec + j) && decide (32 * sec + j < e.va + sizeBytes e.size)

/-- Apply elements to a core-local memory and its poison marks, one after another; a mark clears when the stores of the access, with those of its elements
that were performed `before` (R328), write its whole sector (R270). -/
def applyLocal (es : List Elem) (m : Mem) (bad : List Nat) (before : List Elem := []) : List Elem × Mem × List Nat :=
  let (done, m') := es.foldl (fun (acc : List Elem × Mem) e =>
    let (done, m) := acc
    let n := sizeBytes e.size
    let mark := decide (bad.contains (e.va / 32))
    let l : LineBytes :=
      { data := BitVec.ofNat 1024 (m.readNat e.va n) <<< (8 * e.byte), bad := if mark then e.bytes else 0#128 }
    let old := e.value l
    let e' := { e with got := old, poison := mark }
    match e.result old l with
    | none => (done ++ [e'], m)
    | some v => (done ++ [e'], m.writeBytes e.va (bytesOfNat n v.toNat))) ([], m)
  (done, m', bad.filter fun sec => !wholeSector (before ++ es) sec)

/-- The memory and the poison marks of a core-local space. -/
def Core.local (c : Core) (sp : Space) : Mem × List Nat :=
  match sp with
  | .tw => (c.tw, c.twPoison)
  | .ta => (c.ta, c.taPoison)
  | .tc => (c.tc, c.tcPoison)
  | _ => (c.sh, c.shPoison)

/-- Replace the memory and the poison marks of a core-local space. -/
def Core.setLocal (c : Core) (sp : Space) (m : Mem) (bad : List Nat) : Core :=
  match sp with
  | .tw => { c with tw := m, twPoison := bad }
  | .ta => { c with ta := m, taPoison := bad }
  | .tc => { c with tc := m, tcPoison := bad }
  | _ => { c with sh := m, shPoison := bad }

/-- The key of a poison mark of a lane's slice of the lane store. -/
def laneSector (lane sec : Nat) : Nat := lane * 65536 + sec

/-- Apply elements to the lane store: each lane to its own slice (R265); a mark clears as in the other memories (R270). -/
def Thread.applyLanes (t : Thread) (es before : List Elem) : List Elem × Thread :=
  let (done, t) := es.foldl (fun acc e =>
    let (done, t) := acc
    let mine := (t.lsPoison.filter fun p => decide (p / 65536 = e.lane)).map fun p => p % 65536
    let (es', m, _) := applyLocal [e] (nth t.ls e.lane []) mine
    (done ++ es', { t with ls := alterAt t.ls e.lane fun _ => m })) ([], t)
  (done, { t with lsPoison := t.lsPoison.filter fun p => !wholeSector ((before ++ es).filter fun e => decide (e.lane = p / 65536)) (p % 65536) })

/-- Apply the elements of an access of a thread to the core-local space it names. -/
def Core.applyAccess (c : Core) (a : Nat) (x : Access) : List Elem × Core :=
  match x.space with
  | .ls =>
    let (es, t) := (c.thread a).applyLanes x.elems x.landed
    (es, c.updThread a fun _ => t)
  | sp =>
    let (m, bad) := c.local sp
    let (es, m, bad) := applyLocal x.elems m bad x.landed
    (es, c.setLocal sp m bad)

/-- What bytes of a core-local space hold. -/
def Core.localBytes (c : Core) (sp : Space) (addr len : Nat) : List W8 := (List.range len).map fun j => (c.local sp).1.read (addr + j)

/-- Note bytes of `tw:` or `ta:` that have been written over what is given, newest first: a command issued later reads the old or the new value of
those that a warp stored (R216), and undefined values of those of a copy; one that is queued or running reads the old or the new value (R234). `marks` are
the sectors of the space that were marked before. -/
def Core.loosen (c : Core) (n : Loose) (old : List W8) (marks : List Nat) : Core :=
  let n := { n with bad := marks.filter fun sec => decide (n.addr / 32 ≤ sec) && decide (32 * sec < n.addr + n.len) }
  { c with
    loose := { n with old := if n.warp.isSome then some old else none } :: c.loose
    mx := c.mx.map fun m => if m.st = .queued ∨ m.st = .running then { m with loose := { n with old := some old } :: m.loose } else m }

/-- What remains of a note when another says that bytes may be relied on. -/
def Loose.without (l n : Loose) : List Loose :=
  if l.space = n.space ∧ l.addr < n.addr + n.len ∧ n.addr < l.addr + l.len then
    let part (x y : Nat) : Loose :=
      { l with addr := x, len := y - x, old := l.old.map fun bs => (bs.drop (x - l.addr)).take (y - x) }
    (if l.addr < n.addr then [part l.addr n.addr] else []) ++
      (if n.addr + n.len < l.addr + l.len then [part (n.addr + n.len) (l.addr + l.len)] else [])
  else [l]

/-- The bytes of some notes may be relied on from now; so earlier notes no longer concern them (R216, R234). -/
def relyOn (p : Loose → Bool) (ls : List Loose) : List Loose :=
  ls.foldr (fun l rest => if p l then rest.flatMap fun x => x.without l else l :: rest) []

/-- Set lines full (R196, R208): the loads that wait for them can return. -/
def Core.setFull (c : Core) (lines : List Nat) : Core := { c with full := lines.foldl setAdd c.full }

/-- The lines of shared memory that elements touch. -/
def linesOf (es : List Elem) : List Nat := es.foldl (fun ls e => setAdd ls (e.va / 128)) []

/-! ## Delivery of a load (R42, R50, R51, R190, R194) -/

/-- The elements of a lane. -/
def Access.elemsOf (x : Access) (lane : Nat) : List Elem :=
  (x.landed ++ x.elems ++ x.reqs.flatMap fun r => r.elems).filter fun e => decide (e.lane = lane)

/-- What a lane receives, and its poison mark; a lane without an element receives zero (R194), and the halves of a 128-bit one are joined (R186). -/
def Access.laneValue (x : Access) (lane : Nat) : BitVec 128 × Bool :=
  (x.elemsOf lane).foldl (fun (a : BitVec 128 × Bool) e =>
    let got : BitVec 128 := if x.size = 4 ∧ e.off / 8 % 2 = 1 then e.got.shiftLeft 64 else e.got
    (a.1 ||| got, a.2 || e.poison)) (0#128, false)

/-- The address of a KV block and its replay bit, from the entry a lane read (R257). -/
def kvAddress (p : Pool) (entry : Nat) (add : W64) : Option W64 :=
  let b := entry % 2 ^ 24
  if 0 < b ∧ b < p.nblk then some (BitVec.ofNat 64 (b * p.bbytes) + add) else none

/-- The value that a lane of a `KVXL` receives: none for a lane out of range or unmapped. -/
def State.kvValue (s : State) (x : Access) (i : Nat) : Option W64 :=
  match s.pools.find x.dst, x.elemsOf i with
  | some p, e :: _ => if e.poison then some 0#64 else kvAddress p e.got.toNat (nth x.extra i 0#64)
  | _, _ => none

/-- What a lane of an access receives. -/
def State.received (s : State) (x : Access) (i : Nat) : BitVec 128 × Bool :=
  match x.kind with
  | .kvxl => (((s.kvValue x i).getD 0#64).setWidth 128, (x.laneValue i).2)
  | _ => x.laneValue i

/-- What a predicate receives: of a `KVXL` the lanes to replay (R257), of an `LD.nf` those whose page was present (R194). -/
def State.receivedPred (s : State) (x : Access) (n : Nat) : W32 :=
  match x.kind with
  | .kvxl => maskOf fun i => (s.kvValue x i).isNone
  | _ => if n = 5 then ~~~x.absent else 0#32

/-- Write word `k` of each selected lane's value into the destination `k` of an access. -/
def Thread.deliverWith (t : Thread) (value : Nat → BitVec 128 × Bool) (taint : W32) (dests : List (RegRef × W32)) (m : W32)
    (preds : Nat → W32) : Thread :=
  ((List.range dests.length).zip dests).foldl (fun t d =>
    let (k, r, lanes) := d
    let w := lanes &&& m
    match r with
    | .v n => t.setVMarks n w (fun i => (value i).1.extractLsb' (32 * k) 32) taint (maskOf fun i => (value i).2)
    | .s n => if bit lanes 0 then t.setSMarks n ((value 0).1.setWidth 64) (bit taint 0) (value 0).2 else t
    | .p n => t.setP n w (preds n)) t

/-! ## Run-ahead (R218, R273, R315) -/

/-- Read the core-local elements of an access without effect; lanes of an empty line are invalid (R218). -/
def Ctx.peekLocal (c : Ctx) (q : Ask) : List Elem × W32 :=
  let x := { c.outstanding q 0 with elems := q.localElems }
  let es := (c.core.applyAccess c.a x).1
  let empty (e : Elem) : Bool := decide (q.space = .sh) && !c.core.full.contains (e.va / 128)
  (es, maskOf fun i => es.any fun e => decide (e.lane = i) && (empty e || e.poison))

/-- Read a line in run-ahead, into its home slice only (R218, R273): a prefetch of class 4, whose value is valid only on a hit; or, for `LDC` and `.nf`, as
a normal load, whose answer is used where it is at hand (R52, R297; log 35). -/
def Ctx.prefetch (c : Ctx) (q : Ask) (r : LineReq) (s : State) : State × List Elem :=
  let normal := decide (q.mode = .consume) || decide (q.mode = .nf)
  let r := { r with cls := if normal then r.cls else 4, elems := r.elems.map fun e => { e with op := .read } }
  let s := if normal then s else s.countCore c.k fun x => { x with raPref := (x.raPref + 1) % 2 ^ 48 }
  let missing := s.peerMissing r
  if missing ≠ 0#4 then (s.askPeer r.line missing 0, [])
  else
    let ready := s.viewReady r.die (r.line * 128)
    let (s, r') := (s.wake (r.line * 128)).performReq r 0 0
    (s, if ready && (normal || !r'.missed) then r'.elems else [])

/-- What a global load in run-ahead finds: the lanes' pages, and the elements at hand. -/
def Ctx.aheadGlobal (c : Ctx) (q : Ask) (s : State) : State × Found × List Elem :=
  let (s, f) := s.translateLanes c.k c.core.launch.asid .read q.wants
  let (hits, rs) := c.requests q 0 f
  let (s, es) := rs.foldl (fun (acc : State × List Elem) r =>
    let (s, es) := c.prefetch q r acc.1
    (s, acc.2 ++ es)) (s, hits.flatMap fun r => r.elems)
  (s, f, es)

/-- A load in run-ahead, of the lanes whose guard and address are valid: what is at hand goes to the buffer; the other lanes are invalid, those of
fatal and of absent pages too, without a page request (R52, R218, R273, R315). `LD.nf` writes zero to a lane whose page is absent, and `p5` (R194, R218). -/
def Ctx.aheadLoad (c : Ctx) (q : Ask) (h : Ahead) (s : State) : State :=
  let blind := c.invalidLanes h
  let q := if q.scalar then (if blind = 0#32 then q else { q with wants := [] })
    else { q with wants := q.wants.filter fun w => !bit blind w.lane }
  if q.misaligned ≠ 0#32 ∨ q.outside (c.core.limit q.space) ≠ 0#32 then c.aheadMark h (c.pass ||| blind) s
  else
    let (s, f, es, bad) : State × Found × List Elem × W32 :=
      if q.space ≠ .global then
        let (es, bad) := c.peekLocal q
        (s, {}, es, bad)
      else
        let (s, f, es) := c.aheadGlobal q s
        (s, f, es, maskOf fun i => es.any fun e => decide (e.lane = i) && e.poison)
    let gone := if q.mode = .nf then f.absentLanes else 0#32
    let full (i : Nat) : Bool := decide ((es.filter fun e => decide (e.lane = i)).length = (if q.size = 4 then 2 else 1))
    let outOfRange (i : Nat) : Bool := decide (q.kind = .kvxl) && !(q.wants.any fun w => decide (w.lane = i))
    let bad := blind ||| bad ||| maskOf fun i => bit c.pass i && !full (if q.scalar then 0 else i) && !bit gone i && !outOfRange i
    let bad := if q.scalar then spread (decide (bad ≠ 0#32)) else bad
    let badPred := if q.mode = .nf then blind ||| maskOfLanes f.bad ||| maskOfLanes f.pending else bad
    let (vs, ps) := c.form.writeRefs.partition fun r => match r with | .p _ => false | _ => true
    match (h.markAll (c.pass ||| blind) bad vs).bind fun h => h.markAll (c.pass ||| blind) badPred ps with
    | none => s.exitAhead c.k c.a
    | some h' =>
      let x := { c.outstanding q 0 with elems := es, absent := gone }
      c.next (s.updThread c.k c.a fun t =>
        { t.deliverWith (s.received x) q.taint q.dests (if q.scalar then allLanes else c.pass) (s.receivedPred x) with ahead := some h' })

/-! ## The loads and stores -/

/-- The destinations of a lane load. -/
def Ctx.loadDests (c : Ctx) (d : BitVec 6) (size : BitVec 3) (mode : Mode) : List (RegRef × W32) :=
  ((regs d (sizeRegs size)).map fun n => (RegRef.v n, c.pass)) ++ (if mode = .nf then [(RegRef.p 5, c.pass)] else [])

/-- The counter of a load or a store in a space (R193). -/
def pathOf (sp : Space) (store : Bool) : Path := if sp = .global then (if store then .gs else .gl) else .lo

/-- The class of a load or store (R297). -/
def classOf (mode : Mode) : Nat := if mode = .ro then 6 else 0

/-- The lanes of a base scalar and an index whose address is tainted (R338). -/
def Ctx.taintedAddress (c : Ctx) (a : BitVec 6) (b : Option (BitVec 6)) : W32 :=
  spread (c.th.sreg a.toNat).taint ||| (match b with | some b => (c.th.vreg b.toNat).taint | none => 0#32)

/-- What a lane load asks for. -/
def Ctx.loadAsk (c : Ctx) (d : BitVec 6) (sp : Space) (size : BitVec 3) (mode : Mode) (addr : Nat → W64 × Nat)
    (tainted : W32) : Ask :=
  { kind := .load, path := pathOf sp false, space := sp, mode := mode, size := size.toNat, dests := c.loadDests d size mode,
    wants := (lanesOf c.pass).map fun i => { lane := i, va := (addr i).1, nib := (addr i).2, op := .read }, lanes := c.pass,
    tainted := tainted, taint := spread (decide (mode = .consume)), cls := classOf mode }

/-- The data of a lane store: its register, its pair or its quad (R186). -/
def Ctx.storeData (c : Ctx) (d : BitVec 6) (i : Nat) : BitVec 128 :=
  let w (k : Nat) : W32 := c.th.lane (d.toNat + k) i
  w 3 ++ w 2 ++ w 1 ++ w 0

/-- What a lane store asks for. -/
def Ctx.storeAsk (c : Ctx) (d : BitVec 6) (sp : Space) (size : BitVec 3) (mode : Mode) (addr : Nat → W64 × Nat) : Ask :=
  { kind := .store, path := pathOf sp true, space := sp, mode := mode, size := size.toNat,
    wants := (lanesOf c.pass).map fun i =>
      { lane := i, va := (addr i).1, nib := (addr i).2, op := .put (c.storeData d i) }, lanes := c.pass, cls := 0 }

/-- A format-E lane load of a major (R188). -/
def Ctx.loadE (c : Ctx) (major : Nat) (d a : BitVec 6) (o : BitVec 14) : Ask :=
  let t := attrOf (defaultAttr major) c.iss.xs
  let sp := spaceOf (attrSpace t)
  c.loadAsk d sp (attrSize t) (modeOf (attrMode t)) (c.addrE a o (attrSize t).toNat sp) (c.taintedAddress a none)

/-- A format-E lane store of a major (R188). -/
def Ctx.storeE (c : Ctx) (major : Nat) (d a : BitVec 6) (o : BitVec 14) : Ask :=
  let t := attrOf (defaultAttr major) c.iss.xs
  let sp := spaceOf (attrSpace t)
  c.storeAsk d sp (attrSize t) (modeOf (attrMode t)) (c.addrE a o (attrSize t).toNat sp)

/-- Issue a load. -/
def issueLoad (i : Instr) (q : Ctx → Ask) (s : State) : Out :=
  issueWith i noCheck (fun c s => c.access (q c) s) (fun c h s => c.aheadLoad (q c) h s) s

/-- Issue a store. -/
def issueStore (i : Instr) (q : Ctx → Ask) (s : State) : Out := issue i noCheck (fun c s => c.access (q c) s) s

/-- `LD`, format E (R188, R190). -/
def execLd (d a : BitVec 6) (o : BitVec 14) (s : State) : Out := issueLoad (.ld d a o) (fun c => c.loadE 0x12 d a o) s

/-- `LDC` (R195). -/
def execLdc (d a : BitVec 6) (o : BitVec 14) (s : State) : Out := issueLoad (.ldc d a o) (fun c => c.loadE 0x12 d a o) s

/-- `ST`, format E (R188, R190). -/
def execSt (d a : BitVec 6) (o : BitVec 14) (s : State) : Out := issueStore (.st d a o) (fun c => c.storeE 0x13 d a o) s

/-- A load of format F (R185, R188). -/
def execLdIndexed (d a b : BitVec 6) (sc : BitVec 2) (z m : BitVec 3) (s : State) : Out :=
  issueLoad (.ldIndexed d a b sc z m) (fun c =>
    c.loadAsk d (spaceOf (indexSpace c.iss.xs)) z (modeOf m) (c.addrF a b sc z.toNat) (c.taintedAddress a (some b))) s

/-- A store of format F (R185, R188). -/
def execStIndexed (d a b : BitVec 6) (sc : BitVec 2) (z m : BitVec 3) (s : State) : Out :=
  issueStore (.stIndexed d a b sc z m) (fun c =>
    c.storeAsk d (spaceOf (indexSpace c.iss.xs)) z (modeOf m) (c.addrF a b sc z.toNat)) s

/-- `LDSH` (R188, R196). -/
def execLdsh (d a : BitVec 6) (o : BitVec 14) (s : State) : Out := issueLoad (.ldsh d a o) (fun c => c.loadE 0x17 d a o) s

/-- `STSH` (R188, R196). -/
def execStsh (d a : BitVec 6) (o : BitVec 14) (s : State) : Out := issueStore (.stsh d a o) (fun c => c.storeE 0x17 d a o) s

/-- `LDL` (R188, R265). -/
def execLdl (d a : BitVec 6) (o : BitVec 14) (s : State) : Out := issueLoad (.ldl d a o) (fun c => c.loadE 0x17 d a o) s

/-- `STL` (R188, R265). -/
def execStl (d a : BitVec 6) (o : BitVec 14) (s : State) : Out := issueStore (.stl d a o) (fun c => c.storeE 0x17 d a o) s

/-- `LDTS` (R188, R269). -/
def execLdts (d a : BitVec 6) (o : BitVec 14) (s : State) : Out := issueLoad (.ldts d a o) (fun c => c.loadE 0x17 d a o) s

/-- `STTS` (R188, R269). -/
def execStts (d a : BitVec 6) (o : BitVec 14) (s : State) : Out := issueStore (.stts d a o) (fun c => c.storeE 0x17 d a o) s

/-- A scalar access: one part, in lane 0 (R189). -/
def Ctx.scalarAsk (c : Ctx) (kind : AccessKind) (path : Path) (sp : Space) (size : Nat) (mode : Mode) (va : W64)
    (op : ElemOp) (dests : List (RegRef × W32)) (tainted : Bool) : Ask :=
  { kind := kind, path := path, space := sp, mode := mode, size := size, dests := dests,
    wants := [{ lane := 0, va := va, nib := 0, op := op }], lanes := c.pass, tainted := spread tainted,
    taint := spread (decide (mode = .consume)), cls := classOf mode, scalar := true }

/-- `LDS` (R188, R189). -/
def execLds (d a : BitVec 6) (o : BitVec 14) (s : State) : Out :=
  issueLoad (.lds d a o) (fun c =>
    let t := attrOf (defaultAttr 0x16) c.iss.xs
    let sp := spaceOf (attrSpace t)
    c.scalarAsk .load (pathOf sp false) sp (attrSize t).toNat (modeOf (attrMode t)) (c.s a + c.offsetE o) .read
      [(.s d.toNat, allLanes)] (c.th.sreg a.toNat).taint) s

/-- `STS` (R188, R189). -/
def execSts (d a : BitVec 6) (o : BitVec 14) (s : State) : Out :=
  issueStore (.sts d a o) (fun c =>
    let t := attrOf (defaultAttr 0x16) c.iss.xs
    let sp := spaceOf (attrSpace t)
    c.scalarAsk .store (pathOf sp true) sp (attrSize t).toNat (modeOf (attrMode t)) (c.s a + c.offsetE o)
      (.put ((c.s d).setWidth 128)) [] (c.th.sreg a.toNat).taint) s

end Sys2Proof.Machine
end

