-- ==== Sys2Proof/Machine/Atomic.lean ====
section
/-! DEFINITION. Atomics of major 0x18 (R197 to R199). -/

namespace Sys2Proof.Machine

/-- The operation of a MOD [2:0] (R197). -/
def atomOpOf (m : BitVec 4) : AtomOp :=
  match m.toNat % 8 with
  | 0 => .add
  | 1 => .min
  | 2 => .max
  | 3 => .and
  | 4 => .or
  | 5 => .xor
  | 6 => .exch
  | _ => .fadd

/-- The operand is 64 bits wide (R197); `.bf16x2` is not. -/
def atomWide (m : BitVec 4) : Bool := m.getLsbD 3 && decide (m ≠ 15#4)

/-- The address of a lane of an atomic: `sA` + sext(`vB`), in the access processor `sA` + `sB` (R197). -/
def Ctx.atomAddr (c : Ctx) (a b : BitVec 6) (i : Nat) : W64 :=
  if c.ap then c.s a + c.s b else c.s a + (c.v b i).signExtend 64

/-- The operand of a lane of an atomic, `k` registers (or pairs) after `d`. -/
def Ctx.atomOperand (c : Ctx) (d : BitVec 6) (wide : Bool) (k i : Nat) : W64 :=
  if c.ap then c.th.sval (d.toNat + k)
  else if wide then c.th.lane (d.toNat + 2 * k + 1) i ++ c.th.lane (d.toNat + 2 * k) i
  else (c.th.lane (d.toNat + k) i).setWidth 64

/-- The lanes that an access of lane addresses acts for: lane 0 in the access processor (R218). -/
def Ctx.actLanes (c : Ctx) : List Nat := if c.ap then [0] else lanesOf c.pass

/-- What an atomic asks for: its kind, space and operations in ascending lane order, and the registers that it returns to. -/
def Ctx.atomAsk (c : Ctx) (kind : AccessKind) (sp : Space) (d a b : BitVec 6) (wide returns : Bool) (op : Nat → ElemOp) : Ask :=
  let back : List (RegRef × W32) :=
    if !returns then []
    else if c.ap then [(.s d.toNat, allLanes)]
    else (regs d (if wide then 2 else 1)).map fun n => (RegRef.v n, c.pass)
  { kind := kind, path := if sp = .sh then .lo else if returns then .gl else .gs, space := sp, size := if wide then 3 else 2,
    dests := back, wants := c.actLanes.map fun i => { lane := i, va := c.atomAddr a b i, nib := 0, op := op i },
    lanes := c.pass, taint := if c.ap then spread c.taintAny else c.taint, scalar := c.ap }

/-- A returning global atomic of a redundant block is refused by a trap (R199). DEDUCED, log 156: the trap comes before the misalignment check and the
wait on a full counter, neither of which R199 orders. -/
def Ctx.atomAccess (c : Ctx) (q : Ask) (s : State) : State :=
  if c.core.launch.redundant ∧ q.space = .global ∧ q.kind ≠ .red then c.trapWith 0x0E#8 0#8 c.pass s else c.access q s

/-- `ATOM` (R197, R198). -/
def execAtom (d a b : BitVec 6) (m : BitVec 4) (s : State) : Out :=
  issue (.atom d a b m) noCheck (fun c s =>
    c.atomAccess (c.atomAsk .atom .global d a b (atomWide m) true fun i =>
      .atom (atomOpOf m) (m.getLsbD 3) (c.atomOperand d (atomWide m) 0 i)) s) s

/-- `ATOMCAS` (R197, R198). -/
def execAtomcas (d a b : BitVec 6) (w : BitVec 1) (s : State) : Out :=
  let wide := decide (w = 1#1)
  issue (.atomcas d a b w) noCheck (fun c s =>
    c.atomAccess (c.atomAsk .cas .global d a b wide true fun i =>
      .cas wide (c.atomOperand d wide 0 i) (c.atomOperand d wide 1 i)) s) s

/-- `ATOMSH` (R197, R198). -/
def execAtomsh (d a b : BitVec 6) (m : BitVec 4) (s : State) : Out :=
  issue (.atomsh d a b m) noCheck (fun c s =>
    c.atomAccess (c.atomAsk .atom .sh d a b (atomWide m) true fun i =>
      .atom (atomOpOf m) (m.getLsbD 3) (c.atomOperand d (atomWide m) 0 i)) s) s

/-- `RED` (R197, R198, R199). -/
def execRed (d a b : BitVec 6) (m : BitVec 4) (s : State) : Out :=
  issue (.red d a b m) noCheck (fun c s =>
    c.atomAccess (c.atomAsk .red .global d a b (atomWide m) false fun i =>
      .atom (atomOpOf m) (m.getLsbD 3) (c.atomOperand d (atomWide m) 0 i)) s) s

end Sys2Proof.Machine
end

