-- ==== Sys2Proof/Machine/Control.lean ====
section
/-! DEFINITION. Control, divergence and system registers: majors 0x00 to 0x02 (R60 to R80, R114 to R135), and the steps of
joins and of trap entry. -/

namespace Sys2Proof.Machine

/-! ## NOP, YIELD and traps -/

/-- `NOP` (R118). -/
def execNop (s : State) : Out := issue .nop noCheck (fun c s => c.next s) s

/-- `YIELD` (R118): it ends the run and counts as a yield hint; in the access processor it is a `NOP`. One whose guard passes no lane has no
effect (log 132). -/
def execYield (s : State) : Out :=
  issue .yield noCheck (fun c s =>
    if c.ap then c.next s
    else (c.next (s.updThread c.k c.a fun t => { t with hint := .yield })).endRunOf c.k c.a c.iss.slot) s

/-- `TRAP #n` (R131). -/
def execTrap (n : BitVec 8) (s : State) : Out :=
  issue (.trap n) noCheck (fun c s =>
    c.trap { code := 0x0F#8, detail := n, resume := true, pc := c.iss.pc, mask := c.pass } s) s

/-- `BKPT #n` (R131). -/
def execBkpt (n : BitVec 8) (s : State) : Out :=
  issue (.bkpt n) noCheck (fun c s =>
    c.trap { code := 0x10#8, detail := n, resume := true, pc := c.iss.pc, mask := c.pass } s) s

/-- `RTT` outside a handler is an illegal instruction (R132). -/
def handlerCheck : Ctx → State → Option W8 := fun c _ =>
  if c.th.handler = some c.iss.slot then none else some 0x0F#8

/-- `RTT` (R69, R132). -/
def execRtt (s : State) : Out :=
  issue .rtt handlerCheck (fun c s => s.returnFromTrap c.k c.a c.iss.slot c.th.trapPc) s

/-- The word at a PC, through the instruction fetch (R85): none while it is on its way, 0 where it cannot be fetched. -/
def State.codeWord (s : State) (k : Nat) (pc : W64) : State × Option W32 :=
  match s.fetch k pc with
  | (s, .packet p) => (s, some (p.extractLsb' (32 * placeOf pc) 32))
  | (s, .fatal _) => (s, some 0#32)
  | (s, .pending) => (s, none)

/-- The PC after the instruction at a PC, past its XIMMs (R69, R99), in memory order: no loop test is made (log 131). None while a word is
on its way. -/
def State.afterInstr (s : State) (k : Nat) (fuel : Nat) (pc : W64) : State × Option W64 :=
  match fuel with
  | 0 => (s, some (nextPc pc))
  | n + 1 =>
    match s.codeWord k pc with
    | (s, some w) => if fld 26 6 w = 0x3F#6 then s.afterInstr k n (nextPc pc) else (s, some (nextPc pc))
    | (s, none) => (s, none)

/-- `RTT.adv` (R69, R132): it waits while the code that it reads past is being fetched. -/
def execRttAdv (s : State) : Out :=
  issue .rttAdv handlerCheck (fun c s =>
    match s.afterInstr c.k 3 c.th.trapPc with
    | (s, some pc) => s.returnFromTrap c.k c.a c.iss.slot pc
    | (s, none) => c.wait .structural s) s

/-! ## System registers (R60 to R80) -/

/-- The felt module that a warp's link registers show (R73, R77). -/
def State.linkModule (s : State) (t : Thread) : FeltModule :=
  nth (nth s.felts (t.wctl.extractLsb' 7 4).toNat Bundle.reset).modules (t.wctl.extractLsb' 4 3).toNat FeltModule.reset

/-- The value of a scalar system register (R60, R65 to R79). -/
def Ctx.readSys (c : Ctx) (s : State) (sel : Nat) : W64 :=
  let n (x : Nat) : W64 := BitVec.ofNat 64 x
  let dom := s.domain c.core.launch.domain
  let link := s.linkModule c.th
  match sel with
  | 0x001 => n c.a
  | 0x002 => c.th.role.setWidth 64
  | 0x003 => (c.th.slot c.iss.slot).fragId.setWidth 64
  | 0x010 => n c.core.block
  | 0x011 => n c.core.gang
  | 0x012 => n c.core.span
  | 0x013 => n c.core.vid
  | 0x014 => n c.core.launch.domain
  | 0x015 => (if c.th.inhibit then 2#64 else 0#64) ||| (if c.core.launch.ahead then 1#64 else 0#64)
  | 0x020 => c.th.trapCause.setWidth 64
  | 0x021 => c.th.trapPc
  | 0x022 => c.th.trapMask.setWidth 64
  | 0x030 => c.th.fpstat.setWidth 64
  | 0x031 => c.th.wctl.setWidth 64
  | 0x040 => n (coreNum c.k)
  | 0x041 => n (s.now - s.resetAt)
  | 0x050 => n (dieOfCore c.k)
  | 0x051 => 0x00000003#64
  | 0x052 => 0x000080C0#64
  | 0x053 => 0x20102010#64
  | 0x054 => 0x04100040#64
  | 0x060 => n link.rate
  | 0x061 => n link.width
  | 0x062 => n link.replays
  | 0x063 => n link.retired
  | 0x070 => dom.accept.setWidth 64
  | 0x071 => n (dom.proposed % 2 ^ 48)
  | 0x072 => n (dom.accepted % 2 ^ 48)
  | _ => 0#64

/-- A lane of a vector system register (R61, R80). -/
def Ctx.readSysLane (c : Ctx) (s : State) (sel lane : Nat) : W32 :=
  match sel with
  | 0x000 => BitVec.ofNat 32 lane
  | 0x073 => if lane < 12 then nth (s.die (dieOfCore c.k)).clock lane 0#32 else 0#32
  | _ => 0#32

/-- `MFS` (R61, R119). -/
def execMfs (d : BitVec 6) (e : BitVec 12) (s : State) : Out :=
  issue (.mfs d e) noCheck (fun c s =>
    if c.form.vw = [] then c.next (c.putS s d (c.readSys s e.toNat))
    else c.next (c.putV s d.toNat fun i => c.readSysLane s e.toNat i)) s

/-- Write a system register; a register or field that is read-only for the writer keeps its value (R62, R69, R71 to R75). -/
def Thread.writeSys (t : Thread) (sel : Nat) (v : W64) : Thread :=
  let x := v.setWidth 32
  match sel with
  | 0x015 => { t with inhibit := v.getLsbD 1 }
  | 0x021 =>
    if t.handler.isSome && decide (v.extractLsb' 2 2 ≠ 0#2) then { t with trapPc := v &&& ~~~3#64 } else t
  | 0x030 => { t with fpstat := x &&& 0x1F#32 }
  | 0x031 => { t with wctl := x &&& 0x7F3#32 }
  | _ => t

/-- `MTS` (R62, R119). -/
def execMts (t : BitVec 6) (e : BitVec 12) (s : State) : Out :=
  issue (.mts t e) noCheck (fun c s =>
    let v := c.s t
    c.next (s.updThread c.k c.a fun th => th.writeSys e.toNat v)) s

/-! ## EXIT -/

/-- Close every matrix command issued since the last `MBATCH` into one more batch (R233). -/
def Core.closeFinal (c : Core) : Core :=
  if c.mx.any fun m => decide (m.batch = c.curBatch) then { c with curBatch := c.curBatch + 1#32 } else c

/-- `EXIT` (R120). -/
def execExit (s : State) : Out :=
  issue .exit noCheck (fun c s =>
    if c.ap then
      let s := s.updCore c.k fun x =>
        { (x.updThread c.a fun t => { t with slotA := Slot.none, ended := true }).closeFinal with
          aq := x.aq.map fun q => { q with closed := true } }
      s.settleBatches c.k
    else (c.next s).exitLanes c.k c.a c.iss.slot c.pass) s

/-! ## Warp-wide transfers (R115, R116) -/

/-- A taken transfer: the slot goes on at a PC and the run ends (R117). -/
def Ctx.jump (c : Ctx) (pc : W64) (s : State) : State := (s.goto c.k c.a c.iss.slot pc).endRunOf c.k c.a c.iss.slot

/-- `JMP sA` (R115, R116). -/
def execJmp (a : BitVec 6) (s : State) : Out :=
  issue (.jmp a) noCheck (fun c s =>
    let t := c.s a
    if t &&& 0xF#64 ≠ 0#64 then c.trapWith 8#8 0#8 c.pass s else c.jump (slot1 t) s) s

/-- `CALL sD, sA` (R115, R116): the target is read before the link is written. -/
def execCallReg (d a : BitVec 6) (s : State) : Out :=
  issue (.callReg d a) noCheck (fun c s =>
    let t := c.s a
    if t &&& 0xF#64 ≠ 0#64 then c.trapWith 8#8 0#8 c.pass s
    else c.jump (slot1 t) (c.putS s d (nextPc c.iss.tpc))) s

/-- `CALL sD, #label` (R116). -/
def execCallDisp (d : BitVec 6) (s : State) : Out :=
  issue (.callDisp d) noCheck (fun c s =>
    c.jump (slot1 (c.target c.x)) (c.putSClean s d (nextPc c.iss.tpc))) s

/-- `RET sA` (R115, R116). -/
def execRet (a : BitVec 6) (s : State) : Out :=
  issue (.ret a) noCheck (fun c s =>
    let t := c.s a
    if t &&& 3#64 ≠ 0#64 then c.trapWith 8#8 0#8 c.pass s
    else c.jump (if placeOf t = 0 then slot1 t else t) s) s

/-- `BRA #label` (R97, R116). -/
def execBra (d : BitVec 26) (s : State) : Out :=
  issue (.bra d) noCheck (fun c s => c.jump (slot1 (c.target (c.disp26 d))) s) s

/-! ## Loops (R121, R122) -/

/-- The requirements of `LOOP`, in order (R121). -/
def loopCheck : Ctx → State → Option W8 := fun c _ =>
  if !c.ap && !c.core.converged c.a then some 0x0D#8
  else if c.x.slt 1#64 then some 0#8
  else if c.th.loops.length ≥ 4 then some 0x0E#8
  else none

/-- `LOOP sA, #label` (R121): the body begins after it, with no loop test of an outer entry whose end packet holds it (log 133). -/
def execLoop (a : BitVec 6) (s : State) : Out :=
  issue (.loop a) loopCheck (fun c s =>
    let n := (c.s a).setWidth 32
    let last := c.target c.x
    if n = 0#32 then c.jump (slot1 (last + 16#64)) s
    else
      let start := nextPc c.iss.tpc
      (s.updThread c.k c.a fun t => { t with loops := { start := start, last := last, count := n } :: t.loops }).goto
        c.k c.a c.iss.slot start) s

/-- `LOOPBRK` needs an entry on the loop stack (R122). -/
def loopbrkCheck : Ctx → State → Option W8 := fun c _ => if c.th.loops.isEmpty then some 0#8 else none

/-- `LOOPBRK` (R122). -/
def execLoopbrk (s : State) : Out :=
  issue .loopbrk loopbrkCheck (fun c s =>
    match c.th.loops with
    | [] => c.next s
    | l :: rest => c.jump (slot1 (l.last + 16#64)) (s.updThread c.k c.a fun t => { t with loops := rest })) s

/-! ## Divergence (R123 to R130) -/

/-- Push a frame for an instruction: the overflow trap beyond the block's depth, and a stall while the frame's page is absent
(R123, R367). -/
def Ctx.push (c : Ctx) (f : Frame) (s : State) (go : State → State) : State :=
  if c.th.stack.length ≥ c.core.launch.divFrames then c.trapWith 0x0C#8 0#8 c.pass s
  else
    let (s, ok) := s.pushReady c.k c.a
    if !ok then c.wait .structural s else go (s.pushFrame c.k c.a f)

/-- `BRV #label` (R125): the lanes that do not pass go on at the next PC, with no loop test. In run-ahead it acts when it is uniform (R133). -/
def execBrv (s : State) : Out :=
  issueWith .brv noCheck (fun c s =>
    let dest := slot1 (c.target c.x)
    let rest := c.mask &&& ~~~c.pass
    if rest = 0#32 then c.jump dest s
    else if c.th.ahead.isSome then s.exitAhead c.k c.a
    else
      let pc := nextPc c.iss.tpc
      let frag := (c.th.slot c.iss.slot).fragId
      let ra := (c.th.slot c.iss.slot).ra
      let split (s : State) : State :=
        (s.updThread c.k c.a fun t =>
          t.updSlot c.iss.slot fun sl => { sl with st := .live, pc := dest, mask := c.pass }).endRunOf c.k c.a c.iss.slot
      if (c.th.slot (otherSlot c.iss.slot)).st = .empty then
        split (s.updSlot c.k c.a (otherSlot c.iss.slot) fun _ =>
          { st := .live, pc := pc, mask := rest, ra := ra, fragId := frag })
      else c.push (.path pc rest ra frag) s split) (fun c _ s => s.exitAhead c.k c.a) s

/-- `RECONV #label` (R124). -/
def execReconv (s : State) : Out :=
  issue .reconv noCheck (fun c s =>
    let l := c.target c.x
    let f := Frame.join l c.mask 0#32 (c.th.slot c.iss.slot).ra
    c.push f s fun s => c.next (s.updSlot c.k c.a c.iss.slot fun sl => { sl with ra := some l })) s

/-- The topmost join frame of a list that takes a slot's lanes at an address: the list with them arrived (R126). -/
def arriveFrame (l : W64) (lanes : W32) (stack : List Frame) : Option (List Frame) :=
  match stack with
  | [] => none
  | .join m e arr sv :: rest =>
    if m = l ∧ lanes &&& ~~~e = 0#32 then some (.join m e (arr ||| lanes) sv :: rest)
    else (arriveFrame l lanes rest).map fun r => .join m e arr sv :: r
  | f :: rest => (arriveFrame l lanes rest).map fun r => f :: r

/-- A slot whose next PC is slot 1 of its reconvergence packet arrives, or loses its reconvergence address where no join
waits for it (R126). -/
def State.arriveAt (s : State) (k w : Nat) (sl : SlotId) : State :=
  let t := s.thread k w
  let x := t.slot sl
  match x.ra with
  | none => s
  | some l =>
    if x.st ≠ .live ∨ x.pc ≠ slot1 l then s
    else match arriveFrame l x.mask t.stack with
      | none => s.updSlot k w sl fun y => { y with ra := none }
      | some st =>
        let s := s.updThread k w fun t => { t.updSlot sl (fun _ => Slot.none) with stack := st }
        ((s.endRunOf k w sl).settle k w).writeFrames k w

/-- A slot is about to arrive at its reconvergence address (R126). -/
def State.arrives (s : State) (k w : Nat) (sl : SlotId) : Bool :=
  let t := s.thread k w
  let x := t.slot sl
  match x.ra with
  | none => false
  | some l => decide (x.st = .live) && decide (x.pc = slot1 l) && (arriveFrame l x.mask t.stack).isSome

/-- `RECONVERGENCE_ARRIVAL` (R126, R127): the slot that runs ahead ends it before it arrives (R133), and its warp's other slot waits. -/
def execReconvergenceArrival (core warp : Nat) (slot : SlotId) (s : State) : Out :=
  .next (match (s.thread core warp).ahead with
    | some h => if h.slot = slot then (if s.arrives core warp slot then s.exitAhead core warp else s) else s
    | none => s.arriveAt core warp slot)

/-- A `JOINW` is done when the waiting slot holds every live lane that it expects (R129). -/
def Core.joinDone (c : Core) (w : Nat) (mask expected : W32) : Bool :=
  decide (expected &&& c.live w &&& ~~~mask = 0#32)

/-- End a wait at `JOINW`: the predicate takes the gathered lanes (R129). -/
def State.endJoinw (s : State) (k w : Nat) (sl : SlotId) (pd : Nat) (tpc : W64) : State :=
  let m := ((s.thread k w).slot sl).mask
  let s := s.updThread k w fun t => t.outside fun t =>
    (((t.forget s.now (.p pd) allLanes).supersede (.p pd) allLanes).setP pd allLanes m).updSlot sl fun x => { x with fragId := 0xFF#8 }
  s.advance k w sl tpc

/-- A wait at `JOINW` whose limit has passed before a cycle has ended; a block that has been killed or halted ends none (R129, R398). -/
def State.expireJoinw (s : State) (k w : Nat) (sl : SlotId) (now : Nat) : State :=
  match (s.core? k).any fun c => c.acts, ((s.thread k w).slot sl).st with
  | true, .waiting (.joinw pd _ start limit tpc) => if limit > 0 ∧ start + limit < now then s.endJoinw k w sl pd tpc else s
  | _, _ => s

/-- A wait at `JOINW` whose slot holds every live lane it expects has ended (R129). -/
def State.fillJoinw (s : State) (k w : Nat) (sl : SlotId) : State :=
  match s.core? k with
  | none => s
  | some c =>
    let x := (c.thread w).slot sl
    match x.st with
    | .waiting (.joinw pd e _ _ tpc) => if c.acts && c.joinDone w x.mask e then s.endJoinw k w sl pd tpc else s
    | _ => s

/-- The lanes of a warp that a path frame or a fragment holds (R130). -/
def Core.stowed (c : Core) (w : Nat) : W32 :=
  (c.thread w).stack.foldl (fun m f => match f with | .path _ x _ _ => m ||| x | _ => m) (c.fragLanes w)

/-- A wait at `JOINW` cannot complete without lanes that a path frame or a fragment holds (R130). -/
def Core.joinStuck (c : Core) (w : Nat) (mask expected : W32) : Bool := decide (expected &&& c.stowed w &&& ~~~mask ≠ 0#32)

/-- The later of the cycles in which two waits at `JOINW` of a warp began that cannot complete without lanes held by a path frame or a fragment (R130). -/
def Core.stuckSince (c : Core) (w : Nat) : Option Nat :=
  let t := c.thread w
  match t.slotA.st, t.slotB.st with
  | .waiting (.joinw _ ea sa _ _), .waiting (.joinw _ eb sb _ _) =>
    if c.acts && c.joinStuck w t.slotA.mask ea && c.joinStuck w t.slotB.mask eb then some (max sa sb) else none
  | _, _ => none

/-- Both slots wait at `JOINW` and neither can complete: from the next cycle on the earlier wait has ended, and of two that began together that of
slot A (R130). -/
def State.breakJoinw (s : State) (k w : Nat) : State :=
  match (s.core? k).bind fun c => c.stuckSince w with
  | none => s
  | some n =>
    if s.now ≤ n then s
    else
      let t := s.thread k w
      match t.slotA.st, t.slotB.st with
      | .waiting (.joinw pa _ sa _ ta), .waiting (.joinw pb _ sb _ tb) =>
        if sb < sa then s.endJoinw k w .b pb tb else s.endJoinw k w .a pa ta
      | _, _ => s

/-- What the cycles before this one have done to the waits at `JOINW` of a warp: those that are done, those whose limit passed before two stuck ones
broke, the break, and the limits that have passed since (R129, R130). -/
def State.joinCycles (s : State) (k w : Nat) : State :=
  let s := (s.fillJoinw k w .a).fillJoinw k w .b
  let upTo := match (s.core? k).bind fun c => c.stuckSince w with | some n => min s.now (n + 1) | none => s.now
  let s := ((s.expireJoinw k w .a upTo).expireJoinw k w .b upTo).breakJoinw k w
  (s.expireJoinw k w .a s.now).expireJoinw k w .b s.now

/-- What the cycles before this one have done to the waits at `JOINW` of a block (R129, R130). -/
def State.joinsPassed (s : State) (k : Nat) : State := (List.range 16).foldl (fun s w => s.joinCycles k w) s

/-- The cycle in which a wait at `JOINW` of a slot is over unless lanes reach it (R129). -/
def Core.joinEnd (c : Core) (w : Nat) (sl : SlotId) : Option Nat :=
  let x := (c.thread w).slot sl
  match x.st with
  | .waiting (.joinw _ e start limit _) =>
    if c.joinDone w x.mask e then some 0 else if limit > 0 then some (start + limit + 1) else none
  | _ => none

/-- The first cycle in which a wait at `JOINW` of a block is over unless lanes reach it (R129, R130). -/
def Core.joinDue (c : Core) : Option Nat :=
  if !c.acts then none
  else (((List.range 16).flatMap fun w => [c.joinEnd w .a, c.joinEnd w .b, (c.stuckSince w).map fun n => n + 1]).filterMap id).foldl
    (fun m n => match m with | none => some n | some x => some (min x n)) none

/-- A negative timeout is illegal (R129). -/
def joinwCheck : Ctx → State → Option W8 := fun c _ => if c.x.slt 0#64 then some 0#8 else none

/-- `JOINW pD, sA, #t` (R129): it merges into a slot that waits at the same place, completes, or waits. -/
def execJoinw (d a : BitVec 6) (s : State) : Out :=
  issue (.joinw d a) joinwCheck (fun c s =>
    let e := (c.s a).setWidth 32
    let mine := c.th.slot c.iss.slot
    let s := (s.fillJoinw c.k c.a (otherSlot c.iss.slot)).expireJoinw c.k c.a (otherSlot c.iss.slot) s.now
    let other := (s.thread c.k c.a).slot (otherSlot c.iss.slot)
    let meets : Bool := match other.st with
      | .waiting (.joinw _ _ _ _ _) => decide (other.pc = mine.pc) && decide (other.ra = mine.ra)
      | _ => false
    if meets then
      let s := s.updThread c.k c.a fun t =>
        (t.updSlot (otherSlot c.iss.slot) fun x => { x with mask := x.mask ||| mine.mask }).updSlot c.iss.slot fun _ => Slot.none
      (s.endRunOf c.k c.a c.iss.slot).settle c.k c.a
    else if c.core.joinDone c.a mine.mask e then s.endJoinw c.k c.a c.iss.slot d.toNat c.iss.tpc
    else c.wait (.joinw d.toNat e s.now c.x.toNat c.iss.tpc) s) s

/-- `JOINW_COMPLETE` (R129): a waiting slot holds every live lane it expects. -/
def execJoinwComplete (core warp : Nat) (slot : SlotId) (s : State) : Out :=
  .next (s.fillJoinw core warp slot)

/-- `JOINW_TIMEOUT` (R129): the cycle of the limit has passed, with the arrivals made in it. -/
def execJoinwTimeout (core warp : Nat) (slot : SlotId) (s : State) : Out := .next (s.expireJoinw core warp slot s.now)

/-- `JOINW_DEADLOCK_BREAK` (R130): both slots wait at `JOINW` and neither can complete without lanes held by a path frame or a
fragment; from the next cycle on the earlier wait ends, and of two that began together that of slot A. -/
def execJoinwDeadlockBreak (core warp : Nat) (s : State) : Out := .next (s.breakJoinw core warp)

/-- `FRAGWAKE sA` (R128). -/
def execFragwake (a : BitVec 6) (s : State) : Out :=
  issue (.fragwake a) noCheck (fun c s =>
    let n := ((c.s a).setWidth 8 : W8)
    (c.next s).wakeFragments c.k fun i _ => decide (n = 0xFF#8) || decide (i = n.toNat)) s

/-! ## Trap entry and prefixes -/

/-- `XIMM` (R99): it is bound to the next slot; the issue carries its bits to the target. -/
def execXimm (x : BitVec 26) (s : State) : Out :=
  match s.cur with
  | none => .fault .noIssuer
  | some iss => .next { s with cur := some { iss with xs := iss.xs ++ [x], tpc := nextPc iss.tpc } }

/-- An instruction of majors 0x32 to 0x3E (R105): the emulation trap where the grid has an emulation handler; in the access
processor, and without a handler, an illegal instruction. -/
def execEmulatedMajor (w : BitVec 32) (s : State) : Out :=
  match s.cur with
  | none => .fault .noIssuer
  | some iss =>
    match s.core? iss.core with
    | none => .fault .noIssuer
    | some core =>
      let (c, s) := mkCtx iss core (.emulatedMajor w) s
      if c.th.ahead.isSome then .next (s.exitAhead c.k c.a)
      else if iss.xs.length > 2 then .next (c.trap (illegal 3#8 iss.pc c.pass) s)
      else if c.ap ∨ core.launch.emulEntry = 0xFFFFFFFF#32 then .next (c.trap (illegal 0x10#8 iss.pc c.pass) s)
      else
        let t : TrapInfo := { code := 7#8, detail := 0#8, resume := true, pc := iss.pc, mask := c.pass }
        if core.squashed then .next (c.trap t s)
        else if c.th.handler.isSome then .next (s.killBlock c.k 0x34#8 t.code c.a t.pc)
        else .next (s.enterHandler c.k c.a iss.slot t (core.launch.code + core.launch.emulEntry.setWidth 64))

/-- Take the oldest trap that is held for a warp, in a slot that would issue (R201). -/
def State.heldTrap (s : State) (core agent : Nat) (sl : SlotId) : State :=
  match (s.thread core agent).deferred with
  | [] => s
  | x :: rest =>
    let s := s.updThread core agent fun t => { t with deferred := rest }
    let m := ((s.thread core agent).slot sl).mask
    s.takeTrap core agent sl { x with mask := if x.mask = 0#32 then m else x.mask }

/-- Take the oldest link-degradation event that is held for a warp, in a slot that would issue (R68, R74). -/
def State.linkTrap (s : State) (core warp : Nat) (sl : SlotId) : State :=
  match (s.thread core warp).linkEvents with
  | [] => s
  | d :: rest =>
    let s := s.updThread core warp fun t => { t with linkEvents := rest }
    let x := (s.thread core warp).slot sl
    s.takeTrap core warp sl { code := 0x50#8, detail := d, resume := true, pc := x.pc, mask := x.mask }

end Sys2Proof.Machine
end

