-- ==== Sys2Proof/Machine/Sync.lean ====
section
/-! DEFINITION. Transaction barriers and full/empty bits (major 0x1A), and the waits and fences of major 0x1B (R206 to R209,
R213 to R216, R335 to R337). -/

namespace Sys2Proof.Machine

/-! ## Transaction barriers (R206) -/

/-- The fields of a transaction barrier (R206). -/
structure TransBar where
  phase : Nat
  pending : Nat
  arrivals : Nat
  lastErr : Nat
  arrived : Nat
  err : Nat
  expected : Nat
  reserved : Nat
  deriving DecidableEq, Repr

/-- Read a barrier from its 16 bytes; its reserved bits read as zero (R7). -/
def TransBar.read (n : Nat) : TransBar :=
  { expected := n % 2 ^ 24, err := n / 2 ^ 24 % 2 ^ 8, arrived := n / 2 ^ 32 % 2 ^ 24, lastErr := n / 2 ^ 56 % 2 ^ 8,
    arrivals := n / 2 ^ 64 % 2 ^ 16, pending := n / 2 ^ 80 % 2 ^ 16, phase := n / 2 ^ 96 % 2 ^ 16,
    reserved := 0 }

/-- The number that a barrier's 16 bytes hold after an operation on it; writes to its reserved bits are ignored (R7). -/
def TransBar.bits (b : TransBar) : Nat :=
  b.expected + b.err * 2 ^ 24 + b.arrived * 2 ^ 32 + b.lastErr * 2 ^ 56 + b.arrivals * 2 ^ 64 + b.pending * 2 ^ 80 +
    b.phase * 2 ^ 96

/-- Write an error code, if there is none yet (R204). -/
def TransBar.fail (b : TransBar) (code : Nat) : TransBar := if b.err = 0 then { b with err := code } else b

/-- The test after each operation: the phase completes when nothing is pending and the sectors are there (R206). -/
def TransBar.test (b : TransBar) : TransBar :=
  if b.pending = 0 ∧ b.expected ≤ b.arrived then
    let b := if b.expected < b.arrived then b.fail 2 else b
    { b with lastErr := b.err, err := 0, expected := 0, arrived := 0, pending := b.arrivals, phase := (b.phase + 1) % 2 ^ 16 }
  else b

/-- Sectors are counted (R203, R206). -/
def TransBar.count (n : Nat) (b : TransBar) : TransBar :=
  let x := b.arrived + n
  if x > 2 ^ 24 - 1 then { b.fail 2 with arrived := 2 ^ 24 - 1 } else { b with arrived := x }

/-- `TBINIT` (R207). -/
def TransBar.init (v : Nat) : TransBar :=
  let n := if v % 2 ^ 16 = 0 then 1 else v % 2 ^ 16
  { phase := 0, pending := n, arrivals := n, lastErr := 0, arrived := 0, err := 0, expected := 0, reserved := 0 }

/-- `TBEXPECT` (R207). -/
def TransBar.expect (v : Nat) (b : TransBar) : TransBar :=
  let x := b.expected + v % 2 ^ 24
  if x > 2 ^ 24 - 1 then { b.fail 2 with expected := 2 ^ 24 - 1 } else { b with expected := x }

/-- `TBARRIVE` (R207). -/
def TransBar.arrive (b : TransBar) : TransBar := if b.pending = 0 then b.fail 5 else { b with pending := b.pending - 1 }

/-- Phase `k` has completed (R207). -/
def TransBar.passed (b : TransBar) (k : Nat) : Bool :=
  let n := (b.phase + 2 ^ 16 - k % 2 ^ 16) % 2 ^ 16
  decide (1 ≤ n) && decide (n ≤ 2 ^ 15)

/-- The barrier at an address of shared memory. -/
def Core.transBar (c : Core) (addr : Nat) : TransBar := TransBar.read (c.sh.readNat addr 16)

/-- One operation on a barrier, then its test. -/
def Core.onBar (c : Core) (addr : Nat) (f : TransBar → TransBar) : Core :=
  { c with sh := c.sh.writeBytes addr (bytesOfNat 16 ((f (c.transBar addr)).test).bits) }

/-- `TBARRIVE` of a thread: the barrier learns what the thread knew at its issue (R207, R216). -/
def Core.arriveBar (c : Core) (a tag addr : Nat) : Core :=
  let ks := (c.knows a).map fun n => if n ≤ tag then n else 0
  { c.onBar addr TransBar.arrive with tbKnow := c.tbKnow.put addr (joinKnow ks ((c.tbKnow.find addr).getD [])) }

/-- `TBINIT`: nobody has arrived (R207). -/
def Core.initBar (c : Core) (addr v : Nat) : Core :=
  { c.onBar addr fun _ => TransBar.init v with tbKnow := c.tbKnow.del addr }

/-- The kinds of access that act on a barrier. -/
def AccessKind.onBarrier (x : AccessKind) : Bool :=
  match x with
  | .tbinit | .tbexpect | .tbarrive => true
  | _ => false

/-- An operation of a thread on a barrier is still outstanding; one numbered below `before`. -/
def Thread.barOutstanding (t : Thread) (addr before : Nat) : Bool :=
  t.inflight.any fun x => !x.done && x.kind.onBarrier && decide (x.tag < before) &&
    x.elems.any fun e => decide (e.va = addr)

/-- A `TBWAIT` can end: the phase has completed and the issuer's own operations on the barrier have taken effect (R207). -/
def Core.tbDone (c : Core) (a addr phase before : Nat) : Bool :=
  !(c.thread a).barOutstanding addr before && (c.transBar addr).passed phase

/-- The access processor knows of a `TFENCE` that follows the store of a note (R216). -/
def Loose.fenced (l : Loose) (know : List Nat) : Bool :=
  match l.warp, l.fence with
  | some w, some n => decide (n ≤ nth know w 0)
  | _, _ => false

/-- A completed `TBWAIT`: its barrier is named no longer (R398). Without an error it is an acquire (R339): the agent knows what those knew that had
arrived, and the access processor may rely on the bytes that copies with that barrier wrote, and that warps stored before a `TFENCE` that it knows
of (R216, R234). -/
def Core.endTbwait (c : Core) (a addr : Nat) : Core :=
  let c := { c with namedBars := setDel c.namedBars addr }
  if (c.transBar addr).lastErr ≠ 0 then c
  else
    let c := (c.learn a ((c.tbKnow.find addr).getD [])).acquireEngines
    if a < 16 then c else { c with loose := relyOn (fun l => decide (l.barrier = some addr) || l.fenced (c.knows a)) c.loose }

/-- What a completed `TBWAIT` writes (R207). -/
def Core.tbError (c : Core) (addr : Nat) : W64 := BitVec.ofNat 64 (c.transBar addr).lastErr

/-- A scalar register takes a result on its own, outside the issue of an instruction, unless one issued later has written it (R42). -/
def Thread.landS (t : Thread) (now n : Nat) (v : W64) (taint : Bool) : Thread :=
  if 64 ≤ n then t else t.outside fun t => ((t.forget now (.s n) allLanes).supersede (.s n) allLanes).setS n v taint

/-- End the wait of one slot at a `TBWAIT`, if it can end. -/
def State.wakeTbwait (s : State) (k a : Nat) (w : SlotId) : State :=
  match s.core? k with
  | none => s
  | some c =>
    match ((c.thread a).slot w).st with
    | .waiting (.tbwait d addr phase taint) =>
      if c.acts && c.tbDone a addr phase s.seq then
        ((s.updCore k fun c => c.endTbwait a addr).updThread k a fun t => t.landS s.now d (c.tbError addr) taint).advance k a w
          ((c.thread a).slot w).pc
      else s
    | _ => s

/-- End every `TBWAIT` of a block that can end. -/
def State.wakeBars (s : State) (k : Nat) : State :=
  (List.range 17).foldl (fun s a => (s.wakeTbwait k a .a).wakeTbwait k a .b) s

/-- What a barrier instruction asks for: one operation at one address, checked as a 16-byte access (R207). -/
def Ctx.barAsk (c : Ctx) (kind : AccessKind) (a : BitVec 6) (v : W64) : Ask :=
  { kind := kind, path := .lo, space := .sh, size := 4,
    wants := [{ lane := 0, va := c.s a, nib := 0, op := .put (v.setWidth 128) }], lanes := c.pass, scalar := true }

/-- `TBINIT` (R207). -/
def execTbinit (a b : BitVec 6) (s : State) : Out :=
  issue (.tbinit a b) noCheck (fun c s => c.access (c.barAsk .tbinit a (c.s b)) s) s

/-- `TBEXPECT` (R207). -/
def execTbexpect (a b : BitVec 6) (s : State) : Out :=
  issue (.tbexpect a b) noCheck (fun c s => c.access (c.barAsk .tbexpect a (c.s b)) s) s

/-- `TBARRIVE` (R207). -/
def execTbarrive (a : BitVec 6) (s : State) : Out :=
  issue (.tbarrive a) noCheck (fun c s => c.access (c.barAsk .tbarrive a 0#64) s) s

/-- `TBWAIT` (R207). -/
def execTbwait (d a b : BitVec 6) (s : State) : Out :=
  issue (.tbwait d a b) noCheck (fun c s =>
    let q := c.barAsk .tbexpect a 0#64
    let addr := (c.s a).toNat
    let phase := (c.s b).toNat % 2 ^ 16
    if q.misaligned ≠ 0#32 then c.trapWith 8#8 0#8 c.pass s
    else if q.outside c.core.launch.shared ≠ 0#32 then c.trapWith 8#8 1#8 c.pass s
    else if c.core.tbDone c.a addr phase s.seq then c.next (c.putS (s.updCore c.k fun x => x.endTbwait c.a addr) d (c.core.tbError addr))
    else c.wait (.tbwait d.toNat addr phase c.taintAny) s) s

/-! ## Full/empty bits (R196, R207, R208) -/

/-- The checks of an address of a full/empty instruction (R207). -/
def Ctx.lineFault (c : Ctx) (x : W64) (lines : Nat) : Option W8 :=
  if x.toNat % 128 ≠ 0 then some 0#8
  else if x.toNat + 128 * max 1 lines > c.core.launch.shared then some 1#8 else none

/-- `FEMARK` (R207). -/
def execFemark (a b : BitVec 6) (s : State) : Out :=
  issue (.femark a b) noCheck (fun c s =>
    let n := (c.s b).toNat % 2 ^ 12
    let x := (c.s a).toNat
    if c.th.counter .lo ≥ Config.counterLimit then c.wait .structural s
    else match c.lineFault (c.s a) n with
      | some d => c.trapWith 8#8 d c.pass s
      | none =>
        let q : Ask := { kind := .femark, path := .lo, space := .sh, size := 0, wants := [], lanes := c.pass }
        c.next (c.append { c.outstanding q s.seq with
          elems := (List.range n).map fun i =>
            { lane := 0, va := x + 128 * i, off := 0, size := 0, op := .put 0#128, got := 0#128, poison := false } } s)) s

/-- What a `FEPOLL` asks for: the line of each passing lane that lies in the allocation. -/
def Ctx.pollAccess (c : Ctx) (d a : BitVec 6) (tag : Nat) : Access :=
  let q : Ask :=
    { kind := .fepoll, path := .lo, space := .sh, size := 0, dests := [(.p d.toNat, if c.ap then allLanes else c.pass)],
      wants := [], lanes := c.pass, scalar := c.ap }
  { c.outstanding q tag with
    elems := (c.actLanes.filter fun i => decide ((c.s a).toNat + 128 * (i + 1) ≤ c.core.launch.shared)).map fun i =>
      { lane := i, va := (c.s a).toNat + 128 * i, off := 0, size := 0, op := .read, got := 0#128, poison := false } }

/-- The full bits that a `FEPOLL` reads (R207); in the access processor one bit (R144). -/
def Core.polled (c : Core) (x : Access) : W32 :=
  let full (i : Nat) : Bool := x.elems.any fun e => decide (e.lane = i) && c.full.contains (e.va / 128)
  if x.scalar then spread (full 0) else maskOf full

/-- `FEPOLL` (R207). In run-ahead it acts into the buffer (R218). -/
def execFepoll (d a : BitVec 6) (s : State) : Out :=
  issueWith (.fepoll d a) noCheck (fun c s =>
    if c.th.counter .lo ≥ Config.counterLimit then c.wait .structural s
    else match c.lineFault (c.s a) 0 with
      | some e => c.trapWith 8#8 e c.pass s
      | none => c.next (c.append (c.pollAccess d a s.seq) s)) (fun c h s =>
    let bad := c.invalidLanes h
    if (c.lineFault (c.s a) 0).isSome then c.aheadMark h (c.pass ||| bad) s
    else match h.markAll (c.pass ||| bad) bad c.form.writeRefs with
      | none => s.exitAhead c.k c.a
      | some h' =>
        let v := c.core.polled (c.pollAccess d a 0)
        c.next (s.updThread c.k c.a fun t => { t.setP d.toNat c.pass v with ahead := some h' })) s

/-! ## Counters, batches and the tile-store fence (R214 to R216) -/

/-- A path code (R209). -/
def pathCode (p : BitVec 2) : Path :=
  match p.toNat with
  | 0 => .gl
  | 1 => .gs
  | 2 => .lo
  | _ => .cp

/-- Wait for a counter (R214). -/
def Ctx.waitCounter (c : Ctx) (path : Path) (k : Nat) (s : State) : State :=
  if c.th.counter path ≤ k then c.next s else c.wait (.counter path k) s

/-- `WAITC.path sA` (R214). -/
def execWaitcReg (a : BitVec 6) (p : BitVec 2) (s : State) : Out :=
  issue (.waitcReg a p) noCheck (fun c s => c.waitCounter (pathCode p) (c.s a).toNat s) s

/-- `WAITC.path #k` (R214). -/
def execWaitcImm (k : BitVec 6) (p : BitVec 2) (s : State) : Out :=
  issue (.waitcImm k p) noCheck (fun c s => c.waitCounter (pathCode p) k.toNat s) s

/-- `WAITB sA` (R215). -/
def execWaitb (a : BitVec 6) (s : State) : Out :=
  issue (.waitb a) noCheck (fun c s =>
    let n : W32 := (c.s a).setWidth 32
    if c.core.batchDone n then c.next (s.updCore c.k Core.acquireEngines) else c.wait (.batch n.toNat) s) s

/-- `TFENCE` (R216): it waits until the warp's stores to `tw:` and `ta:` are written; a matrix command whose issue follows it through a
synchronisation of the block may rely on them. -/
def execTfence (s : State) : Out :=
  issue .tfence noCheck (fun c s =>
    if c.ap then c.next s
    else if c.th.inflight.any fun x => !x.done && decide (x.kind = .store) && (decide (x.space = .tw) || decide (x.space = .ta))
    then c.wait .structural s
    else
      let mark (l : Loose) : Loose := if l.warp = some c.a ∧ l.fence = none then { l with fence := some s.seq } else l
      let mine : List Nat := (List.range 16).map fun w => if w = c.a then s.seq else 0
      c.next ({ s with seq := s.seq + 1 }.updCore c.k fun x => { x.learn c.a mine with loose := x.loose.map mark })) s

/-! ## Fences (R213, R334 to R337) -/

/-- A fence's kind (R209). -/
def fenceKind (k : BitVec 6) : FenceKind :=
  match k.toNat with
  | 1 => .acq
  | 2 => .rel
  | 3 => .sc
  | _ => .ar

/-- A fence's scope (R209). -/
def fenceScope (s : BitVec 4) : Scope :=
  match s.toNat with
  | 0 => .warp
  | 1 => .block
  | 2 => .gang
  | 3 => .die
  | 4 => .pkg
  | 5 => .pod
  | _ => .sys

/-- The width of a scope, in the order of its codes. -/
def Scope.rank (x : Scope) : Nat :=
  match x with
  | .warp => 0
  | .block => 1
  | .gang => 2
  | .die => 3
  | .pkg => 4
  | .pod => 5
  | .sys => 6

/-- A fence that waits for earlier stores (R213). -/
def FenceKind.releases (k : FenceKind) : Bool := decide (k ≠ .acq)

/-- A fence that empties L1 (R213). -/
def FenceKind.acquires (k : FenceKind) : Bool := decide (k ≠ .rel)

/-- `FENCE` (R213): it waits, until `FENCE_COMPLETE` finds its conditions met. -/
def execFence (k : BitVec 6) (sc : BitVec 4) (s : State) : Out :=
  issue (.fence k sc) noCheck (fun c s => c.wait (.fence (fenceKind k) (fenceScope sc) none) s) s

/-- The accesses of a thread that a fence waits for have completed (R213). -/
def Thread.fenceReady (t : Thread) (k : FenceKind) : Bool :=
  t.inflight.all fun x => x.done || decide (x.kind = .copy) || (!k.releases && !x.kind.returns)

/-- The lines of host and peer memory (R336). -/
def isFar (line : Nat) : Bool := isHost (line * 128) || isPeer (line * 128)

/-- Write back every D sector of host and peer lines in every slice of the package (R336). -/
def State.writeBackFar (s : State) : State :=
  (List.range s.dies.length).foldl (fun s d =>
    (s.die d).slices.foldl (fun s sl =>
      sl.2.ways.foldl (fun s w =>
        if w.2.kind = .home ∧ isFar w.2.line ∧ w.2.dirty ≠ 0#4 then
          (s.writeBack w.2).updWay d sl.1 w.1 fun x => { x with dirty := 0#4 }
        else s) s) s) s

/-- A fill of a guest line of host or peer memory that is under way is not kept (R336). -/
def LineReq.dropFill (r : LineReq) : LineReq := if isFar r.line then { r with kept := false, epoch := 0 } else r

/-- The fills of a block that are under way are not kept (R336). -/
def Core.dropFills (c : Core) : Core :=
  { c with
    thr := c.thr.map fun t => { t with inflight := t.inflight.map fun x => { x with reqs := x.reqs.map LineReq.dropFill } }
    copies := c.copies.map fun x => { x with units := x.units.map fun u => { u with reads := u.reads.map LineReq.dropFill } } }

/-- Drop every C sector of host and peer lines and every guest copy of them (R336). -/
def State.dropFar (s : State) : State :=
  { s with cores := s.cores.map fun c => (c.1, c.2.dropFills), dies := s.dies.map fun d =>
      { d with slices := d.slices.map fun sl =>
          (sl.1, { sl.2 with ways := (sl.2.ways.filter fun w => !(decide (w.2.kind = .guest) && isFar w.2.line)).map fun w =>
            if w.2.kind = .home ∧ isFar w.2.line then (w.1, { w.2 with present := w.2.present &&& w.2.dirty }) else w }) } }

/-- Send a notice to every other die (R332). -/
def State.noticeAll (s : State) (die : Nat) : State :=
  let own := nth (s.die die).clock die 0#32
  let s := (List.range Config.dies).foldl (fun s e => if e = die then s else s.sendPlain die e (.notice own)) s
  s.updDie die fun d => { d with sinceNotice := false }

/-- Ask every other die to acknowledge a clock (R337). -/
def State.askAcks (s : State) (die : Nat) (v : List W32) : State :=
  (List.range Config.dies).foldl (fun s e => if e = die then s else s.sendPlain die e (.ackRequest v)) s

/-- Every other die has acknowledged a clock. -/
def State.acked (s : State) (die : Nat) (v : List W32) : Bool :=
  (List.range Config.dies).all fun e => decide (e = die) || (s.die die).acked.contains (e, v)

/-- From scope `.pod` on, the writes to the host and to peers below the numbers given are acknowledged (R336). -/
def State.farDone (s : State) (scope : Scope) (hostId uaId : Nat) : Bool :=
  decide (scope.rank < 5) || (s.host.writes.all fun w => decide (hostId ≤ w.1)) && s.ualink.out.all fun o =>
    decide (uaId ≤ o.id) || (match o.what with | .writeback _ _ _ _ => false | _ => true)

/-- A fence whose accesses have completed asks for what else it needs: a `.sc` fence sends a notice and asks for acknowledgements (R337). -/
def State.askFence (s : State) (k : Nat) (kind : FenceKind) (scope : Scope) : State × (List W32 × Nat × Nat) :=
  let die := dieOfCore k
  let s := if kind.releases ∧ 5 ≤ scope.rank then s.writeBackFar else s
  let v := s.clockOf die
  let s := if kind = .sc ∧ 4 ≤ scope.rank then (s.noticeAll die).askAcks die v else s
  (s, (v, s.host.nextId, s.ualink.nextId))

/-- What completing a fence does: a notice is sent (R332), L1 is emptied, and host and peer lines are dropped (R213, R336). -/
def State.endFence (s : State) (k : Nat) (kind : FenceKind) (scope : Scope) : State :=
  let s := if kind.releases ∧ 4 ≤ scope.rank then s.noticeAll (dieOfCore k) else s
  let s := if kind.acquires ∧ 2 ≤ scope.rank then s.updCore k Core.dropL1 else s
  if kind.acquires ∧ 5 ≤ scope.rank then s.dropFar else s

/-- Try to complete the fence that a slot waits in. -/
def State.tryFence (s : State) (k a : Nat) (w : SlotId) : State :=
  let sl := (s.thread k a).slot w
  match sl.st with
  | .waiting (.fence kind scope asked) =>
    if !s.blockActs k || !(s.thread k a).fenceReady kind || (kind.releases && decide (4 ≤ scope.rank) && s.updatesOut k a) then s
    else
      let (s, v, h, u) := match asked with
        | some x => (s, x)
        | none =>
          let (s, x) := s.askFence k kind scope
          (s.updSlot k a w fun y => { y with st := .waiting (.fence kind scope (some x)) }, x)
      let acks := decide (kind ≠ .sc) || decide (scope.rank < 4) || s.acked (dieOfCore k) v
      if acks && (!kind.releases || s.farDone scope h u) then (s.endFence k kind scope).advance k a w sl.pc else s
  | _ => s

/-- `FENCE_COMPLETE` (R213, R335 to R337): a fence of the agent whose conditions hold completes; one whose own accesses are
performed asks for what else it waits for. -/
def execFenceComplete (core agent : Nat) (s : State) : Out := .next ((s.tryFence core agent .a).tryFence core agent .b)

end Sys2Proof.Machine
end

