-- ==== Sys2Proof/Machine/Requests.lean ====
section
/-! DEFINITION. The way of a request: service by the slices of its own die and of its home (SLICE_REQUEST), messages applied
at other dies (REMOTE_WRITE_APPLY, GUEST_UPDATE_APPLY, GUEST_INVALIDATION_APPLY), replies (SLICE_REPLY_DELIVER), and the
completion of accesses (LOAD_DATA_RETURN, STORE_ACKNOWLEDGE). -/

namespace Sys2Proof.Machine

/-! ## Clocks and delivery (R330, R331) -/

/-- A reply of home die `h` with stamp `v` may be used on die `e` (R331). -/
def State.replyReady (s : State) (e h : Nat) (v : List W32) : Bool :=
  ((s.underWay h e).all fun m => !(m.body.causal && clockAtLeast (nth v h 0#32) (BitVec.ofNat 32 m.seq))) &&
    s.clockCovers e h v

/-- A causal message in the inbox of a die may be applied (R331). -/
def State.deliverable (s : State) (m : Msg) : Bool :=
  ((s.underWay m.src m.dst).all fun n => decide (n = m) || !n.body.causal ||
    clockAtLeast (BitVec.ofNat 32 n.seq) (BitVec.ofNat 32 m.seq)) && s.clockCovers m.dst m.src m.stamp

/-- Raise an entry of a clock. -/
def raiseEntry (clock : List W32) (k : Nat) (n : W32) : List W32 := if clockAtLeast (nth clock k 0#32) n then clock else clock.set k n

/-- Take a message out of an inbox and raise the clock (R331). -/
def State.accept (s : State) (die idx : Nat) (m : Msg) : State :=
  s.updDie die fun d => { d with inbox := dropAt d.inbox idx, clock := raiseEntry d.clock m.src (nth m.stamp m.src 0#32) }

/-! ## Service at the home slice -/

/-- What the home of a request answers: performed, waiting for sectors of a peer, or sent on to the peer (R440). -/
inductive HomeResult where
  | done (r : LineReq)
  | waits
  | sent
  deriving DecidableEq, Repr

/-- An element that reads and writes in one step. -/
def ElemOp.atomic (o : ElemOp) : Bool :=
  match o with
  | .atom _ _ _ => true
  | .cas _ _ _ => true
  | _ => false

/-- Ask the peer to perform atomics (R440): the line is written back and dropped first, so that the slice misses, and each element is one request. -/
def State.sendAtomics (s : State) (r : LineReq) : State :=
  let pa := r.line * 128
  let d := homeDie pa
  let k := sliceOf pa
  let s := match (s.slice d k).homeLine (setOf pa) r.line with
    | some (key, _) => s.evictWay d k key
    | none => s
  let s := (s.takeWaited r.line r.tag).1.countLookup d k r.cls false
  r.elems.foldl (fun s e => s.sendUa (pa + e.byte) (.atomic { r with elems := [e] })) s

/-- Send the dirty sectors of a line on to where they live (R279, R423, R426). -/
def State.flushLine (s : State) (pa : Nat) : State :=
  match (s.slice (homeDie pa) (sliceOf pa)).homeLine (setOf pa) (pa / 128) with
  | some (key, w) => (s.writeBack w).updWay (homeDie pa) (sliceOf pa) key fun x => { x with dirty := 0#4 }
  | none => s

/-- The stack of a line of HBM is in self-refresh, and requests wait while it exits (R277, R301). -/
def State.asleep (s : State) (pa : Nat) : Bool :=
  isHbm pa && (s.die (homeDie pa)).inRefresh.contains (2 * homeDie pa + sliceOf pa / 32)

/-- What an engine's request has sent to a peer names the request, which an error answer concerns (R425). -/
def State.sentFor (s : State) (first : Nat) (r : LineReq) : State :=
  let mine (o : UaOut) : Bool := decide (first ≤ o.id) && (match o.what with | .writeback line _ _ _ => decide (line = r.line) | _ => false)
  { s with ualink := { s.ualink with out := s.ualink.out.map fun o => if mine o then { o with for_ := some r } else o } }

/-- Serve a request at its home slice, unless its die holds back causal messages (R332). What a copy or a drain writes to a peer goes on to it at
once (R426). -/
def State.atHome (s : State) (r : LineReq) (core agent : Nat) : State × HomeResult :=
  let pa := r.line * 128
  let atPeer := isPeer pa && r.elems.any fun e => e.op.atomic
  let missing := (if atPeer then 0#4 else s.peerMissing r) ||| (if writesOf r.elems = 0#128 then 0#4 else s.mergeNeeds pa)
  if s.asleep pa || (s.die (homeDie pa)).holdsBack (homeDie pa) then (s, .waits) else
  if atPeer ∧ s.targetOf (homeDie pa) (sliceOf pa) r.domain r.vid r.versioned = .dropped then (s, .done r)
  else if missing ≠ 0#4 then (s.askPeer r.line missing r.tag, .waits)
  else if atPeer then ((s.mergeLine pa r.cls core agent).sendAtomics r, .sent)
  else
    let sends := isPeer pa && r.owner.isEngine && decide (writesOf r.elems ≠ 0#128) &&
      decide (s.targetOf (homeDie pa) (sliceOf pa) r.domain r.vid r.versioned = .committed)
    let first := s.ualink.nextId
    let (s, r) := s.performReq r core agent
    (if r.owner.isEngine then (if sends then s.flushLine pa else s).sentFor first r else s, .done r)

/-! ## The issuing die's own view (R280, R329) -/

/-- The sectors that a request reads. -/
def LineReq.sectors (r : LineReq) : BitVec 4 := sectorsOf (readsOf r.elems)

/-- The die may serve a read from a guest line (R280). -/
def LineReq.guestOk (r : LineReq) : Bool := (decide (r.vid = 0) || r.plain) && !r.distant

/-- A request has not been performed at its home. -/
def LineReq.open_ (r : LineReq) : Bool := decide (r.st = .pending) || decide (r.st = .sent)

/-- Earlier requests of the thread to the same line have been performed (R327). -/
def Thread.turn (t : Thread) (i line : Nat) : Bool :=
  (t.inflight.take i).all fun x => x.reqs.all fun r => decide (r.line ≠ line) || !r.open_

/-- The accesses of a line that come before a write in its own thread and have not been performed: the write waits for them (R327). -/
def State.beforeWrite (s : State) (p : PendingWrite) : List LineReq :=
  s.cores.flatMap fun c => c.2.thr.flatMap fun t => (List.range t.inflight.length).flatMap fun i =>
    match t.inflight[i]? with
    | some x =>
      if x.tag = p.tag ∧ x.reqs.any fun q => decide (q.line = p.line) && decide (q.st = .pending) then
        (t.inflight.take i).flatMap fun y => y.reqs.filter fun q => decide (q.line = p.line) && q.open_
      else []
    | none => []

/-- Writes that keep sectors of a read pending (R280). -/
def State.keepers (s : State) (r : LineReq) : List PendingWrite :=
  (s.die r.die).pending.filter fun p => decide (p.line = r.line) && decide (p.sectors &&& r.sectors ≠ 0#4)

/-- A write cannot go on before the read of a number has: that read comes before it in its thread, or a read does that another such write keeps
waiting. -/
def State.needsRead (s : State) (tag : Nat) (fuel : Nat) (p : PendingWrite) : Bool :=
  match fuel with
  | 0 => false
  | n + 1 => (s.beforeWrite p).any fun q =>
      decide (q.tag = tag) || (decide (writesOf q.elems = 0#128) && (s.keepers q).any fun w => decide (w.tag ≠ p.tag) && s.needsRead tag n w)

/-- A read that writes of this die keep waiting (R280): every write of the sectors, but for one that cannot go on before the read itself
has (log 33). -/
def State.keptWaiting (s : State) (r : LineReq) (tag : Nat) : Bool :=
  (s.keepers r).any fun p => !s.needsRead tag 8 p

/-- A request is a fill of a guest line whose answer is on its way to a die. -/
def LineReq.filling (r : LineReq) (die line : Nat) : Bool :=
  decide (r.die = die) && decide (r.line = line) && r.guestOk && decide (writesOf r.elems = 0#128) &&
    (match r.st with | .replied h _ => decide (h ≠ die) | _ => false)

/-- The fills of a guest line in flight: their homes and the clocks of the answers (R329). -/
def State.fillInFlight (s : State) (die line : Nat) : List (Nat × List W32) :=
  let pick (r : LineReq) : Option (Nat × List W32) :=
    if r.filling die line then (match r.st with | .replied h v => some (h, v) | _ => none) else none
  s.cores.flatMap fun c =>
    (c.2.thr.flatMap fun t => t.inflight.flatMap fun x => x.reqs.filterMap pick) ++
      c.2.copies.flatMap fun x => x.units.flatMap fun u => u.reads.filterMap pick

/-- An update or an invalidation waits for a fill of its line that the home had answered before it sent the message (R281, R329). -/
def State.fillFirst (s : State) (die line : Nat) (m : Msg) : Bool :=
  (s.fillInFlight die line).any fun f => decide (f.1 = m.src) && !clockAtLeast (nth f.2 m.src 0#32) (BitVec.ofNat 32 m.seq)

/-- Serve a read: from its home on the same die, where a miss is answered later; from the die's guest line; else from its home on another die, whose
answer carries the home's clock (R280, R331). While a fill of the guest line is in flight, later requests for the line wait for it (R329). None: it cannot
be served yet. -/
def State.serveRead (s : State) (r : LineReq) (tag core agent : Nat) : State × Option LineReq :=
  let pa := r.line * 128
  let h := homeDie pa
  let e := r.die
  let k := sliceOf pa
  let fromHome (s : State) (holds : Bool) : State × Option LineReq :=
    match s.atHome r core agent with
    | (s, .done r') =>
      let (s, kept) : State × Bool :=
        match if holds then (s.slice h k).homeLine (setOf pa) r.line else none with
        | some (key, _) => (s.updWay h k key fun w => { w with holders := w.holders ||| BitVec.ofNat 12 (2 ^ e) }, true)
        | none => (s, false)
      (s, some { r' with st := .replied h (s.clockOf h), kept := kept })
    | (s, _) => (s, none)
  if h = e then
    match s.atHome r core agent with
    | (s, .done r') => (s, some { r' with st := if r'.missed then .replied h (s.clockOf h) else .answered })
    | (s, _) => (s, none)
  else if s.keptWaiting r tag || !(s.fillInFlight e r.line).isEmpty then (s, none)
  else if !r.guestOk then fromHome s false
  else
    match (s.slice e k).guestLine (setOf pa) r.line with
    | some (key, w) =>
      if r.sectors &&& ~~~w.present = 0#4 then
        let l : LineBytes := { data := w.data, bad := bytesOfSectors w.poison }
        let s := (s.countLookup e k r.cls true).updWay e k key fun w => { w with rrpv := 0 }
        (s, some { r with elems := (applyElems r.elems l 0#128).1, st := .answered, fill := w.data, fillBad := w.poison })
      else match fromHome s true with
        | (s, some r') => (s.countLookup e k r.cls false, some { r' with missed := true })
        | x => x
    | none => match fromHome s true with
      | (s, some r') => (s.countLookup e k r.cls false, some { r' with missed := true })
      | x => x

/-- Serve a write: at its home on the same die, else by a causal message (R330), once no fill of the die's guest line is in flight (R329). Where its access
returns something (`returns`) and the slice missed, the answer follows later (R359). None: it cannot be served yet. -/
def State.serveWrite (s : State) (r : LineReq) (returns : Bool) (core agent : Nat) : State × Option LineReq :=
  let pa := r.line * 128
  let h := homeDie pa
  if h = r.die then
    match s.atHome r core agent with
    | (s, .done r') => (s, some { r' with st := if returns && r'.missed then .replied h (s.clockOf h) else .answered })
    | (s, .sent) => (s, some { r with st := .sent, missed := true })
    | (s, .waits) => (s, none)
  else if s.stopped || (s.die r.die).holdsBack r.die || !(s.fillInFlight r.die r.line).isEmpty then (s, none)
  else
    let leaf := 2 * clusterOfCore core
    (s.sendCausal r.die [h] leaf (lineIndex pa) (.write r), some { r with st := .sent })

/-! ## Loads through the read-only path (R274) -/

/-- No version on the chain has written the line. -/
def State.untouched (s : State) (r : LineReq) : Bool :=
  let pa := r.line * 128
  let d := homeDie pa
  let k := sliceOf pa
  if r.vid = 0 || !r.versioned then true
  else
    let chain := s.chain d k r.domain 17 r.vid
    ((s.slice d k).copies (setOf pa) r.line).all fun c => !(decide (c.domain = r.domain) && chain.contains c.vid && decide (c.mask ≠ 0#128))

/-- Read a line in a block's view from its home slice, at class 6 (R274, R297). -/
def State.fetchView (s : State) (r : LineReq) : State × LineRead :=
  let rest := s.untouched r
  let (s, a) := (s.wake (r.line * 128)).performReq { r with cls := 6, elems := lineReads (r.line * 128) } 0 0
  (s, { data := a.fill, bad := a.fillBad, untouched := rest, missed := a.missed })

/-- Serve a read through the cluster's read-only cache; an answer of another die is held as any other (R331). What the slice missed is answered
later (R359). -/
def State.serveReadOnly (s : State) (r : LineReq) (core : Nat) : State × Option LineReq :=
  let missing := s.peerMissing { r with elems := lineReads (r.line * 128) }
  if missing ≠ 0#4 then (s.askPeer r.line missing r.tag, none)
  else if !s.viewReady r.die (r.line * 128) then (s, none)
  else
    let (s, x) := s.readOnlyLine core r.domain r.vid r.line fun s => s.fetchView r
    let l : LineBytes := { data := x.data, bad := bytesOfSectors x.bad }
    (s, some { r with elems := (applyElems r.elems l 0#128).1, missed := x.missed, st := if x.missed then .replied r.die (s.clockOf r.die) else .answered })

/-! ## SLICE_REQUEST -/

/-- Change one request of a thread. -/
def State.updReq (s : State) (k a i j : Nat) (f : LineReq → LineReq) : State :=
  s.updThread k a fun t =>
    { t with inflight := alterAt t.inflight i fun x => { x with reqs := alterAt x.reqs j f } }

/-- Earlier writes of the block to the line of a request have been performed: a load may have taken their bytes from L1 (R272, R327). -/
def Core.lineClear (c : Core) (r : LineReq) : Bool :=
  let past (q : LineReq) : Bool := decide (q.line ≠ r.line) || decide (r.tag ≤ q.tag) || decide (writesOf q.elems = 0#128) || !q.open_
  (c.thr.all fun t => t.inflight.all fun x => x.reqs.all past) &&
    c.mx.all fun m => match m.st with
      | .draining run => run.writes.all past
      | _ => true

/-- The turn of a request has come: earlier requests of its thread to the line have been performed, and earlier writes of the block (R327). -/
def Core.turn (c : Core) (a i : Nat) (r : LineReq) : Bool := (c.thread a).turn i r.line && c.lineClear r

/-- The block has a write to a line under way, or a load whose answer says otherwise may not fill L1 (R272). -/
def Core.writesOut (c : Core) (line : Nat) : Bool :=
  c.thr.any fun t => t.inflight.any fun x => x.kind.writes && x.reqs.any fun r =>
    decide (r.line = line) && decide (r.st ≠ .answered)

/-- A load whose answer may be kept in L1 (R271). -/
def Access.fillsL1 (x : Access) : Bool :=
  decide (x.kind = .load) && (decide (x.mode = .normal) || decide (x.mode = .consume) || decide (x.mode = .nf))

/-- What an answer does to L1 (R271, R272): sectors that may be kept fill it. DEDUCED (log 129): a sector that L1 holds with other bytes is replaced; where
the load may not fill L1, later loads are not served from it, since they may not return the older bytes (R327). -/
def Core.l1Answer (c : Core) (x : Access) (r : LineReq) : Core :=
  if x.mode = .ro ∨ x.kind.writes then c
  else
    let need := r.sectors
    let old := (c.l1Line r.line).getD { line := r.line, data := 0#1024, valid := 0#4, poison := 0#4 }
    let differs : BitVec 4 := BitVec.ofNat 4 ((List.range 4).foldl (fun acc i =>
      if need.getLsbD i && old.valid.getLsbD i &&
          decide (old.data.extractLsb' (256 * i) 256 ≠ r.fill.extractLsb' (256 * i) 256) then acc + 2 ^ i else acc) 0)
    let add := need &&& (~~~old.valid ||| differs ||| c.staleOf r.line)
    if x.fillsL1 && decide (r.epoch = c.l1Epoch + 1) then
      if add = 0#4 then c
      else
        let l : L1Line :=
          { line := r.line, data := putBytes old.data r.fill (bytesOfSectors add), valid := old.valid ||| add,
            poison := (old.poison &&& ~~~add) ||| (r.fillBad &&& add) }
        { c.noFill r.line with
          l1 := l1Insert c.l1 l
          stale := (r.line, c.staleOf r.line &&& ~~~add) :: c.stale.filter fun y => decide (y.1 ≠ r.line) }
    else if differs = 0#4 then c
    else c.distrust r.line differs

/-- An answer reaches the core: the request is answered, and L1 acts on it. -/
def State.answerReq (s : State) (k a i j : Nat) (r : LineReq) : State :=
  let s := s.updReq k a i j fun _ => { r with st := .answered }
  match (s.thread k a).inflight[i]? with
  | some x => s.updCore k fun c => c.l1Answer x r
  | none => s

/-- Serve request `j` of access `i` of a thread. -/
def State.serveReq (s : State) (k a i j : Nat) : State :=
  match s.core? k, (s.thread k a).inflight[i]? with
  | some c, some x =>
    match x.reqs[j]? with
    | some r =>
      if r.st ≠ .pending ∨ x.stuck ∨ !c.turn a i r then s
      else
        let writes := decide (writesOf r.elems ≠ 0#128)
        let missed := !writes && decide (s.peerMissing r ≠ 0#4)
        let (s, ans) :=
          if writes then s.serveWrite r x.kind.returns k a
          else if x.mode = .ro && !r.ordered then s.serveReadOnly r k
          else s.serveRead r x.tag k a
        match ans with
        | none => if missed then s.updReq k a i j fun r => { r with missed := true } else s
        | some r' =>
          let r' := { r' with epoch := if c.writesOut r.line then 0 else c.l1Epoch + 1 }
          if r'.st = .answered then s.answerReq k a i j r' else s.updReq k a i j fun _ => r'
    | none => s
  | _, _ => s

/-! ## Reads and writes of an engine -/

/-- Put the sectors of an answer into the die's guest line (R280), where the home keeps its holder bit; where no way can hold it the answer is used
without a line (R288). -/
def State.fillGuest (s : State) (r : LineReq) : State :=
  let pa := r.line * 128
  let d := r.die
  let k := sliceOf pa
  let set := setOf pa
  let put (s : State) (key : Nat) : State :=
    s.updWay d k key fun w =>
      { w with data := putBytes w.data r.fill (bytesOfSectors r.sectors), present := w.present ||| r.sectors
               poison := (w.poison &&& ~~~r.sectors) ||| (r.fillBad &&& r.sectors) }
  match (s.slice d k).guestLine set r.line with
  | some (key, _) => put s key
  | none => match s.claimWay d k set with
    | (s, some key) => put (s.insertWay d k key r.cls r.distant (Way.fresh .guest r.line)) key
    | (s, none) => s.spillExhausted d

/-- An answer is a fill that the die's guest line takes. -/
def LineReq.fillsGuest (r : LineReq) : Bool := r.filling r.die r.line && r.kept

/-- Use a fill of a guest line. -/
def State.useFill (s : State) (r : LineReq) : State := if r.fillsGuest then s.fillGuest r else s

/-- An answer may be used (R331); one that may claim a way for a guest line waits while the die holds back the messages which that can send (R332). -/
def State.usable (s : State) (r : LineReq) (h : Nat) (v : List W32) : Bool :=
  s.replyReady r.die h v && !(r.fillsGuest && (s.die r.die).holdsBack r.die)

/-- A write performed at its home keeps its sectors pending no longer (R280). -/
def State.clearPending (s : State) (r : LineReq) : State :=
  s.updDie r.die fun d =>
    { d with pending := d.pending.erase { line := r.line, sectors := sectorsOf (writesOf r.elems), tag := r.tag } }

/-- Bring reads one stage further: ask the slices, and take answers that may be used (R331). -/
def State.moveReads (s : State) (rs : List LineReq) (tag core agent : Nat) : State × List LineReq :=
  rs.foldl (fun acc r =>
    let (s, done) := acc
    match r.st with
    | .pending => match s.serveRead r tag core agent with
      | (s, some r') => (s, done ++ [r'])
      | (s, none) => (s, done ++ [r])
    | .replied h v =>
      if s.usable r h v then
        (s.useFill r, done ++ [{ r with st := .answered }])
      else (s, done ++ [r])
    | _ => (s, done ++ [r])) (s, [])

/-- Bring writes one stage further. -/
def State.moveWrites (s : State) (rs : List LineReq) (core agent : Nat) : State × List LineReq :=
  rs.foldl (fun acc r =>
    let (s, done) := acc
    match r.st with
    | .pending => match s.serveWrite r false core agent with
      | (s, some r') => (s, done ++ [r'])
      | (s, none) => (s, done ++ [r])
    | .replied h v =>
      if s.replyReady r.die h v then (s.clearPending r, done ++ [{ r with st := .answered }]) else (s, done ++ [r])
    | _ => (s, done ++ [r])) (s, [])

/-- Bring the writes of a drain one stage further, each in the order of the block's writes to its line (R272). -/
def State.moveDrain (s : State) (k idx : Nat) : State :=
  match (s.core? k).bind fun c => (c.mx[idx]?).map fun m => (c, m) with
  | some (c, m) =>
    match m.st with
    | .draining run =>
      let (s, ws) := run.writes.foldl (fun (acc : State × List LineReq) r =>
        if r.st = .pending && !c.lineClear r then (acc.1, acc.2 ++ [r])
        else
          let (s, rs) := acc.1.moveWrites [r] k 18
          (s, acc.2 ++ rs)) (s, [])
      s.updCore k fun c => { c with mx := c.mx.map fun x => if x.id = m.id then { x with st := .draining { run with writes := ws } } else x }
    | _ => s
  | none => s

/-- `SLICE_REQUEST` (R278, R280): the slices serve one request of an access: access `idx` mod 256 among the outstanding ones,
its request `idx` / 256; of the epilogue processor, the writes of command `idx`. -/
def execSliceRequest (core agent idx : Nat) (s : State) : Out :=
  .next (if agent = epiAgent then s.moveDrain core idx else s.serveReq core agent (idx % 256) (idx / 256))

/-! ## SLICE_REPLY_DELIVER -/

/-- Use the answer of request `j` of access `i`, where R331 allows it. -/
def State.deliverReply (s : State) (k a i j : Nat) : State :=
  match (s.thread k a).inflight[i]? with
  | some x =>
    match x.reqs[j]? with
    | some r =>
      match r.st with
      | .replied h v =>
        if !s.usable r h v then s
        else
          ((s.useFill r).clearPending r).answerReq k a i j r
      | _ => s
    | none => s
  | none => s

/-- `SLICE_REPLY_DELIVER` (R331): a reply from another die is held until the die's clock allows it. -/
def execSliceReplyDeliver (core agent idx : Nat) (s : State) : Out :=
  .next (if agent = epiAgent then s.moveDrain core idx else s.deliverReply core agent (idx % 256) (idx / 256))

/-! ## Messages applied at a die -/

/-- The places in its line of a request's elements, which tell the halves of 128-bit elements apart. -/
def LineReq.places (r : LineReq) : List Nat := r.elems.map fun e => e.off

/-- Change the sent requests of a line that an owner names and a test picks, wherever they stand. -/
def State.updOwned (s : State) (o : Owner) (line : Nat) (hit : LineReq → Bool) (f : LineReq → LineReq) : State :=
  let on (r : LineReq) : LineReq := if r.line = line ∧ r.st = .sent ∧ hit r then f r else r
  match o with
  | .access k a tag =>
    s.updThread k a fun t => { t with inflight := t.inflight.map fun x =>
      if x.tag = tag then { x with reqs := x.reqs.map on } else x }
  | .copy k id unit =>
    s.updCore k fun c => { c with copies := c.copies.map fun x =>
      if x.id = id then { x with units := x.units.map fun u =>
        if u.unit = unit then { u with writes := u.writes.map on } else u } else x }
  | .drain k id =>
    s.updCore k fun c => { c with mx := c.mx.map fun m =>
      if m.id = id then { m with st := match m.st with
        | .draining run => .draining { run with writes := run.writes.map on }
        | x => x } else m }
  | _ => s

/-- Someone still waits for the answer of a request that was sent: the command of an engine that has failed does not. -/
def State.owns (s : State) (r : LineReq) : Bool :=
  match r.owner with
  | .copy k id unit => (s.core? k).any fun c => c.copies.any fun x => decide (x.id = id) && x.units.any fun u => decide (u.unit = unit)
  | .drain k id => (s.core? k).any fun c => c.mx.any fun m => decide (m.id = id) &&
      (match m.st with | .draining _ => true | _ => false)
  | _ => true

/-- The core and the agent of an owner. -/
def Owner.who (o : Owner) : Nat × Nat :=
  match o with
  | .access k a _ => (k, a)
  | .copy k _ _ => (k, 17)
  | .drain k _ => (k, 18)
  | _ => (0, 19)

/-- `REMOTE_WRITE_APPLY` (R330, R331): a write from another die is performed at its home slice, which answers with its
clock. -/
def execRemoteWriteApply (die idx : Nat) (s : State) : Out :=
  .next (match (s.die die).inbox[idx]? with
    | some m =>
      match m.body with
      | .write r =>
        if !s.deliverable m then s
        else
          let (core, agent) := r.owner.who
          match (s.accept die idx m).atHome r core agent with
          | (_, .waits) => (s.atHome r core agent).1
          | (s, .sent) => s.updOwned r.owner r.line (fun q => decide (q.places = r.places)) fun q => { q with missed := true }
          | (s, .done r') =>
            let v := s.clockOf die
            let s := if s.owns r then s else s.clearPending r
            s.updOwned r.owner r.line (fun q => decide (q.places = r.places)) fun q => { r' with st := .replied die v, epoch := q.epoch }
      | _ => s
    | none => s)

/-- `GUEST_UPDATE_APPLY` (R281, R329): all sectors of an update enter the die's view in one step; one for a line that is no
longer there is dropped. -/
def execGuestUpdateApply (die idx : Nat) (s : State) : Out :=
  .next (match (s.die die).inbox[idx]? with
    | some m =>
      match m.body with
      | .update line sectors data poison _ _ =>
        if !s.deliverable m || s.fillFirst die line m then s
        else
          let k := sliceOf (line * 128)
          let s := s.accept die idx m
          match (s.slice die k).guestLine (setOf (line * 128)) line with
          | some (key, _) =>
            s.updWay die k key fun w =>
              { w with data := putBytes w.data data (bytesOfSectors (sectors &&& w.present))
                       poison := (w.poison &&& ~~~(sectors &&& w.present)) ||| (poison &&& sectors &&& w.present) }
          | none => s
      | _ => s
    | none => s)

/-- `GUEST_INVALIDATION_APPLY` (R281). -/
def execGuestInvalidationApply (die idx : Nat) (s : State) : Out :=
  .next (match (s.die die).inbox[idx]? with
    | some m =>
      match m.body with
      | .invalidate line _ =>
        if !s.deliverable m || s.fillFirst die line m then s
        else
          let k := sliceOf (line * 128)
          let s := s.accept die idx m
          match (s.slice die k).guestLine (setOf (line * 128)) line with
          | some (key, _) => s.updSlice die k fun sl => { sl with ways := sl.ways.del key }
          | none => s
      | _ => s
    | none => s)

/-! ## Core-local accesses, performed at completion -/

/-- What an element of a core-local access touches: its lane's slice in the lane store, a whole line for a full/empty
instruction. -/
def Access.span (x : Access) (e : Elem) : Nat × Nat × Nat :=
  ((if x.space = .ls then e.lane else 0), e.va,
    (if x.kind = .femark ∨ x.kind = .fepoll then 128 else sizeBytes e.size))

/-- Two core-local accesses touch a byte in common. -/
def Access.meets (x y : Access) : Bool :=
  decide (x.space = y.space) && x.elems.any fun e => y.elems.any fun f =>
    let (l, u, n) := x.span e
    let (l', u', n') := y.span f
    decide (l = l') && decide (u < u' + n') && decide (u' < u + n)

/-- Each agent's accesses to one byte take effect in its issue order (R266). -/
def Thread.localTurn (t : Thread) (i : Nat) (x : Access) : Bool :=
  (t.inflight.take i).all fun y => y.done || decide (y.path ≠ .lo) || !y.meets x

/-- The barriers that an instruction or a copy names now (R206). -/
def Core.barsInUse (c : Core) : List Nat :=
  (c.thr.flatMap fun t => t.inflight.flatMap fun x =>
    if x.kind.onBarrier && !x.done then x.elems.map fun e => e.va else []) ++
  (c.thr.flatMap fun t => [t.slotA, t.slotB].filterMap fun sl =>
    match sl.st with | .waiting (.tbwait _ a _ _) => some a | _ => none) ++
  (c.copies.filterMap fun x => if x.st = .ended then none else x.barrier) ++
  (c.mx.filterMap fun m => match m.op with
    | .drain _ _ b _ _ => if m.st = .done then none else b
    | _ => none)

/-- An ordinary store to a barrier that is in use leaves its fields undefined (R206): free values; the reserved bits read as zero (R7). -/
def State.spoilBars (s : State) (k : Nat) (es : List Elem) : State :=
  match s.core? k with
  | none => s
  | some c =>
    (c.barsInUse.eraseDups).foldl (fun s addr =>
      if es.any fun e => decide (e.va < addr + 16) && decide (addr < e.va + sizeBytes e.size) then
        (List.range 4).foldl (fun s j =>
          let v := (Config.freeWord s.free).toNat % (if j = 3 then 2 ^ 16 else 2 ^ 32)
          { s.updCore k fun c => { c with sh := c.sh.writeBytes (addr + 4 * j) (bytesOfNat 4 v) } with
            free := s.free + 1 }) s
      else s) s

/-- Every line of shared memory that a load reads is full (R196, R267). -/
def Core.allFull (c : Core) (x : Access) : Bool :=
  decide (x.space ≠ .sh) || (linesOf x.elems).all fun l => c.full.contains l

/-- Perform a core-local access: none where a load waits for a line to become full (R196), or a `TBARRIVE` for earlier accesses (R339). -/
def State.performLocal (s : State) (k a : Nat) (x : Access) : Option (State × Access) :=
  match s.core? k with
  | none => none
  | some c =>
    match x.kind with
    | .load =>
      if c.allFull x then some (s, { x with elems := (c.applyAccess a x).1 }) else none
    | .atom =>
      let (es, c') := c.applyAccess a x
      some ((s.updCore k fun _ => c').spoilBars k x.elems, { x with elems := es })
    | .fepoll => some (s, x)
    | .tbinit =>
      some (s.updCore k fun c => x.elems.foldl (fun c e => match e.op with
        | .put v => c.initBar e.va v.toNat | _ => c) c, x)
    | .tbexpect =>
      some (s.updCore k fun c => x.elems.foldl (fun c e => match e.op with
        | .put v => c.onBar e.va (TransBar.expect v.toNat) | _ => c) c, x)
    | .tbarrive =>
      if (c.thread a).performedBelow x.tag then some (s.updCore k fun c => x.elems.foldl (fun c e => c.arriveBar a x.tag e.va) c, x) else none
    | .femark =>
      some (s.updCore k fun c => { c with full := c.full.filter fun l => !(linesOf x.elems).contains l }, x)
    | _ =>
      let c' := (c.applyAccess a x).2
      let s := s.updCore k fun _ => if x.mode = .full ∧ x.elems ≠ [] then c'.setFull (linesOf (x.landed ++ x.elems)) else c'
      match x.space with
      | .sh => some (s.spoilBars k x.elems, x)
      | .ls => some (s, x)
      | sp =>
        some (s.updCore k fun d => x.elems.foldl (fun d e =>
          d.loosen { warp := some a, fence := none, barrier := none, space := sp, addr := e.va, len := sizeBytes e.size, old := none, bad := [] }
            (c.localBytes sp e.va (sizeBytes e.size)) (c.local sp).2) d, x)

/-- Some elements of a core-local load, store or atomic are performed before it completes: the lower or the upper halves of 128-bit ones (R328), or all
of them (R43). -/
def State.landPart (s : State) (k a i part : Nat) : State :=
  match (s.thread k a).inflight[i]? with
  | none => s
  | some x =>
    let picks (e : Elem) : Bool := decide (part = 2) || (decide (x.size = 4) && decide (e.off / 8 % 2 = part))
    let (now, later) := x.elems.partition picks
    if x.done || decide (x.path ≠ .lo) || x.kind.onBarrier || decide (x.kind = .femark) || decide (x.kind = .fepoll) || now.isEmpty ||
        !(s.thread k a).localTurn i x then s
    else match s.performLocal k a { x with elems := now, mode := if x.mode = .full && !later.isEmpty then .normal else x.mode } with
      | none => s
      | some (s, y) => s.updThread k a fun t =>
        { t with inflight := alterAt t.inflight i fun x => { x with elems := later, landed := x.landed ++ y.elems } }

/-! ## Completion (R193, R214) -/

/-- Drop the accesses that have completed with every earlier one of their path (R214). -/
def Thread.compact (t : Thread) : Thread :=
  let gone (x : Access) (before : List Access) : Bool :=
    x.done && before.all fun y => y.done || decide (y.path ≠ x.path)
  { t with inflight := ((List.range t.inflight.length).zip t.inflight).filterMap fun p =>
      if gone p.2 (t.inflight.take p.1) then none else some p.2 }

/-- End the waits of a thread for a counter that has come down (R214); in run-ahead the wait's end ends it first
(R360). -/
def State.releaseCounters (s : State) (k a : Nat) : State :=
  let past (t : Thread) (w : Wait) : Bool := match w with
    | .counter path n => decide (t.counter path ≤ n)
    | _ => false
  let t := s.thread k a
  let s := match t.ahead with
    | some h =>
      let due : Bool := match h.saved.st with
        | .waiting .structural => decide (t.counter .gl < Config.counterLimit)
        | .waiting w => past t w
        | _ => false
      if due then s.exitAhead k a else s
    | none => s
  (s.releaseSlot k a .a (past (s.thread k a))).releaseSlot k a .b (past (s.thread k a))

/-- Mark access `i` of a thread complete; arrivals at barriers that waited for it count (R339). -/
def State.finish (s : State) (k a i : Nat) : State :=
  ((s.updThread k a fun t => ({ t with inflight := alterAt t.inflight i fun x => { x with done := true } }).compact)
    |>.releaseCounters k a).settleArrivals k a

/-- Deliver an access into the lanes of a mask. -/
def State.deliverAccess (s : State) (k a : Nat) (x : Access) (m : W32) : State :=
  let preds (n : Nat) : W32 :=
    match x.kind with
    | .fepoll => match s.core? k with | some c => c.polled x | none => 0#32
    | _ => s.receivedPred x n
  s.updThread k a fun t => t.outside fun t => t.deliverWith (s.received x) x.taint x.dests m preds

/-- What a lane receives is there. -/
def Access.laneReady (x : Access) (lane : Nat) : Bool :=
  !x.stuck && (x.elems.all fun e => decide (e.lane ≠ lane)) &&
    x.reqs.all fun r => decide (r.st = .answered) || r.elems.all fun e => decide (e.lane ≠ lane)

/-- Deliver one lane of a load or a returning atomic before the others (R42, R43). -/
def State.returnLane (s : State) (k a : Nat) (x : Access) (lane : Nat) : State :=
  if x.kind ≠ .fepoll ∧ !x.scalar ∧ bit x.lanes lane ∧ x.laneReady lane then s.deliverAccess k a x (BitVec.ofNat 32 (2 ^ lane)) else s

/-- The answers of an access are all there. -/
def Access.answered (x : Access) : Bool := !x.stuck && x.reqs.all fun r => decide (r.st = .answered)

/-- What a killed or a stopped block had issued to its core-local memories (R392, R394): stores and atomics are performed, loads are discarded, and nothing
is delivered or wakes. DESIGN CHOICE (log 151): operations on transaction barriers and full/empty bits that have not been performed are discarded. -/
def State.drainLocal (s : State) (k a i : Nat) : State :=
  match s.core? k, (s.thread k a).inflight[i]? with
  | some c, some x =>
    if (c.phase ≠ .killed ∧ c.phase ≠ .halted) ∨ x.done ∨ x.path ≠ .lo ∨ !(s.thread k a).localTurn i x then s
    else
      let s := match x.kind with
        | .store => (s.performLocal k a x).elim s fun y => y.1
        | .atom => (s.performLocal k a x).elim s fun y => y.1
        | _ => s
      s.updThread k a fun t => { t with inflight := alterAt t.inflight i fun x => { x with done := true } }
  | _, _ => s

/-- Complete a load, a returning atomic, or another access that writes a register. What global memory answers to a squashed
block is discarded (R293). -/
def State.returnAccess (s : State) (k a i lane : Nat) : State :=
  match s.core? k, (s.thread k a).inflight[i]? with
  | some c, some x =>
    if !c.acts then s.drainLocal k a i
    else if x.done ∨ !x.kind.returns then s
    else if lane > 32 then s.landPart k a i (lane - 33)
    else if lane > 0 then (if c.phase = .running then s.returnLane k a x (lane - 1) else s)
    else if !x.answered then s
    else if x.path = .lo then
      if !(s.thread k a).localTurn i x then s
      else match s.performLocal k a x with
        | none => s
        | some (s, x) => ((s.deliverAccess k a x allLanes).finish k a i)
    else if c.phase = .stopping then s.finish k a i
    else (s.deliverAccess k a x allLanes).finish k a i
  | _, _ => s

/-- `LOAD_DATA_RETURN` (R42, R190, R193): access `idx` mod 256 of a thread completes, its destinations written; with `idx` / 256
= lane + 1 one lane of it is written before the rest (R43); with 33 or 34 the lower or the upper halves of a 128-bit core-local load are read before
the others (R328), with 35 all of its bytes. -/
def execLoadDataReturn (core agent idx : Nat) (s : State) : Out := .next (s.returnAccess core agent (idx % 256) (idx / 256))

/-! ## The store signature (R403) -/

/-- The mix of one write. -/
def mix (x : W64) (size : Nat) (y : W64) : W64 :=
  let h := x + BitVec.ofNat 64 size * 0x9E3779B97F4A7C15#64 + y * 0xBF58476D1CE4E5B9#64
  let h := (h ^^^ (h >>> 30)) * 0x94D049BB133111EB#64
  h ^^^ (h >>> 31)

/-- What one element adds to the signature. -/
def Elem.signature (e : Elem) : W64 :=
  let x : W64 := (BitVec.ofNat 56 e.va).signExtend 64
  match e.op with
  | .put v =>
    if e.size = 4 then mix x 3 (v.setWidth 64) + mix (x + 8#64) 3 (v.extractLsb' 64 64)
    else if e.size = 5 then mix x 5 (if e.off % 2 = 0 then v.setWidth 64 &&& 0xF#64 else (v.setWidth 64 &&& 0xF#64) <<< 4)
    else mix x e.size (v.setWidth 64 &&& BitVec.ofNat 64 (2 ^ (8 * sizeBytes e.size) - 1))
  | .atom _ _ v => mix x e.size (v &&& BitVec.ofNat 64 (2 ^ (8 * sizeBytes e.size) - 1))
  | .kv v => mix x 2 ((v &&& 0xFFFFFF#32).setWidth 64)
  | _ => 0#64

/-- What an access adds to the signature of its block. -/
def Access.signature (x : Access) : W64 :=
  match x.kind with
  | .store | .red | .kvmap => x.reqs.foldl (fun g r => r.elems.foldl (fun g e => g + e.signature) g) 0#64
  | _ => 0#64

/-- Add to the signature of a redundant block, which stands in its pair entry (R374, R403). -/
def State.sign (s : State) (k : Nat) (v : W64) : State :=
  match s.core? k with
  | none => s
  | some c =>
    if !c.launch.redundant then s
    else
      (s.updCore k fun c => { c with sig := c.sig + v }).updDie (dieOfCore k) fun d =>
        { d with pairs := d.pairs.alter c.pairIdx fun p =>
            if p.coreP = coreNum k then { p with sigP := c.sig + v } else { p with sigT := c.sig + v } }

/-- Complete a store, a reduction or a core-local write; or perform a part of a core-local one. -/
def State.ackAccess (s : State) (k a i part : Nat) : State :=
  match s.core? k, (s.thread k a).inflight[i]? with
  | some c, some x =>
    if !c.acts then s.drainLocal k a i
    else if x.done ∨ x.kind.returns ∨ x.kind = .copy ∨ !x.answered then s
    else if part > 0 then s.landPart k a i (part - 1)
    else if x.path = .lo then
      if !(s.thread k a).localTurn i x then s
      else match s.performLocal k a x with
        | none => s
        | some (s, _) =>
          let s := s.finish k a i
          if x.kind.onBarrier then s.wakeBars k else s
    else (s.sign k x.signature).finish k a i
  | _, _ => s

/-- `STORE_ACKNOWLEDGE` (R193, R335): access `idx` mod 256 of a thread, which returns nothing, completes; with `idx` / 256 = 1 or 2 the lower or the
upper halves of a 128-bit core-local store are written before the others (R328). -/
def execStoreAcknowledge (core agent idx : Nat) (s : State) : Out := .next (s.ackAccess core agent (idx % 256) (idx / 256))

end Sys2Proof.Machine
end

