-- ==== Sys2Proof/Machine/Copy.lean ====
section
/-! DEFINITION. Tensor copies: `COPY`, the validation of a deckle record, and the sectors that a copy moves (R200 to R205, R373,
R426). -/

namespace Sys2Proof.Machine

/-! ## `COPY` (R200) -/

/-- The low and the high half of a scalar as signed coordinates. -/
def coordPair (v : W64) : List Int := [(v.setWidth 32 : W32).toInt, (v.extractLsb' 32 32).toInt]

/-- What the copy unit takes over from a `COPY`. -/
def Ctx.newCopy (c : Ctx) (a b : BitVec 6) (m : BitVec 4) (tag : Nat) : Copy :=
  let w (i : Nat) : W64 := c.th.sval (b.toNat + i)
  let bar := ((w 3).extractLsb' 32 16).toNat
  { id := c.core.nextCopy, agent := c.a, tag := tag, pc := c.iss.pc, mask := c.pass, out := m.getLsbD 3,
    space := spaceOf (m.extractLsb' 0 3), recAddr := c.s a, loc := w 0,
    coords := coordPair (w 1) ++ coordPair (w 2) ++ (coordPair (w 3)).take 1,
    barrier := if bar = 0xFFFF then none else some (16 * bar), reserved := decide ((w 3).extractLsb' 48 16 ≠ 0#16),
    st := .waiting, deckle := none, units := [], counted := [], peerWait := [], peerLine := 0, signalled := 0 }

/-- A barrier lies within `.shared`. -/
def Core.hasBarrier (c : Core) (addr : Nat) : Bool := decide (addr + 16 ≤ c.launch.shared)

/-- `COPY` (R200): the copy unit takes the transfer; no lane waits. -/
def execCopy (a b : BitVec 6) (m : BitVec 4) (s : State) : Out :=
  issue (.copy a b m) noCheck (fun c s =>
    if c.th.counter .cp ≥ Config.counterLimit then c.wait .structural s
    else
      let q : Ask := { kind := .copy, path := .cp, size := 0, wants := [], lanes := c.pass }
      let x := c.newCopy a b m s.seq
      let s := c.append (c.outstanding q s.seq) s
      c.next (s.updCore c.k fun co =>
        { co with
          copies := co.copies ++ [x]
          nextCopy := co.nextCopy + 1
          namedBars := match x.barrier with
            | some y => if co.hasBarrier y then setAdd co.namedBars y else co.namedBars
            | none => co.namedBars })) s

/-! ## The record (R201, R202, R373) -/

/-- The bytes of an element. -/
def Deckle.elemBytes (d : Deckle) : Nat := 2 ^ d.typeLog

/-- An extent of the tensor; 1 at the rank and above. -/
def Deckle.extent (d : Deckle) (k : Nat) : Nat := if k < d.rank then nth d.extents k 1 else 1

/-- An extent of the box; 1 at the rank and above. -/
def Deckle.boxLen (d : Deckle) (k : Nat) : Nat := if k < d.rank then nth d.box k 1 else 1

/-- The bytes from one row of the box to the next on the local side. -/
def Deckle.pitch (d : Deckle) : Nat := (d.boxLen 0 * d.elemBytes + 31) / 32 * 32

/-- The rows of the box. -/
def Deckle.rows (d : Deckle) : Nat := d.boxLen 1 * d.boxLen 2 * d.boxLen 3 * d.boxLen 4

/-- Read a record from its 64 bytes, given as a number. -/
def Deckle.read (n : Nat) : Deckle :=
  let f (off size : Nat) : Nat := n / 2 ^ (8 * off) % 2 ^ (8 * size)
  { base := f 0 8, extents := (List.range 5).map fun k => f (8 + 4 * k) 4, strides := (List.range 4).map fun k => f (28 + 5 * k) 5,
    box := (List.range 5).map fun k => f (0x30 + 2 * k) 2, typeLog := f 0x3A 1, rank := f 0x3B 1, fill := f 0x3C 1,
    skew := f 0x3D 1 }

/-- The least stride that the extents below allow (R201, step 7). -/
def Deckle.minStride (d : Deckle) (j : Nat) : Nat :=
  if j = 0 then d.extent 0 * d.elemBytes else d.extent j * nth d.strides (j - 1) 0

/-- The box fits the local side (R202). -/
def Deckle.fits (d : Deckle) (sp : Space) (limit : Nat) (loc : W64) : Bool :=
  let t := d.pitch * d.rows
  if sp = .global then
    let last : W64 := loc + BitVec.ofNat 64 (t - 1)
    decide (loc.toNat + t ≤ 2 ^ 64) && isCanonical loc && isCanonical last && decide (loc.getLsbD 63 = last.getLsbD 63)
  else
    decide (loc.toNat + t ≤ limit) && (decide (d.skew = 0) || decide (loc.toNat + (t + 127) / 128 * 128 ≤ limit))

/-- The field code of the first check of a record that fails, after that of its address (R201, R373). -/
def Copy.recordFault (x : Copy) (d : Deckle) (limit shared : Nat) : Option Nat :=
  let ks := List.range d.rank
  if d.typeLog > 4 then some 0x02
  else if d.rank < 1 ∨ d.rank > 5 then some 0x03
  else match ks.find? fun k => decide (d.extent k = 0) with
    | some k => some (0x04 + k)
    | none => match ks.find? fun k => decide (d.boxLen k = 0) with
      | some k => some (0x09 + k)
      | none =>
        if d.base % 16 ≠ 0 then some 0x0E
        else match (List.range (d.rank - 1)).find? fun j =>
            decide (nth d.strides j 0 % 16 ≠ 0) || decide (nth d.strides j 0 < d.minStride j) with
          | some j => some (0x0F + j)
          | none =>
            if d.fill > 1 then some 0x13
            else if d.skew > (if x.space = .sh then 2 else 0) then some 0x14
            else if !d.fits x.space limit x.loc then some 0x15
            else if x.barrier.any fun b => decide (shared < b + 16) then some 0x16
            else if x.reserved then some 0x17 else none

/-! ## The sectors of a copy (R202, R203) -/

/-- The sectors that one row can count. -/
def Deckle.perRow (d : Deckle) : Nat := d.pitch / 32 + 1

/-- The box index of a row in dimension `k`, 1 to 4. -/
def Deckle.boxIndex (d : Deckle) (r k : Nat) : Nat :=
  r / ((List.range (k - 1)).foldl (fun n i => n * d.boxLen (i + 1)) 1) % d.boxLen k

/-- The tensor index of a row in dimension `k`, 1 to 4. -/
def Copy.index (x : Copy) (d : Deckle) (r k : Nat) : Int := nth x.coords k 0 + Int.ofNat (d.boxIndex r k)

/-- A row lies within the tensor in every dimension but the first. -/
def Copy.rowIn (x : Copy) (d : Deckle) (r : Nat) : Bool :=
  (List.range d.rank).all fun k =>
    decide (k = 0) || (decide (0 ≤ x.index d r k) && decide (x.index d r k < Int.ofNat (d.extent k)))

/-- The bytes of a row that are in range, from the first up to the one after the last. -/
def Copy.span (x : Copy) (d : Deckle) (r : Nat) : Nat × Nat :=
  let c0 := nth x.coords 0 0
  let lo := (-c0).toNat
  let hi := min (d.boxLen 0) (Int.ofNat (d.extent 0) - c0).toNat
  if x.rowIn d r && decide (lo < hi) then (lo * d.elemBytes, hi * d.elemBytes) else (0, 0)

/-- The tensor address of a byte of a row. -/
def Copy.tensor (x : Copy) (d : Deckle) (r n : Nat) : W64 :=
  let far := (List.range (d.rank - 1)).foldl (fun acc j => acc + x.index d r (j + 1) * Int.ofNat (nth d.strides j 0)) (0 : Int)
  BitVec.ofInt 64 (Int.ofNat d.base + nth x.coords 0 0 * Int.ofNat d.elemBytes + Int.ofNat n + far)

/-- The local address of a local offset, after the skew rotation. -/
def Copy.place (x : Copy) (d : Deckle) (o : Nat) : W64 :=
  let l := o / 128
  let j := o / 32 % 4
  x.loc + BitVec.ofNat 64 (128 * l + 32 * ((j + l % 2 ^ d.skew) % 4) + o % 32)

/-- One byte that a sector moves: from where, none for a fill with zero, and to where. -/
structure Move where
  src : Option W64
  dst : W64
  deriving DecidableEq, Repr

/-- The bytes that a sector of the copy moves (R202, R203); sector `u` is sector `u` mod `perRow` of row `u` / `perRow`. -/
def Copy.moves (x : Copy) (d : Deckle) (u : Nat) : List Move :=
  let r := u / d.perRow
  let j := u % d.perRow
  let (lo, hi) := x.span d r
  if x.out then
    let a := (x.tensor d r lo).toNat
    ((List.range 32).map fun p => 32 * (a / 32 + j) + p).filterMap fun y =>
      if a ≤ y ∧ y < a + (hi - lo) then
        some { src := some (x.place d (r * d.pitch + lo + (y - a))), dst := BitVec.ofNat 64 y }
      else none
  else if 32 * j < d.pitch then
    ((List.range 32).map fun p => 32 * j + p).filterMap fun n =>
      let dst := x.place d (r * d.pitch + n)
      if lo ≤ n ∧ n < hi then some { src := some (x.tensor d r n), dst := dst }
      else if d.fill = 1 then some { src := none, dst := dst } else none
  else []

/-- The sectors that a validated copy counts. -/
def Copy.all (x : Copy) : List Nat :=
  match x.deckle with
  | some d => (List.range (d.rows * d.perRow)).filter fun u => !(x.moves d u).isEmpty
  | none => []

/-- The sectors not counted, nor written to a peer and waiting for its answer. -/
def Copy.remaining (x : Copy) : List Nat := x.all.filter fun u => !x.counted.contains u && !x.peerWait.contains u

/-! ## Codes and counts (R203, R204) -/

/-- Change a copy. -/
def State.updCopy (s : State) (k id : Nat) (f : Copy → Copy) : State :=
  s.updCore k fun c => { c with copies := c.copies.map fun x => if x.id = id then f x else x }

/-- Write an error code into a barrier, if it lies within `.shared` and holds none (R204). -/
def Core.barError (c : Core) (bar : Option Nat) (code : Nat) : Core :=
  match bar with
  | some b =>
    if c.hasBarrier b then { c with sh := c.sh.writeBytes b (bytesOfNat 16 ((c.transBar b).fail code).bits) } else c
  | none => c

/-- Count sectors into a barrier, one after another, each with its test (R206). -/
def Core.barCount (c : Core) (bar : Option Nat) (n : Nat) : Core :=
  match bar with
  | some b => if c.hasBarrier b then (List.range n).foldl (fun c _ => c.onBar b (TransBar.count 1)) c else c
  | none => c

/-- The issuer's own operations on the copy's barrier that come before it have taken effect (R205). -/
def Core.mayCount (c : Core) (x : Copy) : Bool :=
  match x.barrier with
  | some b => !(c.thread x.agent).barOutstanding b x.tag
  | none => true

/-- A record of the copy unit (R396, R402). -/
def State.engineFailure (s : State) (k agent code : Nat) (addr : W64) : State :=
  if code = 3 ∨ code = 4 then
    s.report (dieOfCore k) (s.recordOf k agent (BitVec.ofNat 8 code) 0#8 2#2 addr)
  else s

/-- Forget a copy whose last sector has been counted. -/
def State.retireCopy (s : State) (k id : Nat) : State :=
  s.updCore k fun c => { c with copies := c.copies.filter fun x =>
    !(decide (x.id = id) && x.remaining.isEmpty && decide (x.st ≠ .waiting) && x.peerWait.all fun u => x.counted.contains u) }

/-- Send a barrier signal, addressed to a line of the peer (R426). -/
def State.sendSignal (s : State) (line : Nat) (what : UaWait) : State :=
  s.sendUa (line * 128) what

/-- Signal the sectors of a copy that went to a peer (R426). -/
def State.signalCopy (s : State) (k id : Nat) : State :=
  match s.core? k with
  | none => s
  | some c =>
    match c.copies.find? fun x => decide (x.id = id) with
    | none => s
    | some x =>
      let n := x.peerWait.length
      if n - x.signalled ≥ 64 ∨ (x.signalled < n ∧ x.remaining.isEmpty) then
        (s.sendSignal x.peerLine (.signal k id n)).updCopy k id fun x => { x with signalled := n }
      else s

/-- Writes that are not made any more, or whose answer is on its way, keep no sectors pending. -/
def State.dropWrites (s : State) (rs : List LineReq) : State :=
  rs.foldl (fun s r => if r.st = .sent then s else s.clearPending r) s

/-- A copy fails after its validation, or is cancelled (R204): it stops writing, writes its code and counts every sector left. -/
def State.failCopy (s : State) (k : Nat) (x : Copy) (code : Nat) : State :=
  let n := x.remaining.length
  let s := s.updCore k fun c => (c.barError x.barrier code).barCount x.barrier n
  let s := (((s.core? k).bind fun c => c.copies.find? fun y => decide (y.id = x.id)).map fun y => y.units).getD [] |>.foldl
    (fun s u => s.dropWrites u.writes) s
  let s := s.updCopy k x.id fun y => { y with st := .ended, units := [], counted := y.remaining.foldl setAdd y.counted }
  ((s.engineFailure k 17 code x.recAddr).wakeBars k).signalCopy k x.id |>.retireCopy k x.id

/-- The `.cp` counter of the issuer falls (R201). -/
def State.endValidation (s : State) (k : Nat) (x : Copy) : State :=
  let t := s.thread k x.agent
  match (List.range t.inflight.length).find? fun i => match t.inflight[i]? with
      | some y => decide (y.tag = x.tag) && decide (y.kind = .copy)
      | none => false with
  | some i => s.finish k x.agent i
  | none => s

/-- A trap is due at the issuer's next issue (R201, R204). An access processor that has ended has none: its block is killed at once (R386). -/
def State.deferTrap (s : State) (k a : Nat) (t : TrapInfo) : State :=
  if a = apAgent ∧ (s.thread k a).ended then s.killBlock k 0x35#8 t.code a t.pc
  else s.updThread k a fun th => { th with deferred := th.deferred ++ [t] }

/-- A copy ends without a validated box (R201, R204): its code goes to the barrier, and it moves nothing. A poisoned record is reported by
its trap (R401, R406); where no trap will be delivered, since its issuer is the access processor or has ended, by its code (R402). -/
def State.dropCopy (s : State) (k : Nat) (x : Copy) (code : Nat) : State :=
  let s := if code = 3 ∧ (x.agent = apAgent ∨ (s.thread k x.agent).ended) then s.engineFailure k 17 code x.recAddr else s
  let s := s.updCore k fun c => c.barError x.barrier code
  let s := s.updCopy k x.id fun y => { y with st := .ended, units := [] }
  (s.retireCopy k x.id).endValidation k x

/-! ## Reads and writes of an engine -/

/-- The class of a copy's global accesses (R297). -/
def State.copyClass (s : State) (x : Copy) : Nat :=
  if x.space = .tw ∨ x.space = .ta then 1
  else match x.deckle with
    | some d => if s.pools.any fun p => p.2.enable && decide (p.2.base ≤ d.base) && decide (d.base < p.2.base + p.2.nblk * p.2.bbytes)
        then 2 else 3
    | none => 3

/-- A request of an engine for the issuing block. -/
def Core.engineReq (c : Core) (k : Nat) (owner : Owner) (tag cls : Nat) (e : TlbEntry) (line : Nat) : LineReq :=
  { owner := owner, tag := tag, die := dieOfCore k, domain := c.launch.domain, vid := c.vid,
    versioned := e.ver && decide (e.domain = c.launch.domain), line := line, cls := cls, distant := false, elems := [],
    st := .pending, epoch := 0, missed := false, fill := 0#1024, fillBad := 0#4, plain := !e.ver, ordered := false, kept := false }

/-- The requests of parts whose pages have been translated. -/
def Core.engineReqs (c : Core) (k : Nat) (owner : Owner) (tag cls size : Nat) (ws : List Want) (f : Found) : List LineReq :=
  ws.foldl (fun rs w =>
    match f.entry w.lane with
    | none => rs
    | some e =>
      let pa := e.phys (vaNat w.va)
      addElem (c.engineReq k owner tag cls e) false (pa / 128) { w.elem size pa with va := vaNat w.va } rs) []

/-- The elements of a write go to a page that a non-zero version may not write (R187). -/
def Core.toPlain (c : Core) (f : Found) : Bool :=
  decide (c.vid ≠ 0) && f.hits.any fun h => !(h.2.ver && decide (h.2.domain = c.launch.domain))

/-- Every request is answered. -/
def answeredAll (rs : List LineReq) : Bool := rs.all fun r => decide (r.st = .answered)

/-- The byte that answered reads give for a part, and its poison. -/
def readByte (rs : List LineReq) (lane : Nat) : W8 × Bool :=
  match (rs.flatMap fun r => r.elems).find? fun e => decide (e.lane = lane) with
  | some e => (e.got.setWidth 8, e.poison)
  | none => (0#8, false)

/-- Writes that leave the die keep their sectors pending (R280). -/
def State.markPending (s : State) (die : Nat) (rs : List LineReq) : State :=
  rs.foldl (fun s r =>
    if homeDie (r.line * 128) = die then s
    else s.updDie die fun d =>
      { d with pending := d.pending ++ [{ line := r.line, sectors := sectorsOf (writesOf r.elems), tag := r.tag }] }) s

/-! ## COPY_VALIDATION -/

/-- Earlier stores and atomics of the issuer have been performed (R205). -/
def Thread.writesDone (t : Thread) (tag : Nat) : Bool :=
  t.inflight.all fun x => x.done || decide (tag ≤ x.tag) || !x.kind.writes

/-- The 64 reads of a record. -/
def Copy.recordWants (x : Copy) : List Want :=
  (List.range 64).map fun i => { lane := i, va := x.recAddr + BitVec.ofNat 64 i, nib := 0, op := .read }

/-- Ask for the record, or say why it cannot be read. -/
def State.fetchRecord (s : State) (k : Nat) (c : Core) (x : Copy) : State :=
  let (s, f) := s.translateAll k c.launch.asid .read x.recordWants
  match f.fatal with
  | some (d, va) => (s.reportFatal k 17 d x.pc va 3#8).dropCopy k x 7
  | none =>
    if f.pending ≠ [] then s
    else if f.absent ≠ [] then s.requestPages (dieOfCore k) c.launch.asid f none
    else
      let rs := c.engineReqs k (.copy k x.id 0) x.tag (s.copyClass x) 0 x.recordWants f
      s.updCopy k x.id fun y => { y with units := [{ unit := 0, reads := rs, writes := [], landed := false }] }

/-- Validate a record that has been read (R201). A code goes to the barrier as a count does, after the issuer's own operations on it (R205). -/
def State.validate (s : State) (k : Nat) (c : Core) (x : Copy) (rs : List LineReq) : State :=
  let bytes := (List.range 64).map fun i => readByte rs i
  let fails (code detail : W8) (err : Nat) : State :=
    if !c.mayCount x then s.updCopy k x.id fun y => { y with units := [{ unit := 0, reads := rs, writes := [], landed := false }] }
    else (s.dropCopy k x err).deferTrap k x.agent { code := code, detail := detail, resume := false, pc := x.pc, mask := x.mask }
  if bytes.any fun b => b.2 then fails 0x0A#8 0#8 3
  else
    let d := Deckle.read (natOfBytes (bytes.map fun b => b.1))
    match x.recordFault d (c.limit x.space) c.launch.shared with
    | some code => fails 0x09#8 (BitVec.ofNat 8 code) (0x80 + code)
    | none =>
      let s := s.updCopy k x.id fun y => { y with st := .moving, deckle := some d, units := [] }
      (s.endValidation k x).retireCopy k x.id

/-- Go on with the validation of a copy. -/
def State.stepValidation (s : State) (k : Nat) (c : Core) (x : Copy) : State :=
  if x.st ≠ .waiting then s
  else if c.squashed then s.dropCopy k x 1
  else if !(c.thread x.agent).writesDone x.tag then s
  else if x.recAddr.toNat % 64 ≠ 0 then
    if !c.mayCount x then s
    else (s.dropCopy k x 0x81).deferTrap k x.agent { code := 0x09#8, detail := 1#8, resume := false, pc := x.pc, mask := x.mask }
  else
    match x.units with
    | [] => s.fetchRecord k c x
    | u :: _ =>
      let (s, rs) := s.moveReads u.reads x.tag k 17
      if answeredAll rs then s.validate k c x rs
      else s.updCopy k x.id fun y => { y with units := [{ u with reads := rs }] }

/-- `COPY_VALIDATION` (R201): the copy at place `idx` of the copy unit reads and validates its record. -/
def execCopyValidation (core idx : Nat) (s : State) : Out :=
  .next (match s.core? core with
    | some c => match c.copies[idx]? with
      | some x => s.stepValidation core c x
      | none => s
    | none => s)

/-! ## COPY_SECTOR_LAND -/

/-- The bytes of a sector's local side, read from core-local memory, with their poison. -/
def Core.localByte (c : Core) (sp : Space) (x : Nat) : W8 × Bool :=
  let (m, bad) := c.local sp
  (m.read x, bad.contains (x / 32))

/-- The sectors of a copy that may write to a line of shared memory. -/
def Copy.onLine (x : Copy) (d : Deckle) (line : Nat) : List Nat :=
  let first := (128 * line - x.loc.toNat) / 128 - 1
  let w := d.pitch / 32
  ((List.range 16).map fun i => 4 * first + i).filterMap fun q =>
    if q < d.rows * w then
      let u := q / w * d.perRow + q % w
      if (x.moves d u).any fun m => decide (m.dst.toNat / 128 = line) then some u else none
    else none

/-- The copy has written every byte of a 32-byte sector of its local side once the sectors named have landed (R270). -/
def Copy.covers (x : Copy) (d : Deckle) (landed : List Nat) (sec : Nat) : Bool :=
  let bytes := (x.onLine d (sec / 4)).flatMap fun u =>
    if landed.contains u then (x.moves d u).map fun m => m.dst.toNat else []
  (List.range 32).all fun i => bytes.contains (32 * sec + i)

/-- Land a sector in a core-local memory: its bytes, the marks it clears (R270), the lines it fills (R208), and that a matrix
command may not rely on it (R234). -/
def Core.landLocal (c : Core) (x : Copy) (d : Deckle) (u : Nat) (bytes : List (Nat × W8)) : Core :=
  let old := bytes.map fun b => (c.local x.space).1.read b.1
  let marks := (c.local x.space).2
  let (m, bad) := c.local x.space
  let m := bytes.foldl (fun m b => m.write b.1 b.2) m
  let landed := u :: (x.counted ++ (x.units.filter fun v => v.landed).map fun v => v.unit)
  let bad := bad.filter fun sec => !((bytes.any fun b => decide (b.1 / 32 = sec)) && x.covers d landed sec)
  let c := c.setLocal x.space m bad
  match x.space with
  | .sh =>
    let lines := bytes.foldl (fun ls b => setAdd ls (b.1 / 128)) []
    c.setFull (lines.filter fun l => (x.onLine d l).all fun v => landed.contains v)
  | sp => match bytes with
    | b :: _ => c.loosen { warp := none, fence := none, barrier := x.barrier, space := sp, addr := b.1, len := bytes.length, old := none, bad := [] } old marks
    | [] => c

/-- Count one landed sector. -/
def State.countUnit (s : State) (k : Nat) (x : Copy) (u : Nat) : State :=
  let s := s.updCore k fun c => (c.noteWrites (((c.copies.filter fun y => decide (y.id = x.id)).flatMap fun y => y.units.filter fun v => decide (v.unit = u)).flatMap
    fun v => v.writes)).barCount x.barrier 1
  let s := s.updCopy k x.id fun y => { y with counted := setAdd y.counted u, units := y.units.filter fun v => decide (v.unit ≠ u) }
  ((s.wakeBars k).signalCopy k x.id).retireCopy k x.id

/-- A sector written to a peer waits for the signal that covers it (R426). -/
def State.sentUnit (s : State) (k : Nat) (x : Copy) (u line : Nat) : State :=
  (s.updCopy k x.id fun y =>
    { y with
      peerLine := if y.peerWait = [] then line else y.peerLine
      peerWait := y.peerWait ++ [u], units := y.units.filter fun v => decide (v.unit ≠ u) }).signalCopy k x.id

/-- The line that a copy's signals are addressed to: its first destination line, and where that is no peer's the line that went to the peer first
(R426). -/
def State.signalLine (s : State) (k : Nat) (c : Core) (x : Copy) (d : Deckle) (line : Nat) : Nat :=
  match (x.all.head?).bind fun u => (x.moves d u).head? with
  | some m =>
    match (s.translate k c.launch.asid m.dst .write).2 with
    | .resident e => let n := e.phys (vaNat m.dst) / 128; if isPeer (n * 128) then n else line
    | _ => line
  | none => line

/-- A written request went on to a peer. -/
def State.wentToPeer (s : State) (r : LineReq) : Bool :=
  isPeer (r.line * 128) &&
    (decide (r.vid = 0) || !r.versioned || decide (((s.domain r.domain).entry r.vid).st = .couched))

/-- What bytes written to global memory add to a signature (R199, R403). -/
def movesSignature (ms : List (W64 × W8)) : W64 :=
  ms.foldl (fun g m => g + mix m.1 0 (m.2.setWidth 64)) 0#64

/-- A trap that a copy attributes to its `COPY` (R204). -/
def Copy.trap (x : Copy) (code : W8) : TrapInfo := { code := code, detail := 0#8, resume := false, pc := x.pc, mask := x.mask }

/-- Put the state of one sector back. -/
def State.setUnit (s : State) (k : Nat) (x : Copy) (v : CopyUnit) : State :=
  s.updCopy k x.id fun y => { y with units := v :: y.units.filter fun w => decide (w.unit ≠ v.unit) }

/-- Begin a sector: its source reads. None: a page of it keeps it waiting, or the copy has failed. -/
def State.beginUnit (s : State) (k : Nat) (c : Core) (x : Copy) (u : Nat) (ms : List Move) : State × Option CopyUnit :=
  let ws : List Want := ((List.range ms.length).zip ms).filterMap fun m =>
    m.2.src.map fun a => { lane := m.1, va := a, nib := 0, op := .read }
  if x.out && decide (x.space ≠ .global) then (s, some { unit := u, reads := [], writes := [], landed := false })
  else
    let (s, f) := s.translateAll k c.launch.asid .read ws
    match f.fatal with
    | some (d, va) => (if c.mayCount x then (s.reportFatal k 17 d x.pc va 3#8).failCopy k x 7 else s, none)
    | none =>
      if f.pending ≠ [] then (s, none)
      else if f.absent ≠ [] then (s.requestPages (dieOfCore k) c.launch.asid f none, none)
      else (s, some { unit := u, reads := c.engineReqs k (.copy k x.id u) x.tag (s.copyClass x) 0 ws f, writes := [], landed := false })

/-- The bytes that a sector has read, in order, and whether one of them is poisoned. -/
def Core.gathered (c : Core) (x : Copy) (ms : List Move) (rs : List LineReq) : List W8 × Bool :=
  let bs := ((List.range ms.length).zip ms).map fun (m : Nat × Move) =>
    match m.2.src with
    | none => (0#8, false)
    | some a => if x.out && decide (x.space ≠ Space.global) then c.localByte x.space a.toNat else readByte rs m.1
  (bs.map fun b => b.1, bs.any fun b => b.2)

/-- Write a sector whose bytes have been read; L1 is left as it is (R272; log 134). -/
def State.writeUnit (s : State) (k : Nat) (c : Core) (x : Copy) (d : Deckle) (v : CopyUnit) (ms : List Move) : State :=
  let (bytes, bad) := c.gathered x ms v.reads
  if bad then (if c.mayCount x then s.failCopy k x 3 else s.setUnit k x v)
  else if !x.out && decide (x.space ≠ .global) then
    let s := (s.updCore k fun c => c.landLocal x d v.unit ((ms.map fun m => m.dst.toNat).zip bytes)).setUnit k x { v with landed := true }
    if c.mayCount x then s.countUnit k x v.unit else s
  else
    let ws : List Want := ((List.range ms.length).zip (ms.zip bytes)).map fun m =>
      { lane := m.1, va := m.2.1.dst, nib := 0, op := .put (m.2.2.setWidth 128) }
    let (s, f) := s.translateAll k c.launch.asid .write ws
    match f.fatal with
    | some (e, va) => if c.mayCount x then (s.reportFatal k 17 e x.pc va 3#8).failCopy k x 7 else s.setUnit k x v
    | none =>
      if f.pending ≠ [] then s.setUnit k x v
      else if f.absent ≠ [] then (s.requestPages (dieOfCore k) c.launch.asid f none).setUnit k x v
      else if c.toPlain f then (if c.mayCount x then (s.failCopy k x 6).deferTrap k x.agent (x.trap 0x0B#8) else s.setUnit k x v)
      else
        let rs := c.engineReqs k (.copy k x.id v.unit) x.tag (s.copyClass x) 0 ws f
        let s := s.markPending (dieOfCore k) rs
        let s := s.sign k (movesSignature ((ms.map fun m => m.dst).zip bytes))
        let (s, rs) := s.moveWrites rs k 17
        s.setUnit k x { v with writes := rs }

/-- Go on with one sector: read, write, count. It is counted, or fails the copy, only once the issuer's earlier operations on the barrier have taken
effect (R205). -/
def State.stepUnit (s : State) (k : Nat) (c : Core) (x : Copy) (d : Deckle) (u : Nat) : State :=
  let ms := x.moves d u
  if x.st ≠ .moving ∨ ms = [] ∨ x.counted.contains u ∨ x.peerWait.contains u then s
  else if c.squashed then (if c.mayCount x then s.failCopy k x 1 else s)
  else
    let (s, v) := match x.units.find? fun v => decide (v.unit = u) with
      | some v => (s, some v)
      | none => s.beginUnit k c x u ms
    match v with
    | none => s
    | some v =>
      if v.landed then (if c.mayCount x then s.countUnit k x u else s)
      else if v.writes ≠ [] then
        let (s, ws) := s.moveWrites v.writes k 17
        if answeredAll ws && c.mayCount x then
          match ws.find? fun r => s.wentToPeer r with
            | some r => s.sentUnit k x u (s.signalLine k c x d r.line)
            | none => s.countUnit k x u
        else s.setUnit k x { v with writes := ws }
      else
        let (s, rs) := s.moveReads v.reads x.tag k 17
        let v := { v with reads := rs }
        if answeredAll rs then s.writeUnit k c x d v ms else s.setUnit k x v

/-- `COPY_SECTOR_LAND` (R202 to R205): one sector of a copy goes on; `idx` mod 1024 is the copy's place in the copy unit and
`idx` / 1024 the sector. -/
def execCopySectorLand (core idx : Nat) (s : State) : Out :=
  .next (match s.core? core with
    | some c => match c.copies[idx % 1024]? with
      | some x => match x.deckle with
        | some d => s.stepUnit core c x d (idx / 1024)
        | none => s
      | none => s
    | none => s)

/-- A peer has answered a signal (R426): the sectors that it covers are counted. -/
def State.signalAnswered (s : State) (k id n : Nat) : State :=
  match s.core? k with
  | none => s
  | some c =>
    match c.copies.find? fun x => decide (x.id = id) with
    | none => s
    | some x =>
      let us := (x.peerWait.take n).filter fun u => !x.counted.contains u
      let s := s.updCore k fun c => c.barCount x.barrier us.length
      let s := s.updCopy k id fun y => { y with counted := us.foldl setAdd y.counted }
      (s.wakeBars k).retireCopy k id

end Sys2Proof.Machine
end

