-- ==== Sys2Proof/Machine/MemSys.lean ====
section
/-! DEFINITION. Prefetches, cache and TLB invalidation, and page requests: major 0x24 (R217, R317, R319). -/

namespace Sys2Proof.Machine

/-- The address that a lane names (R217). -/
def Ctx.lineAddr (c : Ctx) (a b : BitVec 6) (i : Nat) : W64 :=
  if c.ap then c.s a + c.s b else c.s a + (c.v b i).signExtend 64

/-- Prefetch one line: into its home slice, or into the read-only cache of the cluster (R217). Dropped where the page does not
answer. -/
def Ctx.prefetchLine (c : Ctx) (ro : Bool) (va : W64) (s : State) : State :=
  match s.translate c.k c.core.launch.asid va .prefetch with
  | (s, .resident e) =>
    let pa := e.phys (vaNat va)
    let r := { c.core.engineReq c.k (.access c.k c.a 0) 0 0 e (pa / 128) with elems := lineReads pa }
    if s.peerMissing r ≠ 0#4 then s.askPeer r.line (s.peerMissing r) 0
    else if ro then (s.serveReadOnly r c.k).1 else ((s.wake pa).performReq r c.k c.a).1
  | (s, _) => s

/-- `PREF` (R217). -/
def execPref (a b : BitVec 6) (s : State) : Out :=
  issue (.pref a b) noCheck (fun c s =>
    c.next (c.actLanes.foldl (fun s i => c.prefetchLine false (c.lineAddr a b i) s) s)) s

/-- `PREF.ro` (R217). -/
def execPrefRo (a b : BitVec 6) (s : State) : Out :=
  issue (.prefRo a b) noCheck (fun c s =>
    c.next (c.actLanes.foldl (fun s i => c.prefetchLine true (c.lineAddr a b i) s) s)) s

/-- `CINV.ro` (R217): the cluster's read-only cache and the core's instruction cache hold nothing any more. -/
def execCinvRo (s : State) : Out :=
  issue .cinvRo noCheck (fun c s =>
    let s := s.updDie (dieOfCore c.k) fun d => { d with ro := alterAt d.ro (clusterOfCore c.k) fun _ => [] }
    c.next (s.updCore c.k fun x => { x with icache := [] })) s

/-- `CINV.l1` (R217). -/
def execCinvL1 (s : State) : Out :=
  issue .cinvL1 noCheck (fun c s => c.next (s.updCore c.k Core.dropL1)) s

/-- Ask for the page of an address, if it is absent (R217, R319); whether its walk still waits for an answer. -/
def Ctx.requestPage (c : Ctx) (va : W64) (s : State) : State × Bool :=
  match s.translate c.k c.core.launch.asid va .prefetch with
  | (s, .absent big) => (s.requestPage (dieOfCore c.k) c.core.launch.asid (vaNat va / 2 ^ 16) none big, false)
  | (s, .pending) => (s, true)
  | (s, _) => (s, false)

/-- `PGREQ` (R217): it waits while a walk of one of its pages does. -/
def execPgreq (a b : BitVec 6) (s : State) : Out :=
  issue (.pgreq a b) noCheck (fun c s =>
    let (s, waits) := c.actLanes.foldl (fun (acc : State × Bool) i =>
      let (s, w) := c.requestPage (c.lineAddr a b i) acc.1
      (s, acc.2 || w)) (s, false)
    if waits then c.wait .structural s else c.next s) s

/-- Take entries out of a core's TLB and its cluster's. -/
def State.dropTlb (s : State) (k : Nat) (p : TlbEntry → Bool) : State :=
  let s := s.updCore k fun c => { c with tlb := c.tlb.filter fun e => !p e }
  s.updDie (dieOfCore k) fun d =>
    { d with clusterTlb := alterAt d.clusterTlb (clusterOfCore k) fun t => t.filter fun e => !p e }

/-- `TLBINV [sA]` (R217, R317). -/
def execTlbinv (a : BitVec 6) (s : State) : Out :=
  issue (.tlbinv a) noCheck (fun c s =>
    let asid := c.core.launch.asid
    let x := c.s a
    c.next (if isCanonical x then s.dropTlb c.k fun e => e.covers asid (vaNat x) else s)) s

/-- `TLBINV.all` (R217, R317). -/
def execTlbinvAll (s : State) : Out :=
  issue .tlbinvAll noCheck (fun c s =>
    let asid := c.core.launch.asid
    c.next (s.dropTlb c.k fun e => decide (e.asid = asid))) s

end Sys2Proof.Machine
end

