-- ==== Sys2Proof/Machine/Scalar.lean ====
section
/-! DEFINITION. Scalar and predicate instructions: majors 0x03 to 0x06 (R136 to R144). -/

namespace Sys2Proof.Machine

/-! ## Helpers -/

/-- The number of one bits of a word (R139). -/
def popCount {n : Nat} (x : BitVec n) : Nat := ((List.range n).filter fun i => x.getLsbD i).length

/-- The number of leading zeros of a word (R139). -/
def leadingZeros {n : Nat} (x : BitVec n) : Nat := if x = 0 then n else n - 1 - Nat.log2 x.toNat

/-- The position of a bit-field control word (R140). -/
def fieldPos {n : Nat} (c : BitVec n) : Nat := (c.setWidth 8 : W8).toNat

/-- The length of a bit-field control word, at most the width (R140). -/
def fieldLen {n : Nat} (c : BitVec n) (w : Nat) : Nat := min (c.extractLsb' 8 8).toNat w

/-- `bfe` (R140). -/
def bfe {n : Nat} (x c : BitVec n) (signed : Bool) : BitVec n :=
  let len := fieldLen c n
  let f := (x.toNat >>> fieldPos c) % 2 ^ len
  if len = 0 then 0
  else if signed && f.testBit (len - 1) then BitVec.ofInt n ((f : Int) - 2 ^ len) else BitVec.ofNat n f

/-- `bfi` (R140). -/
def bfi {n : Nat} (old x c : BitVec n) : BitVec n :=
  let m : BitVec n := BitVec.ofNat n ((2 ^ fieldLen c n - 1) * 2 ^ fieldPos c)
  (old &&& ~~~m) ||| ((x <<< fieldPos c) &&& m)

/-- Shift left; a count of the width or more gives 0 (R139). -/
def shiftLeft {n : Nat} (a b : BitVec n) : BitVec n := if b.toNat ≥ n then 0 else a <<< b.toNat

/-- Logical shift right; a count of the width or more gives 0 (R139). -/
def shiftRight {n : Nat} (a b : BitVec n) : BitVec n := if b.toNat ≥ n then 0 else a >>> b.toNat

/-- Arithmetic shift right by at most the width less one (R139). -/
def shiftArith {n : Nat} (a b : BitVec n) : BitVec n := a.sshiftRight (min b.toNat (n - 1))

/-- Less than, unsigned where the bit is set (R139). -/
def lessThan {n : Nat} (u : BitVec 1) (a b : BitVec n) : Bool := if u = 1#1 then a.ult b else a.slt b

/-- The high half of a product, signed, or unsigned where the bit is set (R139, R145). -/
def mulHigh {n : Nat} (u : BitVec 1) (a b : BitVec n) : BitVec n :=
  if u = 1#1 then BitVec.ofNat n (a.toNat * b.toNat / 2 ^ n) else BitVec.ofInt n (a.toInt * b.toInt / 2 ^ n)

/-- `SDIV` (R139). -/
def divide (u : BitVec 1) (a b : W64) : W64 :=
  if b = 0#64 then 0xFFFFFFFFFFFFFFFF#64
  else if u = 1#1 then a / b else a.sdiv b

/-- Write a scalar result and go on. -/
def Ctx.scalar (c : Ctx) (d : BitVec 6) (v : W64) (s : State) : State := c.next (c.putS s d v)

/-! ## Major 0x03 -/

/-- `SADD`. -/
def execSadd (d a b : BitVec 6) (i : BitVec 1) (s : State) : Out :=
  issue (.sadd d a b i) noCheck (fun c => c.scalar d (c.s a + c.sOrImm b i)) s

/-- `SSUB`. -/
def execSsub (d a b : BitVec 6) (i : BitVec 1) (s : State) : Out :=
  issue (.ssub d a b i) noCheck (fun c => c.scalar d (c.s a - c.sOrImm b i)) s

/-- `SMUL`. -/
def execSmul (d a b : BitVec 6) (i : BitVec 1) (s : State) : Out :=
  issue (.smul d a b i) noCheck (fun c => c.scalar d (c.s a * c.sOrImm b i)) s

/-- `SMULH`. -/
def execSmulh (d a b : BitVec 6) (u : BitVec 1) (s : State) : Out :=
  issue (.smulh d a b u) noCheck (fun c => c.scalar d (mulHigh u (c.s a) (c.s b))) s

/-- `SDIV`. -/
def execSdiv (d a b : BitVec 6) (u : BitVec 1) (s : State) : Out :=
  issue (.sdiv d a b u) noCheck (fun c => c.scalar d (divide u (c.s a) (c.s b))) s

/-- `SAND`. -/
def execSand (d a b : BitVec 6) (i : BitVec 1) (s : State) : Out :=
  issue (.sand d a b i) noCheck (fun c => c.scalar d (c.s a &&& c.sOrImm b i)) s

/-- `SOR`. -/
def execSor (d a b : BitVec 6) (i : BitVec 1) (s : State) : Out :=
  issue (.sor d a b i) noCheck (fun c => c.scalar d (c.s a ||| c.sOrImm b i)) s

/-- `SXOR`. -/
def execSxor (d a b : BitVec 6) (i : BitVec 1) (s : State) : Out :=
  issue (.sxor d a b i) noCheck (fun c => c.scalar d (c.s a ^^^ c.sOrImm b i)) s

/-- `SSHL`. -/
def execSshl (d a b : BitVec 6) (i : BitVec 1) (s : State) : Out :=
  issue (.sshl d a b i) noCheck (fun c => c.scalar d (shiftLeft (c.s a) (c.sOrImm b i))) s

/-- `SSHR`. -/
def execSshr (d a b : BitVec 6) (i : BitVec 1) (s : State) : Out :=
  issue (.sshr d a b i) noCheck (fun c => c.scalar d (shiftRight (c.s a) (c.sOrImm b i))) s

/-- `SSRA`. -/
def execSsra (d a b : BitVec 6) (i : BitVec 1) (s : State) : Out :=
  issue (.ssra d a b i) noCheck (fun c => c.scalar d (shiftArith (c.s a) (c.sOrImm b i))) s

/-- `SMIN`. -/
def execSmin (d a b : BitVec 6) (u i : BitVec 1) (s : State) : Out :=
  issue (.smin d a b u i) noCheck (fun c =>
    let y := c.sOrImm b i
    c.scalar d (if lessThan u y (c.s a) then y else c.s a)) s

/-- `SMAX`. -/
def execSmax (d a b : BitVec 6) (u i : BitVec 1) (s : State) : Out :=
  issue (.smax d a b u i) noCheck (fun c =>
    let y := c.sOrImm b i
    c.scalar d (if lessThan u (c.s a) y then y else c.s a)) s

/-- `SCMP`. -/
def execScmp (d a b : BitVec 6) (u i : BitVec 1) (s : State) : Out :=
  issue (.scmp d a b u i) noCheck (fun c =>
    let y := c.sOrImm b i
    c.scalar d (if lessThan u (c.s a) y then 0xFFFFFFFFFFFFFFFF#64 else if c.s a = y then 0#64 else 1#64)) s

/-- `SSEL`. -/
def execSsel (d a b : BitVec 6) (i : BitVec 1) (s : State) : Out :=
  issue (.ssel d a b i) noCheck (fun c => c.scalar d (if c.s d ≠ 0#64 then c.s a else c.sOrImm b i)) s

/-- `SPOPC`. -/
def execSpopc (d a : BitVec 6) (s : State) : Out :=
  issue (.spopc d a) noCheck (fun c => c.scalar d (BitVec.ofNat 64 (popCount (c.s a)))) s

/-- `SCLZ`. -/
def execSclz (d a : BitVec 6) (s : State) : Out :=
  issue (.sclz d a) noCheck (fun c => c.scalar d (BitVec.ofNat 64 (leadingZeros (c.s a)))) s

/-- `SBFE`. -/
def execSbfe (d a b : BitVec 6) (u : BitVec 1) (s : State) : Out :=
  issue (.sbfe d a b u) noCheck (fun c => c.scalar d (bfe (c.s a) (c.s b) (decide (u = 0#1)))) s

/-- `SBFI`. -/
def execSbfi (d a b : BitVec 6) (s : State) : Out :=
  issue (.sbfi d a b) noCheck (fun c => c.scalar d (bfi (c.s d) (c.s a) (c.s b))) s

/-- `SMOV sD, sA`. -/
def execSmov (d a : BitVec 6) (s : State) : Out :=
  issue (.smov d a) noCheck (fun c => c.scalar d (c.s a)) s

/-- An `aq` queue of a block. -/
def Core.aqueue (c : Core) (q : Nat) : AQueue := nth c.aq q AQueue.shut

/-- Change an `aq` queue of a block. -/
def Core.updQueue (c : Core) (q : Nat) (f : AQueue → AQueue) : Core := { c with aq := alterPad AQueue.shut c.aq q f }

/-- The slots whose pops of a queue come before a slot's and still wait (R46). -/
def Core.popsBefore (c : Core) (q a : Nat) (w : SlotId) : List (Nat × SlotId × Nat) :=
  ((c.aqueue q).waiters.takeWhile fun x => decide ((x.1, x.2.1) ≠ (a, w))).filter fun x => decide (((c.thread x.1).slot x.2.1).st = .waiting (.pop q))

/-- A pop begins to wait, or waits still: behind those that issued earlier and, of its own cycle, those of lower ports (R46). -/
def joinLine (l : List (Nat × SlotId × Nat)) (a : Nat) (w : SlotId) (now : Nat) : List (Nat × SlotId × Nat) :=
  if l.any fun x => decide ((x.1, x.2.1) = (a, w)) then l
  else
    let ahead (x : Nat × SlotId × Nat) : Bool := decide (x.2.2 < now) || decide (x.1 % 4 ≤ a % 4)
    l.takeWhile ahead ++ (a, w, now) :: l.dropWhile ahead

/-- The oldest entry of a queue may be popped: the accesses that came before its push are performed (R339). -/
def Core.popReady (c : Core) (q : Nat) : Bool :=
  match (c.aqueue q).entries with
  | [] => (c.aqueue q).closed
  | _ :: _ => (c.thread apAgent).performedBelow ((c.aqueue q).after.headD 0)

/-- `SMOV sD, aqA` (R45, R46, R142): it pops, after the pops that wait already; a closed empty queue gives all ones; an open one is waited for. -/
def execSmovAq (d a : BitVec 6) (s : State) : Out :=
  issue (.smovAq d a) noCheck (fun c s =>
    let upd (f : AQueue → AQueue) (s : State) : State := s.updCore c.k fun y => y.updQueue a.toNat f
    let spent := (c.core.aqueue a.toNat).entries.isEmpty && (c.core.aqueue a.toNat).closed
    if !spent ∧ (c.core.popsBefore a.toNat c.a c.iss.slot ≠ [] ∨ !c.core.popReady a.toNat) then
      c.wait (.pop a.toNat) (upd (fun q => { q with waiters := joinLine q.waiters c.a c.iss.slot s.now }) s)
    else
      let s := upd (fun q => { q with entries := q.entries.drop 1, after := q.after.drop 1, waiters := q.waiters.filter fun x => decide ((x.1, x.2.1) ≠ (c.a, c.iss.slot)) }) s
      c.scalar d ((c.core.aqueue a.toNat).entries.headD 0xFFFFFFFFFFFFFFFF#64) s) s

/-- `SADDI` (R141). -/
def execSaddi (d a : BitVec 6) (i : BitVec 14) (s : State) : Out :=
  issue (.saddi d a i) noCheck (fun c => c.scalar d (c.s a + c.imm14 i)) s

/-- `SLI` (R141). -/
def execSli (d : BitVec 6) (i : BitVec 20) (s : State) : Out :=
  issue (.sli d i) noCheck (fun c => c.scalar d (c.imm20 i)) s

/-! ## Major 0x06 -/

/-- A predicate operand (R41, R144). -/
def Ctx.p (c : Ctx) (n : BitVec 6) : W32 := c.th.pval n.toNat

/-- Write a predicate result and go on. -/
def Ctx.pred (c : Ctx) (d : BitVec 6) (v : W32) (s : State) : State := c.next (c.putP s d.toNat v)

/-- `PAND`, and `PAND.n`. -/
def execPand (d a b : BitVec 6) (n : BitVec 1) (s : State) : Out :=
  issue (.pand d a b n) noCheck (fun c => c.pred d (c.p a &&& (if n = 1#1 then ~~~c.p b else c.p b))) s

/-- `POR`, and `POR.n`. -/
def execPor (d a b : BitVec 6) (n : BitVec 1) (s : State) : Out :=
  issue (.por d a b n) noCheck (fun c => c.pred d (c.p a ||| (if n = 1#1 then ~~~c.p b else c.p b))) s

/-- `PXOR`. -/
def execPxor (d a b : BitVec 6) (s : State) : Out :=
  issue (.pxor d a b) noCheck (fun c => c.pred d (c.p a ^^^ c.p b)) s

/-- `PNOT`. -/
def execPnot (d a : BitVec 6) (s : State) : Out := issue (.pnot d a) noCheck (fun c => c.pred d (~~~c.p a)) s

/-- `PMOV pD, pA`. -/
def execPmovPp (d a : BitVec 6) (s : State) : Out := issue (.pmovPp d a) noCheck (fun c => c.pred d (c.p a)) s

/-- `PMOV pD, sA`. -/
def execPmovPs (d a : BitVec 6) (s : State) : Out :=
  issue (.pmovPs d a) noCheck (fun c => c.pred d ((c.s a).setWidth 32)) s

/-- `PMOV sD, pA`. -/
def execPmovSp (d a : BitVec 6) (s : State) : Out :=
  issue (.pmovSp d a) noCheck (fun c => c.scalar d ((c.p a).setWidth 64)) s

/-- A scalar, read as signed, compares with 0 as MOD 3 to 8 name it (R143). -/
def zeroCompare (m : Nat) (x : W64) : Bool :=
  match m with
  | 3 => decide (x = 0#64)
  | 4 => decide (x ≠ 0#64)
  | 5 => x.slt 0#64
  | 6 => x.sle 0#64
  | 7 => (0#64).slt x
  | _ => (0#64).sle x

/-- `PMOV.cc pD, sA`. -/
def execPmovCc (d a : BitVec 6) (m : BitVec 4) (s : State) : Out :=
  issue (.pmovCc d a m) noCheck (fun c => c.pred d (spread (zeroCompare m.toNat (c.s a)))) s

/-- `PSETI`. -/
def execPseti (d : BitVec 6) (s : State) : Out := issue (.pseti d) noCheck (fun c => c.pred d (c.x.setWidth 32)) s

/-- The lanes that count as passing: in the access processor all of them (R143, R144). -/
def Ctx.passing (c : Ctx) : W32 := if c.ap then spread (decide (c.pass ≠ 0#32)) else c.pass

/-- `PPOPC`. -/
def execPpopc (d a : BitVec 6) (s : State) : Out :=
  issue (.ppopc d a) noCheck (fun c => c.scalar d (BitVec.ofNat 64 (popCount (c.p a &&& c.passing)))) s

/-- The lowest lane of a mask, or 32. -/
def firstLane (m : W32) : Nat := match lanesOf m with | i :: _ => i | [] => 32

/-- `PFIRST`. In the access processor it yields 0 or 32 (R144). -/
def execPfirst (d a : BitVec 6) (s : State) : Out :=
  issue (.pfirst d a) noCheck (fun c => c.scalar d (BitVec.ofNat 64 (firstLane (c.p a &&& c.passing)))) s

end Sys2Proof.Machine
end

