-- ==== Sys2Proof/Machine/Vector.lean ====
section
/-! DEFINITION. Vector integer instructions, cross-lane instructions and the extension majors: majors 0x07 to 0x0A, 0x10,
0x11, 0x30 and 0x31 (R136, R137, R145 to R156). -/

namespace Sys2Proof.Machine

/-- Write a vector result lane by lane and go on. -/
def Ctx.vector (c : Ctx) (d : BitVec 6) (f : Nat → W32) (s : State) : State := c.next (c.putV s d.toNat f)

/-! ## Majors 0x07 to 0x09 -/

/-- `VADD`. -/
def execVadd (d a b : BitVec 6) (i : BitVec 1) (s : State) : Out :=
  issue (.vadd d a b i) noCheck (fun c => c.vector d fun l => c.v a l + c.vOrImm b i l) s

/-- `VSUB`. -/
def execVsub (d a b : BitVec 6) (i : BitVec 1) (s : State) : Out :=
  issue (.vsub d a b i) noCheck (fun c => c.vector d fun l => c.v a l - c.vOrImm b i l) s

/-- The exact sum of `VADDC` in a lane (R146). -/
def Ctx.carrySum (c : Ctx) (a b : BitVec 6) (l : Nat) : Nat :=
  (c.v a l).toNat + (c.v b l).toNat + (if bit (c.th.pval 6) l then 1 else 0)

/-- `VADDC` (R146). -/
def execVaddc (d a b : BitVec 6) (s : State) : Out :=
  issue (.vaddc d a b) noCheck (fun c s =>
    let s := c.putP s 6 (maskOf fun l => decide (c.carrySum a b l ≥ 2 ^ 32))
    c.vector d (fun l => BitVec.ofNat 32 (c.carrySum a b l)) s) s

/-- `VMUL`. -/
def execVmul (d a b : BitVec 6) (i : BitVec 1) (s : State) : Out :=
  issue (.vmul d a b i) noCheck (fun c => c.vector d fun l => c.v a l * c.vOrImm b i l) s

/-- `VMULH`. -/
def execVmulh (d a b : BitVec 6) (u : BitVec 1) (s : State) : Out :=
  issue (.vmulh d a b u) noCheck (fun c => c.vector d fun l => mulHigh u (c.v a l) (c.v b l)) s

/-- `VMAD`. -/
def execVmad (d a b : BitVec 6) (s : State) : Out :=
  issue (.vmad d a b) noCheck (fun c => c.vector d fun l => c.v a l * c.v b l + c.v d l) s

/-- `VAND`. -/
def execVand (d a b : BitVec 6) (i : BitVec 1) (s : State) : Out :=
  issue (.vand d a b i) noCheck (fun c => c.vector d fun l => c.v a l &&& c.vOrImm b i l) s

/-- `VOR`. -/
def execVor (d a b : BitVec 6) (i : BitVec 1) (s : State) : Out :=
  issue (.vor d a b i) noCheck (fun c => c.vector d fun l => c.v a l ||| c.vOrImm b i l) s

/-- `VXOR`. -/
def execVxor (d a b : BitVec 6) (i : BitVec 1) (s : State) : Out :=
  issue (.vxor d a b i) noCheck (fun c => c.vector d fun l => c.v a l ^^^ c.vOrImm b i l) s

/-- `VSHL`. -/
def execVshl (d a b : BitVec 6) (i : BitVec 1) (s : State) : Out :=
  issue (.vshl d a b i) noCheck (fun c => c.vector d fun l => shiftLeft (c.v a l) (c.vOrImm b i l)) s

/-- `VSHR`. -/
def execVshr (d a b : BitVec 6) (i : BitVec 1) (s : State) : Out :=
  issue (.vshr d a b i) noCheck (fun c => c.vector d fun l => shiftRight (c.v a l) (c.vOrImm b i l)) s

/-- `VSRA`. -/
def execVsra (d a b : BitVec 6) (i : BitVec 1) (s : State) : Out :=
  issue (.vsra d a b i) noCheck (fun c => c.vector d fun l => shiftArith (c.v a l) (c.vOrImm b i l)) s

/-- `VMIN`. -/
def execVmin (d a b : BitVec 6) (u i : BitVec 1) (s : State) : Out :=
  issue (.vmin d a b u i) noCheck (fun c => c.vector d fun l =>
    let y := c.vOrImm b i l
    if lessThan u y (c.v a l) then y else c.v a l) s

/-- `VMAX`. -/
def execVmax (d a b : BitVec 6) (u i : BitVec 1) (s : State) : Out :=
  issue (.vmax d a b u i) noCheck (fun c => c.vector d fun l =>
    let y := c.vOrImm b i l
    if lessThan u (c.v a l) y then y else c.v a l) s

/-- `VABSD`: the magnitude of the exact difference. -/
def execVabsd (d a b : BitVec 6) (u : BitVec 1) (s : State) : Out :=
  issue (.vabsd d a b u) noCheck (fun c => c.vector d fun l =>
    if lessThan u (c.v a l) (c.v b l) then c.v b l - c.v a l else c.v a l - c.v b l) s

/-- `VPOPC`. -/
def execVpopc (d a : BitVec 6) (s : State) : Out :=
  issue (.vpopc d a) noCheck (fun c => c.vector d fun l => BitVec.ofNat 32 (popCount (c.v a l))) s

/-- `VCLZ`. -/
def execVclz (d a : BitVec 6) (s : State) : Out :=
  issue (.vclz d a) noCheck (fun c => c.vector d fun l => BitVec.ofNat 32 (leadingZeros (c.v a l))) s

/-- `VBFE`. -/
def execVbfe (d a b : BitVec 6) (u : BitVec 1) (s : State) : Out :=
  issue (.vbfe d a b u) noCheck (fun c => c.vector d fun l => bfe (c.v a l) (c.v b l) (decide (u = 0#1))) s

/-- `VBFI`. -/
def execVbfi (d a b : BitVec 6) (s : State) : Out :=
  issue (.vbfi d a b) noCheck (fun c => c.vector d fun l => bfi (c.v d l) (c.v a l) (c.v b l)) s

/-- `VMOV vD, vA`. -/
def execVmov (d a : BitVec 6) (s : State) : Out :=
  issue (.vmov d a) noCheck (fun c => c.vector d fun l => c.v a l) s

/-- A receive register of a block. -/
def Core.recv (c : Core) (q : Nat) : MQueue := nth c.mqi q MQueue.empty

/-- `VMOV vD, mqiA` (R45, R48, R148): it pops a whole message, or waits for one. -/
def execVmovFromMqi (d a : BitVec 6) (s : State) : Out :=
  issue (.vmovFromMqi d a) noCheck (fun c s =>
    match (c.core.recv a.toNat).messages with
    | m :: rest =>
      c.vector d (fun l => nth m l 0#32)
        (s.updCore c.k fun x => { x with mqi := alterPad MQueue.empty x.mqi a.toNat fun q => { q with messages := rest } })
    | [] => c.wait (.receive a.toNat) s) s

/-- A block is the twin of a redundant pair (R374, R404). -/
def State.isTwin (s : State) (k : Nat) (c : Core) : Bool :=
  (s.die (dieOfCore k)).pairs.any fun x =>
    decide (x.2.grid = c.grid) && decide (x.2.domain = c.launch.domain) && decide (x.2.vidT = c.vid)

/-- The core that holds a block of a block's grid and span, among those resident (R223); in a redundant grid on the issuer's
own side (R224). -/
def State.coreOfBlock (s : State) (k : Nat) (me : Core) (gang block : Nat) : Option Nat :=
  match s.cores.find? fun x =>
    let c := x.2
    decide (c.grid = me.grid) && decide (c.span = me.span) && decide (c.gang = gang) && decide (c.block = block) &&
      (!me.launch.redundant || s.isTwin x.1 c == s.isTwin k me) with
  | some (k, _) => some k
  | none => none

/-- The span that a grid has on a die, if the dispatcher still holds it (R350). -/
def State.spanOf (s : State) (die grid index : Nat) : Option Span :=
  (s.die die).disp.spans.find? fun x => decide (x.grid = grid) && decide (x.index = index)

/-- A target block that is not resident has not been placed yet (R223). -/
def State.unplaced (s : State) (die : Nat) (from_ : Core) (gang : Nat) : Bool :=
  match s.spanOf die from_.grid from_.span with
  | some sp => decide (sp.next ≤ gang)
  | none => false

/-- The binding of a send register that governs a write in a cycle: one made in an earlier cycle (R223). -/
def Core.binding (c : Core) (q now : Nat) : Option Binding := (nth c.mqo q []).find? fun b => decide (b.since < now)

/-- An unbound send register raises unbound-queue (R47). -/
def unboundCheck (q : BitVec 6) : Ctx → State → Option W8 := fun c s =>
  match c.core.binding q.toNat s.now with
  | some _ => none
  | none => some 5#8

/-- `VMOV mqoD, vA` (R47, R48, R148, R223): it sends, waits for room or for its target, or is discarded where the target has
completed. The message travels as network flits (R416). -/
def execVmovToMqo (d a : BitVec 6) (s : State) : Out :=
  issue (.vmovToMqo d a) (unboundCheck d) (fun c s =>
    match c.core.binding d.toNat s.now with
    | none => c.next s
    | some b =>
      match s.coreOfBlock c.k c.core b.gang b.block with
      | none => if s.unplaced (dieOfCore c.k) c.core b.gang then c.wait (.send d.toNat) s else c.next s
      | some k =>
        match s.core? k with
        | none => c.next s
        | some t =>
          let q := t.recv b.queue
          if t.phase = .killed ∨ t.phase = .completed ∨ t.phase = .halted then c.next s
          else if q.messages.length + q.promised ≥ Config.mqDepth then c.wait (.send d.toNat) s
          else
            let words := (List.range 32).map fun l => if bit c.pass l then c.v a l else 0#32
            let s := s.updCore k fun x => { x with mqi := alterPad MQueue.empty x.mqi b.queue fun q => { q with promised := q.promised + 1 } }
            let die := dieOfCore c.k
            let from_ := clusterOfCore c.k * 2
            let f : Flit :=
              { dDie := dieOfCore k, dLeaf := clusterOfCore k * 2, sDie := die, sLeaf := from_, cls := 0, resp := true,
                domain := if c.core.vid = 0 then 0 else c.core.launch.domain, vid := c.core.vid, form := 2, cseq := 0#16, key := b.queue,
                body := .message words k b.queue c.k d.toNat, at_ := .leaf die from_ }
            c.next { s with flits := s.flits ++ [f] }) s

/-- A byte of a lane. -/
def byteOf (x : W32) (k : Nat) : W8 := x.extractLsb' (8 * k) 8

/-- A byte as a number. -/
def byteNum (u : BitVec 1) (b : W8) : Int := if u = 1#1 then b.toNat else b.toInt

/-- `VDOT4`. -/
def execVdot4 (d a b : BitVec 6) (u : BitVec 1) (s : State) : Out :=
  issue (.vdot4 d a b u) noCheck (fun c => c.vector d fun l =>
    c.v d l + BitVec.ofInt 32 ((List.range 4).foldl (fun acc k =>
      acc + byteNum u (byteOf (c.v a l) k) * byteNum u (byteOf (c.v b l) k)) 0)) s

/-- `VADDI` (R147). -/
def execVaddi (d a : BitVec 6) (i : BitVec 14) (s : State) : Out :=
  issue (.vaddi d a i) noCheck (fun c => c.vector d fun l => c.v a l + (c.imm14 i).setWidth 32) s

/-- `VLI` (R147). -/
def execVli (d : BitVec 6) (i : BitVec 20) (s : State) : Out :=
  issue (.vli d i) noCheck (fun c => c.vector d fun _ => (c.imm20 i).setWidth 32) s

/-! ## Major 0x0A -/

/-- Write a predicate lane by lane and go on. -/
def Ctx.predicate (c : Ctx) (d : BitVec 6) (f : Nat → Bool) (s : State) : State := c.next (c.putP s d.toNat (maskOf f))

/-- `VCMP.eq`. -/
def execVcmpEq (d a b : BitVec 6) (i : BitVec 1) (s : State) : Out :=
  issue (.vcmpEq d a b i) noCheck (fun c => c.predicate d fun l => decide (c.v a l = c.vOrImm b i l)) s

/-- `VCMP.ne`. -/
def execVcmpNe (d a b : BitVec 6) (i : BitVec 1) (s : State) : Out :=
  issue (.vcmpNe d a b i) noCheck (fun c => c.predicate d fun l => decide (c.v a l ≠ c.vOrImm b i l)) s

/-- `VCMP.lt`. -/
def execVcmpLt (d a b : BitVec 6) (u i : BitVec 1) (s : State) : Out :=
  issue (.vcmpLt d a b u i) noCheck (fun c => c.predicate d fun l => lessThan u (c.v a l) (c.vOrImm b i l)) s

/-- `VCMP.le`. -/
def execVcmpLe (d a b : BitVec 6) (u i : BitVec 1) (s : State) : Out :=
  issue (.vcmpLe d a b u i) noCheck (fun c => c.predicate d fun l => !lessThan u (c.vOrImm b i l) (c.v a l)) s

/-- `VCMP.gt`. -/
def execVcmpGt (d a b : BitVec 6) (u i : BitVec 1) (s : State) : Out :=
  issue (.vcmpGt d a b u i) noCheck (fun c => c.predicate d fun l => lessThan u (c.vOrImm b i l) (c.v a l)) s

/-- `VCMP.ge`. -/
def execVcmpGe (d a b : BitVec 6) (u i : BitVec 1) (s : State) : Out :=
  issue (.vcmpGe d a b u i) noCheck (fun c => c.predicate d fun l => !lessThan u (c.v a l) (c.vOrImm b i l)) s

/-- `VSEL`. -/
def execVsel (d a b : BitVec 6) (i : BitVec 1) (s : State) : Out :=
  issue (.vsel d a b i) noCheck (fun c => c.vector d fun l => if c.v d l ≠ 0#32 then c.v a l else c.vOrImm b i l) s

/-! ## Major 0x10 -/

/-- A lane of a source that inactive lanes read as 0 (R137). -/
def Ctx.active (c : Ctx) (n : BitVec 6) (j : Nat) : W32 := if bit c.pass j then c.v n j else 0#32

/-- What every instruction of major 0x10 does (R150): each lane takes the lane that its instruction names. -/
def Ctx.permute (c : Ctx) (d a : BitVec 6) (s : State) : State :=
  c.vector d (fun l => c.active a (sourceLane c.instr c.th l)) s

/-- `PERM`. -/
def execPerm (d a b : BitVec 6) (s : State) : Out := issue (.perm d a b) noCheck (fun c => c.permute d a) s

/-- `PERMX`. -/
def execPermx (d a b : BitVec 6) (s : State) : Out := issue (.permx d a b) noCheck (fun c => c.permute d a) s

/-- `SHFLUP`. -/
def execShflup (d a b : BitVec 6) (s : State) : Out := issue (.shflup d a b) noCheck (fun c => c.permute d a) s

/-- `SHFLDN`. -/
def execShfldn (d a b : BitVec 6) (s : State) : Out := issue (.shfldn d a b) noCheck (fun c => c.permute d a) s

/-- `BCAST vD, vA, sB`. -/
def execBcastReg (d a b : BitVec 6) (s : State) : Out := issue (.bcastReg d a b) noCheck (fun c => c.permute d a) s

/-- `BCAST vD, vA, #j`. -/
def execBcastImm (d a b : BitVec 6) (s : State) : Out := issue (.bcastImm d a b) noCheck (fun c => c.permute d a) s

/-! ## Major 0x11 -/

/-- The operation of `REDUCE` and `SCAN` (R151), with its flags. -/
def combine (m : Nat) (x y : W32) : W32 × W32 :=
  match m with
  | 0 => (x + y, 0#32)
  | 1 => (if y.slt x then y else x, 0#32)
  | 2 => (if x.slt y then y else x, 0#32)
  | 3 => (if y.ult x then y else x, 0#32)
  | 4 => (if x.ult y then y else x, 0#32)
  | 5 => (x &&& y, 0#32)
  | 6 => (x ||| y, 0#32)
  | 7 => (x ^^^ y, 0#32)
  | 8 =>
    let (r, f) := sumRound [.one (fp32.decode x.toNat), .one (fp32.decode y.toNat)] fp32 .rne
    (BitVec.ofNat 32 r, f)
  | 9 => (BitVec.ofNat 32 (fminCode fp32 x.toNat y.toNat), 0#32)
  | _ => (BitVec.ofNat 32 (fmaxCode fp32 x.toNat y.toNat), 0#32)

/-- The identity of an operation (R151). -/
def identity (m : Nat) : W32 :=
  match m with
  | 1 => 0x7FFFFFFF#32
  | 2 => 0x80000000#32
  | 3 => 0xFFFFFFFF#32
  | 5 => 0xFFFFFFFF#32
  | 9 => 0x7F800000#32
  | 10 => 0xFF800000#32
  | _ => 0#32

/-- A stage of values, with the flags so far. -/
abbrev Stage := List W32 × W32

/-- One stage: lane `i` takes the value and flags that `f` gives. -/
def stage (x : Stage) (f : Nat → List W32 → W32 × W32) : Stage :=
  let rs := (List.range 32).map fun i => f i x.1
  (rs.map fun r => r.1, rs.foldl (fun m r => m ||| r.2) x.2)

/-- The butterfly of `REDUCE` (R152). -/
def reduceLanes (m : Nat) (x : List W32) : Stage :=
  (List.range 5).foldl (fun st k => stage st fun i x =>
    let j := i ^^^ 2 ^ k
    combine m (nth x (min i j) 0#32) (nth x (max i j) 0#32)) (x, 0#32)

/-- The prefix stages of `SCAN` (R152). -/
def scanLanes (m : Nat) (x : List W32) : Stage :=
  (List.range 5).foldl (fun st k => stage st fun i x =>
    if i ≥ 2 ^ k then combine m (nth x (i - 2 ^ k) 0#32) (nth x i 0#32) else (nth x i 0#32, 0#32)) (x, 0#32)

/-- OR flags into FPSTAT (R164). -/
def Ctx.flags (c : Ctx) (f : W32) (s : State) : State :=
  if f = 0#32 then s else s.updThread c.k c.a fun t => { t with fpstat := t.fpstat ||| f }

/-- The inputs of a reduction: the identity in lanes that do not pass (R152). -/
def Ctx.inputs (c : Ctx) (a : BitVec 6) (m : Nat) : List W32 :=
  (List.range 32).map fun i => if bit c.pass i then c.v a i else identity m

/-- `REDUCE` (R151, R152). -/
def execReduce (d a : BitVec 6) (m : BitVec 4) (s : State) : Out :=
  issue (.reduce d a m) noCheck (fun c s =>
    let (x, f) := reduceLanes m.toNat (c.inputs a m.toNat)
    c.vector d (fun l => nth x l 0#32) (c.flags f s)) s

/-- `SCAN` (R151, R152). -/
def execScan (d a : BitVec 6) (m : BitVec 4) (s : State) : Out :=
  issue (.scan d a m) noCheck (fun c s =>
    let (x, f) := scanLanes m.toNat (c.inputs a m.toNat)
    c.vector d (fun l => nth x l 0#32) (c.flags f s)) s

/-- A value ranks below another (R153): NaN below every number, the two zeros equal. -/
def ranksBelow (m : Nat) (x y : W32) : Bool :=
  match m with
  | 0 =>
    let a := fp32.decode x.toNat
    let b := fp32.decode y.toNat
    if b.isNan then false else if a.isNan then true else a.lt b && !a.same b
  | 1 => x.slt y
  | _ => x.ult y

/-- The winning lane of `ARGMAX`: the lowest of equal rank (R153). -/
def Ctx.argmaxLane (c : Ctx) (a : BitVec 6) (m : Nat) : Nat :=
  match lanesOf c.pass with
  | [] => 0
  | i :: rest => rest.foldl (fun best j => if ranksBelow m (c.v a best) (c.v a j) then j else best) i

/-- `ARGMAX` (R153). -/
def execArgmax (d a : BitVec 6) (m : BitVec 4) (s : State) : Out :=
  issue (.argmax d a m) noCheck (fun c s =>
    let w := c.argmaxLane a m.toNat
    let nan := decide (m = 0#4) && (fp32.decode (c.v a w).toNat).isNan
    let s := c.putV s d.toNat fun _ => if nan then 0x7FC00000#32 else c.v a w
    c.next (c.putV s (d.toNat + 1) fun _ => BitVec.ofNat 32 w)) s

/-- `VOTE.ballot` (R154). -/
def execVoteBallot (d a : BitVec 6) (s : State) : Out :=
  issue (.voteBallot d a) noCheck (fun c => c.scalar d ((c.p a &&& c.pass).setWidth 64)) s

/-- `VOTE.any` (R154). -/
def execVoteAny (d a : BitVec 6) (s : State) : Out :=
  issue (.voteAny d a) noCheck (fun c => c.pred d (spread (decide (c.p a &&& c.pass ≠ 0#32)))) s

/-- `VOTE.all` (R154). -/
def execVoteAll (d a : BitVec 6) (s : State) : Out :=
  issue (.voteAll d a) noCheck (fun c => c.pred d (spread (decide (c.p a &&& c.pass = c.pass)))) s

/-- `VOTE.uni` (R154). -/
def execVoteUni (d a : BitVec 6) (s : State) : Out :=
  issue (.voteUni d a) noCheck (fun c =>
    let first := c.v a (firstLane c.pass)
    c.pred d (spread ((lanesOf c.pass).all fun l => decide (c.v a l = first)))) s

/-- The passing lanes that hold what a lane holds (R154). -/
def Ctx.matches (c : Ctx) (a : BitVec 6) (l : Nat) : W32 := maskOf fun j => bit c.pass j && decide (c.v a j = c.v a l)

/-- `MATCH` (R154). -/
def execMatchAny (d a : BitVec 6) (s : State) : Out :=
  issue (.matchAny d a) noCheck (fun c => c.vector d fun l => c.matches a l) s

/-- `MATCH.first` (R154). -/
def execMatchFirst (d a : BitVec 6) (s : State) : Out :=
  issue (.matchFirst d a) noCheck (fun c => c.predicate d fun l => decide (firstLane (c.matches a l) = l)) s

/-! ## Extension majors 0x30 and 0x31 -/

/-- Field `k` of `w` bits of a lane, as a number. -/
def fieldNum (w : Nat) (unsigned : Bool) (x : W32) (k : Nat) : Int :=
  let f := x.extractLsb' (w * k) w
  if unsigned then f.toNat else f.toInt

/-- The accumulation of the integer dot products (R155). -/
def dotSum (w n : Nat) (m : BitVec 3) (x y acc : W32) : W32 :=
  let ux := m.getLsbD 0
  let uy := m.getLsbD 1
  let sat := m.getLsbD 2
  let old : Int := if sat && ux && uy then acc.toNat else acc.toInt
  let t := (List.range n).foldl (fun t k => t + fieldNum w ux x k * fieldNum w uy y k) old
  if sat then
    if ux && uy then BitVec.ofInt 32 (max 0 (min t (2 ^ 32 - 1)))
    else BitVec.ofInt 32 (max (-(2 ^ 31)) (min t (2 ^ 31 - 1)))
  else BitVec.ofInt 32 t

/-- `VDOT4.i16` (R155). -/
def execVdot4I16 (d a b : BitVec 6) (m : BitVec 3) (s : State) : Out :=
  issue (.vdot4I16 d a b m) noCheck (fun c => c.vector d fun l => dotSum 16 2 m (c.v a l) (c.v b l) (c.v d l)) s

/-- `VDOT4.i4` (R155). -/
def execVdot4I4 (d a b : BitVec 6) (m : BitVec 3) (s : State) : Out :=
  issue (.vdot4I4 d a b m) noCheck (fun c => c.vector d fun l => dotSum 4 8 m (c.v a l) (c.v b l) (c.v d l)) s

/-- `VMOV.bt` (R156). -/
def execVmovBt (d a : BitVec 6) (s : State) : Out :=
  issue (.vmovBt d a) noCheck (fun c => c.vector d fun l => maskOf fun j => bit (c.active a j) l) s

/-- The rows that a lane's bits select. -/
def Ctx.rows (c : Ctx) (a b : BitVec 6) (l : Nat) : List W32 := (lanesOf (c.v a l)).map fun j => c.active b j

/-- `VOR.bmm` (R156). -/
def execVorBmm (d a b : BitVec 6) (s : State) : Out :=
  issue (.vorBmm d a b) noCheck (fun c => c.vector d fun l => (c.rows a b l).foldl (fun m x => m ||| x) 0#32) s

/-- `VXOR.bmm` (R156). -/
def execVxorBmm (d a b : BitVec 6) (s : State) : Out :=
  issue (.vxorBmm d a b) noCheck (fun c => c.vector d fun l => (c.rows a b l).foldl (fun m x => m ^^^ x) 0#32) s

end Sys2Proof.Machine
end

