-- ==== Sys2Proof/Machine/Queue.lean ====
section
/-! DEFINITION. Queues between the access processor and the warps, and messages between blocks: major 0x1C (R44 to R48,
R221 to R225). -/

namespace Sys2Proof.Machine

/-- A push to a closed queue raises closed-queue (R222). -/
def closedCheck (q : BitVec 6) : Ctx → State → Option W8 := fun c _ =>
  if (c.core.aqueue q.toNat).closed then some 6#8 else none

/-- `AQPUSH` (R222): it appends an entry, or waits while the queue holds 32; a pop takes the entry once the accesses before the push are
performed (R339). -/
def execAqpush (d a : BitVec 6) (s : State) : Out :=
  issue (.aqpush d a) (closedCheck d) (fun c s =>
    if (c.core.aqueue d.toNat).entries.length ≥ Config.aqDepth then c.wait .structural s
    else c.next (s.updCore c.k fun x => x.updQueue d.toNat fun q => { q with entries := q.entries ++ [c.s a], after := q.after ++ [s.seq] })) s

/-- `AQCLOSE` (R222). -/
def execAqclose (d : BitVec 6) (s : State) : Out :=
  issue (.aqclose d) noCheck (fun c s =>
    c.next (s.updCore c.k fun x => x.updQueue d.toNat fun q => { q with closed := true })) s

/-- The reserved bits and the ranges of a binding (R223). -/
def targetOk (launch : Launch) (v : W64) : Bool :=
  decide (v.extractLsb' 10 54 = 0#54) && decide (v.getLsbD 7 = false) &&
    decide ((v.extractLsb' 3 4).toNat < launch.gangs) && decide ((v.extractLsb' 0 3).toNat < launch.blocks)

/-- The last check of `MQBIND`, made where a lane passes (R104, R223). -/
def targetCheck (a : BitVec 6) : Ctx → State → Option W8 := fun c _ =>
  if decide (c.pass = 0#32) || targetOk c.core.launch (c.s a) then none else some 7#8

/-- `MQBIND` (R223): writes of later cycles use the binding; the one before stands for this cycle's. -/
def execMqbind (d a : BitVec 6) (s : State) : Out :=
  issue (.mqbind d a) (targetCheck a) (fun c s =>
    let v := c.s a
    let b : Binding :=
      { gang := (v.extractLsb' 3 4).toNat, block := (v.extractLsb' 0 3).toNat, queue := (v.extractLsb' 8 2).toNat, since := s.now }
    c.next (s.updCore c.k fun x => { x with mqo := alterPad [] x.mqo d.toNat fun l => b :: (l.filter fun y => decide (y.since < s.now)).take 1 })) s

/-- `MQTRY` (R225): the passing bits say whether a message is there that did not arrive in this cycle. -/
def execMqtry (d a : BitVec 6) (s : State) : Out :=
  issue (.mqtry d a) noCheck (fun c s =>
    let q := c.core.recv a.toNat
    c.next (c.putP s d.toNat (spread (decide ((if q.freshAt = s.now then q.fresh else 0) < q.messages.length))))) s

end Sys2Proof.Machine
end

