-- ==== Sys2Proof/Machine/FreeList.lean ====
section
/-! DEFINITION. The free lists of the KV pools, the allocation logs, and major 0x23 (R256, R260, R261, R371, R372). -/

namespace Sys2Proof.Machine

/-! ## The ring (R371) -/

/-- The blocks that a list holds. -/
def Pool.held (p : Pool) : Nat := (p.fltail - p.flhead).toNat

/-- The address of a slot of the ring. -/
def Pool.slot (p : Pool) (cursor : W32) : Nat := p.flbase + 4 * (cursor.toNat % p.nblk)

/-- Change a pool. -/
def State.updPool (s : State) (n : Nat) (f : Pool → Pool) : State := { s with pools := s.pools.alter n f }

/-- Take the oldest block of a list; 0 where it is empty. -/
def State.ringPop (s : State) (n : Nat) : State × Nat :=
  match s.pools.find n with
  | none => (s, 0)
  | some p =>
    if p.held = 0 then (s, 0)
    else
      let (s, v, _) := s.readCommitted (p.slot p.flhead) 2
      (s.updPool n fun p => { p with flhead := p.flhead + 1#32 }, v.toNat % 2 ^ 24)

/-- The engine of a pool may read the oldest block of its list at once (R331). -/
def State.popReady (s : State) (n : Nat) : Bool :=
  match s.pools.find n with
  | none => true
  | some p => decide (p.held = 0) || s.viewReady p.home (p.slot p.flhead)

/-- A list takes no more blocks. -/
def Pool.isFull (p : Pool) : Bool := decide (p.nblk ≤ p.held + 1)

/-- Wake every fragment parked on a pool (R260, R366). -/
def State.wakePool (s : State) (n : Nat) : State :=
  s.cores.foldl (fun s x =>
    s.wakeFragments x.1 fun _ f => decide (f.cause = 0x21#8) && decide (f.key = BitVec.ofNat 64 n)) s

/-- Put a block at the end of a list that has room. -/
def State.ringPush (s : State) (n b : Nat) : State :=
  match s.pools.find n with
  | none => s
  | some p =>
    let s := s.engineWrite p.home (p.slot p.fltail) 2 (BitVec.ofNat 64 b)
    (s.updPool n fun p => { p with fltail := p.fltail + 1#32 }).wakePool n

/-! ## The allocation log (R372) -/

/-- The 8 bytes of a log entry. -/
def LogEntry.bits (e : LogEntry) : W64 :=
  BitVec.ofNat 64 ((if e.held then 2 ^ 63 else 0) + (if e.free then 2 ^ 62 else 0) + e.pool * 2 ^ 48 + e.vid * 2 ^ 40 +
    e.domain * 2 ^ 34 + e.block)

/-- Write entry `i` of a log, counted from its head, to memory. -/
def State.storeLog (s : State) (die i : Nat) : State :=
  match (s.die die).logEntries[i]? with
  | some e => s.engineWrite die ((s.die die).logBase + 8 * (((s.die die).logHead + i) % 2 ^ 20)) 3 e.bits
  | none => s

/-- A log is full. -/
def Die.logFull (d : Die) : Bool := decide (Config.logEntries ≤ d.logEntries.length)

/-- Append an entry to a log. -/
def State.appendLog (s : State) (die : Nat) (e : LogEntry) : State :=
  let s := s.updDie die fun d => { d with logEntries := d.logEntries ++ [e], logTail := (d.logTail + 1) % 2 ^ 32 }
  s.storeLog die ((s.die die).logEntries.length - 1)

/-- Advance the head of a log over its free entries. -/
def Die.trimLog (d : Die) : Die :=
  let kept := d.logEntries.dropWhile fun e => e.free
  { d with logEntries := kept, logHead := (d.logHead + (d.logEntries.length - kept.length)) % 2 ^ 32 }

/-- A push that could not be made is reported (R260, R372). -/
def State.pushLost (s : State) (die : Nat) : State := s.report die (engineRecord 0x53#8 0#8 2#2 0 0#64)

/-- Apply the action of an entry whose version has become couched or broke (R260): a held push of a couched version is made, a
pop of a broke one goes back. -/
def State.applyLog (s : State) (die i : Nat) : State :=
  match (s.die die).logEntries[i]? with
  | none => s
  | some e =>
    let st := ((s.domain e.domain).entry e.vid).st
    if e.free ∨ st = .live then s
    else
      let s :=
        if decide (st = .couched) == e.held then
          match s.pools.find e.pool with
          | some p => if p.isFull then s.pushLost die else s.ringPush e.pool e.block
          | none => s
        else s
      let s := s.updDie die fun d => { d with logEntries := alterAt d.logEntries i fun e => { e with free := true } }
      s.storeLog die i

/-- Free entries of a log that was full let the appends parked on its pools go on (R372). -/
def State.wakeLog (s : State) (die : Nat) : State :=
  s.pools.foldl (fun s p => if p.2.home = die then s.wakePool p.1 else s) s

/-- Apply every entry of every log that is due, in log order, and free it. -/
def State.settleLogs (s : State) : State :=
  (List.range Config.dies).foldl (fun s d =>
    let full := (s.die d).logFull
    let n := (s.die d).logEntries.length
    let s := ((List.range n).foldl (fun s i => s.applyLog d i) s).updDie d Die.trimLog
    if full && !(s.die d).logFull then s.wakeLog d else s) s

/-! ## Pops and pushes of a block (R260) -/

/-- Pop for a block: from a live version the pop is logged, from a broke one the block goes back at once. 0 where the list is
empty or the log full. -/
def State.popFor (s : State) (c : Core) (n : Nat) : State × Nat :=
  match s.pools.find n with
  | none => (s, 0)
  | some p =>
    match s.versionOf c with
    | .live =>
      if (s.die p.home).logFull then (s, 0)
      else
        let (s, b) := s.ringPop n
        if b = 0 then (s, 0)
        else (s.appendLog p.home
          { held := false, free := false, pool := n, vid := c.vid, domain := c.launch.domain, block := b }, b)
    | .broke =>
      let (s, b) := s.ringPop n
      if b = 0 then (s, 0) else (s.ringPush n b, b)
    | _ => s.ringPop n

/-- Push for a block: from a live version the push is held in the log, from a broke one it is discarded. -/
def State.pushFor (s : State) (c : Core) (n b : Nat) : State :=
  match s.pools.find n with
  | none => s
  | some p =>
    match s.versionOf c with
    | .live =>
      if (s.die p.home).logFull then s.pushLost p.home
      else s.appendLog p.home { held := true, free := false, pool := n, vid := c.vid, domain := c.launch.domain, block := b }
    | .broke => s
    | _ => s.ringPush n b

/-! ## Major 0x23 -/

/-- The bad-pool check of a scalar operand (R256, R260). -/
def poolCheck (a : BitVec 6) : Ctx → State → Option W8 := fun c s =>
  let v := c.s a
  if c.pass = 0#32 then none
  else if v.extractLsb' 8 56 ≠ 0#56 then some 0x0B#8
  else match s.pools.find v.toNat with
    | some p => if p.enable then none else some 0x0B#8
    | none => some 0x0B#8

/-- In a redundant block the instruction is replaced by a trap (R261). -/
def Ctx.unlessRedundant (c : Ctx) (f : State → State) (s : State) : State :=
  if c.core.launch.redundant then c.trapWith 0x0E#8 0#8 c.pass s else f s

/-- `FLPOP` (R260). -/
def execFlpop (d a : BitVec 6) (s : State) : Out :=
  issue (.flpop d a) (poolCheck a) (fun c s =>
    c.unlessRedundant (fun s =>
      if !s.popReady (c.s a).toNat then c.wait .structural s
      else
      let (s, b) := s.popFor c.core (c.s a).toNat
      (c.next (c.putS s d (BitVec.ofNat 64 b))).endRun c.k c.a) s) s

/-- `FLPUSH` (R260). -/
def execFlpush (a b : BitVec 6) (s : State) : Out :=
  issue (.flpush a b) (poolCheck a) (fun c s =>
    c.unlessRedundant (fun s =>
      let n := (c.s a).toNat
      let x := (c.s b).toNat
      match s.pools.find n with
      | none => c.next s
      | some p =>
        if x = 0 ∨ p.nblk ≤ x ∨ 2 ^ 24 ≤ x then c.trapWith 8#8 3#8 c.pass s
        else if p.isFull && decide (s.versionOf c.core ≠ .live) && decide (s.versionOf c.core ≠ .broke) then
          c.trapWith 8#8 4#8 c.pass s
        else c.next (s.pushFor c.core n x)) s) s

end Sys2Proof.Machine
end

