-- ==== Sys2Proof/Machine/Egress.lean ====
section
/-! DEFINITION. Egress: major 0x21 (R251 to R255). -/

namespace Sys2Proof.Machine

/-- The egress-range trap (R251, R253, R254). -/
def Ctx.egressRange (c : Ctx) (lanes : W32) (s : State) : State := c.trapWith 8#8 2#8 lanes s

/-- A reservation of a block that is neither published nor void. -/
def Reservation.isOpen (r : Reservation) (k grid : Nat) : Bool :=
  decide (r.core = k) && decide (r.grid = grid) && !r.published && !r.written

/-- A position lies in a reservation. -/
def Reservation.covers (r : Reservation) (q : W32) : Bool := decide ((q - r.first).toNat < r.count)

/-- `n` more positions fit into a ring (R253). -/
def Egress.hasRoom (e : Egress) (n : Nat) : Bool := decide ((e.r + BitVec.ofNat 32 n - e.hcur).toNat ≤ e.size)

/-- Take `n` positions for a block (R253). -/
def State.reserve (s : State) (k : Nat) (c : Core) (n : Nat) : State :=
  let d := c.launch.domain
  (s.updDomain d fun x => { x with egress := { x.egress with
    r := x.egress.r + BitVec.ofNat 32 n
    reservations := x.egress.reservations ++
      [{ core := k, grid := c.grid, vid := c.vid, first := x.egress.r, count := n, published := false, isVoid := false, couched := false,
         publisher := none, written := false, pushed := [] }] } }).settleEgress d

/-- Write the scalar that a wait ends with, and go on past it. -/
def State.endWait (s : State) (k a : Nat) (w : SlotId) (d : Nat) (v : W64) (taint : Bool) : State :=
  (s.updThread k a fun t => t.landS s.now d v taint).advance k a w
    ((s.thread k a).slot w).pc

/-- An `EGRSV` of the block that issued in a cycle on a lower port, the access processor's being the last, waits still (R253). -/
def Core.reservesFirst (c : Core) (a since : Nat) : Bool :=
  let port (a : Nat) : Nat := if a ≥ 16 then 4 else a % 4
  (List.range 17).any fun b => decide (port b < port a) && [SlotId.a, SlotId.b].any fun w => match ((c.thread b).slot w).st with
    | .waiting (.egrsv _ _ _ t) => decide (t = since)
    | _ => false

/-- `EGRSV` (R253). -/
def execEgrsv (d a : BitVec 6) (s : State) : Out :=
  issue (.egrsv d a) noCheck (fun c s =>
    c.unlessRedundant (fun s =>
      let e := (s.domain c.core.launch.domain).egress
      let n := ((c.s a).setWidth 32 : W32).toNat
      if !e.configured then c.egressRange c.pass s
      else if n = 0 then (c.next (c.putS s d (e.r.setWidth 64))).endRun c.k c.a
      else if n > e.size then c.egressRange c.pass s
      else if e.hasRoom n ∧ !c.core.reservesFirst c.a s.now then (c.next (c.putS (s.reserve c.k c.core n) d (e.r.setWidth 64))).endRun c.k c.a
      else c.wait (.egrsv d.toNat c.taintAny n s.now) s) s) s

/-- End the wait of a slot at `EGRSV` once the ring has room (R253, R361). -/
def State.tryReserve (s : State) (k a : Nat) (w : SlotId) : State :=
  match s.core? k, ((s.thread k a).slot w).st with
  | some c, .waiting (.egrsv d taint n since) =>
    let e := (s.domain c.launch.domain).egress
    if c.acts && e.configured && e.hasRoom n && !c.reservesFirst a since then (s.reserve k c n).endWait k a w d (e.r.setWidth 64) taint else s
  | _, _ => s

/-- The reservations of a block whose version is broke are void, and what it pushes or publishes leaves them so (R252, R261). -/
def Ctx.reservesNothing (c : Ctx) (s : State) : Bool := decide (s.versionOf c.core = .broke)

/-- `EGPUB` (R254): a release at `.pkg` (R339), so the publication takes effect once the issuer's earlier accesses are performed. -/
def execEgpub (a : BitVec 6) (s : State) : Out :=
  issue (.egpub a) noCheck (fun c s =>
    c.unlessRedundant (fun s =>
      let dom := c.core.launch.domain
      let q : W32 := (c.s a).setWidth 32
      let mine (r : Reservation) : Bool := r.isOpen c.k c.core.grid && decide (r.first = q)
      if (s.domain dom).egress.configured && (s.domain dom).egress.reservations.any mine then
        c.next ((s.updDomain dom fun x => { x with egress := { x.egress with
          reservations := x.egress.reservations.map fun r => if mine r then { r with published := true, publisher := some (c.k, c.a, s.seq) } else r } }).settleEgress dom)
      else if c.reservesNothing s && (s.domain dom).egress.configured then c.next s
      else c.egressRange c.pass s) s) s

/-- `EGPUSH` (R254). DESIGN CHOICE (log 136, unsafe): the spec gives `sA`[63:32] no meaning here and in `EGPUB`; the position is `sA`[31:0], and the
lane is added modulo 2^32. -/
def execEgpush (a b : BitVec 6) (s : State) : Out :=
  issue (.egpush a b) noCheck (fun c s =>
    c.unlessRedundant (fun s =>
      let dom := c.core.launch.domain
      let pos (i : Nat) : W32 := (c.s a).setWidth 32 + BitVec.ofNat 32 i
      let inOpen (i : Nat) : Bool := (s.domain dom).egress.configured &&
        (s.domain dom).egress.reservations.any fun r => r.isOpen c.k c.core.grid && r.covers (pos i)
      let lanes := c.actLanes
      let bad := maskOf fun i => lanes.contains i && !inOpen i
      if bad ≠ 0#32 then (if c.reservesNothing s && (s.domain dom).egress.configured then c.next s else c.egressRange (if c.ap then c.pass else bad) s)
      else
        c.next (lanes.foldl (fun s i =>
          let token : W32 := if c.ap then (c.s b).setWidth 32 else c.v b i
          (s.putShadow dom (pos i) (slotWord 3 c.core.vid token)).updDomain dom fun x => { x with egress := { x.egress with
            reservations := x.egress.reservations.map fun r =>
              if r.isOpen c.k c.core.grid && r.covers (pos i) && !r.pushed.contains (pos i)
              then { r with pushed := r.pushed ++ [pos i] } else r } }) s)) s) s

/-- The checks of operand values of `EGREL`, in their order (R255). -/
def egrelCheck (a : BitVec 6) : Ctx → State → Option W8 := fun c _ =>
  if c.pass = 0#32 then none
  else if (c.s a).extractLsb' 6 58 ≠ 0#58 then some 9#8
  else if c.core.vid ≠ 0 then some 0x0A#8 else none

/-- The address of a position in the host-visible ring (R251). -/
def Egress.baseSlot (e : Egress) (q : W32) : Nat := e.base + 8 * (q.toNat % e.size)

/-- Release one position (R255): with `reject`, a token becomes void first. -/
def State.releasePosition (s : State) (d : Nat) (q : W32) (reject : Bool) : State :=
  let e := (s.domain d).egress
  let base := e.baseSlot q
  let (s, v, _) := s.readCommitted (e.shadowSlot q) 3
  let no := reject && decide (v.extractLsb' 40 8 = 1#8)
  let v := if no then slotWord 2 (v.extractLsb' 32 8).toNat (v.setWidth 32) else v
  let s := if no then s.putShadow d q v else s
  let s := (s.instantMessage (d % Config.dies) (homeDie base)).writeCommitted base 3 v
  if isFar (base / 128) then s.flushLine base else s

/-- LCUR takes the release cursor that an `EGREL` reached, unless it is past it already. -/
def Egress.publishLcur (e : Egress) (l : W32) : Egress := if (l - e.lcur).toNat < 2 ^ 31 then { e with lcur := l } else e

/-- What die `e` knows of the shadow below P, and what the egress unit may write, need no wait: the slots' writes are performed and known to the
reader, and the slots of the ring can be written at once (R255, R331). -/
def State.slotsReady (s : State) (d e : Nat) : Bool :=
  let g := (s.domain d).egress
  let unit := d % Config.dies
  (List.range ((g.p - g.l).toNat / 16 + 2)).all fun j =>
    let q := g.l + BitVec.ofNat 32 (16 * j)
    s.viewReady unit (g.shadowSlot q) && s.viewReady e (g.shadowSlot q) && s.instantReady unit (homeDie (g.baseSlot q))

/-- Reading P is an acquire of the shadow's slots: no load finds an older one in L1, or brings it there (R255). -/
def Core.acquireShadow (c : Core) (e : Egress) : Core :=
  let inRing (line : Nat) : Bool := decide (e.shadow / 128 ≤ line) && decide (line ≤ (e.shadow + 8 * e.size) / 128)
  let asked := c.thr.flatMap fun t => t.inflight.flatMap fun x => (x.reqs.map fun r => r.line).filter inRing
  (((c.l1.map fun l => l.line).filter inRing) ++ asked).foldl (fun c line => c.distrust line 0xF#4) c

/-- The release of an `EGREL` (R255, R339), once its slots are written: the issuer's earlier accesses must be performed at `.pkg`, then every D sector
of host and peer lines is written back and acknowledged. What to wait for next; none where all is done. -/
def State.releaseStep (s : State) (k a : Nat) (asked : Option (Nat × Nat)) : State × Option (Option (Nat × Nat)) :=
  if !(s.thread k a).fenceReady .rel || s.updatesOut k a then (s, some none)
  else
    let (s, h, u) : State × Nat × Nat := match asked with
      | some (h, u) => (s, h, u)
      | none =>
        let s := s.writeBackFar
        (s, s.host.nextId, s.ualink.nextId)
    if s.farDone .sys h u then (s, none) else (s, some (some (h, u)))

/-- What `EGREL` and `EGREL.v` do (R255). -/
def Ctx.release (c : Ctx) (d a b : BitVec 6) (reject : Bool) (s : State) : State :=
  let dom := ((c.s a).extractLsb' 0 6).toNat
  if !(s.domain dom).egress.configured then c.egressRange c.pass s
  else
    let s := s.settleEgress dom
    let e := (s.domain dom).egress
    if !s.slotsReady dom (dieOfCore c.k) then c.wait .structural s
    else
    let ahead := ((c.s b).setWidth 32 - e.l : W32).toNat
    let n := if 2 ^ 31 ≤ ahead then 0 else min ahead (e.p - e.l).toNat
    let s := (List.range n).foldl (fun s j => s.releasePosition dom (e.l + BitVec.ofNat 32 j) reject) s
    let l := e.l + BitVec.ofNat 32 n
    let v : W64 := (e.p ++ l)
    let s := (s.updDomain dom fun x => { x with egress := { x.egress with l := l } }).updCore c.k fun x => x.acquireShadow e
    let finish (s : State) : State := (c.next (c.putS s d v)).endRun c.k c.a
    if n = 0 then finish s
    else match s.releaseStep c.k c.a none with
      | (s, none) => finish (s.updDomain dom fun x => { x with egress := x.egress.publishLcur l })
      | (s, some asked) => c.wait (.egrel dom d.toNat c.taintAny v asked) s

/-- End the wait of a slot at `EGREL` once its release is done. -/
def State.tryRelease (s : State) (k a : Nat) (w : SlotId) : State :=
  match s.blockActs k, ((s.thread k a).slot w).st with
  | true, .waiting (.egrel dom d taint v asked) =>
    match s.releaseStep k a asked with
    | (s, none) => (s.updDomain dom fun x => { x with egress := x.egress.publishLcur (v.setWidth 32) }).endWait k a w d v taint
    | (s, some asked) => s.updSlot k a w fun sl => { sl with st := .waiting (.egrel dom d taint v asked) }
  | _, _ => s

/-- `EGREL` (R255). -/
def execEgrel (d a b : BitVec 6) (s : State) : Out :=
  issue (.egrel d a b) (egrelCheck a) (fun c s => c.unlessRedundant (fun s => c.release d a b false s) s) s

/-- `EGREL.v` (R255). -/
def execEgrelV (d a b : BitVec 6) (s : State) : Out :=
  issue (.egrelV d a b) (egrelCheck a) (fun c s => c.unlessRedundant (fun s => c.release d a b true s) s) s

end Sys2Proof.Machine
end

