-- ==== Sys2Proof/Machine/Matrix.lean ====
section
/-! DEFINITION. The matrix engine and the issue of drains: majors 0x1E and 0x1F, MATRIX_COMMAND_START,
MATRIX_COMMAND_COMPLETE and DRAIN_COMPLETE (R226 to R241). -/

namespace Sys2Proof.Machine

/-! ## Operands of an MMA (R226) -/

/-- The elements of a row along K. -/
def mmaK (type : Nat) : Nat := if type = 4 then 128 else if type ≥ 7 then 32 else 64

/-- A type with E8M0 scales. -/
def mmaScaled (type : Nat) : Bool := decide (type ≤ 4)

/-- The bytes of an operand. -/
def mmaFootprint (type : Nat) : Nat := if mmaScaled type then 4352 else 4096

/-- An integer as a value. -/
def intNum (b : W8) (signed : Bool) : Num := numOfInt (if signed then b.toInt else Int.ofNat b.toNat)

/-- The value of element `k` of a row, whose bytes are given by place (R226). -/
def mmaElem (type : Nat) (row : Nat → W8) (k : Nat) : Num :=
  let b := row k
  let h : Nat := (row (2 * k)).toNat + 256 * (row (2 * k + 1)).toNat
  match type with
  | 0 => e4m3.decode b.toNat
  | 1 => e5m2.decode b.toNat
  | 2 => e2m3.decode (b.toNat % 64)
  | 3 => e3m2.decode (b.toNat % 64)
  | 4 => e2m1.decode ((row (k / 2)).toNat / (if k % 2 = 0 then 1 else 16) % 16)
  | 5 => intNum b true
  | 6 => intNum b false
  | 7 => bf16.decode h
  | _ => fp16.decode h

/-- A value times a power of two. -/
def Num.scaleBy (x : Num) (k : Int) : Num :=
  match x with
  | .fin n m e => .fin n m (e + k)
  | y => y

/-- One chunk of 32 products, rounded once (R229). -/
def mmaChunk (type : Nat) (a w : Nat → W8) (sa sw : W8) (j : Nat) : Nat :=
  if mmaScaled type && (decide (sa = 0xFF#8) || decide (sw = 0xFF#8)) then fp32.canonical
  else
    let ka : Int := if mmaScaled type then Int.ofNat sa.toNat - 127 else 0
    let kw : Int := if mmaScaled type then Int.ofNat sw.toNat - 127 else 0
    (sumRound ((List.range 32).map fun i =>
      .prod ((mmaElem type a (32 * j + i)).scaleBy ka) ((mmaElem type w (32 * j + i)).scaleBy kw)) fp32 .rne).1

/-- One output element: the chunks in ascending K (R229). -/
def mmaOut (type : Nat) (a w : Nat → W8) (sa sw : Nat → W8) (c : Nat) : Nat :=
  (List.range (mmaK type / 32)).foldl (fun c j =>
    (sumRound [.one (fp32.decode c), .one (fp32.decode (mmaChunk type a w (sa j) (sw j) j))] fp32 .rne).1) c

/-- A byte as a command reads it that may not rely on it: of each note that has the byte, newest first, a free bit says whether what it replaced is
read or what stands there (R216, R234); where that is undefined, a free value. -/
def looseByte (sp : Space) (x : Nat) (now : W8) (free : Nat) (ls : List Loose) : W8 :=
  match ls with
  | [] => now
  | l :: rest =>
    if l.space = sp ∧ l.addr ≤ x ∧ x < l.addr + l.len then
      match l.old with
      | none => Config.freeByte (free + x)
      | some bs => if Config.freeBit (free + x) then looseByte sp x (nth bs (x - l.addr) 0#8) (free + 2 ^ 22) rest else now
    else looseByte sp x now (free + 2 ^ 22) rest

/-- The mark of a byte as a command reads it: that of the value which it takes (R230, R234); where the value is undefined, the old mark or the new one. -/
def looseMark (sp : Space) (x : Nat) (now : Bool) (free : Nat) (ls : List Loose) : Bool :=
  match ls with
  | [] => now
  | l :: rest =>
    if l.space = sp ∧ l.addr ≤ x ∧ x < l.addr + l.len ∧ Config.freeBit (free + x) then
      looseMark sp x (l.bad.contains (x / 32)) (free + 2 ^ 22) rest
    else if l.space = sp ∧ l.addr ≤ x ∧ x < l.addr + l.len then now
    else looseMark sp x now (free + 2 ^ 22) rest

/-- A byte of an operand as a command reads it (R234). -/
def MatrixCmd.byte (m : MatrixCmd) (sp : Space) (mem : Mem) (free x : Nat) : W8 := looseByte sp x (mem.read x) free m.loose

/-- Some byte of a row or of its scales lies in a marked sector, as the command reads it (R230, R234). -/
def MatrixCmd.rowPoisoned (m : MatrixCmd) (sp : Space) (bad : List Nat) (free type base r : Nat) : Bool :=
  let mark (x : Nat) : Bool := looseMark sp x (bad.contains (x / 32)) free m.loose
  let row := if m.loose = [] then [0, 32] else List.range 64
  (row.any fun i => mark (base + 64 * r + i)) ||
    (mmaScaled type && (List.range (mmaK type / 32)).any fun j => mark (base + 4096 + 4 * r + j))

/-- The address of element (`m`, `n`) of a tile (R227). -/
def tileAddr (t m n : Nat) : Nat := 0x4000 * t + 256 * m + 4 * n

/-- The effect of an MMA on its tile (R229, R230); `free` numbers the free values, of which it uses fewer than 2^22 for each note and 2^22 more. -/
def Core.mma (c : Core) (cmd : MatrixCmd) (type a b free : Nat) : Core :=
  let ra (m i : Nat) : W8 := cmd.byte .ta c.ta free (a + 64 * m + i)
  let rw (n i : Nat) : W8 := cmd.byte .tw c.tw (free + 2 ^ 20) (b + 64 * n + i)
  let cells := (List.range 64).flatMap fun m => (List.range 64).map fun n => (m, n)
  let bad (m n : Nat) : Bool := cmd.rowPoisoned .ta c.taPoison free type a m || cmd.rowPoisoned .tw c.twPoison (free + 2 ^ 20) type b n
  let value (m n : Nat) : Nat :=
    if bad m n then (Config.freeWord (free + 2 ^ 21 + 64 * m + n)).toNat
    else mmaOut type (ra m) (rw n) (fun j => ra 64 (4 * m + j)) (fun j => rw 64 (4 * n + j)) (c.tc.readNat (tileAddr cmd.tile m n) 4)
  { c with
    tc := cells.foldl (fun t x => t.writeBytes (tileAddr cmd.tile x.1 x.2) (bytesOfNat 4 (value x.1 x.2))) c.tc
    tcPoison := cells.foldl (fun p x => if bad x.1 x.2 then setAdd p (tileAddr cmd.tile x.1 x.2 / 32) else p) c.tcPoison }

/-- The effect of `MZERO` on a tile (R230). -/
def Core.mzero (c : Core) (t : Nat) : Core :=
  let inTile (x : Nat) : Bool := decide (0x4000 * t ≤ x) && decide (x < 0x4000 * (t + 1))
  { c with tc := c.tc.filter fun p => !inTile p.1, tcPoison := c.tcPoison.filter fun sec => !inTile (32 * sec) }

/-! ## Issue (R231 to R233, R235, R236) -/

/-- Put a command into the queue. DESIGN CHOICE (log 139, unsafe): the spec does not say when an entry of the queue becomes free; it does when its
command starts. -/
def Ctx.queueMatrix (c : Ctx) (t : BitVec 6) (op : MatrixOp) (s : State) : State :=
  if (c.core.mx.filter fun m => decide (m.st = .queued)).length ≥ Config.matrixQueue then c.wait .structural s
  else
    let s := { s with seq := s.seq + 1 }
    c.next (s.updCore c.k fun x =>
      { x with
        nextMx := x.nextMx + 1
        mx := x.mx ++ [{ id := x.nextMx, tag := s.seq - 1, pc := c.iss.pc, tile := t.toNat, op := op, batch := x.curBatch,
                         loose := x.loose, st := .queued }] })

/-- The tile lies within the C allocation (R231). -/
def Ctx.tileOk (c : Ctx) (t : BitVec 6) : Bool := decide (0x4000 * (t.toNat + 1) ≤ c.core.launch.tileC)

/-- `MMA` (R228, R231). -/
def execMma (d a b : BitVec 6) (m : BitVec 4) (s : State) : Out :=
  issue (.mma d a b m) noCheck (fun c s =>
    let x := (c.s a).toNat
    let y := (c.s b).toNat
    let n := mmaFootprint m.toNat
    if x % 256 ≠ 0 ∨ y % 512 ≠ 0 then c.trapWith 8#8 0#8 c.pass s
    else if x + n > c.core.launch.tileA ∨ y + n > c.core.launch.tileW ∨ !c.tileOk d then c.trapWith 8#8 1#8 c.pass s
    else c.queueMatrix d (.mma m.toNat x y) s) s

/-- `MZERO` (R228, R231). -/
def execMzero (d : BitVec 6) (s : State) : Out :=
  issue (.mzero d) noCheck (fun c s =>
    if !c.tileOk d then c.trapWith 8#8 1#8 c.pass s else c.queueMatrix d .mzero s) s

/-- `MBATCH` (R233). -/
def execMbatch (d : BitVec 6) (s : State) : Out :=
  issue (.mbatch d) noCheck (fun c s =>
    let s := c.putSClean s d (c.core.curBatch.setWidth 64)
    let s := s.updCore c.k fun x => { x with curBatch := x.curBatch + 1#32 }
    (c.next s).settleBatches c.k) s

/-! ### Epilogue programs (R235, R238) -/

/-- The words of a program, up to its `EEND`; none where sixteen words hold none, or one is illegal. -/
def programOf (ws : List W32) : Option (List W32) :=
  match ws with
  | [] => none
  | w :: rest =>
    match decodeEpi w with
    | none => none
    | some .eend => some [w]
    | some _ => (programOf rest).map fun p => w :: p

/-- A word stores into shared memory. -/
def isEst (w : W32) : Bool := match decodeEpi w with | some (.est _ _) => true | _ => false

/-- A word writes to global memory. -/
def isGlobalStore (w : W32) : Bool := match decodeEpi w with | some (.estg _ _) => true | some (.ered _) => true | _ => false

/-- A program uses one kind of store (R238). -/
def programOk (p : List W32) : Bool := !(p.any isEst && p.any isGlobalStore)

/-- Read the 64 bytes of a program in the view of the block: a fatal address, no answer yet, an absent page, or its words. -/
inductive ProgramRead where
  | fatal (detail : W8)
  | pending
  | absent (page : Nat)
  | words (ws : List W32)
  deriving DecidableEq, Repr

/-- Read a program. DESIGN CHOICE (log 138, unsafe): the spec does not say what a program in a poisoned sector does; its words are used as they stand. -/
def Ctx.readProgram (c : Ctx) (va : W64) (s : State) : State × ProgramRead :=
  match s.translate c.k c.core.launch.asid va .read with
  | (s, .fatal d _) => (s, .fatal d)
  | (s, .pending) => (s, .pending)
  | (s, .absent _) => (s, .absent (vaNat va / 2 ^ 16))
  | (s, .resident e) =>
    let pa := e.phys (vaNat va)
    let r := { c.core.engineReq c.k (.access c.k c.a 0) 0 0 e (pa / 128) with
      elems := (List.range 16).map fun i => engineElem (pa + 4 * i) 2 .read }
    if s.peerMissing r ≠ 0#4 then (s.askPeer r.line (s.peerMissing r) 0, .pending)
    else if !s.viewReady (dieOfCore c.k) pa then (s, .pending)
    else
      let (s, r) := (s.wake pa).performReq r c.k c.a
      (s, .words (r.elems.map fun e => e.got.setWidth 32))

/-- `EPISET` (R235). -/
def execEpiset (a b : BitVec 6) (s : State) : Out :=
  issue (.episet a b) (fun c _ =>
    if decide (c.pass ≠ 0#32) && (decide ((c.s a).extractLsb' 8 56 ≠ 0#56) || decide ((c.s b).extractLsb' 32 32 ≠ 0#32)) then some 9#8
    else none) (fun c s =>
    let n := (c.s a).toNat
    let aux := (c.s b).toNat
    if n ≥ c.core.launch.epiCount then c.trap (illegal 8#8 c.iss.pc c.pass) s
    else
      let va := c.core.launch.epitab + BitVec.ofNat 64 (64 * n)
      match c.readProgram va s with
      | (s, .fatal d) =>
        if c.core.squashed then s.discardFault c.k c.a else
        let q : Ask := { kind := .load, path := .gl, size := 4, wants := [], lanes := c.pass }
        c.next (c.append { c.outstanding q s.seq with stuck := true } (s.reportFatal c.k c.a d c.iss.pc va 0#8))
      | (s, .pending) => c.wait .structural s
      | (s, .absent page) =>
        if c.core.squashed then s.discardFault c.k c.a
        else c.wait (.page c.core.launch.asid page) (s.requestPage (dieOfCore c.k) c.core.launch.asid page none)
      | (s, .words ws) =>
        match programOf ws with
        | none => c.trap (illegal 8#8 c.iss.pc c.pass) s
        | some p =>
          if !programOk p then c.trap (illegal 8#8 c.iss.pc c.pass) s
          else if aux % 4 ≠ 0 then c.trapWith 8#8 0#8 c.pass s
          else c.next (s.updCore c.k fun x => { x with epiProgram := p, epiAux := aux })) s

/-- The bound that an `EST` of a program needs in shared memory (R236). -/
def estBound (p : List W32) (dest pitch : Nat) : Nat :=
  p.foldl (fun m w => match decodeEpi w with
    | some (.est _ z) => max m (dest % 2 ^ 32 + 63 * pitch + 64 * 2 ^ z.toNat)
    | _ => m) 0

/-- The bound that an auxiliary load of a program needs in shared memory (R236). -/
def auxBound (p : List W32) (aux : Nat) : Nat :=
  p.foldl (fun m w => match decodeEpi w with
    | some (.eldb _ o) => max m (aux + 4 * o.toNat + 256)
    | some (.elds _ o) => max m (aux + 4 * o.toNat + 256)
    | _ => m) 0

/-- `DRAIN` (R236): its checks, then the queue; it uses the setting in force. The illegal-instruction condition comes before the misaligned faults, as
R104 has it, the tile bound of R231 among them (log 141). -/
def execDrain (d a b : BitVec 6) (s : State) : Out :=
  issue (.drain d a b) (fun c _ =>
    if decide (c.pass ≠ 0#32) && decide ((c.s b).extractLsb' 49 15 ≠ 0#15) then some 0#8 else none) (fun c s =>
    let v := c.s b
    let dest := (c.s a).toNat
    let pitch := (v.extractLsb' 0 32).toNat
    let bar := if v.getLsbD 48 then some (16 * (v.extractLsb' 32 16).toNat) else none
    let p := c.core.epiProgram
    let shared := c.core.launch.shared
    if dest % 4 ≠ 0 ∨ pitch % 4 ≠ 0 then c.trapWith 8#8 0#8 c.pass s
    else if !c.tileOk d || (bar.any fun x => !c.core.hasBarrier x) || decide (shared < estBound p dest pitch) ||
        decide (shared < auxBound p c.core.epiAux) then c.trapWith 8#8 1#8 c.pass s
    else
      let s := s.updCore c.k fun x => { x with namedBars := match bar with | some y => setAdd x.namedBars y | none => x.namedBars }
      c.queueMatrix d (.drain (c.s a) pitch bar p c.core.epiAux) s) s

/-! ## The engine (R232, R233) -/

/-- A drain has read its whole tile (R232). -/
def EpiRun.readAll (r : EpiRun) : Bool := r.finished || (decide (r.row = 63) && decide (r.group = 3))

/-- A command writes its tile. -/
def MatrixOp.writesTile (o : MatrixOp) : Bool :=
  match o with
  | .drain _ _ _ _ _ => false
  | _ => true

/-- The earlier commands of its tile let a command start (R232). -/
def MatrixCmd.startsAfter (m x : MatrixCmd) : Bool :=
  decide (x.tile ≠ m.tile) ||
    match x.op, x.st with
    | _, .done => true
    | .drain _ _ _ _ _, .draining r => !m.op.writesTile || r.readAll
    | .drain _ _ _ _ _, _ => !m.op.writesTile
    | _, _ => false

/-- Registers of zeros. -/
def epiZeros : List (List W32) := List.replicate 16 (List.replicate 16 0#32)

/-- The start of a group: its elements in `e0`, the other registers zero (R237). -/
def Core.startGroup (c : Core) (tile : Nat) (r : EpiRun) : EpiRun :=
  let at_ (j : Nat) : Nat := tileAddr tile r.row (16 * r.group + j)
  { r with
    word := 0
    e := ((List.range 16).map fun j => BitVec.ofNat 32 (c.tc.readNat (at_ j) 4)) :: epiZeros.drop 1
    pois := ((List.range 16).map fun j => c.tcPoison.contains (at_ j / 32)) ::
      List.replicate 15 (List.replicate 16 false) }

/-- The first run of a drain. -/
def EpiRun.first : EpiRun :=
  { row := 0, group := 0, word := 0, e := epiZeros, pois := [], writes := [], finished := false, peerSectors := 0, peerLine := 0,
    signalled := 0 }

/-- Change a matrix command. -/
def Core.updMx (c : Core) (id : Nat) (f : MatrixCmd → MatrixCmd) : Core :=
  { c with mx := c.mx.map fun m => if m.id = id then f m else m }

/-- Change a matrix command of the package. -/
def State.updMx (s : State) (k id : Nat) (f : MatrixCmd → MatrixCmd) : State := s.updCore k fun c => c.updMx id f

/-- The next queued command, with those before it. -/
def nextQueued (before mx : List MatrixCmd) : Option (List MatrixCmd × MatrixCmd) :=
  match mx with
  | [] => none
  | m :: rest => if m.st = .queued then some (before, m) else nextQueued (before ++ [m]) rest

/-- `MATRIX_COMMAND_START` (R232): the next command in queue order starts, if the commands of its tile before it let it. -/
def execMatrixCommandStart (core : Nat) (s : State) : Out :=
  .next (match s.core? core with
    | none => s
    | some c =>
      match nextQueued [] c.mx with
      | none => s
      | some (before, m) =>
        if !before.all fun x => m.startsAfter x then s
        else s.updMx core m.id fun x =>
          { x with st := match x.op with
            | .drain _ _ _ _ _ => .draining (c.startGroup x.tile EpiRun.first)
            | _ => .running })

/-- A command completes (R233). -/
def State.endMx (s : State) (k id : Nat) : State :=
  (s.updMx k id fun m => { m with st := .done, loose := [] }).settleBatches k

/-- `MATRIX_COMMAND_COMPLETE` (R229, R230, R233): the running command at place `idx` finishes writing its tile. -/
def execMatrixCommandComplete (core idx : Nat) (s : State) : Out :=
  .next (match s.core? core with
    | none => s
    | some c =>
      match c.mx[idx]? with
      | none => s
      | some m =>
        if m.st ≠ .running then s
        else match m.op with
          | .mma type a b =>
            let s := s.updCore core fun c => c.mma m type a b s.free
            { s with free := s.free + 2 ^ 22 * (m.loose.length + 1) }.endMx core m.id
          | .mzero => (s.updCore core fun c => c.mzero m.tile).endMx core m.id
          | .drain _ _ _ _ _ => s)

/-! ## The end of a drain (R239, R241) -/

/-- The barrier that a drain names. -/
def MatrixOp.barrier (o : MatrixOp) : Option Nat :=
  match o with
  | .drain _ _ b _ _ => b
  | _ => none

/-- A drain counts its 512 units once and completes. -/
def State.endDrain (s : State) (k : Nat) (m : MatrixCmd) : State :=
  let s := s.updCore k fun c =>
    let c := c.noteWrites (match m.st with | .draining r => r.writes | _ => [])
    match m.op.barrier with
    | some b => c.onBar b (TransBar.count 512)
    | none => c
  (s.wakeBars k).endMx k m.id

/-- A drain fails or is cancelled (R239, R241): it writes nothing more, and its code goes to its barrier. -/
def State.failDrain (s : State) (k : Nat) (m : MatrixCmd) (code : Nat) : State :=
  let s := match m.st with
    | .draining r => s.dropWrites r.writes
    | _ => s
  let s := s.updCore k fun c => c.barError m.op.barrier code
  (s.engineFailure k 18 code m.pc).endDrain k m

/-- Signal the sectors of a drain that went to a peer (R426). -/
def State.signalDrain (s : State) (k : Nat) (m : MatrixCmd) (r : EpiRun) (last : Bool) : State :=
  if r.peerSectors - r.signalled ≥ 64 ∨ (last ∧ r.signalled < r.peerSectors) then
    (s.sendSignal r.peerLine (.drainSignal k m.id)).updMx k m.id fun x => { x with st := .draining { r with signalled := r.peerSectors } }
  else s

/-- A signal of a drain waits for its answer. -/
def State.drainSignalsOut (s : State) (k id : Nat) : Bool := s.ualink.out.any fun o => decide (o.what = .drainSignal k id)

/-- `DRAIN_COMPLETE` (R239): the drain at place `idx` completes once its words are done, its writes are answered and its signals
too. In a broke version it is cancelled (R241). -/
def execDrainComplete (core idx : Nat) (s : State) : Out :=
  .next (match s.core? core with
    | none => s
    | some c =>
      match c.mx[idx]? with
      | none => s
      | some m =>
        match m.st with
        | .draining r =>
          if c.squashed then s.failDrain core m 1
          else if !r.finished || !answeredAll r.writes then s
          else if r.signalled < r.peerSectors then s.signalDrain core m r true
          else if s.drainSignalsOut core m.id then s
          else s.endDrain core m
        | _ => s)

end Sys2Proof.Machine
end

