-- ==== Sys2Proof/Machine/Epilogue.lean ====
section
/-! DEFINITION. The epilogue processor: the words of an epilogue program, each acting on 16 elements (R237 to R239, R268,
R270). -/

namespace Sys2Proof.Machine

/-- What an epilogue word sees: the core, its block, the drain and its run. -/
structure EpiCtx where
  k : Nat
  core : Core
  cmd : MatrixCmd
  run : EpiRun
  deriving DecidableEq, Repr

/-- The drain that the epilogue processor runs: the first whose runs have not all ended. -/
def Core.activeDrain (c : Core) : Option (MatrixCmd × EpiRun) :=
  match c.mx with
  | [] => none
  | _ => c.mx.findSome? fun m => match m.st with
    | .draining r => if r.finished then none else some (m, r)
    | _ => none

/-- The destination of the drain. -/
def EpiCtx.dest (x : EpiCtx) : Nat := match x.cmd.op with | .drain d _ _ _ _ => d.toNat | _ => 0

/-- The bytes from one output row to the next. -/
def EpiCtx.pitch (x : EpiCtx) : Nat := match x.cmd.op with | .drain _ p _ _ _ => p | _ => 0

/-- The auxiliary base of the drain. -/
def EpiCtx.aux (x : EpiCtx) : Nat := match x.cmd.op with | .drain _ _ _ _ a => a | _ => 0

/-- The program of the drain. -/
def EpiCtx.program (x : EpiCtx) : List W32 := match x.cmd.op with | .drain _ _ _ p _ => p | _ => []

/-- The column of element `j`. -/
def EpiCtx.col (x : EpiCtx) (j : Nat) : Nat := 16 * x.run.group + j

/-- Element `j` of a register. -/
def EpiCtx.el (x : EpiCtx) (r : BitVec 4) (j : Nat) : W32 := nth (nth x.run.e r.toNat []) j 0#32

/-- Element `j` of a register, as a code. -/
def EpiCtx.code (x : EpiCtx) (r : BitVec 4) (j : Nat) : Nat := (x.el r j).toNat

/-- Some element of a register is poisoned. -/
def EpiCtx.poisoned (x : EpiCtx) (r : BitVec 4) : Bool := (nth x.run.pois r.toNat []).any fun b => b

/-- Replace the run of the drain. -/
def EpiCtx.setRun (x : EpiCtx) (r : EpiRun) (s : State) : State := s.updMx x.k x.cmd.id fun m => { m with st := .draining r }

/-- Go on with the next word. -/
def EpiCtx.next (x : EpiCtx) (s : State) : State := x.setRun { x.run with word := x.run.word + 1 } s

/-- Write a register and go on. -/
def EpiCtx.put (x : EpiCtx) (d : BitVec 4) (f : Nat → W32) (s : State) : State :=
  x.setRun { x.run with
    word := x.run.word + 1
    e := alterPad [] x.run.e d.toNat fun _ => (List.range 16).map f
    pois := alterPad [] x.run.pois d.toNat fun _ => List.replicate 16 false } s

/-- Execute an epilogue word: in a broke version the drain is cancelled (R241), and reading a poisoned element fails it
(R239). -/
def epilogue (reads : List (BitVec 4)) (body : EpiCtx → State → State) (s : State) : Out :=
  match s.cur with
  | none => .fault .noIssuer
  | some iss =>
    match s.core? iss.core with
    | none => .fault .noIssuer
    | some c =>
      match c.activeDrain with
      | none => .fault .noIssuer
      | some (m, r) =>
        let x : EpiCtx := { k := iss.core, core := c, cmd := m, run := r }
        .next (if c.squashed then s.failDrain iss.core m 1
          else if reads.any fun e => x.poisoned e then s.failDrain iss.core m 3
          else body x s)

/-- The code of a number of type FP32, from an exact value. -/
def f32 (x : Num) : W32 := BitVec.ofNat 32 (convert x fp32 .rne 0).1

/-- `ENOP`. -/
def execEnop (s : State) : Out := epilogue [] (fun x s => x.next s) s

/-- `EADD`. -/
def execEadd (d a b : BitVec 4) (s : State) : Out :=
  epilogue [a, b] (fun x => x.put d fun j =>
    BitVec.ofNat 32 (sumRound [.one (fp32.decode (x.code a j)), .one (fp32.decode (x.code b j))] fp32 .rne).1) s

/-- `EMUL`. -/
def execEmul (d a b : BitVec 4) (s : State) : Out :=
  epilogue [a, b] (fun x => x.put d fun j =>
    BitVec.ofNat 32 (sumRound [.prod (fp32.decode (x.code a j)) (fp32.decode (x.code b j))] fp32 .rne).1) s

/-- `EFMA`. -/
def execEfma (d a b : BitVec 4) (s : State) : Out :=
  epilogue [a, b, d] (fun x => x.put d fun j =>
    BitVec.ofNat 32 (sumRound [.prod (fp32.decode (x.code a j)) (fp32.decode (x.code b j)), .one (fp32.decode (x.code d j))]
      fp32 .rne).1) s

/-- `EMAX`. -/
def execEmax (d a b : BitVec 4) (s : State) : Out :=
  epilogue [a, b] (fun x => x.put d fun j => BitVec.ofNat 32 (fmaxCode fp32 (x.code a j) (x.code b j))) s

/-- `EMIN`. -/
def execEmin (d a b : BitVec 4) (s : State) : Out :=
  epilogue [a, b] (fun x => x.put d fun j => BitVec.ofNat 32 (fminCode fp32 (x.code a j) (x.code b j))) s

/-- `ECLAMP`. -/
def execEclamp (d a b : BitVec 4) (s : State) : Out :=
  epilogue [d, a, b] (fun x => x.put d fun j =>
    BitVec.ofNat 32 (fclampCode fp32 (x.code d j) (x.code a j) (x.code b j))) s

/-- `EEXP2`. -/
def execEexp2 (d a : BitVec 4) (s : State) : Out :=
  epilogue [a] (fun x => x.put d fun j => BitVec.ofNat 32 (exp2Code (x.code a j)).1) s

/-- An FP32 code rounded to a narrow type, as `ECVT` codes it. -/
def ecvtCode (c : BitVec 3) (a : Nat) : Nat :=
  let v := fp32.decode a
  match c.toNat with
  | 0 => (convert v bf16 .rne 0).1
  | 1 => (convert v fp16 .rne 0).1
  | 2 => (convert v e4m3 .rne 0).1
  | 3 => (convert v e5m2 .rne 0).1
  | 4 => ((cvtInt v (-128) 127 .rne).1 % 256).toNat
  | _ => (cvtInt v 0 255 .rne).1.toNat

/-- `ECVT`. -/
def execEcvt (d a : BitVec 4) (c : BitVec 3) (s : State) : Out :=
  epilogue [a] (fun x => x.put d fun j => BitVec.ofNat 32 (ecvtCode c (x.code a j))) s

/-- `EMOV eD, eA`. -/
def execEmovReg (d a : BitVec 4) (s : State) : Out := epilogue [a] (fun x => x.put d fun j => x.el a j) s

/-- `EMOV eD, #k`. -/
def execEmovImm (d : BitVec 4) (k : BitVec 14) (s : State) : Out :=
  epilogue [] (fun x => x.put d fun _ => k.setWidth 32 <<< 18) s

/-- `ESEL`. -/
def execEsel (d a b : BitVec 4) (s : State) : Out :=
  epilogue [d, a, b] (fun x => x.put d fun j => if x.el d j ≠ 0#32 then x.el a j else x.el b j) s

/-- `EROW`. -/
def execErow (d : BitVec 4) (s : State) : Out := epilogue [] (fun x => x.put d fun _ => f32 (numOfInt x.run.row)) s

/-- `ECOL`. -/
def execEcol (d : BitVec 4) (s : State) : Out := epilogue [] (fun x => x.put d fun j => f32 (numOfInt (x.col j))) s

/-- Load auxiliary words; a poisoned one fails the drain (R239). -/
def EpiCtx.loadAux (x : EpiCtx) (d : BitVec 4) (addr : Nat → Nat) (s : State) : State :=
  if (List.range 16).any fun j => x.core.shPoison.contains (addr j / 32) then s.failDrain x.k x.cmd 3
  else x.put d (fun j => BitVec.ofNat 32 (x.core.sh.readNat (addr j) 4)) s

/-- `ELDB`. -/
def execEldb (d : BitVec 4) (o : BitVec 12) (s : State) : Out :=
  epilogue [] (fun x => x.loadAux d fun j => x.aux + 4 * o.toNat + 4 * x.col j) s

/-- `ELDS`. -/
def execElds (d : BitVec 4) (o : BitVec 12) (s : State) : Out :=
  epilogue [] (fun x => x.loadAux d fun _ => x.aux + 4 * o.toNat + 4 * x.run.row) s

/-! ## Stores (R237, R268, R270) -/

/-- The place of a word in the order of a drain. -/
def runOrder (row group word : Nat) : Nat := (row * 4 + group) * 16 + word

/-- The byte ranges that the `EST` words of a drain write, each with its place in the order. -/
def EpiCtx.estRanges (x : EpiCtx) : List (Nat × Nat × Nat) :=
  ((List.range x.program.length).zip x.program).flatMap fun w =>
    match decodeEpi w.2 with
    | some (.est _ z) =>
      let sz := 2 ^ z.toNat
      (List.range 64).flatMap fun m => (List.range 4).map fun g =>
        (runOrder m g w.1, x.dest % 2 ^ 32 + m * x.pitch + 16 * g * sz, 16 * sz)
    | _ => []

/-- The drain has written every byte of a sector, up to the present word (R270). -/
def EpiCtx.covers (x : EpiCtx) (sec : Nat) : Bool :=
  let here := runOrder x.run.row x.run.group x.run.word
  let rs := x.estRanges.filter fun r => decide (r.1 ≤ here)
  (List.range 32).all fun i => rs.any fun r => decide (r.2.1 ≤ 32 * sec + i) && decide (32 * sec + i < r.2.1 + r.2.2)

/-- No later word of the drain writes to a line (R268). -/
def EpiCtx.lastOn (x : EpiCtx) (line : Nat) : Bool :=
  let here := runOrder x.run.row x.run.group x.run.word
  !(x.estRanges.any fun r => decide (here < r.1) && decide (r.2.1 < 128 * (line + 1)) && decide (128 * line < r.2.1 + r.2.2))

/-- The element that a store word stores for `j`. -/
def EpiCtx.elem (x : EpiCtx) (a : BitVec 4) (z base j : Nat) : Elem :=
  let va := base + x.run.row * x.pitch + x.col j * 2 ^ z
  { lane := j, va := va, off := va % 128, size := z, op := .put ((x.el a j).setWidth 128), got := 0#128, poison := false }

/-- `EST`: it stores into shared memory; its last landing on a line sets the line full (R268). -/
def execEst (a : BitVec 4) (z : BitVec 2) (s : State) : Out :=
  epilogue [a] (fun x s =>
    let es := (List.range 16).map fun j => x.elem a z.toNat (x.dest % 2 ^ 32) j
    let s := s.updCore x.k fun c =>
      let (_, m, _) := applyLocal es c.sh []
      let touched (sec : Nat) : Bool := es.any fun e => decide (e.va < 32 * (sec + 1)) && decide (32 * sec < e.va + 2 ^ z.toNat)
      ({ c with sh := m, shPoison := c.shPoison.filter fun sec => !(touched sec && x.covers sec) }).setFull
        ((linesOf es).filter x.lastOn)
    x.next (s.spoilBars x.k es)) s

/-- The speculative-plain fault of a drain, raised in the access processor (R239). -/
def State.drainTrap (s : State) (k : Nat) (pc : W64) : State :=
  s.deferTrap k apAgent { code := 0x0B#8, detail := 0#8, resume := false, pc := pc, mask := 1#32 }

/-- Write to global memory under the block's version (R184, R238): the requests of a word. A page that is absent stalls the
drain, and a plain one or a fatal address fails it (R239). -/
def EpiCtx.globalStore (x : EpiCtx) (z : Nat) (op : Nat → ElemOp) (s : State) : State :=
  let ws : List Want := (List.range 16).map fun j =>
    { lane := j, va := BitVec.ofNat 64 (x.dest + x.run.row * x.pitch + x.col j * 2 ^ z), nib := 0, op := op j }
  let asid := x.core.launch.asid
  let (s, f) := s.translateAll x.k asid .write ws
  match f.fatal with
  | some (d, va) => (s.reportFatal x.k 18 d x.cmd.pc va 3#8).failDrain x.k x.cmd 7
  | none =>
    if f.pending ≠ [] then s
    else if f.absent ≠ [] then s.requestPages (dieOfCore x.k) asid f none
    else if x.core.toPlain f then
      (s.failDrain x.k x.cmd 6).drainTrap x.k x.cmd.pc
    else
      let rs := x.core.engineReqs x.k (.drain x.k x.cmd.id) s.seq 1 z ws f
      let s := { s with seq := s.seq + 1 }.markPending (dieOfCore x.k) rs
      let s := if (op 0).atomic then s else rs.foldl (fun (s : State) r => s.updCore x.k fun c => c.l1Issue .store r) s
      let sig := rs.foldl (fun g r => r.elems.foldl (fun g e => g + e.signature) g) 0#64
      let s := s.sign x.k sig
      let peers := rs.filter fun r => s.wentToPeer r
      let n := peers.foldl (fun n r => n + ((List.range 4).filter fun i => (sectorsOf (writesOf r.elems)).getLsbD i).length) 0
      let r := { x.run with
        word := x.run.word + 1
        writes := x.run.writes.filter (fun r => decide (r.st ≠ .answered)) ++ rs
        peerSectors := x.run.peerSectors + n
        peerLine := match peers with | p :: _ => if x.run.peerSectors = 0 then p.line else x.run.peerLine | [] => x.run.peerLine }
      (x.setRun r s).signalDrain x.k x.cmd r false

/-- `ESTG`. -/
def execEstg (a : BitVec 4) (z : BitVec 2) (s : State) : Out :=
  epilogue [a] (fun x => x.globalStore z.toNat fun j => .put ((x.el a j).setWidth 128)) s

/-- `ERED`. -/
def execEred (a : BitVec 4) (s : State) : Out :=
  epilogue [a] (fun x => x.globalStore 2 fun j => .atom .fadd false ((x.el a j).setWidth 64)) s

/-- `ESIG` (R238, R403): it adds to the store signature of a redundant block. DESIGN CHOICE (log 140, unsafe): in another block, where it has no effect,
the spec does not say whether it reads its element; a poisoned one fails the drain there too. -/
def execEsig (a : BitVec 4) (s : State) : Out :=
  epilogue [a] (fun x s =>
    let sig := (List.range 16).foldl (fun g j =>
      g + mix (BitVec.ofNat 64 (x.dest + x.run.row * x.pitch + 4 * x.col j)) 2 ((x.el a j).setWidth 64)) 0#64
    x.next (s.sign x.k sig)) s

/-- `EEND`: the next group starts, or the last run has ended (R237). -/
def execEend (s : State) : Out :=
  epilogue [] (fun x s =>
    let r := x.run
    if r.row = 63 ∧ r.group = 3 then x.setRun { r with finished := true } s
    else
      let r' := if r.group = 3 then { r with row := r.row + 1, group := 0 } else { r with group := r.group + 1 }
      x.setRun (x.core.startGroup x.cmd.tile r') s) s

end Sys2Proof.Machine
end

