-- ==== Sys2Proof/Machine/Version.lean ====
section
/-! DEFINITION. Versions: major 0x20, the Couch of a domain, and the notices that it sends to cores (R244 to R250, R289, R290,
R293, R369, R378, R404, R405). -/

namespace Sys2Proof.Machine

/-! ## The version table (R369) -/

/-- A version of a redundant pair (R245). -/
def VEntry.isPair (e : VEntry) : Bool := decide (e.twin ≠ 0)

/-- The VIDs of a domain whose entries pass a test, ascending. -/
def Domain.vids (d : Domain) (p : Nat → VEntry → Bool) : List Nat :=
  (d.table.filter fun x => p x.1 x.2).map fun x => x.1

/-- The number of free VIDs (R248). -/
def Domain.freeVids (d : Domain) : Nat := 255 - (d.vids fun v e => decide (v ≠ 0) && decide (e.st ≠ .free)).length

/-- The live versions on the chain from the root to `w` (R244). -/
def Domain.chainTo (d : Domain) (w : Nat) : List Nat :=
  d.vids fun v e => decide (e.st = .live) && (decide (v = w) || (d.entry w).anc.getLsbD v)

/-- A version and every live version below it. -/
def Domain.under (d : Domain) (w : Nat) : List Nat :=
  d.vids fun v e => decide (e.st = .live) && (decide (v = w) || e.anc.getLsbD w)

/-- What `RESOLVE.c` marks couched and what it marks broke (R244). -/
def Domain.commitSets (d : Domain) (w : Nat) : List Nat × List Nat :=
  let keep := if w = 0 then [] else d.chainTo w
  (keep, d.vids fun v e => decide (e.st = .live) && !e.isPair && !keep.contains v && !(decide (w ≠ 0) && e.anc.getLsbD w))

/-- The ancestors of a set. -/
def maskOfVids (vs : List Nat) : BitVec 256 := vs.foldl (fun m v => m ||| BitVec.ofNat 256 (2 ^ v)) 0#256

/-- An entry at the switch of a resolve (R290, R369). -/
def VEntry.switch (e : VEntry) (v : Nat) (couched broke : List Nat) (seq : Nat) : VEntry :=
  if couched.contains v then { e with st := .couched, couchedAt := seq }
  else if broke.contains v then { e with st := .broke }
  else if e.st = .live then
    { e with
      parent := if couched.contains e.parent then 0 else e.parent
      depth := e.depth - (couched.filter fun u => e.anc.getLsbD u).length
      anc := e.anc &&& ~~~maskOfVids couched }
  else e

/-- The slices of the package, by die × 64 + slice. -/
def allSlices : List Nat := List.range (Config.dies * Config.slicesPerDie)

/-! ## Member sets (R452) -/

/-- STATE as a version table and `VIDQ` give it (R248, R369). -/
def VidState.code (x : VidState) : Nat :=
  match x with
  | .free => 0
  | .live => 1
  | .couched => 2
  | .broke => 3

/-- The state that a code names. -/
def vidStateOf (n : Nat) : VidState :=
  match n with
  | 1 => .live
  | 2 => .couched
  | 3 => .broke
  | _ => .free

/-- The 320 bits of a version-table entry (R369). -/
def VEntry.bits (e : VEntry) : BitVec 320 :=
  e.anc ++ (BitVec.ofNat 2 e.st.code ++ (BitVec.ofNat 5 e.depth ++ (BitVec.ofNat 8 e.parent ++ (BitVec.ofNat 24 e.blocks ++
    (BitVec.ofNat 8 e.twin ++ 0#17)))))

/-- An entry as another package's Couch sends it; what this package knows beside it stays in the entry's epoch. -/
def VEntry.adopt (old : VEntry) (seq epoch : Nat) (couched : Bool) (b : BitVec 320) : VEntry :=
  { st := vidStateOf (b.extractLsb' 62 2).toNat, depth := (b.extractLsb' 57 5).toNat, parent := (b.extractLsb' 49 8).toNat,
    anc := b.extractLsb' 64 256, blocks := (b.extractLsb' 25 24).toNat, twin := (b.extractLsb' 17 8).toNat,
    couchedAt := if couched then seq else old.couchedAt,
    swept := if old.epoch = epoch then old.swept else [], epoch := epoch }

/-- The packages that a domain's MEMBERS names (R369). -/
def State.memberPkgs (s : State) (d : Nat) : List Nat :=
  (List.range 32).filterMap fun k => if (s.domain d).members.getLsbD k then s.peers.find k else none

/-- A versioned write of a domain is taken from a package that the domain's MEMBERS names (R369, R425). -/
def State.memberOf (s : State) (dom pkg : Nat) : Bool := (s.memberPkgs dom).contains pkg

/-- The coordinating package of a domain, where it is another: the member of the lowest identifier. -/
def State.coordinator (s : State) (d : Nat) : Option Nat :=
  (s.memberPkgs d).foldl (fun m p =>
    if decide (p < s.ualink.ident) && m.all fun q => decide (p < q) then some p else m) none

/-- Send a message of a domain to a member. -/
def State.tell (s : State) (d pkg : Nat) (m : CouchMsg) : State :=
  { s with ualink := { s.ualink with couch := s.ualink.couch ++ [(pkg, d, m)] } }

/-- The message that brings a member's copy of the table up to date. -/
def Domain.noticeMsg (d : Domain) (couched broke : List Nat) : CouchMsg :=
  .notice d.couchSeq couched broke (d.table.map fun x => (x.1, x.2.epoch, x.2.bits)) d.resolveCount d.accept d.proposed d.accepted

/-- The coordinating Couch sends what has changed to every member, and awaits that a switch is applied there. -/
def State.tellMembers (s : State) (d : Nat) (couched broke : List Nat) : State :=
  if (s.coordinator d).isSome then s
  else
    let pkgs := s.memberPkgs d
    let m := (s.domain d).noticeMsg couched broke
    let s := pkgs.foldl (fun s p => s.tell d p m) s
    if couched.isEmpty && broke.isEmpty then s
    else s.updDomain d fun x =>
      { x with joint := { x.joint with awaiting := x.joint.awaiting ++ pkgs.map fun p => (x.couchSeq, p) } }

/-- A VID that has been freed is no longer what older notices say of it (R289), nor a VID of a fork (R349). -/
def State.forgetVid (s : State) (d v : Nat) : State :=
  { s with
    notices := s.notices.map fun n => if n.domain = d then { n with old := n.old.del v } else n
    invs := s.invs.map fun x => (x.1, { x.2 with forkVids := x.2.forkVids.alter d fun vs => vs.filter fun u => u != v }) }

/-- A block of a VID begins or ends here: at the domain's Couch BLOCKS moves and a new epoch begins (R292, R369). -/
def State.countBlock (s : State) (d v : Nat) (up : Bool) : State :=
  (s.updDomain d fun x =>
    { x with
      epochs := x.epochs + 1
      joint := { x.joint with swept := x.joint.swept.filter fun y => y.1 != v }
      table := x.table.alter v fun e =>
        { e with blocks := if up then e.blocks + 1 else e.blocks - 1, swept := [], epoch := x.epochs + 1 } }).tellMembers d [] []

/-- A block of a VID begins or ends on this package (R369). -/
def State.countBlocks (s : State) (d vid : Nat) (up : Bool) : State :=
  if vid = 0 then s
  else match s.coordinator d with
    | some p => s.tell d p (.blocks vid up)
    | none => s.countBlock d vid up

/-- The lowest free VIDs of a domain. -/
def Domain.lowestFree (d : Domain) (n : Nat) : List Nat :=
  (((List.range 256).filter fun v => decide (v ≠ 0) && decide ((d.entry v).st = .free))).take n

/-- Make a VID live below a parent (R348, R369). -/
def Domain.fork (d : Domain) (v parent twin : Nat) : Domain :=
  let e := d.entry parent
  let anc := if parent = 0 then 0#256 else e.anc ||| BitVec.ofNat 256 (2 ^ parent)
  let fresh : VEntry :=
    { VEntry.free with
      st := .live, depth := e.depth + 1, parent := parent, anc := anc, twin := twin, epoch := d.epochs + 1 }
  { d with epochs := d.epochs + 1, table := d.table.put v fresh }

/-- Make the VIDs of a fork live, in ascending order: all below the parent, or each below the one before (R348). -/
def Domain.forkAll (d : Domain) (parent : Nat) (chain : Bool) (vids : List Nat) : Domain :=
  match vids with
  | [] => d
  | u :: rest => (d.fork u parent 0).forkAll (if chain then u else parent) chain rest

/-- Make VIDs live as the root versions of redundant pairs, two by two (R404). -/
def Domain.forkPairs (d : Domain) (vids : List Nat) : Domain :=
  match vids with
  | p :: t :: rest => ((d.fork p 0 t).fork t 0 p).forkPairs rest
  | _ => d

/-- The domain's Couch takes `n` VIDs in one step, if so many are free. DEDUCED (log 41): a parent that is not live any more, or whose VID a pair has
taken since (R245), counts as the root, as for children at the switch of R290. -/
def State.takeVids (s : State) (d n parent : Nat) (chain pair : Bool) : State × Option (List Nat) :=
  let vids := (s.domain d).lowestFree n
  if vids.length < n then (s, none)
  else
    let root := if ((s.domain d).entry parent).st = .live ∧ ((s.domain d).entry parent).twin = 0 then parent else 0
    ((s.updDomain d fun x => if pair then x.forkPairs vids else x.forkAll root chain vids).tellMembers d [] [], some vids)

/-- Take VIDs at the domain's Couch: this package's, or the coordinating one, which is asked under a number of its own for one who asks and answers later, with
the domain's resolve count; none while there are too few or the answer is on its way (R348, R404, R452). -/
def State.askVids (s : State) (d who n parent : Nat) (chain pair : Bool) : State × Option (List Nat) × Option W32 :=
  match s.coordinator d with
  | none =>
    let (s, vids) := s.takeVids d n parent chain pair
    (s, vids, none)
  | some pkg =>
    let alterAsks (f : List (Nat × Nat × Option (List Nat × W32)) → List (Nat × Nat × Option (List Nat × W32))) (s : State) : State :=
      s.updDomain d fun x => { x with joint := { x.joint with asks := f x.joint.asks } }
    match (s.domain d).joint.asks.find? fun x => decide (x.1 = who) with
    | none =>
      let id := s.seq
      let s : State := { s with seq := id + 1 }
      ((alterAsks (fun l => l ++ [(who, id, none)]) s).tell d pkg (.vids id n parent chain pair), none, none)
    | some (_, _, none) => (s, none, none)
    | some (_, _, some (vids, count)) =>
      (alterAsks (fun l => l.filter fun x => x.1 != who) s, if vids.length < n then none else some vids, some count)

/-- The Couch of a domain marks versions and sends its notice to every slice (R244, R289); the free lists and the egress ring
of the domain follow at once (R252, R260). -/
def State.switchVersions (s : State) (d : Nat) (couched broke : List Nat) : State :=
  let dom := s.domain d
  let seq := dom.couchSeq + 1
  let notice : Notice :=
    { id := seq, domain := d, couched := couched, broke := broke, old := dom.table, waiting := allSlices }
  let s := s.updDomain d fun x =>
    { x with couchSeq := seq, table := x.table.map fun y => (y.1, y.2.switch y.1 couched broke seq) }
  (({ s with notices := s.notices ++ [notice] }.settleLogs).settleEgress d).tellMembers d couched broke

/-- The acceptance counters after a `RESOLVE` of status 0 (R378). -/
def Domain.accepts (d : Domain) (p a : Nat) : Domain :=
  let acc := min a p
  { d with
    accept := if p = 0 then d.accept else BitVec.ofNat 16 ((7 * d.accept.toNat + min (acc * 65536 / p) 65535) / 8)
    proposed := min (d.proposed + p) (2 ^ 48 - 1)
    accepted := min (d.accepted + acc) (2 ^ 48 - 1) }

/-! ## `RESOLVE` (R244) -/

/-- Kinds of access that a `RESOLVE` waits for: loads, stores and atomics. -/
def AccessKind.plain (x : AccessKind) : Bool :=
  match x with
  | .load | .store | .atom | .cas | .red | .kvxl | .kvappend | .kvmap => true
  | _ => false

/-- Every load, store and atomic of a thread has completed (R193). -/
def Thread.accessesDone (t : Thread) : Bool := t.inflight.all fun x => x.done || !x.kind.plain

/-- The reserved bits of a domain operand and of an operand of `n` bits (R244, R248). -/
def versionCheck (a b : BitVec 6) (n : Nat) : Ctx → State → Option W8 := fun c _ =>
  if decide (c.pass ≠ 0#32) && (decide ((c.s a).toNat ≥ 64) || decide ((c.s b).toNat ≥ 2 ^ n)) then some 9#8 else none

/-- What `RESOLVE` does at issue: it waits for the issuer's accesses, and is sent to the Couch. -/
def Ctx.resolve (c : Ctx) (d a b : BitVec 6) (squash : Bool) (s : State) : State :=
  if !c.th.accessesDone then (c.wait .structural s).endRun c.k c.a
  else
    let r : Resolve :=
      { source := .instr c.k c.a c.iss.slot s.seq, ofDomain := c.core.launch.domain, ofVid := c.core.vid,
        domain := (c.s a).toNat % 64, target := (c.s b).toNat % 256, proposed := (c.s b).toNat / 256 % 256,
        squash := squash, status := none, notice := 0, dst := d.toNat, taint := c.taintAny, asked := none }
    c.wait (.resolve s.seq) { s with seq := s.seq + 1, resolves := s.resolves ++ [r] }

/-- `RESOLVE.c` (R244). -/
def execResolveC (d a b : BitVec 6) (s : State) : Out :=
  issue (.resolveC d a b) (versionCheck a b 16) (fun c s => c.unlessRedundant (fun s => c.resolve d a b false s) s) s

/-- `RESOLVE.s` (R244). -/
def execResolveS (d a b : BitVec 6) (s : State) : Out :=
  issue (.resolveS d a b) (versionCheck a b 16) (fun c s => c.unlessRedundant (fun s => c.resolve d a b true s) s) s

/-- The status of a `RESOLVE` (R244). -/
def State.resolveStatus (s : State) (r : Resolve) : Nat :=
  let d := s.domain r.domain
  let e := d.entry r.target
  if ((s.domain r.ofDomain).entry r.ofVid).st = .broke then 2
  else if r.ofDomain ≠ r.domain ∧ r.ofVid ≠ 0 then 3
  else if r.target ≠ 0 ∧ (e.st ≠ .live ∨ e.isPair) then 1
  else if r.squash ∧ r.target = 0 then 1 else 0

/-- The redundant pair that a VID belongs to, with its die and its index. -/
def State.pairOf (s : State) (d v : Nat) : Option (Nat × Nat × Pair) :=
  (List.range Config.dies).findSome? fun die =>
    ((s.die die).pairs.find? fun p => decide (p.2.st ≠ 0) && decide (p.2.domain = d) &&
      (decide (p.2.vidP = v) || decide (p.2.vidT = v))).map fun p => (die, p.1, p.2)

/-- The live ones of two VIDs. -/
def Domain.liveOf (d : Domain) (vs : List Nat) : List Nat := vs.filter fun v => decide (v ≠ 0) && decide ((d.entry v).st = .live)

/-- Who asks: 0 a `RESOLVE`, 1 a walker, 2 a full spill partition, 3 a redundant pair. -/
def ResolveSource.who (x : ResolveSource) : Nat :=
  match x with
  | .instr _ _ _ _ => 0
  | .walker _ => 1
  | .spill => 2
  | .pair => 3
  | .member _ _ w => w

/-- Apply one resolve at the Couch: what it marks couched, what it marks broke, and its status. -/
def State.resolveSets (s : State) (r : Resolve) : List Nat × List Nat × Nat :=
  let d := s.domain r.domain
  let e := d.entry r.target
  let live := decide (r.target ≠ 0) && decide (e.st = .live)
  match r.source.who with
  | 0 =>
    match s.resolveStatus r with
    | 0 => if r.squash then ([], d.under r.target, 0) else
        let (c, b) := d.commitSets r.target
        (c, b, 0)
    | n => ([], [], n)
  | 1 => if live && !e.isPair then ([], d.under r.target, 0) else ([], [], 1)
  | 2 =>
    if !live then ([], [], 1)
    else if e.isPair then ([], d.liveOf [r.target, e.twin], 0) else ([], d.under r.target, 0)
  | _ =>
    if r.squash then ([], d.liveOf [r.target, e.twin], 0)
    else if live then ([r.target], d.liveOf [e.twin], 0) else ([], [], 1)

/-- The invocation of a pair that a full spill partition squashes records a killed block (R245). -/
def State.spillPair (s : State) (r : Resolve) : State :=
  match r.source with
  | .spill =>
    match s.pairOf r.domain r.target with
    | some (_, _, p) => match s.grids.find p.grid with
      | some g => s.setStatus g.queue 0x06
      | none => s
    | none => s
  | _ => s

/-- Someone waits for a resolve to complete. -/
def ResolveSource.awaited (x : ResolveSource) : Bool :=
  match x with
  | .spill => false
  | .pair => false
  | _ => true

/-- The acceptance counters move with the `RESOLVE` instructions of status 0 alone (R349, R378). -/
def State.countResolve (s : State) (r : Resolve) (couched : List Nat) (status : Nat) : State :=
  if r.source.who = 0 ∧ status = 0 then s.updDomain r.domain fun d => d.accepts r.proposed couched.length else s

/-- Apply the resolve at place `i`. -/
def State.applyResolve (s : State) (i : Nat) (r : Resolve) : State :=
  let (couched, broke, status) := s.resolveSets r
  let s := (s.countResolve r couched status).spillPair r
  let s := if status = 0 then s.switchVersions r.domain couched broke else s
  let r' := { r with status := some status, notice := if status = 0 then (s.domain r.domain).couchSeq else 0 }
  { s with resolves := if r.source.awaited then alterAt s.resolves i fun _ => r' else dropAt s.resolves i }

/-- Send the resolve at place `i` to the coordinating Couch (R452). What the issuer's own domain decides, statuses 2 and 3 of a `RESOLVE` of another
domain, is decided here: it changes nothing. -/
def State.sendResolve (s : State) (pkg i : Nat) (r : Resolve) : State :=
  let st := s.resolveStatus r
  if r.source.who = 0 ∧ r.ofDomain ≠ r.domain ∧ (st = 2 ∨ st = 3) then
    { s with resolves := alterAt s.resolves i fun x => { x with status := some st } }
  else
    let id := s.seq
    let s : State := { s with seq := id + 1, resolves := alterAt s.resolves i fun x => { x with asked := some id } }
    s.tell r.domain pkg (.resolve id (if r.ofDomain = r.domain then r.ofVid else 0) r.target r.proposed r.source.who r.squash)

/-- `RESOLVE_APPLY` (R244, R452): the Couch of a domain applies the oldest resolve that it has not applied yet, or sends it to the coordinating
Couch. -/
def execResolveApply (domain : Nat) (s : State) : Out :=
  .next (match ((List.range s.resolves.length).zip s.resolves).find? fun x =>
      decide (x.2.domain = domain) && decide (x.2.status = none) && x.2.asked.isNone with
    | some (i, r) =>
      match s.coordinator domain with
      | none => s.applyResolve i r
      | some pkg => s.sendResolve pkg i r
    | none => s)

/-- The coordinating Couch has answered the resolve of a number. -/
def State.resolveAnswered (s : State) (d id status : Nat) : State :=
  match s.resolves.find? fun r => decide (r.domain = d) && decide (r.asked = some id) with
  | none => s
  | some r =>
    let s := if status = 0 then s.spillPair r else s
    { s with resolves := s.resolves.filterMap fun x =>
        if x.domain = d ∧ x.asked = some id then (if x.source.awaited then some { x with status := some status } else none)
        else some x }

/-- The mark that the updates sent at a notice carry, beside agent 20. -/
def noticeMark (domain id : Nat) : Nat := domain + 64 * id

/-- A notice has taken effect on this package: every slice has applied it, and so have the holders of lines (R281, R289). -/
def State.noticeDone (s : State) (d id : Nat) : Bool :=
  (s.notices.all fun n => decide (n.domain ≠ d) || decide (n.id ≠ id)) && !s.updatesOut (noticeMark d id) 20

/-- A resolve has taken effect everywhere: its notice has reached every slice of every member, and the updates that it caused, and those of the
issuer's earlier stores, have been applied (R244, R246, R452). -/
def State.resolveDone (s : State) (r : Resolve) : Bool :=
  match r.status with
  | none => false
  | some 0 =>
    (r.asked.isSome || (s.noticeDone r.domain r.notice && (s.domain r.domain).joint.awaiting.all fun x => decide (x.1 ≠ r.notice))) &&
      (match r.source with | .instr k a _ _ => !s.updatesOut k a | _ => true)
  | some _ => true

/-- A `RESOLVE` of status 0 has completed: the Couch that applied it counts it (R348). -/
def State.bumpResolves (s : State) (r : Resolve) : State :=
  if r.source.who = 0 ∧ r.status = some 0 ∧ r.asked = none then
    (s.updDomain r.domain fun d => { d with resolveCount := d.resolveCount + 1#32 }).tellMembers r.domain [] []
  else s

/-- A `RESOLVE` completes: its status is written and the slot goes on, or the member that asked is answered. -/
def State.completeResolve (s : State) (i : Nat) (r : Resolve) : State :=
  let s := ({ s with resolves := dropAt s.resolves i } : State).bumpResolves r
  let status := r.status.getD 0
  match r.source with
  | .instr k a w tag =>
    if s.blockActs k ∧ ((s.thread k a).slot w).st = .waiting (.resolve tag) then s.endWait k a w r.dst (BitVec.ofNat 64 status) r.taint else s
  | .member pkg id _ => s.tell r.domain pkg (.answer id status [] (s.domain r.domain).resolveCount)
  | _ => s

/-- As a member, tell the coordinating Couch of a notice that has taken effect here (R452). -/
def State.acknowledge (s : State) (d : Nat) : State :=
  match s.coordinator d, (s.domain d).joint.owed.find? fun n => s.noticeDone d n with
  | some pkg, some n =>
    (s.updDomain d fun x => { x with joint := { x.joint with owed := setDel x.joint.owed n } }).tell d pkg (.applied n)
  | _, _ => s

/-- `RESOLVE_COMPLETE` (R244): the oldest resolve of a domain that has taken effect everywhere completes; a member acknowledges notices. -/
def execResolveComplete (domain : Nat) (s : State) : Out :=
  let s := s.acknowledge domain
  .next (match ((List.range s.resolves.length).zip s.resolves).find? fun x =>
      decide (x.2.domain = domain) && s.resolveDone x.2 with
    | some (i, r) => s.completeResolve i r
    | none => s)

/-! ## Queries (R248, R249) -/

/-- The word that `VIDQ` returns (R248). DEPTH has four bits for the values 1 to 16: at depth 16 they are free. -/
def VEntry.query (e : VEntry) (free : Nat) : W64 :=
  let st := e.st.code
  if st = 0 then 0#64
  else BitVec.ofNat 64 (st * 2 ^ 12 + (if e.depth = 16 then Config.freeNat free else e.depth) % 16 * 2 ^ 8 + e.parent)

/-- `VIDQ` (R248). -/
def execVidq (d a b : BitVec 6) (s : State) : Out :=
  issue (.vidq d a b) (versionCheck a b 8) (fun c s =>
    let e := (s.domain ((c.s a).toNat % 64)).entry ((c.s b).toNat % 256)
    c.next (c.putS { s with free := s.free + 1 } d (e.query s.free))) s

/-- `VIDQ.free` (R248). -/
def execVidqFree (d a : BitVec 6) (s : State) : Out :=
  issue (.vidqFree d a) (versionCheck a a 6) (fun c s =>
    c.next (c.putS s d (BitVec.ofNat 64 (s.domain ((c.s a).toNat % 64)).freeVids))) s

/-- `SPECCHK` (R249). -/
def execSpecchk (d : BitVec 6) (s : State) : Out :=
  issue (.specchk d) noCheck (fun c s => c.next (c.putP s d.toNat (spread (decide (s.versionOf c.core = .couched))))) s

/-- `SPECCHK.live` (R249). -/
def execSpecchkLive (d : BitVec 6) (s : State) : Out :=
  issue (.specchkLive d) noCheck (fun c s => c.next (c.putP s d.toNat (spread (decide (s.versionOf c.core ≠ .broke))))) s

/-! ## Redundant pairs (R250, R403 to R405) -/

/-- The other core of a pair. -/
def Pair.other (p : Pair) (die k : Nat) : Nat :=
  if die * Config.coresPerDie + p.coreP = k then die * Config.coresPerDie + p.coreT else die * Config.coresPerDie + p.coreP

/-- Change a pair. -/
def State.updPair (s : State) (die i : Nat) (f : Pair → Pair) : State :=
  s.updDie die fun d => { d with pairs := d.pairs.alter i f }

/-- The Couch is asked to mark both VIDs of a pair broke, or to commit its primary (R404, R405). -/
def State.askPair (s : State) (p : Pair) (squash : Bool) : State :=
  { s with resolves := s.resolves ++
    [{ source := .pair, ofDomain := 0, ofVid := 0, domain := p.domain, target := p.vidP, proposed := 0, squash := squash,
       status := none, notice := 0, dst := 0, taint := false, asked := none }] }

/-- A full spill partition, or a kill, has made the VIDs of a pair broke: nothing is compared and no rerun starts (R245, R405). -/
def State.pairBroke (s : State) (p : Pair) : Bool := decide (((s.domain p.domain).entry p.vidP).st = .broke)

/-- A mismatch (R405): both VIDs become broke; the pair reruns, and on its rerun both blocks are killed. -/
def State.mismatch (s : State) (die i : Nat) : State :=
  match (s.die die).pairs.find i with
  | none => s
  | some p =>
    if p.st ≠ 1 ∧ p.st ≠ 2 then s
    else if s.pairBroke p then s.updPair die i fun p => { p with st := 2 }
    else
      let s := (s.updPair die i fun p => { p with st := if p.rerun then 2 else 3 }).askPair p true
      if p.rerun then
        let kill (s : State) (core : Nat) : State :=
          let k := die * Config.coresPerDie + core
          s.killBlock k 0x32#8 0#8 0x13 0#64
        kill (kill s p.coreP) p.coreT
      else s

/-- A matrix command writes to global memory. -/
def MatrixOp.isDrain (x : MatrixOp) : Bool :=
  match x with
  | .drain _ _ _ _ _ => true
  | _ => false

/-- The writes of a block that are numbered below `tag` and enter its signature have been acknowledged, those of its drains too, which have ended
(R250). -/
def Core.signedBefore (c : Core) (tag : Nat) : Bool :=
  (c.thr.all fun t => t.inflight.all fun x => x.done || decide (tag ≤ x.tag) ||
    !(decide (x.path = .gs) || decide (x.kind = .red) || decide (x.kind = .store))) &&
  c.mx.all fun m => decide (tag ≤ m.tag) || !m.op.isDrain || decide (m.st = .done)

/-- `SIGSYNC` (R250). -/
def execSigsync (d : BitVec 6) (s : State) : Out :=
  issue (.sigsync d) noCheck (fun c s =>
    if decide (s.versionOf c.core = .broke) then (c.next (c.putP s d.toNat 0#32)).endRun c.k c.a
    else if !c.core.launch.redundant then (c.next (c.putP s d.toNat allLanes)).endRun c.k c.a
    else
      let n := c.core.sigCount + 1
      let count (p : Pair) : Pair :=
        if dieOfCore c.k * Config.coresPerDie + p.coreP = c.k then { p with nP := n % 2 ^ 16 } else { p with nT := n % 2 ^ 16 }
      let s := (s.updCore c.k fun x => { x with sigCount := n }).updPair (dieOfCore c.k) c.core.pairIdx count
      c.wait (.sigsync d.toNat (if c.ap then allLanes else c.pass) n s.seq) { s with seq := s.seq + 1 }) s

/-- A block records its signature at its `n`-th `SIGSYNC` once its writes before it have entered (R250). -/
def State.recordSig (s : State) (k n tag : Nat) : State :=
  s.updCore k fun c =>
    if decide (c.sigAt.length + 1 = n) && c.signedBefore tag then { c with sigAt := c.sigAt ++ [c.sig] } else c

/-- The wait of a slot at `SIGSYNC` ends, with what it writes. -/
def State.endSigsync (s : State) (k a : Nat) (w : SlotId) (pd : Nat) (lanes : W32) (equal : Bool) : State :=
  (s.updThread k a fun t => t.outside fun t =>
    ((t.forget s.now (.p pd) lanes).supersede (.p pd) lanes).setP pd lanes (spread equal)).advance k a w ((s.thread k a).slot w).pc

/-- End the wait of a slot at `SIGSYNC` once both signatures are there (R250), or its version is broke (R261). -/
def State.trySigsync (s : State) (k a : Nat) (w : SlotId) : State :=
  match s.blockActs k, ((s.thread k a).slot w).st with
  | true, .waiting (.sigsync pd lanes n tag) =>
    let s := s.recordSig k n tag
    let die := dieOfCore k
    match s.core? k with
    | none => s
    | some c =>
      if s.versionOf c = .broke then s.endSigsync k a w pd lanes false
      else match (s.die die).pairs.find c.pairIdx with
      | none => s
      | some p =>
        match c.sigAt[n - 1]?, (s.core? (p.other die k)).bind fun o => o.sigAt[n - 1]? with
        | some x, some y =>
          let s := s.endSigsync k a w pd lanes (decide (x = y))
          if x = y then s else s.mismatch die c.pairIdx
        | _, _ => s
  | _, _ => s

/-- A block of a pair has completed, and its writes have entered its signature. -/
def State.sideDone (s : State) (k : Nat) : Bool := (s.core? k).any fun c => decide (c.phase = .completed)

/-- `PAIR_COMPARE` (R404, R405): both blocks of a pair have completed; on equal signatures the Couch commits the primary, and a
rerun that matches is reported as a correctable error. -/
def execPairCompare (die pair : Nat) (s : State) : Out :=
  .next (match (s.die die).pairs.find pair with
    | none => s
    | some p =>
      let kP := die * Config.coresPerDie + p.coreP
      let kT := die * Config.coresPerDie + p.coreT
      if p.st ≠ 1 ∨ !s.sideDone kP ∨ !s.sideDone kT then s
      else
        let x := ((s.core? kP).map fun c => c.sig).getD 0#64
        let y := ((s.core? kT).map fun c => c.sig).getD 0#64
        let s := s.updPair die pair fun p => { p with st := 2 }
        if s.pairBroke p then s
        else if x = y then
          let s := s.askPair p false
          if p.rerun then s.report die (s.recordOf kP 0x13 0x53#8 0#8 1#2 0#64) else s
        else s.mismatch die pair)

/-! ## A squash reaches a core (R293) -/

/-- The fragments of a block are freed (R134). -/
def Core.freeAllFragments (c : Core) : Core := { c with frags := c.frags.map fun _ => Fragment.free }

/-- `VERSION_NOTICE_APPLY` (R293): a core learns that its block's version is broke. Waits end and count as run boundaries, runs
in progress go on to their end, copies are cancelled, drains write nothing more, and fragments are freed. -/
def execVersionNoticeApply (core : Nat) (s : State) : Out :=
  .next (match s.core? core with
    | none => s
    | some c =>
      if c.squashed || decide (s.versionOf c ≠ .broke) then s
      else
        let s := s.updCore core fun c =>
          { c.freeAllFragments with
            squashed := true
            claims := []
            phase := if c.phase = .running ∨ c.phase = .clearing then .stopping else c.phase
            stopAt := if c.stopAt.isSome then c.stopAt else some s.now
            thr := c.thr.map Thread.exitAhead }
        let s := c.copies.foldl (fun s x =>
          match x.st with
          | .waiting => s.dropCopy core x 1
          | .moving => s.failCopy core x 1
          | .ended => s) s
        c.mx.foldl (fun s m => match m.st with
          | .draining _ => s.failDrain core m 1
          | _ => s) s)

end Sys2Proof.Machine
end

