-- ==== Sys2Proof/Machine/Walk.lean ====
section
/-! DEFINITION. Page walks as events, the migration engine, shootdowns, and the scrubs of HBM and of the register file (R298 to
R300, R310 to R321, R390, R401). -/

namespace Sys2Proof.Machine

/-! ## Walks -/

/-- `PAGE_WALK` (R310, R311, R314, R315): a walk for a cluster; a resident page fills the cluster's TLB, an absent one is asked for, but
for a prefetch. -/
def execPageWalk (die cluster asid : Nat) (va : W64) (kind : WalkKind) (s : State) : Out :=
  .next (if Config.dies ≤ die ∨ 16 ≤ cluster then s
    else match s.walk die asid va kind with
      | (s, .resident e) =>
        s.updDie die fun d => { d with clusterTlb := alterPad [] d.clusterTlb cluster fun t => tlbInsert 256 16 t e }
      | (s, .absent big) =>
        if kind = .prefetch then s else s.requestPage die asid (vaNat va / 2 ^ 16) none big
      | (s, _) => s)

/-- Where the entry of a page lies: its slot, the entry and whether it maps 2 MiB; or that the tables lead to no leaf, or that the answer of another
die or package is awaited. -/
inductive LeafPlace where
  | leaf (slot : Nat) (entry : W64) (big : Bool)
  | nothing
  | pending
  deriving DecidableEq, Repr

/-- Follow the tables for a die from a table of a level down, without marking. -/
def State.findSlot (s : State) (die va level table : Nat) : State × LeafPlace :=
  let slot := table + 16 * levelIndex level va
  match s.readEntry die slot die with
  | (t, none) => match s.takeError (slot / 128) with
    | some s => (s, .nothing)
    | none => (t, .pending)
  | (s, some e) =>
    match level with
    | 0 => (s, .leaf slot e false)
    | n + 1 =>
      if n = 0 ∧ e.getLsbD 1 then (s, .leaf slot e true)
      else if !e.getLsbD 0 then (s, .nothing)
      else s.findSlot die va n (pteFrame e)

/-- The entry of a page of an address space, as a die finds it. -/
def State.pageEntry (s : State) (die asid page : Nat) : State × LeafPlace :=
  match s.roots.find asid with
  | none => (s, .nothing)
  | some root =>
    match s.findSlot die (page * 2 ^ 16) 3 root with
    | (t, .pending) => (t.keepAnswers s, .pending)
    | x => x

/-- The bytes of a page. -/
def pageBytes (big : Bool) : Nat := if big then 2 ^ 21 else 2 ^ 16

/-- The 64 KiB pages of the page that a 64 KiB page number names. -/
def pageParts (big : Bool) (page : Nat) : List Nat := if big then (List.range 32).map fun i => page / 32 * 32 + i else [page]

/-- An engine of a die may act at a home at once and use what it reads there (R331). -/
def State.engineReady (s : State) (die h : Nat) : Bool := s.instantReady die h && s.viewOf die h

/-- An engine of a die may act at every home at once. -/
def State.quiet (s : State) (die : Nat) : Bool := (List.range Config.dies).all fun h => s.engineReady die h

/-- Copy one committed line, its poison with it, as a die engine (R299, R319, R321). -/
def State.copyLine (s : State) (src dst : Nat) : State :=
  let s := match s.homeWay src 7 false with
    | (s, some key) => s.fillSectors (homeDie src) (sliceOf src) key 0xF#4
    | (s, none) => s
  let l := s.viewLine src 0 0 false
  let bad := sectorsOf l.bad
  let s := s.mergeLine dst 7 0 19
  match s.homeWay dst 7 false with
  | (s, some key) => s.writeHome (homeDie dst) (sliceOf dst) key l.data (BitVec.allOnes 128) (~~~bad) bad 0 19
  | (s, none) =>
    (List.range 4).foldl (fun s i =>
      s.setMemSector (dst / 128 * 4 + i) (l.data.extractLsb' (256 * i) 256) (bad.getLsbD i)) s

/-- Copy a page as an engine of a die, line by line, each written back first, with its poison codewords, and send the copies on to where they live
(R298, R321). DESIGN CHOICE (log 142): the copy is one step. -/
def State.copyPage (s : State) (die src dst bytes : Nat) : State :=
  let homes := (List.range Config.dies).filter fun h => isHost dst || decide (h = homeDie dst)
  let s := homes.foldl (fun s h => s.instantMessage die h) s
  (List.range (bytes / 128)).foldl (fun s i =>
    ((s.flushLine (src + 128 * i)).copyLine (src + 128 * i) (dst + 128 * i)).flushLine (dst + 128 * i)) s

/-- An engine of a die changes an entry in one atomic step at its home. -/
def State.casEntry (s : State) (die slot : Nat) (old new : W64) : State :=
  ((s.instantMessage die (homeDie slot)).performReq (engineReq slot [engineElem slot 3 (.cas true old new)]) 0 0).1

/-- DIEA and PEERA of a companion word, which one atomic exchange reads and clears (R309, R316). -/
def sharers : W64 := 0x00000FFFFFFFFFFF#64

/-- The exchange of DIEA and PEERA (R316): the companion word as it was, and the dies and, from 12 on, the peer slots that it names. -/
def State.exchange (s : State) (slot : Nat) : State × W64 × List Nat :=
  let (s, c, _) := s.readCommitted (slot + 8) 3
  (s.writeCommitted (slot + 8) 3 (c &&& ~~~sharers), c, (List.range 44).filter fun d => c.getLsbD d)

/-- An entry as a present page of a frame (R320). -/
def entryPresent (e : W64) (frame : Nat) : W64 :=
  (e &&& ~~~(0x000FFFFFFFFFF020#64)) ||| BitVec.ofNat 64 (frame % 2 ^ 52 / 4096 * 4096) ||| 1#64

/-- An entry as an absent page whose host frame is named (R321). -/
def entryAbsent (e : W64) (frame : Nat) : W64 :=
  (e &&& ~~~(0x000FFFFFFFFFF021#64)) ||| BitVec.ofNat 64 (frame % 2 ^ 52 / 4096 * 4096)

/-! ## Entries in a peer's table (R309, R316, R424) -/

/-- The write of an entry. -/
def writeEntry (v : W64) : UaOp := .write ((List.range 8).map fun i => some (v.extractLsb' (8 * i) 8))

/-- The engine of a die does something to an entry, or its companion word, in a peer's table. -/
def State.sendEntry (s : State) (die pa : Nat) (evict : Bool) (op : UaOp) : State := s.sendUa pa (.migrate die evict op)

/-- Those whose translations of a page in a peer's table must go. DESIGN CHOICE (log 149): DIEA there names the peer's dies and PEERA its peer slots, so
that every die of this package and the slot of that peer are asked. -/
def peerSharers (slot : Nat) : List Nat := List.range 12 ++ [12 + (slot - peerBase) / 2 ^ 46]

/-! ## Restores (R319, R320, R390) -/

/-- The fragments of a warp's table that are parked on a page: index and PC. -/
def Core.parkedOn (c : Core) (key : W64) : List (Nat × Fragment) :=
  ((List.range c.frags.length).zip c.frags).filter fun x => x.2.valid && decide (x.2.cause = 0x20#8) && decide (x.2.key = key)

/-- Firmware wakes the fragments of a die that are parked on a page, or on a part of it (R390). -/
def State.wakePage (s : State) (die asid page : Nat) (big : Bool) : State :=
  let keys := (pageParts big page).map (pageKey asid)
  s.cores.foldl (fun s x =>
    if dieOfCore x.1 = die then s.wakeFragments x.1 fun _ f => decide (f.cause = 0x20#8) && keys.contains f.key else s) s

/-- The fragments that the restore of a page wakes on a die (R390). -/
def State.wokenBy (s : State) (die asid page : Nat) (big : Bool) : List Woken :=
  s.cores.flatMap fun x =>
    if dieOfCore x.1 = die then
      (pageParts big page).flatMap fun part => (x.2.parkedOn (pageKey asid part)).map fun y =>
        { asid := asid, page := part, core := x.1, warp := y.2.warp, frag := y.1, pc := y.2.pc }
    else []

/-- The requests of a page, or of parts of it, have been served. -/
def State.dropRequest (s : State) (die asid page : Nat) (big : Bool) : State :=
  let keep (r : PageReq) : Bool := !(decide (r.asid = asid) && (pageParts big page).contains r.page)
  s.updDie die fun d => { d with pageReqs := d.pageReqs.filter keep, migrQueue := d.migrQueue.filter keep }

/-- `PAGE_RESTORE_START` (R319, R320): the engine takes the oldest request, into the frame that firmware names. A page that is
resident already is only reported; one that the tables lead to no entry for stays requested, behind the others. DESIGN CHOICE (log 150): a frame that is
no place for the page leaves the request as it is. -/
def execPageRestoreStart (die frame : Nat) (s : State) : Out :=
  .next (match (s.die die).restore, (s.die die).migrQueue with
    | none, r :: rest =>
      match s.pageEntry die r.asid r.page with
      | (s, .leaf slot e big) =>
        if e.getLsbD 0 ∧ !e.getLsbD 5 then (s.dropRequest die r.asid r.page big).wakePage die r.asid r.page big
        else if e.getLsbD 0 ∨ !isHbm frame ∨ inSpill frame ∨ frame % pageBytes big ≠ 0 then s
        else s.updDie die fun d =>
          { d with
            migrQueue := rest
            restore := some { asid := r.asid, page := r.page, big := big, slot := slot, frame := frame, hostFrame := pteFrame e, written := false, sent := 0, awaits := [] } }
      | (s, .nothing) => s.updDie die fun d => { d with migrQueue := rest ++ [r] }
      | (s, .pending) => s
    | _, _ => s)

/-- The restore of a die is over: its request is served, and the fragments parked on the page wake, which the engine remembers (R390). -/
def State.endRestore (s : State) (die : Nat) (r : Restore) : State :=
  let woken := s.wokenBy die r.asid r.page r.big
  let s := s.updDie die fun d => { d with restore := none, woken := d.woken ++ woken }
  (s.dropRequest die r.asid r.page r.big).wakePage die r.asid r.page r.big

/-- The page of a restore is copied, its entry is written present, and the dies and peers that may hold the old entry are asked to drop it, in the order
of R316 (R319, R320). An entry in a peer's table is written there. -/
def State.writeRestore (s : State) (die : Nat) (r : Restore) : State :=
  match s.pageEntry die r.asid r.page with
  | (t, .leaf slot e big) =>
    if !t.quiet die then t.keepAnswers s
    else
      let s := t.copyPage die r.hostFrame r.frame (pageBytes big)
      if isPeer slot then
        (s.sendEntry die slot false (writeEntry (entryPresent e r.frame))).updDie die fun d => { d with restore := some { r with big := big, slot := slot, sent := 1 } }
      else
        let s := (s.instantMessage die (homeDie slot)).writeCommitted slot 3 (entryPresent e r.frame)
        let (s, _, named) := s.exchange slot
        let r := { r with big := big, written := true, awaits := named }
        if named = [] then s.endRestore die r else s.updDie die fun d => { d with restore := some r }
  | (s, .nothing) => s.updDie die fun d => { d with restore := none }
  | (s, .pending) => s

/-- A peer has answered what a restore did to its table: after the write comes the exchange, then the shootdown (R316). -/
def State.restoreAnswered (s : State) (die : Nat) (r : Restore) : State :=
  match r.sent with
  | 1 => (s.sendEntry die (r.slot + 8) false (.atomic .and true (~~~sharers))).updDie die fun d => { d with restore := some { r with sent := 2 } }
  | 2 => s.updDie die fun d => { d with restore := some { r with written := true, sent := 0, awaits := peerSharers r.slot } }
  | _ => s

/-- `PAGE_RESTORE_COMPLETE` (R320): the page has been copied and its entry is written present; once every die and peer so named has acknowledged, the
fragments parked on it wake. -/
def execPageRestoreComplete (die : Nat) (s : State) : Out :=
  .next (match (s.die die).restore with
    | none => s
    | some r =>
      if r.sent ≠ 0 then s
      else if !r.written then s.writeRestore die r
      else if r.awaits = [] then s.endRestore die r else s)

/-! ## Shootdowns (R316) -/

/-- An address lies in the page that an entry names. -/
def inPage (big : Bool) (page va : Nat) : Bool :=
  if big then decide (va / 2 ^ 21 = page / 32) else decide (va / 2 ^ 16 = page)

/-- A request translated through a page. -/
def LineReq.touches (r : LineReq) (big : Bool) (page : Nat) : Bool :=
  decide (r.st ≠ .answered) && r.elems.any fun e => inPage big page e.va

/-- The accesses of a core that translated through a page and have not completed: a thread's by their numbers, the units of copies under
agent 17 and drains under agent 18. -/
def Core.through (c : Core) (k : Nat) (big : Bool) (page : Nat) : List (Nat × Nat × Nat × Nat) :=
  ((List.range c.thr.length).flatMap fun a => ((c.thread a).inflight.filter fun x =>
    !x.done && x.reqs.any fun r => r.touches big page).map fun x => (k, a, x.tag, 0)) ++
  (c.copies.flatMap fun x => (x.units.filter fun u => (u.reads ++ u.writes).any fun r => r.touches big page).map fun u => (k, 17, x.id, u.unit)) ++
  (c.mx.filter fun m => match m.st with
    | .draining run => run.writes.any fun r => r.touches big page
    | _ => false).map fun m => (k, 18, m.id, 0)

/-- A TLB entry holds the translation of a page, or of a part of it. -/
def TlbEntry.isOf (e : TlbEntry) (asid page : Nat) (big : Bool) : Bool :=
  decide (e.asid = asid) && (if e.big then decide (e.page = page / 32) else inPage big page (e.page * 2 ^ 16))

/-- The TLB entries of a die: those of its cores, of its clusters, and of the bulk copy engines (R312). -/
def State.tlbsOf (s : State) (die : Nat) : List TlbEntry :=
  let d := s.die die
  (s.cores.flatMap fun x => if dieOfCore x.1 = die then x.2.tlb else []) ++ (d.coreTlb.flatMap fun x => x.2.2) ++ d.clusterTlb.flatten ++ d.bulkTlb

/-- Remove the TLB entries of a page from a die. -/
def State.dropPage (s : State) (die asid page : Nat) (big : Bool) : State :=
  let cut (t : List TlbEntry) : List TlbEntry := t.filter fun e => !e.isOf asid page big
  let s : State :=
    { s with cores := s.cores.map fun x => if dieOfCore x.1 = die then (x.1, { x.2 with tlb := cut x.2.tlb }) else x }
  s.updDie die fun d =>
    { d with
      clusterTlb := d.clusterTlb.map cut
      bulkTlb := cut d.bulkTlb
      coreTlb := d.coreTlb.map fun x => (x.1, (x.2.1, cut x.2.2)) }

/-- The die whose engine, with an eviction or a restore, awaits that a die or a peer slot drops a page. -/
def State.shootSource (s : State) (named asid page : Nat) : Option Nat :=
  (List.range Config.dies).find? fun d =>
    ((s.die d).evict.any fun e => decide (e.asid = asid) && decide (e.page = page) && e.awaits.contains named) ||
      (s.die d).restore.any fun r => decide (r.asid = asid) && decide (r.page = page) && r.awaits.contains named

/-- The walks of a die that are outstanding at a peer end, with the answers nothing has taken (R316): one still needed begins again. -/
def State.endWalks (s : State) (die : Nat) : State :=
  let walks (w : UaWait) : Bool := match w with | .walk d _ _ _ => decide (d = die) | _ => false
  { s with ualink := { s.ualink with out := s.ualink.out.filter fun o => !walks o.what, walks := s.ualink.walks.filter fun w => decide (w.die ≠ die) } }

/-- Shoot a page down on a die: its walks end, its entries go, and the accesses that used them are waited for (R316). The page is the larger one where its
entry, or one that a TLB of the die holds, maps 2 MiB, and where its entry is not known at once. -/
def State.shootDown (s : State) (die asid page : Nat) (fromDie : Option Nat) : State :=
  match s.pageEntry die asid page with
  | (s, place) =>
    let big := (match place with | .leaf _ _ b => b | .pending => true | .nothing => false) ||
      (s.tlbsOf die).any fun e => e.big && e.isOf asid page false
    let s := (s.endWalks die).dropPage die asid page big
    let waits := s.cores.flatMap fun x =>
      if dieOfCore x.1 = die ∧ x.2.launch.asid = asid then x.2.through x.1 big page else []
    s.updDie die fun d => { d with shoot := d.shoot ++ [{ asid := asid, page := page, waits := waits, fromDie := fromDie }] }

/-- `SHOOTDOWN_REQUEST` (R316): firmware, or an engine that evicts or restores, asks a die to shoot a page down, or from 12 on a peer slot. What an engine
asks of a peer slot stands with the engine. -/
def execShootdownRequest (die asid : Nat) (va : W64) (s : State) : Out :=
  let page := vaNat va / 2 ^ 16
  let source := s.shootSource die asid page
  .next (if die < Config.dies then s.shootDown die asid page source
    else if Config.dies + 32 ≤ die ∨ source.isSome then s
    else { s with ualink := { s.ualink with shoots := s.ualink.shoots ++ [(die - Config.dies, asid, page)] } })

/-- An access that a shootdown waits for has completed or been dropped. -/
def State.settled (s : State) (w : Nat × Nat × Nat × Nat) : Bool :=
  let (k, a, id, unit) := w
  match s.core? k with
  | none => true
  | some c =>
    if a = 17 then c.copies.all fun x => decide (x.id ≠ id) || x.units.all fun u => decide (u.unit ≠ unit)
    else if a = 18 then c.mx.all fun m => decide (m.id ≠ id) || (match m.st with
      | .draining run => answeredAll run.writes
      | _ => true)
    else (c.thread a).inflight.all fun x => decide (x.tag ≠ id) || x.done || x.reqs.all fun r => decide (r.st = .answered)

/-- The engine of a die has the acknowledgement of a die or a peer slot for a page. -/
def State.acknowledged (s : State) (engine named asid page : Nat) : State :=
  s.updDie engine fun d =>
    { d with
      evict := d.evict.map fun v => if v.asid = asid ∧ v.page = page then { v with awaits := setDel v.awaits named } else v
      restore := d.restore.map fun v => if v.asid = asid ∧ v.page = page then { v with awaits := setDel v.awaits named } else v }

/-- A peer slot acknowledges what the engine of a die asked of it (R316). -/
def State.peerAcknowledges (s : State) (engine named : Nat) : State :=
  s.updDie engine fun d =>
    { d with
      evict := d.evict.map fun v => { v with awaits := setDel v.awaits named }
      restore := d.restore.map fun v => { v with awaits := setDel v.awaits named } }

/-- `SHOOTDOWN_ACK` (R316): a die acknowledges once every access that a shootdown waits for has completed. Peer slot k stands as die 12 + k, and
names the die whose engine asked it, or from 12 on what software asked of it. -/
def execShootdownAck (die idx : Nat) (s : State) : Out :=
  .next (if Config.dies ≤ die then
      if idx < Config.dies then s.peerAcknowledges idx die
      else match s.ualink.shoots[idx - Config.dies]? with
        | some x =>
          if x.1 = die - Config.dies then { s with ualink := { s.ualink with shoots := dropAt s.ualink.shoots (idx - Config.dies) } } else s
        | none => s
    else match (s.die die).shoot[idx]? with
    | none => s
    | some x =>
      if x.waits.any fun w => !s.settled w then s
      else
        let s := s.updDie die fun d => { d with shoot := dropAt d.shoot idx }
        match x.fromDie with
        | some e => s.acknowledged e die x.asid x.page
        | none => s)

/-! ## Evictions (R321) -/

/-- Lanes of a woken fragment stand at its PC in a slot, in a path frame, or in what a slot held as it took a trap into its handler or began to run
ahead. -/
def Thread.holdsFragment (t : Thread) (frag : Nat) (pc : W64) : Bool :=
  let id := BitVec.ofNat 8 frag
  ([SlotId.a, SlotId.b].any fun x =>
      decide ((t.slot x).st ≠ .empty) && decide ((t.slot x).fragId = id) && (decide ((t.slot x).pc = pc) || decide (t.handler = some x) && decide (t.trapPc = pc))) ||
    (t.ahead.any fun a => decide (a.saved.fragId = id) && decide (a.saved.pc = pc)) ||
    t.stack.any fun f => match f with
      | .path p _ _ g => decide (p = pc) && decide (g = id)
      | .join _ _ _ _ => false

/-- A fragment that a restore woke has not executed its instruction again, and has not been freed (R390). -/
def State.wokenStands (s : State) (w : Woken) : Bool :=
  match s.core? w.core with
  | none => false
  | some c =>
    (match c.frags[w.frag]? with
      | some f => f.valid && f.ready && decide (f.key = pageKey w.asid w.page)
      | none => false) || (c.thread w.warp).holdsFragment w.frag w.pc

/-- A fragment that the restore of a page woke still stands. -/
def State.wokenPending (s : State) (die asid page : Nat) (big : Bool) : Bool :=
  (s.die die).woken.any fun w => decide (w.asid = asid) && (pageParts big page).contains w.page && s.wokenStands w

/-- What an engine asks of an eviction (R321, R390): the page is pinned, absent, not of this die's HBM, or goes to no place in host memory. -/
def evictRefused (die : Nat) (e : W64) (big : Bool) (hostFrame : Nat) : Bool :=
  let frame := pteFrame e
  !e.getLsbD 0 || !e.getLsbD 1 || e.getLsbD 4 || !isHbm frame || decide (frame / 2 ^ 37 ≠ die) || !isHost hostFrame ||
    decide (hostFrame % pageBytes big ≠ 0)

/-- A versioned page of a domain that has a VID in use (R321). -/
def State.pageBusy (s : State) (c : W64) : Bool :=
  c.getLsbD 62 && decide ((s.domain (c.extractLsb' 56 6).toNat).freeVids ≠ 255)

/-- MIG is set in the entry of a page, and the dies and peers that may hold its translation are asked to drop it (R316, R321). In a peer's table the
entry is changed there. -/
def State.startEviction (s : State) (die : Nat) (v : Evict) : State :=
  let mig := v.entry ||| 0x20#64
  if isPeer v.slot then
    (s.sendEntry die v.slot true (.cas true v.entry mig)).updDie die fun d => { d with evict := some { v with sent := 1 } }
  else
    let (s, _, named) := (s.casEntry die v.slot v.entry mig).exchange v.slot
    s.updDie die fun d => { d with evict := some { v with awaits := named } }

/-- The companion word of a leaf slot, whose entry has just been read from `s`. -/
def State.leafCompanion (s t : State) (die slot : Nat) : W64 :=
  if isPeer slot then ((s.peerSlot die slot none die).2.elim 0#64 fun x => x.2) else (t.readCommitted (slot + 8) 3).2.1

/-- The engine takes the oldest of its commands (R319, R321): refused for a page that is pinned or absent or whose frame is not in the die's HBM, and
reported busy where its domain has a VID that is not free. It waits for the fragments that the page's restore woke (R390). -/
def State.beginEviction (s : State) (die : Nat) : State :=
  match (s.die die).evict, (s.die die).evictQueue with
  | none, (asid, va, hostFrame, hostValid) :: rest =>
    let page := vaNat va / 2 ^ 16
    let taken (s : State) : State := s.updDie die fun d => { d with evictQueue := rest }
    match s.pageEntry die asid page with
    | (t, .leaf slot e big) =>
      if t.wokenPending die asid page big ∨ !(isPeer slot || t.engineReady die (homeDie slot)) then t.keepAnswers s
      else if evictRefused die e big hostFrame then taken t
      else if t.pageBusy (s.leafCompanion t die slot) then (taken t).updDie die fun d => { d with busy := d.busy ++ [(asid, page)] }
      else
        ((taken t).updDie die fun d =>
          { d with woken := d.woken.filter fun w => !(decide (w.asid = asid) && (pageParts big page).contains w.page) }).startEviction die
            { asid := asid, page := page, slot := slot, hostFrame := hostFrame, hostValid := hostValid, sent := 0, entry := e, awaits := [] }
    | (s, .nothing) => taken s
    | (s, .pending) => s
  | _, _ => s

/-- `EVICTION_COMMAND` (R319, R321): commands of firmware are served in arrival order, one page at a time. -/
def execEvictionCommand (die asid : Nat) (va : W64) (hostFrame : Nat) (hostValid : Bool) (s : State) : Out :=
  .next ((s.updDie die fun d => { d with evictQueue := d.evictQueue ++ [(asid, va, hostFrame, hostValid)] }).beginEviction die)

/-- The eviction is over. -/
def State.endEviction (s : State) (die : Nat) : State := s.updDie die fun d => { d with evict := none }

/-- The commit of an eviction whose page has an entry (R321): a pin wins, and the page stays. In a peer's table the entry is changed there. -/
def State.commitEviction (s : State) (die : Nat) (v : Evict) (slot : Nat) (e c : W64) (big : Bool) : State :=
  let stays := e.getLsbD 4 || !e.getLsbD 5
  let s := if !stays ∧ (c.getLsbD 63 ∨ !v.hostValid) then s.copyPage die (pteFrame e) v.hostFrame (pageBytes big) else s
  if isPeer slot then
    (s.sendEntry die slot true (if stays then .atomic .and true (~~~0x20#64) else .cas true e (entryAbsent e v.hostFrame))).updDie die fun d =>
      { d with evict := some { v with slot := slot, entry := e, sent := if stays then 4 else 3 } }
  else if stays then ((s.endEviction die).casEntry die slot e (e &&& ~~~0x20#64)).wakePage die v.asid v.page big
  else (s.endEviction die).casEntry die slot e (entryAbsent e v.hostFrame)

/-- A peer has answered what an eviction did to its table, with what stood there: a compare that failed where MIG was to be set gives the command back to the
queue; one that failed at the commit clears MIG (R321). -/
def State.evictAnswered (s : State) (die : Nat) (v : Evict) (old : W64) : State :=
  match v.sent with
  | 1 =>
    if old = v.entry then
      (s.sendEntry die (v.slot + 8) true (.atomic .and true (~~~sharers))).updDie die fun d => { d with evict := some { v with sent := 2 } }
    else s.updDie die fun d =>
      { d with evict := none, evictQueue := (v.asid, BitVec.ofNat 64 (v.page * 2 ^ 16), v.hostFrame, v.hostValid) :: d.evictQueue }
  | 2 => s.updDie die fun d => { d with evict := some { v with sent := 0, awaits := peerSharers v.slot } }
  | 3 =>
    if old = v.entry then s.endEviction die
    else (s.sendEntry die v.slot true (.atomic .and true (~~~0x20#64))).updDie die fun d => { d with evict := some { v with sent := 4 } }
  | 4 => (s.endEviction die).wakePage die v.asid v.page true
  | _ => s

/-- A peer has answered the engine of a die. -/
def State.entryAnswered (s : State) (die : Nat) (evict : Bool) (old : W64) : State :=
  if evict then ((s.die die).evict.elim s fun v => s.evictAnswered die v old) else ((s.die die).restore.elim s fun r => s.restoreAnswered die r)

/-- `EVICTION_COMMIT` (R321): every die and peer has acknowledged; the page is copied out where it must be, and one compare-and-swap
makes it absent. With no eviction under way the next command is taken. -/
def execEvictionCommit (die : Nat) (s : State) : Out :=
  .next (match (s.die die).evict with
    | none => s.beginEviction die
    | some v =>
      if v.awaits ≠ [] ∨ v.sent ≠ 0 then s
      else match s.pageEntry die v.asid v.page with
        | (t, .leaf slot e big) =>
          if t.quiet die then t.commitEviction die v slot e (s.leafCompanion t die slot) big else t.keepAnswers s
        | (s, .nothing) => s.endEviction die
        | (s, .pending) => s)

/-! ## Scrubs (R298 to R300, R401) -/

/-- The number of the first sector of a die's HBM. -/
def firstSector (die : Nat) : Nat := die * 2 ^ 32

/-- An uncorrectable error in a sector of a record poisons that sector of its copy. DESIGN CHOICE (log 143, unsafe): one in the record's MASK or tag word
poisons every sector of the copy. -/
def SpillRecord.strike (r : SpillRecord) (i : Nat) : SpillRecord :=
  { r with poison := r.poison ||| (if i < 4 then BitVec.ofNat 4 (2 ^ i) else 0xF#4) }

/-- A slice reads a record from HBM, with the sectors that are the poison codeword (R287, R298). -/
def State.readRecord (s : State) (d k r : Nat) (x : SpillRecord) : Option SpillRecord :=
  let a := spillAddr d k r
  (SpillRecord.ofImage (s.mem.readNat a 256) x.line).map fun y =>
    (List.range 8).foldl (fun y i => if s.poison.contains (a / 32 + i) then y.strike i else y) y

/-- A sector of a die's spill area has changed in HBM: the record there is what its bytes hold now (R287). -/
def State.loadRecords (s : State) (die sec : Nat) : State :=
  (List.range Config.slicesPerDie).foldl (fun t k => t.updSlice die k fun sl =>
    { sl with spill := sl.spill.filterMap fun x =>
        if spillAddr die k x.1 ≤ 32 * sec ∧ 32 * sec < spillAddr die k x.1 + 256 then (s.readRecord die k x.1 x.2).map fun y => (x.1, y) else some x }) s

/-- A scrub's read of class 7 at the home slice (R297, R300): it is ordered with the other requests to the line and looks it up; it fills nothing. -/
def State.scrubLookup (s : State) (pa : Nat) : State :=
  let held := match (s.slice (homeDie pa) (sliceOf pa)).homeLine (setOf pa) (pa / 128) with | some (_, w) => w.present.getLsbD (pa / 32 % 4) | none => false
  s.countLookup (homeDie pa) (sliceOf pa) 7 held

/-- `PATROL_SCRUB_VISIT` (R298, R300, R407): a read of class 7 at the sector's home; a corrected sector is rewritten and reported; an uncorrectable one
becomes the poison codeword and is logged. A codeword that is there already reports nothing. The spill area is in no slice. -/
def execPatrolScrubVisit (die sector : Nat) (outcome : EccOutcome) (s : State) : Out :=
  let sec := firstSector die + sector
  let pa := 32 * sec
  let addr := BitVec.ofNat 64 pa
  .next (if Config.dies ≤ die ∨ hbmBytes / 32 ≤ sector then s
    else
      let s := s.wake pa
      let s := if inSpill pa then s else s.scrubLookup pa
      if s.poison.contains sec then s
      else match outcome with
      | .clean => s
      | .corrected => s.report die (engineRecord 0x53#8 0#8 1#2 0 addr)
      | .uncorrectable =>
        let s : State := { s with poison := setAdd s.poison sec }
        (if inSpill pa then s.loadRecords die sec else s).report die (engineRecord 0x53#8 0#8 0#2 0 addr))

/-- `SCRUB_WITH_CLEAR` (R299): zeros with a valid check field, through the home slice; the spill area is in no slice, and a record there is cleared with
it. -/
def execScrubWithClear (die sector : Nat) (s : State) : Out :=
  let sec := firstSector die + sector
  let pa := 32 * sec
  .next (if Config.dies ≤ die ∨ hbmBytes / 32 ≤ sector then s
    else if inSpill pa then (s.setMemSector sec 0#256 false).loadRecords die sec
    else (s.performReq (engineReq pa [engineElem pa 4 (.put 0#128), engineElem (pa + 16) 4 (.put 0#128)]) 0 19).1.flushLine pa)

/-- `REGFILE_SCRUB` (R401): the scrub reads a vector register's lane, or the scalar register `reg` - 64. -/
def execRegfileScrub (core agent reg lane : Nat) (outcome : EccOutcome) (s : State) : Out :=
  .next (match s.core? core with
    | none => s
    | some c =>
      if (c.thread agent).ended then s
      else
        let log (cls : BitVec 2) (s : State) : State := s.report (dieOfCore core) (s.recordOf core agent 0x53#8 0#8 cls 0#64)
        match outcome with
        | .clean => s
        | .corrected => log 1#2 s
        | .uncorrectable =>
          log 0#2 (s.updThread core agent fun t => t.outside fun t =>
            if reg < 64 then
              if t.window ≤ reg then t else { t with v := alterPad VReg.zero t.v reg fun r => { r with poison := r.poison ||| BitVec.ofNat 32 (2 ^ (lane % 32)) } }
            else if 128 ≤ reg then t
            else { t with s := alterPad SReg.zero t.s (reg - 64) fun r => { r with poison := true } }))

end Sys2Proof.Machine
end

