-- ==== Sys2Proof/Machine/Walker.lean ====
section
/-! DEFINITION. The graph walkers: records, nodes, launches and forks, and the end of an invocation (R19 to R24, R341 to R349, R363 to
R365). -/

namespace Sys2Proof.Machine

/-! ## Reads (R345) -/

/-- What a walker read gives: the words, a fatal translation or a poisoned sector, a page that is not present, or a peer's sector
still on its way. -/
inductive WalkRead where
  | words (ws : List W64)
  | bad
  | absent (page : Nat)
  | pending
  deriving DecidableEq, Repr

/-- Read `n` words of 8 bytes. -/
def State.walkerRead (s : State) (die asid : Nat) (va : W64) (n : Nat) : State × WalkRead :=
  match n with
  | 0 => (s, .words [])
  | n + 1 =>
    match s.walk die asid va .read with
    | (s, .fatal _ _) => (s, .bad)
    | (s, .absent _) => (s, .absent (vaNat va / 2 ^ 16))
    | (s, .pending) => (s, .pending)
    | (s, .resident e) =>
      match s.readWord die (e.phys (vaNat va)) with
      | (t, none) => match s.takeError (e.phys (vaNat va) / 128) with
        | some u => (u, .bad)
        | none => (t, .pending)
      | (s, some (_, true)) => (s, .bad)
      | (s, some (v, false)) =>
        match s.walkerRead die asid (va + 8#64) n with
        | (s, .words ws) => (s, .words (v :: ws))
        | x => x

/-- Read words for a step of a queue's invocation: a word that the step has read already keeps its value (R22, R345). -/
def State.stepRead (s : State) (q asid : Nat) (va : W64) (n : Nat) : State × WalkRead :=
  match n with
  | 0 => (s, .words [])
  | n + 1 =>
    let held := ((s.invs.find q).map fun v => v.reads).getD []
    let (s, r) : State × WalkRead := match held.find? fun x => decide (x.1 = asid) && decide (x.2.1 = va) with
      | some x => (s, .words [x.2.2])
      | none => s.walkerRead (q / Config.queuesPerDie) asid va 1
    match r with
    | .words (w :: _) =>
      let known := held.any fun x => decide (x.1 = asid) && decide (x.2.1 = va)
      let note (v : Invocation) : Invocation := if known then v else { v with reads := v.reads ++ [(asid, va, w)] }
      let s : State := { s with invs := s.invs.alter q note }
      match s.stepRead q asid (va + 8#64) n with
      | (s, .words ws) => (s, .words (w :: ws))
      | x => x
    | r => (s, r)

/-- The number that words make, the first lowest. -/
def natOfWords (ws : List W64) : Nat :=
  match ws with
  | [] => 0
  | w :: rest => w.toNat + 2 ^ 64 * natOfWords rest

/-- The field of `n` bytes at a byte offset. -/
def field (rec off n : Nat) : Nat := rec / 2 ^ (8 * off) % 2 ^ (8 * n)

/-- The address field at a byte offset. -/
def fieldAddr (rec off : Nat) : W64 := BitVec.ofNat 64 (field rec off 8)

/-- The 32-bit half of an 8-byte word that an address names. -/
def halfAt (va : W64) (ws : List W64) : Nat :=
  let w := nth ws 0 0#64
  (if va.getLsbD 2 then w.extractLsb' 32 32 else w.extractLsb' 0 32).toNat

/-- The die of a queue (R20). -/
def queueDie (q : Nat) : Nat := q / Config.queuesPerDie

/-- Change the invocation of a queue. -/
def State.updInv (s : State) (q : Nat) (f : Invocation → Invocation) : State := { s with invs := s.invs.alter q f }

/-! ## The end of an invocation (R344) -/

/-- The completion word. -/
def Invocation.word (v : Invocation) : W64 := v.tag ++ (BitVec.ofNat 8 v.status ++ BitVec.ofNat 24 v.node : W32)

/-- The invocation is over: the interrupt is raised if it was asked for, and the queue is free for its next record (R344, R429). -/
def State.closeInvocation (s : State) (q : Nat) (v : Invocation) : State :=
  let s := if v.interrupt then s.toHost (.msix (s.queue q).vf (1 + q % 63)) else s
  { s with invs := s.invs.del q }

/-- Every write to the host and to peers has been acknowledged (R336). -/
def State.allFarDone (s : State) : Bool := s.farDone .sys s.host.nextId s.ualink.nextId

/-- Write the completion word as a release at `.sys`, and close the invocation. It waits for a page that is not present, and for the
writes that the release orders. -/
def State.completeInvocation (s : State) (q : Nat) : State :=
  match s.invs.find q with
  | none => s
  | some v =>
    let die := queueDie q
    let asid := (s.queue q).asid
    let addr := BitVec.ofNat 64 v.done
    let failed (s : State) := s.report die (engineRecord 0x53#8 0#8 2#2 (s.queue q).vf addr)
    if v.done = 0 then s.closeInvocation q v
    else if v.done % 8 ≠ 0 then (failed s).closeInvocation q v
    else
      let before := s.writeBackFar
      if !before.allFarDone then before.updInv q fun v => { v with st := .ended }
      else match before.walk die asid addr .write with
        | (s, .fatal _ _) => (failed s).closeInvocation q v
        | (s, .absent big) =>
          let page := vaNat addr / 2 ^ 16
          (s.requestPage die asid page none big).updInv q fun v => { v with st := .waitPage asid page true }
        | (s, .pending) => s.updInv q fun v => { v with st := .ended }
        | (s, .resident e) =>
          let pa := e.phys (vaNat addr)
          ((s.writeCommitted pa 3 v.word).flushLine pa).closeInvocation q v

/-- End an invocation with a status code; the first non-zero one stands (R344). -/
def State.endInvocation (s : State) (q code : Nat) : State := (s.setStatus q code).completeInvocation q

/-! ## Node steps (R345, R346, R365) -/

/-- The queue's place in its die's round robin, counted from the queue last served. -/
def State.turnOf (s : State) (q : Nat) : Nat :=
  let n := Config.queuesPerDie
  (q % n + n - 1 - nth s.walkTurn (queueDie q) 0) % n

/-- No queue of the die that could take a step comes before this one in the round robin, and the die's walker has taken no step in this fabric cycle
(R345). -/
def State.walkerMay (s : State) (q : Nat) : Bool :=
  decide (nth s.walkNext (queueDie q) 0 ≤ s.fabric) && s.invs.all fun x => decide (queueDie x.1 ≠ queueDie q) || decide (x.2.st ≠ .atNode) || decide (s.turnOf q ≤ s.turnOf x.1)

/-- The walker has served a queue. -/
def State.served (s : State) (q : Nat) : State :=
  { s with
    walkTurn := s.walkTurn.set (queueDie q) (q % Config.queuesPerDie)
    walkNext := s.walkNext.set (queueDie q) (s.fabric + 1) }

/-- Go on with what a walker read gave: nothing else happens while it cannot be made, and a bad one ends the invocation (R345). -/
def State.afterRead (s : State) (q asid : Nat) (r : WalkRead) (k : State → List W64 → State) : State :=
  match r with
  | .words ws => k s ws
  | .bad => s.endInvocation q 0x02
  | .absent page =>
    (s.requestPage (queueDie q) asid page none).updInv q fun v => { v with st := .waitPage asid page false }
  | .pending => s

/-- The bytes that a node kind names: offset and size (R365). -/
def nodeFields (kind : Nat) : List (Nat × Nat) :=
  [(0, 1), (4, 4)] ++
  match kind with
  | 1 => [(8, 8), (16, 4)]
  | 2 => [(8, 8), (16, 4), (20, 4)]
  | 3 => [(8, 8), (16, 4), (20, 4), (24, 2)]
  | 4 => [(8, 8), (16, 4), (24, 8), (32, 8), (40, 3)]
  | 5 => [(8, 1), (16, 4), (24, 8)]
  | _ => []

/-- The indices of other nodes that a kind names. -/
def nodeNexts (kind : Nat) : List Nat :=
  match kind with
  | 2 => [16, 20]
  | 3 => [16, 20]
  | 6 => []
  | _ => [16]

/-- A node is well formed (R346, R348, R362, R365). -/
def nodeOk (v : Invocation) (n : Nat) : Bool :=
  let kind := field n 0 1
  let nodes := field n 4 4
  let word := field n 8 8
  decide (1 ≤ kind) && decide (kind ≤ 6) && decide (1 ≤ nodes) && decide (nodes ≤ 2 ^ 24) &&
    (decide (v.node = 0) || decide (nodes = v.nodes)) &&
    ((nodeNexts kind).all fun off => decide (field n off 4 < nodes)) &&
    ((List.range 64).all fun i => decide (field n i 1 = 0) || (nodeFields kind).any fun f => decide (f.1 ≤ i) && decide (i < f.1 + f.2)) &&
    match kind with
    | 1 => decide (word % 64 = 0)
    | 2 => decide (word % 4 = 0)
    | 3 => decide (word % 4 = 0) && decide (1 ≤ field n 24 2)
    | 4 => decide (word % 64 = 0) && decide (field n 24 8 % 4 = 0) && decide (1 ≤ field n 40 1) && decide (field n 40 1 ≤ 16) &&
        decide (field n 41 1 ≤ 1)
    | 5 => decide (field n 8 1 ≤ 63)
    | _ => true

/-- One node step of an invocation: a malformed node ends it, and a node of the kind named acts. A node of another kind is left for
its own event. -/
def State.nodeStep (s : State) (q kind : Nat) (act : State → Invocation → Nat → State) : State :=
  match s.invs.find q with
  | none => s
  | some v =>
    if v.st ≠ .atNode ∨ !s.walkerMay q ∨ Config.nodeSteps ≤ v.steps then s
    else
      let asid := (s.queue q).asid
      match s.stepRead q asid (BitVec.ofNat 64 (v.graph + 64 * v.node)) 8 with
      | (s', .words ws) =>
        let n := natOfWords ws
        let v' := { v with nodes := if v.node = 0 then field n 4 4 else v.nodes }
        if !nodeOk v n then (s'.served q).endInvocation q 0x02
        else if field n 0 1 ≠ kind then s
        else act (s'.served q) v' n
      | (s', r) => (s'.served q).afterRead q asid r fun s _ => s

/-- A node has been executed: the step counts, the words that it read are forgotten, and the invocation stands as given. -/
def State.stepped (s : State) (q : Nat) (v : Invocation) (st : InvState) (node : Nat) : State :=
  s.updInv q fun x => { x with st := st, node := node, nodes := v.nodes, steps := x.steps + 1, reads := [] }

/-- Go on to a node. -/
def State.toNode (s : State) (q : Nat) (v : Invocation) (node : Nat) : State := s.stepped q v .atNode node

/-- Read a 32-bit word that a node names. -/
def State.nodeWord (s : State) (q asid : Nat) (va : W64) (k : State → Nat → State) : State :=
  let (s, r) := s.stepRead q asid (va &&& ~~~7#64) 1
  s.afterRead q asid r fun s ws => k s (halfAt va ws)

/-! ## Launches (R21 to R24, R363, R364) -/

/-- A launch record keeps every limit (R24, R106, R363, R364). -/
def recordOk (r : Nat) : Bool :=
  let f := field r
  let warps := f 0x42 1
  decide (f 0x00 8 % 16 = 0) && decide (f 0x10 8 % 64 = 0) && decide (f 0x18 4 ≠ 0xFFFFFFFF) &&
    ([0x28, 0x30, 0x38].all fun o => decide (f o 8 % 4 = 0)) &&
    decide (1 ≤ f 0x40 1) && decide (f 0x40 1 ≤ 16) && decide (1 ≤ f 0x41 1) && decide (f 0x41 1 ≤ 8) &&
    decide (1 ≤ warps) && decide (warps ≤ 16) &&
    decide (2 ≤ f 0x43 1) && decide (f 0x43 1 ≤ 8) && decide (warps * 8 * f 0x43 1 ≤ Config.warpRegisters) &&
    decide (f 0x44 2 ≤ 262144 / (32 * warps) / 64) &&
    decide (1 ≤ f 0x46 2) && decide (f 0x46 2 < 2 ^ 12) &&
    decide (f 0x48 4 ≤ 262144) && decide (f 0x48 4 % 128 = 0) && decide (f 0x4C 4 ≤ 524288) && decide (f 0x4C 4 % 512 = 0) &&
    decide (f 0x50 4 ≤ 131072) && decide (f 0x50 4 % 256 = 0) && decide (f 0x54 4 ≤ 262144) && decide (f 0x54 4 % 256 = 0) &&
    decide (1 ≤ f 0x58 8) && decide (f 0x58 8 < 2 ^ 48) &&
    decide (f 0x78 1 ≤ 64) && decide (f 0x7A 1 ≤ 63) && decide (f 0x7B 1 < 8) &&
    (decide (f 0x7C 2 < 4) || decide (f 0x24 4 ≠ 0xFFFFFFFF)) &&
    decide (f 0x7F 1 = 0) && decide (f 0x80 8 % 1024 = 0) && decide (f 0x88 56 = 0)

/-- What a launch record gives a grid, with the counts reduced to their maxima (R23, R363). -/
def launchOf (r : Nat) (args : W64) (gangs blocks warps : Nat) : Launch :=
  let f := field r
  let word (o : Nat) : W32 := BitVec.ofNat 32 (f o 4)
  { code := fieldAddr r 0x00, params := if f 0x08 8 = 0 then args else fieldAddr r 0x08, epitab := fieldAddr r 0x10,
    epiCount := f 0x7E 1, warpEntry := word 0x18, apEntry := word 0x1C, trapEntry := word 0x20, emulEntry := word 0x24,
    warps := min warps (f 0x42 1), window := 8 * f 0x43 1, laneUnits := f 0x44 2, shared := f 0x48 4, tileW := f 0x4C 4,
    tileA := f 0x50 4, tileC := f 0x54 4, budget := f 0x58 8, roles := (List.range 16).map fun i => BitVec.ofNat 8 (f (0x60 + i) 1),
    seed := word 0x70, divFrames := f 0x78 1, asid := f 0x79 1, domain := f 0x7A 1, ahead := decide (f 0x7B 1 % 2 = 1),
    coresident := decide (f 0x7B 1 / 2 % 2 = 1), redundant := decide (f 0x7B 1 / 4 = 1), divBase := fieldAddr r 0x80,
    dieMask := BitVec.ofNat 12 (f 0x46 2), gangs := min gangs (f 0x40 1), blocks := min blocks (f 0x41 1) }

/-- Read a launch record and its count words, and go on with the launch it gives; a record that breaks a limit ends the invocation
with status 0x01 (R22, R24, R364). -/
def State.readLaunch (s : State) (q : Nat) (v : Invocation) (va : W64) (k : State → Launch → State) : State :=
  let asid := (s.queue q).asid
  let (s, r) := s.stepRead q asid va 24
  s.afterRead q asid r fun s ws =>
    let r := natOfWords ws
    if !recordOk r then s.endInvocation q 0x01
    else
      let own := field r 0x79 1
      s.nodeWord q own (fieldAddr r 0x28) fun s g =>
        s.nodeWord q own (fieldAddr r 0x30) fun s b =>
          s.nodeWord q own (fieldAddr r 0x38) fun s w =>
            let l := launchOf r v.args g b w
            if l.redundant ∧ 8 < l.gangs then s.endInvocation q 0x01 else k s l

/-- The blocks that a gang counts for in its grid, twins included. -/
def Launch.gangBlocks (l : Launch) : Nat := if l.redundant then 2 * l.blocks else l.blocks

/-- Hand the spans of a grid to the dispatchers of its dies (R20, R21); a grid without groups has no span (R23), and a co-resident
one asks for the token (R355). -/
def State.startGrid (s : State) (q : Nat) (l : Launch) (vid : Nat) : State × Nat :=
  let id := s.nextGrid
  let dies := diesOf l.dieMask
  let count := if l.warps = 0 then 0 else dies.length * l.gangs * l.gangBlocks
  let g : Grid := { queue := q, launch := l, vid := vid, dies := dies, remaining := count, cores := [] }
  let s := { s with grids := s.grids.put id g, nextGrid := id + 1 }
  let s :=
    if count = 0 then s
    else ((List.range dies.length).zip dies).foldl (fun s x =>
      let span : Span := { grid := id, queue := q, index := x.1, next := 0, since := s.fabric, reserved := [], reported := false }
      s.updDie x.2 fun d => { d with disp := { d.disp with spans := d.disp.spans ++ [span] } }) s
  (if l.coresident ∧ count ≠ 0 then { s with token := s.token ++ [id] } else s, id)

/-! ## The events of the walker -/

/-- `WALKER_TAKE_RECORD` (R343): the record at HEAD is read as an acquire at `.sys`, and HEAD rises. -/
def State.takeRecord (s : State) (q : Nat) : State :=
  let Q := s.queue q
  if !Q.enable ∨ Q.head = Q.tail ∨ (s.invs.find q).isSome then s
  else
    let va := BitVec.ofNat 64 (Q.base + 64 * (Q.head.toNat % 2 ^ Q.logn))
    let fresh : Invocation :=
      { queue := q, record := Q.head.toNat, graph := 0, args := 0#64, done := 0, tag := 0#32, interrupt := false, node := 0,
        nodes := 0, next := 0, steps := 0, status := 0, iters := [], forkDomain := [], forkVids := [], reads := [], st := .atNode }
    let begin (s : State) (v : Invocation) : State :=
      (s.updQueue q fun Q => { Q with head := Q.head + 1#32 }).updInv q id |> fun s => { s with invs := s.invs.put q v }
    match s.dropFar.walkerRead (queueDie q) Q.asid va 8 with
    | (s, .words ws) =>
      let r := natOfWords ws
      let v := { fresh with
        graph := field r 0 8, args := fieldAddr r 8, done := field r 16 8, tag := BitVec.ofNat 32 (field r 0x18 4),
        interrupt := decide (field r 0x1C 2 % 2 = 1) }
      let s := begin s v
      if field r 0x1C 2 < 2 ∧ field r 0x1E 34 = 0 ∧ field r 0 8 % 64 = 0 then s else s.endInvocation q 0x02
    | (s, .bad) => (begin s fresh).endInvocation q 0x02
    | (s, .absent page) => s.requestPage (queueDie q) Q.asid page none
    | (s, .pending) => s

/-- `WALKER_TAKE_RECORD` (R343). -/
def execWalkerTakeRecord (queue : Nat) (s : State) : Out := .next (s.takeRecord queue)

/-- `WALKER_READ_RETRY` (R344, R345): the walker makes a read, or the write of the completion word, again. -/
def execWalkerReadRetry (queue : Nat) (s : State) : Out :=
  .next (match s.invs.find queue with
    | none => s.takeRecord queue
    | some v =>
      match v.st with
      | .waitPage asid page ending =>
        match s.walk (queueDie queue) asid (BitVec.ofNat 64 (page * 2 ^ 16)) .read with
        | (s, .absent big) => s.requestPage (queueDie queue) asid page none big
        | (s, .pending) => s
        | (s, _) =>
          if ending then s.completeInvocation queue else s.updInv queue fun v => { v with st := .atNode }
      | .ended => s.completeInvocation queue
      | _ => s)

/-- `LAUNCH_NODE` (R346): one grid at VID 0, or in the root versions of its pairs. -/
def execLaunchNode (queue : Nat) (s : State) : Out :=
  .next (s.nodeStep queue 1 fun s v n =>
    s.readLaunch queue v (fieldAddr n 8) fun s l =>
      let (s, g) := s.startGrid queue l 0
      (s.stepped queue v (.waitGrids [g]) v.node).updInv queue fun v => { v with next := field n 16 4 })

/-- `CONDITIONAL_NODE` (R346). -/
def execConditionalNode (queue : Nat) (s : State) : Out :=
  .next (s.nodeStep queue 2 fun s v n =>
    s.nodeWord queue (s.queue queue).asid (fieldAddr n 8) fun s w =>
      s.toNode queue v (if w ≠ 0 then field n 16 4 else field n 20 4))

/-- `WHILE_NODE` (R346). -/
def execWhileNode (queue : Nat) (s : State) : Out :=
  .next (s.nodeStep queue 3 fun s v n =>
    s.nodeWord queue (s.queue queue).asid (fieldAddr n 8) fun s w =>
      let i := (v.iters.find v.node).getD 0
      if w ≠ 0 ∧ i < field n 24 2 then
        (s.toNode queue v (field n 16 4)).updInv queue fun x => { x with iters := x.iters.put v.node (i + 1) }
      else (s.toNode queue v (field n 20 4)).updInv queue fun x => { x with iters := x.iters.put v.node 0 })

/-- `FORK_NODE` (R348): the width and the parent are read, the resolve count is recorded, and the fork waits for VIDs. On a package that is not the domain's
coordinating one the count is that of the coordinating Couch, which its first answer carries (R452). -/
def execForkNode (queue : Nat) (s : State) : Out :=
  .next (s.nodeStep queue 4 fun s v n =>
    s.readLaunch queue v (fieldAddr n 8) fun s l =>
      if l.redundant then s.endInvocation queue 0x01
      else
        s.nodeWord queue (s.queue queue).asid (fieldAddr n 24) fun s w =>
          let parent := field n 42 1
          let dom := s.domain l.domain
          let e := dom.entry parent
          let chain := decide (field n 41 1 = 1)
          let w := min w (field n 40 1)
          let w := if chain then min w (Config.versionDepth - e.depth) else if e.depth = Config.versionDepth then 0 else w
          if parent ≠ 0 ∧ (e.st ≠ .live ∨ e.isPair) then s.endInvocation queue 0x02
          else
            let here := (s.coordinator l.domain).isNone
            let done := decide (w = 0) && here
            let st : InvState := if done then .atNode else .waitVids w parent chain l (field n 32 8) l.params
            (s.stepped queue v st (if done then field n 16 4 else v.node)).updInv queue fun x =>
              { x with
                next := field n 16 4
                forkDomain := if here then x.forkDomain.put l.domain dom.resolveCount else x.forkDomain.del l.domain
                forkVids := x.forkVids.put l.domain [] })

/-- Start the grids of a fork's VIDs, in ascending order (R348). -/
def State.forkGrids (s : State) (q : Nat) (l : Launch) (stride : Nat) (params : W64) (vids : List Nat) (k : Nat) : State × List Nat :=
  match vids with
  | [] => (s, [])
  | u :: rest =>
    let (s, g) := s.startGrid q { l with params := params + BitVec.ofNat 64 (k * stride) } u
    let (s, gs) := s.forkGrids q l stride params rest (k + 1)
    (s, g :: gs)

/-- `FORK_VIDS_TAKEN` (R348, R452): enough VIDs are free, and the fork takes them in one step at the domain's Couch. -/
def execForkVidsTaken (queue : Nat) (s : State) : Out :=
  .next (match s.invs.find queue with
    | some v =>
      match v.st with
      | .waitVids n parent chain l stride params =>
        let note (count : Option W32) (s : State) : State := s.updInv queue fun x => match count, x.forkDomain.find l.domain with
          | some m, none => { x with forkDomain := x.forkDomain.put l.domain m }
          | _, _ => x
        match s.askVids l.domain queue n parent chain false with
        | (s, none, count) => note count s
        | (s, some vids, count) =>
          let s := note count s
          if n = 0 then s.updInv queue fun x => { x with st := .atNode, node := x.next }
          else
            let (s, gs) := s.forkGrids queue l stride params vids 0
            s.updInv queue fun x => { x with st := .waitGrids gs, forkVids := x.forkVids.put l.domain vids }
      | _ => s
    | none => s)

/-- The resolves of a walker's timeout are under way. -/
def State.squashing (s : State) (q : Nat) : Bool := s.resolves.any fun r => decide (r.source = .walker q)

/-- A domain's resolve count has moved since it had a value (R349). A package that is not the coordinating one knows the count that the last notice brought,
which may be older than the value (R452). -/
def State.resolvedSince (s : State) (d : Nat) (count : W32) : Bool :=
  let now := (s.domain d).resolveCount
  decide (now ≠ count) && ((s.coordinator d).isNone || decide ((now - count).toNat < 2 ^ 31))

/-- `RESOLVE_WAIT_NODE` (R349): the node begins its wait; it goes on once the resolve count has moved, or once the resolves of its
timeout have completed. -/
def execResolveWaitNode (queue : Nat) (s : State) : Out :=
  .next (match s.invs.find queue with
    | none => s
    | some v =>
      match v.st with
      | .waitResolve d _ _ =>
        if !s.resolvedSince d ((v.forkDomain.find d).getD 0#32) then s
        else s.updInv queue fun x => { x with st := .atNode, node := x.next }
      | .waitSquash _ => if s.squashing queue then s else s.updInv queue fun x => { x with st := .atNode, node := x.next }
      | _ =>
        s.nodeStep queue 5 fun s v n =>
          let d := field n 8 1
          match v.forkDomain.find d with
          | none => s.toNode queue v (field n 16 4)
          | some count =>
            if s.resolvedSince d count then s.toNode queue v (field n 16 4)
            else (s.stepped queue v (.waitResolve d s.fabric (field n 24 8)) v.node).updInv queue fun x =>
              { x with next := field n 16 4 })

/-- `RESOLVE_WAIT_TIMEOUT` (R349): the walker squashes every live VID of its fork that hangs from none of them. -/
def execResolveWaitTimeout (queue : Nat) (s : State) : Out :=
  .next (match s.invs.find queue with
    | none => s
    | some v =>
      match v.st with
      | .waitResolve d start limit =>
        if limit = 0 ∨ s.fabric < start + limit ∨ s.resolvedSince d ((v.forkDomain.find d).getD 0#32) then s
        else
          let vids := (v.forkVids.find d).getD []
          let roots := vids.filter fun u =>
            let e := (s.domain d).entry u
            decide (e.st = .live) && !vids.contains e.parent
          let ask (u : Nat) : Resolve :=
            { source := .walker queue, ofDomain := 0, ofVid := 0, domain := d, target := u, proposed := 0, squash := true,
              status := none, notice := 0, dst := 0, taint := false, asked := none }
          let s : State := { s with resolves := s.resolves ++ roots.map ask }
          (s.setStatus queue 0x05).updInv queue fun x => { x with st := .waitSquash d }
      | _ => s)

/-- `END_NODE` (R346). -/
def execEndNode (queue : Nat) (s : State) : Out :=
  .next (s.nodeStep queue 6 fun s v _ => (s.toNode queue v v.node).completeInvocation queue)

/-- `NODE_STEP_LIMIT` (R346). -/
def execNodeStepLimit (queue : Nat) (s : State) : Out :=
  .next (match s.invs.find queue with
    | some v =>
      if v.st = .atNode ∧ s.walkerMay queue ∧ Config.nodeSteps ≤ v.steps then (s.served queue).endInvocation queue 0x03 else s
    | none => s)

end Sys2Proof.Machine
end

