-- ==== Sys2Proof/Machine/Launch.lean ====
section
/-! DEFINITION. The dispatchers and the life of a block: placement, block start, completion, release, and the rerun of a pair (R12, R13,
R25 to R28, R37, R212, R263, R264, R350 to R355, R358, R374, R404, R405). -/

namespace Sys2Proof.Machine

/-! ## Block start (R25, R37, R165, R263) -/

/-- The registers of a thread at block start, but for what depends on its kind. -/
def Thread.blank (params pc : W64) : Thread :=
  { Thread.absent with
    s := { val := params, taint := false, poison := false } :: List.replicate 63 SReg.zero
    p := List.replicate 8 0#32
    slotA := { st := .live, pc := slot1 pc, mask := allLanes, ra := none, fragId := 0xFF#8 }
    ended := false }

/-- Warp `w` of a block at block start. -/
def Thread.startWarp (l : Launch) (span gang block w : Nat) : Thread :=
  { Thread.blank l.params (l.code + l.warpEntry.setWidth 64) with
    v := List.replicate l.window VReg.zero
    window := l.window
    role := nth l.roles w 0#8
    gen := (List.range 32).map fun i => genStart l.seed span gang block w i
    ls := List.replicate 32 [] }

/-- The access processor of a block at block start; without an entry it has ended, with its registers as at block start (R37, R220). -/
def Thread.startAp (l : Launch) : Thread :=
  if l.apEntry = 0xFFFFFFFF#32 then { Thread.blank l.params 0#64 with slotA := Slot.none, ended := true } else Thread.blank l.params (l.code + l.apEntry.setWidth 64)

/-- The core cycles that clearing lasts (R263). -/
def Launch.clearing (l : Launch) : Nat :=
  ([64 * l.laneUnits * 32 * l.warps, l.shared, l.tileW, l.tileA, l.tileC].map fun n => (n + 255) / 256).foldl max 1

/-- The epilogue program until the first `EPISET` of a block: `EST e0, #2` and `EEND` (R235). -/
def firstEpilogue : List W32 := [0x78000002#32, 0x98000000#32]

/-- The TLB of a core at block start: kept for the address space that it holds translations of, emptied for another (R323). -/
def State.tlbAtStart (s : State) (k asid : Nat) : List TlbEntry :=
  match s.core? k with
  | some c => if c.launch.asid = asid then c.tlb else []
  | none => match (s.die (dieOfCore k)).coreTlb.find k with
    | some (a, t) => if a = asid then t else []
    | none => []

/-- A block at block start on a core with a TLB (R25, R37, R263). -/
def Core.start (s : State) (tlb : List TlbEntry) (l : Launch) (grid queue span gang block vid side pair : Nat) : Core :=
  { grid := grid, queue := queue, span := span, gang := gang, block := block, vid := vid, launch := l, phase := .clearing,
    squashed := false, clearedAt := s.now + l.clearing + 1, firstIssue := none, stopAt := none,
    stamp := s.fabric,
    thr := ((List.range 16).map fun w => if w < l.warps then Thread.startWarp l span gang block w else Thread.absent) ++ [Thread.startAp l],
    pool := Config.warpRegisters - l.warps * l.window, claims := [], released := [],
    aq := List.replicate 4 { entries := [], after := [], waiters := [], closed := decide (l.apEntry = 0xFFFFFFFF#32) },
    mqo := List.replicate 4 [], mqi := List.replicate 4 MQueue.empty,
    sh := [], shPoison := [], full := [], tw := [], twPoison := [], ta := [], taPoison := [], tc := [], tcPoison := [], loose := [],
    frags := List.replicate Config.fragmentEntries Fragment.free, bars := List.replicate 16 (Barrier.start l.warps),
    copies := [], nextCopy := 0, mx := [], nextMx := 0, curBatch := 0#32, lastBatch := 0xFFFFFFFF#32,
    epiProgram := firstEpilogue, epiAux := 0, l1 := [], l1Epoch := 0, stale := [], engineWrote := [], icache := [], tlb := tlb,
    ports := List.replicate 4 { run := none, count := 0, nextAt := 0, pipeAt := 0 },
    pairSide := side, pairIdx := pair, sig := 0#64, sigCount := 0, sigAt := [], namedBars := [],
    damaged := [], reframe := [], heldCounts := [], know := [], tbKnow := [] }

/-! ## Placement (R350, R374, R404) -/

/-- A core became free in this fabric cycle, which no decision of the cycle counts (R27). -/
def State.freedNow (s : State) (k : Nat) : Bool := ((s.die (dieOfCore k)).disp.freed.find k).any fun t => decide (t = s.fabric)

/-- The free cores of a cluster, ascending. -/
def State.freeCores (s : State) (die cl : Nat) : List Nat :=
  (List.range 8).filterMap fun i =>
    let k := die * Config.coresPerDie + 8 * cl + i
    if (s.core? k).isSome || s.freedNow k then none else some k

/-- The clusters that reservations hold on a die. -/
def Die.reserved (d : Die) : List Nat := d.disp.spans.flatMap fun x => x.reserved

/-- The clusters of a list that fit `n` blocks, each with its free cores: the one with the fewest, the lowest on a tie. -/
def bestFit (free : List (Nat × Nat)) (n : Nat) : Option Nat :=
  (free.foldl (fun (m : Option (Nat × Nat)) x =>
    if x.2 < n then m
    else match m with
      | some y => if x.2 < y.2 then some x else m
      | none => some x) none).map fun x => x.1

/-- Take cores away from a cluster of a list. -/
def takeCores (free : List (Nat × Nat)) (cl n : Nat) : List (Nat × Nat) :=
  free.map fun x => if x.1 = cl then (cl, x.2 - n) else x

/-- The clusters that a gang, and its twin if it is redundant, would take of a list, the first given if any (R350, R374). -/
def pickClusters (free : List (Nat × Nat)) (first : Option Nat) (n : Nat) (twin : Bool) (others : List (Nat × Nat)) :
    Option (List Nat) :=
  match first.orElse fun _ => bestFit free n with
  | none => none
  | some c =>
    if !twin then some [c]
    else (bestFit (others.filter fun x => decide (x.1 ≠ c)) n).map fun t => [c, t]

/-- The clusters of a die with their free cores. -/
def State.clusters (s : State) (die : Nat) (p : Nat → Bool) : List (Nat × Nat) :=
  ((List.range 16).filter p).map fun c => (c, (s.freeCores die c).length)

/-- The free entries of a die's pair table (R374). -/
def Die.freePairs (d : Die) : List Nat := (List.range 64).filter fun i => (d.pairs.find i).isNone

/-- So many VIDs of a domain can be taken for pairs here: they are free, or the coordinating Couch has given them (R404, R452). -/
def State.vidsReady (s : State) (d n : Nat) : Bool :=
  match s.coordinator d with
  | none => decide (n ≤ (s.domain d).freeVids)
  | some _ => decide (n ≤ (s.domain d).joint.stock.length)

/-- As a member, ask the coordinating Couch for VIDs of pairs that are not there (R452). -/
def State.orderVids (s : State) (die d n : Nat) : State :=
  if (s.coordinator d).isNone || s.vidsReady d n then s
  else match s.askVids d (2 ^ 20 + die) n 0 false true with
    | (s, some vids, _) => s.updDomain d fun x => { x with joint := { x.joint with stock := x.joint.stock ++ vids } }
    | (s, none, _) => s

/-- The version and pair entries that a redundant gang needs are there (R374, R404). -/
def State.pairRoom (s : State) (die : Nat) (l : Launch) (gangs : Nat) : Bool :=
  !l.redundant || (s.vidsReady l.domain (2 * gangs * l.blocks) && decide (gangs * l.blocks ≤ (s.die die).freePairs.length))

/-- The launch of a grid. -/
def State.launchOfGrid (s : State) (g : Nat) : Option Launch := (s.grids.find g).map fun x => x.launch

/-- The clusters that a candidate takes, if it fits (R350, R354): as an aged one, the cluster that it reserved; else one that no other reservation
holds. -/
def State.fit (s : State) (die : Nat) (sp : Span) (aged : Bool) : Option (List Nat) :=
  match s.launchOfGrid sp.grid with
  | none => none
  | some l =>
    let held := (s.die die).reserved
    let open_ := s.clusters die fun c => !held.contains c || sp.reserved.contains c
    if !s.pairRoom die l 1 then none
    else match aged, sp.reserved with
      | true, c :: _ => if (s.freeCores die c).length < l.blocks then none else pickClusters [] (some c) l.blocks l.redundant open_
      | _, _ => pickClusters open_ none l.blocks l.redundant open_

/-- The budget of a block placed now (R358). -/
def State.budgetOf (s : State) (q : Nat) (l : Launch) : Nat :=
  let cap := (s.queue q).budgetCap
  if cap = 0 then l.budget else min l.budget cap

/-- Saturate a deficit (R352). -/
def satDef (x : Int) : Int := max (-(2 ^ 47 - 1)) (min (2 ^ 47 - 1) x)

/-- Move the deficit of a queue on a die. -/
def State.moveDef (s : State) (die q : Nat) (x : Int) : State :=
  s.updDie die fun d =>
    { d with disp := { d.disp with defs := d.disp.defs.put q (satDef ((d.disp.defs.find q).getD 0 + x)) } }

/-- Charge a placed gang to its queue and to its domain's draft share (R352, R353). DESIGN CHOICE (log 144): the counts are halved once for a gang, and wrap
at their 48 bits. -/
def State.charge (s : State) (die q dom cost : Nat) : State :=
  (s.moveDef die q (-(cost : Int))).updDie die fun d =>
    let all := (d.disp.allCC.find dom).getD 0
    let draft := (d.disp.draftCC.find dom).getD 0
    let half := decide (2 ^ 47 < all + cost)
    let all := if half then all / 2 else all
    let draft := if half then draft / 2 else draft
    { d with disp := { d.disp with
        allCC := d.disp.allCC.put dom ((all + cost) % 2 ^ 48)
        draftCC := d.disp.draftCC.put dom ((if (s.queue q).draft then draft + cost else draft) % 2 ^ 48) } }

/-- Put a block on a core. -/
def State.placeBlock (s : State) (k : Nat) (sp : Span) (g : Grid) (block vid side pair : Nat) : State :=
  let l := { g.launch with budget := s.budgetOf sp.queue g.launch }
  let s := { s with cores := s.cores.put k (Core.start s (s.tlbAtStart k l.asid) l sp.grid sp.queue sp.index sp.next block vid side pair) }
  let s := { s with grids := s.grids.alter sp.grid fun g => { g with cores := setAdd g.cores k } }
  s.countBlocks l.domain vid true

/-- Take two VIDs as the root versions of a pair, in one step, or two that the coordinating Couch gave (R404, R452). -/
def State.takePair (s : State) (d : Nat) : State × Nat × Nat :=
  match s.coordinator d with
  | none => match s.takeVids d 2 0 false true with
    | (s, some [p, t]) => (s, p, t)
    | (s, _) => (s, 0, 0)
  | some _ => match (s.domain d).joint.stock with
    | p :: t :: rest => (s.updDomain d fun x => { x with joint := { x.joint with stock := rest } }, p, t)
    | _ => (s, 0, 0)

/-- Place block `b` of a candidate, with its twin where it is redundant. -/
def State.placeOne (s : State) (die : Nat) (sp : Span) (g : Grid) (cores twins : List Nat) (b : Nat) : State :=
  let k := nth cores b 0
  if !g.launch.redundant then s.placeBlock k sp g b g.vid 0 0
  else
    let t := nth twins b 0
    let (s, vp, vt) := s.takePair g.launch.domain
    let i := nth (s.die die).freePairs 0 0
    let pair : Pair :=
      { grid := sp.grid, gang := sp.next, block := b, span := sp.index, sigP := 0#64, sigT := 0#64, vidP := vp, vidT := vt,
        domain := g.launch.domain, coreP := coreNum k, coreT := coreNum t, nP := 0, nT := 0, st := 1, rerun := false }
    let s := s.updDie die fun d => { d with pairs := d.pairs.put i pair }
    (s.placeBlock k sp g b vp 0 i).placeBlock t sp g b vt 1 i

/-- A queue without a waiting span leaves its ring (R352). -/
def State.leaveRing (s : State) (die q : Nat) : State :=
  if (s.die die).disp.spans.any fun x => decide (x.queue = q) then s
  else s.updDie die fun d =>
    { d with disp := { d.disp with defs := d.disp.defs.alter q fun x => min x 0 } }

/-- A candidate has been placed: the next gang of its span is the candidate, or the span is done. -/
def State.nextGang (s : State) (die i : Nat) (sp : Span) (gangs : Nat) : State :=
  (s.updDie die fun d =>
    { d with disp := { d.disp with
        spans := if gangs ≤ sp.next + 1 then dropAt d.disp.spans i
                 else alterAt d.disp.spans i fun x => { x with next := sp.next + 1, since := s.fabric, reserved := [] } } }).leaveRing die sp.queue

/-- Place the candidate of span `i` of a die on clusters: block `b` on the `b`-th free core (R350). -/
def State.placeGang (s : State) (die i : Nat) (clusters : List Nat) : State :=
  match (s.die die).disp.spans[i]? with
  | none => s
  | some sp =>
    match s.grids.find sp.grid with
    | none => s
    | some g =>
      let n := g.launch.blocks
      let cores := s.freeCores die (nth clusters 0 0)
      let twins := match clusters with | [_, t] => s.freeCores die t | _ => []
      let cost := n * s.budgetOf sp.queue g.launch * clusters.length
      let s := (List.range n).foldl (fun s b => s.placeOne die sp g cores twins b) s
      (s.charge die sp.queue g.launch.domain cost).nextGang die i sp g.launch.gangs

/-! ## Decisions (R351 to R355) -/

/-- A grid's gangs are never placed any more: its version is broke, it has halted, or it is gone (R293, R394). -/
def State.gridDead (s : State) (g : Nat) : Bool :=
  match s.grids.find g with
  | none => true
  | some x => (s.halts.find g).isSome || decide (((s.domain x.launch.domain).entry x.vid).st = .broke)

/-- Discard the unplaced gangs of the spans that a test selects. -/
def State.dropSpans (s : State) (die : Nat) (p : Span → Bool) : State :=
  let gone := (s.die die).disp.spans.filter p
  let s := s.updDie die fun d => { d with disp := { d.disp with spans := d.disp.spans.filter fun x => !p x } }
  gone.foldl (fun s x =>
    let s := { s with grids := s.grids.alter x.grid fun g =>
      { g with remaining := g.remaining - (g.launch.gangs - x.next) * g.launch.gangBlocks } }
    ({ s with token := setDel s.token x.grid } : State).leaveRing die x.queue) s

/-- Discard what is never placed any more. -/
def State.pruneSpans (s : State) (die : Nat) : State := s.dropSpans die fun x => s.gridDead x.grid

/-- A span waits for the token (R355). -/
def State.coresident (s : State) (g : Nat) : Bool := (s.launchOfGrid g).any fun l => l.coresident

/-- Reserve for span `i` the unreserved cluster with the most free cores, the lowest on a tie (R354). -/
def State.reserveCluster (s : State) (die i : Nat) : State :=
  let held := (s.die die).reserved
  let best := (s.clusters die fun c => !held.contains c).foldl (fun (m : Option (Nat × Nat)) x =>
    match m with
    | some y => if y.2 < x.2 then some x else m
    | none => some x) none
  match best with
  | none => s
  | some (c, _) => s.updDie die fun d =>
    { d with disp := { d.disp with spans := alterAt d.disp.spans i fun x => { x with reserved := x.reserved ++ [c] } } }

/-- The clusters that the gangs of a whole span take of a list, gang by gang; none where they do not all fit (R355). -/
def planSpan (free : List (Nat × Nat)) (n : Nat) (twin : Bool) (gangs : Nat) : Option (List (List Nat)) :=
  match gangs with
  | 0 => some []
  | m + 1 =>
    match pickClusters free none n twin free with
    | none => none
    | some cs => (planSpan (cs.foldl (fun f c => takeCores f c n) free) n twin m).map fun rest => cs :: rest

/-- The plan of the token grid's span on the clusters that it reserved. -/
def State.spanPlan (s : State) (die : Nat) (sp : Span) : Option (List (List Nat)) :=
  match s.launchOfGrid sp.grid with
  | none => none
  | some l =>
    if !s.pairRoom die l l.gangs ∨ (s.queue sp.queue).quantum = 0 then none
    else planSpan (s.clusters die fun c => sp.reserved.contains c) l.blocks l.redundant l.gangs

/-- The token grid's span on a die, with its place. -/
def State.tokenSpan (s : State) (die : Nat) : Option (Nat × Span) :=
  match s.token with
  | [] => none
  | g :: _ => ((List.range (s.die die).disp.spans.length).zip (s.die die).disp.spans).find? fun x => decide (x.2.grid = g)

/-- A die reserves clusters for the token grid, one in a decision, until its span fits, and reports (R355). -/
def State.gatherSpan (s : State) (die : Nat) : State :=
  match s.tokenSpan die with
  | none => s
  | some (i, sp) =>
    if sp.reported then s
    else if (s.spanPlan die sp).isSome then s.updDie die fun d =>
      { d with disp := { d.disp with spans := alterAt d.disp.spans i fun x => { x with reported := true } } }
    else s.reserveCluster die i

/-- The aged candidate of oldest wait whose reserved cluster fits it, with its clusters (R351, R354). -/
def State.agedChoice (s : State) (die : Nat) : Option (Nat × List Nat) :=
  let spans := (s.die die).disp.spans
  let found := ((List.range spans.length).zip spans).filterMap fun x =>
    if x.2.reserved = [] ∨ s.coresident x.2.grid ∨ (s.queue x.2.queue).quantum = 0 then none
    else (s.fit die x.2 true).map fun cs => (x.1, x.2.since, cs)
  (found.foldl (fun (m : Option (Nat × Nat × List Nat)) x =>
    match m with
    | some y => if x.2.1 < y.2.1 then some x else m
    | none => some x) none).map fun x => (x.1, x.2.2)

/-- A queue is gated for a domain (R353). -/
def State.gated (s : State) (die q dom : Nat) : Bool :=
  let d := (s.die die).disp
  let e := (d.share.find dom).getD 0#32
  (s.queue q).draft && e.getLsbD 16 &&
    decide ((e.extractLsb' 0 16).toNat * (d.allCC.find dom).getD 0 < (d.draftCC.find dom).getD 0 * 65536)

/-- The first span of a queue that has a fitting candidate and is not gated, with its clusters (R351). -/
def State.queueChoice (s : State) (die q : Nat) : Option (Nat × List Nat) :=
  let spans := (s.die die).disp.spans
  ((List.range spans.length).zip spans).findSome? fun x =>
    if x.2.queue ≠ q ∨ s.coresident x.2.grid then none
    else match s.launchOfGrid x.2.grid with
      | none => none
      | some l => if s.gated die q l.domain then none else (s.fit die x.2 false).map fun cs => (x.1, cs)

/-- The queues of a class that have a span waiting on a die, ascending (R352). -/
def State.ring (s : State) (die cls : Nat) : List Nat :=
  (s.die die).disp.spans.foldl (fun qs x =>
    if (s.queue x.queue).prio = cls then setAdd qs x.queue else qs) []

/-- Set the pointer of a class. -/
def State.setPointer (s : State) (die cls q : Nat) : State :=
  s.updDie die fun d => { d with disp := { d.disp with pointers := d.disp.pointers.set cls q } }

/-- The visits of a decision in a class (R352): at most `fuel`, from place `i` of the ring. -/
def State.visit (s : State) (die cls : Nat) (ring : List Nat) (fuel i : Nat) : State :=
  let q := nth ring (i % ring.length) 0
  match fuel with
  | 0 => s.setPointer die cls q
  | n + 1 =>
    match s.queueChoice die q with
    | none => s.visit die cls ring n (i + 1)
    | some (sp, cs) =>
      if (((s.die die).disp.defs.find q).getD 0) ≤ 0 ∨ (s.queue q).quantum = 0 then
        (s.moveDef die q ((s.queue q).quantum : Int)).visit die cls ring n (i + 1)
      else (s.setPointer die cls q).placeGang die sp cs

/-- The place in a ring at which a pointer stands: the first queue not below it, or the first of all. -/
def pointerPlace (ring : List Nat) (q : Nat) : Nat :=
  match (List.range ring.length).find? fun i => decide (q ≤ nth ring i 0) with
  | some i => i
  | none => 0

/-- A decision in the highest class that has a candidate (R351). -/
def State.serveClasses (s : State) (die : Nat) (classes : List Nat) : State :=
  match classes with
  | [] => s
  | c :: rest =>
    let ring := s.ring die c
    if ring.any fun q => (s.queueChoice die q).isSome then
      s.visit die c ring (2 * ring.length) (pointerPlace ring (nth (s.die die).disp.pointers c 0))
    else s.serveClasses die rest

/-- A candidate has waited AGE fabric cycles and has reserved no cluster (R354). -/
def State.ages (s : State) (die : Nat) (sp : Span) : Bool :=
  decide (sp.reserved = []) && !s.coresident sp.grid && !s.gridDead sp.grid && decide (sp.since + (s.die die).disp.age ≤ s.fabric)

/-- The candidates that age reserve clusters, the oldest wait first (R354). -/
def State.ageSpans (s : State) (die fuel : Nat) : State :=
  match fuel with
  | 0 => s
  | n + 1 =>
    let spans := (s.die die).disp.spans
    let oldest := ((List.range spans.length).zip spans).foldl (fun (m : Option (Nat × Nat)) x =>
      if !s.ages die x.2 then m
      else match m with
        | some y => if x.2.since < y.2 then some (x.1, x.2.since) else m
        | none => some (x.1, x.2.since)) none
    match oldest with
    | some (i, _) => (s.reserveCluster die i).ageSpans die n
    | none => s

/-- As a member, ask for the VIDs of the pairs of the redundant spans that wait on a die (R452). -/
def State.orderPairs (s : State) (die : Nat) : State :=
  (s.die die).disp.spans.foldl (fun s sp => match s.launchOfGrid sp.grid with
    | some l =>
      if l.redundant then s.orderVids die l.domain (2 * (if l.coresident then l.gangs else 1) * l.blocks) else s
    | none => s) s

/-- Place the gangs of the token grid's span on a die. -/
def State.placeSpan (s : State) (die : Nat) (plan : List (List Nat)) : State :=
  match plan with
  | [] => s
  | cs :: rest =>
    match s.tokenSpan die with
    | none => s
    | some (i, _) => (s.placeGang die i cs).placeSpan die rest

/-- The grid that holds the co-residency token, once each of its dies has reported and its span fits there (R355). -/
def State.tokenReady (s : State) : Option (Nat × Grid) :=
  match s.token with
  | [] => none
  | g :: _ =>
    match s.grids.find g with
    | none => none
    | some x =>
      let ready (die : Nat) : Bool := match s.tokenSpan die with
        | some (_, sp) => sp.reported && (s.spanPlan die sp).isSome
        | none => false
      if s.gridDead g ∨ !x.dies.all ready then none else some (g, x)

/-- Every die of the token grid places its gangs, in one decision of each, and the token passes on (R355). A grid that has ended gives it up. DEDUCED,
log 77: the gangs of a die, which start together, are placed in one decision. -/
def State.placeToken (s : State) : Option State :=
  match s.token, s.tokenReady with
  | _ :: rest, some (_, x) =>
    let s := x.dies.foldl (fun s die =>
      match s.tokenSpan die with
      | some (_, sp) => (s.placeSpan die ((s.spanPlan die sp).getD [])).updDie die fun d => { d with disp := { d.disp with next := s.fabric + 1 } }
      | none => s) s
    some { s with token := rest }
  | g :: rest, none => if (s.grids.find g).isNone then some { s with token := rest } else none
  | [], _ => none

/-- The decision of a die is that of the token grid (R351). -/
def State.tokenDecides (s : State) (die : Nat) : Bool := s.tokenReady.any fun x => x.2.dies.contains die

/-- `DISPATCH_DECISION` (R350, R351, R354, R355): one in a fabric cycle, in which at most one gang is placed, or the gangs of the token grid. -/
def execDispatchDecision (die : Nat) (s : State) : Out :=
  .next (if Config.dies ≤ die ∨ s.fabric < (s.die die).disp.next then s
    else if s.tokenDecides die then s.placeToken.getD s
    else
      let s := s.updDie die fun d => { d with disp := { d.disp with next := s.fabric + 1 } }
      let s := (((s.pruneSpans die).gatherSpan die).ageSpans die (s.die die).disp.spans.length).orderPairs die
      match s.agedChoice die with
      | some (i, cs) => s.placeGang die i cs
      | none => s.serveClasses die [7, 6, 5, 4, 3, 2, 1, 0])

/-- `GANG_AGED` (R354): a candidate that has waited AGE fabric cycles reserves a cluster, as it does in the next decision. -/
def execGangAged (die grid : Nat) (s : State) : Out :=
  let spans := (s.die die).disp.spans
  .next (match ((List.range spans.length).zip spans).find? fun x => decide (x.2.grid = grid) with
    | some (i, sp) =>
      if s.ages die sp then s.reserveCluster die i else s
    | none => s)

/-- `CORESIDENT_PLACEMENT` (R355): the decisions in which every die of the token grid places its gangs. -/
def execCoresidentPlacement (s : State) : Out := .next (s.placeToken.getD s)

/-! ## The life of a block -/

/-- `CLEARING_DONE` (R263): clearing has ended, and the block may issue. -/
def execClearingDone (core : Nat) (s : State) : Out :=
  .next (match s.core? core with
    | some c =>
      if c.phase = .clearing then
        ({ s with now := max s.now c.clearedAt } : State).updCore core fun c => { c with phase := .running }
      else s
    | none => s)

/-- A slot waits where only a barrier's phase or a grant ends the wait (R212). -/
def Slot.deadWait (sl : Slot) : Bool :=
  match sl.st with
  | .waiting (.bar _) => true
  | .waiting (.barwait _) => true
  | .waiting .rclaim => true
  | _ => false

/-- Every live lane of a warp is held in such a wait (R212). DEDUCED (log 79): lanes that have arrived at a join wait for the others, and keep nothing alive:
they wait until the block ends or is killed by this fault too (R126). -/
def Core.deadWarp (c : Core) (w : Nat) : Bool :=
  let t := c.thread w
  let held (sl : Slot) : Bool := decide (sl.st = .empty) || sl.deadWait
  let both := t.slotA.deadWait && t.slotB.deadWait
  t.ended || (held t.slotA && held t.slotB && (t.slotA.deadWait || t.slotB.deadWait) &&
    t.stack.all fun f => match f with | .path _ _ _ _ => both | .join _ _ _ _ => true)

/-- `BARRIER_DEAD` (R57, R212): no phase can complete, even once the accesses are performed that arrivals wait for. -/
def execBarrierDead (core : Nat) (s : State) : Out :=
  .next (match s.core? core with
    | none => s
    | some c =>
      let warps := List.range c.launch.warps
      let grants := c.grantable
      let claims := warps.any fun w => [(c.thread w).slotA, (c.thread w).slotB].any fun sl => decide (sl.st = .waiting .rclaim)
      if c.phase = .running ∧ (warps.any fun w => !(c.thread w).ended) ∧ (warps.all fun w => c.deadWarp w) ∧
          (c.frags.all fun f => !f.valid) ∧ !grants ∧ (c.bars.all fun b => !(c.settledBar b).complete) then
        s.killBlock core 0x31#8 (if claims then 1#8 else 0#8) 0x13 0#64
      else s)

/-- Every engine command of a block has ended (R264, R392). -/
def Core.enginesDone (c : Core) : Bool :=
  (c.mx.all fun m => decide (m.st = .done)) &&
    c.copies.all fun x => decide (x.st = .ended) && x.peerWait.all fun u => x.counted.contains u

/-- What a killed or a stopped block had issued to its core-local memories has been performed (R392, R394). -/
def Core.localDone (c : Core) : Bool :=
  c.acts || c.thr.all fun t => t.inflight.all fun x => x.done || decide (x.path ≠ .lo) || !(decide (x.kind = .store) || decide (x.kind = .atom))

/-- Every request of a block has been answered (R292); what it does to memory has happened. -/
def Core.requestsDone (c : Core) : Bool :=
  (c.thr.all fun t => t.inflight.all fun x => x.done || x.stuck || x.reqs.all fun r => decide (r.st = .answered)) && c.localDone

/-- Whose a request is belongs to a block on a core. -/
def Owner.ofCore (o : Owner) (k : Nat) : Bool :=
  match o with
  | .access c _ _ => decide (c = k)
  | .copy c _ _ => decide (c = k)
  | .drain c _ => decide (c = k)
  | _ => false

/-- A message carries a write of a block. -/
def Msg.writeOf (m : Msg) (k : Nat) : Bool :=
  match m.body with
  | .write r => r.owner.ofCore k
  | _ => false

/-- A write that a block or its engines have sent to another die has not been applied there: one of a copy or a drain that was cancelled since (R292, R293). -/
def State.writesOnWay (s : State) (k : Nat) : Bool :=
  (s.flits.any fun f => match f.body with | .msg m => m.writeOf k | _ => false) ||
    s.dies.any fun d => (d.inbox.any fun m => m.writeOf k) || d.heldWrites.any fun r => r.owner.ofCore k

/-- A squashed block has stopped: every run in progress has ended (R293). -/
def Core.stopped (c : Core) : Bool := decide (c.phase = .stopping) && c.ports.all fun p => p.run.isNone

/-- The cycles that a block has used (R352, R358). -/
def State.used (s : State) (c : Core) : Nat :=
  match c.firstIssue with
  | some t => (c.stopAt.getD s.now) - t
  | none => 0

/-- The other block of a pair is no longer on its core. -/
def State.aloneInPair (s : State) (die : Nat) (p : Pair) (k i : Nat) : Bool :=
  !(s.core? (p.other die k)).any fun c => c.launch.redundant && decide (c.pairIdx = i) && decide (c.grid = p.grid)

/-- Free the pair entry of a block that leaves its core, once both have left (R374). -/
def State.leavePair (s : State) (die k : Nat) (c : Core) : State :=
  if !c.launch.redundant then s
  else match (s.die die).pairs.find c.pairIdx with
    | none => s
    | some p =>
      if s.aloneInPair die p k c.pairIdx then s.updDie die fun d => { d with pairs := d.pairs.del c.pairIdx } else s

/-- The receive register of a core that a flit's message is for (R47). -/
def Flit.messageTo (f : Flit) (k : Nat) : Option Nat :=
  match f.body with
  | .message _ core q _ _ => if core = k then some q else none
  | _ => none

/-- A block leaves its core, which becomes free (R26, R264); messages on their way to it are discarded (R223). -/
def State.releaseCore (s : State) (k : Nat) : State :=
  match s.core? k with
  | none => s
  | some c =>
    let die := dieOfCore k
    let s := s.moveDef die c.queue ((c.launch.budget : Int) - (s.used c : Int))
    let s := s.countBlocks c.launch.domain c.vid false
    let s := { s with grids := s.grids.alter c.grid fun g => { g with remaining := g.remaining - 1 } }
    let s : State :=
      { s with
        flits := s.flits.filter fun f => !(f.messageTo k).isSome
        covers := s.covers.filter fun x => decide (x.core ≠ k) }
    let s := s.updDie die fun d =>
      { d with
        coreTlb := d.coreTlb.put k (c.launch.asid, c.tlb)
        woken := d.woken.filter fun w => decide (w.core ≠ k)
        disp := { d.disp with freed := d.disp.freed.put k s.fabric } }
    { s.leavePair die k c with cores := s.cores.del k }

/-- The watchdog of a block has come to its budget (R358). -/
def Core.overBudget (c : Core) (now : Nat) : Bool := c.acts && c.firstIssue.any fun t => decide (t + c.launch.budget ≤ now)

/-- A block whose budget is used up is killed (R358). -/
def State.endBudget (s : State) (core : Nat) : State :=
  if (s.core? core).any fun c => c.overBudget s.now then s.killBlock core 0x30#8 0#8 0x13 0#64 else s

/-- `BUDGET_EXCEEDED` (R358): the watchdog has come to the block's budget. -/
def execBudgetExceeded (core : Nat) (s : State) : Out := .next (s.endBudget core)

/-- `BLOCK_COMPLETE` (R26): every warp has ended, no fragment remains, the access processor has ended, and every access, copy and
matrix command has completed, before its budget is used up (R358). The core becomes free; that of a redundant block is held until its pair commits (R404). -/
def execBlockComplete (core : Nat) (s : State) : Out :=
  .next (match s.core? core with
    | none => s
    | some c =>
      if c.overBudget s.now then s.endBudget core
      else if c.acts ∧ (c.thr.all fun t => t.ended && t.inflight.all fun x => x.done) ∧ (c.frags.all fun f => !f.valid) ∧
          c.enginesDone then
        let s := s.voidReservations core c.grid c.launch.domain
        if c.launch.redundant then
          s.updCore core fun c => { c with phase := .completed, stopAt := some s.now }
        else s.releaseCore core
      else s)

/-- A block of a pair keeps its core: it waits for the comparison, for the commit, or for its rerun (R404, R405). -/
def State.pairHolds (s : State) (die : Nat) (c : Core) : Bool :=
  c.launch.redundant && (s.die die).pairs.any fun x => decide (x.1 = c.pairIdx) &&
    ((decide (x.2.st = 3) && decide (c.phase ≠ .halted) && decide (c.phase ≠ .killed)) || (decide (c.phase = .completed) && decide (((s.domain x.2.domain).entry x.2.vidP).st = .live)))

/-- The dump record of a core is still to be written (R394). -/
def State.recordDue (s : State) (k : Nat) (c : Core) : Bool :=
  match s.halts.find c.grid with
  | none => false
  | some h => !h.recorded.contains k && ((h.offsets.find (dieOfCore k)).getD []).any fun x => decide (x.1 = k)

/-- `BLOCK_RELEASE` (R264, R392, R394): a block that was killed, squashed or halted, or whose pair is settled, leaves its core once its
engine commands have ended, its requests are answered and its dump record is written. -/
def execBlockRelease (core : Nat) (s : State) : Out :=
  .next (match s.core? core with
    | none => s
    | some c =>
      let over_ := decide (c.phase = .killed) || decide (c.phase = .completed) || c.stopped || decide (c.phase = .halted)
      if over_ && c.enginesDone && c.requestsDone && !s.writesOnWay core && !s.pairHolds (dieOfCore core) c && !s.recordDue core c then
        (s.voidReservations core c.grid c.launch.domain).releaseCore core
      else s)

/-- A pair commit of a domain is still on its way to a slice, or the updates it caused are. -/
def State.commitsOut (s : State) (d : Nat) : Bool :=
  let mark (b : MsgBody) : Bool := match b with
    | .update _ _ _ _ c a => decide (a = 20) && decide (c % 64 = d)
    | .invalidate _ marks => marks.any fun m => decide (m.2 = 20) && decide (m.1 % 64 = d)
    | _ => false
  (s.notices.any fun n => decide (n.domain = d)) || !(s.domain d).joint.awaiting.isEmpty ||
    (s.resolves.any fun r => decide (r.source = .pair) && decide (r.domain = d)) ||
    (s.flits.any fun f => match f.body with | .msg m => mark m.body | _ => false) || s.dies.any fun x => x.inbox.any fun m => mark m.body

/-- `GRID_COMPLETE` (R28, R293, R404): no block of the grid is left, and what its blocks wrote is performed at `.pkg`; its invocation goes
on once every grid of the node has completed. -/
def execGridComplete (grid : Nat) (s : State) : Out :=
  .next (match s.grids.find grid with
    | none => s
    | some g =>
      let s := if s.gridDead grid then g.dies.foldl (fun s d => s.dropSpans d fun x => decide (x.grid = grid)) s else s
      let left := ((s.grids.find grid).map fun g => g.remaining).getD 0
      let out := (g.cores.any fun k => (List.range 19).any fun a => s.updatesOut k a) ||
        (g.launch.redundant && s.commitsOut g.launch.domain)
      if (s.halts.find grid).isSome || decide (left ≠ 0) || out then s
      else
        let s : State := { s with grids := s.grids.del grid, token := setDel s.token grid }
        s.updInv g.queue fun v =>
          match v.st with
          | .waitGrids gs =>
            let gs := gs.filter fun x => x != grid
            if gs.isEmpty then { v with st := .atNode, node := v.next } else { v with st := .waitGrids gs }
          | _ => v)

/-- Start a block of a pair again on its core, in a new version (R405). -/
def State.restart (s : State) (k : Nat) (vid : Nat) : State :=
  match s.core? k with
  | none => s
  | some c =>
    let s := s.voidReservations k c.grid c.launch.domain
    let s := s.countBlocks c.launch.domain c.vid false
    let fresh := Core.start s (s.tlbAtStart k c.launch.asid) c.launch c.grid c.queue c.span c.gang c.block vid c.pairSide c.pairIdx
    let due (q : Nat) : Nat := (s.flits.filter fun f => decide (f.messageTo k = some q)).length
    let fresh := { fresh with mqi := (List.range 4).map fun q => { MQueue.empty with promised := due q } }
    ({ s with cores := s.cores.put k fresh } : State).countBlocks c.launch.domain vid true

/-- `PAIR_RERUN_START` (R405): both blocks have stopped and two VIDs are free. A pair of which a block was killed meanwhile does not
rerun. -/
def execPairRerunStart (die pair : Nat) (s : State) : Out :=
  .next (match (s.die die).pairs.find pair with
    | none => s
    | some p =>
      let kP := die * Config.coresPerDie + p.coreP
      let kT := die * Config.coresPerDie + p.coreT
      match s.core? kP, s.core? kT with
      | some cP, some cT =>
        let over_ (c : Core) : Bool := (c.stopped || decide (c.phase = .completed)) && c.enginesDone && c.requestsDone
        let dead (c : Core) : Bool := decide (c.phase = .killed) || decide (c.phase = .halted)
        if p.st ≠ 3 then s
        else if dead cP || dead cT then s.updPair die pair fun p => { p with st := 2 }
        else if !over_ cP || !over_ cT || s.writesOnWay kP || s.writesOnWay kT then s
        else if !s.vidsReady p.domain 2 then s.orderVids die p.domain 2
        else
          let (s, vp, vt) := s.takePair p.domain
          let s := s.updPair die pair fun p => { p with vidP := vp, vidT := vt, sigP := 0#64, sigT := 0#64, nP := 0, nT := 0, st := 1, rerun := true }
          (s.restart kP vp).restart kT vt
      | _, _ => s)

end Sys2Proof.Machine
end

