-- ==== Sys2Proof/Machine/Halt.lean ====
section
/-! DEFINITION. Grid halts, the dump, and error reports (R394 to R400, R402, R406 to R408). -/

namespace Sys2Proof.Machine

/-! ## The coordinator (R394, R399) -/

/-- A further fault of a halt: the first such fault fills the SECOND fields, later ones are counted (R399). -/
def Halt.also (h : Halt) (f : HaltFault) : Halt :=
  match h.second with
  | none => { h with second := some f }
  | some _ => { h with more := min (2 ^ 32 - 1) (h.more + 1) }

/-- The core of a fault, if it names one. -/
def HaltFault.key (f : HaltFault) : Nat := f.die * Config.coresPerDie + f.core.toNat

/-- A section of a block's record, by its type and item, is damaged (R399). -/
def Core.damage (c : Core) (sect : Nat × Nat) : Core := { c with damaged := if c.damaged.contains sect then c.damaged else c.damaged ++ [sect] }

/-- A further fault reaches the coordinator; that of a copy or a drain damages the shared-memory section of its block. -/
def State.secondFault (s : State) (g : Nat) (f : HaltFault) : State :=
  let s := { s with halts := s.halts.alter g fun h => h.also f }
  if f.section_ = 3#8 then s.updCore f.key fun c => if c.grid = g then c.damage (3, 0) else c else s

/-- The first report of a grid begins its halt, which the launching die counts (R379, R394). -/
def State.beginHalt (s : State) (g q : Nat) (f : HaltFault) : State :=
  let h : Halt :=
    { grid := g, first := f, second := none, more := 0, arrived := [], written := [], offsets := [], recorded := [],
      lengths := [] }
  ({ s with halts := s.halts.put g h } : State).updDie (queueDie q) fun d => { d with halts := d.count d.halts 32 }

/-- `GRID_HALT_REPORT` (R394, R399): a report reaches the coordinator of its grid. Once the halt is complete, reports find no grid. -/
def execGridHaltReport (idx : Nat) (s : State) : Out :=
  .next (match s.reports[idx]? with
    | none => s
    | some (g, f) =>
      let s := { s with reports := dropAt s.reports idx }
      match s.grids.find g with
      | none => s
      | some x => if (s.halts.find g).isSome then s.secondFault g f else s.beginHalt g x.queue f)

/-! ## The layout of a dump (R396 to R398) -/

/-- A length with its padding to a multiple of 16. -/
def pad16 (n : Nat) : Nat := (n + 15) / 16 * 16

/-- Bytes, padded with zeros to a multiple of 16. -/
def padBytes (bs : List W8) : List W8 := bs ++ List.replicate (pad16 bs.length - bs.length) 0#8

/-- `n` zero bytes. -/
def zeroBytes (n : Nat) : List W8 := List.replicate n 0#8

/-- The bits of a list of flags as bytes, the first lowest. -/
def packBits (n : Nat) (p : Nat → Bool) : List W8 :=
  (List.range ((n + 7) / 8)).map fun j =>
    BitVec.ofNat 8 ((List.range 8).foldl (fun v i => if decide (8 * j + i < n) && p (8 * j + i) then v + 2 ^ i else v) 0)

/-- A slot in a record. -/
def Slot.dump (sl : Slot) : List W8 :=
  let st := match sl.st with | .empty => 0 | .live => 1 | .waiting _ => 2
  bytesOfNat 8 sl.pc.toNat ++ bytesOfNat 8 (sl.ra.getD (BitVec.allOnes 64)).toNat ++ bytesOfNat 4 sl.mask.toNat ++
    [BitVec.ofNat 8 st, sl.fragId] ++ zeroBytes 2

/-- The registers of a warp (R398, type 1). -/
def Thread.dump (t : Thread) (ahead : Bool) (counts : List Nat) : List W8 :=
  let loop (i : Nat) : List W8 := match t.loops[i]? with
    | some l => bytesOfNat 8 l.start.toNat ++ bytesOfNat 8 l.last.toNat ++ bytesOfNat 4 l.count.toNat ++ [1#8] ++ zeroBytes 3
    | none => zeroBytes 24
  let mode := (if t.inhibit then 2 else 0) + (if ahead then 1 else 0)
  ((List.range 64).flatMap fun i => bytesOfNat 8 (t.sval i).toNat) ++
    ((List.range 8).flatMap fun i => bytesOfNat 4 (t.pval i).toNat) ++ t.slotA.dump ++ t.slotB.dump ++
    bytesOfNat 4 t.trapCause.toNat ++ bytesOfNat 4 t.trapMask.toNat ++ bytesOfNat 8 t.trapPc.toNat ++
    bytesOfNat 4 t.fpstat.toNat ++ bytesOfNat 4 t.wctl.toNat ++ bytesOfNat 4 mode ++
    ((List.range 4).map fun i => BitVec.ofNat 8 (nth counts i 0)) ++ ((List.range 4).flatMap loop) ++
    [BitVec.ofNat 8 t.window, t.role, BitVec.ofNat 8 t.stack.length, BitVec.ofNat 8 t.loops.length] ++ zeroBytes 4 ++
    packBits 64 (fun i => (t.sreg i).poison) ++ zeroBytes 32 ++
    ((List.range t.window).flatMap fun n => (List.range 32).flatMap fun i => bytesOfNat 4 (t.lane n i).toNat) ++
    ((List.range t.window).flatMap fun n => bytesOfNat 4 (t.vreg n).poison.toNat)

/-- The access processor (R398, type 2). -/
def Core.dumpAp (c : Core) : List W8 :=
  let t := c.thread apAgent
  let st := if t.ended then 2 else match t.slotA.st with | .waiting _ => 1 | _ => 0
  ((List.range 64).flatMap fun i => bytesOfNat 8 (t.sval i).toNat) ++ bytesOfNat 8 t.slotA.pc.toNat ++
    packBits 7 (fun i => decide (t.pval i ≠ 0#32)) ++ [BitVec.ofNat 8 st] ++
    ((List.range 4).map fun i => BitVec.ofNat 8 (nth (nth c.heldCounts apAgent []) i 0)) ++
    (c.aq.map fun q => BitVec.ofNat 8 q.entries.length) ++ zeroBytes 6

/-- Shared memory, its poison bits and its full/empty bits (R398, type 3). -/
def Core.dumpShared (c : Core) : List W8 :=
  let n := c.launch.shared
  c.sh.readBytes 0 n ++ packBits (n / 32) (fun i => c.shPoison.contains i) ++ packBits (n / 128) (fun i => c.full.contains i)

/-- The mask of a list of numbers. -/
def maskOfNats (l : List Nat) : Nat := l.foldl (fun m i => m ||| 2 ^ i) 0

/-- A barrier entry (R368). -/
def Barrier.bits (b : Barrier) : Nat :=
  maskOfNats b.arrived + maskOfNats b.dropped * 2 ^ 16 + b.expected * 2 ^ 32 + b.phase.toNat * 2 ^ 48

/-- The barriers, and the transaction barriers that copies and drains have named (R398, type 4). -/
def Core.dumpBars (c : Core) : List W8 :=
  (c.bars.flatMap fun b => bytesOfNat 16 b.bits) ++ bytesOfNat 16 c.namedBars.length ++
    c.namedBars.flatMap fun a => bytesOfNat 16 a ++ c.sh.readBytes a 16

/-- A fragment entry (R366). -/
def Fragment.bits (f : Fragment) (code : W64) : Nat :=
  let rel (x : W64) : W32 := (x - code).setWidth 32
  let ra : BitVec 29 := match f.ra with | some x => (rel x).extractLsb' 4 28 ++ 1#1 | none => 0#29
  if !f.valid then 0
  else f.key.toNat + f.mask.toNat * 2 ^ 64 + ra.toNat * 2 ^ 119 + ((rel f.pc).extractLsb' 2 30).toNat * 2 ^ 148 +
    f.cause.toNat * 2 ^ 178 + f.warp * 2 ^ 186 + (if f.ready then 2 ^ 190 else 0) + 2 ^ 191

/-- The fragment table (R398, type 5). -/
def Core.dumpFrags (c : Core) : List W8 := c.frags.flatMap fun f => bytesOfNat 24 (f.bits c.launch.code)

/-- The sections of a block's record: type, item and payload, in order (R398). -/
def Core.sections (c : Core) : List (Nat × Nat × List W8) :=
  ((List.range c.launch.warps).map fun w => (1, w, (c.thread w).dump c.launch.ahead (nth c.heldCounts w []))) ++
    [(2, 0, c.dumpAp), (3, 0, c.dumpShared), (4, 0, c.dumpBars), (5, 0, c.dumpFrags)]

/-- The length of a block's record; its sections have their lengths from the moment of the halt (R396, R397). -/
def Core.recordLength (c : Core) : Nat := 64 + (c.sections.map fun x => 16 + pad16 x.2.2.length).foldl (· + ·) 0

/-- The block header (R397). -/
def Core.blockHeader (c : Core) (k : Nat) (broke : Bool) : List W8 :=
  [BitVec.ofNat 8 c.gang, BitVec.ofNat 8 c.block, BitVec.ofNat 8 (coreNum k), BitVec.ofNat 8 c.launch.warps, BitVec.ofNat 8 c.vid,
   if broke then 2#8 else 1#8] ++ bytesOfNat 2 c.sections.length ++ bytesOfNat 8 c.recordLength ++ zeroBytes 48

/-- A section with its header; a damaged one has STATUS 1 (R397, R399). -/
def sectionBytes (type item : Nat) (bad : Bool) (payload : List W8) : List W8 :=
  [BitVec.ofNat 8 type, if bad then 1#8 else 0#8, BitVec.ofNat 8 item, 0#8] ++ bytesOfNat 4 payload.length ++ zeroBytes 8 ++
    padBytes payload

/-! ## The halt on a die (R394, R395) -/

/-- Whether the halt finds a block that has not completed: one that has been killed and has not left its core gets a record too (R70, R396). -/
def Core.halts (c : Core) (g : Nat) : Bool := decide (c.grid = g) && decide (c.phase ≠ .completed) && decide (c.phase ≠ .halted)

/-- The blocks of a grid on a die in the order of their records (R396). -/
def State.recordOrder (s : State) (die g : Nat) : List Nat :=
  let mine := s.cores.filter fun x => decide (dieOfCore x.1 = die) && x.2.halts g
  let key (x : Nat × Core) : Nat := x.2.gang * 16 + x.2.block * 2 + x.2.pairSide
  (mine.foldl (fun (l : List (Nat × Nat)) x =>
    (l.takeWhile fun y => decide (y.1 ≤ key x)) ++ [(key x, x.1)] ++ (l.dropWhile fun y => decide (y.1 ≤ key x))) []).map fun x => x.2

/-- Stop one block (R394, R395): nothing issues any more; what is queued and not yet validated is cancelled with code 0x08. A block that has been killed
keeps the moment at which it stopped (R398). -/
def State.haltBlock (s : State) (k : Nat) : State :=
  match s.core? k with
  | none => s
  | some c =>
    let s := s.updCore k fun c =>
      { c with
        phase := .halted
        stopAt := if c.phase = .killed then c.stopAt else some s.now
        claims := []
        ports := c.ports.map fun p => { p with run := none, count := 0 }
        heldCounts := if c.phase = .killed then c.heldCounts else c.countsNow
        thr := c.thr.map Thread.exitAhead }
    let s := c.copies.foldl (fun s x => if x.st = .waiting then s.dropCopy k x 8 else s) s
    let s := c.mx.foldl (fun s m =>
      match m.st, m.op with
      | .queued, .drain _ _ _ _ _ => s.failDrain k m 8
      | _, _ => s) s
    s.updCore k fun c => { c with mx := c.mx.map fun m => if m.st = .queued then { m with st := .done, loose := [] } else m }

/-- `HALT_ARRIVE` (R394 to R396): a die stops every block of the grid, discards its unplaced gangs, and fixes where the records
stand. -/
def execHaltArrive (die grid : Nat) (s : State) : Out :=
  .next (match s.halts.find grid, s.grids.find grid with
    | some h, some g =>
      if !g.dies.contains die ∨ h.arrived.contains die then s
      else
        let ks := s.recordOrder die grid
        let s := s.dropSpans die fun x => decide (x.grid = grid)
        let s := ks.foldl State.haltBlock s
        let (places, len) := ks.foldl (fun (acc : List (Nat × Nat) × Nat) k =>
          (acc.1 ++ [(k, acc.2)], acc.2 + ((s.core? k).map Core.recordLength).getD 0)) ([], 128)
        { s with halts := s.halts.alter grid fun h =>
            { h with arrived := setAdd h.arrived die, offsets := h.offsets.put die places, lengths := h.lengths.put die len } }
    | _, _ => s)

/-! ## Writing the dump (R396 to R399) -/

/-- Write dump bytes from an offset; those at DUMPSIZE or above are not written (R396). -/
def State.dumpBytes (s : State) (die off : Nat) (bs : List W8) : State :=
  s.writeBytes ((s.die die).dumpBase + off) (bs.take ((s.die die).dumpSize - off))

/-- A failure to write the dump region as a second fault (R399). The spec states no code, detail, PC or address for it: they are free
values. -/
def State.writeFailure (s : State) (die grid idx type : Nat) : State :=
  let w (i : Nat) : W64 := Config.freeWord (s.free + i) ++ Config.freeWord (s.free + i + 1)
  let f : HaltFault :=
    { code := Config.freeByte s.free, detail := Config.freeByte (s.free + 1), pc := w 2, addr := w 4, die := die, core := 0xFF#8,
      agent := 0x13#8, section_ := BitVec.ofNat 8 type, block := BitVec.ofNat 8 idx, cycle := s.now - s.resetAt }
  let s := { s with free := s.free + 6 }
  { s with halts := s.halts.alter grid fun h => h.also f }

/-- Write the sections of a record one after another; one that crosses the end of the region is a write failure. -/
def State.dumpSections (s : State) (die grid idx : Nat) (bad : List (Nat × Nat)) (off : Nat) (secs : List (Nat × Nat × List W8)) : State :=
  match secs with
  | [] => s
  | (type, item, payload) :: rest =>
    let len := 16 + pad16 payload.length
    let size := (s.die die).dumpSize
    let cut := decide (off ≤ size) && decide (size < off + len) && decide (size ≠ 0)
    let s := s.dumpBytes die off (sectionBytes type item (cut || bad.contains (type, item)) payload)
    let s := if cut then s.writeFailure die grid idx type else s
    s.dumpSections die grid idx bad (off + len) rest

/-- `DUMP_RECORD_WRITE` (R394, R397, R398): a stopped block's engine commands have ended, and its record is written. -/
def execDumpRecordWrite (core : Nat) (s : State) : Out :=
  let die := dieOfCore core
  .next (match s.core? core with
    | none => s
    | some c =>
      let reported := s.reports.any fun x => decide (x.1 = c.grid) && decide (x.2.key = core)
      if c.phase ≠ .halted ∨ !s.recordDue core c ∨ !c.enginesDone ∨ !c.localDone ∨ reported then s
      else
        let offs := match s.halts.find c.grid with | some h => (h.offsets.find die).getD [] | none => []
        let off := match offs.find? fun x => decide (x.1 = core) with | some (_, o) => o | none => 0
        let idx := (offs.takeWhile fun x => decide (x.1 ≠ core)).length
        let size := (s.die die).dumpSize
        let cut := decide (off ≤ size) && decide (size < off + 64) && decide (size ≠ 0)
        let s := s.dumpBytes die off (c.blockHeader core (decide (s.versionOf c = .broke)))
        let s := if cut then s.writeFailure die c.grid idx 0 else s
        let s := s.dumpSections die c.grid idx c.damaged (off + 64) c.sections
        { s with halts := s.halts.alter c.grid fun h =>
            { h with recorded := setAdd h.recorded core } })

/-- The die header (R396). -/
def State.dieHeader (s : State) (die : Nat) (g : Grid) (h : Halt) : List W8 :=
  let record := ((s.invs.find g.queue).map fun v => v.record).getD 0
  let span := (g.dies.filter fun d => decide (d < die)).length
  let cause (f : HaltFault) : List W8 := [f.code, f.detail, 0#8, 0#8]
  let places := (h.offsets.find die).getD []
  let block (f : HaltFault) : W8 :=
    if f.die ≠ die then 0xFF#8
    else if f.core = 0xFF#8 then f.block
    else
      let i := (places.takeWhile fun x => decide (x.1 ≠ f.key)).length
      if i < places.length then BitVec.ofNat 8 i else 0xFF#8
  bytesOfNat 4 0x504D5544 ++ bytesOfNat 2 1 ++ [BitVec.ofNat 8 die, BitVec.ofNat 8 places.length] ++
    bytesOfNat 4 g.queue ++ bytesOfNat 4 record ++
    [BitVec.ofNat 8 span, BitVec.ofNat 8 g.launch.domain, BitVec.ofNat 8 g.launch.asid, 0#8] ++
    cause h.first ++ bytesOfNat 8 h.first.pc.toNat ++ bytesOfNat 8 h.first.addr.toNat ++
    [BitVec.ofNat 8 h.first.die, h.first.core, h.first.agent, 0#8] ++
    (match h.second with
      | some f => cause f ++ bytesOfNat 8 f.pc.toNat ++ bytesOfNat 8 f.addr.toNat ++
          [f.core, f.agent, f.section_, block f]
      | none => zeroBytes 23 ++ [0xFF#8]) ++
    bytesOfNat 4 h.more ++ bytesOfNat 8 h.first.cycle ++ bytesOfNat 8 ((h.lengths.find die).getD 0) ++ zeroBytes 40

/-- Write the header of a die, unless its region is empty (R396). -/
def State.writeHeader (s : State) (die : Nat) (g : Grid) (h : Halt) : State := s.dumpBytes die 0 (s.dieHeader die g h)

/-- `DUMP_HEADER_WRITE` (R396): the die's records are all written, and its header follows. -/
def execDumpHeaderWrite (die grid : Nat) (s : State) : Out :=
  .next (match s.halts.find grid, s.grids.find grid with
    | some h, some g =>
      let places := (h.offsets.find die).getD []
      if !h.arrived.contains die ∨ h.written.contains die ∨ places.any fun x => !h.recorded.contains x.1 then s
      else
        let s := s.writeHeader die g h
        { s with halts := s.halts.alter grid fun h => { h with written := setAdd h.written die } }
    | _, _ => s)

/-- The pairs of a grid are squashed: their blocks never complete. -/
def State.squashPairs (s : State) (grid : Nat) : State :=
  (List.range Config.dies).foldl (fun s die =>
    (s.die die).pairs.foldl (fun s x =>
      if x.2.grid = grid then (s.updPair die x.1 fun p => { p with st := 2 }).askPair x.2 true else s) s) s

/-- `HALT_COMPLETE` (R347, R400): every die has written its header; each header takes the fields that the coordinator holds now, and
the invocation ends with status 0x04. DEDUCED (log 44): the versions of the grid's redundant pairs are squashed. -/
def execHaltComplete (grid : Nat) (s : State) : Out :=
  .next (match s.halts.find grid, s.grids.find grid with
    | some h, some g =>
      if g.dies.any fun d => !h.written.contains d then s
      else
        let die := queueDie g.queue
        let s := g.dies.foldl (fun s d => s.writeHeader d g h) s
        let f := h.first
        let r : LogRecord :=
          { code := f.code, detail := f.detail, cls := 2#2, fn := BitVec.ofNat 6 (s.queue g.queue).vf, core := f.core, agent := f.agent,
            vid := BitVec.ofNat 8 g.vid, domain := BitVec.ofNat 6 g.launch.domain, addr := f.addr }
        let s := (s.report die r).squashPairs grid
        let s : State := { s with halts := s.halts.del grid, grids := s.grids.del grid, token := setDel s.token grid }
        s.endInvocation g.queue 0x04
    | _, _ => s)

/-! ## Error reports (R406 to R408) -/

/-- A fatal stop (R408): the record is written, ERR_FATAL goes out, and every core stops. -/
def State.fatalStop (s : State) (die : Nat) (r : LogRecord) : State :=
  { ((s.logError die r).toHost .errFatal) with stopped := true }

/-- Mark a sector of a line in a slice of a die: that of the home line or the guest line there (R302). -/
def State.markSlice (s : State) (die pa : Nat) : State :=
  let hit (w : Way) : Bool := decide (w.line = pa / 128) && (decide (w.kind = .home) || decide (w.kind = .guest)) &&
    w.present.getLsbD (pa / 32 % 4)
  let mark (x : Nat × Way) : Nat × Way :=
    if hit x.2 then (x.1, { x.2 with poison := x.2.poison ||| BitVec.ofNat 4 (2 ^ (pa / 32 % 4)) }) else x
  s.updSlice die (sliceOf pa) fun sl => { sl with ways := sl.ways.map mark }

/-- Mark a sector of the copy of a version in a slice of a die, in its way or its spill record (R302). -/
def State.markCopy (s : State) (die pa dom vid : Nat) : State :=
  let bit : BitVec 4 := BitVec.ofNat 4 (2 ^ (pa / 32 % 4))
  let way (x : Nat × Way) : Nat × Way :=
    if x.2.line = pa / 128 ∧ x.2.kind = .copy dom vid then (x.1, { x.2 with poison := x.2.poison ||| bit }) else x
  let record (x : Nat × SpillRecord) : Nat × SpillRecord :=
    if x.2.line = pa / 128 ∧ x.2.domain = dom ∧ x.2.vid = vid then (x.1, { x.2 with poison := x.2.poison ||| bit }) else x
  s.updSlice die (sliceOf pa) fun sl => { sl with ways := sl.ways.map way, spill := sl.spill.map record }

/-- An uncorrectable error in the transfer of a copy or of a drain ends it with code 0x04 (R204, R239). -/
def State.strikeEngine (s : State) (k : Nat) (drain : Bool) (id : Nat) : State :=
  match s.core? k with
  | none => s
  | some c =>
    if drain then
      match c.mx.find? fun m => decide (m.id = id) with
      | some m => match m.st with
        | .draining _ => s.failDrain k m 4
        | _ => s
      | none => s
    else
      match c.copies.find? fun x => decide (x.id = id) with
      | some x => if x.st = .moving then s.failCopy k x 4 else s
      | none => s

/-- A holder mask is lost: every other die is sent an invalidation, and the mask is cleared (R281). -/
def State.loseHolders (s : State) (die pa : Nat) : State :=
  match (s.slice die (sliceOf pa)).homeLine (setOf pa) (pa / 128) with
  | none => s
  | some (key, _) =>
    (s.sendCausal die ((List.range Config.dies).filter fun d => decide (d ≠ die)) (32 + sliceOf pa) (lineIndex pa)
      (.invalidate (pa / 128) [])).updWay die (sliceOf pa) key fun w => { w with holders := 0#12 }

/-- Mark the sector that an uncorrectable data error struck (R270, R281, R298, R302): one that a read of HBM finds becomes the poison codeword at once. -/
def State.strike (s : State) (die k : Nat) (place : ErrorPlace) : State :=
  let on (f : Core → Core) : State := s.updCore k f
  let mark (pa : Nat) (x : L1Line) : L1Line :=
    if x.line = pa / 128 then { x with poison := x.poison ||| BitVec.ofNat 4 (2 ^ (pa / 32 % 4)) } else x
  match place with
  | .other => s
  | .structure_ _ _ => s
  | .slice pa => s.markSlice die pa
  | .copyOf pa dom vid => s.markCopy die pa dom vid
  | .hbm pa => if isHbm pa then { s with poison := setAdd s.poison (pa / 32) } else s
  | .engine core drain id => s.strikeEngine (die * Config.coresPerDie + core % Config.coresPerDie) drain id
  | .holders pa => s.loseHolders die pa
  | .lane w i a => s.updThread k w fun t => { t with lsPoison := setAdd t.lsPoison (65536 * i + a / 32) }
  | .shared a => on fun c => { c with shPoison := setAdd c.shPoison (a / 32) }
  | .tileW a => on fun c => { c with twPoison := setAdd c.twPoison (a / 32) }
  | .tileA a => on fun c => { c with taPoison := setAdd c.taPoison (a / 32) }
  | .tileC a => on fun c => { c with tcPoison := setAdd c.tcPoison (a / 32) }
  | .l1 pa => on fun c => { c with l1 := c.l1.map (mark pa) }

/-- The section of a dump that shows what an error struck (R398): as the error says, else that of its warp or of the access processor. -/
def errorSection (place : ErrorPlace) (agent : W8) : Nat × Nat :=
  match place with
  | .structure_ type item => (type, item)
  | _ => if agent < 0x10#8 then (1, agent.toNat) else (2, 0)

/-- An uncorrectable error in a structure of a stopped block that is still to be read for the dump (R399): a second fault, whose section is written as
incomplete. The spec states no PC for it: it is a free value. -/
def State.readFailure (s : State) (die k : Nat) (agent : W8) (addr : W64) (place : ErrorPlace) : State :=
  match s.core? k with
  | none => s
  | some c =>
    if c.phase ≠ .halted ∨ !s.recordDue k c then s
    else
      let sect := errorSection place agent
      let f : HaltFault :=
        { code := 0x36#8, detail := 0#8, pc := Config.freeWord s.free ++ Config.freeWord (s.free + 1), addr := addr, die := die,
          core := BitVec.ofNat 8 (coreNum k), agent := agent, section_ := BitVec.ofNat 8 sect.1, block := 0xFF#8, cycle := s.now - s.resetAt }
      let s := s.updCore k fun c => c.damage sect
      { s with free := s.free + 2, reports := s.reports ++ [(c.grid, f)] }

/-- `ERROR_REPORT` (R270, R281, R302, R384, R385, R399, R406, R407): a record of CODE 0x53 is written and signalled by its class, and what an uncorrectable data error
struck is marked; a corrected one marks nothing. An error in a holder mask is reported as correctable, once the mask has been repaired. A core-structure error,
CODE 0x36, kills the block of the core it names, which writes its own record (R393), or damages the dump of one that has been halted; an error of class 3
stops the device. No other code is raised, and neither has a DETAIL. -/
def execErrorReport (die : Nat) (record : ErrRecord) (place : ErrorPlace) (s : State) : Out :=
  let holders := match place with | .holders _ => true | _ => false
  let r : LogRecord :=
    { code := record.code, detail := 0#8, cls := if holders && decide (record.cls ≠ 3#2) then 1#2 else record.cls, fn := record.fn, core := record.core,
      agent := record.agent, vid := record.vid, domain := record.domain, addr := record.addr }
  let k := die * Config.coresPerDie + record.core.toNat
  .next (if Config.dies ≤ die ∨ (record.code ≠ 0x36#8 ∧ record.code ≠ 0x53#8) then s
    else if r.cls = 3#2 then s.fatalStop die r
    else if record.code = 0x36#8 ∧ record.core ≠ 0xFF#8 then
      (s.killBlock k 0x36#8 0#8 record.agent.toNat record.addr).readFailure die k record.agent record.addr place
    else (if record.code = 0x53#8 && (decide (r.cls ≠ 1#2) || holders) then s.strike die k place else s).report die r)

end Sys2Proof.Machine
end

