-- ==== Sys2Proof/Machine/Warp.lean ====
section
/-! DEFINITION. Packets and issue: the checks of R104 up to the decoding of a word, chain groups, runs, stalls, arbitration among the warps of
a port, and entering and leaving run-ahead (R30, R31, R82 to R93, R99, R104, R356 to R360, R386). What a word does comes in as
`ex`, the dispatch of the instructions. -/

namespace Sys2Proof.Machine

/-! ## Packets (R82, R83, R99) -/

/-- A slot of a packet: its PC, its word, its guard and its control field (R83). -/
structure SlotWord where
  pc : W64
  word : W32
  guard : BitVec 4
  ctl : BitVec 6
  deriving DecidableEq, Repr

/-- The slot at a PC of the packet that holds it (R83). -/
def slotWordOf (p : BitVec 128) (pc : W64) : SlotWord :=
  let q := placeOf pc
  { pc := pc, word := p.extractLsb' (32 * q) 32, guard := p.extractLsb' (14 + 4 * q) 4, ctl := p.extractLsb' (6 * (q - 1)) 6 }

/-- V of a control field (R86). -/
def SlotWord.v (m : SlotWord) : Nat := (m.ctl.extractLsb' 2 2).toNat

/-- S of a control field (R86). -/
def SlotWord.stallField (m : SlotWord) : Nat := (m.ctl.extractLsb' 4 2).toNat

/-- The run boundary bit (R86). -/
def SlotWord.boundary (m : SlotWord) : Bool := m.ctl.getLsbD 1

/-- The chain bit (R86). -/
def SlotWord.chained (m : SlotWord) : Bool := m.ctl.getLsbD 0

/-- The major opcode (R95). -/
def SlotWord.major (m : SlotWord) : Nat := (m.word.extractLsb' 26 6).toNat

/-- The word is an XIMM. -/
def SlotWord.isXimm (m : SlotWord) : Bool := decide (m.major = 0x3F)

/-- The effective stall of a slot (R86). -/
def SlotWord.stall (m : SlotWord) : Nat := match m.v with | 0 => m.stallField | 1 => 4 * m.stallField | _ => 0

/-- The members of the chain group that begins at a slot of a packet (R92). -/
def chainGroup (p : BitVec 128) (fuel : Nat) (m : SlotWord) : List SlotWord :=
  match fuel with
  | 0 => [m]
  | n + 1 => if m.chained ∧ placeOf m.pc < 3 then m :: chainGroup p n (slotWordOf p (nextPc m.pc)) else [m]

/-- What stands at a PC: the XIMMs, and the chain group that they are bound to; or what keeps it from issuing. -/
inductive IssueUnit where
  | pending
  | fatal (detail : W8) (addr : W64)
  | badLayout
  | ready (xs group : List SlotWord)
  deriving DecidableEq, Repr

/-- Read what issues next at a PC (R82, R84, R99). -/
def State.readUnit (s : State) (k : Nat) (fuel : Nat) (xs : List SlotWord) (pc : W64) : State × IssueUnit :=
  match s.fetch k pc with
  | (s, .pending) => (s, .pending)
  | (s, .fatal d) => (s, .fatal d (packetOf pc))
  | (s, .packet p) =>
    if p.extractLsb' 30 2 ≠ 0#2 then (s, .badLayout)
    else
      let m := slotWordOf p pc
      match fuel with
      | 0 => (s, .ready xs (chainGroup p 2 m))
      | n + 1 => if m.isXimm then s.readUnit k n (xs ++ [m]) (nextPc pc) else (s, .ready xs (chainGroup p 2 m))

/-- The pipe of a major opcode (R102). -/
def majorPipe (major : Nat) : Pipe :=
  if major ≤ 0x02 then .ctl
  else if major ≤ 0x06 then .sca
  else if major ≤ 0x0A then .via
  else if major ≤ 0x0D then .vfp
  else if major = 0x0E then .sfu
  else if major = 0x0F then .vfp
  else if major ≤ 0x11 then .xl
  else if major ≤ 0x1A then .mem
  else if major ≤ 0x1D then .ctl
  else if major ≤ 0x1F then .mxu
  else if major = 0x20 then .ctl
  else if major ≤ 0x24 then .mem
  else if major = 0x30 ∨ major = 0x31 then .via
  else .none

/-! ## The checks before decoding (R104, steps 2 to 4) -/

/-- A chain group's slot with control that a group forbids (R92). The access processor ignores the boundary and hints (R93). -/
def SlotWord.badInGroup (m : SlotWord) (ap : Bool) : Bool :=
  m.chained && ((decide (m.v = 1) && decide (m.stallField ≠ 0)) || (!ap && (decide (m.v = 2) || m.boundary)))

/-- The DETAIL of the first failing check of a control field by itself (R86, R90). -/
def SlotWord.badControl (m : SlotWord) (ap : Bool) : Option W8 :=
  if m.v = 3 then some 0#8 else if !ap ∧ m.v = 2 ∧ m.stallField = 3 then some 1#8 else none

/-- An XIMM has control 0 and guard 0b0111 (R99). -/
def SlotWord.badXimm (m : SlotWord) : Bool := decide (m.ctl ≠ 0#6) || decide (m.guard ≠ 7#4)

/-- Two of the pipes are one. -/
def samePipe (ps : List Pipe) : Bool :=
  match ps with
  | [] => false
  | p :: rest => (decide (p ≠ .none) && rest.contains p) || samePipe rest

/-- The group breaks a rule of R92. -/
def badChain (group : List SlotWord) (ap : Bool) : Bool :=
  (group.any fun m => m.chained && (ap || decide (placeOf m.pc = 3))) ||
  samePipe (group.map fun m => majorPipe m.major) ||
  ((group.take (group.length - 1)).any fun m => decide (majorPipe m.major = .ctl)) ||
  (decide (1 < group.length) && group.any fun m => m.isXimm)

/-- The slots that a unit issues (R91). -/
def unitSlots (xs group : List SlotWord) : Nat := xs.length + group.length

/-- The fault that stands in the place of a unit before its first word is decoded, if any: its code and DETAIL (R104, steps 2 to
4). `count` is how many slots the run has issued. -/
def unitFault (xs group : List SlotWord) (ap : Bool) (count : Nat) : Option (W8 × W8) :=
  let first := match group with | m :: _ => m.badControl ap | [] => none
  if !ap ∧ count + unitSlots xs group > Config.runLimit then some (5#8, 0#8)
  else match first with
    | some d => some (2#8, d)
    | none =>
      if group.any fun m => m.badInGroup ap then some (2#8, 2#8)
      else if xs.any fun m => m.badXimm then some (2#8, 3#8)
      else if badChain group ap then some (3#8, 0#8)
      else none

/-! ## Waits that issue again -/

/-- A wait whose instruction is issued again when it can complete. -/
def Wait.again (w : Wait) : Bool :=
  match w with
  | .pop _ | .receive _ | .send _ | .rgive | .structural => true
  | _ => false

/-- A send need not wait any more: there is room, or the target takes no message (R47, R223). -/
def State.sendMay (s : State) (k : Nat) (c : Core) (q : Nat) : Bool :=
  match c.binding q s.now with
  | none => true
  | some b =>
    match s.coreOfBlock k c b.gang b.block with
    | none => !s.unplaced (dieOfCore k) c b.gang
    | some t => match s.core? t with
      | none => true
      | some x =>
        let r := x.recv b.queue
        decide (x.phase = .killed) || decide (x.phase = .completed) || decide (x.phase = .halted) ||
          decide (r.messages.length + r.promised < Config.mqDepth)

/-- A slot could issue: it is live, or its instruction waits and would not wait again (R45, R47, R55). -/
def State.slotOpen (s : State) (k a : Nat) (c : Core) (w : SlotId) : Bool :=
  let t := c.thread a
  match (t.slot w).st with
  | .empty => false
  | .live => true
  | .waiting x =>
    match x with
    | .structural => true
    | .pop q => ((c.aqueue q).entries.isEmpty && (c.aqueue q).closed) || (decide (c.popsBefore q a w = []) && c.popReady q)
    | .receive q => !(c.recv q).messages.isEmpty
    | .send q => s.sendMay k c q
    | .rgive => decide (t.counter .gl = 0) && decide (t.counter .lo = 0)
    | _ => false

/-- The slot waits at a fence, which holds the issue of both slots (R213). -/
def Slot.fenced (sl : Slot) : Bool := match sl.st with | .waiting (.fence _ _ _) => true | _ => false

/-- A slot of a thread may issue now, but for its stall: no wait, no hold by a handler, run-ahead, a fence or a full fragment
table (R132, R213, R356, R359, R389). -/
def State.mayIssue (s : State) (k a : Nat) (c : Core) (w : SlotId) : Bool :=
  let t := c.thread a
  c.acts && !t.ended && !t.parked && !t.slotA.fenced && !t.slotB.fenced &&
    (match t.handler with | some h => decide (h = w) | none => true) &&
    (match t.ahead with | some h => decide (h.slot = w) | none => true) && s.slotOpen k a c w

/-- A warp has a slot that may issue. -/
def State.warpReady (s : State) (k a : Nat) (c : Core) : Bool := s.mayIssue k a c .a || s.mayIssue k a c .b

/-! ## Issuing a unit -/

/-- The lanes of a slot that pass a guard, as the issue reads it (R94). -/
def State.guardLanes (s : State) (k a : Nat) (w : SlotId) (guard : BitVec 4) : State × W32 :=
  let t := s.thread k a
  let refs := if guard.extractLsb' 0 3 = 7#3 then [] else [RegRef.p (guard.extractLsb' 0 3).toNat]
  let (view, free) := t.readView refs s.now s.free
  ({ s with free := free }, guardPass view (t.slot w).mask guard)

/-- Raise a fault in the place of a slot, with its guard's lanes (R68). -/
def State.slotFault (s : State) (k a : Nat) (w : SlotId) (code detail : W8) (pc : W64) (guard : BitVec 4) : State :=
  let (s, m) := s.guardLanes k a w guard
  s.takeTrap k a w { code := code, detail := detail, resume := false, pc := pc, mask := m }

/-- The state a step answers; nothing of a packet word answers anything else while an agent issues it. -/
def Out.orSame (o : Out) (s : State) : State := match o with | .next t => t | _ => s

/-- The test of a loop would find the warp split (R122). -/
def Core.loopSplit (c : Core) (a : Nat) (pc : W64) : Bool :=
  match (c.thread a).loops with
  | l :: _ => decide (a < 16) && decide (placeOf pc = 3) && decide (packetOf pc = l.last) && !c.converged a
  | [] => false

/-- Issue one slot with the XIMMs before it (R86, R90, R96, R99, R104, R122). DEDUCED, log 155: R104 gives the loop-split fault of R122 no place in its
order; it comes after the other faults of the packet and before decoding. -/
def State.issueMember (s : State) (ex : Instr → State → Out) (k a : Nat) (w : SlotId) (xs : List SlotWord) (m : SlotWord) : State :=
  let pc := match xs with | x :: _ => x.pc | [] => m.pc
  let split := (s.core? k).any fun c => c.loopSplit a m.pc
  match m.badControl (decide (a ≥ 16)) with
  | some d => s.slotFault k a w 2#8 d pc m.guard
  | none =>
    if split then s.slotFault k a w 2#8 4#8 pc m.guard
    else
      match decodeRaw (xs.map fun x => x.word.extractLsb' 0 26) m.word with
      | none => s.slotFault k a w 4#8 0#8 pc m.guard
      | some (i, _) =>
        if m.isXimm then s.slotFault k a w 4#8 3#8 pc m.guard
        else
          let iss : Issue :=
            { core := k, agent := a, slot := w, pc := pc, tpc := pc, xs := [], guard := m.guard,
              unused := m.word ^^^ (encode i).getD m.word }
          let s := xs.foldl (fun s x => Out.orSame (ex (.ximm (x.word.extractLsb' 0 26)) s) s) { s with cur := some iss }
          let s := { s with cur := s.cur.map fun c => { c with tpc := m.pc } }
          let s := Out.orSame (ex i s) s
          { s with cur := none }

/-- A trap, a kill or the end of run-ahead has come in the place of a slot. -/
def interrupted (before after : State) (k a : Nat) : Bool :=
  let t := before.thread k a
  let u := after.thread k a
  decide ((before.core? k).map (fun c => c.phase) ≠ (after.core? k).map fun c => c.phase) ||
    (t.handler.isNone && u.handler.isSome) || (t.handler.isNone && !t.parked && u.parked) ||
    (t.ahead.isSome && u.ahead.isNone)

/-- What interrupted a slot is the trap of an instruction that passed every check of R104, and so has issued: its code is none of those
checks' (R104, R385). -/
def trapIssued (before after : State) (k a : Nat) : Bool :=
  let t := before.thread k a
  let u := after.thread k a
  if t.handler.isNone && u.handler.isSome then decide (8 ≤ (u.trapCause.setWidth 8 : W8).toNat)
  else if !t.parked && u.parked then true
  else if (after.core? k).any fun c => c.phase = .killed then
    match (after.die (dieOfCore k)).errlog.getLast? with
    | some r => decide (0x33#8 ≤ r.code ∧ r.code ≤ 0x35#8 ∧ 8 ≤ r.detail.toNat)
    | none => false
  else false

/-- What issuing a group has come to: the state, the members that have issued, and that a wait keeps the whole group from issuing. -/
structure GroupResult where
  state : State
  issued : List SlotWord
  held : Bool

/-- The hint that a slot gives, if it gives one (R90). -/
def SlotWord.hint (m : SlotWord) : Option Hint :=
  if m.v ≠ 2 then none
  else match m.stallField with | 1 => some .yield | 2 => some .raise | _ => some .neutral

/-- The hint that a slot's control gives counts once the slot issues, before what its instruction says (R90, R118). -/
def State.giveHint (s : State) (k a : Nat) (m : SlotWord) : State :=
  if a ≥ 16 then s else match m.hint with
    | some h => s.updThread k a fun t => { t with hint := h }
    | none => s

/-- Put back the hint of a warp whose slot has not issued. -/
def State.takeHint (s : State) (k a : Nat) (h : Hint) : State := s.updThread k a fun t => { t with hint := h }

/-- A slot waits for what lets its instruction issue again. -/
def State.waitsAgain (s : State) (k a : Nat) (w : SlotId) : Bool :=
  match ((s.thread k a).slot w).st with | .waiting x => x.again | _ => false

/-- Issue the slots of a group one after another, in one cycle (R92). `start` is the state in which the group began. DEDUCED, log 93: a member
that would wait by itself in that state keeps the whole group from issuing; one that waits only for an earlier member of its group waits by
itself, and the earlier members have issued; a member whose wait is part of its effect lets the others issue in its cycle where they simply
advance, and otherwise they issue once it is over. -/
def State.issueGroup (s : State) (ex : Instr → State → Out) (k a : Nat) (w : SlotId) (start : State) (xs : List SlotWord)
    (done : List SlotWord) (group : List SlotWord) : GroupResult :=
  match group with
  | [] => { state := s, issued := done, held := false }
  | m :: rest =>
    let old := (s.thread k a).hint
    let s1 := (s.giveHint k a m).issueMember ex k a w xs m
    if interrupted s s1 k a then
      if trapIssued s s1 k a then { state := s1, issued := done ++ [m], held := false }
      else { state := s1.takeHint k a old, issued := done, held := false }
    else if s1.waitsAgain k a w then
      let alone := start.issueMember ex k a w [] m
      if done = [] then { state := s1.takeHint k a old, issued := [], held := true }
      else if !interrupted start alone k a && alone.waitsAgain k a w then { state := alone, issued := [], held := true }
      else { state := s1.takeHint k a old, issued := done, held := false }
    else
      let sl := (s1.thread k a).slot w
      match sl.st, rest with
      | _, [] => { state := s1, issued := done ++ [m], held := false }
      | .waiting x, n :: _ =>
        let s2 := s1.updSlot k a w fun sl => { sl with st := .live, pc := n.pc }
        let r := s2.issueGroup ex k a w start [] (done ++ [m]) rest
        let t := r.state.thread k a
        let last := (rest.getLast?.getD m).pc
        if !r.held ∧ r.issued.length = done.length + group.length ∧ !interrupted s2 r.state k a ∧ (t.slot w).st = .live ∧
            (t.slot w).pc = nextPc last ∧ t.loops = (s2.thread k a).loops then
          { r with state := r.state.updSlot k a w fun sl => { sl with st := .waiting x, pc := last } }
        else { state := s1, issued := done ++ [m], held := false }
      | .live, n :: _ =>
        if sl.pc = n.pc then s1.issueGroup ex k a w start [] (done ++ [m]) rest
        else { state := s1, issued := done ++ [m], held := false }
      | .empty, _ :: _ => { state := s1, issued := done ++ [m], held := false }

/-- The forms of the group occupy the float pipe for four cycles (R17). -/
def slowGroup (ap : Bool) (xs group : List SlotWord) : Bool :=
  let ims := xs.map fun x => x.word.extractLsb' 0 26
  group.any fun m => match decodeRaw ims m.word with | some (i, _) => (form ap ims i).slow | none => false

/-- The port of a warp. -/
def Core.portOf (c : Core) (a : Nat) : Port := nth c.ports (a % 4) Port.idle

/-- Change the port of a warp. -/
def State.updPort (s : State) (k p : Nat) (f : Port → Port) : State := s.updCore k fun c => { c with ports := alterPad Port.idle c.ports p f }

/-- Count what has issued in cycle `t`, where `ahead` says in run-ahead: stall, boundary, run, watchdog and counters (R87, R90, R91, R358, R360, R379). -/
def State.afterIssue (s : State) (k a : Nat) (w : SlotId) (t : Nat) (slow ahead : Bool) (n : Nat) (issued : List SlotWord) : State :=
  if issued.isEmpty then s
  else
    let ap := decide (a ≥ 16)
    let stall := issued.foldl (fun x m => max x m.stall) 0
    let s := s.updCore k fun c => { c with firstIssue := if c.firstIssue.isSome then c.firstIssue else some t }
    let s := s.updThread k a fun th =>
      { th with
        nextAt := max th.nextAt (t + 1 + stall)
        ahead := th.ahead.map fun h => { h with issued := h.issued + n } }
    let s := s.countCore k fun x =>
      if ap then { x with apIssued := (x.apIssued + 1) % 2 ^ 48 }
      else { x with issued := (x.issued + n) % 2 ^ 48, raInstr := if ahead then (x.raInstr + n) % 2 ^ 48 else x.raInstr }
    if ap then s
    else
      let s := s.updPort k (a % 4) fun p =>
        { p with
          count := if p.run = some (a, w) then p.count + n else p.count
          pipeAt := if slow then t + 4 else p.pipeAt }
      let s := if issued.any fun m => m.boundary then s.endRun k a else s
      if ((s.thread k a).ahead.any fun h => decide (Config.aheadLimit ≤ h.issued)) then s.exitAhead k a else s

/-- The cycle in which a unit can issue (R17, R87). -/
def Core.issueTime (c : Core) (now a : Nat) (group : List SlotWord) : Nat :=
  let t := max now (c.thread a).nextAt
  if a ≥ 16 then t
  else
    let p := c.portOf a
    let t := max t p.nextAt
    if group.any fun m => decide (majorPipe m.major = .vfp) then max t p.pipeAt else t

/-- The watchdog comes to the budget before a cycle: the cycle in which it does (R358). -/
def Core.budgetEnds (c : Core) (t : Nat) : Option Nat :=
  match c.firstIssue with
  | some f => if f + c.launch.budget ≤ t then some (f + c.launch.budget) else none
  | none => none

/-- The cycle from which the access processor may issue a unit that reads registers (R93, R220). -/
def Core.apTime (c : Core) (t a : Nat) (xs group : List SlotWord) : Nat :=
  match decide (a ≥ 16), group with
  | true, m :: _ =>
    match decodeRaw (xs.map fun x => x.word.extractLsb' 0 26) m.word with
    | some (i, _) => (c.thread a).readyFor ((form true (xs.map fun x => x.word.extractLsb' 0 26) i).readRefs m.guard) t
    | none => t
  | _, _ => t

/-- A port, or the access processor, has issued in cycle `t`: so have the ports that come before it in that cycle, if they issue in it at all (R46, R56,
R223, R250, R253). -/
def Core.passPorts (c : Core) (a t : Nat) : Core :=
  { c with ports := ((List.range c.ports.length).zip c.ports).map fun x =>
      if a ≥ 16 ∨ x.1 ≤ a % 4 then { x.2 with nextAt := max x.2.nextAt (t + 1) } else x.2 }

/-- Nothing has issued: the ports may issue as before. -/
def Core.unpassPorts (c old : Core) : Core :=
  { c with ports := ((List.range c.ports.length).zip c.ports).map fun x => { x.2 with nextAt := (nth old.ports x.1 Port.idle).nextAt } }

/-- Issue a unit that has been read (R87, R91, R92, R104). -/
def State.issueReady (s : State) (ex : Instr → State → Out) (k a : Nat) (w : SlotId) (xs group : List SlotWord) : State :=
  match s.core? k with
  | none => s
  | some c =>
    let t := c.apTime (c.issueTime s.now a group) a xs group
    match c.budgetEnds t with
    | some e => Out.orSame (execBudgetExceeded k { s with now := max s.now e }) s
    | none =>
      let s := ((({ s with now := t } : State).endCycles k).joinsPassed k).updCore k fun c => c.passPorts a t
      let s := s.updSlot k a w fun sl => { sl with st := .live }
      let count := if a ≥ 16 then 0 else (c.portOf a).count
      let first := match xs ++ group with | m :: _ => m.pc | [] => 0#64
      let guard := match group with | m :: _ => m.guard | [] => 7#4
      match unitFault xs group (decide (a ≥ 16)) count with
      | some (code, detail) => s.slotFault k a w code detail first guard
      | none =>
        let r := s.issueGroup ex k a w s xs [] group
        if r.held then r.state.updCore k fun x => x.unpassPorts c
        else r.state.afterIssue k a w t (slowGroup (decide (a ≥ 16)) xs group) (c.thread a).ahead.isSome (xs.length + r.issued.length) r.issued

/-- A fetch at a fatal address: the grid's halt is on its way, and the slot issues no more; a fetch reports no PC (R310, R394, R396). -/
def State.fetchFatal (s : State) (k a : Nat) (w : SlotId) (detail : W8) (addr : W64) : State :=
  let t := s.thread k a
  if t.ahead.isSome then s.exitAhead k a
  else if (s.core? k).any fun c => c.squashed then s.discardFault k a
  else (s.reportFatal k a detail 0#64 addr 0#8).wait k a w .halted

/-- A slot stands at slot 1 of its reconvergence address (R126). -/
def Slot.atReconvergence (sl : Slot) : Bool :=
  sl.ra.any fun l => decide (sl.pc = slot1 l) && decide (sl.st = .live)

/-- Issue from a slot (R74, R104, R126, R201, R358): a due kill comes first, then arrival at a reconvergence address, where nothing issues, then a held
trap or event, then the instruction at the slot's PC. DESIGN CHOICE, log 155: R126 gives an arrival no cycle; it takes place in the slot's next issue, or
by `RECONVERGENCE_ARRIVAL` at any time before, and until then the slot is not empty. -/
def State.issueSlot (s : State) (ex : Instr → State → Out) (k a : Nat) (w : SlotId) : State :=
  match s.core? k with
  | none => s
  | some c =>
    let t := c.thread a
    let at_ := c.issueTime s.now a []
    match c.budgetEnds at_ with
    | some e => Out.orSame (execBudgetExceeded k { s with now := max s.now e }) s
    | none =>
      let sl := t.slot w
      let arrives := s.arrives k a w
      if arrives ∧ t.ahead.isSome then s.exitAhead k a
      else
        let s := if sl.atReconvergence then s.arriveAt k a w else s
        if arrives then s
        else if t.ahead.isNone ∧ t.deferred ≠ [] then ({ s with now := at_ } : State).heldTrap k a w
        else if t.ahead.isNone ∧ t.handler.isNone ∧ t.linkEvents ≠ [] then ({ s with now := at_ } : State).linkTrap k a w
        else
            match s.readUnit k 3 [] sl.pc with
            | (s, .pending) => s
            | (s, .fatal d addr) => s.fetchFatal k a w d addr
            | (s, .badLayout) =>
              s.takeTrap k a w { code := 1#8, detail := 0#8, resume := false, pc := sl.pc, mask := sl.mask }
            | (s, .ready xs group) => s.issueReady ex k a w xs group

/-! ## Arbitration (R30, R356, R357) -/

/-- The rank of a ready warp: raise, neutral, yield, run-ahead (R357). -/
def Core.rankOf (c : Core) (ready : List Nat) (a : Nat) : Nat :=
  let t := c.thread a
  let starved := ready.any fun x => decide (x ≠ a) && decide (4 ≤ (c.thread x).passed)
  if t.ahead.isSome then 3
  else match t.hint with
    | .raise => if starved then 1 else 0
    | .neutral => 1
    | .yield => 2

/-- The cycle in which a warp last became ready: no wait holds it and its stall has elapsed (R356). -/
def Thread.readySince (t : Thread) : Nat := max t.readyAt t.nextAt

/-- One warp comes before another (R357). -/
def Core.before (c : Core) (ready : List Nat) (a b : Nat) : Bool :=
  let ra := c.rankOf ready a
  let rb := c.rankOf ready b
  let ta := (c.thread a).readySince
  let tb := (c.thread b).readySince
  decide (ra < rb) || (decide (ra = rb) && (decide (ta < tb) || (decide (ta = tb) && decide (a < b))))

/-- The warps of a port. -/
def portWarps (p : Nat) : List Nat := [p, p + 4, p + 8, p + 12]

/-- The warps of a port that could issue, but for their stalls. -/
def State.portReady (s : State) (k p : Nat) (c : Core) : List Nat := (portWarps p).filter fun a => s.warpReady k a c

/-- The winner of an arbitration (R357). -/
def Core.winner (c : Core) (ready : List Nat) : Option Nat :=
  ready.foldl (fun w a => match w with
    | none => some a
    | some b => if c.before ready a b then some a else some b) none

/-- The slot that a warp offers (R356). -/
def State.offered (s : State) (k a : Nat) (c : Core) : SlotId :=
  let t := c.thread a
  if s.mayIssue k a c .a && s.mayIssue k a c .b then otherSlot t.lastSlot
  else if s.mayIssue k a c .a then .a else .b

/-- The next arbitration of a port with no run (R356, R357): its cycle, the warps ready in it, and the winner with the slot that it offers. -/
def State.nextRun (s : State) (k p : Nat) (c : Core) : Option (Nat × List Nat × Nat × SlotId) :=
  if c.phase ≠ .running ∨ 4 ≤ p ∨ (c.portOf p).run.isSome then none
  else
    let able := s.portReady k p c
    let due := able.foldl (fun m a => match m with
      | none => some (c.thread a).nextAt
      | some n => some (min n (c.thread a).nextAt)) none
    due.bind fun n =>
      let now := max s.now n
      let ready := able.filter fun a => decide ((c.thread a).nextAt ≤ now)
      (c.winner ready).map fun a => (now, ready, a, s.offered k a c)

/-- The waits at `JOINW` of a block that are over before a port can arbitrate have ended (R129, R130). -/
def State.joinsBefore (s : State) (k p fuel : Nat) : State :=
  match fuel, (s.core? k).bind fun c => c.joinDue.bind fun d => (s.nextRun k p c).map fun r => (d, r.1) with
  | n + 1, some (d, t) => if d ≤ t then (({ s with now := max s.now d } : State).joinsPassed k).joinsBefore k p n else s
  | _, _ => s

/-- `PORT_ARBITRATION` (R30, R356, R357): at a cycle in which a warp is ready, the winner begins a run. -/
def execPortArbitration (core port : Nat) (s : State) : Out :=
  let s := s.joinsBefore core port 32
  .next (match (s.core? core).bind fun c => s.nextRun core port c with
    | none => s
    | some (now, ready, a, w) =>
      let s := { s with now := now }
      let s := (portWarps port).foldl (fun s x => s.updThread core x fun t =>
        { t with
          hint := .neutral
          passed := if x = a ∨ !ready.contains x then 0 else t.passed + 1 }) s
      let s := s.updThread core a fun t => { t with lastSlot := w }
      s.updPort core port fun p => { p with run := some (a, w), count := 0 })

/-- The slot of an agent that makes the next issue of its port, with the cycle of that issue; none while another agent's run is under way or comes
first. -/
def State.nextIssuer (s : State) (k a : Nat) : Option (SlotId × Nat) :=
  (s.core? k).bind fun c =>
    let may (w : SlotId) : Option (SlotId × Nat) := if s.mayIssue k a c w then some (w, c.issueTime s.now a []) else none
    if a ≥ 16 then (if a = apAgent then may .a else none)
    else match (c.portOf a).run with
      | some (x, w) => if x = a then may w else none
      | none => match s.nextRun k (a % 4) c with
        | some (_, _, x, w) => if x = a then may w else none
        | none => none

/-- Take what is held for a warp in the slot that makes its next issue, where that slot would issue and is not at its reconvergence address (R68, R74,
R126). -/
def State.takeHeld (s : State) (k a : Nat) (f : State → SlotId → State) : State :=
  match s.nextIssuer k a with
  | none => s
  | some (w, t) => if ((s.thread k a).slot w).atReconvergence then s else f { s with now := t } w

/-- `WARP_TRAP_ENTRY` (R132, R201): a trap that is held for the warp is taken at its next issue. -/
def execWarpTrapEntry (core agent : Nat) (s : State) : Out :=
  let t := s.thread core agent
  .next (if t.ahead.isSome ∨ t.deferred = [] then s else s.takeHeld core agent fun s w => s.heldTrap core agent w)

/-- `LINKWATCH_TRAP` (R70, R74): a held link-degradation event is taken at the warp's next issue, outside a handler. -/
def execLinkwatchTrap (core warp : Nat) (s : State) : Out :=
  let t := s.thread core warp
  .next (if t.handler.isSome ∨ t.ahead.isSome ∨ t.linkEvents = [] then s else s.takeHeld core warp fun s w => s.linkTrap core warp w)

/-- The unit of a slot issues at its port (R356): an arbitration, where no run is under way, then the slot of the run. -/
def State.issuePort (s : State) (ex : Instr → State → Out) (k p : Nat) : State :=
  let idle := (s.core? k).any fun c => (c.portOf p).run.isNone
  let s := if idle then Out.orSame (execPortArbitration k p s) s else s
  match s.core? k with
  | none => s
  | some c =>
    match (c.portOf p).run with
    | none => s
    | some (a, w) => if s.mayIssue k a c w then s.issueSlot ex k a w else s

/-- The access processor issues; after a squash it goes on while runs do (R220, R293). -/
def State.issueAp (s : State) (ex : Instr → State → Out) (k : Nat) : State :=
  match s.core? k with
  | none => s
  | some c => if s.mayIssue k apAgent c .a && !c.stopped then s.issueSlot ex k apAgent .a else s

/-! ## Run-ahead (R359, R360) -/

/-- The word is a load of global memory (R98, R359). -/
def isGlobalLoad (xs : List Ximm) (i : Instr) : Bool :=
  match i with
  | .ld _ _ _ => true
  | .ldc _ _ _ => true
  | .ldIndexed _ _ _ _ _ _ => decide (indexSpace xs = 0#3)
  | .lds _ _ _ => decide (attrSpace (attrOf (defaultAttr 0x16) xs) = 0#3)
  | _ => false

/-- The wait of a slot that run-ahead may begin from: the value that the `.gl` counter must come down to, and what the slot's
own instruction will write (R359). -/
def State.aheadWait (s : State) (k a : Nat) (w : SlotId) : State × Option (Nat × List RegRef × W64) :=
  let sl := (s.thread k a).slot w
  match s.readUnit k 3 [] sl.pc with
  | (s, .ready xs (m :: _)) =>
    let ims := xs.map fun x => x.word.extractLsb' 0 26
    match sl.st, decodeRaw ims m.word with
    | .waiting (.counter .gl n), some _ => (s, some (n, [], m.pc))
    | .waiting .structural, some (i, _) =>
      if isGlobalLoad ims i ∧ Config.counterLimit ≤ (s.thread k a).counter .gl then
        (s, some (Config.counterLimit - 1, (form false ims i).writeRefs, m.pc))
      else (s, none)
    | _, _ => (s, none)
  | (s, _) => (s, none)

/-- The accesses whose completion would bring a counter down to `n`, in their order (R214). -/
def Thread.holding (t : Thread) (path : Path) (n : Nat) : List Access :=
  let xs := (t.inflight.filter fun a => decide (a.path = path)).dropWhile fun a => a.done
  xs.take (xs.length - n)

/-- An outstanding load or returning atomic that a slice has reported as a miss (R359). -/
def Access.missing (x : Access) : Bool :=
  !x.done && x.kind.returns && x.reqs.any fun r => r.missed && decide (r.st ≠ .answered)

/-- Begin run-ahead from a slot (R52, R359). -/
def State.enterAhead (s : State) (k a : Nat) (w : SlotId) : State :=
  match s.core? k with
  | none => s
  | some c =>
    let t := c.thread a
    if c.phase ≠ .running ∨ !c.launch.ahead ∨ t.inhibit ∨ t.ahead.isSome ∨ t.aheadDone.contains w ∨ t.handler.any (fun h => h != w) then s
    else
      match s.aheadWait k a w with
      | (_, none) => s
      | (s, some (n, mine, tpc)) =>
        if !((s.thread k a).holding .gl n).any fun x => x.missing then s
        else
          let s := (s.updThread k a fun t =>
            let unknown := mine ++ (t.inflight.filter fun x => !x.done).flatMap fun x => x.dests.map fun d => d.1
            let h : Ahead :=
              { slot := w, saved := t.slot w, v := t.v, s := t.s, p := t.p, loops := t.loops, fpstat := t.fpstat, gen := t.gen,
                recent := t.recent, unknown := unknown, buffer := [], issued := 0 }
            let (pc, loops) := t.loopNext tpc
            { t.updSlot w fun sl => { sl with st := .live, pc := pc } with ahead := some h, loops := loops }).endRun k a
          s.countCore k fun x => { x with raEnter := (x.raEnter + 1) % 2 ^ 32 }

/-- `RUNAHEAD_ENTER` (R359): the first slot of the warp that may. -/
def execRunaheadEnter (core warp : Nat) (s : State) : Out :=
  .next (if 16 ≤ warp then s
    else
      let s := s.enterAhead core warp .a
      if (s.thread core warp).ahead.isSome then s else s.enterAhead core warp .b)

/-- `RUNAHEAD_EXIT` (R52, R360): the 64th slot has issued, or the wait's condition is met. -/
def execRunaheadExit (core warp : Nat) (s : State) : Out :=
  .next (match (s.thread core warp).ahead with
    | none => s
    | some h => if Config.aheadLimit ≤ h.issued then s.exitAhead core warp else s.releaseCounters core warp)

/-- `AP_ACCESS_RESUME` (R386): the page that the access processor waits for is present, and its access is performed. -/
def execApAccessResume (core : Nat) (s : State) : Out :=
  .next (match s.core? core with
    | none => s
    | some c =>
      match c.acts, (c.thread apAgent).slotA.st with
      | true, .waiting (.page asid page) =>
        match s.walk (dieOfCore core) asid (BitVec.ofNat 64 (page * 2 ^ 16)) .read with
        | (s, .absent _) => s
        | (s, .pending) => s
        | (s, _) => s.updSlot core apAgent .a fun sl => { sl with st := .live }
      | _, _ => s)

end Sys2Proof.Machine
end

