-- ==== Sys2Proof/Machine/Network.lean ====
section
/-! DEFINITION. The network and the felts: flits hop by hop on a die and over the bundles, delivery by the bridges, messages that
arrive, CRC errors and replay, retraining and drains (R47, R377, R380, R410 to R422). -/

namespace Sys2Proof.Machine

/-! ## Leaves, switches and routes (R410, R411, R415) -/

/-- The edge switch that serves a leaf (R411). -/
def leafEdge (l : Nat) : Nat := if l < 32 then l / 2 else if l < 96 then (l - 32) / 4 else 2 * (l - 96)

/-- The pod of an edge switch. -/
def edgePod (e : Nat) : Nat := e / 8

/-- The bundles that a route still crosses from a die (R415). -/
def Flit.left (f : Flit) (d : Nat) : Nat := routeLength d f.dDie

/-- A flit is sent on a module by its line (R420): a command or data; messages, notices and acknowledgements use the first. -/
def Flit.byLine (f : Flit) : Bool := decide (f.form ≤ 1)

/-- The bundle by which a route leaves a die, the die at its other end, and the direction on it: 0 towards the higher die (R10,
R415). -/
def Flit.wayOut (f : Flit) (d : Nat) : Nat × Nat × Nat :=
  if d % 6 < f.dDie % 6 then ((if d < 6 then d else d - 1), d + 1, 0)
  else if f.dDie % 6 < d % 6 then ((if d < 6 then d - 1 else d - 2), d - 1, 1)
  else if d < 6 then (10 + d, d + 6, 0) else (4 + d, d - 6, 1)

/-- The bundle of a number. -/
def State.bundle (s : State) (b : Nat) : Bundle := nth s.felts b Bundle.reset

/-- The module that a bundle sends a flit on (R420). -/
def Bundle.moduleOf (x : Bundle) (f : Flit) : Option Nat :=
  let k := x.inService.length
  if k = 0 then none
  else if f.byLine then x.inService[(f.key % 256 ^^^ f.key / 256 % 256 ^^^ f.key / 65536 % 256) % k]?
  else x.inService[0]?

/-- The leaf of a die that a flit makes for: its destination, or the bridge it leaves by (R410, R415). -/
def State.leafFor (s : State) (f : Flit) (d : Nat) : Nat :=
  if f.dDie = d then f.dLeaf
  else
    let (b, _, _) := f.wayOut d
    if b < 10 then (if d % 6 < f.dDie % 6 then 97 else 96)
    else if (((s.bundle b).moduleOf f).getD 0) < 4 then 98 else 99

/-- The bridge leaf at which a flit from a bundle's module enters a die. -/
def entryLeaf (b m d from_ : Nat) : Nat := if b < 10 then (if from_ < d then 96 else 97) else if m < 4 then 98 else 99

/-! ## Order (R414) -/

/-- Two flits have one ordering key (R414): the destination leaf with the line index or the receive register, or of a notice or an acknowledgement the
destination die. -/
def Flit.sameKey (f g : Flit) : Bool :=
  decide (f.dDie = g.dDie) && decide (f.key = g.key) && decide (f.byLine = g.byLine) && (decide (f.dLeaf = g.dLeaf) || decide (3 ≤ f.form))

/-- Two flits have one key, one channel and one source, and so keep their order (R413, R414). -/
def Flit.sameStream (f g : Flit) : Bool :=
  f.sameKey g && decide (f.sDie = g.sDie) && decide (f.sLeaf = g.sLeaf) && decide (f.cls = g.cls) && decide (f.resp = g.resp)

/-- The die a place is on, and twice what is left of the route there, one more on the way to that die. -/
def Flit.progress (f : Flit) : Nat × Nat :=
  match f.at_ with
  | .leaf d _ | .edgeUp d _ | .edgeDown d _ | .midUp d _ | .midDown d _ | .top d _ => (d, 2 * f.left d)
  | .felt _ _ d _ => (d, 2 * f.left d + 1)

/-- No earlier flit of the key is behind: each has come to the leaf, or further. -/
def State.inTurn (s : State) (idx : Nat) (f : Flit) (d leaf : Nat) : Bool :=
  (s.flits.take idx).all fun g =>
    !g.sameStream f ||
      (let p := g.progress
       decide (p.2 < 2 * f.left d) || (decide (p.2 = 2 * f.left d) && decide (g.at_ = .leaf d leaf)))

/-- The upward port at a switch (R414): that of an earlier flit of the key that is still climbing from it, else the one with the most free credits in the
flit's channel, the lowest on a tie. DEDUCED, log 158: the ports' buffers are alike, so most credits are free where the fewest flits of the channel stand.
`climbing` tells the port that a flit at a place has taken. -/
def State.upPort (s : State) (f : Flit) (climbing : Place → Option Nat) : Nat :=
  match s.flits.findSome? fun g => if g.sameKey f then climbing g.at_ else none with
  | some k => k
  | none =>
    let held (k : Nat) : Nat := (s.flits.filter fun g => decide (g.cls = f.cls) && decide (g.resp = f.resp) && decide (climbing g.at_ = some k)).length
    (List.range 8).foldl (fun b k => if held k < held b then k else b) 0

/-- Move a flit. -/
def State.moveFlit (s : State) (idx : Nat) (p : Place) : State := { s with flits := alterAt s.flits idx fun f => { f with at_ := p } }

/-- The bytes that a flit takes on a module (R412, R417): its header and its payload, with those of the data flit that follows a write, and the stamp of a
causal message. -/
def Flit.bytes (f : Flit) : Nat :=
  match f.body with
  | .msg m => (match m.body with | .write _ => 272 | _ => 136) + (if m.body.causal then 48 else 0)
  | .message _ _ _ _ _ => 136

/-- The place behind a flit among the bytes of its module's direction. -/
def Flit.feltEnd (f : Flit) (b m d : Nat) : Option Nat :=
  match f.at_ with
  | .felt b' m' d' o => if b' = b ∧ m' = m ∧ d' = d then some (o + f.bytes) else none
  | _ => none

/-- The bytes of network flits that a direction of a module carries have been handed to it up to here; what has been received whole stands below (R417). -/
def State.feltSent (s : State) (b m d taken : Nat) : Nat := s.flits.foldl (fun n f => max n ((f.feltEnd b m d).getD 0)) (240 * taken)

/-- Send a flit onto its module, unless the bundle drains or the module retrains (R420, R421). -/
def State.enterFelt (s : State) (idx : Nat) (f : Flit) (d : Nat) : State :=
  let (b, next, dir) := f.wayOut d
  let x := s.bundle b
  match x.moduleOf f with
  | none => s
  | some m =>
    let y := nth x.modules m FeltModule.reset
    if x.draining ∨ y.retraining.isSome then s
    else s.moveFlit idx (.felt b m next (s.feltSent b m next (nth y.taken dir 0)))

/-- A flit that a bridge of its destination die holds (R416, R417). -/
def Flit.atBridge (f : Flit) : Bool :=
  match f.body, f.at_ with
  | .msg m, .leaf d l => decide (d = m.dst) && decide (96 ≤ l) && decide (l < 100)
  | _, _ => false

/-- A flit leaves a leaf (R411, R415). -/
def State.hopLeaf (s : State) (idx : Nat) (f : Flit) (d l : Nat) : State :=
  if f.atBridge then s
  else
    let t := s.leafFor f d
    if l ≠ t then s.moveFlit idx (.edgeUp d (leafEdge l))
    else if f.dDie = d then s
    else if s.inTurn idx f d l then s.enterFelt idx f d else s

/-- A flit comes to the leaf it makes for, in the order of its key. -/
def State.hopDown (s : State) (idx : Nat) (f : Flit) (d : Nat) : State :=
  let t := s.leafFor f d
  if s.inTurn idx f d t then s.moveFlit idx (.leaf d t) else s

/-- `NETWORK_FLIT_HOP` (R411, R414, R415): a flit goes on by one hop: up only as far as it must, down as its destination fixes. -/
def execNetworkFlitHop (idx : Nat) (s : State) : Out :=
  .next (match s.flits[idx]? with
    | none => s
    | some f =>
      match f.at_ with
      | .leaf d l => s.hopLeaf idx f d l
      | .edgeUp d e =>
        let t := leafEdge (s.leafFor f d)
        if t = e then s.hopDown idx f d
        else
          let k := s.upPort f fun p => match p with
            | .midUp d' m => if d' = d ∧ m / 8 = edgePod e then some (m % 8) else none
            | _ => none
          s.moveFlit idx (.midUp d (8 * edgePod e + k))
      | .midUp d m =>
        let t := leafEdge (s.leafFor f d)
        if edgePod t = m / 8 then s.moveFlit idx (.edgeDown d t)
        else
          let k := s.upPort f fun p => match p with
            | .top d' x => if d' = d then some x else none
            | _ => none
          s.moveFlit idx (.top d k)
      | .top d x => s.moveFlit idx (.midDown d (8 * edgePod (leafEdge (s.leafFor f d)) + x))
      | .midDown d _ => s.moveFlit idx (.edgeDown d (leafEdge (s.leafFor f d)))
      | .edgeDown d _ => s.hopDown idx f d
      | .felt _ _ _ _ => s)

/-! ## Delivery (R47, R416) -/

/-- A message comes before another from its sender (R416): a causal one before a notice of its number (R332). -/
def Msg.before (m n : Msg) : Bool :=
  if m.seq = n.seq then m.body.causal && !n.body.causal else clockAtLeast (BitVec.ofNat 32 n.seq) (BitVec.ofNat 32 m.seq)

/-- The message that a bridge may deliver next from a die: none of that die's messages that are still under way comes
before it (R416). -/
def State.bridgeNext (s : State) (die src : Nat) : Option (Nat × Msg) :=
  let here := ((List.range s.flits.length).zip s.flits).filterMap fun x => match x.2.body with
    | .msg m => if m.src = src ∧ m.dst = die then some (x.1, m, x.2.atBridge) else none
    | _ => none
  (here.find? fun x => x.2.2 && here.all fun y => !y.2.1.before x.2.1).map fun x => (x.1, x.2.1)

/-- `BRIDGE_DELIVER` (R416): the bridges of a die deliver the next message of a sender, in the order of its numbers. -/
def execBridgeDeliver (die src : Nat) (s : State) : Out :=
  .next (match s.bridgeNext die src with
    | some (i, m) => ({ s with flits := dropAt s.flits i } : State).updDie die fun d => { d with inbox := d.inbox ++ [m] }
    | none => s)

/-- An earlier message from the same send register to the same receive register is still under way (R47). -/
def State.overtakes (s : State) (idx : Nat) : Bool :=
  match s.flits[idx]? with
  | some f =>
    match f.body with
    | .message _ core queue from_ reg => (s.flits.take idx).any fun g => match g.body with
      | .message _ c q k r => decide (c = core) && decide (q = queue) && decide (k = from_) && decide (r = reg)
      | _ => false
    | _ => false
  | none => false

/-- `MESSAGE_ARRIVE` (R47, R223, R361): a message reaches its receive register, after the earlier ones of its sender; that of a block that has
completed is discarded. -/
def execMessageArrive (idx : Nat) (s : State) : Out :=
  .next (match s.flits[idx]? with
    | none => s
    | some f =>
      match f.body with
      | .message words core queue _ _ =>
        if f.at_ ≠ .leaf f.dDie f.dLeaf ∨ s.overtakes idx then s
        else
          let s : State := { s with flits := dropAt s.flits idx }
          s.updCore core fun c =>
            let gone := decide (c.phase = .killed) || decide (c.phase = .halted) || decide (c.phase = .completed)
            { c with mqi := alterPad MQueue.empty c.mqi queue fun q =>
                if gone then { q with promised := q.promised - 1 }
                else { messages := q.messages ++ [words], promised := q.promised - 1, freshAt := s.now,
                       fresh := (if q.freshAt = s.now then q.fresh else 0) + 1 } }
      | _ => s)

/-! ## Modules (R377, R379, R380, R417 to R419) -/

/-- Change a bundle. -/
def State.updBundle (s : State) (b : Nat) (f : Bundle → Bundle) : State :=
  if b < 16 then { s with felts := alterPad Bundle.reset s.felts b f } else s

/-- Change a module of a bundle. -/
def State.updModule (s : State) (b m : Nat) (f : FeltModule → FeltModule) : State :=
  s.updBundle b fun x => if m < 8 then { x with modules := alterPad FeltModule.reset x.modules m f } else x

/-- A module. -/
def State.feltModule (s : State) (b m : Nat) : FeltModule := nth (s.bundle b).modules m FeltModule.reset

/-- The two dies of a bundle, the lower first (R10). -/
def bundleDies (b : Nat) : Nat × Nat := if b < 5 then (b, b + 1) else if b < 10 then (b + 1, b + 2) else (b - 10, b - 4)

/-- The die that a direction of a bundle leads to. -/
def bundleEnd (b dir : Nat) : Nat := if dir = 0 then (bundleDies b).2 else (bundleDies b).1

/-- The flits of a direction of a module that are sent and not received (R417, R419). -/
def State.feltOut (s : State) (b m dir : Nat) : Nat :=
  let n := nth (s.feltModule b m).taken dir 0
  (s.feltSent b m (bundleEnd b dir) n + 239) / 240 - n

/-- Add to a saturating counter of `bits` bits (R376). -/
def saturate (old n bits : Nat) : Nat := min (2 ^ bits - 1) (old + n)

/-- The network flits whose last byte a direction of a module has now received leave its bridge at the other die, in their order (R417, R419). -/
def State.feltDeliver (s : State) (b m dir : Nat) : State :=
  let d := bundleEnd b dir
  let n := 240 * nth (s.feltModule b m).taken dir 0
  let to_ := entryLeaf b m d (bundleEnd b (1 - dir))
  { s with flits := s.flits.map fun f => if (f.feltEnd b m d).any fun e => decide (e ≤ n) then { f with at_ := .leaf d to_ } else f }

/-- `FELT_FLIT_RECEIVE` (R417, R419): the next flit of 256 bytes on a direction of a module arrives (`module` + 8 is the direction towards the lower die). With a
good CRC the network flits that end in it are delivered; with an error it and every later one are discarded until its replay. -/
def execFeltFlitReceive (bundle module : Nat) (crcOk : Bool) (s : State) : Out :=
  let m := module % 8
  let dir := module / 8
  let x := s.feltModule bundle m
  .next (if s.feltOut bundle m dir = 0 ∨ x.retraining.isSome ∨ x.width = 3 ∨ 1 < dir then s
    else
      let frozen := (s.die (bundleEnd bundle dir)).freeze
      let s := if crcOk || frozen then s else s.updModule bundle m fun x => { x with crcErr := saturate x.crcErr 1 32 }
      if x.bad.contains dir then s
      else if !crcOk then s.updModule bundle m fun x => { x with bad := setAdd x.bad dir }
      else
        (s.updModule bundle m fun x =>
          { x with retrans := x.retrans.set dir 0, taken := alterPad 0 x.taken dir fun n => n + 1 }).feltDeliver bundle m dir)

/-- A correctable error of a module is reported by the lower die of its bundle (R380, R422). -/
def State.reportLink (s : State) (b m : Nat) (code detail : W8) : State :=
  s.report (bundleDies b).1 (engineRecord code detail 1#2 0 (BitVec.ofNat 64 (b * 8 + m)))

/-- The windows of replays that have passed by a fabric cycle: REPLAYWIN starts again in each (R380). -/
def FeltModule.passWindow (x : FeltModule) (fabric : Nat) : FeltModule :=
  if x.winStart + 2 ^ 24 ≤ fabric then
    { x with replayWin := 0, overThr := false, winStart := fabric - (fabric - x.winStart) % 2 ^ 24 }
  else x

/-- The windows of the modules of a bundle that have passed (R380). -/
def Bundle.passWindows (b : Bundle) (fabric : Nat) : Bundle := { b with modules := b.modules.map fun x => x.passWindow fabric }

/-- Report replays above the threshold, once in a window (R380). -/
def State.checkReplays (s : State) (b m : Nat) : State :=
  let x := s.feltModule b m
  if x.overThr ∨ x.replayThr = 0 ∨ x.replayWin < x.replayThr then s
  else (s.updModule b m fun x => { x with overThr := true }).reportLink b m 0x53#8 0#8

/-- `FELT_REPLAY` (R419): the sender retransmits the failed flit and every later one on that direction. -/
def execFeltReplay (bundle module : Nat) (s : State) : Out :=
  let m := module % 8
  let dir := module / 8
  let x := s.feltModule bundle m
  .next (if !x.bad.contains dir ∨ x.retraining.isSome ∨ x.width = 3 ∨ 16 ≤ nth x.retrans dir 0 then s
    else
      let n := s.feltOut bundle m dir
      (s.updModule bundle m fun x =>
        let x := x.passWindow s.fabric
        { x with
          bad := setDel x.bad dir
          retrans := alterPad 0 x.retrans dir fun k => k + 1
          replays := saturate x.replays n 32
          replayWin := saturate x.replayWin n 16 }).checkReplays bundle m)

/-- `REPLAY_WINDOW_EXPIRY` (R380): 2^24 fabric cycles after the last window began, a new one begins. -/
def execReplayWindowExpiry (bundle module : Nat) (s : State) : Out :=
  .next (s.updModule bundle module fun x => x.passWindow s.fabric)

/-! ## Degradation and drains (R420 to R422) -/

/-- `MODULE_RETRAIN` (R421): after 16 retransmissions of one flit without a good CRC the module retrains, which finds the failing lanes. -/
def execModuleRetrain (bundle module failing : Nat) (s : State) : Out :=
  let x := s.feltModule bundle module
  .next (if x.retraining.isSome ∨ x.width = 3 ∨ !(x.bad.any fun dir => decide (16 ≤ nth x.retrans dir 0)) then s
    else s.updModule bundle module fun x => { x with retraining := some failing })

/-- The lanes of a width (R77). -/
def widthLanes (w : Nat) : Nat := match w with | 0 => 64 | 1 => 48 | 2 => 32 | _ => 0

/-- Take the first step of the ladder that applies, with its DETAIL (R421): lanes into spares; the rated rate; the next width that the
good lanes allow; out of service. -/
def FeltModule.degrade (x : FeltModule) (failing : Nat) : FeltModule × W8 :=
  let good := 68 - x.retired - failing
  let y := { x with retraining := none, retrans := [0, 0] }
  if widthLanes x.width ≤ good then ({ y with retired := min 68 (x.retired + failing) }, 0#8)
  else if x.rate ≠ 0 then ({ y with rate := 0 }, 2#8)
  else if 48 ≤ good ∧ x.width < 1 then ({ y with width := 1, retired := min 68 (x.retired + failing) }, 1#8)
  else if 32 ≤ good ∧ x.width < 2 then ({ y with width := 2, retired := min 68 (x.retired + failing) }, 1#8)
  else ({ y with width := 3, retired := 68 }, 1#8)

/-- Every warp of the package that watches the links holds the event (R74, R422). -/
def State.linkEvent (s : State) (detail : W8) : State :=
  let tell (t : Thread) : Thread := if t.wctl.getLsbD 1 then { t with linkEvents := t.linkEvents ++ [detail] } else t
  { s with cores := s.cores.map fun x => (x.1, { x.2 with thr := x.2.thr.map tell }) }

/-- The modules of a bundle in service, upward. -/
def Bundle.working (x : Bundle) : List Nat := (List.range 8).filter fun m => decide ((nth x.modules m FeltModule.reset).width ≠ 3)

/-- Both dies of a bundle hear of a step of a module's ladder (R422). -/
def State.bundleEvent (s : State) (b : Nat) (detail : W8) : State :=
  (s.raiseEvent (bundleDies b).1 0x50#8 detail).raiseEvent (bundleDies b).2 0x50#8 detail

/-- Flits on a module that has gone out of service go back to their sender's bridge, to be sent on another one. -/
def State.recallFlits (s : State) (b m : Nat) : State :=
  { s with flits := s.flits.map fun f => match f.at_ with
    | .felt b' m' d _ =>
      if b' = b ∧ m' = m then
        let src := if d = (bundleDies b).1 then (bundleDies b).2 else (bundleDies b).1
        { f with at_ := .leaf src (entryLeaf b m src d) }
      else f
    | _ => f }

/-- `RETRAIN_COMPLETE` (R421, R422): the module takes its step; its registers show it before the error is reported and the event
raised, to the control processors of both dies and to the warps that watch the links. A module out of service drains its bundle, and a bundle without modules is a fatal error (R406). -/
def execRetrainComplete (bundle module : Nat) (s : State) : Out :=
  let x := s.feltModule bundle module
  .next (match x.retraining with
    | none => s
    | some failing =>
      let (y, detail) := x.degrade failing
      let s := ((s.updModule bundle module fun _ => y).reportLink bundle module 0x50#8 detail).bundleEvent bundle detail |>.linkEvent detail
      if y.width ≠ 3 then s
      else
        let s := (s.recallFlits bundle module).updBundle bundle fun b =>
          { b with draining := true, modules := alterPad FeltModule.reset b.modules module fun m => { m with bad := [] } }
        if (s.bundle bundle).working.isEmpty then
          s.fatalStop (bundleDies bundle).1 (engineRecord 0x50#8 detail 3#2 0 (BitVec.ofNat 64 (bundle * 8 + module)))
        else s)

/-- No flit is on a bundle: every one that was sent has been delivered (R420). -/
def State.bundleEmpty (s : State) (b : Nat) : Bool :=
  s.flits.all fun f => match f.at_ with | .felt b' _ _ _ => decide (b' ≠ b) | _ => true

/-- `BUNDLE_DRAIN_COMPLETE` (R420): every flit that was sent has been acknowledged, and the new mapping applies. -/
def execBundleDrainComplete (bundle : Nat) (s : State) : Out :=
  .next (if !(s.bundle bundle).draining ∨ !s.bundleEmpty bundle then s
    else s.updBundle bundle fun b => { b with draining := false, inService := b.working })

end Sys2Proof.Machine
end

