-- ==== Sys2Proof/Machine/Ualink.lean ====
section
/-! DEFINITION. UALink: requests that arrive from peers, barrier signals, responses to what this package asked, and ports that come
up or go down (R423 to R426, R440). -/

namespace Sys2Proof.Machine

/-! ## Requests from peers (R424 to R426, R440) -/

/-- Answer a peer: whether with an error, and the bytes. -/
def State.answerPeer (s : State) (pkg : Nat) (error : Bool) (bytes : List W8) : State :=
  { s with ualink := { s.ualink with answers := s.ualink.answers ++ [(pkg, error, bytes)] } }

/-- Refuse a request, with an error response and a log record (R424). -/
def State.refusePeer (s : State) (pkg addr : Nat) : State :=
  (s.logError (homeDie addr % Config.dies) (engineRecord 0x53#8 0#8 0#2 0 (BitVec.ofNat 64 addr))).answerPeer pkg true []

/-- The lines that a range of bytes touches. -/
def rangeLines (addr len : Nat) : List Nat := (List.range ((addr % 128 + len + 127) / 128)).map fun i => addr / 128 + i

/-- A request of a peer to one line, at class 5 (R297, R424). -/
def peerLineReq (pkg dom vid : Nat) (versioned : Bool) (line : Nat) (es : List Elem) : LineReq :=
  { engineReq (line * 128) es with owner := .peer pkg, cls := 5, domain := dom, vid := vid, versioned := versioned }

/-- The elements of a range of bytes that fall in a line; `op` says what each byte does, none for a byte that is not enabled. -/
def byteElems (addr len line : Nat) (op : Nat → Option ElemOp) : List Elem :=
  (List.range len).filterMap fun i =>
    if (addr + i) / 128 = line then (op i).map fun o => { engineElem (addr + i) 0 o with lane := i } else none

/-- Perform bytes of a peer's request at their home slices; what was read, by its place. -/
def State.performBytes (s : State) (r : UaRequest) (len : Nat) (op : Nat → Option ElemOp) : State × List (Nat × W8) :=
  let versioned := decide (r.kind = 1#8)
  (rangeLines r.addr len).foldl (fun acc line =>
    let (s, got) := acc
    let es := byteElems r.addr len line op
    if es.isEmpty then (s, got)
    else
      let (s, q) := s.performReq
        (peerLineReq r.srcPkg (if versioned then r.domain else 0) (if versioned then r.vid else 0) versioned line es) 0 19
      (s, got ++ q.elems.map fun e => (e.lane, e.got.setWidth 8))) (s, [])

/-- The bytes of an atomic: 8 for `.b64`, 4 for the others, `.fadd.bf16x2` too (R197). -/
def atomBytes (o : UaOp) : Nat :=
  match o with
  | .atomic op wide _ => if wide ∧ op ≠ .fadd then 8 else 4
  | .cas wide _ _ => if wide then 8 else 4
  | _ => 4

/-- Perform an atomic of a peer, and answer the old value (R440). -/
def State.performAtomic (s : State) (r : UaRequest) (op : ElemOp) : State :=
  let versioned := decide (r.kind = 1#8)
  let n := atomBytes r.op
  let (s, q) := s.performReq
    (peerLineReq r.srcPkg (if versioned then r.domain else 0) (if versioned then r.vid else 0) versioned (r.addr / 128)
      [engineElem r.addr (if n = 8 then 3 else 2) op]) 0 19
  let old : Nat := match q.elems with | e :: _ => e.got.toNat | [] => 0
  s.answerPeer r.srcPkg false ((List.range n).map fun i => BitVec.ofNat 8 (old / 2 ^ (8 * i)))

/-- The sectors that enabled bytes touch. -/
def sectorsWritten (addr : Nat) (bytes : List (Option W8)) : List Nat :=
  ((List.range bytes.length).zip bytes).foldl (fun l x => if x.2.isSome then setAdd l ((addr + x.1) / 32) else l) []

/-- The sectors of a peer's copy that have been performed here (R426). -/
def Ualink.performedBy (u : Ualink) (key : Nat × Nat × Nat × Nat) : Nat :=
  match u.performed.find? fun x => decide (x.1 = key) with
  | some x => x.2
  | none => 0

/-- Count sectors of a peer's copy. -/
def Ualink.perform (u : Ualink) (key : Nat × Nat × Nat × Nat) (n : Nat) : Ualink :=
  { u with performed := (key, u.performedBy key + n) :: u.performed.filter fun x => decide (x.1 ≠ key) }

/-- The copy that a signal is of. -/
def signalKey (g : UaSignal) : Nat × Nat × Nat × Nat := (g.srcPkg, g.bdie, g.bcore, g.copyId)

/-- The count of the last signal answered of a peer's copy, 0 where none was. -/
def Ualink.lastSignal (u : Ualink) (key : Nat × Nat × Nat × Nat) : Nat :=
  match u.last.find? fun x => decide (x.1 = key) with
  | some x => x.2
  | none => 0

/-- A signal is of a copy that took its number after the copy whose signal was answered last. DEDUCED (log 152): that signal was the last one of its copy
where it does not count whole groups of 64 sectors, or where this one counts no more (R426). -/
def Ualink.newCopy (u : Ualink) (g : UaSignal) : Bool :=
  let n := u.lastSignal (signalKey g)
  decide (n % 64 ≠ 0) || decide (g.bcount ≤ n)

/-- The sectors performed that a signal's copy has to its count. -/
def Ualink.countFor (u : Ualink) (g : UaSignal) : Nat :=
  u.performedBy (signalKey g) - (if u.newCopy g then u.lastSignal (signalKey g) else 0)

/-- A signal is answered: what its copy has sent is counted from the copy's first sector. -/
def Ualink.answerSignal (u : Ualink) (g : UaSignal) : Ualink :=
  let key := signalKey g
  { u with
    performed := (key, u.countFor g) :: u.performed.filter fun x => decide (x.1 ≠ key)
    last := (key, g.bcount) :: u.last.filter fun x => decide (x.1 ≠ key)
    signals := u.signals.erase g }

/-- Answer every signal whose sectors have been performed (R426). -/
def State.settleSignals (s : State) : State :=
  s.ualink.signals.foldl (fun s g =>
    if g.bcount ≤ s.ualink.countFor g then ({ s with ualink := s.ualink.answerSignal g } : State).answerPeer g.srcPkg false [] else s) s

/-- A request that carries a prefix has a valid one: a known KIND, and for a versioned write a member's (R424, R425). -/
def State.prefixValid (s : State) (r : UaRequest) : Bool :=
  match r.op with
  | .read _ => true
  | .walk _ => r.prefixOk && decide (r.kind = 0#8)
  | .couch _ => r.prefixOk && decide (r.kind = 0#8)
  | _ => r.prefixOk && (decide (r.kind = 0#8) || (decide (r.kind = 1#8) && s.memberOf r.domain r.srcPkg))

/-- The bytes a request names. -/
def uaLength (o : UaOp) : Nat :=
  match o with
  | .read n => n
  | .write bs => bs.length
  | .atomic op wide v => atomBytes (.atomic op wide v)
  | .cas wide c v => atomBytes (.cas wide c v)
  | .walk _ => 16
  | .couch _ => 0

/-- A physical address that the host and peers may reach: mapped HBM outside the spill areas (R277, R430). -/
def openHbm (pa : Nat) : Bool := isHbm pa && !inSpill pa

/-- A walk of a peer (R311): the OR of PEERA for the requester's slot, and of D for a write; the entry and its companion word are the answer. -/
def State.answerWalk (s : State) (r : UaRequest) (write : Bool) : State :=
  match (List.range 32).find? fun k => decide (s.peers.find k = some r.srcPkg) with
  | none => s.refusePeer r.srcPkg r.addr
  | some k =>
    let (s, c) := s.orCompanion r.addr (12 + k) write
    let (s, e, _) := s.readCommitted r.addr 3
    s.answerPeer r.srcPkg false (((List.range 8).map fun i => e.extractLsb' (8 * i) 8) ++ (List.range 8).map fun i => c.extractLsb' (8 * i) 8)

/-! ### The Couches of a domain's members (R452) -/

/-- A member's copy of a domain's table becomes what the coordinating Couch sends. -/
def Domain.adopt (d : Domain) (seq : Nat) (couched : List Nat) (table : List (Nat × Nat × BitVec 320)) (count : W32) (accept : W16)
    (proposed accepted : Nat) : Domain :=
  { d with
    couchSeq := seq, resolveCount := count, accept := accept, proposed := proposed, accepted := accepted
    table := table.foldl (fun (t : KMap VEntry) x =>
      t.put x.1 ((d.entry x.1).adopt seq x.2.1 (couched.contains x.1) x.2.2)) [] }

/-- A notice of the coordinating Couch: it goes to every slice of the package, as one of its own Couch does, and the VIDs that are free now are
forgotten. -/
def State.takeNotice (s : State) (d seq : Nat) (couched broke : List Nat) (new : Domain → Domain) : State :=
  let old := (s.domain d).table
  let s := s.updDomain d new
  let s := old.foldl (fun s x => if ((s.domain d).table.find x.1).isNone then s.forgetVid d x.1 else s) s
  if couched.isEmpty && broke.isEmpty then s
  else
    let n : Notice := { id := seq, domain := d, couched := couched, broke := broke, old := old, waiting := allSlices }
    let s := s.updDomain d fun x => { x with joint := { x.joint with owed := x.joint.owed ++ [seq] } }
    ({ s with notices := s.notices ++ [n] }.settleLogs).settleEgress d

/-- What a member asks of the coordinating Couch. -/
def State.coordinate (s : State) (pkg d : Nat) (m : CouchMsg) : State :=
  match m with
  | .resolve id vid target proposed who squash =>
    { s with resolves := s.resolves ++
      [{ source := .member pkg id who, ofDomain := d, ofVid := vid, domain := d, target := target, proposed := proposed, squash := squash,
         status := none, notice := 0, dst := 0, taint := false, asked := none }] }
  | .vids id n parent chain pair =>
    match s.takeVids d n parent chain pair with
    | (s, some vids) => s.tell d pkg (.answer id 0 vids (s.domain d).resolveCount)
    | (s, none) => s.tell d pkg (.answer id 1 [] (s.domain d).resolveCount)
  | .applied seq =>
    s.updDomain d fun x => { x with joint := { x.joint with awaiting := x.joint.awaiting.filter fun y => y != (seq, pkg) } }
  | .blocks vid up => s.countBlock d vid up
  | .swept vid epoch =>
    if ((s.domain d).entry vid).epoch = epoch then
      s.updDomain d fun x =>
        { x with joint := { x.joint with swept := (vid, pkg) :: x.joint.swept.filter fun y => y != (vid, pkg) } }
    else s
  | .answer _ _ _ _ => s
  | .notice _ _ _ _ _ _ _ _ => s

/-- What the coordinating Couch sends a member. -/
def State.follow (s : State) (d : Nat) (m : CouchMsg) : State :=
  match m with
  | .answer id status vids count =>
    (s.resolveAnswered d id status).updDomain d fun x =>
      { x with joint := { x.joint with asks := x.joint.asks.map fun y => if y.2.1 = id ∧ y.2.2 = none then (y.1, id, some (vids, count)) else y } }
  | .notice seq couched broke table count accept proposed accepted =>
    s.takeNotice d seq couched broke fun x => x.adopt seq couched table count accept proposed accepted
  | _ => s

/-- A message of a member of a domain: to this package as the coordinating one, or from it. -/
def State.couchHears (s : State) (pkg d : Nat) (m : CouchMsg) : State :=
  if !s.memberOf d pkg then s
  else match s.coordinator d with
    | none => s.coordinate pkg d m
    | some p => if p = pkg then s.follow d m else s

/-- `UALINK_REQUEST_RECEIVE` (R424, R425, R440): a peer's request is performed at its home slice and answered; one without a valid prefix,
of a package that is no member, or outside the mapped HBM, is refused. A walk is
answered (R311), and what the Couch of a member says is heard (R452). -/
def execUalinkRequestReceive (req : UaRequest) (s : State) : Out :=
  .next (if s.stopped then s
    else match req.op with
    | .couch m => if req.prefixOk then s.couchHears req.srcPkg req.domain m else s.refusePeer req.srcPkg req.addr
    | _ =>
    if !s.prefixValid req ∨ !openHbm req.addr ∨ !openHbm (req.addr + ((uaLength req.op) - 1)) then s.refusePeer req.srcPkg req.addr
    else if (rangeLines req.addr (uaLength req.op)).any fun line => s.asleep (line * 128) then s
    else
      match req.op with
      | .read n =>
        let (s, got) := s.performBytes req n fun _ => some .read
        s.answerPeer req.srcPkg false ((List.range n).map fun i =>
          match got.find? fun x => decide (x.1 = i) with | some x => x.2 | none => 0#8)
      | .write bs =>
        let (s, _) := s.performBytes req bs.length fun i => (nth bs i none).map fun (b : W8) => .put (b.setWidth 128)
        let s := s.answerPeer req.srcPkg false []
        match req.copy with
        | some (d, c, i) =>
          ({ s with ualink := s.ualink.perform (req.srcPkg, d, c, i) (sectorsWritten req.addr bs).length } : State).settleSignals
        | none => s
      | .atomic op wide v => s.performAtomic req (.atom op wide v)
      | .cas wide cmp new => s.performAtomic req (.cas wide cmp new)
      | .walk write => s.answerWalk req write
      | .couch _ => s)

/-- `UALINK_BARRIER_SIGNAL` (R426): a signal is answered once the sectors it counts have been performed here. -/
def execUalinkBarrierSignal (signal : UaSignal) (s : State) : Out :=
  .next (if s.stopped then s
    else ({ s with ualink := { s.ualink with signals := s.ualink.signals ++ [signal] } } : State).settleSignals)

/-! ## Responses (R425, R426, R440) -/

/-- A sector of a peer line arrives at its home slice (R336, R423); where no way can hold the line it stands for those that wait for it (R288). -/
def State.fillPeer (s : State) (line i : Nat) (v : BitVec 256) : State :=
  match s.homeWay (line * 128) 7 false with
  | (s, some key) =>
    s.updWay (homeDie (line * 128)) (sliceOf (line * 128)) key fun w =>
      if w.present.getLsbD i then w
      else
        let b := BitVec.ofNat 4 (2 ^ i)
        { w with
          data := putBytes w.data (v.setWidth 1024 <<< (256 * i)) (bytesOfSectors b)
          present := w.present ||| b
          poison := w.poison &&& ~~~b }
  | (s, none) => { s with ualink := { s.ualink with passing := s.ualink.passing ++ [(line, i, v)] } }

/-- An atomic at a peer still waits for its answer. -/
def UaOut.sameAtomic (o : UaOut) (r : LineReq) : Bool :=
  match o.what with
  | .atomic q => decide (q.owner = r.owner) && decide (q.line = r.line) && decide (q.tag = r.tag)
  | _ => false

/-- The old value of an atomic at a peer comes back (R440): once every element of the request has been answered, so is the
request. -/
def State.atomicAnswered (s : State) (r : LineReq) (v : BitVec 128) : State :=
  let mine (e : Elem) : Bool := r.elems.any fun x => decide (x.lane = e.lane) && decide (x.off = e.off)
  let more := s.ualink.out.any fun o => o.sameAtomic r
  let h := homeDie (r.line * 128)
  let st : ReqState := if more then .sent else if h = r.die then .answered else .replied h (s.clockOf h)
  let s := if s.owns r || more then s else s.clearPending r
  s.updOwned r.owner r.line (fun q => r.places.all q.places.contains) fun q =>
    { q with elems := q.elems.map fun e => if mine e then { e with got := v } else e, st := st }

/-- A fatal address fault, DETAIL 0x05, on an access (R425): it never completes. -/
def State.failAccess (s : State) (k a tag : Nat) (va : W64) : State :=
  match (s.thread k a).inflight.find? fun x => decide (x.tag = tag) with
  | some x =>
    if x.stuck then s
    else (s.reportFatal k a 0x05#8 x.pc va 0#8).updThread k a fun t =>
      { t with inflight := t.inflight.map fun y => if y.tag = tag then { y with stuck := true } else y }
  | none => s

/-- The fault on a copy (R204, R425). -/
def State.faultCopy (s : State) (k id : Nat) (va : W64) : State :=
  match (s.core? k).bind fun c => c.copies.find? fun x => decide (x.id = id) with
  | some x => if x.st = .moving then (s.reportFatal k 17 0x05#8 x.pc va 3#8).failCopy k x 7 else s
  | none => s

/-- The fault on a drain (R239, R425). -/
def State.faultDrain (s : State) (k id : Nat) (va : W64) : State :=
  match (s.core? k).bind fun c => c.mx.find? fun m => decide (m.id = id) with
  | some m => match m.st with
    | .draining _ => (s.reportFatal k 18 0x05#8 m.pc va 3#8).failDrain k m 7
    | _ => s
  | none => s

/-- The fault on whoever made a request; `va` is the address of its first element (R425). -/
def State.faultOwner (s : State) (r : LineReq) : State :=
  let va : W64 := match r.elems with | e :: _ => BitVec.ofNat 64 e.va | [] => 0#64
  match r.owner with
  | .access k a tag => s.failAccess k a tag va
  | .copy k id _ => s.faultCopy k id va
  | .drain k id => s.faultDrain k id va
  | _ => s

/-- A request reads a sector of a line that is not there yet. -/
def LineReq.wants (r : LineReq) (line i : Nat) : Bool :=
  decide (r.line = line) && decide (r.st = .pending) && (sectorsOf (readsOf r.elems)).getLsbD i

/-- The requests of a block that read a sector of a line. -/
def Core.wanting (c : Core) (line i : Nat) : List LineReq :=
  (c.thr.flatMap fun t => t.inflight.flatMap fun x => x.reqs.filter fun r => !x.stuck && r.wants line i) ++
    c.copies.flatMap fun x => x.units.flatMap fun u => u.reads.filter fun r => r.wants line i

/-- A fill was answered with an error: the accesses and copies that wait for it take the fault; where none does, the engine that
asked finds it. -/
def State.fillFailed (s : State) (line i : Nat) : State :=
  let rs := s.cores.flatMap fun x => x.2.wanting line i
  if rs.isEmpty then { s with ualink := { s.ualink with errors := s.ualink.errors ++ [(line, i)] } }
  else rs.foldl (fun s r => s.faultOwner r) s

/-- An error answer to what an engine did to an entry of a peer's table: the restore or the eviction ends there, and is reported. DESIGN CHOICE (log 149). -/
def State.entryFailed (s : State) (die : Nat) (evict : Bool) : State :=
  (s.updDie die fun d => if evict then { d with evict := none } else { d with restore := none }).report die (engineRecord 0x40#8 0x05#8 2#2 0 0#64)

/-- An error response (R425). What a copy or a drain wrote fails it. The access of a store that was written back later has completed; the error is
reported with no agent. -/
def State.responseError (s : State) (o : UaOut) : State :=
  match o.what with
  | .fill line i => s.fillFailed line i
  | .writeback line _ _ _ =>
    match o.for_ with
    | some r => s.faultOwner r
    | none => s.report (homeDie (line * 128)) (engineRecord 0x40#8 0x05#8 2#2 0 (BitVec.ofNat 64 (line * 128)))
  | .atomic r => s.faultOwner r
  | .signal k id n => (s.faultCopy k id 0#64).signalAnswered k id n
  | .drainSignal k id => s.faultDrain k id 0#64
  | .walk _ slot _ _ => { s with ualink := { s.ualink with errors := s.ualink.errors ++ [(slot / 128, 0)] } }
  | .migrate die evict _ => s.entryFailed die evict

/-- The answer to a walk's read of a peer's table stands for those who asked (R311). -/
def State.walkAnswered (s : State) (die slot : Nat) (mark : Option Bool) (askers : List Nat) (entry companion : W64) : State :=
  if s.standing askers = [] then s
  else { s with ualink := { s.ualink with walks := s.ualink.walks ++ [{ die := die, slot := slot, mark := mark, entry := entry, companion := companion, askers := askers }] } }

/-! ## Ports (R423) -/

/-- The line index of a request. -/
def UaOut.index (o : UaOut) : Nat := lineIndex (peerBase + o.slot * 2 ^ 46 + o.addr)

/-- A change of the ports takes effect once no request is outstanding on a port that it takes a line from (R420, R423); what waited is sent then. -/
def Ualink.settlePorts (u : Ualink) : Ualink :=
  match u.draining with
  | none => u
  | some ports =>
    if u.out.all fun o => o.port.isNone || decide (uaPort ports o.index = o.port) then
      { u with
        portsUp := ports, draining := none
        out := u.out.map fun o => if o.port.isNone then { o with port := uaPort ports o.index } else o }
    else u

/-- `UALINK_RESPONSE` (R425, R426, R440): the response to a request that was sent completes what waits for it. -/
def execUalinkResponse (id : Nat) (error : Bool) (data : BitVec 256) (s : State) : Out :=
  .next (match s.ualink.out.find? fun o => decide (o.id = id) with
    | none => s
    | some o =>
      if s.stopped ∨ o.port.isNone then s
      else
        let s : State := { s with ualink := ({ s.ualink with out := s.ualink.out.filter fun o => decide (o.id ≠ id) } : Ualink).settlePorts }
        if error then s.responseError o
        else match o.what with
          | .fill line i => s.fillPeer line i data
          | .writeback _ _ _ _ => s
          | .walk die slot mark askers => s.walkAnswered die slot mark askers (data.extractLsb' 0 64) (data.extractLsb' 64 64)
          | .migrate die evict _ => s.entryAnswered die evict (data.setWidth 64)
          | .atomic r => s.atomicAnswered r (data.setWidth 128)
          | .signal k id n => s.signalAnswered k id n
          | .drainSignal _ _ => s)

/-- `UALINK_PORT_STATE_CHANGE` (R423): a port comes up or goes down, and the lines that change their port drain. DESIGN CHOICE (log 153): what was
outstanding on a port that goes down is sent again. -/
def execUalinkPortStateChange (port : Nat) (up : Bool) (s : State) : Out :=
  .next (if 18 ≤ port then s
    else
      let now := s.ualink.draining.getD s.ualink.portsUp
      { s with ualink := ({ s.ualink with
          draining := some (if up then setAdd now port else setDel now port)
          out := s.ualink.out.map fun o => if !up ∧ o.port = some port then { o with port := none } else o } : Ualink).settlePorts })

end Sys2Proof.Machine
end

