-- ==== Sys2Proof/Machine/Board.lean ====
section
/-! DEFINITION. The host port and the management window: doorbells, BAR4, descriptors, tables, counters and link registers that the host and
firmware write; completions from host memory; self-refresh and the power limit (R251, R301, R305, R306, R341, R342, R353, R354, R369,
R370, R372, R378 to R381, R396, R418, R427 to R430, R443). -/

namespace Sys2Proof.Machine

/-- The part answers on PCIe: it has booted, and no fatal error has stopped it (R408, R446, R447). -/
def State.hostReady (s : State) : Bool := decide (s.boot = .ready) && !s.stopped

/-- What firmware asks for takes place once a verified image runs (R447) and unless a fatal error has stopped the device (R408). DESIGN CHOICE, log 157: in a
fatal stop the management interface over I3C answers only the requests whose answer the spec gives. -/
def State.firmware (s : State) (f : State → State) : State := if s.hostReady then f s else s

/-- What the host asks for over PCIe takes place while the part answers there. -/
def State.byHost (s : State) (f : State → State) : State := if s.hostReady then f s else s

/-! ## The host port (R427 to R430) -/

/-- A request of the host that is dropped and logged, with no AER message (R428, R430). -/
def State.dropHost (s : State) (fn addr : Nat) : State := s.logError 0 (engineRecord 0x53#8 0#8 0#2 fn (BitVec.ofNat 64 addr))

/-- A doorbell names a queue that the function owns (R428). DESIGN CHOICE, log 156: a write at an offset that is no multiple of 8 is dropped and logged. -/
def State.doorbellOk (s : State) (fn offset size : Nat) : Bool :=
  (decide (size = 4) || decide (size = 8)) && decide (offset % 8 = 0) && decide (offset < 147456) &&
    decide ((s.queue (offset / 8)).vf = fn) && !s.frozenDoorbells.contains fn

/-- `DOORBELL_WRITE` (R342, R428, R445): the value becomes TAIL if it is within the ring, counted from HEAD; other values are reported to the
owning function, and writes that do not fit the queue are dropped. -/
def execDoorbellWrite (fn offset size : Nat) (value : W64) (s : State) : Out :=
  .next (s.byHost fun s =>
    if !s.doorbellOk fn offset size then s.dropHost fn offset
    else
      let q := offset / 8
      let d := s.queue q
      let t : W32 := value.setWidth 32
      if (t - d.head).toNat ≤ 2 ^ d.logn then s.updQueue q fun d => { d with tail := t }
      else s.report (queueDie q) (engineRecord 0x53#8 0#8 2#2 d.vf (BitVec.ofNat 64 offset)))

/-- A host access waits: for a stack of die 0 in self-refresh (R301), and a read for what die 0 may use of its homes (R331). -/
def State.hostWaits (s : State) (addr n : Nat) (write : Bool) : Bool :=
  (rangeLines addr n).any fun line =>
    if write then decide (homeDie (line * 128) = 0) && s.asleep (line * 128) else s.asleep (line * 128) || !s.viewReady 0 (line * 128)

/-- `HOST_BAR4_ACCESS` (R427, R430): committed accesses at the home slices, which enter die 0. A write that touches anything but open HBM is dropped and
logged, and such a read returns all ones. -/
def execHostBar4Access (addr : Nat) (write : Bool) (data : List W8) (len : Nat) (s : State) : Out :=
  let n := if write then data.length else len
  let fits := openHbm addr && openHbm (addr + (n - 1))
  .next (s.byHost fun s =>
    if !fits then (if write then s.dropHost 0 addr else s.toHost (.bar4Data (List.replicate n 0xFF#8)))
    else if s.hostWaits addr n write then s
    else if write then s.hostWrite addr data
    else
      let (s, bs) := s.readBytes addr n
      s.toHost (.bar4Data bs))

/-- `HOST_MEMORY_COMPLETION` (R335, R336): a write to host memory is acknowledged over PCIe. -/
def execHostMemoryCompletion (idx : Nat) (s : State) : Out :=
  .next (if s.stopped then s else { s with host := { s.host with writes := dropAt s.host.writes idx } })

/-! ## Work queues (R341, R342) -/

/-- The fields of a queue descriptor that a driver writes (R341). -/
def queueOf (d : BitVec 256) : Queue :=
  { head := 0#32, tail := 0#32
    budgetCap := (d.extractLsb' 144 48).toNat
    quantum := (d.extractLsb' 112 32).toNat
    asid := (d.extractLsb' 104 8).toNat
    prio := (d.extractLsb' 97 3).toNat
    draft := d.getLsbD 96
    vf := (d.extractLsb' 90 6).toNat
    logn := (d.extractLsb' 85 5).toNat
    enable := d.getLsbD 84
    base := (d.extractLsb' 0 64).toNat }

/-- A ring that may be enabled (R342). -/
def Queue.ringOk (q : Queue) : Bool := decide (4 ≤ q.logn) && decide (q.logn ≤ 16) && decide (q.base % (64 * 2 ^ q.logn) = 0)

/-- `QUEUE_DESCRIPTOR_WRITE` (R341, R342, R427): the window of the physical function holds every descriptor, that of a virtual function those of its own
queues. HEAD and TAIL keep their values; while ENABLE stays 1, so do BASE, LOGN, VF and ASID; a write that would enable a ring that does not fit is ignored
as a whole. -/
def execQueueDescriptorWrite (queue : QueueWrite) (desc : BitVec 256) (s : State) : Out :=
  let n := queueOf desc
  let q := queue.queue
  .next (s.byHost fun s =>
    if Config.dies * Config.queuesPerDie ≤ q ∨ (queue.fn ≠ 0 ∧ (s.queue q).vf ≠ queue.fn) ∨ ((s.queue q).enable = false ∧ n.enable ∧ !n.ringOk) then s
    else s.updQueue q fun o =>
      if o.enable && n.enable then { o with budgetCap := n.budgetCap, quantum := n.quantum, prio := n.prio, draft := n.draft }
      else { n with head := o.head, tail := o.tail })

/-! ## Egress (R251, R253) -/

/-- `EGRESS_DESCRIPTOR_WRITE` (R251): LCUR is the device's own; a write that brings LOGN into range configures the ring, whose cursors start at
LCUR. The places keep their alignment: lower address bits are not written (DESIGN CHOICE, log 53). -/
def execEgressDescriptorWrite (domain : Nat) (desc : BitVec 256) (s : State) : Out :=
  .next (s.firmware fun s =>
    if 64 ≤ domain then s
    else s.updDomain domain fun d =>
      let e := d.egress
      let n : Egress :=
        { e with
          hcur := desc.extractLsb' 192 32
          shadow := (desc.extractLsb' 96 64).toNat / 64 * 64
          logn := (desc.extractLsb' 64 5).toNat
          base := (desc.extractLsb' 0 64).toNat / 4096 * 4096 }
      { d with egress := if n.configured && !e.configured then { n with r := e.lcur, p := e.lcur, l := e.lcur, reservations := [] } else n })

/-- `EGRESS_HCUR_WRITE` (R251, R253): the host raises its cursor; the ring's room grows, and waiting reservations are taken from then on, one at
a time. -/
def execEgressHcurWrite (domain : Nat) (value : W32) (s : State) : Out :=
  .next (s.byHost fun s =>
    if 64 ≤ domain then s else s.updDomain domain fun d => { d with egress := { d.egress with hcur := value } })

/-! ## Policy (R353, R354) -/

/-- Change the dispatcher of a die. -/
def State.updDisp (s : State) (die : Nat) (f : Dispatcher → Dispatcher) : State := s.updDie die fun d => { d with disp := f d.disp }

/-- `SHARE_TABLE_WRITE` (R353). -/
def execShareTableWrite (die domain : Nat) (value : W32) (s : State) : Out :=
  .next (s.firmware fun s =>
    if 64 ≤ domain then s else s.updDisp die fun d => { d with share := d.share.put domain (value &&& 0x1FFFF#32) })

/-- `AGE_THRESHOLD_WRITE` (R354): a value out of range is ignored. -/
def execAgeThresholdWrite (die value : Nat) (s : State) : Out :=
  .next (s.firmware fun s => if value < 2 ^ 12 ∨ 2 ^ 32 < value then s else s.updDisp die fun d => { d with age := value })

/-! ## KV pools and allocation logs (R370, R372) -/

/-- A field of a KV pool descriptor: `len` bytes at an offset (R370). -/
def poolField (d : BitVec 512) (at_ len : Nat) : Nat := d.toNat / 2 ^ (8 * at_) % 2 ^ (8 * len)

/-- A KV pool descriptor as its 64 bytes give it (R370). -/
def poolOf (d : BitVec 512) : Pool :=
  { base := poolField d 0x00 8, tbase := poolField d 0x08 8, flbase := poolField d 0x10 8, bbytes := poolField d 0x18 4
    pstride := poolField d 0x1C 4, nblk := poolField d 0x20 4, nseq := poolField d 0x24 4, maxblk := poolField d 0x28 4
    bshift := poolField d 0x2C 1, home := poolField d 0x2D 1, enable := decide (poolField d 0x2E 1 % 2 = 1)
    flhead := BitVec.ofNat 32 (poolField d 0x30 4), fltail := BitVec.ofNat 32 (poolField d 0x34 4) }

/-- The limits of a descriptor (R370). -/
def Pool.fits (p : Pool) : Bool :=
  decide (p.base % 128 = 0) && decide (p.tbase % 4096 = 0) && decide (p.flbase % 4 = 0) && decide (p.bbytes % 128 = 0) &&
    decide (p.pstride % 4 = 0) && decide (p.pstride * 2 ^ p.bshift ≤ p.bbytes) && decide (2 ≤ p.nblk) && decide (p.nblk ≤ 2 ^ 24) &&
    decide (1 ≤ p.nseq) && decide (1 ≤ p.maxblk) && decide (p.bshift ≤ 16) && decide (p.home < Config.dies)

/-- The reserved bytes whose limit is 0 are zero (R362, R370). DEDUCED (log 108): FLAGS[7:1] has no limit and no name, so it is a reserved field,
and only the write to those bits is ignored (R7). -/
def poolReservedOk (d : BitVec 512) : Bool := decide (poolField d 0x2F 1 = 0) && decide (poolField d 0x38 8 = 0)

/-- `KV_POOL_DESCRIPTOR_WRITE` (R370): taken while ENABLE is 0, or to clear it, which leaves FLHEAD and FLTAIL; a descriptor that breaks a limit
is not enabled. It is written in the table of its home die. -/
def execKvPoolDescriptorWrite (die pool : Nat) (desc : BitVec 512) (s : State) : Out :=
  let n := poolOf desc
  let bad := n.enable && (!n.fits || !poolReservedOk desc || decide (n.home ≠ die))
  .next (s.firmware fun s =>
    match s.pools.find pool with
    | none => if bad ∨ 256 ≤ pool then s else { s with pools := s.pools.put pool n }
    | some o =>
      if bad ∨ (o.enable ∧ n.enable) then s
      else { s with pools := s.pools.put pool (if o.enable then { n with flhead := o.flhead, fltail := o.fltail } else n) })

/-- `LOGBASE_WRITE` (R372). -/
def execLogbaseWrite (die value : Nat) (s : State) : Out :=
  .next (s.firmware fun s =>
    if value % 2 ^ 23 ≠ 0 ∨ s.pools.any fun x => x.2.enable && decide (x.2.home = die) then s
    else s.updDie die fun d => { d with logBase := value })

/-! ## The dump region, MEMBERS and the acceptance counters (R369, R378, R396) -/

/-- A dump region lies in the die's own HBM below its spill area, with the alignments of R396. -/
def dumpFits (die base size : Nat) : Bool :=
  decide (base % 4096 = 0) && decide (size % 4096 = 0) && decide (size ≤ 2 ^ 32) && decide (base / 2 ^ 37 = die) &&
    (decide (size = 0) || (openHbm base && openHbm (base + (size - 1))))

/-- `DUMP_REGION_WRITE` (R396): a region that does not fit is ignored. -/
def execDumpRegionWrite (die base size : Nat) (s : State) : Out :=
  .next (s.firmware fun s =>
    if dumpFits die base size then s.updDie die fun d => { d with dumpBase := base, dumpSize := size } else s)

/-- `MEMBERS_WRITE` (R369): applied only while every VID of the domain is free. -/
def execMembersWrite (domain : Nat) (mask : W32) (s : State) : Out :=
  .next (s.firmware fun s =>
    if 64 ≤ domain ∨ (s.domain domain).freeVids ≠ 255 then s else s.updDomain domain fun d => { d with members := mask })

/-- `ACCEPT_COUNTER_WRITE` (R378). -/
def execAcceptCounterWrite (domain : Nat) (which : AcceptReg) (value : Nat) (s : State) : Out :=
  .next (s.firmware fun s =>
    if 64 ≤ domain then s
    else s.updDomain domain fun d => match which with
      | .accept => { d with accept := BitVec.ofNat 16 value }
      | .proposed => { d with proposed := value % 2 ^ 48 }
      | .accepted => { d with accepted := value % 2 ^ 48 })

/-! ## Counters (R379, R381) -/

/-- A felt bundle ends at a die. -/
def endsAt (die b : Nat) : Bool := decide ((bundleDies b).1 = die) || decide ((bundleDies b).2 = die)

/-- Clear the counters of R379 of a module. -/
def FeltModule.clearCounters (x : FeltModule) : FeltModule := { x with crcErr := 0, replayWin := 0 }

/-- Clear the counters of a slice, but for the selectors. -/
def Slice.clearCounters (sl : Slice) : Slice := { sl with hits := List.replicate 8 0, misses := List.replicate 8 0 }

/-- Clear the counters of a die, but for the selectors. -/
def Die.clearCounters (d : Die) : Die :=
  { d with
    cores := []
    slices := d.slices.map fun x => (x.1, x.2.clearCounters)
    pageReqCount := 0, kills := 0, halts := 0, spillx := 0, corrErr := 0 }

/-- Clear the counters of the modules of the bundles that a test selects. -/
def State.clearModules (s : State) (p : Nat → Bool) : State :=
  let clear (x : Nat × Bundle) : Bundle :=
    if p x.1 then { x.2 with modules := x.2.modules.map FeltModule.clearCounters } else x.2
  { s with felts := ((List.range s.felts.length).zip s.felts).map clear }

/-- `PCCTL_CLEAR` (R381). -/
def execPcctlClear (die : Nat) (s : State) : Out :=
  .next (s.firmware fun s => (s.updDie die Die.clearCounters).clearModules (endsAt die))

/-- `PCCTL_FREEZE` (R381). -/
def execPcctlFreeze (die : Nat) (freeze : Bool) (s : State) : Out :=
  .next (s.firmware fun s => s.updDie die fun d => { d with freeze := freeze })

/-- Change the counters of a core of a die. -/
def Die.setCore (d : Die) (core : Nat) (f : CoreCounters → CoreCounters) : Die :=
  { d with cores := d.cores.put core (f ((d.cores.find core).getD CoreCounters.zero)) }

/-- Zero one counter of R379; the selectors are read-only. -/
def State.zeroCounter (s : State) (die : Nat) (counter : CounterId) : State :=
  let core (k : Nat) (f : CoreCounters → CoreCounters) : State := s.updDie die fun d => d.setCore k f
  match counter with
  | .crcErr b m => s.updModule b m fun x => { x with crcErr := 0 }
  | .replayWin b m => s.updModule b m fun x => { x with replayWin := 0 }
  | .issued k => core k fun c => { c with issued := 0 }
  | .apIssued k => core k fun c => { c with apIssued := 0 }
  | .fragSplit k => core k fun c => { c with fragSplit := 0 }
  | .fragFull k => core k fun c => { c with fragFull := 0 }
  | .wTrap k => core k fun c => { c with wTrap := 0 }
  | .raEnter k => core k fun c => { c with raEnter := 0 }
  | .raInstr k => core k fun c => { c with raInstr := 0 }
  | .raPref k => core k fun c => { c with raPref := 0 }
  | .hit k c => s.updSlice die k fun sl => { sl with hits := sl.hits.set c 0 }
  | .miss k c => s.updSlice die k fun sl => { sl with misses := sl.misses.set c 0 }
  | .sel _ _ => s
  | .pageReq => s.updDie die fun d => { d with pageReqCount := 0 }
  | .kills => s.updDie die fun d => { d with kills := 0 }
  | .halts => s.updDie die fun d => { d with halts := 0 }
  | .spillx => s.updDie die fun d => { d with spillx := 0 }
  | .corrErr => s.updDie die fun d => { d with corrErr := 0 }

/-- `COUNTER_ZERO_WRITE` (R379): a write of any value but zero is ignored. -/
def execCounterZeroWrite (die : Nat) (counter : CounterId) (value : Nat) (s : State) : Out :=
  .next (s.firmware fun s => if value = 0 then s.zeroCounter die counter else s)

/-! ## Links (R77, R418, R420, R448) -/

/-- A bundle has drained: it sends nothing, and every flit has been acknowledged (R420). -/
def State.drained (s : State) (b : Nat) : Bool := (s.bundle b).draining && s.bundleEmpty b

/-- `LINK_REGISTER_WRITE` (R77, R420, R448): taken while the bundle has drained; the end of the drain maps its flits to the modules in service then. Overdrive
rates are taken only after boot. -/
def execLinkRegisterWrite (bundle module : Nat) (which : LinkReg) (value : Nat) (s : State) : Out :=
  .next (s.firmware fun s =>
    if !s.drained bundle then s
    else match which with
      | .rate => if 4 < value then s else s.updModule bundle module fun x => { x with rate := value }
      | .width => s.updModule bundle module fun x => { x with width := value % 4 }
      | .replay => s.updModule bundle module fun x => { x with replays := value % 2 ^ 32 }
      | .retired => if 68 < value then s else s.updModule bundle module fun x => { x with retired := value })

/-- `LINK_RATE_CHANGE` (R418, R420, R448): firmware drains the bundle; once it is empty the module takes the rate, and the width if its good
lanes allow it and it is no narrower than before. -/
def execLinkRateChange (bundle module rate width : Nat) (s : State) : Out :=
  let x := s.feltModule bundle module
  .next (s.firmware fun s =>
    if 4 < rate ∨ 2 < width ∨ x.width < width ∨ 68 < x.retired + widthLanes width then s
    else if !s.bundleEmpty bundle then s.updBundle bundle fun b => { b with draining := true }
    else
      (s.updModule bundle module fun x => { x with rate := rate, width := width }).updBundle bundle fun b =>
        { b with draining := false, inService := b.working })

/-! ## Tables and registers (R6, R305, R306, R380) -/

/-- `PEER_SLOT_TABLE_WRITE` (R305): one entry of the table, on every die. -/
def execPeerSlotTableWrite (slot package : Nat) (valid : Bool) (s : State) : Out :=
  .next (s.firmware fun s =>
    if 32 ≤ slot then s else { s with peers := if valid then s.peers.put slot package else s.peers.del slot })

/-- `ADDRESS_SPACE_TABLE_WRITE` (R306). -/
def execAddressSpaceTableWrite (asid root : Nat) (valid : Bool) (s : State) : Out :=
  .next (s.firmware fun s =>
    if 256 ≤ asid then s else { s with roots := if valid then s.roots.put asid root else s.roots.del asid })

/-- `REGISTER_WRITE` (R6, R7, R380, R407): REPLAYTHR is written; the error log is read-only, and a reserved offset ignores writes. -/
def execRegisterWrite (reg : MgmtReg) (value : W64) (s : State) : Out :=
  .next (s.firmware fun s => match reg with
    | .replayThr b m => s.updModule b m fun x => { x with replayThr := value.toNat % 2 ^ 16 }
    | .errorLog _ _ => s
    | .reserved _ => s)

/-! ## Self-refresh and power (R301, R443, R444) -/

/-- `SELF_REFRESH_ENTRY` (R301): a stack of the die that holds it goes to self-refresh and keeps its bytes. -/
def execSelfRefreshEntry (stack : Nat) (s : State) : Out :=
  .next (s.firmware fun s =>
    if 24 ≤ stack then s else s.updDie (stack / 2) fun d => { d with inRefresh := setAdd d.inRefresh stack })

/-- `SELF_REFRESH_EXIT` (R301): requests to the stack go on. -/
def execSelfRefreshExit (stack : Nat) (s : State) : Out :=
  .next (s.firmware fun s => s.updDie (stack / 2) fun d => { d with inRefresh := setDel d.inRefresh stack })

/-- The core clock of every die changes in one fabric cycle (R444). -/
def State.setClock (s : State) (steps : Nat) : State := { s with clockSteps := steps, clockAt := s.now, fabricAt := s.fabric }

/-- `POWER_LIMIT_THROTTLE` (R443): above 11.5 kW the core clock falls by one step of 62.5 MHz, down to 625 MHz. -/
def execPowerLimitThrottle (watts : Nat) (s : State) : Out :=
  .next (if 11500 < watts ∧ s.clockSteps < 10 then s.setClock (s.clockSteps + 1) else s)

/-- `POWER_CLOCK_RESTORE` (R443): after 10 ms below 11.0 kW the core clock rises by one step. -/
def execPowerClockRestore (watts millis : Nat) (s : State) : Out :=
  .next (if watts < 11000 ∧ 10 ≤ millis ∧ 0 < s.clockSteps then s.setClock (s.clockSteps - 1) else s)

end Sys2Proof.Machine
end

