-- ==== Sys2Proof/Machine/Clock.lean ====
section
/-! DEFINITION. The clocks of the dies: notices, requests for acknowledgement and acknowledgements (R332, R337). -/

namespace Sys2Proof.Machine

/-- `CLOCK_NOTICE_TIMER` (R332): a die that has sent causal messages since its last notice sends one to every die. -/
def execClockNoticeTimer (die : Nat) (s : State) : Out := .next (if (s.die die).sinceNotice then s.noticeAll die else s)

/-- Take a message out of an inbox. -/
def State.dropMessage (s : State) (die idx : Nat) : State := s.updDie die fun d => { d with inbox := dropAt d.inbox idx }

/-- Take a notice request or an acknowledgement out of an inbox; its stamp reports what its sender has applied of this die's messages (R332). -/
def State.takeMessage (s : State) (die idx : Nat) (m : Msg) : State :=
  s.updDie die fun d =>
    { d with inbox := dropAt d.inbox idx, lastReport := d.lastReport.set m.src (nth m.stamp die 0#32) }

/-- Every causal message from a die numbered at or below `n` has been applied. -/
def State.noticeReady (s : State) (src die : Nat) (n : W32) : Bool :=
  (s.underWay src die).all fun m => !(m.body.causal && clockAtLeast n (BitVec.ofNat 32 m.seq))

/-- `CLOCK_NOTICE_APPLY` (R332): a notice raises the entry of its sender; a die that is asked for a notice sends one. -/
def execClockNoticeApply (die idx : Nat) (s : State) : Out :=
  .next (match (s.die die).inbox[idx]? with
    | some m =>
      match m.body with
      | .notice n =>
        if !s.noticeReady m.src die n then s
        else s.updDie die fun d =>
          { d with
            inbox := dropAt d.inbox idx
            clock := if clockAtLeast n (nth d.clock m.src 0#32) then d.clock.set m.src n else d.clock }
      | .askNotice => (s.takeMessage die idx m).noticeAll die
      | _ => s
    | none => s)

/-- The entries of a clock that fall short of another, other than the die's own. -/
def State.shortOf (s : State) (die : Nat) (v : List W32) : List Nat :=
  (List.range Config.dies).filter fun k =>
    decide (k ≠ die) && !clockAtLeast (nth (s.die die).clock k 0#32) (nth v k 0#32)

/-- Answer every request that the die's clock has reached (R337). -/
def State.answerAcks (s : State) (die : Nat) : State :=
  let own := (s.die die).clock
  let due (r : AckReq) : Bool := (s.shortOf die r.stamp).isEmpty
  let rs := (s.die die).ackReqs
  let s := s.updDie die fun d => { d with ackReqs := rs.filter fun r => !due r }
  (rs.filter due).foldl (fun (s : State) (r : AckReq) => s.sendPlain die r.fromDie (.ack die r.stamp (nth own r.fromDie 0#32))) s

/-- `CLOCK_ACK_REQUEST` (R337): a die that is asked to acknowledge a clock asks for notices from the dies of which it falls
short, and answers the requests that it has reached. -/
def execClockAckRequest (die idx : Nat) (s : State) : Out :=
  let s : State := match (s.die die).inbox[idx]? with
    | some m =>
      match m.body with
      | .ackRequest v =>
        let s := (s.dropMessage die idx).updDie die fun d => { d with ackReqs := d.ackReqs ++ [{ fromDie := m.src, stamp := v }] }
        (s.shortOf die v).foldl (fun s k => s.sendPlain die k .askNotice) s
      | _ => s
    | none => s
  .next (s.answerAcks die)

/-- `CLOCK_ACK` (R337): an acknowledgement reaches the die that asked for it. -/
def execClockAck (die idx : Nat) (s : State) : Out :=
  .next (match (s.die die).inbox[idx]? with
    | some m =>
      match m.body with
      | .ack e v _ =>
        (s.takeMessage die idx m).updDie die fun d => { d with acked := if d.acked.contains (e, v) then d.acked else d.acked ++ [(e, v)] }
      | _ => s
    | none => s)

end Sys2Proof.Machine
end

