-- ==== Sys2Proof/Machine/Float.lean ====
section
/-! DEFINITION. Floating-point arithmetic, special functions and conversions: majors 0x0B to 0x0F (R157 to R183). -/

namespace Sys2Proof.Machine

/-! ## Elements of a type -/

/-- The format of a type field (R169). -/
def typeFormat (t : BitVec 2) : Format :=
  match t.toNat with
  | 0 => fp32
  | 1 => fp64
  | 2 => fp16
  | _ => bf16

/-- The codes of an operand in a lane: one of 32 bits, one of 64 in a pair, or the two halves of a packed lane (R160, R169). -/
def Ctx.codes (c : Ctx) (t : BitVec 2) (n : BitVec 6) (l : Nat) : List Nat :=
  match t.toNat with
  | 0 => [(c.v n l).toNat]
  | 1 => [(c.v2 n l).toNat]
  | _ => [((c.v n l).extractLsb' 0 16).toNat, ((c.v n l).extractLsb' 16 16).toNat]

/-- The bits of a lane that hold result codes. -/
def packCodes (rs : List Nat) : Nat :=
  match rs with
  | [x] => x
  | [x, y] => x + y * 2 ^ 16
  | _ => 0

/-- Write a floating-point result: in every passing lane the codes that `f` gives with their flags, which all lanes OR into
FPSTAT (R164). -/
def Ctx.floats (c : Ctx) (t : BitVec 2) (d : BitVec 6) (f : Nat → List (Nat × W32)) (s : State) : State :=
  let rs := (List.range 32).map fun l => if bit c.pass l then f l else []
  let s := c.flags (rs.foldl (fun m r => r.foldl (fun m x => m ||| x.2) m) 0#32) s
  let code (l : Nat) : Nat := packCodes ((nth rs l []).map fun x => x.1)
  if t = 1#2 then c.next (c.putV2 s d fun l => BitVec.ofNat 64 (code l))
  else c.vector d (fun l => BitVec.ofNat 32 (code l)) s

/-- A form of one operand. -/
def Ctx.float1 (c : Ctx) (t : BitVec 2) (d a : BitVec 6) (f : Format → Nat → Nat × W32) (s : State) : State :=
  c.floats t d (fun l => (c.codes t a l).map fun x => f (typeFormat t) x) s

/-- A form of two operands. -/
def Ctx.float2 (c : Ctx) (t : BitVec 2) (d a b : BitVec 6) (f : Format → Nat → Nat → Nat × W32) (s : State) : State :=
  c.floats t d (fun l => ((c.codes t a l).zip (c.codes t b l)).map fun x => f (typeFormat t) x.1 x.2) s

/-- A form of two operands and its destination. -/
def Ctx.float3 (c : Ctx) (t : BitVec 2) (d a b : BitVec 6) (f : Format → Nat → Nat → Nat → Nat × W32) (s : State) : State :=
  c.floats t d (fun l =>
    ((c.codes t a l).zip ((c.codes t b l).zip (c.codes t d l))).map fun x => f (typeFormat t) x.1 x.2.1 x.2.2) s

/-! ## Operations on codes (R170 to R172) -/

/-- The sum of two codes, rounded once. -/
def addCode (r : BitVec 2) (f : Format) (x y : Nat) : Nat × W32 :=
  sumRound [.one (f.decode x), .one (f.decode y)] f (RMode.ofBits r)

/-- The difference of two codes, rounded once. -/
def subCode (r : BitVec 2) (f : Format) (x y : Nat) : Nat × W32 :=
  sumRound [.one (f.decode x), .one (f.decode y).negate] f (RMode.ofBits r)

/-- The product of two codes, rounded once. -/
def mulCode (r : BitVec 2) (f : Format) (x y : Nat) : Nat × W32 :=
  sumRound [.prod (f.decode x) (f.decode y)] f (RMode.ofBits r)

/-- The fused product and sum of three codes, rounded once. -/
def fmaCode (r : BitVec 2) (f : Format) (x y z : Nat) : Nat × W32 :=
  sumRound [.prod (f.decode x) (f.decode y), .one (f.decode z)] f (RMode.ofBits r)

/-! ## Majors 0x0B to 0x0D -/

/-- `FADD`. -/
def execFadd (d a b : BitVec 6) (r : BitVec 2) (s : State) : Out :=
  issue (.fadd d a b r) noCheck (fun c => c.float2 0#2 d a b (addCode r)) s

/-- `FSUB`. -/
def execFsub (d a b : BitVec 6) (r : BitVec 2) (s : State) : Out :=
  issue (.fsub d a b r) noCheck (fun c => c.float2 0#2 d a b (subCode r)) s

/-- `FMUL`. -/
def execFmul (d a b : BitVec 6) (r : BitVec 2) (s : State) : Out :=
  issue (.fmul d a b r) noCheck (fun c => c.float2 0#2 d a b (mulCode r)) s

/-- `FMIN`. -/
def execFmin (d a b : BitVec 6) (s : State) : Out :=
  issue (.fmin d a b) noCheck (fun c => c.float2 0#2 d a b fun f x y => (fminCode f x y, 0#32)) s

/-- `FMAX`. -/
def execFmax (d a b : BitVec 6) (s : State) : Out :=
  issue (.fmax d a b) noCheck (fun c => c.float2 0#2 d a b fun f x y => (fmaxCode f x y, 0#32)) s

/-- What `FCMP` does (R173). -/
def Ctx.floatCompare (c : Ctx) (t : BitVec 2) (cc p : BitVec 3) (a b : BitVec 6) (s : State) : State :=
  let r (l : Nat) : Bool × W32 :=
    fcmpCode (typeFormat t) cc.toNat (packCodes (c.codes t a l)) (packCodes (c.codes t b l))
  let s := c.flags ((lanesOf c.pass).foldl (fun m l => m ||| (r l).2) 0#32) s
  c.predicate (p.setWidth 6) (fun l => (r l).1) s

/-- `FCMP.cc`. -/
def execFcmp (cc p : BitVec 3) (a b : BitVec 6) (s : State) : Out :=
  issue (.fcmp cc p a b) noCheck (fun c => c.floatCompare 0#2 cc p a b) s

/-- `FNEG`. -/
def execFneg (d a : BitVec 6) (s : State) : Out :=
  issue (.fneg d a) noCheck (fun c => c.float1 0#2 d a fun f x => (fnegCode f x, 0#32)) s

/-- `FABS`. -/
def execFabs (d a : BitVec 6) (s : State) : Out :=
  issue (.fabs d a) noCheck (fun c => c.float1 0#2 d a fun f x => (fabsCode f x, 0#32)) s

/-- `FCLAMP`: the destination between the bounds a and b. -/
def execFclamp (d a b : BitVec 6) (s : State) : Out :=
  issue (.fclamp d a b) noCheck (fun c => c.float3 0#2 d a b fun f lo hi x => (fclampCode f x lo hi, 0#32)) s

/-- The sum of two products and the destination, rounded once into FP32 (R171). -/
def dot2 (r : BitVec 2) (f : Format) (a b : List Nat) (z : Nat) : Nat × W32 :=
  let prods := (a.zip b).map fun x => Term.prod (f.decode x.1) (f.decode x.2)
  sumRound (prods ++ [.one (fp32.decode z)]) fp32 (RMode.ofBits r)

/-- `FDOT2`. -/
def execFdot2 (d a b : BitVec 6) (r : BitVec 2) (s : State) : Out :=
  issue (.fdot2 d a b r) noCheck (fun c =>
    let two (n : BitVec 6) (l : Nat) : List Nat := [(c.v n l).toNat, (c.th.lane (n.toNat + 1) l).toNat]
    c.floats 0#2 d fun l => [dot2 r fp32 (two a l) (two b l) (c.v d l).toNat]) s

/-- `FROUND`. -/
def execFround (d a : BitVec 6) (r : BitVec 2) (s : State) : Out :=
  issue (.fround d a r) noCheck (fun c => c.float1 0#2 d a fun f x => (froundCode f x (RMode.ofBits r), 0#32)) s

/-- What `FSCALE` does: the same power of two for both halves of a packed form (R174). -/
def Ctx.scale (c : Ctx) (t : BitVec 2) (d a b : BitVec 6) (r : BitVec 2) (s : State) : State :=
  c.floats t d (fun l => (c.codes t a l).map fun x => fscaleCode (typeFormat t) x (c.v b l).toInt (RMode.ofBits r)) s

/-- `FSCALE`. -/
def execFscale (d a b : BitVec 6) (r : BitVec 2) (s : State) : Out :=
  issue (.fscale d a b r) noCheck (fun c => c.scale 0#2 d a b r) s

/-- `FADD` of major 0x0C. -/
def execFaddT (d a b : BitVec 6) (t r : BitVec 2) (s : State) : Out :=
  issue (.faddT d a b t r) noCheck (fun c => c.float2 t d a b (addCode r)) s

/-- `FSUB` of major 0x0C. -/
def execFsubT (d a b : BitVec 6) (t r : BitVec 2) (s : State) : Out :=
  issue (.fsubT d a b t r) noCheck (fun c => c.float2 t d a b (subCode r)) s

/-- `FMUL` of major 0x0C. -/
def execFmulT (d a b : BitVec 6) (t r : BitVec 2) (s : State) : Out :=
  issue (.fmulT d a b t r) noCheck (fun c => c.float2 t d a b (mulCode r)) s

/-- `FMIN` of major 0x0C. -/
def execFminT (d a b : BitVec 6) (t : BitVec 2) (s : State) : Out :=
  issue (.fminT d a b t) noCheck (fun c => c.float2 t d a b fun f x y => (fminCode f x y, 0#32)) s

/-- `FMAX` of major 0x0C. -/
def execFmaxT (d a b : BitVec 6) (t : BitVec 2) (s : State) : Out :=
  issue (.fmaxT d a b t) noCheck (fun c => c.float2 t d a b fun f x y => (fmaxCode f x y, 0#32)) s

/-- `FCMP.f64.cc`. -/
def execFcmpF64 (cc p : BitVec 3) (a b : BitVec 6) (s : State) : Out :=
  issue (.fcmpF64 cc p a b) noCheck (fun c => c.floatCompare 1#2 cc p a b) s

/-- `FNEG` of major 0x0C. -/
def execFnegT (d a : BitVec 6) (t : BitVec 2) (s : State) : Out :=
  issue (.fnegT d a t) noCheck (fun c => c.float1 t d a fun f x => (fnegCode f x, 0#32)) s

/-- `FABS` of major 0x0C. -/
def execFabsT (d a : BitVec 6) (t : BitVec 2) (s : State) : Out :=
  issue (.fabsT d a t) noCheck (fun c => c.float1 t d a fun f x => (fabsCode f x, 0#32)) s

/-- `FCLAMP` of major 0x0C. -/
def execFclampT (d a b : BitVec 6) (t : BitVec 2) (s : State) : Out :=
  issue (.fclampT d a b t) noCheck (fun c => c.float3 t d a b fun f lo hi x => (fclampCode f x lo hi, 0#32)) s

/-- `FDOT2.f16x2` and `FDOT2.bf16x2`. -/
def execFdot2Packed (d a b : BitVec 6) (t : BitVec 1) (r : BitVec 2) (s : State) : Out :=
  issue (.fdot2Packed d a b t r) noCheck (fun c =>
    let k : BitVec 2 := if t = 1#1 then 3#2 else 2#2
    c.floats 0#2 d fun l => [dot2 r (typeFormat k) (c.codes k a l) (c.codes k b l) (c.v d l).toNat]) s

/-- `FROUND` of major 0x0C. -/
def execFroundT (d a : BitVec 6) (t r : BitVec 2) (s : State) : Out :=
  issue (.froundT d a t r) noCheck (fun c => c.float1 t d a fun f x => (froundCode f x (RMode.ofBits r), 0#32)) s

/-- `FSCALE` of major 0x0C. -/
def execFscaleT (d a b : BitVec 6) (t r : BitVec 2) (s : State) : Out :=
  issue (.fscaleT d a b t r) noCheck (fun c => c.scale t d a b r) s

/-- `FFMA`. -/
def execFfma (d a b : BitVec 6) (t r : BitVec 2) (s : State) : Out :=
  issue (.ffma d a b t r) noCheck (fun c => c.float3 t d a b (fmaCode r)) s

/-! ## Major 0x0E -/

/-- `EXP2` (R176). -/
def execExp2 (d a : BitVec 6) (s : State) : Out :=
  issue (.exp2 d a) noCheck (fun c => c.float1 0#2 d a fun _ x => exp2Code x) s

/-- `LG2` (R177). -/
def execLg2 (d a : BitVec 6) (s : State) : Out :=
  issue (.lg2 d a) noCheck (fun c => c.float1 0#2 d a fun _ x => lg2Code x) s

/-- `RCP` (R175). -/
def execRcp (d a : BitVec 6) (r : BitVec 2) (s : State) : Out :=
  issue (.rcp d a r) noCheck (fun c => c.float1 0#2 d a fun _ x => rcpCode x (RMode.ofBits r)) s

/-- `RSQ` (R175). -/
def execRsq (d a : BitVec 6) (r : BitVec 2) (s : State) : Out :=
  issue (.rsq d a r) noCheck (fun c => c.float1 0#2 d a fun _ x => rsqCode x (RMode.ofBits r)) s

/-- `SQRT` (R175). -/
def execSqrt (d a : BitVec 6) (r : BitVec 2) (s : State) : Out :=
  issue (.sqrt d a r) noCheck (fun c => c.float1 0#2 d a fun _ x => sqrtCode x (RMode.ofBits r)) s

/-! ## Major 0x0F -/

/-- The rounding mode of a convert MOD (R161). -/
def cvtMode (m : BitVec 4) : RMode := if m = 4#4 then .sr else RMode.ofBits (m.setWidth 2)

/-- The range of an integer type of `CVT` (R178). -/
def cvtRange (t : Nat) : Int × Int :=
  match t with
  | 4 => (-(2 ^ 31), 2 ^ 31 - 1)
  | 5 => (0, 2 ^ 32 - 1)
  | 6 => (-(2 ^ 63), 2 ^ 63 - 1)
  | _ => (0, 2 ^ 64 - 1)

/-- The format of a floating-point type of `CVT` (R178). -/
def cvtFormat (t : Nat) : Format :=
  match t with
  | 0 => fp32
  | 1 => fp64
  | 2 => fp16
  | _ => bf16

/-- The value that a `CVT` source holds in a lane: as an integer, or as a floating-point value. -/
def cvtSource (t : Nat) (raw : W64) : Int ⊕ Num :=
  match t with
  | 4 => .inl (raw.setWidth 32 : W32).toInt
  | 5 => .inl ((raw.setWidth 32 : W32).toNat : Int)
  | 6 => .inl raw.toInt
  | 7 => .inl (raw.toNat : Int)
  | 2 => .inr (fp16.decode (raw.toNat % 65536))
  | 3 => .inr (bf16.decode (raw.toNat % 65536))
  | 1 => .inr (fp64.decode raw.toNat)
  | _ => .inr (fp32.decode (raw.toNat % 2 ^ 32))

/-- One conversion (R166, R167, R178). -/
def cvtCode (dst : Nat) (x : Int ⊕ Num) (mode : RMode) (draw : Nat) : W64 × W32 :=
  if dst ≥ 4 then
    let (lo, hi) := cvtRange dst
    match x with
    | .inl v => (BitVec.ofInt 64 (max lo (min v hi)), if v < lo ∨ v > hi then flagNV else 0#32)
    | .inr v => let (n, f) := cvtInt v lo hi mode; (BitVec.ofInt 64 n, f)
  else
    let (n, f) := match x with
      | .inl v => convert (numOfInt v) (cvtFormat dst) mode draw
      | .inr v => convert v (cvtFormat dst) mode draw
    (BitVec.ofNat 64 n, f)

/-- The generator states after `k` draws in each passing lane, and the draws (R165): none where the mode is not stochastic. -/
def Ctx.draws (c : Ctx) (mode : RMode) (k : Nat) : List W32 × List (List Nat) :=
  if mode = .sr then
    let each := (List.range 32).map fun l =>
      let g := nth c.th.gen l 1#32
      if bit c.pass l then
        (List.range k).foldl (fun (acc : W32 × List Nat) _ =>
          let x := drawStep acc.1
          (x, acc.2 ++ [(x >>> 16).toNat])) (g, [])
      else (g, [])
    (each.map fun x => x.1, each.map fun x => x.2)
  else (c.th.gen, [])

/-- Keep the generators that a conversion leaves. -/
def Ctx.setGen (c : Ctx) (g : List W32) (s : State) : State := s.updThread c.k c.a fun t => { t with gen := g }

/-- The draw of an element of a lane. -/
def drawOf (ds : List (List Nat)) (l k : Nat) : Nat := nth (nth ds l []) k 0

/-- `CVT` (R178). -/
def execCvt (d a : BitVec 6) (x y : BitVec 3) (m : BitVec 4) (s : State) : Out :=
  issue (.cvt d a x y m) noCheck (fun c s =>
    let mode := cvtMode m
    let (g, ds) := c.draws mode 1
    let raw (l : Nat) : W64 := if cvtCount y = 2 then c.v2 a l else (c.v a l).setWidth 64
    let r (l : Nat) : W64 × W32 := cvtCode x.toNat (cvtSource y.toNat (raw l)) mode (drawOf ds l 0)
    let s := c.flags ((lanesOf c.pass).foldl (fun m l => m ||| (r l).2) 0#32) (c.setGen g s)
    if cvtCount x = 2 then c.next (c.putV2 s d fun l => (r l).1)
    else c.vector d (fun l => (r l).1.setWidth 32) s) s

/-- A narrow type (R179): a floating-point format, or an integer of a width, signed or not. -/
inductive Narrow where
  | float (f : Format)
  | int (bits : Nat) (signed : Bool)
  deriving DecidableEq, Repr

/-- The narrow type of a code (R179). -/
def narrowOf (t : Nat) : Narrow :=
  match t with
  | 0 => .float fp16
  | 1 => .float bf16
  | 2 => .int 16 true
  | 3 => .int 16 false
  | 4 => .float e4m3
  | 5 => .float e5m2
  | 6 => .float e2m3
  | 7 => .float e3m2
  | 8 => .int 8 true
  | 9 => .int 8 false
  | 10 => .float e2m1
  | 11 => .float e2m1
  | 12 => .int 4 true
  | 13 => .int 4 true
  | 14 => .int 4 false
  | _ => .int 4 false

/-- The range of an integer of a width. -/
def intRange (bits : Nat) (signed : Bool) : Int × Int :=
  if signed then (-(2 ^ (bits - 1) : Nat), (2 ^ (bits - 1) : Nat) - 1) else (0, (2 ^ bits : Nat) - 1)

/-- An FP32 code converted to a narrow type (R166, R167, R180). -/
def narrowCode (n : Narrow) (x : W32) (mode : RMode) (draw : Nat) : Nat × W32 :=
  let v := fp32.decode x.toNat
  match n with
  | .float f => convert v f mode draw
  | .int bits signed =>
    let (lo, hi) := intRange bits signed
    let (k, f) := cvtInt v lo hi mode
    ((BitVec.ofInt bits k).toNat, f)

/-- The bits of an element of a pack or widen form: 16, 8 or 4 (R179). -/
def narrowBits (t : Nat) : Nat := if t ≤ 3 then 16 else if t ≤ 9 then 8 else 4

/-- A form writes or reads the upper nibbles (R179). -/
def narrowHigh (t : Nat) : Bool := decide (t = 11) || decide (t = 13) || decide (t = 15)

/-- What `CVTPK2` and `CVTPK4` do with `n` sources (R180): a whole lane, or half of one. -/
def Ctx.packNarrow (c : Ctx) (d a t : BitVec 6) (m : BitVec 4) (n : Nat) (s : State) : State :=
  let mode := cvtMode m
  let w := narrowBits t.toNat
  let (g, ds) := c.draws mode n
  let r (l k : Nat) : Nat × W32 := narrowCode (narrowOf t.toNat) (c.th.lane (a.toNat + k) l) mode (drawOf ds l k)
  let word (l : Nat) : Nat := (List.range n).foldl (fun acc k => acc + (r l k).1 * 2 ^ (w * k)) 0
  let fl := (lanesOf c.pass).foldl (fun m l => (List.range n).foldl (fun m k => m ||| (r l k).2) m) 0#32
  let s := c.flags fl (c.setGen g s)
  if w = 4 then
    let keep (l : Nat) : W32 := nth ((s.thread c.k c.a).vreg d.toNat).val l 0#32
    if narrowHigh t.toNat then
      c.next (c.putVPart s d.toNat fun l => (keep l &&& 0xFFFF#32) ||| BitVec.ofNat 32 (word l * 65536))
    else c.next (c.putVPart s d.toNat fun l => (keep l &&& 0xFFFF0000#32) ||| BitVec.ofNat 32 (word l))
  else c.vector d (fun l => BitVec.ofNat 32 (word l)) s

/-- `CVTPK2` (R180). -/
def execCvtpk2 (d a t : BitVec 6) (m : BitVec 4) (s : State) : Out :=
  issue (.cvtpk2 d a t m) noCheck (fun c => c.packNarrow d a t m 2) s

/-- `CVTPK4` (R180). -/
def execCvtpk4 (d a t : BitVec 6) (m : BitVec 4) (s : State) : Out :=
  issue (.cvtpk4 d a t m) noCheck (fun c => c.packNarrow d a t m 4) s

/-- A narrow element as 32 bits (R181). -/
def widenCode (n : Narrow) (x : Nat) : W32 :=
  match n with
  | .float f => BitVec.ofNat 32 (convert (f.decode (x % 2 ^ f.bits)) fp32 .rne 0).1
  | .int bits signed => if signed then (BitVec.ofNat bits x).signExtend 32 else BitVec.ofNat 32 x

/-- `CVTWIDE` (R181). -/
def execCvtwide (d a t : BitVec 6) (s : State) : Out :=
  issue (.cvtwide d a t) noCheck (fun c s =>
    let w := narrowBits t.toNat
    let n := if w = 16 then 2 else 4
    let base := if narrowHigh t.toNat then 4 else 0
    let elem (l k : Nat) : Nat := (c.v a l).toNat >>> (w * (base + k)) % 2 ^ w
    c.next ((List.range n).foldl (fun s k =>
      c.putV s (d.toNat + k) fun l => widenCode (narrowOf t.toNat) (elem l k)) s)) s

/-- `emax` of a type (R179). -/
def emaxOf (t : Nat) : Int :=
  match t with
  | 4 => 8
  | 5 => 15
  | 6 => 2
  | 7 => 4
  | _ => 2

/-- The scale code of values (R182). -/
def mxScale (t : Nat) (xs : List Num) : Nat :=
  if xs.any fun x => x.isNan || x.isInf then 0xFF
  else
    let tops := xs.filterMap fun x => match x with
      | .fin _ m e => some ((Nat.log2 m : Int) + e)
      | _ => none
    match tops with
    | [] => 0
    | x :: rest => (max 0 (min (rest.foldl max x - emaxOf t + 127) 254)).toNat

/-- `MXSCALE` (R182). -/
def execMxscale (d a t : BitVec 6) (s : State) : Out :=
  issue (.mxscale d a t) noCheck (fun c =>
    let k := mxScale t.toNat ((lanesOf c.pass).map fun l => fp32.decode (c.v a l).toNat)
    c.vector d fun _ => BitVec.ofNat 32 k) s

/-- `MXQ` (R183). -/
def execMxq (d a t : BitVec 6) (m : BitVec 4) (s : State) : Out :=
  issue (.mxq d a t m) noCheck (fun c s =>
    let mode := cvtMode m
    let (g, ds) := c.draws mode 1
    match narrowOf t.toNat with
    | .int _ _ => c.next s
    | .float f =>
      let r (l : Nat) : Nat × W32 := mxqCode (c.v a l).toNat ((c.v d l).toNat % 256) f mode (drawOf ds l 0)
      let s := c.flags ((lanesOf c.pass).foldl (fun m l => m ||| (r l).2) 0#32) (c.setGen g s)
      c.vector d (fun l => BitVec.ofNat 32 (r l).1) s) s

end Sys2Proof.Machine
end

