-- ==== Sys2Proof/Machine/Kv.lean ====
section
/-! DEFINITION. The KV cache: major 0x22 (R256 to R259). -/

namespace Sys2Proof.Machine

/-- The pool that an instruction of major 0x22 names. -/
def Ctx.poolOf (c : Ctx) (b : BitVec 6) (s : State) : Pool :=
  (s.pools.find (c.s b).toNat).getD
    { base := 0, tbase := 0, flbase := 0, bbytes := 0, pstride := 0, nblk := 0, nseq := 0, maxblk := 0, bshift := 0, home := 0,
      enable := false, flhead := 0#32, fltail := 0#32 }

/-- The number of the pool that `KVAPPEND` names: its `sB`. -/
def Ctx.kvPool (c : Ctx) : Nat :=
  match c.instr with
  | .kvappend _ _ b => (c.s b).toNat
  | _ => 0

/-- The sequence of a lane. -/
def Ctx.kvSeq (c : Ctx) (a : BitVec 6) (i : Nat) : Nat := (c.v a i).toNat

/-- The position of a lane. -/
def Ctx.kvPos (c : Ctx) (a : BitVec 6) (i : Nat) : Nat := (c.th.lane (a.toNat + 1) i).toNat

/-- A lane is in range (R256). -/
def Ctx.kvInRange (c : Ctx) (p : Pool) (a : BitVec 6) (i : Nat) : Bool :=
  decide (c.kvSeq a i < p.nseq) && decide (c.kvPos a i / 2 ^ p.bshift < p.maxblk)

/-- The address of a lane's entry (R256). -/
def Ctx.kvEntry (c : Ctx) (p : Pool) (a : BitVec 6) (i : Nat) : W64 :=
  BitVec.ofNat 64 (p.tbase + 4 * (c.kvSeq a i * p.maxblk + c.kvPos a i / 2 ^ p.bshift))

/-- The lanes, of those that pass, that are out of range. -/
def Ctx.kvOutside (c : Ctx) (p : Pool) (a : BitVec 6) : W32 := maskOf fun i => bit c.pass i && !c.kvInRange p a i

/-- An access to the entries of lanes, of traffic class 2 (R297). -/
def Ctx.kvAsk (c : Ctx) (kind : AccessKind) (path : Path) (dests : List (RegRef × W32)) (lanes : List Nat) (p : Pool) (a : BitVec 6)
    (op : Nat → ElemOp) : Ask :=
  { kind := kind, path := path, size := 2, dests := dests,
    wants := lanes.map fun i => { lane := i, va := c.kvEntry p a i, nib := 0, op := op i }, lanes := c.pass,
    taint := c.taint, cls := 2 }

/-- What `KVXL` asks for: the entries of the lanes in range, and what each lane adds to its block's place (R257). -/
def Ctx.kvxlAsk (c : Ctx) (d a b : BitVec 6) (s : State) : Ask :=
  let p := c.poolOf b s
  let dests := ((regs d 2).map fun n => (RegRef.v n, c.pass)) ++ [(RegRef.p 4, c.pass)]
  { c.kvAsk .kvxl .gl dests ((lanesOf c.pass).filter fun i => c.kvInRange p a i) p a (fun _ => .read) with
    dst := (c.s b).toNat
    extra := (List.range 32).map fun i => BitVec.ofNat 64 (p.base + c.kvPos a i % 2 ^ p.bshift * p.pstride) }

/-- `KVXL` (R257). -/
def execKvxl (d a b : BitVec 6) (s : State) : Out :=
  issueWith (.kvxl d a b) (poolCheck b) (fun c s => c.access (c.kvxlAsk d a b s) s)
    (fun c h s => c.aheadLoad (c.kvxlAsk d a b s) h s) s

/-- `KVMAP` (R259). -/
def execKvmap (d a b : BitVec 6) (s : State) : Out :=
  issue (.kvmap d a b) (poolCheck b) (fun c s =>
    let p := c.poolOf b s
    let bad := maskOf fun i => bit c.pass i &&
      (decide (2 ^ 24 ≤ (c.v d i).toNat) || decide (p.nblk ≤ (c.v d i).toNat) || !c.kvInRange p a i)
    if bad ≠ 0#32 then c.trapWith 8#8 3#8 bad s
    else
      c.access (c.kvAsk .kvmap .gs [] (lanesOf c.pass) p a fun i =>
        .kv (BitVec.ofNat 32 (c.core.vid * 2 ^ 24) ||| c.v d i)) s) s

/-! ## `KVAPPEND` (R258) -/

/-- The step of a group may be taken now: the warp's earlier writes to the line have been performed (R258, R327). -/
def Ctx.kvReady (c : Ctx) (s : State) (r : LineReq) : Bool :=
  (c.th.inflight.all fun x => x.reqs.all fun q => decide (q.line ≠ r.line) || !(decide (q.st = .pending) || decide (q.st = .sent))) &&
    s.instantReady r.die (homeDie (r.line * 128)) && s.viewReady r.die (r.line * 128) && s.popReady c.kvPool &&
    decide (s.peerMissing r = 0#4) && decide (s.mergeNeeds (r.line * 128) = 0#4)

/-- The lanes that still have to be served, by entry, the lowest lane leading. -/
def Ctx.kvGroups (c : Ctx) (p : Pool) (a : BitVec 6) (lanes : List Nat) : List (List Nat) :=
  let leaders := lanes.filter fun i => !(lanes.any fun j => decide (j < i) && decide (c.kvEntry p a j = c.kvEntry p a i))
  leaders.map fun i => lanes.filter fun j => decide (c.kvEntry p a j = c.kvEntry p a i)

/-- One group at its home slice: the block mapped there, popped where there was none; 0 where the list is empty. -/
def Ctx.kvStep (c : Ctx) (pool : Nat) (q : Ask) (tag : Nat) (e : TlbEntry) (va : W64) (s : State) : State × Nat × Bool :=
  let pa := e.phys (vaNat va)
  let r := c.request q tag e (pa / 128)
  let (s, x) := s.performReq { r with elems := [engineElem pa 2 .read] } c.k c.a
  let (old, bad) := match x.elems with | y :: _ => (y.got.toNat % 2 ^ 24, y.poison) | [] => (0, false)
  if old ≠ 0 then (s, old, bad)
  else
    let (s, b) := s.popFor c.core pool
    if b = 0 then (s, 0, bad)
    else
      let s := s.instantMessage r.die (homeDie pa)
      let (s, _) := s.performReq { r with elems := [engineElem pa 2 (.put (BitVec.ofNat 128 (c.core.vid * 2 ^ 24 + b)))] } c.k c.a
      (s, b, bad)

/-- Serve groups until the list is empty: the lanes served with what they receive, and the lanes left over. -/
def Ctx.kvServe (c : Ctx) (pool : Nat) (q : Ask) (tag : Nat) (f : Found) (p : Pool) (a : BitVec 6) (groups : List (List Nat))
    (s : State) : State × List (Nat × Nat × Bool) × List Nat :=
  match groups with
  | [] => (s, [], [])
  | g :: rest =>
    match g with
    | [] => c.kvServe pool q tag f p a rest s
    | i :: _ =>
      match f.entry i with
      | none => c.kvServe pool q tag f p a rest s
      | some e =>
        match c.kvStep pool q tag e (c.kvEntry p a i) s with
        | (s, 0, _) => (s, [], (g :: rest).flatten)
        | (s, b, bad) =>
          let (s, done, left) := c.kvServe pool q tag f p a rest s
          (s, (g.map fun j => (j, b, bad)) ++ done, left)

/-- The outstanding access of the lanes served: the blocks are on their way to them. -/
def Ctx.kvServed (c : Ctx) (d : BitVec 6) (q : Ask) (f : Found) (done : List (Nat × Nat × Bool)) (s : State) : State :=
  let tag := s.seq
  let m := maskOf fun i => done.any fun x => decide (x.1 = i)
  let rs := (q.wants.foldl (fun rs w =>
    match f.entry w.lane, done.find? fun x => decide (x.1 = w.lane) with
    | some e, some (_, b, bad) =>
      let pa := e.phys (vaNat w.va)
      addElem (c.request q tag e) false (pa / 128) { w.elem 2 pa with va := vaNat w.va, got := BitVec.ofNat 128 b, poison := bad } rs
    | _, _ => rs) []).map fun r =>
      let h := homeDie (r.line * 128)
      { r with st := if h = r.die then .answered else .replied h (s.clockOf h) }
  let x := { c.outstanding q tag with reqs := rs, dests := [(.v d.toNat, m)], lanes := m }
  c.writesIssue q tag rs (c.append x s)

/-- Go on with the lanes that have a page (R258). -/
def Ctx.kvGo (c : Ctx) (d a b : BitVec 6) (q : Ask) (f : Found) (split : Bool) (s : State) : State :=
  let p := c.poolOf b s
  let pool := (c.s b).toNat
  let lanes := (lanesOf c.pass).filter fun i => (f.entry i).isSome
  let (s, done, left) := c.kvServe pool q s.seq f p a (c.kvGroups p a lanes) s
  let s := if done = [] then s else c.kvServed d q f done s
  if left = [] then (if split then c.nextAfterSplit s else c.next s)
  else
    let (s, gone) := s.splitFragment c.k c.a c.iss.slot (maskOf fun i => left.contains i) 0x21#8 (BitVec.ofNat 64 pool) c.iss.pc
    if gone then c.nextAfterSplit s else s

/-- What `KVAPPEND` does after its own checks (R187, R258). -/
def Ctx.kvAppend (c : Ctx) (d a b : BitVec 6) (s : State) : State :=
  let p := c.poolOf b s
  let q := c.kvAsk .kvappend .gl [] (lanesOf c.pass) p a fun _ => .kv 0#32
  let asid := c.core.launch.asid
  let (s, f) := s.translateAll c.k asid .write q.wants
  match f.fatal with
  | some (e, va) =>
    if c.core.squashed then s.discardFault c.k c.a
    else c.next (c.append { c.outstanding q s.seq with stuck := true } (s.reportFatal c.k c.a e c.iss.pc va 0#8))
  | none =>
    let plain := c.plainLanes q f
    let gone := f.absentLanes
    let rs := (c.requests q s.seq f).2
    match rs.find? fun r => !c.kvReady s r with
    | some r =>
      let need := s.peerMissing r ||| s.mergeNeeds (r.line * 128)
      c.wait .structural (if need = 0#4 then s else s.askPeer r.line need r.tag)
    | none =>
      if f.pending ≠ [] then c.wait .structural s
      else if gone = 0#32 then
        (if plain ≠ 0#32 then c.trapWith 0x0B#8 0#8 plain s else c.kvGo d a b q f false s)
      else
        let page := match f.absent with | x :: _ => x.2 | [] => 0
        let frag := ((s.core? c.k).bind Core.nextFragment).map fun i => (c.k, i)
        let (s, left) := s.splitFragment c.k c.a c.iss.slot gone 0x20#8 (pageKey asid page) c.iss.pc
        let s := if left then s.requestPages (dieOfCore c.k) asid f frag else s
        if !left then s
        else if plain ≠ 0#32 then (c.trapWith 0x0B#8 0#8 plain s).settle c.k c.a
        else c.kvGo d a b q f true s

/-- `KVAPPEND` (R258). -/
def execKvappend (d a b : BitVec 6) (s : State) : Out :=
  issue (.kvappend d a b) (poolCheck b) (fun c s =>
    c.unlessRedundant (fun s =>
      let bad := c.kvOutside (c.poolOf b s) a
      if c.th.counter .gl ≥ Config.counterLimit then c.wait .structural s
      else if bad ≠ 0#32 then c.trapWith 8#8 3#8 bad s
      else c.kvAppend d a b s) s) s

end Sys2Proof.Machine
end

