-- ==== Sys2Proof/Machine/Reset.lean ====
section
/-! DEFINITION. Resets, boot, attestation and the security alarm (R301, R445 to R447, R449 to R451). -/

namespace Sys2Proof.Machine

/-! ## Management requests (R446, R449, R451) -/

/-- A path to the management endpoint answers: I3C always, PCIe only while the part answers there (R451). -/
def State.pathOpen (s : State) (path : MgmtPath) : Bool := decide (path = .i3c) || s.hostReady

/-- Send an answer of the management endpoint, which goes out over I3C even in a fatal stop (R408). -/
def State.answerMgmt (s : State) (o : HostOut) : State := { s with host := { s.host with out := s.host.out ++ [o] } }

/-- The measurements that the part reports (R449): of the mask ROM and the fused policy; of the firmware image and its security version while one runs. -/
def State.measurements (s : State) : List Measurement :=
  [.rom Config.romMeasurement] ++
    (match s.image with | some x => [.image (Config.imageMeasurement x.digest), .version x.version] | none => []) ++
    [.policy Config.policyMeasurement]

/-- `SPDM_REQUEST` (R449, R450): an answer signed with the identity key, whose bytes are free, with the measurements that were asked for; an error once the keys
are erased. -/
def execSpdmRequest (path : MgmtPath) (request : SpdmRequest) (s : State) : Out :=
  .next (if !s.pathOpen path then s
    else if s.keysErased then s.answerMgmt (.spdm path request none)
    else ({ s with free := s.free + 1 } : State).answerMgmt (.spdm path request (some
      { measurements := match request with | .measurements => s.measurements | .certificate => []
        signature := Config.freeSignature s.free })))

/-! ## Warm reset (R301, R445) -/

/-- Write every dirty sector of every slice back (R301). -/
def State.writeBackAll (s : State) : State :=
  (List.range Config.dies).foldl (fun s d =>
    (s.die d).slices.foldl (fun s sl =>
      sl.2.ways.foldl (fun s w => if w.2.kind = .home then s.writeBack w.2 else s) s) s) s

/-- What a die keeps over a warm reset (R60, R81, R396, R445): the error log, the dump region and its clock. DEDUCED, log 109: `owns` are the dies' own entries; a
causal message that the reset ends on its way counts as arrived, and no report of it is due. -/
def Die.warm (d : Die) (e : Nat) (owns : List W32) : Die :=
  { Die.reset with
    errlog := d.errlog, dumpBase := d.dumpBase, dumpSize := d.dumpSize, clock := owns, lastReport := List.replicate 12 (nth owns e 0#32) }

/-- What a felt keeps over a warm reset: its training, which the link registers show (R77, R445). -/
def Bundle.warm (b : Bundle) : Bundle :=
  { b with modules := b.modules.map fun x =>
      { x with crcErr := 0, replayWin := 0, replayThr := 256, overThr := false, retrans := [0, 0], bad := [] } }

/-- A request over UALink that writes a sector back, which a warm reset lets finish. -/
def UaOut.isWriteback (o : UaOut) : Bool :=
  match o.what with
  | .writeback _ _ _ _ => true
  | _ => false

/-- The cells of memory that are the host's: a reset of the part does not touch them (R304). -/
def hostCells (m : Mem) : Mem := m.filter fun c => isHost c.1

/-- The machine after a cold reset (R445): every item returns to its reset value; the erasure of keys is irreversible (R450). -/
def State.afterCold (s : State) : State :=
  { State.reset with
    mem := hostCells s.mem, poison := s.poison.filter fun sec => isHost (32 * sec)
    ualink := { State.reset.ualink with ident := s.ualink.ident, nextId := s.ualink.nextId }
    host := s.host, clockAt := s.now, fabricAt := s.fabric, keysErased := s.keysErased, resetAt := s.now, now := s.now
    nextGrid := s.nextGrid, seq := s.seq, plan := s.plan, free := s.free }

/-- The machine after a warm reset (R301, R445): memory after every dirty sector has been written back, the training of the links, the error log,
the dump regions, the clocks and what the firmware keeps; everything else as after cold reset. -/
def State.afterWarm (s : State) : State :=
  let w := s.writeBackAll
  let owns := (List.range Config.dies).map fun j => nth (w.die j).clock j 0#32
  { State.reset with
    mem := w.mem, poison := w.poison, dies := (List.range Config.dies).map fun e => (w.die e).warm e owns, roots := w.roots
    felts := w.felts.map Bundle.warm
    ualink := ({ State.reset.ualink with
      portsUp := w.ualink.portsUp, ident := w.ualink.ident, nextId := w.ualink.nextId, out := w.ualink.out.filter UaOut.isWriteback
      answers := w.ualink.answers, draining := w.ualink.draining } : Ualink).settlePorts
    host := w.host, boot := w.boot, image := w.image, clockAt := w.now, fabricAt := w.fabric, keysErased := w.keysErased
    resetAt := w.now, now := w.now, nextGrid := w.nextGrid, seq := w.seq, plan := w.plan, free := w.free }

/-- A warm reset (R408, R445, R446): it ends a fatal stop, and the part reports ready on PCIe again, unless it is in recovery. One that comes
while the part boots is merged into the cold reset that it boots from, which begins again where a fatal stop has ended it. -/
def State.warmReset (s : State) : State :=
  match s.boot with
  | .step _ => if s.stopped then s.afterCold else s
  | .recovery => s.afterWarm
  | .ready => s.afterWarm.toHost .ready

/-- `WARM_RESET` (R301, R445). -/
def execWarmReset (s : State) : Out := .next s.warmReset

/-- `RSTREQ_WRITE` (R446): the magic value asks for a warm reset. -/
def execRstreqWrite (value : W32) (s : State) : Out :=
  .next (s.byHost fun s => if value = 0x57525354#32 then s.warmReset else s)

/-- `MCTP_WARM_RESET_REQUEST` (R446, R451): the request is answered, and the warm reset begins. -/
def execMctpWarmResetRequest (path : MgmtPath) (s : State) : Out :=
  .next (if s.pathOpen path then (s.answerMgmt (.mctpAnswer path)).warmReset else s)

/-! ## Cold reset and boot (R445, R447) -/

/-- `COLD_RESET` (R445, R447). -/
def execColdReset (s : State) : Out := .next s.afterCold

/-- `BOOT_IMAGE_TIMEOUT` (R447): the I3C path has reported no image, and the host path is used. -/
def execBootImageTimeout (s : State) : Out := .next (if s.boot = .step 1 then { s with boot := .step 2 } else s)

/-- The boot sequence, or recovery, takes an image from a path (R447). -/
def State.takesImage (s : State) (path : MgmtPath) : Bool :=
  match s.boot with
  | .step n => if n = 1 then decide (path = .i3c) else decide (path = .pcie)
  | .recovery => true
  | .ready => false

/-- An image is accepted: both signatures verify, and its security version is not too old (R447). -/
def imageOk (image : FirmwareImage) : Bool := image.ecdsaOk && image.lmsOk && decide (Config.fusedMinimumVersion ≤ image.version)

/-- Steps 3 to 6 of the boot (R447): the image runs on every die, HBM is scrubbed with clear, the felts and UALink are trained, the image writes the peer-slot
tables, and the part reports ready. -/
def State.bootUp (s : State) (image : FirmwareImage) : State :=
  ({ s with
     mem := hostCells s.mem, poison := s.poison.filter fun sec => isHost (32 * sec), felts := List.replicate 16 Bundle.reset
     ualink := { s.ualink with portsUp := List.range 18 }, boot := .ready, image := some image
     peers := (image.peers.filter fun x => decide (x.1 < 32)).foldl (fun (t : KMap Nat) x => t.put x.1 x.2) [] } : State).toHost .ready

/-- `FIRMWARE_IMAGE_OFFER` (R447): an image is verified; one that fails leaves the part in recovery. -/
def execFirmwareImageOffer (image : FirmwareImage) (s : State) : Out :=
  .next (if s.stopped ∨ !s.takesImage image.path then s
    else if imageOk image then s.bootUp image else { s with boot := .recovery })

/-! ## Function-level reset (R445) -/

/-- A queue belongs to a function (R341). -/
def State.ownedBy (s : State) (fn q : Nat) : Bool := decide ((s.queue q).vf = fn)

/-- A grid of the function is being halted. -/
def State.haltsOf (s : State) (fn : Nat) : Bool :=
  s.halts.any fun h => match s.grids.find h.1 with | some g => s.ownedBy fn g.queue | none => false

/-- Kill every block of a function with code 0x37, with no AER message (R445). -/
def State.killOwned (s : State) (fn : Nat) : State :=
  s.cores.foldl (fun s x => if s.ownedBy fn x.2.queue then s.killBlock x.1 0x37#8 0#8 0x13 0#64 else s) s

/-- Discard the unplaced gangs of a function's queues on every die. -/
def State.dropOwned (s : State) (fn : Nat) : State :=
  (List.range Config.dies).foldl (fun s d => s.dropSpans d fun x => s.ownedBy fn x.queue) s

/-- The queues of a function after its reset (R341, R445). -/
def Queue.afterFlr (q : Queue) : Queue := { q with enable := false, head := 0#32, tail := 0#32 }

/-- The function-level reset itself: its blocks are killed, its grids and invocations end without a completion word. -/
def State.resetFunction (s : State) (fn : Nat) : State :=
  let s := (s.killOwned fn).dropOwned fn
  let mine (q : Nat) : Bool := s.ownedBy fn q
  { s with
    invs := s.invs.filter fun x => !mine x.1
    grids := s.grids.filter fun x => !mine x.2.queue
    token := s.token.filter fun g => match s.grids.find g with | some x => !mine x.queue | none => true
    queues := s.queues.map fun x => if x.2.vf = fn then (x.1, x.2.afterFlr) else x
    frozenDoorbells := setDel s.frozenDoorbells fn
    domains := s.domains.map fun x =>
      (x.1, { x.2 with joint := { x.2.joint with asks := x.2.joint.asks.filter fun y => decide (Config.dies * Config.queuesPerDie ≤ y.1) || !mine y.1 } }) }

/-- `FUNCTION_LEVEL_RESET` (R445): it waits, with the function's doorbells dropped, while a halt of one of the function's grids is in progress. -/
def execFunctionLevelReset (fn : Nat) (s : State) : Out :=
  .next (s.byHost fun s =>
    if s.haltsOf fn then { s with frozenDoorbells := setAdd s.frozenDoorbells fn } else s.resetFunction fn)

/-! ## The security alarm (R450) -/

/-- `SECURITY_SENSOR_TRIP` (R450): under the fused policy ERASE the keys are erased and the device stops; else the event is logged and reported
as a correctable error. -/
def execSecuritySensorTrip (die : Nat) (_sensor : Sensor) (s : State) : Out :=
  .next (if Config.dies ≤ die then s
    else if Config.fusedErase then
      ({ s with keysErased := true } : State).raiseEvent die 0x52#8 0#8 |>.fatalStop die (engineRecord 0x52#8 0#8 3#2 0 0#64)
    else (s.raiseEvent die 0x52#8 0#8).report die (engineRecord 0x52#8 0#8 1#2 0 0#64))

end Sys2Proof.Machine
end

