-- ==== Sys2Proof/Machine/Sweep.lean ====
section
/-! DEFINITION. The slices' part in a resolve, and the sweep: notices applied, passes over sets and spill records, and VIDs returned
to the free pool (R284, R289, R291, R292). -/

namespace Sys2Proof.Machine

/-- The number of a slice of the package. -/
def sliceKey (die slice : Nat) : Nat := die * Config.slicesPerDie + slice

/-- The lines of which a slice holds copies that pass a test, in its ways or its spill partition. -/
def Slice.copyLines (sl : Slice) (p : Nat → Nat → Bool) : List Nat :=
  let ls := sl.ways.foldl (fun ls w => match w.2.kind with
    | .copy d v => if p d v then setAdd ls w.2.line else ls
    | _ => ls) []
  sl.spill.foldl (fun ls r => if p r.2.domain r.2.vid then setAdd ls r.2.line else ls) ls

/-- Tell the holders of a line the sectors that a switch changed in its committed view (R289). -/
def State.switchUpdate (s : State) (die slice line : Nat) (n : Notice) : State :=
  let pa := line * 128
  match (s.slice die slice).homeLine (setOf pa) line with
  | none => s
  | some (_, w) =>
    let cs := ((s.slice die slice).copies (setOf pa) line).filter fun c =>
      decide (c.domain = n.domain) && n.couched.contains c.vid
    let sectors := sectorsOf (cs.foldl (fun m c => m ||| c.mask) 0#128)
    let view := s.viewLine pa 0 0 false
    if sectors = 0#4 then s
    else s.sendCausal die (diesOf w.holders) (32 + slice) (lineIndex pa)
      (.update line sectors view.data (sectorsOf view.bad) (noticeMark n.domain n.id) 20)

/-- Fetch every sector of a home line that is not there, so that a view of it is whole. -/
def State.fillHome (s : State) (die slice line : Nat) : State :=
  match (s.slice die slice).homeLine (setOf (line * 128)) line with
  | some (key, _) => s.fillSectors die slice key 0xF#4
  | none => s

/-- A slice applies a notice (R284, R289): older couched copies of the lines that it couches are merged first; then every line
switches, and holders are told. -/
def State.applyNotice (s : State) (die slice : Nat) (n : Notice) : State :=
  let key := sliceKey die slice
  let mark := noticeMark n.domain n.id
  let lines := (s.slice die slice).copyLines fun d v => decide (d = n.domain) && n.couched.contains v
  let s := lines.foldl (fun s line => ((s.countMerge (line * 128)).mergeLine (line * 128) 7 mark 20).fillHome die slice line) s
  let left := s.notices.map fun m =>
    if m.domain = n.domain ∧ m.id = n.id then { m with waiting := setDel m.waiting key } else m
  let s := { s with notices := left.filter fun m => decide (m.waiting ≠ []) }
  lines.foldl (fun s line => s.switchUpdate die slice line n) s

/-- A merge of a line waits: for a stack that exits self-refresh (R301), or for sectors of a peer line (R423). -/
def State.mergeWaits (s : State) (line : Nat) : Bool := s.asleep (line * 128) || decide (s.mergeNeeds (line * 128) ≠ 0#4)

/-- Ask for the sectors that a merge of a line waits for. -/
def State.askMerge (s : State) (line : Nat) : State :=
  if s.mergeNeeds (line * 128) = 0#4 then s else s.askPeer line (s.mergeNeeds (line * 128)) 0

/-- `SLICE_RESOLVE_NOTICE` (R289): a slice applies the oldest notice that it has not applied yet, between two requests. -/
def execSliceResolveNotice (die slice : Nat) (s : State) : Out :=
  .next (if (s.die die).holdsBack die then s
    else match s.notices.find? fun n => n.waiting.contains (sliceKey die slice) with
    | some n =>
      match ((s.slice die slice).copyLines fun d v => decide (d = n.domain) && n.couched.contains v).find? s.mergeWaits with
      | some line => s.askMerge line
      | none => s.applyNotice die slice n
    | none => s)

/-! ## The sweep (R291, R292) -/

/-- The VIDs that a slice has yet to sweep: couched or broke, as it sees them. -/
def State.pendingVids (s : State) (die slice : Nat) : List (Nat × Nat) :=
  s.domains.flatMap fun d =>
    (d.2.table.filter fun e => decide (e.1 ≠ 0) &&
      (let st := (s.sliceEntry die slice d.1 e.1).st
       decide (st = .couched) || decide (st = .broke))).map fun e => (d.1, e.1)

/-- `SWEEP_PASS_START` (R291). -/
def execSweepPassStart (die slice : Nat) (s : State) : Out :=
  let vids := s.pendingVids die slice
  .next (if (s.slice die slice).sweep.isSome ∨ vids = [] ∨ Config.dies ≤ die ∨ Config.slicesPerDie ≤ slice then s
    else
      let pass : Sweep :=
        { vids := vids, next := 0
          released := (vids.filter fun x => decide (((s.domain x.1).entry x.2).blocks = 0)).map fun x =>
            (x.1, x.2, ((s.domain x.1).entry x.2).epoch) }
      s.updSlice die slice fun sl => { sl with sweep := some pass })

/-- What a pass does to one line: couched copies are merged, broke ones freed (R291). -/
def State.sweepLine (s : State) (die slice line : Nat) (vids : List (Nat × Nat)) : State :=
  let cs := ((s.slice die slice).copies (setOf (line * 128)) line).filter fun c => vids.contains (c.domain, c.vid)
  let isIn (c : CopyView) (st : VidState) : Bool := decide ((s.sliceEntry die slice c.domain c.vid).st = st)
  let s := if cs.any fun c => isIn c .couched then (s.countMerge (line * 128)).mergeLine (line * 128) 7 0 19 else s
  s.updSpill die slice fun sl =>
    (cs.filter fun c => isIn c .broke).foldl (fun sl c => sl.freeCopy line c.domain c.vid) sl

/-- The lines of one set that hold copies of the VIDs named. -/
def Slice.setLines (sl : Slice) (set : Nat) (vids : List (Nat × Nat)) : List Nat :=
  ({ sl with ways := sl.ways.filter fun w => decide (w.1 / 16 = set), spill := [] } : Slice).copyLines fun d v =>
    vids.contains (d, v)

/-- The first spill record of the VIDs named. -/
def Slice.spilled (sl : Slice) (vids : List (Nat × Nat)) : Option (Nat × SpillRecord) :=
  sl.spill.find? fun r => vids.contains (r.2.domain, r.2.vid)

/-- The VIDs of a pass that are still couched or broke at its slice. -/
def State.stillPending (s : State) (die slice : Nat) (p : Sweep) : List (Nat × Nat) :=
  p.vids.filter fun x => let st := (s.sliceEntry die slice x.1 x.2).st; decide (st = .couched) || decide (st = .broke)

/-- A line whose copies a pass has yet to act on after its last set: that of a spill record, or of a copy that a request brought back into a set which
the pass had visited (R286, R291). -/
def State.sweepLeft (s : State) (die slice : Nat) (p : Sweep) : Option Nat :=
  let vids := s.stillPending die slice p
  match (s.slice die slice).spilled vids with
  | some r => some r.2.line
  | none => ((s.slice die slice).copyLines fun d v => vids.contains (d, v)).head?

/-- `SWEEP_VISIT` (R291): the pass visits its next set, and after the last set its next spill record. -/
def execSweepVisit (die slice : Nat) (s : State) : Out :=
  .next (if (s.die die).holdsBack die then s
    else match (s.slice die slice).sweep with
    | none => s
    | some p =>
      if p.next < 1024 then
        let lines := (s.slice die slice).setLines p.next p.vids
        match lines.find? s.mergeWaits with
        | some line => s.askMerge line
        | none =>
          (lines.foldl (fun s line => s.sweepLine die slice line p.vids) s).updSlice die slice fun sl =>
            { sl with sweep := some { p with next := p.next + 1 } }
      else match s.sweepLeft die slice p with
        | some line => if s.mergeWaits line then s.askMerge line else s.sweepLine die slice line p.vids
        | none => s)

/-- `SWEEP_PASS_END` (R291, R292): every set and every record has been visited. -/
def execSweepPassEnd (die slice : Nat) (s : State) : Out :=
  .next (match (s.slice die slice).sweep with
    | none => s
    | some p =>
      if p.next < 1024 ∨ (s.sweepLeft die slice p).isSome then s
      else
        let s := s.updSlice die slice fun sl => { sl with sweep := none }
        p.released.foldl (fun s x => s.updDomain x.1 fun d =>
          { d with table := d.table.alter x.2.1 fun e =>
            if e.epoch = x.2.2 then { e with swept := setAdd e.swept (sliceKey die slice) } else e }) s)

/-- A grid still runs, or will run, blocks in a VID. -/
def State.vidInUse (s : State) (d v : Nat) : Bool :=
  s.grids.any fun g => decide (g.2.launch.domain = d) && decide (g.2.vid = v)

/-- Every slice of the package has ended a pass over a couched or broke VID that began after its last block released its core. -/
def State.sweptHere (s : State) (domain vid : Nat) : Bool :=
  let e := (s.domain domain).entry vid
  decide (vid ≠ 0) && (decide (e.st = .couched) || decide (e.st = .broke)) && decide (e.blocks = 0) && !s.vidInUse domain vid &&
    decide (e.swept = allSlices)

/-- Free a VID at its domain's Couch. -/
def State.freeVid (s : State) (domain vid : Nat) : State :=
  ((s.updDomain domain fun d =>
    { d with table := d.table.del vid, joint := { d.joint with swept := d.joint.swept.filter fun x => x.1 != vid } }).forgetVid domain vid).tellMembers
      domain [] []

/-- `VID_RECYCLE` (R292, R452): a couched or broke VID whose blocks have all released their cores, and which every slice of every member has swept
since, is free again. As a member, the package tells the coordinating Couch that its slices have. -/
def execVidRecycle (domain vid : Nat) (s : State) : Out :=
  .next (if !s.sweptHere domain vid then s
    else match s.coordinator domain with
      | some pkg =>
        (s.updDomain domain fun d => { d with table := d.table.alter vid fun e => { e with swept := [] } }).tell domain pkg
          (.swept vid ((s.domain domain).entry vid).epoch)
      | none =>
        if (s.memberPkgs domain).all fun p => (s.domain domain).joint.swept.contains (vid, p) then s.freeVid domain vid else s)

end Sys2Proof.Machine
end

