-- ==== Sys2Proof/Machine/Dispatch.lean ====
section
/-! DEFINITION. The meaning of each instruction and step: one arm for each constructor of `Instr`. -/

namespace Sys2Proof.Machine

/-- What an instruction or a step does. -/
def exec (i : Instr) (s : State) : Host.Outcome State Fault Refusal :=
  match i with
  | .nop => Sys2Proof.Machine.execNop s
  | .yield => Sys2Proof.Machine.execYield s
  | .trap n => Sys2Proof.Machine.execTrap n s
  | .bkpt n => Sys2Proof.Machine.execBkpt n s
  | .rtt => Sys2Proof.Machine.execRtt s
  | .rttAdv => Sys2Proof.Machine.execRttAdv s
  | .mfs d e => Sys2Proof.Machine.execMfs d e s
  | .mts t e => Sys2Proof.Machine.execMts t e s
  | .exit => Sys2Proof.Machine.execExit s
  | .jmp a => Sys2Proof.Machine.execJmp a s
  | .callReg d a => Sys2Proof.Machine.execCallReg d a s
  | .callDisp d => Sys2Proof.Machine.execCallDisp d s
  | .ret a => Sys2Proof.Machine.execRet a s
  | .loop a => Sys2Proof.Machine.execLoop a s
  | .loopbrk => Sys2Proof.Machine.execLoopbrk s
  | .bra d => Sys2Proof.Machine.execBra d s
  | .brv => Sys2Proof.Machine.execBrv s
  | .reconv => Sys2Proof.Machine.execReconv s
  | .joinw d a => Sys2Proof.Machine.execJoinw d a s
  | .fragwake a => Sys2Proof.Machine.execFragwake a s
  | .sadd d a b im => Sys2Proof.Machine.execSadd d a b im s
  | .ssub d a b im => Sys2Proof.Machine.execSsub d a b im s
  | .smul d a b im => Sys2Proof.Machine.execSmul d a b im s
  | .smulh d a b u => Sys2Proof.Machine.execSmulh d a b u s
  | .sdiv d a b u => Sys2Proof.Machine.execSdiv d a b u s
  | .sand d a b im => Sys2Proof.Machine.execSand d a b im s
  | .sor d a b im => Sys2Proof.Machine.execSor d a b im s
  | .sxor d a b im => Sys2Proof.Machine.execSxor d a b im s
  | .sshl d a b im => Sys2Proof.Machine.execSshl d a b im s
  | .sshr d a b im => Sys2Proof.Machine.execSshr d a b im s
  | .ssra d a b im => Sys2Proof.Machine.execSsra d a b im s
  | .smin d a b u im => Sys2Proof.Machine.execSmin d a b u im s
  | .smax d a b u im => Sys2Proof.Machine.execSmax d a b u im s
  | .scmp d a b u im => Sys2Proof.Machine.execScmp d a b u im s
  | .ssel d a b im => Sys2Proof.Machine.execSsel d a b im s
  | .spopc d a => Sys2Proof.Machine.execSpopc d a s
  | .sclz d a => Sys2Proof.Machine.execSclz d a s
  | .sbfe d a b u => Sys2Proof.Machine.execSbfe d a b u s
  | .sbfi d a b => Sys2Proof.Machine.execSbfi d a b s
  | .smov d a => Sys2Proof.Machine.execSmov d a s
  | .smovAq d a => Sys2Proof.Machine.execSmovAq d a s
  | .saddi d a im => Sys2Proof.Machine.execSaddi d a im s
  | .sli d im => Sys2Proof.Machine.execSli d im s
  | .pand d a b n => Sys2Proof.Machine.execPand d a b n s
  | .por d a b n => Sys2Proof.Machine.execPor d a b n s
  | .pxor d a b => Sys2Proof.Machine.execPxor d a b s
  | .pnot d a => Sys2Proof.Machine.execPnot d a s
  | .pmovPp d a => Sys2Proof.Machine.execPmovPp d a s
  | .pmovPs d a => Sys2Proof.Machine.execPmovPs d a s
  | .pmovSp d a => Sys2Proof.Machine.execPmovSp d a s
  | .pmovCc d a m => Sys2Proof.Machine.execPmovCc d a m s
  | .pseti d => Sys2Proof.Machine.execPseti d s
  | .ppopc d a => Sys2Proof.Machine.execPpopc d a s
  | .pfirst d a => Sys2Proof.Machine.execPfirst d a s
  | .vadd d a b im => Sys2Proof.Machine.execVadd d a b im s
  | .vsub d a b im => Sys2Proof.Machine.execVsub d a b im s
  | .vaddc d a b => Sys2Proof.Machine.execVaddc d a b s
  | .vmul d a b im => Sys2Proof.Machine.execVmul d a b im s
  | .vmulh d a b u => Sys2Proof.Machine.execVmulh d a b u s
  | .vmad d a b => Sys2Proof.Machine.execVmad d a b s
  | .vand d a b im => Sys2Proof.Machine.execVand d a b im s
  | .vor d a b im => Sys2Proof.Machine.execVor d a b im s
  | .vxor d a b im => Sys2Proof.Machine.execVxor d a b im s
  | .vshl d a b im => Sys2Proof.Machine.execVshl d a b im s
  | .vshr d a b im => Sys2Proof.Machine.execVshr d a b im s
  | .vsra d a b im => Sys2Proof.Machine.execVsra d a b im s
  | .vmin d a b u im => Sys2Proof.Machine.execVmin d a b u im s
  | .vmax d a b u im => Sys2Proof.Machine.execVmax d a b u im s
  | .vabsd d a b u => Sys2Proof.Machine.execVabsd d a b u s
  | .vpopc d a => Sys2Proof.Machine.execVpopc d a s
  | .vclz d a => Sys2Proof.Machine.execVclz d a s
  | .vbfe d a b u => Sys2Proof.Machine.execVbfe d a b u s
  | .vbfi d a b => Sys2Proof.Machine.execVbfi d a b s
  | .vmov d a => Sys2Proof.Machine.execVmov d a s
  | .vmovFromMqi d a => Sys2Proof.Machine.execVmovFromMqi d a s
  | .vmovToMqo d a => Sys2Proof.Machine.execVmovToMqo d a s
  | .vdot4 d a b u => Sys2Proof.Machine.execVdot4 d a b u s
  | .vaddi d a im => Sys2Proof.Machine.execVaddi d a im s
  | .vli d im => Sys2Proof.Machine.execVli d im s
  | .vcmpEq d a b im => Sys2Proof.Machine.execVcmpEq d a b im s
  | .vcmpNe d a b im => Sys2Proof.Machine.execVcmpNe d a b im s
  | .vcmpLt d a b u im => Sys2Proof.Machine.execVcmpLt d a b u im s
  | .vcmpLe d a b u im => Sys2Proof.Machine.execVcmpLe d a b u im s
  | .vcmpGt d a b u im => Sys2Proof.Machine.execVcmpGt d a b u im s
  | .vcmpGe d a b u im => Sys2Proof.Machine.execVcmpGe d a b u im s
  | .vsel d a b im => Sys2Proof.Machine.execVsel d a b im s
  | .fadd d a b r => Sys2Proof.Machine.execFadd d a b r s
  | .fsub d a b r => Sys2Proof.Machine.execFsub d a b r s
  | .fmul d a b r => Sys2Proof.Machine.execFmul d a b r s
  | .fmin d a b => Sys2Proof.Machine.execFmin d a b s
  | .fmax d a b => Sys2Proof.Machine.execFmax d a b s
  | .fcmp c p a b => Sys2Proof.Machine.execFcmp c p a b s
  | .fneg d a => Sys2Proof.Machine.execFneg d a s
  | .fabs d a => Sys2Proof.Machine.execFabs d a s
  | .fclamp d a b => Sys2Proof.Machine.execFclamp d a b s
  | .fdot2 d a b r => Sys2Proof.Machine.execFdot2 d a b r s
  | .fround d a r => Sys2Proof.Machine.execFround d a r s
  | .fscale d a b r => Sys2Proof.Machine.execFscale d a b r s
  | .faddT d a b t r => Sys2Proof.Machine.execFaddT d a b t r s
  | .fsubT d a b t r => Sys2Proof.Machine.execFsubT d a b t r s
  | .fmulT d a b t r => Sys2Proof.Machine.execFmulT d a b t r s
  | .fminT d a b t => Sys2Proof.Machine.execFminT d a b t s
  | .fmaxT d a b t => Sys2Proof.Machine.execFmaxT d a b t s
  | .fcmpF64 c p a b => Sys2Proof.Machine.execFcmpF64 c p a b s
  | .fnegT d a t => Sys2Proof.Machine.execFnegT d a t s
  | .fabsT d a t => Sys2Proof.Machine.execFabsT d a t s
  | .fclampT d a b t => Sys2Proof.Machine.execFclampT d a b t s
  | .fdot2Packed d a b t r => Sys2Proof.Machine.execFdot2Packed d a b t r s
  | .froundT d a t r => Sys2Proof.Machine.execFroundT d a t r s
  | .fscaleT d a b t r => Sys2Proof.Machine.execFscaleT d a b t r s
  | .ffma d a b t r => Sys2Proof.Machine.execFfma d a b t r s
  | .exp2 d a => Sys2Proof.Machine.execExp2 d a s
  | .lg2 d a => Sys2Proof.Machine.execLg2 d a s
  | .rcp d a r => Sys2Proof.Machine.execRcp d a r s
  | .rsq d a r => Sys2Proof.Machine.execRsq d a r s
  | .sqrt d a r => Sys2Proof.Machine.execSqrt d a r s
  | .cvt d a x y m => Sys2Proof.Machine.execCvt d a x y m s
  | .cvtpk2 d a t m => Sys2Proof.Machine.execCvtpk2 d a t m s
  | .cvtpk4 d a t m => Sys2Proof.Machine.execCvtpk4 d a t m s
  | .cvtwide d a t => Sys2Proof.Machine.execCvtwide d a t s
  | .mxscale d a t => Sys2Proof.Machine.execMxscale d a t s
  | .mxq d a t m => Sys2Proof.Machine.execMxq d a t m s
  | .perm d a b => Sys2Proof.Machine.execPerm d a b s
  | .permx d a b => Sys2Proof.Machine.execPermx d a b s
  | .shflup d a b => Sys2Proof.Machine.execShflup d a b s
  | .shfldn d a b => Sys2Proof.Machine.execShfldn d a b s
  | .bcastReg d a b => Sys2Proof.Machine.execBcastReg d a b s
  | .bcastImm d a b => Sys2Proof.Machine.execBcastImm d a b s
  | .voteBallot d a => Sys2Proof.Machine.execVoteBallot d a s
  | .voteAny d a => Sys2Proof.Machine.execVoteAny d a s
  | .voteAll d a => Sys2Proof.Machine.execVoteAll d a s
  | .voteUni d a => Sys2Proof.Machine.execVoteUni d a s
  | .reduce d a m => Sys2Proof.Machine.execReduce d a m s
  | .scan d a m => Sys2Proof.Machine.execScan d a m s
  | .argmax d a m => Sys2Proof.Machine.execArgmax d a m s
  | .matchAny d a => Sys2Proof.Machine.execMatchAny d a s
  | .matchFirst d a => Sys2Proof.Machine.execMatchFirst d a s
  | .ld d a o => Sys2Proof.Machine.execLd d a o s
  | .ldc d a o => Sys2Proof.Machine.execLdc d a o s
  | .st d a o => Sys2Proof.Machine.execSt d a o s
  | .ldIndexed d a b sc z m => Sys2Proof.Machine.execLdIndexed d a b sc z m s
  | .stIndexed d a b sc z m => Sys2Proof.Machine.execStIndexed d a b sc z m s
  | .lds d a o => Sys2Proof.Machine.execLds d a o s
  | .sts d a o => Sys2Proof.Machine.execSts d a o s
  | .ldsh d a o => Sys2Proof.Machine.execLdsh d a o s
  | .stsh d a o => Sys2Proof.Machine.execStsh d a o s
  | .ldl d a o => Sys2Proof.Machine.execLdl d a o s
  | .stl d a o => Sys2Proof.Machine.execStl d a o s
  | .ldts d a o => Sys2Proof.Machine.execLdts d a o s
  | .stts d a o => Sys2Proof.Machine.execStts d a o s
  | .atom d a b m => Sys2Proof.Machine.execAtom d a b m s
  | .atomcas d a b w => Sys2Proof.Machine.execAtomcas d a b w s
  | .atomsh d a b m => Sys2Proof.Machine.execAtomsh d a b m s
  | .red d a b m => Sys2Proof.Machine.execRed d a b m s
  | .copy a b m => Sys2Proof.Machine.execCopy a b m s
  | .tbinit a b => Sys2Proof.Machine.execTbinit a b s
  | .tbexpect a b => Sys2Proof.Machine.execTbexpect a b s
  | .tbarrive a => Sys2Proof.Machine.execTbarrive a s
  | .tbwait d a b => Sys2Proof.Machine.execTbwait d a b s
  | .femark a b => Sys2Proof.Machine.execFemark a b s
  | .fepoll d a => Sys2Proof.Machine.execFepoll d a s
  | .bar b => Sys2Proof.Machine.execBar b s
  | .bararr b => Sys2Proof.Machine.execBararr b s
  | .barwait b => Sys2Proof.Machine.execBarwait b s
  | .bardrop b => Sys2Proof.Machine.execBardrop b s
  | .fence k sc => Sys2Proof.Machine.execFence k sc s
  | .fenceComplete core agent => Sys2Proof.Machine.execFenceComplete core agent s
  | .waitcReg a p => Sys2Proof.Machine.execWaitcReg a p s
  | .waitcImm k p => Sys2Proof.Machine.execWaitcImm k p s
  | .waitb a => Sys2Proof.Machine.execWaitb a s
  | .tfence => Sys2Proof.Machine.execTfence s
  | .aqpush d a => Sys2Proof.Machine.execAqpush d a s
  | .aqclose d => Sys2Proof.Machine.execAqclose d s
  | .mqbind d a => Sys2Proof.Machine.execMqbind d a s
  | .mqtry d a => Sys2Proof.Machine.execMqtry d a s
  | .rgive k => Sys2Proof.Machine.execRgive k s
  | .rclaim k => Sys2Proof.Machine.execRclaim k s
  | .rclaimT d k => Sys2Proof.Machine.execRclaimT d k s
  | .claimGrant core => Sys2Proof.Machine.execClaimGrant core s
  | .mma d a b m => Sys2Proof.Machine.execMma d a b m s
  | .mzero d => Sys2Proof.Machine.execMzero d s
  | .mbatch d => Sys2Proof.Machine.execMbatch d s
  | .episet a b => Sys2Proof.Machine.execEpiset a b s
  | .drain d a b => Sys2Proof.Machine.execDrain d a b s
  | .resolveC d a b => Sys2Proof.Machine.execResolveC d a b s
  | .resolveS d a b => Sys2Proof.Machine.execResolveS d a b s
  | .vidq d a b => Sys2Proof.Machine.execVidq d a b s
  | .vidqFree d a => Sys2Proof.Machine.execVidqFree d a s
  | .specchk d => Sys2Proof.Machine.execSpecchk d s
  | .specchkLive d => Sys2Proof.Machine.execSpecchkLive d s
  | .sigsync d => Sys2Proof.Machine.execSigsync d s
  | .egrsv d a => Sys2Proof.Machine.execEgrsv d a s
  | .egpub a => Sys2Proof.Machine.execEgpub a s
  | .egpush a b => Sys2Proof.Machine.execEgpush a b s
  | .egrel d a b => Sys2Proof.Machine.execEgrel d a b s
  | .egrelV d a b => Sys2Proof.Machine.execEgrelV d a b s
  | .kvxl d a b => Sys2Proof.Machine.execKvxl d a b s
  | .kvappend d a b => Sys2Proof.Machine.execKvappend d a b s
  | .kvmap d a b => Sys2Proof.Machine.execKvmap d a b s
  | .flpop d a => Sys2Proof.Machine.execFlpop d a s
  | .flpush a b => Sys2Proof.Machine.execFlpush a b s
  | .pref a b => Sys2Proof.Machine.execPref a b s
  | .prefRo a b => Sys2Proof.Machine.execPrefRo a b s
  | .cinvRo => Sys2Proof.Machine.execCinvRo s
  | .cinvL1 => Sys2Proof.Machine.execCinvL1 s
  | .pgreq a b => Sys2Proof.Machine.execPgreq a b s
  | .tlbinv a => Sys2Proof.Machine.execTlbinv a s
  | .tlbinvAll => Sys2Proof.Machine.execTlbinvAll s
  | .vdot4I16 d a b m => Sys2Proof.Machine.execVdot4I16 d a b m s
  | .vdot4I4 d a b m => Sys2Proof.Machine.execVdot4I4 d a b m s
  | .vmovBt d a => Sys2Proof.Machine.execVmovBt d a s
  | .vorBmm d a b => Sys2Proof.Machine.execVorBmm d a b s
  | .vxorBmm d a b => Sys2Proof.Machine.execVxorBmm d a b s
  | .emulatedMajor w => Sys2Proof.Machine.execEmulatedMajor w s
  | .ximm x => Sys2Proof.Machine.execXimm x s
  | .enop => Sys2Proof.Machine.execEnop s
  | .eadd d a b => Sys2Proof.Machine.execEadd d a b s
  | .emul d a b => Sys2Proof.Machine.execEmul d a b s
  | .efma d a b => Sys2Proof.Machine.execEfma d a b s
  | .emax d a b => Sys2Proof.Machine.execEmax d a b s
  | .emin d a b => Sys2Proof.Machine.execEmin d a b s
  | .eclamp d a b => Sys2Proof.Machine.execEclamp d a b s
  | .eexp2 d a => Sys2Proof.Machine.execEexp2 d a s
  | .ecvt d a c => Sys2Proof.Machine.execEcvt d a c s
  | .emovReg d a => Sys2Proof.Machine.execEmovReg d a s
  | .emovImm d k => Sys2Proof.Machine.execEmovImm d k s
  | .esel d a b => Sys2Proof.Machine.execEsel d a b s
  | .erow d => Sys2Proof.Machine.execErow d s
  | .ecol d => Sys2Proof.Machine.execEcol d s
  | .eldb d o => Sys2Proof.Machine.execEldb d o s
  | .elds d o => Sys2Proof.Machine.execElds d o s
  | .est a z => Sys2Proof.Machine.execEst a z s
  | .estg a z => Sys2Proof.Machine.execEstg a z s
  | .ered a => Sys2Proof.Machine.execEred a s
  | .esig a => Sys2Proof.Machine.execEsig a s
  | .eend => Sys2Proof.Machine.execEend s
  | .doorbellWrite fn offset size value => Sys2Proof.Machine.execDoorbellWrite fn offset size value s
  | .walkerTakeRecord queue => Sys2Proof.Machine.execWalkerTakeRecord queue s
  | .walkerReadRetry queue => Sys2Proof.Machine.execWalkerReadRetry queue s
  | .launchNode queue => Sys2Proof.Machine.execLaunchNode queue s
  | .conditionalNode queue => Sys2Proof.Machine.execConditionalNode queue s
  | .whileNode queue => Sys2Proof.Machine.execWhileNode queue s
  | .forkNode queue => Sys2Proof.Machine.execForkNode queue s
  | .forkVidsTaken queue => Sys2Proof.Machine.execForkVidsTaken queue s
  | .resolveWaitNode queue => Sys2Proof.Machine.execResolveWaitNode queue s
  | .resolveWaitTimeout queue => Sys2Proof.Machine.execResolveWaitTimeout queue s
  | .endNode queue => Sys2Proof.Machine.execEndNode queue s
  | .nodeStepLimit queue => Sys2Proof.Machine.execNodeStepLimit queue s
  | .dispatchDecision die => Sys2Proof.Machine.execDispatchDecision die s
  | .gangAged die grid => Sys2Proof.Machine.execGangAged die grid s
  | .coresidentPlacement => Sys2Proof.Machine.execCoresidentPlacement s
  | .clearingDone core => Sys2Proof.Machine.execClearingDone core s
  | .portArbitration core port => Sys2Proof.Machine.execPortArbitration core port s
  | .reconvergenceArrival core warp slot => Sys2Proof.Machine.execReconvergenceArrival core warp slot s
  | .joinwComplete core warp slot => Sys2Proof.Machine.execJoinwComplete core warp slot s
  | .joinwTimeout core warp slot => Sys2Proof.Machine.execJoinwTimeout core warp slot s
  | .joinwDeadlockBreak core warp => Sys2Proof.Machine.execJoinwDeadlockBreak core warp s
  | .warpTrapEntry core agent => Sys2Proof.Machine.execWarpTrapEntry core agent s
  | .linkwatchTrap core warp => Sys2Proof.Machine.execLinkwatchTrap core warp s
  | .loadDataReturn core agent idx => Sys2Proof.Machine.execLoadDataReturn core agent idx s
  | .storeAcknowledge core agent idx => Sys2Proof.Machine.execStoreAcknowledge core agent idx s
  | .messageArrive idx => Sys2Proof.Machine.execMessageArrive idx s
  | .barrierDead core => Sys2Proof.Machine.execBarrierDead core s
  | .budgetExceeded core => Sys2Proof.Machine.execBudgetExceeded core s
  | .blockComplete core => Sys2Proof.Machine.execBlockComplete core s
  | .blockRelease core => Sys2Proof.Machine.execBlockRelease core s
  | .gridComplete grid => Sys2Proof.Machine.execGridComplete grid s
  | .runaheadEnter core warp => Sys2Proof.Machine.execRunaheadEnter core warp s
  | .runaheadExit core warp => Sys2Proof.Machine.execRunaheadExit core warp s
  | .apAccessResume core => Sys2Proof.Machine.execApAccessResume core s
  | .copyValidation core idx => Sys2Proof.Machine.execCopyValidation core idx s
  | .copySectorLand core idx => Sys2Proof.Machine.execCopySectorLand core idx s
  | .matrixCommandStart core => Sys2Proof.Machine.execMatrixCommandStart core s
  | .matrixCommandComplete core idx => Sys2Proof.Machine.execMatrixCommandComplete core idx s
  | .drainComplete core idx => Sys2Proof.Machine.execDrainComplete core idx s
  | .resolveApply domain => Sys2Proof.Machine.execResolveApply domain s
  | .resolveComplete domain => Sys2Proof.Machine.execResolveComplete domain s
  | .sliceResolveNotice die slice => Sys2Proof.Machine.execSliceResolveNotice die slice s
  | .versionNoticeApply core => Sys2Proof.Machine.execVersionNoticeApply core s
  | .sweepPassStart die slice => Sys2Proof.Machine.execSweepPassStart die slice s
  | .sweepVisit die slice => Sys2Proof.Machine.execSweepVisit die slice s
  | .sweepPassEnd die slice => Sys2Proof.Machine.execSweepPassEnd die slice s
  | .vidRecycle domain vid => Sys2Proof.Machine.execVidRecycle domain vid s
  | .pairCompare die pair => Sys2Proof.Machine.execPairCompare die pair s
  | .pairRerunStart die pair => Sys2Proof.Machine.execPairRerunStart die pair s
  | .sliceRequest core agent idx => Sys2Proof.Machine.execSliceRequest core agent idx s
  | .sliceReplyDeliver core agent idx => Sys2Proof.Machine.execSliceReplyDeliver core agent idx s
  | .remoteWriteApply die idx => Sys2Proof.Machine.execRemoteWriteApply die idx s
  | .guestUpdateApply die idx => Sys2Proof.Machine.execGuestUpdateApply die idx s
  | .guestInvalidationApply die idx => Sys2Proof.Machine.execGuestInvalidationApply die idx s
  | .clockNoticeTimer die => Sys2Proof.Machine.execClockNoticeTimer die s
  | .clockNoticeApply die idx => Sys2Proof.Machine.execClockNoticeApply die idx s
  | .clockAckRequest die idx => Sys2Proof.Machine.execClockAckRequest die idx s
  | .clockAck die idx => Sys2Proof.Machine.execClockAck die idx s
  | .patrolScrubVisit die sector outcome => Sys2Proof.Machine.execPatrolScrubVisit die sector outcome s
  | .pageWalk die cluster asid va kind => Sys2Proof.Machine.execPageWalk die cluster asid va kind s
  | .pageRestoreStart die frame => Sys2Proof.Machine.execPageRestoreStart die frame s
  | .pageRestoreComplete die => Sys2Proof.Machine.execPageRestoreComplete die s
  | .evictionCommand die asid va hostFrame hostValid => Sys2Proof.Machine.execEvictionCommand die asid va hostFrame hostValid s
  | .evictionCommit die => Sys2Proof.Machine.execEvictionCommit die s
  | .shootdownRequest die asid va => Sys2Proof.Machine.execShootdownRequest die asid va s
  | .shootdownAck die idx => Sys2Proof.Machine.execShootdownAck die idx s
  | .gridHaltReport idx => Sys2Proof.Machine.execGridHaltReport idx s
  | .haltArrive die grid => Sys2Proof.Machine.execHaltArrive die grid s
  | .dumpRecordWrite core => Sys2Proof.Machine.execDumpRecordWrite core s
  | .dumpHeaderWrite die grid => Sys2Proof.Machine.execDumpHeaderWrite die grid s
  | .haltComplete grid => Sys2Proof.Machine.execHaltComplete grid s
  | .regfileScrub core agent reg lane outcome => Sys2Proof.Machine.execRegfileScrub core agent reg lane outcome s
  | .errorReport die record place => Sys2Proof.Machine.execErrorReport die record place s
  | .networkFlitHop idx => Sys2Proof.Machine.execNetworkFlitHop idx s
  | .bridgeDeliver die src => Sys2Proof.Machine.execBridgeDeliver die src s
  | .feltFlitReceive bundle module crcOk => Sys2Proof.Machine.execFeltFlitReceive bundle module crcOk s
  | .feltReplay bundle module => Sys2Proof.Machine.execFeltReplay bundle module s
  | .replayWindowExpiry bundle module => Sys2Proof.Machine.execReplayWindowExpiry bundle module s
  | .moduleRetrain bundle module failing => Sys2Proof.Machine.execModuleRetrain bundle module failing s
  | .retrainComplete bundle module => Sys2Proof.Machine.execRetrainComplete bundle module s
  | .bundleDrainComplete bundle => Sys2Proof.Machine.execBundleDrainComplete bundle s
  | .ualinkRequestReceive req => Sys2Proof.Machine.execUalinkRequestReceive req s
  | .ualinkBarrierSignal signal => Sys2Proof.Machine.execUalinkBarrierSignal signal s
  | .ualinkResponse id error data => Sys2Proof.Machine.execUalinkResponse id error data s
  | .ualinkPortStateChange port up => Sys2Proof.Machine.execUalinkPortStateChange port up s
  | .hostBar4Access addr write data len => Sys2Proof.Machine.execHostBar4Access addr write data len s
  | .queueDescriptorWrite queue desc => Sys2Proof.Machine.execQueueDescriptorWrite queue desc s
  | .egressDescriptorWrite domain desc => Sys2Proof.Machine.execEgressDescriptorWrite domain desc s
  | .egressHcurWrite domain value => Sys2Proof.Machine.execEgressHcurWrite domain value s
  | .shareTableWrite die domain value => Sys2Proof.Machine.execShareTableWrite die domain value s
  | .ageThresholdWrite die value => Sys2Proof.Machine.execAgeThresholdWrite die value s
  | .kvPoolDescriptorWrite die pool desc => Sys2Proof.Machine.execKvPoolDescriptorWrite die pool desc s
  | .logbaseWrite die value => Sys2Proof.Machine.execLogbaseWrite die value s
  | .dumpRegionWrite die base size => Sys2Proof.Machine.execDumpRegionWrite die base size s
  | .membersWrite domain mask => Sys2Proof.Machine.execMembersWrite domain mask s
  | .acceptCounterWrite domain which value => Sys2Proof.Machine.execAcceptCounterWrite domain which value s
  | .pcctlClear die => Sys2Proof.Machine.execPcctlClear die s
  | .pcctlFreeze die freeze => Sys2Proof.Machine.execPcctlFreeze die freeze s
  | .counterZeroWrite die counter value => Sys2Proof.Machine.execCounterZeroWrite die counter value s
  | .linkRegisterWrite bundle module which value => Sys2Proof.Machine.execLinkRegisterWrite bundle module which value s
  | .linkRateChange bundle module rate width => Sys2Proof.Machine.execLinkRateChange bundle module rate width s
  | .peerSlotTableWrite slot package valid => Sys2Proof.Machine.execPeerSlotTableWrite slot package valid s
  | .addressSpaceTableWrite asid root valid => Sys2Proof.Machine.execAddressSpaceTableWrite asid root valid s
  | .rstreqWrite value => Sys2Proof.Machine.execRstreqWrite value s
  | .registerWrite reg value => Sys2Proof.Machine.execRegisterWrite reg value s
  | .mctpWarmResetRequest path => Sys2Proof.Machine.execMctpWarmResetRequest path s
  | .spdmRequest path request => Sys2Proof.Machine.execSpdmRequest path request s
  | .coldReset => Sys2Proof.Machine.execColdReset s
  | .bootImageTimeout => Sys2Proof.Machine.execBootImageTimeout s
  | .firmwareImageOffer image => Sys2Proof.Machine.execFirmwareImageOffer image s
  | .warmReset => Sys2Proof.Machine.execWarmReset s
  | .functionLevelReset fn => Sys2Proof.Machine.execFunctionLevelReset fn s
  | .powerLimitThrottle watts => Sys2Proof.Machine.execPowerLimitThrottle watts s
  | .powerClockRestore watts millis => Sys2Proof.Machine.execPowerClockRestore watts millis s
  | .securitySensorTrip die sensor => Sys2Proof.Machine.execSecuritySensorTrip die sensor s
  | .selfRefreshEntry stack => Sys2Proof.Machine.execSelfRefreshEntry stack s
  | .selfRefreshExit stack => Sys2Proof.Machine.execSelfRefreshExit stack s
  | .scrubWithClear die sector => Sys2Proof.Machine.execScrubWithClear die sector s
  | .hostMemoryCompletion idx => Sys2Proof.Machine.execHostMemoryCompletion idx s

end Sys2Proof.Machine
end

