-- ==== Sys2Proof/Machine/Schedule.lean ====
section
/-! DEFINITION. What acts next. The agents of the package act side by side; a run of the model takes their acts one at a time, in the order that
`plan` gives (R8, R340). Where `plan` is empty, a default order goes on: a run that is under way, else an internal event that is due, else the unit
that can issue first, else a cycle of the core clock. DESIGN CHOICE (log 3): every order of acts is the run of some plan. What an instruction does comes in
as `ex`, the dispatch of the instructions. -/

namespace Sys2Proof.Machine

/-! ## Acts -/

/-- A management act that takes place in a fatal stop too (R408, R443, R446, R450, R451). -/
def actsWhenStopped (i : Instr) : Bool :=
  match i with
  | .coldReset => true
  | .warmReset => true
  | .mctpWarmResetRequest _ => true
  | .spdmRequest _ _ => true
  | .securitySensorTrip _ _ => true
  | .powerLimitThrottle _ => true
  | .powerClockRestore _ _ => true
  | _ => false

/-- End the waits of an agent that end with no event of their own: at `EGRSV`, `EGREL` and `SIGSYNC` (R250, R253, R255); and write frames that are still to
be written (R367). -/
def State.pollAgent (s : State) (k a : Nat) : State :=
  let s := s.framesDue k a
  [SlotId.a, SlotId.b].foldl (fun s w => ((s.tryReserve k a w).tryRelease k a w).trySigsync k a w) s

/-- A port acts: the waits of its warps are looked at, and a unit issues. -/
def State.actPort (s : State) (ex : Instr → State → Out) (k p : Nat) : State :=
  ((portWarps p).foldl (fun s a => s.pollAgent k a) s).issuePort ex k p

/-- The access processor acts. -/
def State.actAp (s : State) (ex : Instr → State → Out) (k : Nat) : State := (s.pollAgent k apAgent).issueAp ex k

/-- The epilogue processor executes the next word of the drain that it runs (R237). -/
def State.actEpi (s : State) (ex : Instr → State → Out) (k : Nat) : State :=
  match s.core? k with
  | none => s
  | some c => match c.activeDrain with
    | none => s
    | some (cmd, run) =>
      let x : EpiCtx := { k := k, core := c, cmd := cmd, run := run }
      match decodeEpi (nth x.program run.word 0#32) with
      | none => s
      | some i =>
        let iss : Issue :=
          { core := k, agent := epiAgent, slot := .a, pc := cmd.pc, tpc := cmd.pc, xs := [], guard := 7#4, unused := 0#32 }
        { Out.orSame (ex i { s with cur := some iss }) s with cur := none }

/-- A cycle of the core clock passes, and what its end does: windows of replays that are over (R380), blocks whose budget is used up (R358), claims (R56), waits
at `JOINW` (R129, R130), and writes that a die has held back (R332). After a fatal stop it changes no core (R408). -/
def State.tick (s : State) : State :=
  let s := { s with now := s.now + 1 }
  if s.stopped then s
  else
    let s : State := { s with felts := s.felts.map fun b => b.passWindows s.fabric }
    let s := s.cores.foldl (fun s x => s.endBudget x.1) s
    let s := s.cores.foldl (fun s x => (s.endCycles x.1).joinsPassed x.1) s
    (List.range 12).foldl (fun s d => s.sendHeld d) s

/-- Note the warps that have become ready (R356). -/
def Core.stampReady (before : State) (after : State) (k : Nat) (c : Core) : Core :=
  { c with thr := ((List.range c.thr.length).zip c.thr).map fun x =>
      let was := (before.core? k).any fun b => before.warpReady k x.1 b
      if x.1 < 16 ∧ after.warpReady k x.1 c ∧ !was then { x.2 with readyAt := after.now } else x.2 }

/-- Note the warps that have become ready in a step. -/
def State.stampReady (s : State) (before : State) : State :=
  { s with cores := s.cores.map fun x => (x.1, x.2.stampReady before s x.1) }

/-- An act of the plan. -/
def State.act (s : State) (ex : Instr → State → Out) (p : Plan) : Out :=
  match p with
  | .event i => if s.stopped && !actsWhenStopped i then .next s else ex i s
  | .port k p => .next (if s.stopped then s else s.actPort ex k p)
  | .ap k => .next (if s.stopped then s else s.actAp ex k)
  | .epi k => .next (if s.stopped then s else s.actEpi ex k)
  | .tick => .next s.tick

/-! ## The default order -/

/-- The numbers below a length. -/
def indices {α : Type} (l : List α) : List Nat := List.range l.length

/-- Events of the network, the bridges and the felts. -/
def State.linkEvents (s : State) : List (State → Out) :=
  (indices s.flits).flatMap (fun i => [execMessageArrive i, execNetworkFlitHop i]) ++
  (if s.flits.isEmpty then [] else (List.range 12).flatMap fun d => (List.range 12).map fun e => execBridgeDeliver d e) ++
  ((List.range 16).flatMap fun b =>
    (if s.bundleEmpty b && (s.bundle b).modules.all (fun m => m.bad.isEmpty && m.retraining.isNone) then []
     else (List.range 8).flatMap fun m =>
      [execFeltFlitReceive b m true, execFeltFlitReceive b (m + 8) true, execFeltReplay b m, execFeltReplay b (m + 8),
       execRetrainComplete b m]) ++ [execBundleDrainComplete b])

/-- The shootdowns that the engine of a die asks of dies (R316). -/
def State.askedShootdowns (s : State) (d : Nat) : List (State → Out) :=
  let ask (asid page : Nat) (awaits : List Nat) : List (State → Out) :=
    (awaits.filter fun e => decide (e < Config.dies) &&
      !(s.die e).shoot.any fun x => decide (x.asid = asid) && decide (x.page = page) && decide (x.fromDie = some d)).map fun e =>
        execShootdownRequest e asid (BitVec.ofNat 64 (page * 2 ^ 16))
  (match (s.die d).evict with | some v => ask v.asid v.page v.awaits | none => []) ++
    match (s.die d).restore with
    | some r => ask r.asid r.page r.awaits ++ [execPageRestoreComplete d]
    | none => []

/-- Events of a die: messages that have come to it, shootdowns, evictions, clocks and its dispatcher. -/
def State.dieEvents (s : State) (d : Nat) : List (State → Out) :=
  ((indices (s.die d).inbox).flatMap fun i =>
    [execRemoteWriteApply d i, execGuestUpdateApply d i, execGuestInvalidationApply d i, execClockNoticeApply d i,
     execClockAckRequest d i, execClockAck d i]) ++
  ((indices (s.die d).shoot).map fun i => execShootdownAck d i) ++
  s.askedShootdowns d ++ (if (s.die d).evict.isSome then [execEvictionCommit d] else []) ++
  ((s.die d).pairs.flatMap fun p => [execPairCompare d p.1, execPairRerunStart d p.1]) ++
  ((s.die d).disp.spans.map fun x => execGangAged d x.grid) ++
  (if (s.die d).disp.spans.isEmpty then [] else [execDispatchDecision d]) ++ [execClockNoticeTimer d]

/-- Events of the accesses of an agent. -/
def Thread.accessEvents (t : Thread) (k a : Nat) : List (State → Out) :=
  (indices t.inflight).flatMap fun i =>
    [execLoadDataReturn k a i, execStoreAcknowledge k a i] ++
    ((indices ((t.inflight[i]?.map fun x => x.reqs).getD [])).flatMap fun j =>
      [execSliceReplyDeliver k a (i + 256 * j), execSliceRequest k a (i + 256 * j)])

/-- Events of a thread. -/
def Thread.events (t : Thread) (k a : Nat) : List (State → Out) :=
  t.accessEvents k a ++ [execFenceComplete k a, fun s => .next (s.pollAgent k a)] ++
  (if a < 16 then
    [execJoinwComplete k a .a, execJoinwComplete k a .b, execJoinwTimeout k a .a, execJoinwTimeout k a .b, execJoinwDeadlockBreak k a]
   else [execApAccessResume k])

/-- Events of the engines of a core. -/
def Core.engineEvents (c : Core) (k : Nat) : List (State → Out) :=
  ((indices c.copies).flatMap fun i => execCopyValidation k i ::
    match c.copies[i]? with
    | some x => (List.range (match x.deckle with | some d => d.rows * d.perRow | none => 0)).map fun u => execCopySectorLand k (i + 1024 * u)
    | none => []) ++
  [execMatrixCommandStart k] ++
  ((indices c.mx).flatMap fun i =>
    [execMatrixCommandComplete k i, execSliceRequest k epiAgent i, execSliceReplyDeliver k epiAgent i, execDrainComplete k i])

/-- Events of a core. -/
def Core.events (c : Core) (k : Nat) : List (State → Out) :=
  [execClearingDone k, execVersionNoticeApply k] ++
  (if c.launch.ahead then (List.range 16).map (execRunaheadEnter k) else []) ++ ((indices c.thr).flatMap fun a => (c.thread a).events k a) ++ c.engineEvents k ++
  [execClaimGrant k, execBudgetExceeded k, execBarrierDead k, execBlockComplete k, execDumpRecordWrite k, execBlockRelease k]

/-- Events of the walkers, the grids and the halts, after the host's answers to writes. -/
def State.walkerEvents (s : State) : List (State → Out) :=
  (if s.host.writes.isEmpty then [] else [execHostMemoryCompletion 0]) ++
  (s.queues.map fun q => execWalkerTakeRecord q.1) ++
  (s.invs.flatMap fun q =>
    [execWalkerReadRetry q.1, execNodeStepLimit q.1, execLaunchNode q.1, execConditionalNode q.1, execWhileNode q.1, execForkNode q.1,
     execForkVidsTaken q.1, execResolveWaitNode q.1, execResolveWaitTimeout q.1, execEndNode q.1]) ++
  (if s.token.isEmpty then [] else [execCoresidentPlacement]) ++ (s.grids.map fun g => execGridComplete g.1) ++
  (if s.reports.isEmpty then [] else [execGridHaltReport 0]) ++
  (s.halts.flatMap fun h => ((List.range 12).flatMap fun d => [execHaltArrive d h.1, execDumpHeaderWrite d h.1]) ++ [execHaltComplete h.1]) ++
  (s.frozenDoorbells.map execFunctionLevelReset)

/-- A slice has yet to sweep a VID whose blocks have all released their cores. -/
def State.sweepDue (s : State) (die slice : Nat) : Bool :=
  s.domains.any fun d => d.2.table.any fun e =>
    (decide (e.2.st = .couched) || decide (e.2.st = .broke)) && decide (e.2.blocks = 0) && !e.2.swept.contains (sliceKey die slice)

/-- Events of the versions: resolves, notices, sweeps and VIDs that come free. -/
def State.versionEvents (s : State) : List (State → Out) :=
  (s.resolves.flatMap fun r => [execResolveApply r.domain, execResolveComplete r.domain]) ++
  ((s.domains.filter fun d => !d.2.joint.owed.isEmpty).map fun d => execResolveComplete d.1) ++
  (s.notices.flatMap fun n => n.waiting.map fun k => execSliceResolveNotice (k / 64) (k % 64)) ++
  (if s.domains.all fun d => d.2.table.isEmpty then []
   else ((List.range 12).flatMap fun d => (List.range 64).flatMap fun k =>
    [execSweepVisit d k, execSweepPassEnd d k] ++ if s.sweepDue d k then [execSweepPassStart d k] else [])) ++
  (s.domains.flatMap fun d => d.2.table.map fun e => execVidRecycle d.1 e.1)

/-- The internal events that may be due. -/
def State.dueEvents (s : State) : List (State → Out) :=
  s.linkEvents ++ (List.range 12).flatMap s.dieEvents ++ (s.cores.flatMap fun x => x.2.events x.1) ++ s.walkerEvents ++ s.versionEvents ++
  ((List.range 24).map execSelfRefreshExit)

/-- What an event changes, if it changes anything. -/
def State.changedBy (s : State) (f : State → Out) : Option State :=
  match f s with
  | .next t => if t = s then none else some t
  | _ => none

/-- The cycle from which a port can issue, if it can. -/
def State.portTime (s : State) (k p : Nat) (c : Core) : Option Nat :=
  match (c.portOf p).run with
  | some (a, w) => if s.mayIssue k a c w then some (c.issueTime 0 a []) else none
  | none =>
    if c.phase ≠ .running then none
    else (s.portReady k p c).foldl (fun m a =>
      let t := c.issueTime 0 a []
      match m with | none => some t | some n => some (min n t)) none

/-- The ports of a block that can issue, with the cycles from which they can. -/
def State.portUnits (s : State) (k : Nat) (c : Core) : List (Nat × Plan) :=
  (List.range 4).filterMap fun p => (s.portTime k p c).map fun t => (t, .port k p)

/-- The other units of a block that can issue, with their cycles. -/
def State.sideUnits (s : State) (k : Nat) (c : Core) : List (Nat × Plan) :=
  (if s.mayIssue k apAgent c .a && !c.stopped then [(c.issueTime 0 apAgent [], .ap k)] else []) ++
  (if c.activeDrain.isSome then [(s.now, .epi k)] else [])

/-- The ports of a block whose runs are under way and can go on. -/
def State.runUnits (s : State) (k : Nat) (c : Core) : List (Nat × Plan) :=
  (List.range 4).filterMap fun p => if (c.portOf p).run.isSome then (s.portTime k p c).map fun t => (t, .port k p) else none

/-- Put a unit into a list in the order of cycles, after those of its cycle. -/
def placeUnit (x : Nat × Plan) (l : List (Nat × Plan)) : List (Nat × Plan) :=
  match l with
  | [] => [x]
  | y :: rest => if x.1 < y.1 then x :: y :: rest else y :: placeUnit x rest

/-- Units in the order of their cycles. -/
def inOrder (l : List (Nat × Plan)) : List Plan := (l.foldl (fun l x => placeUnit x l) []).map fun x => x.2

/-- The units that can issue. -/
def State.units (s : State) : List Plan := inOrder (s.cores.flatMap fun x => s.portUnits x.1 x.2 ++ s.sideUnits x.1 x.2)

/-- While runs are under way, the units of a block that go on with them, those of lower ports that can issue as early, and the other processors: in one
cycle the ports act in ascending order, the access processor after them (R46, R253). -/
def State.unitsBeside (s : State) (k : Nat) (c : Core) : List (Nat × Plan) :=
  let runs := (List.range 4).filterMap fun p => if (c.portOf p).run.isSome then (s.portTime k p c).map fun t => (t, p) else none
  ((List.range 4).filterMap fun p => (s.portTime k p c).bind fun t =>
    if runs.any fun r => decide (t ≤ r.1) && decide (p ≤ r.2) then some (t, .port k p) else none) ++ s.sideUnits k c

/-- While runs are under way, the units that come before events. -/
def State.unitsOfRuns (s : State) : List Plan :=
  if s.cores.any fun x => !(s.runUnits x.1 x.2).isEmpty then inOrder (s.cores.flatMap fun x => s.unitsBeside x.1 x.2) else []

/-- The default order: runs that are under way (at most 24 slots each, R91), an event that is due, a unit, a cycle. -/
def State.actDefault (s : State) (ex : Instr → State → Out) : Out :=
  if s.stopped then .next s.tick
  else match s.unitsOfRuns.findSome? fun p => s.changedBy fun s => s.act ex p with
    | some t => .next t
    | none => match s.dueEvents.findSome? s.changedBy with
      | some t => .next t
      | none => match s.units.findSome? fun p => s.changedBy fun s => s.act ex p with
        | some t => .next t
        | none => .next s.tick

/-- Finish a step: what has become ready is noted (R356). -/
def finishStep (before : State) (o : Out) : Out :=
  match o with
  | .next t => .next (t.stampReady before)
  | .fault f => .fault f
  | .refused r => .refused r

/-- A step: the next act of the plan, or the next in the default order. -/
def State.advanceBy (s : State) (ex : Instr → State → Out) : Out :=
  match s.plan with
  | p :: rest => finishStep s (({ s with plan := rest } : State).act ex p)
  | [] => finishStep s (s.actDefault ex)

end Sys2Proof.Machine
end

