-- ==== Sys2Proof/Machine/Step.lean ====
section
/-! DEFINITION. One step, and how a word is placed so that the next step runs it. -/

namespace Sys2Proof.Machine

/-- One step of the package: the next act of the plan, or in the default order. -/
def step (s : State) : Out := s.advanceBy exec

/-! ## A word as the next instruction (log 4)

A program comes to run by boot, a page table and a launch through a work queue, which are many steps. `withFetchWord` stands for these: it
boots the part and places a block of one warp and its access processor on core 0, with the translation of its code page, whose first packet
holds the word. -/

/-- The code address of the block that is placed. -/
def placedCode : W64 := 0x1000000000#64

/-- The physical address of its code page. -/
def placedFrame : Nat := 0x10000

/-- The launch of the block that is placed. -/
def placedLaunch : Launch :=
  { code := placedCode, params := 0#64, epitab := 0#64, epiCount := 0, warpEntry := 0#32, apEntry := 0#32,
    trapEntry := 0xFFFFFFFF#32, emulEntry := 0xFFFFFFFF#32, warps := 1, window := 64, laneUnits := 1, shared := 4096, tileW := 4096,
    tileA := 4096, tileC := 16384, budget := 1000000, roles := List.replicate 16 0#8, seed := 0#32, divFrames := 64, asid := 0,
    domain := 0, ahead := false, coresident := false, redundant := false, divBase := 0#64, dieMask := 1#12, gangs := 1, blocks := 1 }

/-- The translation of its code page. -/
def placedEntry : TlbEntry :=
  { asid := 0, page := 0x100000, big := false, frame := placedFrame, w := false, x := true, d := false, ver := false, domain := 0 }

/-- A drain that runs a program of one word. -/
def placedDrain (word : W32) : MatrixCmd :=
  { id := 0, tag := 0, pc := slot1 placedCode, tile := 0, op := .drain 0#64 0 none [word] 0, batch := 0#32, loose := [],
    st := .draining
      { row := 0, group := 0, word := 0, e := List.replicate 16 (List.replicate 16 0#32), pois := List.replicate 16 (List.replicate 16 false),
        writes := [], finished := false, peerSectors := 0, peerLine := 0, signalled := 0 } }

/-- What acts next on core 0: its port 0, or its access processor for a word that only that may issue, or its epilogue processor for a
word that is no packet word. -/
def placedPlan (word : W32) : Plan :=
  match decode [] word with
  | some i => if (form false [] i).warp then .port 0 0 else .ap 0
  | none => if (decodeEpi word).isSome then .epi 0 else .port 0 0

/-- The state with a word stored where the next step fetches and runs it. -/
def State.withFetchWord (s : State) (nbits w : Nat) : State :=
  let word : W32 := BitVec.ofNat 32 (w % 2 ^ nbits)
  let block : Core := { Core.start s [] placedLaunch 0 0 0 0 0 0 0 0 with phase := .running, tlb := [placedEntry], mx := [placedDrain word] }
  let packet : BitVec 128 := 0#32 ++ 0#32 ++ word ++ 0x1DDC0000#32
  { s with
    boot := .ready
    mem := s.mem.writeBytes placedFrame (bytesOfNat 16 packet.toNat)
    cores := s.cores.put 0 block
    plan := [placedPlan word] }

end Sys2Proof.Machine
end

