-- ==== Sys2Proof/Machine/Window.lean ====
section
/-! DEFINITION. What the management window and the doorbells answer to a read (R6, R77, R251, R305, R306, R341, R353, R354, R369, R370, R372,
R378 to R381, R396, R407, R427, R428, R446, R451). The opcode table has no row for a read: it changes nothing, so that it is a function of the state. -/

namespace Sys2Proof.Machine

/-- A register of the management window, or a doorbell. -/
inductive WindowReg where
  | queue (q : Nat)
  | egress (domain : Nat)
  | pool (pool : Nat)
  | share (die domain : Nat)
  | age (die : Nat)
  | members (domain : Nat)
  | accept (domain : Nat) (which : AcceptReg)
  | errorLog (die k : Nat)
  | counter (die : Nat) (counter : CounterId)
  | pcctl (die : Nat)
  | replayThr (bundle module : Nat)
  | link (bundle module : Nat) (which : LinkReg)
  | logBase (die : Nat)
  | logHead (die : Nat)
  | logTail (die : Nat)
  | dumpBase (die : Nat)
  | dumpSize (die : Nat)
  | peerSlot (slot : Nat)
  | addressSpace (asid : Nat)
  | rstreq
  | doorbell (q : Nat)
  | reserved (offset : Nat)
  deriving DecidableEq, Repr

/-- A queue descriptor as a number (R341). -/
def Queue.bits (q : Queue) : Nat :=
  q.head.toNat * 2 ^ 224 + q.tail.toNat * 2 ^ 192 + q.budgetCap % 2 ^ 48 * 2 ^ 144 + q.quantum % 2 ^ 32 * 2 ^ 112 + q.asid % 256 * 2 ^ 104 +
    q.prio % 8 * 2 ^ 97 + q.draft.toNat * 2 ^ 96 + q.vf % 64 * 2 ^ 90 + q.logn % 32 * 2 ^ 85 + q.enable.toNat * 2 ^ 84 + q.base % 2 ^ 64

/-- An egress descriptor as a number (R251). -/
def Egress.bits (e : Egress) : Nat :=
  e.hcur.toNat * 2 ^ 192 + e.lcur.toNat * 2 ^ 160 + e.shadow % 2 ^ 64 * 2 ^ 96 + e.logn % 32 * 2 ^ 64 + e.base % 2 ^ 64

/-- A KV pool descriptor as a number: its 64 bytes, the first lowest (R370). -/
def Pool.bits (p : Pool) : Nat :=
  p.base + p.tbase * 2 ^ 64 + p.flbase * 2 ^ 128 + p.bbytes * 2 ^ 192 + p.pstride * 2 ^ 224 + p.nblk * 2 ^ 256 + p.nseq * 2 ^ 288 +
    p.maxblk * 2 ^ 320 + p.bshift * 2 ^ 352 + p.home * 2 ^ 360 + p.enable.toNat * 2 ^ 368 + p.flhead.toNat * 2 ^ 384 + p.fltail.toNat * 2 ^ 416

/-- A record of the error log as a number (R407). -/
def LogRecord.bits (r : LogRecord) : Nat :=
  r.code.toNat * 2 ^ 120 + r.detail.toNat * 2 ^ 112 + r.cls.toNat * 2 ^ 110 + r.fn.toNat * 2 ^ 104 + r.core.toNat * 2 ^ 96 +
    r.agent.toNat * 2 ^ 88 + r.vid.toNat * 2 ^ 80 + r.domain.toNat * 2 ^ 74 + r.addr.toNat

/-- A counter of R379. -/
def State.readCounter (s : State) (die : Nat) (counter : CounterId) : Nat :=
  let d := s.die die
  let core (k : Nat) : CoreCounters := (d.cores.find k).getD CoreCounters.zero
  match counter with
  | .crcErr b m => (s.feltModule b m).crcErr
  | .replayWin b m => (s.feltModule b m).replayWin
  | .issued k => (core k).issued
  | .apIssued k => (core k).apIssued
  | .fragSplit k => (core k).fragSplit
  | .fragFull k => (core k).fragFull
  | .wTrap k => (core k).wTrap
  | .raEnter k => (core k).raEnter
  | .raInstr k => (core k).raInstr
  | .raPref k => (core k).raPref
  | .hit k c => nth (s.slice die k).hits c 0
  | .miss k c => nth (s.slice die k).misses c 0
  | .sel k c => nth (s.slice die k).sel c 512
  | .pageReq => d.pageReqCount
  | .kills => d.kills
  | .halts => d.halts
  | .spillx => d.spillx
  | .corrErr => d.corrErr

/-- A link register as the window and `R77` show it. -/
def FeltModule.linkReg (x : FeltModule) (which : LinkReg) : Nat :=
  match which with
  | .rate => x.rate
  | .width => x.width
  | .replay => x.replays
  | .retired => x.retired

/-- What a register of the window reads as. Write-only registers, doorbells among them, and reserved ones read as zero (R6, R7, R428, R446); of PCCTL, FREEZE
reads (R381). DESIGN CHOICE (log 159): a table entry that is not valid reads as zero, a valid one with bit 64 set; record `k` of the error log is the
`k`-th oldest. -/
def State.windowRead (s : State) (r : WindowReg) : Nat :=
  match r with
  | .queue q => (s.queue q).bits
  | .egress n => (s.domain n).egress.bits
  | .pool n => (s.pools.find n).elim 0 Pool.bits
  | .share die n => (((s.die die).disp.share.find n).getD 0#32).toNat
  | .age die => (s.die die).disp.age
  | .members n => (s.domain n).members.toNat
  | .accept n w => match w with
    | .accept => (s.domain n).accept.toNat
    | .proposed => (s.domain n).proposed
    | .accepted => (s.domain n).accepted
  | .errorLog die k => ((s.die die).errlog[k]?).elim 0 LogRecord.bits
  | .counter die c => s.readCounter die c
  | .pcctl die => (s.die die).freeze.toNat
  | .replayThr b m => (s.feltModule b m).replayThr
  | .link b m w => (s.feltModule b m).linkReg w
  | .logBase die => (s.die die).logBase
  | .logHead die => (s.die die).logHead
  | .logTail die => (s.die die).logTail
  | .dumpBase die => (s.die die).dumpBase
  | .dumpSize die => (s.die die).dumpSize
  | .peerSlot k => (s.peers.find k).elim 0 fun x => 2 ^ 64 + x
  | .addressSpace n => (s.roots.find n).elim 0 fun x => 2 ^ 64 + x
  | .rstreq => 0
  | .doorbell _ => 0
  | .reserved _ => 0

/-- The registers that a function of the host reaches: the physical function all of them, a virtual function its own queues and the doorbells (R427). -/
def State.reaches (s : State) (fn : Nat) (r : WindowReg) : Bool :=
  decide (fn = 0) || match r with
    | .queue q => decide ((s.queue q).vf = fn)
    | .doorbell _ => true
    | _ => false

/-- A read by a function of the host: none while PCIe answers nothing (R408, R447), or where its window does not hold the register (R427). -/
def State.hostRead (s : State) (fn : Nat) (r : WindowReg) : Option Nat := if s.hostReady && s.reaches fn r then some (s.windowRead r) else none

/-- A read of the window over MCTP: none while the path is shut (R408, R447, R451). -/
def State.mctpRead (s : State) (path : MgmtPath) (r : WindowReg) : Option Nat := if s.pathOpen path then some (s.windowRead r) else none

end Sys2Proof.Machine
end

