-- ==== Sys2Proof/Safety.lean ====
section
/-! DEFINITION. The vocabulary of the claims: when an instruction's own effect happens, what may differ between two states (frames), and
the results that the rules of the spec give each instruction, written from the rules and apart from the meanings. -/

namespace Sys2Proof.Machine

/-! ## When a packet word has its own effect -/

/-- A packet word is issued and what happens is its own effect, apart from the checks that it adds itself: an agent of a resident block
issues it from a live slot outside run-ahead, its fields, prefixes and issuer are legal (R104), nothing that it reads must still be waited for (R93, R220),
some lane passes its guard (R94) and none that it reads is poisoned (R51). Answers what the instruction sees, and the state with
the free values of its early reads used up. -/
def State.acting (s : State) (i : Instr) : Option (Ctx × State) :=
  match s.cur with
  | none => none
  | some iss =>
    match s.core? iss.core with
    | none => none
    | some core =>
      let (c, s1) := mkCtx iss core i s
      if iss.agent ≤ apAgent ∧ c.th.ahead = none ∧ c.interlocked s1.now = false ∧ (c.form.reject c.ap c.th.window iss).isNone ∧
         (c.shortStall s1.now).isNone ∧ (c.th.wctl.getLsbD 0 && c.guardEarly s1.now) = false ∧ c.pass ≠ 0#32 ∧ c.poisoned = 0#32 ∧
         ((core.thread iss.agent).slot iss.slot).st = .live
      then some (c, s1) else none

/-- A packet word is issued from a live slot of a resident block, outside run-ahead: what it sees, before its checks and its guard. -/
def State.issuing (s : State) (i : Instr) : Option (Ctx × State) :=
  match s.cur with
  | none => none
  | some iss =>
    match s.core? iss.core with
    | none => none
    | some core =>
      let (c, s1) := mkCtx iss core i s
      if iss.agent ≤ apAgent ∧ (form? c.ap iss.xs i).isSome ∧ c.th.ahead = none ∧ c.interlocked s1.now = false ∧
         ((core.thread iss.agent).slot iss.slot).st = .live
      then some (c, s1) else none

/-! ## Frames -/

/-- Blank the elements of a file that are named by number. -/
def blankRegs {α : Type} (zero : α) (l : List α) (ns : List Nat) : List α := ns.foldl (fun l n => alterPad zero l n fun _ => zero) l

/-- A register is among those named, by their numbers in each file. -/
def isNamed (vs ss ps : List Nat) (r : RegRef) : Bool :=
  match r with
  | .v n => vs.contains n
  | .s n => ss.contains n
  | .p n => ps.contains n

/-- The results not seen yet in some lane, less those of the registers named. -/
def notReady (l : List Recent) (now : Nat) (ns : RegRef → Bool) : List Recent :=
  l.filter fun e => e.unseen now && decide (e.lanes ≠ 0#32) && !ns e.reg

/-- Outstanding accesses without the lanes that they will write in the registers named. -/
def notAwaited (l : List Access) (ns : RegRef → Bool) : List Access :=
  l.map fun x => { x with dests := x.dests.map fun (y : RegRef × W32) => if ns y.1 then (y.1, 0#32) else y }

/-- A wait without the register that it will write, where that is one of those named: an instruction that writes it takes it from the wait (R42). -/
def Wait.notAwaited (w : Wait) (ns : RegRef → Bool) : Wait :=
  match w with
  | .tbwait d a p t => if ns (.s d) then .tbwait 64 a p t else w
  | .egrsv d t n since => if ns (.s d) then .egrsv 64 t n since else w
  | .egrel x d t v asked => if ns (.s d) then .egrel x 64 t v asked else w
  | .sigsync p _ n tag => if ns (.p p) then .sigsync p 0#32 n tag else w
  | _ => w

/-- The same of a slot that waits. -/
def Slot.notAwaited (sl : Slot) (ns : RegRef → Bool) : Slot :=
  match sl.st with
  | .waiting w => { sl with st := .waiting (w.notAwaited ns) }
  | _ => sl

/-- The same of both slots of a thread. -/
def Thread.waitsApart (t : Thread) (ns : RegRef → Bool) : Thread := { t with slotA := t.slotA.notAwaited ns, slotB := t.slotB.notAwaited ns }

/-- A thread without what an instruction that falls through may change: the vector, scalar and predicate registers named, with the marks
that they are not ready and the lanes that an outstanding load or a wait would write there; where its slot stands; its loop stack. -/
def Thread.except (t : Thread) (now : Nat) (w : SlotId) (vs ss ps : List Nat) : Thread :=
  { (t.updSlot w fun sl => { sl with st := .live, pc := 0#64 }).waitsApart (isNamed vs ss ps) with
    v := blankRegs VReg.zero t.v vs
    s := blankRegs SReg.zero t.s ss
    p := blankRegs 0#32 t.p ps
    loops := []
    recent := notReady t.recent now (isNamed vs ss ps)
    inflight := notAwaited t.inflight (isNamed vs ss ps)
    aheadDone := t.aheadDone.filter fun x => x != w }

/-- What an instruction may change beside the registers named: more of its thread, of its block, or of the package. -/
structure Loosen where
  thread : Thread → Thread := id
  core : Core → Core := id
  state : State → State := id

/-- The state without what an instruction of slot `w` of agent `a` of core `k` may change. Two states that agree in this agree in every
byte of every memory, in every other core, agent and slot, in every register not named, in every special register, in FPSTAT and in
every table, save for what `x` names. The number of free values used is left out. -/
def State.except (s : State) (k a : Nat) (w : SlotId) (vs ss ps : List Nat) (x : Loosen := {}) : State :=
  { x.state (s.updCore k fun c => (x.core c).updThread a fun t => (x.thread t).except s.now w vs ss ps) with free := 0 }

/-- The state without what an instruction may change, for the slot that issues it. -/
def Ctx.rest (c : Ctx) (s : State) (vs ss ps : List Nat) (x : Loosen := {}) : State := s.except c.k c.a c.iss.slot vs ss ps x

/-- The thread that issues, in a state. -/
def Ctx.my (c : Ctx) (s : State) : Thread := s.thread c.k c.a

/-- The slot goes on after its instruction: to the next slot of the packet or the next packet, or as the loop stack says (R82, R122). -/
def Ctx.falls (c : Ctx) (s t : State) : Prop :=
  ((c.my t).slot c.iss.slot).st = .live ∧ ((c.my t).slot c.iss.slot).pc = ((c.my s).loopNext c.iss.tpc).1 ∧
    (c.my t).loops = ((c.my s).loopNext c.iss.tpc).2

/-- A result is not ready before its fixed latency has passed (R88). -/
def Ctx.readyAfter (c : Ctx) (s t : State) (r : RegRef) (lat : Nat) : Prop :=
  ∃ e ∈ (c.my t).recent, e.reg = r ∧ e.issuedAt = s.now ∧ e.readyAt = s.now + lat

/-- A scalar register holds a result, with the taint of all sources and no poison (R50, R51). -/
def Ctx.holdsS (c : Ctx) (t : State) (d : Nat) (v : W64) : Prop :=
  (c.my t).sreg d = { val := v, taint := c.taintAny, poison := false }

/-- A vector register holds a result in the passing lanes, with the taint of each lane's sources and no poison, and what it held before in
the others (R39, R50, R51). -/
def Ctx.holdsV (c : Ctx) (s t : State) (d : Nat) (f : Nat → W32) : Prop :=
  ∀ l < 32, (c.my t).lane d l = (if bit c.pass l then f l else (c.my s).lane d l) ∧
    bit ((c.my t).vreg d).taint l = (if bit c.pass l then c.taintAt l else bit ((c.my s).vreg d).taint l) ∧
    bit ((c.my t).vreg d).poison l = (!bit c.pass l && bit ((c.my s).vreg d).poison l)

/-- A predicate holds a result in the passing lanes, and what it held before in the others (R39, R41); in the access processor the one bit
of the predicate says whether the value is not 0 (R144). `p7` reads as all ones as ever. -/
def Ctx.holdsP (c : Ctx) (s t : State) (d : Nat) (v : W32) : Prop :=
  if d = 7 then (c.my t).pval 7 = allLanes
  else if c.ap then (c.my t).pval d = spread (decide (v ≠ 0#32))
  else ∀ l < 32, bit ((c.my t).pval d) l = if bit c.pass l then bit v l else bit ((c.my s).pval d) l

/-! ## Integer results (R139 to R156) -/

/-- A word as a number: unsigned where the bit is set. -/
def num {n : Nat} (u : BitVec 1) (x : BitVec n) : Int := if u = 1#1 then x.toNat else x.toInt

/-- The number of one bits. -/
def ones {n : Nat} (x : BitVec n) : Nat := ((List.range n).map fun i => (x.getLsbD i).toNat).sum

/-- The number of zero bits above the highest one bit: how many powers of two exceed the word. -/
def zerosAbove {n : Nat} (x : BitVec n) : Nat := ((List.range n).filter fun i => decide (x.toNat < 2 ^ i)).length

/-- The lowest one bit of a mask, or 32. -/
def lowest (m : W32) : Nat := ((List.range 32).find? fun i => m.getLsbD i).getD 32

/-- What a scalar instruction leaves in which scalar register (R139, R141, R143, R154). -/
def Ctx.scalarResult (c : Ctx) (i : Instr) : Option (BitVec 6 × W64) :=
  match i with
  | .sadd d a b i => some (d, BitVec.ofInt 64 ((c.s a).toInt + (c.sOrImm b i).toInt))
  | .ssub d a b i => some (d, BitVec.ofInt 64 ((c.s a).toInt - (c.sOrImm b i).toInt))
  | .smul d a b i => some (d, BitVec.ofInt 64 ((c.s a).toInt * (c.sOrImm b i).toInt))
  | .smulh d a b u => some (d, BitVec.ofInt 64 (num u (c.s a) * num u (c.s b) / 2 ^ 64))
  | .sdiv d a b u => some (d, if c.s b = 0#64 then 0xFFFFFFFFFFFFFFFF#64 else BitVec.ofInt 64 ((num u (c.s a)).tdiv (num u (c.s b))))
  | .sand d a b i => some (d, c.s a &&& c.sOrImm b i)
  | .sor d a b i => some (d, c.s a ||| c.sOrImm b i)
  | .sxor d a b i => some (d, c.s a ^^^ c.sOrImm b i)
  | .sshl d a b i => let n := (c.sOrImm b i).toNat; some (d, if n ≥ 64 then 0#64 else BitVec.ofNat 64 ((c.s a).toNat * 2 ^ n))
  | .sshr d a b i => let n := (c.sOrImm b i).toNat; some (d, if n ≥ 64 then 0#64 else BitVec.ofNat 64 ((c.s a).toNat / 2 ^ n))
  | .ssra d a b i => some (d, BitVec.ofInt 64 ((c.s a).toInt / 2 ^ min (c.sOrImm b i).toNat 63))
  | .smin d a b u i => some (d, BitVec.ofInt 64 (min (num u (c.s a)) (num u (c.sOrImm b i))))
  | .smax d a b u i => some (d, BitVec.ofInt 64 (max (num u (c.s a)) (num u (c.sOrImm b i))))
  | .scmp d a b u i =>
    let x := num u (c.s a)
    let y := num u (c.sOrImm b i)
    some (d, BitVec.ofInt 64 (if x < y then -1 else if x = y then 0 else 1))
  | .ssel d a b i => some (d, if c.s d = 0#64 then c.sOrImm b i else c.s a)
  | .spopc d a => some (d, BitVec.ofNat 64 (ones (c.s a)))
  | .sclz d a => some (d, BitVec.ofNat 64 (zerosAbove (c.s a)))
  | .sbfe d a b u => some (d, bfe (c.s a) (c.s b) (decide (u = 0#1)))
  | .sbfi d a b => some (d, bfi (c.s d) (c.s a) (c.s b))
  | .smov d a => some (d, c.s a)
  | .saddi d a i => some (d, BitVec.ofInt 64 ((c.s a).toInt + (c.imm14 i).toInt))
  | .sli d i => some (d, c.imm20 i)
  | .pmovSp d a => some (d, (c.p a).setWidth 64)
  | .ppopc d a => some (d, BitVec.ofNat 64 (ones (c.p a &&& c.passing)))
  | .pfirst d a => some (d, BitVec.ofNat 64 (lowest (c.p a &&& c.passing)))
  | .voteBallot d a => some (d, (c.p a &&& c.pass).setWidth 64)
  | _ => none

/-- What a predicate instruction leaves in which predicate (R143, R149, R154). -/
def Ctx.predResult (c : Ctx) (i : Instr) : Option (Nat × W32) :=
  match i with
  | .pand d a b n => some (d.toNat, c.p a &&& if n = 1#1 then ~~~c.p b else c.p b)
  | .por d a b n => some (d.toNat, c.p a ||| if n = 1#1 then ~~~c.p b else c.p b)
  | .pxor d a b => some (d.toNat, c.p a ^^^ c.p b)
  | .pnot d a => some (d.toNat, ~~~c.p a)
  | .pmovPp d a => some (d.toNat, c.p a)
  | .pmovPs d a => some (d.toNat, (c.s a).setWidth 32)
  | .pmovCc d a m =>
    let x := (c.s a).toInt
    let holds : Bool := match m.toNat with
      | 3 => decide (x = 0)
      | 4 => decide (x ≠ 0)
      | 5 => decide (x < 0)
      | 6 => decide (x ≤ 0)
      | 7 => decide (0 < x)
      | _ => decide (0 ≤ x)
    some (d.toNat, if holds then 0xFFFFFFFF#32 else 0#32)
  | .pseti d => some (d.toNat, BitVec.ofInt 32 c.x.toInt)
  | .vcmpEq d a b i => some (d.toNat, maskOf fun l => decide ((c.v a l).toNat = (c.vOrImm b i l).toNat))
  | .vcmpNe d a b i => some (d.toNat, maskOf fun l => decide ((c.v a l).toNat ≠ (c.vOrImm b i l).toNat))
  | .vcmpLt d a b u i => some (d.toNat, maskOf fun l => decide (num u (c.v a l) < num u (c.vOrImm b i l)))
  | .vcmpLe d a b u i => some (d.toNat, maskOf fun l => decide (num u (c.v a l) ≤ num u (c.vOrImm b i l)))
  | .vcmpGt d a b u i => some (d.toNat, maskOf fun l => decide (num u (c.v a l) > num u (c.vOrImm b i l)))
  | .vcmpGe d a b u i => some (d.toNat, maskOf fun l => decide (num u (c.v a l) ≥ num u (c.vOrImm b i l)))
  | .voteAny d a => some (d.toNat, maskOf fun _ => (List.range 32).any fun l => bit c.pass l && bit (c.p a) l)
  | .voteAll d a => some (d.toNat, maskOf fun _ => (List.range 32).all fun l => !bit c.pass l || bit (c.p a) l)
  | .voteUni d a =>
    some (d.toNat, maskOf fun _ => (List.range 32).all fun l => (List.range 32).all fun j =>
      !bit c.pass l || !bit c.pass j || decide (c.v a l = c.v a j))
  | .matchFirst d a =>
    some (d.toNat, maskOf fun l => (List.range 32).all fun j => !decide (j < l) || !bit c.pass j || decide (c.v a j ≠ c.v a l))
  | _ => none

/-- Element `k` of `w` bits of a lane: unsigned, or two's complement. -/
def element (w : Nat) (unsigned : Bool) (x : W32) (k : Nat) : Int :=
  if unsigned then (x.toNat / 2 ^ (w * k)) % 2 ^ w else (BitVec.ofNat w (x.toNat / 2 ^ (w * k))).toInt

/-- A sum clamped to a range. -/
def clamp (lo hi t : Int) : Int := if t < lo then lo else if t > hi then hi else t

/-- The accumulation of a dot product of `n` elements of `w` bits (R155). -/
def dotProduct (w n : Nat) (m : BitVec 3) (x y acc : W32) : W32 :=
  let both := m.getLsbD 0 && m.getLsbD 1
  let sum := ((List.range n).map fun k => element w (m.getLsbD 0) x k * element w (m.getLsbD 1) y k).sum
  if m.getLsbD 2 then
    if both then BitVec.ofInt 32 (clamp 0 (2 ^ 32 - 1) (sum + acc.toNat))
    else BitVec.ofInt 32 (clamp (-(2 ^ 31)) (2 ^ 31 - 1) (sum + acc.toInt))
  else BitVec.ofInt 32 (sum + acc.toInt)

/-- The source lane of a permute for a lane (R150). -/
def Ctx.source (c : Ctx) (i : Instr) (l : Nat) : Nat :=
  match i with
  | .perm _ _ b => (c.v b l).toNat % 32
  | .permx _ _ b => l ^^^ b.toNat
  | .shflup _ _ b => if l < b.toNat then l else l - b.toNat
  | .shfldn _ _ b => if l + b.toNat > 31 then l else l + b.toNat
  | .bcastReg _ _ b => (c.s b).toNat % 32
  | .bcastImm _ _ b => b.toNat
  | _ => l

/-- A lane of a source as a cross-lane instruction reads it: an inactive lane reads as 0 (R137). -/
def Ctx.seen (c : Ctx) (a : BitVec 6) (j : Nat) : W32 := if bit c.pass j then c.v a j else 0#32

/-- What a vector integer or cross-lane instruction leaves in the passing lanes of which vector register (R145 to R156). -/
def Ctx.vectorResult (c : Ctx) (i : Instr) : Option (BitVec 6 × (Nat → W32)) :=
  match i with
  | .vadd d a b i => some (d, fun l => BitVec.ofInt 32 ((c.v a l).toInt + (c.vOrImm b i l).toInt))
  | .vsub d a b i => some (d, fun l => BitVec.ofInt 32 ((c.v a l).toInt - (c.vOrImm b i l).toInt))
  | .vmul d a b i => some (d, fun l => BitVec.ofInt 32 ((c.v a l).toInt * (c.vOrImm b i l).toInt))
  | .vmulh d a b u => some (d, fun l => BitVec.ofInt 32 (num u (c.v a l) * num u (c.v b l) / 2 ^ 32))
  | .vmad d a b => some (d, fun l => BitVec.ofInt 32 ((c.v a l).toInt * (c.v b l).toInt + (c.v d l).toInt))
  | .vand d a b i => some (d, fun l => c.v a l &&& c.vOrImm b i l)
  | .vor d a b i => some (d, fun l => c.v a l ||| c.vOrImm b i l)
  | .vxor d a b i => some (d, fun l => c.v a l ^^^ c.vOrImm b i l)
  | .vshl d a b i =>
    some (d, fun l => let n := (c.vOrImm b i l).toNat; if n ≥ 32 then 0#32 else BitVec.ofNat 32 ((c.v a l).toNat * 2 ^ n))
  | .vshr d a b i =>
    some (d, fun l => let n := (c.vOrImm b i l).toNat; if n ≥ 32 then 0#32 else BitVec.ofNat 32 ((c.v a l).toNat / 2 ^ n))
  | .vsra d a b i => some (d, fun l => BitVec.ofInt 32 ((c.v a l).toInt / 2 ^ min (c.vOrImm b i l).toNat 31))
  | .vmin d a b u i => some (d, fun l => BitVec.ofInt 32 (min (num u (c.v a l)) (num u (c.vOrImm b i l))))
  | .vmax d a b u i => some (d, fun l => BitVec.ofInt 32 (max (num u (c.v a l)) (num u (c.vOrImm b i l))))
  | .vabsd d a b u => some (d, fun l => BitVec.ofNat 32 (num u (c.v a l) - num u (c.v b l)).natAbs)
  | .vpopc d a => some (d, fun l => BitVec.ofNat 32 (ones (c.v a l)))
  | .vclz d a => some (d, fun l => BitVec.ofNat 32 (zerosAbove (c.v a l)))
  | .vbfe d a b u => some (d, fun l => bfe (c.v a l) (c.v b l) (decide (u = 0#1)))
  | .vbfi d a b => some (d, fun l => bfi (c.v d l) (c.v a l) (c.v b l))
  | .vmov d a => some (d, fun l => c.v a l)
  | .vdot4 d a b u =>
    some (d, fun l => BitVec.ofInt 32 ((c.v d l).toInt +
      ((List.range 4).map fun k => element 8 (decide (u = 1#1)) (c.v a l) k * element 8 (decide (u = 1#1)) (c.v b l) k).sum))
  | .vaddi d a i => some (d, fun l => BitVec.ofInt 32 ((c.v a l).toInt + (c.imm14 i).toInt))
  | .vli d i => some (d, fun _ => BitVec.ofInt 32 (c.imm20 i).toInt)
  | .vsel d a b i => some (d, fun l => if c.v d l = 0#32 then c.vOrImm b i l else c.v a l)
  | .vdot4I16 d a b m => some (d, fun l => dotProduct 16 2 m (c.v a l) (c.v b l) (c.v d l))
  | .vdot4I4 d a b m => some (d, fun l => dotProduct 4 8 m (c.v a l) (c.v b l) (c.v d l))
  | .perm d a b => some (d, fun l => c.seen a (c.source (.perm d a b) l))
  | .permx d a b => some (d, fun l => c.seen a (c.source (.permx d a b) l))
  | .shflup d a b => some (d, fun l => c.seen a (c.source (.shflup d a b) l))
  | .shfldn d a b => some (d, fun l => c.seen a (c.source (.shfldn d a b) l))
  | .bcastReg d a b => some (d, fun l => c.seen a (c.source (.bcastReg d a b) l))
  | .bcastImm d a b => some (d, fun l => c.seen a (c.source (.bcastImm d a b) l))
  | .matchAny d a => some (d, fun l => maskOf fun j => bit c.pass j && decide (c.v a j = c.v a l))
  | .vmovBt d a => some (d, fun l => maskOf fun j => bit (c.seen a j) l)
  | .vorBmm d a b => some (d, fun l => maskOf fun x => (List.range 32).any fun j => bit (c.v a l) j && bit (c.seen b j) x)
  | .vxorBmm d a b =>
    some (d, fun l => maskOf fun x => decide (((List.range 32).filter fun j => bit (c.v a l) j && bit (c.seen b j) x).length % 2 = 1))
  | .mxscale d a t =>
    some (d, fun _ => BitVec.ofNat 32 (mxScale t.toNat ((lanesOf c.pass).map fun l => fp32.decode (c.v a l).toNat)))
  | _ => none

/-- The exact sum of `VADDC` in a lane (R146). -/
def Ctx.withCarry (c : Ctx) (a b : BitVec 6) (l : Nat) : Nat := (c.v a l).toNat + (c.v b l).toNat + (bit (c.th.pval 6) l).toNat

/-- The rank of a lane in `ARGMAX` (R153): as `.s32` or `.u32` its number; as `.f32` its sign and magnitude, a NaN below all. -/
def rankOf (m : BitVec 4) (x : W32) : Int :=
  if m = 0#4 then
    let mag : Nat := x.toNat % 2 ^ 31
    if mag > 0x7F800000 then -(2 ^ 31) else if x.getLsbD 31 then -(mag : Int) else (mag : Int)
  else if m = 1#4 then x.toInt else (x.toNat : Int)

/-- The integer operations of `REDUCE` and `SCAN` (R151). -/
def combineInt (m : BitVec 4) (x y : W32) : W32 :=
  match m.toNat with
  | 0 => BitVec.ofNat 32 (x.toNat + y.toNat)
  | 1 => if x.toInt ≤ y.toInt then x else y
  | 2 => if x.toInt ≤ y.toInt then y else x
  | 3 => if x.toNat ≤ y.toNat then x else y
  | 4 => if x.toNat ≤ y.toNat then y else x
  | 5 => x &&& y
  | 6 => x ||| y
  | _ => x ^^^ y

/-- The passing lanes up to a lane. -/
def Ctx.upTo (c : Ctx) (l : Nat) : List Nat := (List.range 32).filter fun j => bit c.pass j && decide (j ≤ l)

/-! ## Floating-point results (R168 to R183) -/

/-- Lane results: the vector registers with their lanes, the flags that the passing lanes raise together, and the stochastic generators. -/
structure LaneResult where
  regs : List (Nat × (Nat → W32))
  flags : W32
  gen : List W32

/-- The flags of the passing lanes together (R164). -/
def Ctx.anyFlags (c : Ctx) (f : Nat → W32) : W32 := maskOf fun b => (List.range 32).any fun l => bit c.pass l && bit (f l) b

/-- Element results of a type in a lane, each with its flags, as a lane result (R160, R164, R169). -/
def Ctx.elements (c : Ctx) (t : BitVec 2) (d : BitVec 6) (f : Nat → List (Nat × W32)) : LaneResult :=
  let word (l : Nat) : Nat := match (f l).map Prod.fst with
    | [x] => x
    | [x, y] => x + 65536 * y
    | _ => 0
  { regs := if t = 1#2 then [(d.toNat, fun l => BitVec.ofNat 32 (word l)), (d.toNat + 1, fun l => BitVec.ofNat 32 (word l / 2 ^ 32))]
      else [(d.toNat, fun l => BitVec.ofNat 32 (word l))]
    flags := c.anyFlags fun l => (f l).foldl (fun m x => m ||| x.2) 0#32
    gen := c.th.gen }

/-- Results of one operand, element by element. -/
def Ctx.each1 (c : Ctx) (t : BitVec 2) (d a : BitVec 6) (f : Format → Nat → Nat × W32) : LaneResult :=
  c.elements t d fun l => (c.codes t a l).map (f (typeFormat t))

/-- Results of two operands, element by element. -/
def Ctx.each2 (c : Ctx) (t : BitVec 2) (d a b : BitVec 6) (f : Format → Nat → Nat → Nat × W32) : LaneResult :=
  c.elements t d fun l => List.zipWith (f (typeFormat t)) (c.codes t a l) (c.codes t b l)

/-- Results of two operands and the destination, element by element. -/
def Ctx.each3 (c : Ctx) (t : BitVec 2) (d a b : BitVec 6) (f : Format → Nat → Nat → Nat → Nat × W32) : LaneResult :=
  c.elements t d fun l => List.zipWith (fun g z => g z) (List.zipWith (f (typeFormat t)) (c.codes t a l) (c.codes t b l)) (c.codes t d l)

/-- The terms of `sum_round` for a sum, a difference, a product, a fused product and sum (R170, R171). -/
def plusOf (r : BitVec 2) (f : Format) (x y : Nat) : Nat × W32 := sumRound [.one (f.decode x), .one (f.decode y)] f (RMode.ofBits r)
/-- A difference. -/
def minusOf (r : BitVec 2) (f : Format) (x y : Nat) : Nat × W32 := sumRound [.one (f.decode x), .one (f.decode y).negate] f (RMode.ofBits r)
/-- A product. -/
def timesOf (r : BitVec 2) (f : Format) (x y : Nat) : Nat × W32 := sumRound [.prod (f.decode x) (f.decode y)] f (RMode.ofBits r)
/-- A product added to the destination. -/
def fusedOf (r : BitVec 2) (f : Format) (x y z : Nat) : Nat × W32 :=
  sumRound [.prod (f.decode x) (f.decode y), .one (f.decode z)] f (RMode.ofBits r)
/-- Two products added to an FP32 destination. -/
def twoProducts (r : BitVec 2) (f : Format) (x0 y0 x1 y1 z : Nat) : Nat × W32 :=
  sumRound [.prod (f.decode x0) (f.decode y0), .prod (f.decode x1) (f.decode y1), .one (fp32.decode z)] fp32 (RMode.ofBits r)

/-- No flag. -/
def exactly (x : Nat) : Nat × W32 := (x, 0#32)

/-- A stochastic conversion draws once for each of `k` elements of every passing lane, in element order (R165); another one draws
nothing. Answers the generators it leaves and the draws of a lane. -/
def Ctx.drawn (c : Ctx) (m : BitVec 4) (k : Nat) : List W32 × (Nat → Nat → Nat) :=
  ((c.draws (cvtMode m) k).1, fun l j => drawOf (c.draws (cvtMode m) k).2 l j)

/-- What a floating-point instruction or a conversion leaves (R171 to R178, R180, R181, R183); the forms of `CVTPK` that write half of each
lane are apart. -/
def Ctx.floatResult (c : Ctx) (i : Instr) : Option LaneResult :=
  match i with
  | .fadd d a b r => some (c.each2 0#2 d a b (plusOf r))
  | .fsub d a b r => some (c.each2 0#2 d a b (minusOf r))
  | .fmul d a b r => some (c.each2 0#2 d a b (timesOf r))
  | .fmin d a b => some (c.each2 0#2 d a b fun f x y => exactly (fminCode f x y))
  | .fmax d a b => some (c.each2 0#2 d a b fun f x y => exactly (fmaxCode f x y))
  | .fneg d a => some (c.each1 0#2 d a fun f x => exactly (fnegCode f x))
  | .fabs d a => some (c.each1 0#2 d a fun f x => exactly (fabsCode f x))
  | .fclamp d a b => some (c.each3 0#2 d a b fun f lo hi x => exactly (fclampCode f x lo hi))
  | .fdot2 d a b r =>
    some (c.elements 0#2 d fun l =>
      [twoProducts r fp32 (c.v a l).toNat (c.v b l).toNat (c.th.lane (a.toNat + 1) l).toNat (c.th.lane (b.toNat + 1) l).toNat (c.v d l).toNat])
  | .fround d a r => some (c.each1 0#2 d a fun f x => exactly (froundCode f x (RMode.ofBits r)))
  | .fscale d a b r => some (c.elements 0#2 d fun l => (c.codes 0#2 a l).map fun x => fscaleCode fp32 x (c.v b l).toInt (RMode.ofBits r))
  | .faddT d a b t r => some (c.each2 t d a b (plusOf r))
  | .fsubT d a b t r => some (c.each2 t d a b (minusOf r))
  | .fmulT d a b t r => some (c.each2 t d a b (timesOf r))
  | .fminT d a b t => some (c.each2 t d a b fun f x y => exactly (fminCode f x y))
  | .fmaxT d a b t => some (c.each2 t d a b fun f x y => exactly (fmaxCode f x y))
  | .fnegT d a t => some (c.each1 t d a fun f x => exactly (fnegCode f x))
  | .fabsT d a t => some (c.each1 t d a fun f x => exactly (fabsCode f x))
  | .fclampT d a b t => some (c.each3 t d a b fun f lo hi x => exactly (fclampCode f x lo hi))
  | .fdot2Packed d a b t r =>
    let f := if t = 1#1 then bf16 else fp16
    let half (x : W32) (k : Nat) : Nat := x.toNat / 2 ^ (16 * k) % 2 ^ 16
    some (c.elements 0#2 d fun l =>
      [twoProducts r f (half (c.v a l) 0) (half (c.v b l) 0) (half (c.v a l) 1) (half (c.v b l) 1) (c.v d l).toNat])
  | .froundT d a t r => some (c.each1 t d a fun f x => exactly (froundCode f x (RMode.ofBits r)))
  | .fscaleT d a b t r =>
    some (c.elements t d fun l => (c.codes t a l).map fun x => fscaleCode (typeFormat t) x (c.v b l).toInt (RMode.ofBits r))
  | .ffma d a b t r => some (c.each3 t d a b (fusedOf r))
  | .exp2 d a => some (c.each1 0#2 d a fun _ x => exp2Code x)
  | .lg2 d a => some (c.each1 0#2 d a fun _ x => lg2Code x)
  | .rcp d a r => some (c.each1 0#2 d a fun _ x => rcpCode x (RMode.ofBits r))
  | .rsq d a r => some (c.each1 0#2 d a fun _ x => rsqCode x (RMode.ofBits r))
  | .sqrt d a r => some (c.each1 0#2 d a fun _ x => sqrtCode x (RMode.ofBits r))
  | .cvt d a x y m =>
    let raw (l : Nat) : W64 := if cvtCount y = 2 then c.v2 a l else (c.v a l).setWidth 64
    let r (l : Nat) : W64 × W32 := cvtCode x.toNat (cvtSource y.toNat (raw l)) (cvtMode m) ((c.drawn m 1).2 l 0)
    some { regs := if cvtCount x = 2 then
             [(d.toNat, fun l => (r l).1.extractLsb' 0 32), (d.toNat + 1, fun l => (r l).1.extractLsb' 32 32)]
             else [(d.toNat, fun l => (r l).1.extractLsb' 0 32)]
           flags := c.anyFlags fun l => (r l).2
           gen := (c.drawn m 1).1 }
  | .cvtpk2 d a t m =>
    let r (l k : Nat) : Nat × W32 := narrowCode (narrowOf t.toNat) (c.th.lane (a.toNat + k) l) (cvtMode m) ((c.drawn m 2).2 l k)
    some { regs := [(d.toNat, fun l => BitVec.ofNat 32 ((r l 0).1 + 65536 * (r l 1).1))]
           flags := c.anyFlags fun l => (r l 0).2 ||| (r l 1).2
           gen := (c.drawn m 2).1 }
  | .cvtpk4 d a t m =>
    let r (l k : Nat) : Nat × W32 := narrowCode (narrowOf t.toNat) (c.th.lane (a.toNat + k) l) (cvtMode m) ((c.drawn m 4).2 l k)
    if narrowBits t.toNat = 8 then
      some { regs := [(d.toNat, fun l => BitVec.ofNat 32 ((r l 0).1 + 256 * (r l 1).1 + 65536 * (r l 2).1 + 16777216 * (r l 3).1))]
             flags := c.anyFlags fun l => (r l 0).2 ||| (r l 1).2 ||| (r l 2).2 ||| (r l 3).2
             gen := (c.drawn m 4).1 }
    else none
  | .cvtwide d a t =>
    let w := narrowBits t.toNat
    some { regs := (List.range (if w = 16 then 2 else 4)).map fun k =>
             (d.toNat + k, fun l => widenCode (narrowOf t.toNat)
               ((c.v a l).toNat / 2 ^ (w * (if narrowHigh t.toNat then k + 4 else k)) % 2 ^ w))
           flags := 0#32
           gen := c.th.gen }
  | .mxq d a t m =>
    match narrowOf t.toNat with
    | .int _ _ => none
    | .float f =>
      let r (l : Nat) : Nat × W32 := mxqCode (c.v a l).toNat ((c.v d l).toNat % 256) f (cvtMode m) ((c.drawn m 1).2 l 0)
      some { regs := [(d.toNat, fun l => BitVec.ofNat 32 (r l).1)], flags := c.anyFlags fun l => (r l).2, gen := (c.drawn m 1).1 }
  | _ => none

/-- FPSTAT and the stochastic generators may change too. -/
def looseFloat : Loosen := { thread := fun t => { t with fpstat := 0#32, gen := [] } }

/-- The formats of the spec (R157). -/
def formats : List Format := [fp64, fp32, fp16, bf16, e4m3, e5m2, e2m3, e3m2, e2m1]

/-- The place of an encoding in the order of `FMIN` and `FMAX` (R172): by sign and magnitude, −0 below +0. -/
def orderKey (f : Format) (x : Nat) : Int := if f.neg x then -(f.magnitude x : Int) - 1 else f.magnitude x

/-- The fixed latency of a scalar, predicate or integer lane result by the pipe of its major: SCA 2, VIA 4, XL 6 (R88, R136). -/
def resultLatency (i : Instr) : Nat :=
  match i with
  | .vcmpEq .. | .vcmpNe .. | .vcmpLt .. | .vcmpLe .. | .vcmpGt .. | .vcmpGe .. => 4
  | .vadd .. | .vsub .. | .vaddc .. | .vmul .. | .vmulh .. | .vmad .. | .vand .. | .vor .. | .vxor .. | .vshl .. | .vshr .. | .vsra .. => 4
  | .vmin .. | .vmax .. | .vabsd .. | .vpopc .. | .vclz .. | .vbfe .. | .vbfi .. | .vmov .. | .vdot4 .. | .vaddi .. | .vli .. | .vsel .. => 4
  | .vdot4I16 .. | .vdot4I4 .. | .vmovBt .. | .vorBmm .. | .vxorBmm .. | .mxscale .. => 4
  | .perm .. | .permx .. | .shflup .. | .shfldn .. | .bcastReg .. | .bcastImm .. => 6
  | .voteBallot .. | .voteAny .. | .voteAll .. | .voteUni .. | .matchAny .. | .matchFirst .. | .reduce .. | .scan .. | .argmax .. => 6
  | _ => 2

/-! ## Control (R115 to R132) -/

/-- The run on the port of the issuing warp may end too (R31). -/
def looseRun : Loosen := { core := fun c => { c with ports := [] } }

/-- No run of the issuing slot is left on its port (R31, R117). -/
def Ctx.runEnded (c : Ctx) (t : State) : Prop :=
  ∀ core, t.core? c.k = some core → c.a < 16 → (core.portOf c.a).run ≠ some (c.a, c.iss.slot)

/-- The slot goes on at an address, with the loop stack that it had. -/
def Ctx.lands (c : Ctx) (s t : State) (pc : W64) : Prop :=
  ((c.my t).slot c.iss.slot).st = .live ∧ ((c.my t).slot c.iss.slot).pc = pc ∧ (c.my t).loops = (c.my s).loops

/-- Slot 1 of the packet that a displacement in packets names from the packet of the target word (R115). -/
def Ctx.packetAt (c : Ctx) (disp : W64) : W64 := (c.iss.tpc &&& 0xFFFFFFFFFFFFFFF0#64) + 16#64 * disp + 4#64

/-- Where a transfer that is taken goes, and the register that it leaves its link in (R115, R116, R125); none where the address is
misaligned or the branch diverges. -/
def Ctx.transfer (c : Ctx) (i : Instr) : Option (W64 × Option (BitVec 6)) :=
  match i with
  | .jmp a => if (c.s a).toNat % 16 = 0 then some (c.s a + 4#64, none) else none
  | .callReg d a => if (c.s a).toNat % 16 = 0 then some (c.s a + 4#64, some d) else none
  | .callDisp d => some (c.packetAt c.x, some d)
  | .ret a =>
    if (c.s a).toNat % 16 = 0 then some (c.s a + 4#64, none) else if (c.s a).toNat % 4 = 0 then some (c.s a, none) else none
  | .bra d => some (c.packetAt (c.disp26 d), none)
  | .brv => if c.pass = c.mask then some (c.packetAt c.x, none) else none
  | _ => none

/-- The thread may enter or leave a handler: its trap registers, its results in flight and the firmware's counters of the cores may change
too, and its run ends (R68, R69, R132). -/
def looseTrap : Loosen :=
  { thread := fun t => { t with trapCause := 0#32, trapPc := 0#64, trapMask := 0#32, handler := none, fullTrap := none, recent := [], nextAt := 0,
                                parked := false }
    core := fun c => { c with ports := [] }
    state := fun s => { s with dies := (List.range Config.dies).map fun d => { s.die d with cores := [] } } }

/-- The warp goes on in a handler, with what its trap registers say of the instruction trapped (R68, R132). -/
def Ctx.entersHandler (c : Ctx) (s t : State) (entry : W32) (code detail : W8) (resume : Bool) (mask : W32) : Prop :=
  c.lands s t (((c.core.launch.code + entry.setWidth 64) &&& 0xFFFFFFFFFFFFFFF0#64) + 4#64) ∧
    (c.my t).trapCause = BitVec.ofNat 32 (code.toNat + 256 * detail.toNat + 65536 * resume.toNat + (if c.iss.slot = .b then 262144 else 0)) ∧
    (c.my t).trapPc = c.iss.pc ∧ (c.my t).trapMask = mask ∧ (c.my t).handler = some c.iss.slot ∧ c.runEnded t ∧
    c.rest t [] [] [] looseTrap = c.rest s [] [] [] looseTrap

/-- A warp that may take a trap: it runs no handler, its grid has one, and its version is not broke (R132, R134, R391). -/
def Ctx.mayTrap (c : Ctx) : Prop := c.a < 16 ∧ c.th.handler = none ∧ c.core.launch.trapEntry ≠ 0xFFFFFFFF#32 ∧ c.core.squashed = false

/-- The scalar system registers with their values (R60, R63 to R79). -/
def Ctx.systemTable (c : Ctx) (s : State) : List (Nat × W64) :=
  let num (x : Nat) : W64 := BitVec.ofNat 64 x
  let t := c.th
  let d := s.domain c.core.launch.domain
  let link := s.feltModule (t.wctl.toNat / 128 % 16) (t.wctl.toNat / 16 % 8)
  [(0x001, num c.a), (0x002, num t.role.toNat), (0x003, num (t.slot c.iss.slot).fragId.toNat), (0x010, num c.core.block),
   (0x011, num c.core.gang), (0x012, num c.core.span), (0x013, num c.core.vid), (0x014, num c.core.launch.domain),
   (0x015, num (c.core.launch.ahead.toNat + 2 * t.inhibit.toNat)), (0x020, num t.trapCause.toNat), (0x021, t.trapPc),
   (0x022, num t.trapMask.toNat), (0x030, num t.fpstat.toNat), (0x031, num t.wctl.toNat), (0x040, num (c.k % 128)),
   (0x041, num (s.now - s.resetAt)), (0x050, num (c.k / 128)), (0x051, 0x00000003#64), (0x052, 0x000080C0#64), (0x053, 0x20102010#64),
   (0x054, 0x04100040#64), (0x060, num link.rate), (0x061, num link.width), (0x062, num link.replays), (0x063, num link.retired),
   (0x070, num d.accept.toNat), (0x071, num (d.proposed % 2 ^ 48)), (0x072, num (d.accepted % 2 ^ 48))]

/-- The lanes of the issuing warp that are held outside the issuing slot: by its other slot, a fragment or a frame (R49). -/
def Ctx.elsewhere (c : Ctx) (s : State) : W32 :=
  (c.my s).stack.foldl (fun m f => m ||| f.held) (((c.my s).slot (otherSlot c.iss.slot)).mask ||| c.core.fragLanes c.a)

/-- A thread apart from where its lanes stand: its registers, special registers, window and accesses. -/
def Thread.apart (t : Thread) : Thread :=
  { t with slotA := Slot.none, slotB := Slot.none, stack := [], loops := [], handler := none, aheadDone := [], parked := false }

/-- Registers of an agent and the block's pool of them may change too: windows, releases, claims (R53 to R56), and the run of the warp (R31). -/
def looseWindow : Loosen :=
  { core := fun x => { x with pool := 0, released := [], claims := [], ports := [] }, thread := fun t => { t with v := [], window := 0 } }

/-- What a wait on a barrier changes beside the slot: which `TFENCE`s the warp knows of (R216). -/
def looseKnow : Loosen := { core := fun x => { x with know := [] } }

/-- A request without the mark that its answer may fill L1. -/
def LineReq.unfilled (r : LineReq) : LineReq := { r with epoch := 0 }

/-- An access without those marks. -/
def Access.unfilled (x : Access) : Access := { x with reqs := x.reqs.map LineReq.unfilled }

/-- A thread without those marks. -/
def Thread.unfilled (t : Thread) : Thread := { t with inflight := t.inflight.map Access.unfilled }

/-- What an acquire of the engines' writes changes: what of L1 loads may be served from, and which answers may fill it (R334, R339). -/
def looseEngines : Loosen := { core := fun x => { x with stale := [], engineWrote := [], thr := x.thr.map Thread.unfilled } }

/-- The slots, the divergence stack and the run of the issuing warp may change too (R123 to R127). -/
def looseSlots : Loosen :=
  { thread := fun t => { t with slotA := Slot.none, slotB := Slot.none, stack := [] }
    core := fun c => { c with ports := [] } }

/-- The slot waits at its instruction, for the reason named; a blocking wait has ended the run (R31, R49, R87). -/
def Ctx.waits (c : Ctx) (s t : State) (w : Wait) : Prop :=
  (c.my t).slot c.iss.slot = { (c.my s).slot c.iss.slot with st := .waiting w } ∧ (w ≠ .structural → c.runEnded t) ∧
    (c.my t).loops = (c.my s).loops

/-- The core of the issuing agent, in a state. -/
def Ctx.here (c : Ctx) (s : State) : Core := (s.core? c.k).getD c.core

/-- The agent has acquired what the block's engines wrote to global memory (R339): no load is served from L1 a held sector that they wrote, and no answer to a
request already made brings it there. -/
def Ctx.acquires (c : Ctx) (t : State) : Prop :=
  (c.here t).engineWrote = [] ∧ ∀ y ∈ c.core.engineWrote,
    (∀ l, c.core.l1Line y.1 = some l → ∀ i < 4, y.2.getLsbD i = true → l.valid.getLsbD i = true → ((c.here t).staleOf y.1).getLsbD i = true) ∧
    ∀ a, ∀ x ∈ (t.thread c.k a).inflight, ∀ r ∈ x.reqs, r.line = y.1 → r.epoch = 0

/-! ## Accesses (R184 to R199, R207, R257, R259) -/

/-- An access as its instruction asks for it: its kind and its counter, its space, its mode and the code of its size, the lanes that act with the
address of each, its nibble and what it does there, what a `KVXL` adds to it, the registers that it will write and the taint that they take, and whether
it acts once for the slot. -/
structure Asked where
  kind : AccessKind
  path : Path
  space : Space
  mode : Mode := .normal
  size : Nat
  lanes : List Nat
  addr : Nat → W64
  nib : Nat → Nat := fun _ => 0
  op : Nat → ElemOp
  extra : Nat → W64 := fun _ => 0#64
  dests : List (RegRef × W32) := []
  taint : W32 := 0#32
  once : Bool := false

/-- The registers of an element of a size, in a lane. -/
def wordsOf (size : Nat) : Nat := match size with | 3 => 2 | 4 => 4 | _ => 1

/-- The counter of a load and of a store (R193). -/
def loadPath (sp : Space) : Path := if sp = .global then .gl else .lo
/-- The counter of a store. -/
def storePath (sp : Space) : Path := if sp = .global then .gs else .lo

/-- A lane load (R185, R186, R190, R194): it writes a register, a pair or a quad, and `p5` under `.nf`. -/
def Ctx.laneLoad (c : Ctx) (d : BitVec 6) (sp : Space) (size : Nat) (mode : Mode) (place : Nat → W64 × Nat) : Asked :=
  { kind := .load, path := loadPath sp, space := sp, mode := mode, size := size, lanes := lanesOf c.pass, addr := fun i => (place i).1
    nib := fun i => (place i).2, op := fun _ => .read
    dests := ((List.range (wordsOf size)).map fun k => (.v (d.toNat + k), c.pass)) ++ if mode = .nf then [(.p 5, c.pass)] else []
    taint := if mode = .consume then allLanes else 0#32 }

/-- A lane store (R185, R186, R190): the data stand in a register, a pair or a quad. -/
def Ctx.laneStore (c : Ctx) (d : BitVec 6) (sp : Space) (size : Nat) (mode : Mode) (place : Nat → W64 × Nat) : Asked :=
  { kind := .store, path := storePath sp, space := sp, mode := mode, size := size, lanes := lanesOf c.pass, addr := fun i => (place i).1
    nib := fun i => (place i).2, op := fun i => .put (c.storeData d i) }

/-- Where a lane of format E lies (R185): consecutive elements from `sA` + off, in `ls:` the same place of each lane's slice. -/
def Ctx.placeE (c : Ctx) (a : BitVec 6) (o : BitVec 14) (size : Nat) (sp : Space) (i : Nat) : W64 × Nat :=
  let base := c.s a + c.offsetE o
  if size = 5 then (base + BitVec.ofNat 64 (i / 2), i % 2) else if sp = .ls then (base, 0) else (base + BitVec.ofNat 64 (i * sizeBytes size), 0)

/-- Where a lane of format F lies (R185): at the index of its lane, scaled; a 4-bit element at the index in nibbles. -/
def Ctx.placeF (c : Ctx) (a b : BitVec 6) (scale : BitVec 2) (size : Nat) (i : Nat) : W64 × Nat :=
  let x := (c.v b i).toInt
  if size = 5 then (c.s a + c.offsetF + BitVec.ofInt 64 (x / 2), (x % 2).toNat)
  else (c.s a + c.offsetF + BitVec.ofInt 64 (x * 2 ^ scale.toNat), 0)

/-- The place of an atomic (R197). -/
def Ctx.placeA (c : Ctx) (a b : BitVec 6) (i : Nat) : W64 := if c.ap then c.s a + c.s b else c.s a + BitVec.ofInt 64 (c.v b i).toInt

/-- The operand of an atomic, and of an `ATOMCAS` the compare value (`k` = 0) and the new value (`k` = 1) (R197). -/
def Ctx.operandA (c : Ctx) (d : BitVec 6) (wide : Bool) (k i : Nat) : W64 :=
  let w (n : Nat) : Nat := (c.th.lane (d.toNat + n) i).toNat
  if c.ap then c.th.sval (d.toNat + k) else if wide then BitVec.ofNat 64 (w (2 * k) + 2 ^ 32 * w (2 * k + 1)) else BitVec.ofNat 64 (w k)

/-- An atomic (R197): what it returns to, where, with what counter. -/
def Ctx.atomicAsked (c : Ctx) (kind : AccessKind) (sp : Space) (d a b : BitVec 6) (wide : Bool) (op : Nat → ElemOp) : Asked :=
  { kind := kind, path := if sp = .sh then .lo else if kind = .red then .gs else .gl, space := sp, size := if wide then 3 else 2
    lanes := if c.ap then [0] else lanesOf c.pass, addr := c.placeA a b, op := op, once := c.ap
    taint := if c.ap then (if c.taintAny then allLanes else 0#32) else maskOf fun l => bit c.pass l && c.taintAt l
    dests := if kind = .red then [] else if c.ap then [(.s d.toNat, allLanes)]
      else (List.range (if wide then 2 else 1)).map fun k => (.v (d.toNat + k), c.pass) }

/-- The scalar access of an address (R189). -/
def Ctx.scalarAsked (c : Ctx) (kind : AccessKind) (t : BitVec 10) (a : BitVec 6) (o : BitVec 14) (op : ElemOp)
    (dests : List (RegRef × W32)) : Asked :=
  let sp := spaceOf (attrSpace t)
  { kind := kind, path := if kind = .load then loadPath sp else storePath sp, space := sp, mode := modeOf (attrMode t)
    size := (attrSize t).toNat, lanes := [0], addr := fun _ => c.s a + c.offsetE o, op := fun _ => op, dests := dests
    taint := if modeOf (attrMode t) = .consume then allLanes else 0#32, once := true }

/-- The operation on a transaction barrier, checked as an access of 16 bytes (R207). -/
def Ctx.barAsked (c : Ctx) (kind : AccessKind) (a : BitVec 6) (v : W64) : Asked :=
  { kind := kind, path := .lo, space := .sh, size := 4, lanes := [0], addr := fun _ => c.s a, op := fun _ => .put (v.setWidth 128), once := true }

/-- The operations of a wide MOD; `.bf16x2` is 32 bits wide (R197). -/
def atomicWide (m : BitVec 4) : Bool := decide (8 ≤ m.toNat ∧ m.toNat ≠ 15)

/-- The accesses of the instructions (R185 to R199, R207, R256, R257, R259). -/
def Ctx.asked (c : Ctx) (i : Instr) (s : State) : Option Asked :=
  let t (major : Nat) : BitVec 10 := attrOf (defaultAttr major) c.iss.xs
  let loadE (major : Nat) (d a : BitVec 6) (o : BitVec 14) : Asked :=
    let sp := spaceOf (attrSpace (t major))
    let size := (attrSize (t major)).toNat
    c.laneLoad d sp size (modeOf (attrMode (t major))) (c.placeE a o size sp)
  let storeE (major : Nat) (d a : BitVec 6) (o : BitVec 14) : Asked :=
    let sp := spaceOf (attrSpace (t major))
    let size := (attrSize (t major)).toNat
    c.laneStore d sp size (modeOf (attrMode (t major))) (c.placeE a o size sp)
  match i with
  | .ld d a o => some (loadE 0x12 d a o)
  | .ldc d a o => some (loadE 0x12 d a o)
  | .st d a o => some (storeE 0x13 d a o)
  | .ldIndexed d a b sc z m => some (c.laneLoad d (spaceOf (indexSpace c.iss.xs)) z.toNat (modeOf m) (c.placeF a b sc z.toNat))
  | .stIndexed d a b sc z m => some (c.laneStore d (spaceOf (indexSpace c.iss.xs)) z.toNat (modeOf m) (c.placeF a b sc z.toNat))
  | .ldsh d a o => some (loadE 0x17 d a o)
  | .stsh d a o => some (storeE 0x17 d a o)
  | .ldl d a o => some (loadE 0x17 d a o)
  | .stl d a o => some (storeE 0x17 d a o)
  | .ldts d a o => some (loadE 0x17 d a o)
  | .stts d a o => some (storeE 0x17 d a o)
  | .lds d a o => some (c.scalarAsked .load (t 0x16) a o .read [(.s d.toNat, allLanes)])
  | .sts d a o => some (c.scalarAsked .store (t 0x16) a o (.put ((c.s d).setWidth 128)) [])
  | .atom d a b m =>
    some (c.atomicAsked .atom .global d a b (atomicWide m) fun l => .atom (atomOpOf m) (m.getLsbD 3) (c.operandA d (atomicWide m) 0 l))
  | .atomcas d a b w =>
    some (c.atomicAsked .cas .global d a b (decide (w = 1#1)) fun l =>
      .cas (decide (w = 1#1)) (c.operandA d (decide (w = 1#1)) 0 l) (c.operandA d (decide (w = 1#1)) 1 l))
  | .atomsh d a b m =>
    some (c.atomicAsked .atom .sh d a b (atomicWide m) fun l => .atom (atomOpOf m) (m.getLsbD 3) (c.operandA d (atomicWide m) 0 l))
  | .red d a b m =>
    some (c.atomicAsked .red .global d a b (atomicWide m) fun l => .atom (atomOpOf m) (m.getLsbD 3) (c.operandA d (atomicWide m) 0 l))
  | .tbinit a b => some (c.barAsked .tbinit a (c.s b))
  | .tbexpect a b => some (c.barAsked .tbexpect a (c.s b))
  | .tbarrive a => some (c.barAsked .tbarrive a 0#64)
  | .kvxl d a b =>
    let p := c.poolOf b s
    some { kind := .kvxl, path := .gl, space := .global, size := 2, lanes := (lanesOf c.pass).filter (c.kvInRange p a), addr := c.kvEntry p a
           op := fun _ => .read, extra := fun l => BitVec.ofNat 64 (p.base + c.kvPos a l % 2 ^ p.bshift * p.pstride)
           dests := [(.v d.toNat, c.pass), (.v (d.toNat + 1), c.pass), (.p 4, c.pass)]
           taint := maskOf fun l => bit c.pass l && c.taintAt l }
  | .kvmap d a b =>
    let p := c.poolOf b s
    if ∀ l ∈ lanesOf c.pass, (c.v d l).toNat < 2 ^ 24 ∧ (c.v d l).toNat < p.nblk ∧ c.kvInRange p a l = true then
      some { kind := .kvmap, path := .gs, space := .global, size := 2, lanes := lanesOf c.pass, addr := c.kvEntry p a
             op := fun l => .kv (BitVec.ofNat 32 (c.core.vid * 2 ^ 24) ||| c.v d l) }
    else none
  | _ => none

/-- The lanes of an access with what each asks for, in ascending order. -/
def Asked.wants (q : Asked) : List Want := q.lanes.map fun i => { lane := i, va := q.addr i, nib := q.nib i, op := q.op i }

/-- A returning global atomic of a redundant block (R199). -/
def Ctx.refusedAtomic (c : Ctx) (q : Asked) : Prop := c.core.launch.redundant = true ∧ q.space = .global ∧ (q.kind = .atom ∨ q.kind = .cas)

/-- The lanes whose address is not a multiple of the size (R186). -/
def Asked.crooked (q : Asked) : List Nat := q.lanes.filter fun i => decide ((q.addr i).toNat % sizeBytes q.size ≠ 0)

/-- The lanes outside the block's allocation of a core-local space (R187, R262). -/
def Ctx.beyond (c : Ctx) (q : Asked) : List Nat :=
  let limit : Nat := match q.space with
    | .global => 2 ^ 65
    | .ls => 64 * c.core.launch.laneUnits
    | .sh => c.core.launch.shared
    | .tw => c.core.launch.tileW
    | .ta => c.core.launch.tileA
    | .tc => c.core.launch.tileC
  q.lanes.filter fun i => decide (limit < (q.addr i).toNat + sizeBytes q.size)

/-- The lanes that a trap of an access names: the failing ones, or the passing ones where it acts once (R187, R189). -/
def Ctx.named (c : Ctx) (q : Asked) (l : List Nat) : W32 := if q.once then c.pass else maskOf fun i => l.contains i

/-- The outstanding access that an instruction leaves (R193). -/
def Ctx.isAccess (c : Ctx) (q : Asked) (tag : Nat) (x : Access) : Prop :=
  x.tag = tag ∧ x.kind = q.kind ∧ x.path = q.path ∧ x.space = q.space ∧ x.mode = q.mode ∧ x.size = q.size ∧ x.scalar = q.once ∧
    x.dests = q.dests ∧ (q.dests ≠ [] → x.taint = q.taint) ∧ x.lanes = c.pass ∧ x.pc = c.iss.pc ∧ x.done = false ∧ x.stuck = false ∧ (q.kind = .kvxl → ∀ i < 32, nth x.extra i 0#64 = q.extra i)

/-- How many single-copy atomic elements a lane's access has: a 128-bit load or store has two (R186, R328). -/
def Asked.pieces (q : Asked) : Nat := if q.size = 4 ∧ (q.kind = .load ∨ q.kind = .store) then 2 else 1

/-- An element of a lane: the only one, or half `h` of a 128-bit access. -/
def Asked.elemAt (q : Asked) (i h : Nat) (e : Elem) : Prop :=
  e.lane = i ∧ (q.size = 5 → e.off % 2 = q.nib i) ∧
    if q.pieces = 2 then e.size = 3 ∧ e.op = (match q.op i with
      | .put v => .put (BitVec.ofNat 128 (v.toNat / 2 ^ (64 * h) % 2 ^ 64))
      | op => op)
    else e.size = q.size ∧ e.op = q.op i

/-- What the issue of an access changes: the list of outstanding accesses grows, and accesses are numbered. -/
def looseAccess (n : Nat) : Loosen :=
  { thread := fun t => { t with inflight := t.inflight.take n }, state := fun s => { s with seq := 0 } }

/-! ## What memory holds (R184, R279, R282, R284, R298) -/

/-- The home slice's line that holds the sector of a byte. -/
def State.homeHolds (s : State) (x : Nat) : Option Way :=
  match (s.slice (homeDie x) (sliceOf x)).homeLine (setOf x) (x / 128) with
  | some (_, w) => if w.present.getLsbD (x / 32 % 4) then some w else none
  | none => none

/-- A byte beneath all version copies: of the home slice's line where that holds the sector, else of memory. -/
def State.homeByte (s : State) (x : Nat) : W8 :=
  match s.homeHolds x with
  | some w => w.data.extractLsb' (8 * (x % 128)) 8
  | none => s.mem.read x

/-- Whether the sector of a byte is poisoned beneath all version copies. -/
def State.homeBad (s : State) (x : Nat) : Bool :=
  match s.homeHolds x with
  | some w => w.poison.getLsbD (x / 32 % 4)
  | none => s.poison.contains (x / 32)

/-- The copies of a line that a version sees, the topmost first: those of its chain of live versions, then the couched ones that are not
merged yet, the last to be couched first (R184, R284). -/
def State.layers (s : State) (x dom vid : Nat) (versioned : Bool) : List CopyView :=
  let d := homeDie x
  let k := sliceOf x
  let own := if versioned then (s.chain d k dom 17 vid).filterMap fun v =>
    ((s.slice d k).copies (setOf x) (x / 128)).find? fun c => decide (c.domain = dom) && decide (c.vid = v) else []
  own ++ (s.couchedCopies d k (setOf x) (x / 128)).reverse

/-- The byte at an address as a version sees it: of the topmost copy that has it, else what stands beneath (R184). -/
def State.seenByte (s : State) (dom vid : Nat) (versioned : Bool) (x : Nat) : W8 :=
  match (s.layers x dom vid versioned).find? fun c => c.mask.getLsbD (x % 128) with
  | some c => c.data.extractLsb' (8 * (x % 128)) 8
  | none => s.homeByte x

/-- Whether that byte is poisoned. -/
def State.seenBad (s : State) (dom vid : Nat) (versioned : Bool) (x : Nat) : Bool :=
  match (s.layers x dom vid versioned).find? fun c => c.mask.getLsbD (x % 128) with
  | some c => c.poison.getLsbD (x / 32 % 4)
  | none => s.homeBad x

/-- A committed byte. -/
def State.committedByte (s : State) (x : Nat) : W8 := s.seenByte 0 0 false x

/-- A line as a version sees it. -/
def State.seenLine (s : State) (dom vid : Nat) (versioned : Bool) (line : Nat) : LineBytes :=
  { data := BitVec.ofNat 1024 (natOfBytes ((List.range 128).map fun j => s.seenByte dom vid versioned (line * 128 + j)))
    bad := BitVec.ofNat 128 (((List.range 128).map fun j => if s.seenBad dom vid versioned (line * 128 + j) then 2 ^ j else 0).sum) }

/-- Some bytes as a number, least significant first. -/
def bytesAt (f : Nat → W8) (x n : Nat) : Nat := natOfBytes ((List.range n).map fun j => f (x + j))

/-- The ways of the set of an address are listed in order, and `n` of them are invalid. -/
def State.roomAt (s : State) (x n : Nat) : Prop :=
  let sl := s.slice (homeDie x) (sliceOf x)
  (sl.ways.map Prod.fst).Pairwise (· < ·) ∧ n ≤ ((List.range 16).filter fun w => (sl.ways.find (16 * setOf x + w)).isNone).length

/-- An address that a slice serves from memory: one of HBM, but for the spill areas, or of host memory (R277, R304). -/
def homed (x : Nat) : Prop := (isHbm x = true ∨ isHost x = true) ∧ isPeer x = false ∧ inSpill x = false

/-! ## What elements read and leave (R190, R191, R197, R259) -/

/-- The new value of an atomic, from the old value and the operand as numbers of its width (R197, R170). -/
def atomNumber (op : AtomOp) (wide : Bool) (old v : Nat) : Nat :=
  let w := if wide then 64 else 32
  let signed (x : Nat) : Int := (BitVec.ofNat w x).toInt
  let sum (f : Format) (x y : Nat) : Nat := (sumRound [.one (f.decode x), .one (f.decode y)] f .rne).1
  match op with
  | .add => (old + v) % 2 ^ w
  | .min => if signed old < signed v then old else v
  | .max => if signed old < signed v then v else old
  | .and => old &&& v
  | .or => old ||| v
  | .xor => old ^^^ v
  | .exch => v
  | .fadd => if wide then sum bf16 (old % 65536) (v % 65536) + 65536 * sum bf16 (old / 65536) (v / 65536) else sum fp32 old v

/-- An element as its instruction makes it: it lies in one line, and its operation is as wide as it is. -/
def Elem.fits (e : Elem) : Prop :=
  e.byte + sizeBytes e.size ≤ 128 ∧
    (match e.op with
     | .atom op wide _ => e.size = if wide ∧ op ≠ .fadd then 3 else 2
     | .cas wide _ _ => e.size = if wide then 3 else 2
     | .kv _ => e.size = 2
     | _ => True)

/-- What an element finds at its place: its bytes, or its nibble. -/
def Elem.finds (e : Elem) (f : Nat → W8) (x : Nat) : Nat :=
  if e.size = 5 then (f x).toNat / 16 ^ (e.off % 2) % 16 else bytesAt f x (sizeBytes e.size)

/-- What an element leaves in its bytes, if it writes them. -/
def Elem.leaves (e : Elem) (f : Nat → W8) (x : Nat) : Option Nat :=
  let w := 8 * sizeBytes e.size
  match e.op with
  | .read => none
  | .put v =>
    if e.size = 5 then
      let kept := (f x).toNat
      some (if e.off % 2 = 0 then kept / 16 * 16 + v.toNat % 16 else v.toNat % 16 * 16 + kept % 16)
    else some (v.toNat % 2 ^ w)
  | .atom op wide v => some (atomNumber op wide (e.finds f x) (v.toNat % 2 ^ w))
  | .cas _ cmp new => if e.finds f x = cmp.toNat % 2 ^ w then some (new.toNat % 2 ^ w) else none
  | .kv v => some v.toNat

/-- Elements act one after another on the bytes of a memory: what each finds, and the bytes afterwards. -/
def runElems (place : Elem → Nat) (es : List Elem) (f : Nat → W8) : List Nat × (Nat → W8) :=
  match es with
  | [] => ([], f)
  | e :: rest =>
    let x := place e
    let g := match e.leaves f x with
      | none => f
      | some v => fun y => if x ≤ y ∧ y < x + sizeBytes e.size then BitVec.ofNat 8 (v / 256 ^ (y - x)) else f y
    let r := runElems place rest g
    (e.finds f x :: r.1, r.2)

/-- The byte of a core-local space at an address; of the lane store, in a lane's slice of an agent (R265). -/
def Core.spaceByte (c : Core) (sp : Space) (a lane x : Nat) : W8 :=
  if sp = .ls then Mem.read (nth (c.thread a).ls lane []) x else Mem.read (c.local sp).1 x

/-- The sector of a core-local address is poisoned (R270). -/
def Core.spaceBad (c : Core) (sp : Space) (a lane x : Nat) : Bool :=
  if sp = .ls then (c.thread a).lsPoison.contains (laneSector lane (x / 32)) else (c.local sp).2.contains (x / 32)

/-- The core-local memories and full bits of a block. -/
def Core.stores (c : Core) : List Mem × List (List Nat) × List Nat × List (List Mem × List Nat) :=
  ([c.sh, c.tw, c.ta, c.tc], [c.shPoison, c.twPoison, c.taPoison, c.tcPoison], c.full, c.thr.map fun t => (t.ls, t.lsPoison))

/-- The counters of a thread once an access has completed (R193, R214). -/
def Thread.fallen (t : Thread) (i : Nat) (path : Path) : Nat :=
  ({ t with inflight := alterAt t.inflight i fun x => { x with done := true } } : Thread).counter path

/-- The counters after the completion of access `i`, and the waits for a counter that it ends. -/
def Thread.counted (before after : Thread) (i : Nat) : Prop :=
  (∀ path, after.counter path = before.fallen i path) ∧
    ∀ w path n, (before.slot w).st = .waiting (.counter path n) → ((after.slot w).st = .live ↔ before.fallen i path ≤ n)

/-! ## Words (R96 to R102, R188, R238) -/

/-- A word of an epilogue program (R238). -/
def isEpilogue (i : Instr) : Bool :=
  match i with
  | .enop | .eadd _ _ _ | .emul _ _ _ | .efma _ _ _ | .emax _ _ _ | .emin _ _ _ | .eclamp _ _ _ | .eexp2 _ _ | .ecvt _ _ _ => true
  | .emovReg _ _ | .emovImm _ _ | .esel _ _ _ | .erow _ | .ecol _ | .eldb _ _ | .elds _ _ | .est _ _ | .estg _ _ | .ered _ | .esig _ | .eend => true
  | _ => false

/-- The attribute before a format-E access, or its major's default, is one that chooses this instruction among those that share its word:
the consume mode makes an `LDC`; DIR tells loads from stores; SPACE tells the core-local accesses apart (R98, R188). -/
def chosenBy (i : Instr) (xs : List Ximm) : Bool :=
  let t (major : Nat) : BitVec 10 := attrOf (defaultAttr major) xs
  let space : Nat := (attrSpace (t 0x17)).toNat
  let lane := decide (space = 1)
  let tile := decide (3 ≤ space ∧ space ≤ 5)
  match i with
  | .ld _ _ _ => decide ((attrMode (t 0x12)).toNat ≠ 4)
  | .ldc _ _ _ => decide ((attrMode (t 0x12)).toNat = 4)
  | .lds _ _ _ => !attrStore (t 0x16)
  | .sts _ _ _ => attrStore (t 0x16)
  | .ldl _ _ _ => !attrStore (t 0x17) && lane
  | .stl _ _ _ => attrStore (t 0x17) && lane
  | .ldts _ _ _ => !attrStore (t 0x17) && tile
  | .stts _ _ _ => attrStore (t 0x17) && tile
  | .ldsh _ _ _ => !attrStore (t 0x17) && !lane && !tile
  | .stsh _ _ _ => attrStore (t 0x17) && !lane && !tile
  | _ => true

/-! ## Barriers (R210) -/

/-- The lanes of a warp that have arrived on barrier `n` once the lanes `m` of warp `a` arrive too. -/
def Core.lanesIn (c : Core) (n a : Nat) (m : W32) (w : Nat) : W32 := nth (c.bar n).lanes w 0#32 ||| if w = a then m else 0#32

/-- The warps whose arrival is complete then, and was not before: all their live lanes have arrived, or had before they exited, and the accesses that they
issued before are performed (R339), for warp `a` those numbered below `tag`. -/
def Core.newlyIn (c : Core) (n a : Nat) (m : W32) (tag : Nat) : List Nat :=
  (List.range c.launch.warps).filter fun w =>
    let due : W32 := if (c.bar n).leaving.contains w then c.lanesIn n a m w else c.live w
    !(c.bar n).arrived.contains w && decide (due ≠ 0#32) && decide (due &&& ~~~(c.lanesIn n a m w) = 0#32) &&
      (c.thread w).inflight.all fun x => decide ((if w = a then tag else nth (c.bar n).after w 0) ≤ x.tag) || x.performed

/-- The phase completes then. -/
def Core.phaseEnds (c : Core) (n a : Nat) (m : W32) (tag : Nat) : Prop :=
  (c.bar n).arrived.length + (c.newlyIn n a m tag).length = (c.bar n).expected ∧ 1 ≤ (c.bar n).expected

/-- The barrier after the lanes `m` of warp `a` arrive: a warp whose arrival is complete and came through `BARDROP` in any lane (log 23) has dropped; it is
the next phase, in which the warps that dropped are expected no longer, or the same phase with those warps in. `drop` says that they arrive through
`BARDROP`. -/
def Core.barAfter (c : Core) (n a : Nat) (m : W32) (tag : Nat) (drop : Bool) (x : Barrier) : Prop :=
  let b := c.bar n
  let leaving (w : Nat) : Bool := b.dropped.contains w || decide (nth b.dropping w 0#32 ≠ 0#32) || (drop && decide (w = a))
  (∀ w, w ∈ x.dropped ↔ w ∈ b.dropped ∨ w ∈ c.newlyIn n a m tag ∧ leaving w = true) ∧
  (c.phaseEnds n a m tag →
    x.phase = b.phase + 1#32 ∧ x.arrived = [] ∧ (∀ w < 16, nth x.lanes w 0#32 = 0#32) ∧
      x.expected = b.expected - ((b.arrived.filter b.dropped.contains).length + ((c.newlyIn n a m tag).filter leaving).length)) ∧
  (¬ c.phaseEnds n a m tag →
    x.phase = b.phase ∧ x.expected = b.expected ∧ (∀ w, w ∈ x.arrived ↔ w ∈ b.arrived ∨ w ∈ c.newlyIn n a m tag) ∧
      (∀ w < 16, nth x.lanes w 0#32 = c.lanesIn n a m w ∧
        nth x.dropping w 0#32 = (nth b.dropping w 0#32 ||| if w = a ∧ drop = true then m else 0#32)))

/-- What arrivals change: the barriers, the run of the warp, and where the slots of the block stand. -/
def looseBars : Loosen :=
  { core := fun c => { c with bars := [], ports := [], thr := c.thr.map Thread.apart } }

/-! ## What one write of the host or of the firmware changes -/

/-- Only die `d` differs, and only in what `loose` blanks. -/
def State.sameDie (s t : State) (d : Nat) (loose : Die → Die) : Prop :=
  ({ t with dies := s.dies } : State) = s ∧ (∀ j, j ≠ d → t.die j = s.die j) ∧ loose (t.die d) = loose (s.die d)

/-- Only domain `d` differs, and only in what `loose` blanks. -/
def State.sameDomain (s t : State) (d : Nat) (loose : Domain → Domain) : Prop :=
  ({ t with domains := s.domains } : State) = s ∧ (∀ j, j ≠ d → t.domain j = s.domain j) ∧ loose (t.domain d) = loose (s.domain d)

/-- Only module `m` of bundle `b` differs, and only in what `loose` blanks. -/
def State.sameModule (s t : State) (b m : Nat) (loose : FeltModule → FeltModule) : Prop :=
  ({ t with felts := s.felts } : State) = s ∧ (∀ b' m', ¬ (b' = b ∧ m' = m) → t.feltModule b' m' = s.feltModule b' m') ∧
    loose (t.feltModule b m) = loose (s.feltModule b m) ∧
    ∀ b', (t.bundle b').draining = (s.bundle b').draining ∧ (t.bundle b').inService = (s.bundle b').inService

/-- The counters of R379 as a die shows them; a felt module's are the same from both of its dies. -/
def State.counterOf (s : State) (die : Nat) (c : CounterId) : Nat :=
  let core (k : Nat) : CoreCounters := ((s.die die).cores.find k).getD CoreCounters.zero
  match c with
  | .crcErr b m => (s.feltModule b m).crcErr
  | .replayWin b m => (s.feltModule b m).replayWin
  | .issued k => (core k).issued
  | .apIssued k => (core k).apIssued
  | .fragSplit k => (core k).fragSplit
  | .fragFull k => (core k).fragFull
  | .wTrap k => (core k).wTrap
  | .raEnter k => (core k).raEnter
  | .raInstr k => (core k).raInstr
  | .raPref k => (core k).raPref
  | .hit k cls => nth (s.slice die k).hits cls 0
  | .miss k cls => nth (s.slice die k).misses cls 0
  | .sel k cls => nth (s.slice die k).sel cls 0
  | .pageReq => (s.die die).pageReqCount
  | .kills => (s.die die).kills
  | .halts => (s.die die).halts
  | .spillx => (s.die die).spillx
  | .corrErr => (s.die die).corrErr

/-- The bundle of a module's counter. -/
def bundleOf (c : CounterId) : Option Nat :=
  match c with
  | .crcErr b _ => some b
  | .replayWin b _ => some b
  | _ => none

/-- A selector, which is read-only (R379). -/
def isSelector (c : CounterId) : Bool :=
  match c with
  | .sel _ _ => true
  | _ => false

/-- A counter of a module that the package has. -/
def placed (c : CounterId) : Prop :=
  match c with
  | .crcErr b m => b < 16 ∧ m < 8
  | .replayWin b m => b < 16 ∧ m < 8
  | _ => True

/-- Some bytes of a descriptor as a number: `n` of them from byte `at_`. -/
def fieldAt {w : Nat} (d : BitVec w) (at_ n : Nat) : Nat := (d.extractLsb' (8 * at_) (8 * n)).toNat

/-- A line of committed memory that can be written with no eviction: no version has a copy of it, its set has `n` invalid ways, and its stack is
awake. -/
def State.easyLine (s : State) (x n : Nat) : Prop :=
  s.roomAt x n ∧ (s.slice (homeDie x) (sliceOf x)).copies (setOf x) (x / 128) = [] ∧ s.couchedCopies (homeDie x) (sliceOf x) (setOf x) (x / 128) = [] ∧ s.asleep x = false

/-- The checks of its own that an instruction makes before its guard (R104 e): the DETAIL of the illegal instruction, if one fails. -/
def ownCheck (i : Instr) : Ctx → State → Option W8 :=
  match i with
  | .rtt => handlerCheck
  | .rttAdv => handlerCheck
  | .loop _ => loopCheck
  | .loopbrk => loopbrkCheck
  | .joinw _ _ => joinwCheck
  | .rgive k => windowCheck fun w => decide (16 + 8 * k.toNat ≤ w)
  | .rclaim k => windowCheck fun w => decide (w + 8 * k.toNat ≤ 64)
  | .rclaimT _ k => windowCheck fun w => decide (w + 8 * k.toNat ≤ 64)
  | .vmovToMqo d _ => unboundCheck d
  | .aqpush d _ => closedCheck d
  | .mqbind _ a => targetCheck a
  | .egrel _ a _ => egrelCheck a
  | .egrelV _ a _ => egrelCheck a
  | .flpop _ a => poolCheck a
  | .flpush a _ => poolCheck a
  | .kvxl _ _ b => poolCheck b
  | .kvmap _ _ b => poolCheck b
  | .kvappend _ _ b => poolCheck b
  | .resolveC _ a b => versionCheck a b 16
  | .resolveS _ a b => versionCheck a b 16
  | .vidq _ a b => versionCheck a b 8
  | .vidqFree _ a => versionCheck a a 6
  | .episet a b => fun c _ =>
    if c.pass ≠ 0#32 ∧ (2 ^ 8 ≤ (c.s a).toNat ∨ 2 ^ 32 ≤ (c.s b).toNat) then some 9#8 else none
  | .drain _ _ b => fun c _ => if c.pass ≠ 0#32 ∧ 2 ^ 49 ≤ (c.s b).toNat then some 0#8 else none
  | _ => noCheck

/-! ## Epilogue words (R238) -/

/-- The registers that an epilogue word reads. -/
def epiReads (i : Instr) : List (BitVec 4) :=
  match i with
  | .eadd _ a b | .emul _ a b | .emax _ a b | .emin _ a b => [a, b]
  | .efma d a b | .eclamp d a b | .esel d a b => [d, a, b]
  | .eexp2 _ a | .ecvt _ a _ | .emovReg _ a | .est a _ | .estg a _ | .ered a | .esig a => [a]
  | _ => []

/-- What an epilogue word leaves in which register, for element `j` of group `group` of row `row` of a drain with auxiliary words from `aux`, from the elements of
the registers and the bytes of shared memory. -/
def epiResult (el : BitVec 4 → Nat → W32) (row group aux : Nat) (sh : Nat → W8) (i : Instr) : Option (BitVec 4 × (Nat → W32)) :=
  let code (a : BitVec 4) (j : Nat) : Nat := (el a j).toNat
  match i with
  | .eadd d a b => some (d, fun j => BitVec.ofNat 32 (plusOf 0#2 fp32 (code a j) (code b j)).1)
  | .emul d a b => some (d, fun j => BitVec.ofNat 32 (timesOf 0#2 fp32 (code a j) (code b j)).1)
  | .efma d a b => some (d, fun j => BitVec.ofNat 32 (fusedOf 0#2 fp32 (code a j) (code b j) (code d j)).1)
  | .emax d a b => some (d, fun j => BitVec.ofNat 32 (fmaxCode fp32 (code a j) (code b j)))
  | .emin d a b => some (d, fun j => BitVec.ofNat 32 (fminCode fp32 (code a j) (code b j)))
  | .eclamp d a b => some (d, fun j => BitVec.ofNat 32 (fclampCode fp32 (code d j) (code a j) (code b j)))
  | .eexp2 d a => some (d, fun j => BitVec.ofNat 32 (exp2Code (code a j)).1)
  | .ecvt d a c => some (d, fun j => BitVec.ofNat 32 (ecvtCode c (code a j)))
  | .emovReg d a => some (d, fun j => el a j)
  | .emovImm d k => some (d, fun _ => BitVec.ofNat 32 (k.toNat * 2 ^ 18))
  | .esel d a b => some (d, fun j => if el d j = 0#32 then el b j else el a j)
  | .erow d => some (d, fun _ => f32 (numOfInt row))
  | .ecol d => some (d, fun j => f32 (numOfInt (16 * group + j : Nat)))
  | .eldb d o => some (d, fun j => BitVec.ofNat 32 (bytesAt sh (aux + 4 * o.toNat + 4 * (16 * group + j)) 4))
  | .elds d o => some (d, fun _ => BitVec.ofNat 32 (bytesAt sh (aux + 4 * o.toNat + 4 * row) 4))
  | _ => none

/-- The first of the auxiliary words that a word reads, and how many it reads. -/
def epiAuxWords (row group aux : Nat) (i : Instr) : Nat × Nat :=
  match i with
  | .eldb _ o => (aux + 4 * o.toNat + 64 * group, 16)
  | .elds _ o => (aux + 4 * o.toNat + 4 * row, 1)
  | _ => (0, 0)

end Sys2Proof.Machine
end

