-- ==== Sys2Proof/Certificates/Slice0/Obligations.lean ====
section
/-! DEFINITION. The statements for the provers. -/

open Sys2Proof Sys2Proof.Machine

/-- R139, R141, R143, R154 with R136 (results, latency), R50 (taint), R51 (poison) and R39: every scalar instruction whose own effect
happens completes, its destination holds the value that the rules give, and nothing else changes but where the slot stands. -/
def Obligations.ScalarInstructionsLeaveTheirResult : Prop :=
  ∀ (i : Instr) (s s1 : State) (c : Ctx) (d : BitVec 6) (v : W64), s.acting i = some (c, s1) → c.scalarResult i = some (d, v) →
    ∃ t, exec i s = .next t ∧ c.holdsS t d.toNat v ∧ c.falls s1 t ∧ c.readyAfter s1 t (.s d.toNat) (resultLatency i) ∧
      c.rest t [] [d.toNat] [] = c.rest s1 [] [d.toNat] []

/-- R143, R149, R154 with R41, R136 and R144: every instruction with a predicate result whose own effect happens completes, the passing
bits of its destination hold the result, and nothing else changes but where the slot stands. -/
def Obligations.PredicateInstructionsLeaveTheirResult : Prop :=
  ∀ (i : Instr) (s s1 : State) (c : Ctx) (d : Nat) (v : W32), s.acting i = some (c, s1) → c.predResult i = some (d, v) →
    ∃ t, exec i s = .next t ∧ c.holdsP s1 t d v ∧ c.falls s1 t ∧ c.readyAfter s1 t (.p d) (resultLatency i) ∧
      c.rest t [] [] [d] = c.rest s1 [] [] [d]

/-- R145, R147, R149, R150, R154 to R156, R182 with R136, R137, R50, R51 and R39: every integer lane or cross-lane instruction whose own effect
happens completes, the passing lanes of its destination hold the result, and nothing else changes but where the slot stands. -/
def Obligations.VectorInstructionsLeaveTheirResult : Prop :=
  ∀ (i : Instr) (s s1 : State) (c : Ctx) (d : BitVec 6) (f : Nat → W32), s.acting i = some (c, s1) → c.vectorResult i = some (d, f) →
    ∃ t, exec i s = .next t ∧ c.holdsV s1 t d.toNat f ∧ c.falls s1 t ∧ c.readyAfter s1 t (.v d.toNat) (resultLatency i) ∧
      c.rest t [d.toNat] [] [] = c.rest s1 [d.toNat] [] []

/-- R140: what the bit-field helpers extract and insert, bit by bit, for scalars and for lanes. -/
def Obligations.BitFieldsAreExtractedAndInserted : Prop :=
  ∀ (n : Nat) (x old c : BitVec n) (j : Nat), n = 32 ∨ n = 64 → j < n →
    let pos := c.toNat % 256
    let len := min (c.toNat / 256 % 256) n
    (bfe x c false).getLsbD j = (decide (j < len) && x.getLsbD (pos + j)) ∧
      (bfe x c true).getLsbD j = (decide (0 < len) && x.getLsbD (pos + min j (len - 1))) ∧
      (bfi old x c).getLsbD j = if pos ≤ j ∧ j < pos + len then x.getLsbD (j - pos) else old.getLsbD j

/-- R146: `VADDC` adds with the carry of `p6` and leaves the carry there, in the passing lanes. -/
def Obligations.AddWithCarryUsesAndLeavesTheCarry : Prop :=
  ∀ (d a b : BitVec 6) (s s1 : State) (c : Ctx), s.acting (.vaddc d a b) = some (c, s1) →
    ∃ t, exec (.vaddc d a b) s = .next t ∧ c.holdsV s1 t d.toNat (fun l => BitVec.ofNat 32 (c.withCarry a b l)) ∧
      c.holdsP s1 t 6 (maskOf fun l => decide (c.withCarry a b l ≥ 2 ^ 32)) ∧ c.falls s1 t ∧
      c.rest t [d.toNat] [] [6] = c.rest s1 [d.toNat] [] [6]

/-- R153: `ARGMAX` gives every passing lane the value and the number of the winning lane: a passing lane of the highest rank, the lowest such. -/
def Obligations.ArgmaxFindsTheFirstGreatestLane : Prop :=
  ∀ (d a : BitVec 6) (m : BitVec 4) (s s1 : State) (c : Ctx), s.acting (.argmax d a m) = some (c, s1) →
    ∃ t w, exec (.argmax d a m) s = .next t ∧ w < 32 ∧ bit c.pass w = true ∧
      (∀ j < 32, bit c.pass j = true → rankOf m (c.v a j) ≤ rankOf m (c.v a w) ∧ (j < w → rankOf m (c.v a j) < rankOf m (c.v a w))) ∧
      c.holdsV s1 t d.toNat (fun _ => if m = 0#4 ∧ rankOf m (c.v a w) = -(2 ^ 31) then 0x7FC00000#32 else c.v a w) ∧
      c.holdsV s1 t (d.toNat + 1) (fun _ => BitVec.ofNat 32 w) ∧ c.falls s1 t ∧
      c.rest t [d.toNat, d.toNat + 1] [] [] = c.rest s1 [d.toNat, d.toNat + 1] [] []

/-- R151, R152: an integer `REDUCE` gives every passing lane the operation over all passing lanes, and an integer `SCAN` gives each the
operation over the passing lanes up to itself; the floating-point forms combine in the order of the rule's stages and OR their flags into FPSTAT. -/
def Obligations.ReductionsCombineThePassingLanes : Prop :=
  ∀ (d a : BitVec 6) (m : BitVec 4) (s s1 : State) (c : Ctx),
    (s.acting (.reduce d a m) = some (c, s1) →
      ∃ t, exec (.reduce d a m) s = .next t ∧ c.falls s1 t ∧ c.rest t [d.toNat] [] [] looseFloat = c.rest s1 [d.toNat] [] [] looseFloat ∧
        (c.my t).gen = (c.my s1).gen ∧
        (m.toNat < 8 → (c.my t).fpstat = (c.my s1).fpstat ∧
          c.holdsV s1 t d.toNat fun _ => (c.upTo 31).foldl (fun x j => combineInt m x (c.v a j)) (identity m.toNat)) ∧
        (8 ≤ m.toNat → (c.my t).fpstat = (c.my s1).fpstat ||| (reduceLanes m.toNat (c.inputs a m.toNat)).2 ∧
          c.holdsV s1 t d.toNat fun l => nth (reduceLanes m.toNat (c.inputs a m.toNat)).1 l 0#32)) ∧
    (s.acting (.scan d a m) = some (c, s1) →
      ∃ t, exec (.scan d a m) s = .next t ∧ c.falls s1 t ∧ c.rest t [d.toNat] [] [] looseFloat = c.rest s1 [d.toNat] [] [] looseFloat ∧
        (c.my t).gen = (c.my s1).gen ∧
        (m.toNat < 8 → (c.my t).fpstat = (c.my s1).fpstat ∧
          c.holdsV s1 t d.toNat fun l => (c.upTo l).foldl (fun x j => combineInt m x (c.v a j)) (identity m.toNat)) ∧
        (8 ≤ m.toNat → (c.my t).fpstat = (c.my s1).fpstat ||| (scanLanes m.toNat (c.inputs a m.toNat)).2 ∧
          c.holdsV s1 t d.toNat fun l => nth (scanLanes m.toNat (c.inputs a m.toNat)).1 l 0#32))

/-- R169 to R172, R174 to R178, R180, R181, R183 with R164, R165, R160 and R39: every floating-point instruction and conversion whose own
effect happens completes: its registers hold the results in the passing lanes, FPSTAT gains the flags of those lanes, the generators advance
where the form draws, and nothing else changes but where the slot stands. -/
def Obligations.FloatInstructionsLeaveTheirResult : Prop :=
  ∀ (i : Instr) (s s1 : State) (c : Ctx) (r : LaneResult), s.acting i = some (c, s1) → c.floatResult i = some r →
    ∃ t, exec i s = .next t ∧ (∀ x ∈ r.regs, c.holdsV s1 t x.1 x.2) ∧ (c.my t).fpstat = (c.my s1).fpstat ||| r.flags ∧
      (c.my t).gen = r.gen ∧ c.falls s1 t ∧
      c.rest t (r.regs.map Prod.fst) [] [] looseFloat = c.rest s1 (r.regs.map Prod.fst) [] [] looseFloat

/-- R180, R51: a `CVTPK4` to 4-bit elements writes half of each passing lane and keeps the other half, the poison mark and the old taint. -/
def Obligations.NibbleConversionsKeepTheOtherHalf : Prop :=
  ∀ (d a t : BitVec 6) (m : BitVec 4) (s s1 : State) (c : Ctx), s.acting (.cvtpk4 d a t m) = some (c, s1) → narrowBits t.toNat = 4 →
    let r (l k : Nat) : Nat × W32 := narrowCode (narrowOf t.toNat) (c.th.lane (a.toNat + k) l) (cvtMode m) ((c.drawn m 4).2 l k)
    let half (l : Nat) : Nat := (r l 0).1 + 16 * (r l 1).1 + 256 * (r l 2).1 + 4096 * (r l 3).1
    let shift := if narrowHigh t.toNat then 16 else 0
    ∃ u, exec (.cvtpk4 d a t m) s = .next u ∧
      (∀ l < 32, bit c.pass l = true →
        ((c.my u).lane d.toNat l).extractLsb' shift 16 = BitVec.ofNat 16 (half l) ∧
        ((c.my u).lane d.toNat l).extractLsb' (16 - shift) 16 = ((c.my s1).lane d.toNat l).extractLsb' (16 - shift) 16 ∧
        bit ((c.my u).vreg d.toNat).taint l = (c.taintAt l || bit ((c.my s1).vreg d.toNat).taint l)) ∧
      (∀ l < 32, bit c.pass l = false → (c.my u).lane d.toNat l = (c.my s1).lane d.toNat l ∧
        bit ((c.my u).vreg d.toNat).taint l = bit ((c.my s1).vreg d.toNat).taint l) ∧
      ((c.my u).vreg d.toNat).poison = ((c.my s1).vreg d.toNat).poison ∧
      (c.my u).fpstat = (c.my s1).fpstat ||| (c.anyFlags fun l => (r l 0).2 ||| (r l 1).2 ||| (r l 2).2 ||| (r l 3).2) ∧
      (c.my u).gen = (c.drawn m 4).1 ∧ c.falls s1 u ∧
      c.rest u [d.toNat] [] [] looseFloat = c.rest s1 [d.toNat] [] [] looseFloat

/-- R173 with R164 and R41: `FCMP` sets the passing bits of its predicate by its condition, and NV where it is ordered and an operand is NaN. -/
def Obligations.FloatComparesSetTheirPredicate : Prop :=
  ∀ (cc p : BitVec 3) (a b : BitVec 6) (s s1 : State) (c : Ctx) (wide : Bool),
    let i : Instr := if wide then .fcmpF64 cc p a b else .fcmp cc p a b
    let f := if wide then fp64 else fp32
    let x (n : BitVec 6) (l : Nat) : Nat := if wide then (c.v2 n l).toNat else (c.v n l).toNat
    let un (l : Nat) : Bool := (f.decode (x a l)).isNan || (f.decode (x b l)).isNan
    let key (n : BitVec 6) (l : Nat) : Int := if f.neg (x n l) then -(f.magnitude (x n l) : Int) else f.magnitude (x n l)
    s.acting i = some (c, s1) →
    ∃ t, exec i s = .next t ∧
      c.holdsP s1 t p.toNat (maskOf fun l => match cc.toNat with
        | 0 => !un l && decide (key a l = key b l)
        | 1 => un l || decide (key a l ≠ key b l)
        | 2 => !un l && decide (key a l < key b l)
        | 3 => !un l && decide (key a l ≤ key b l)
        | 4 => !un l && decide (key a l > key b l)
        | 5 => !un l && decide (key a l ≥ key b l)
        | 6 => un l
        | _ => !un l) ∧
      (c.my t).fpstat = (c.my s1).fpstat |||
        (if 2 ≤ cc.toNat ∧ cc.toNat ≤ 5 ∧ ((List.range 32).any fun l => bit c.pass l && un l) then flagNV else 0#32) ∧
      (c.my t).gen = (c.my s1).gen ∧ c.falls s1 t ∧ c.rest t [] [] [p.toNat] looseFloat = c.rest s1 [] [] [p.toNat] looseFloat

/-- R172, R158: in every format, `FMIN` and `FMAX` of encodings that are not NaN take the smaller and the larger by sign and magnitude, −0 below
+0; of one NaN they take the other operand; of two they give the canonical NaN. -/
def Obligations.MinimumAndMaximumFollowTheOrder : Prop :=
  ∀ f ∈ formats, ∀ a < 2 ^ f.bits, ∀ b < 2 ^ f.bits,
    let na := (f.decode a).isNan
    let nb := (f.decode b).isNan
    fminCode f a b = (if na && nb then f.canonical else if na then b else if nb then a else if orderKey f b < orderKey f a then b else a) ∧
      fmaxCode f a b = (if na && nb then f.canonical else if na then b else if nb then a else if orderKey f a < orderKey f b then b else a)

/-- R162, R163: what `round` gives in every format, for every exact magnitude `m * 2^e` and mode but the stochastic one. The magnitude is rounded to a
multiple of the format's spacing there: down, up, or to the nearest, of two the even one. Where that multiple exceeds the largest value of the format, and only
there, the result is infinity or the largest value, as the mode and the sign say, with OF and NX. Else the code holds it; NX is raised just where it differs from the
magnitude, and UF too where the magnitude lies below the least normal value. Values are compared as multiples of `2^g`, a unit no coarser than any spacing. -/
def Obligations.RoundingIsWithinTheSpacingAndFlagsInexact : Prop :=
  ∀ f ∈ formats, ∀ (neg : Bool) (m : Nat) (e : Int) (mode : RMode), 0 < m → mode ≠ .sr →
    let r := f.round neg m e false mode 0
    let least : Int := 1 - f.bias
    let top : Int := (Nat.log2 m : Int) + e
    let u : Int := max top least - f.mbits
    let g := min e (least - f.mbits)
    let exact : Int := m * 2 ^ (e - g).toNat
    let space : Int := 2 ^ (u - g).toNat
    let value (code : Nat) : Int := (f.decode (f.magnitude code)).scaled g
    let away : Prop := mode = if neg then .rd else .ru
    let below : Int := exact / space
    let past : Int := exact % space
    let n : Int := if past = 0 then below
      else if away ∨ mode = .rne ∧ (space < 2 * past ∨ 2 * past = space ∧ below % 2 = 1) then below + 1
      else below
    f.neg r.1 = neg ∧
      (value f.maxCode < n * space →
        r.2 = flagOF ||| flagNX ∧ f.magnitude r.1 = if f.hasInf = true ∧ (away ∨ mode = .rne) then f.infCode else f.maxCode) ∧
      (n * space ≤ value f.maxCode →
        value r.1 = n * space ∧ (value r.1 - exact).natAbs < space.natAbs ∧
          r.2 = if n * space = exact then 0#32 else if top < least then flagNX ||| flagUF else flagNX)

/-- R115, R116, R117, R125: every transfer that is taken goes to slot 1 of the packet, or the place, that its operand names, ends the run,
leaves its link where it has one, with the taint of what it reads (R50), and changes nothing else. -/
def Obligations.TakenTransfersGoToTheirTarget : Prop :=
  ∀ (i : Instr) (s s1 : State) (c : Ctx) (pc : W64) (link : Option (BitVec 6)), s.acting i = some (c, s1) →
    c.transfer i = some (pc, link) →
    ∃ t, exec i s = .next t ∧ c.lands s1 t pc ∧ c.runEnded t ∧
      (∀ d, link = some d → (c.my t).sreg d.toNat = { val := nextPc c.iss.tpc, poison := false, taint := match i with
        | .callReg _ a => (c.th.sreg a.toNat).taint
        | _ => false }) ∧
      c.rest t [] (link.toList.map BitVec.toNat) [] looseRun = c.rest s1 [] (link.toList.map BitVec.toNat) [] looseRun

/-- R115, R116: a jump or a call to an address that is not a multiple of 16, and a return to one that is not a multiple of 4, raise the
misaligned trap with DETAIL 0 and the passing lanes; neither writes a link. -/
def Obligations.MisalignedTargetsTrap : Prop :=
  ∀ (d a : BitVec 6) (s s1 : State) (c : Ctx),
    (s.acting (.jmp a) = some (c, s1) → (c.s a).toNat % 16 ≠ 0 → exec (.jmp a) s = .next (c.trapWith 8#8 0#8 c.pass s1)) ∧
    (s.acting (.callReg d a) = some (c, s1) → (c.s a).toNat % 16 ≠ 0 →
      exec (.callReg d a) s = .next (c.trapWith 8#8 0#8 c.pass s1)) ∧
    (s.acting (.ret a) = some (c, s1) → (c.s a).toNat % 4 ≠ 0 → exec (.ret a) s = .next (c.trapWith 8#8 0#8 c.pass s1))

/-- R121, R122: `LOOP` with a count of 0 skips past its last packet; another one pushes an entry and falls into its body; `LOOPBRK` pops the
innermost entry and goes on after its last packet. -/
def Obligations.LoopsPushSkipAndBreak : Prop :=
  ∀ (a : BitVec 6) (s s1 : State) (c : Ctx),
    (s.acting (.loop a) = some (c, s1) → loopCheck c s1 = none →
      let last := c.packetAt c.x - 4#64
      ∃ t, exec (.loop a) s = .next t ∧ c.rest t [] [] [] looseRun = c.rest s1 [] [] [] looseRun ∧
        ((c.s a).toNat % 2 ^ 32 = 0 → c.lands s1 t (last + 20#64) ∧ c.runEnded t) ∧
        ((c.s a).toNat % 2 ^ 32 ≠ 0 → ((c.my t).slot c.iss.slot).st = .live ∧ ((c.my t).slot c.iss.slot).pc = nextPc c.iss.tpc ∧
          (c.my t).loops = { start := nextPc c.iss.tpc, last := last, count := BitVec.ofNat 32 (c.s a).toNat } :: (c.my s1).loops)) ∧
    (∀ l rest, s.acting .loopbrk = some (c, s1) → (c.my s1).loops = l :: rest →
      ∃ t, exec .loopbrk s = .next t ∧ ((c.my t).slot c.iss.slot).st = .live ∧ ((c.my t).slot c.iss.slot).pc = slot1 (l.last + 16#64) ∧
        (c.my t).loops = rest ∧ c.runEnded t ∧ c.rest t [] [] [] looseRun = c.rest s1 [] [] [] looseRun)

/-- R82, R122: past a word a slot goes to the next slot of its packet, and from slot 3 to slot 1 of the next packet, unless it ends the last
packet of the innermost loop: then it goes back to the start while the count is above 1, with one less to go, and else leaves the loop. -/
def Obligations.FallingThroughFollowsTheLoopTest : Prop :=
  ∀ (t : Thread) (tpc : W64),
    let after := if tpc.toNat / 4 % 4 = 3 then (tpc &&& 0xFFFFFFFFFFFFFFF0#64) + 20#64 else tpc + 4#64
    (t.loops = [] → t.loopNext tpc = (after, [])) ∧
    ∀ l rest, t.loops = l :: rest →
      let ends := tpc.toNat / 4 % 4 = 3 ∧ tpc &&& 0xFFFFFFFFFFFFFFF0#64 = l.last
      (¬ ends → t.loopNext tpc = (after, l :: rest)) ∧
      (ends → l.count.toNat > 1 → t.loopNext tpc = (l.start, { l with count := BitVec.ofNat 32 (l.count.toNat - 1) } :: rest)) ∧
      (ends → l.count.toNat ≤ 1 → t.loopNext tpc = (after, rest))

/-- R118, R99: `NOP` changes nothing but where its slot stands; so does `YIELD` in the access processor, and in a warp it also leaves a yield
hint and ends the run; `XIMM` adds its bits to those that the next word of its instruction takes. -/
def Obligations.WordsWithoutEffectOnlyGoOn : Prop :=
  ∀ (x : BitVec 26) (s s1 : State) (c : Ctx),
    (s.acting .nop = some (c, s1) → ∃ t, exec .nop s = .next t ∧ c.falls s1 t ∧ c.rest t [] [] [] = c.rest s1 [] [] []) ∧
    (s.acting .yield = some (c, s1) →
      let loose : Loosen := { thread := fun t => { t with hint := .neutral }, core := fun y => { y with ports := [] } }
      ∃ t, exec .yield s = .next t ∧ c.falls s1 t ∧ c.rest t [] [] [] loose = c.rest s1 [] [] [] loose ∧
        (c.a = apAgent → c.rest t [] [] [] = c.rest s1 [] [] []) ∧
        (c.a ≠ apAgent → (c.my t).hint = .yield ∧ c.runEnded t)) ∧
    (∀ iss, s.cur = some iss →
      exec (.ximm x) s = .next { s with cur := some { iss with xs := iss.xs ++ [x], tpc := nextPc iss.tpc } })

/-- R68, R131, R132: in a warp that may take a trap, `TRAP` and `BKPT` enter the handler with their codes 0x0F and 0x10, their number as the
DETAIL, and can be resumed. -/
def Obligations.SoftwareTrapsEnterTheHandler : Prop :=
  ∀ (n : BitVec 8) (s s1 : State) (c : Ctx),
    (s.acting (.trap n) = some (c, s1) → c.mayTrap →
      ∃ t, exec (.trap n) s = .next t ∧ c.entersHandler s1 t c.core.launch.trapEntry 0x0F#8 n true c.pass) ∧
    (s.acting (.bkpt n) = some (c, s1) → c.mayTrap →
      ∃ t, exec (.bkpt n) s = .next t ∧ c.entersHandler s1 t c.core.launch.trapEntry 0x10#8 n true c.pass)

/-- R105: an instruction of an emulated major enters the emulation handler of a grid that has one, with the code 7, whatever its guard. -/
def Obligations.EmulatedMajorsEnterTheEmulationHandler : Prop :=
  ∀ (w : BitVec 32) (s s1 : State) (iss : Issue) (core : Core) (c : Ctx), s.cur = some iss → s.core? iss.core = some core →
    mkCtx iss core (.emulatedMajor w) s = (c, s1) → iss.agent < 16 → iss.xs.length ≤ 2 → c.th.ahead = none → c.th.handler = none →
    core.squashed = false → core.launch.emulEntry ≠ 0xFFFFFFFF#32 →
    ∃ t, exec (.emulatedMajor w) s = .next t ∧ c.entersHandler s1 t core.launch.emulEntry 7#8 0#8 true c.pass

/-- R69, R132: in its handler's slot `RTT` goes back to TRAPPC and `RTT.adv` to the place after the instruction there, past its prefixes; both
leave the handler and end the run, and change no register. `RTT.adv` waits while the code there is being fetched. -/
def Obligations.ReturnsLeaveTheHandler : Prop :=
  ∀ (s s1 : State) (c : Ctx),
    let place (pc : W64) : W64 := if pc.toNat / 4 % 4 = 0 then pc + 4#64 else pc
    (s.acting .rtt = some (c, s1) → c.th.handler = some c.iss.slot →
      ∃ t, exec .rtt s = .next t ∧ c.lands s1 t (place c.th.trapPc) ∧ (c.my t).handler = none ∧ c.runEnded t ∧
        (c.my t).trapCause = c.th.trapCause ∧ (c.my t).trapPc = c.th.trapPc ∧ (c.my t).trapMask = c.th.trapMask ∧
        c.rest t [] [] [] looseTrap = c.rest s1 [] [] [] looseTrap) ∧
    (s.acting .rttAdv = some (c, s1) → c.th.handler = some c.iss.slot →
      (∀ pc, (s1.afterInstr c.k 3 c.th.trapPc).2 = some pc →
        ∃ t, exec .rttAdv s = .next t ∧ ((c.my t).slot c.iss.slot).st = .live ∧
          ((c.my t).slot c.iss.slot).pc = place pc ∧ (c.my t).handler = none ∧ c.runEnded t ∧
          (c.my t).v = (c.my s1).v ∧ (c.my t).s = (c.my s1).s ∧ (c.my t).p = (c.my s1).p ∧
          (∀ w, (s1.codeWord c.k c.th.trapPc).2 = some w → w.toNat / 2 ^ 26 ≠ 0x3F →
            ((c.my t).slot c.iss.slot).pc = nextPc c.th.trapPc)) ∧
      ((s1.afterInstr c.k 3 c.th.trapPc).2 = none →
        ∃ t, exec .rttAdv s = .next t ∧ c.waits s1 t .structural ∧ (c.my t).apart = (c.my s1).apart))

/-- R60, R61, R63 to R80, R119: `MFS` leaves the system register that it names in its destination: a scalar one by the table, LANEID and the
clock of the die lane by lane. -/
def Obligations.SystemRegistersAreRead : Prop :=
  ∀ (d : BitVec 6) (e : BitVec 12) (s s1 : State) (c : Ctx), s.acting (.mfs d e) = some (c, s1) →
    (∀ v, (e.toNat, v) ∈ c.systemTable s1 →
      ∃ t, exec (.mfs d e) s = .next t ∧ c.holdsS t d.toNat v ∧ c.falls s1 t ∧ c.rest t [] [d.toNat] [] = c.rest s1 [] [d.toNat] []) ∧
    (e.toNat = 0 ∨ e.toNat = 0x73 →
      ∃ t, exec (.mfs d e) s = .next t ∧
        c.holdsV s1 t d.toNat (fun l => if e.toNat = 0 then BitVec.ofNat 32 l
          else if l < 12 then nth (s1.die (dieOfCore c.k)).clock l 0#32 else 0#32) ∧
        c.falls s1 t ∧ c.rest t [d.toNat] [] [] = c.rest s1 [d.toNat] [] [])

/-- R62, R69, R71 to R75, R119: `MTS` writes the writable fields of INHIBIT, TRAPPC (in a handler, but not to slot 0), FPSTAT and WCTL, and
nothing of any other register. -/
def Obligations.SystemRegistersAreWritten : Prop :=
  ∀ (r : BitVec 6) (e : BitVec 12) (s s1 : State) (c : Ctx), s.acting (.mts r e) = some (c, s1) →
    let loose : Loosen := { thread := fun t => { t with inhibit := false, trapPc := 0#64, fpstat := 0#32, wctl := 0#32 } }
    let v := (c.s r).toNat
    let pcOk : Prop := c.th.handler.isSome = true ∧ v / 4 % 4 ≠ 0
    ∃ t, exec (.mts r e) s = .next t ∧ c.falls s1 t ∧ c.rest t [] [] [] loose = c.rest s1 [] [] [] loose ∧
      ((c.my t).inhibit = if e.toNat = 0x15 then decide (v / 2 % 2 = 1) else (c.my s1).inhibit) ∧
      (e.toNat ≠ 0x21 ∨ ¬ pcOk → (c.my t).trapPc = (c.my s1).trapPc) ∧
      (e.toNat = 0x21 → pcOk → (c.my t).trapPc = BitVec.ofNat 64 (v / 4 * 4)) ∧
      ((c.my t).fpstat = if e.toNat = 0x30 then BitVec.ofNat 32 (v % 32) else (c.my s1).fpstat) ∧
      ((c.my t).wctl = if e.toNat = 0x31 then BitVec.ofNat 32 (v % 4 + v / 16 % 128 * 16) else (c.my s1).wctl)

/-- R122, R123, R125: a branch that diverges sends its passing lanes to the target; the others go on at the next word, with no loop test, in the other
slot, or as a path frame on top of the divergence stack, with the reconvergence address of the slot. A push beyond the depth raises the overflow trap. -/
def Obligations.DivergingBranchesSplitTheSlot : Prop :=
  ∀ (s s1 : State) (c : Ctx), s.acting .brv = some (c, s1) → c.pass ≠ c.mask →
    let other := otherSlot c.iss.slot
    let mine := (c.my s1).slot c.iss.slot
    let stay : W32 := c.mask &&& ~~~c.pass
    (((c.my s1).slot other).st = .empty →
      ∃ t, exec .brv s = .next t ∧ (c.my t).slot c.iss.slot = { mine with st := .live, pc := c.packetAt c.x, mask := c.pass } ∧
        (c.my t).slot other = { mine with st := .live, pc := nextPc c.iss.tpc, mask := stay } ∧ (c.my t).stack = (c.my s1).stack ∧
        (c.my t).loops = (c.my s1).loops ∧ c.runEnded t ∧ c.rest t [] [] [] looseSlots = c.rest s1 [] [] [] looseSlots) ∧
    (((c.my s1).slot other).st ≠ .empty → (c.my s1).stack.length < c.core.launch.divFrames → (s1.pushReady c.k c.a).2 = true →
      ∃ t, exec .brv s = .next t ∧ (c.my t).slot c.iss.slot = { mine with st := .live, pc := c.packetAt c.x, mask := c.pass } ∧
        (c.my t).slot other = (c.my s1).slot other ∧ (c.my t).stack = .path (nextPc c.iss.tpc) stay mine.ra mine.fragId :: (c.my s1).stack ∧
        (c.my t).loops = (c.my s1).loops ∧ c.runEnded t ∧ (c.my t).apart = (c.my s1).apart) ∧
    (((c.my s1).slot other).st ≠ .empty → c.core.launch.divFrames ≤ (c.my s1).stack.length →
      exec .brv s = .next (c.trapWith 0x0C#8 0#8 c.pass s1))

/-- R123, R124, R126, R129, R130: `RECONV` opens a join; a slot that comes to its packet arrives there, and the holders go on together once
every live lane that is expected has arrived; `JOINW` merges with a slot that waits at the same place, or goes on once it holds
every live lane that it expects, or waits; a wait ends at its limit, or when every live lane it expects has come, before another lane of its warp meets it, and of two
that need lanes held apart from both the earlier ends. -/
def Obligations.LanesMeetAtJoins : Prop :=
  (∀ (s s1 : State) (c : Ctx), s.acting .reconv = some (c, s1) → (c.my s1).stack.length < c.core.launch.divFrames →
    (s1.pushReady c.k c.a).2 = true →
    ∃ t, exec .reconv s = .next t ∧ c.falls s1 t ∧ ((c.my t).slot c.iss.slot).ra = some (c.packetAt c.x - 4#64) ∧
      (c.my t).stack = .join (c.packetAt c.x - 4#64) c.mask 0#32 ((c.my s1).slot c.iss.slot).ra :: (c.my s1).stack ∧
      (c.my t).apart = (c.my s1).apart) ∧
  (∀ (s : State) (k a : Nat) (w : SlotId) (core : Core) (l : W64) (e arr : W32) (sv : Option W64),
    s.core? k = some core → a < 16 → (core.thread a).ahead = none → ((core.thread a).slot w).st = .live → ((core.thread a).slot w).ra = some l →
    ((core.thread a).slot w).pc = (l &&& 0xFFFFFFFFFFFFFFF0#64) + 4#64 → (core.thread a).stack = [.join l e arr sv] →
    ((core.thread a).slot w).mask &&& ~~~e = 0#32 → core.fragLanes a = 0#32 → core.readyFragment a = none →
    ((core.thread a).slot (otherSlot w)).mask &&& ((core.thread a).slot w).mask = 0#32 →
    let together := arr ||| ((core.thread a).slot w).mask
    ∃ t, exec (.reconvergenceArrival k a w) s = .next t ∧ (t.thread k a).apart = (core.thread a).apart ∧
      (e &&& ((core.thread a).slot (otherSlot w)).mask &&& ~~~together ≠ 0#32 →
        (t.thread k a).slot w = Slot.none ∧ (t.thread k a).stack = [.join l e together sv]) ∧
      (((core.thread a).slot (otherSlot w)).st = .empty → ((core.thread a).slot (otherSlot w)).mask = 0#32 → together = e → e ≠ 0#32 →
        (t.thread k a).slotA = { st := .live, pc := (l &&& 0xFFFFFFFFFFFFFFF0#64) + 4#64, mask := e, ra := sv, fragId := 0xFF#8 } ∧
        (t.thread k a).slotB = Slot.none ∧ (t.thread k a).stack = [])) ∧
  (∀ (d a : BitVec 6) (s s1 : State) (c : Ctx), s.acting (.joinw d a) = some (c, s1) → joinwCheck c s1 = none →
    let other := (c.my s1).slot (otherSlot c.iss.slot)
    let mine := (c.my s1).slot c.iss.slot
    let e : W32 := (c.s a).setWidth 32
    let meets : Prop := (∃ p x st li q, other.st = .waiting (.joinw p x st li q)) ∧ other.pc = mine.pc ∧ other.ra = mine.ra
    let ended : Prop := c.core.acts = true ∧ ∃ p x st li q, other.st = .waiting (.joinw p x st li q) ∧
      (x &&& c.core.live c.a &&& ~~~other.mask = 0#32 ∨ 0 < li ∧ st + li < s1.now)
    let loose : Loosen := { core := fun x => { x with ports := [] }, thread := fun t => { t with slotA := Slot.none, slotB := Slot.none } }
    (ended → ∃ t, exec (.joinw d a) s = .next t ∧ ((c.my t).slot (otherSlot c.iss.slot)).st = .live ∧
      ((c.my t).slot (otherSlot c.iss.slot)).mask = other.mask) ∧
    (meets → ¬ ended → (c.my s1).stack = [] → c.core.fragLanes c.a = 0#32 → c.core.readyFragment c.a = none → other.mask ≠ 0#32 →
      c.th.handler = none →
      ∃ t, exec (.joinw d a) s = .next t ∧ (c.my t).slot (otherSlot c.iss.slot) = { other with mask := other.mask ||| mine.mask } ∧
        (c.my t).slot c.iss.slot = Slot.none ∧ c.runEnded t ∧ c.rest t [] [] [] loose = c.rest s1 [] [] [] loose) ∧
    (¬ meets → ¬ ended → e &&& c.core.live c.a &&& ~~~mine.mask = 0#32 →
      ∃ t, exec (.joinw d a) s = .next t ∧ c.falls s1 t ∧ ((c.my t).slot c.iss.slot).fragId = 0xFF#8 ∧
        (c.my t).pval d.toNat = (if d.toNat = 7 then allLanes else mine.mask) ∧
        c.rest t [] [] [d.toNat] loose = c.rest s1 [] [] [d.toNat] loose) ∧
    (¬ meets → ¬ ended → e &&& c.core.live c.a &&& ~~~mine.mask ≠ 0#32 →
      ∃ t, exec (.joinw d a) s = .next t ∧ c.waits s1 t (.joinw d.toNat e s1.now c.x.toNat c.iss.tpc) ∧
        c.rest t [] [] [] loose = c.rest s1 [] [] [] loose)) ∧
  (∀ (s : State) (k a : Nat) (w : SlotId) (core : Core) (p start limit : Nat) (e : W32) (tpc : W64),
    s.core? k = some core → core.acts = true → a < 16 → (core.thread a).ahead = none →
    ((core.thread a).slot w).st = .waiting (.joinw p e start limit tpc) →
    let mine := ((core.thread a).slot w).mask
    let after : Slot := { (core.thread a).slot w with st := .live, pc := ((core.thread a).loopNext tpc).1, fragId := 0xFF#8 }
    let loose : Loosen := { thread := fun t => t.updSlot w fun _ => Slot.none }
    let ends (t : State) : Prop := (t.thread k a).slot w = after ∧ (t.thread k a).loops = ((core.thread a).loopNext tpc).2 ∧
      (t.thread k a).pval p = (if p = 7 then allLanes else mine) ∧ s.except k a w [] [] [p] loose = t.except k a w [] [] [p] loose
    (e &&& core.live a &&& ~~~mine = 0#32 → ∃ t, exec (.joinwComplete k a w) s = .next t ∧ ends t) ∧
    (0 < limit → start + limit < s.now → ∃ t, exec (.joinwTimeout k a w) s = .next t ∧ ends t) ∧
    (∀ p' start' limit' e' tpc', ((core.thread a).slot (otherSlot w)).st = .waiting (.joinw p' e' start' limit' tpc') →
      e &&& core.stowed a &&& ~~~mine ≠ 0#32 → e' &&& core.stowed a &&& ~~~((core.thread a).slot (otherSlot w)).mask ≠ 0#32 →
      start < start' ∨ start = start' ∧ w = .a → max start start' < s.now →
      ∃ t, exec (.joinwDeadlockBreak k a) s = .next t ∧ ends t))

/-- R120, R128, R127: `EXIT` takes its passing lanes from the warp; a warp without lanes ends and its window returns to the pool; in
the access processor it closes every queue. `FRAGWAKE` makes the parked fragments that it names ready, or lets an empty slot of their warp take them. -/
def Obligations.LanesExitAndFragmentsWake : Prop :=
  (∀ (s s1 : State) (c : Ctx), s.acting .exit = some (c, s1) → c.a < 16 → c.pass ≠ c.mask →
    ∃ t, exec .exit s = .next t ∧ ((c.my t).slot c.iss.slot).mask = c.mask &&& ~~~c.pass ∧
      ((c.my t).slot c.iss.slot).st = .live ∧ ((c.my t).slot c.iss.slot).pc = ((c.my s1).loopNext c.iss.tpc).1 ∧
      (c.my t).apart = (c.my s1).apart) ∧
  (∀ (s s1 : State) (c : Ctx), s.acting .exit = some (c, s1) → c.a < 16 → c.pass = c.mask → c.elsewhere s1 = 0#32 → c.th.ended = false →
    ∃ t, exec .exit s = .next t ∧ (c.my t).ended = true ∧ (c.my t).window = 0 ∧ (c.here t).pool = c.core.pool ∧
      (c.here t).released = c.core.released ++ (if c.th.window = 0 then [] else [(s1.now, c.th.window)]) ∧
      (c.my t).s = (c.my s1).s ∧ (c.my t).p = (c.my s1).p ∧ (c.my t).inflight = (c.my s1).inflight ∧ c.runEnded t) ∧
  (∀ (s s1 : State) (c : Ctx), s.acting .exit = some (c, s1) → c.a = apAgent →
    ∃ t, exec .exit s = .next t ∧ (c.my t).ended = true ∧ (c.my t).slotA = Slot.none ∧ (∀ q ∈ (c.here t).aq, q.closed = true) ∧
      (c.here t).aq.map (fun q => q.entries) = c.core.aq.map (fun q => q.entries) ∧ (c.my t).s = (c.my s1).s ∧ (c.my t).p = (c.my s1).p) ∧
  (∀ (a : BitVec 6) (s s1 : State) (c : Ctx), s.acting (.fragwake a) = some (c, s1) →
    ∃ t, exec (.fragwake a) s = .next t ∧ c.falls s1 t ∧ (∀ x, (t.thread c.k x).apart = (s1.thread c.k x).apart) ∧
      ∀ i f, c.core.frags[i]? = some f → f.valid = true →
        (i = (c.s a).toNat % 256 ∨ (c.s a).toNat % 256 = 255 →
          nth (c.here t).frags i Fragment.free = { f with ready := true } ∨
            (nth (c.here t).frags i Fragment.free).valid = false ∧ ∃ w, (t.thread c.k f.warp).slot w =
              { st := .live, pc := f.pc, mask := f.mask, ra := f.ra, fragId := BitVec.ofNat 8 i }) ∧
        (i ≠ (c.s a).toNat % 256 → (c.s a).toNat % 256 ≠ 255 → f.ready = false → nth (c.here t).frags i Fragment.free = f))

/-- R45, R46, R222, R339: an `aq` queue is popped by `SMOV sD, aqN` in order, once the accesses before the push of the entry are performed and no
earlier pop waits; it gives all ones when closed and empty, and makes the reader wait otherwise, after those that wait; `AQPUSH` appends, or waits while
32 entries are held, or raises closed-queue; `AQCLOSE` closes. -/
def Obligations.QueuesPassEntriesInOrder : Prop :=
  ∀ (d a : BitVec 6) (s s1 : State) (c : Ctx),
    let q (t : State) (n : BitVec 6) : AQueue := (c.here t).aqueue n.toNat
    let loose : Loosen := { core := fun x => { x with aq := [], ports := [] } }
    let others (t : State) (n : BitVec 6) : Prop := ∀ m, m ≠ n.toNat → (c.here t).aqueue m = c.core.aqueue m
    (s.acting (.smovAq d a) = some (c, s1) →
      let old := c.core.aqueue a.toNat
      let mine (y : Nat × SlotId × Nat) : Prop := (y.1, y.2.1) = (c.a, c.iss.slot)
      let first : Prop := c.core.popsBefore a.toNat c.a c.iss.slot = []
      let there : Prop := ∀ x ∈ (c.core.thread apAgent).inflight, old.after.headD 0 ≤ x.tag ∨ x.performed = true
      let spent : Prop := old.entries = [] ∧ old.closed = true
      (∀ x rest, old.entries = x :: rest → first → there →
        ∃ t, exec (.smovAq d a) s = .next t ∧ c.holdsS t d.toNat x ∧ (q t a).entries = rest ∧ (q t a).after = old.after.drop 1 ∧
          (∀ y, y ∈ (q t a).waiters ↔ y ∈ old.waiters ∧ ¬ mine y) ∧ (q t a).closed = old.closed ∧
          others t a ∧ c.falls s1 t ∧ c.rest t [] [d.toNat] [] loose = c.rest s1 [] [d.toNat] [] loose) ∧
      (spent →
        ∃ t, exec (.smovAq d a) s = .next t ∧ c.holdsS t d.toNat 0xFFFFFFFFFFFFFFFF#64 ∧ (q t a).entries = [] ∧ (q t a).closed = true ∧ others t a ∧
          c.falls s1 t ∧ c.rest t [] [d.toNat] [] loose = c.rest s1 [] [d.toNat] [] loose) ∧
      (¬ spent → ¬ (first ∧ old.entries ≠ [] ∧ there) →
        ∃ t, exec (.smovAq d a) s = .next t ∧ c.waits s1 t (.pop a.toNat) ∧ (q t a).entries = old.entries ∧ (q t a).closed = old.closed ∧ others t a ∧
          (∃ y ∈ (q t a).waiters, mine y) ∧ (∀ y ∈ old.waiters, y ∈ (q t a).waiters) ∧
          (∀ y ∈ (q t a).waiters, y ∈ old.waiters ∨ y = (c.a, c.iss.slot, s1.now) ∧ ∀ z ∈ old.waiters, ¬ mine z) ∧ c.rest t [] [] [] loose = c.rest s1 [] [] [] loose)) ∧
    (s.acting (.aqpush d a) = some (c, s1) →
      ((c.core.aqueue d.toNat).closed = false → (c.core.aqueue d.toNat).entries.length < 32 →
        ∃ t, exec (.aqpush d a) s = .next t ∧ (q t d).entries = (c.core.aqueue d.toNat).entries ++ [c.s a] ∧ (q t d).closed = false ∧
          (q t d).after = (c.core.aqueue d.toNat).after ++ [s1.seq] ∧
          others t d ∧ c.falls s1 t ∧ c.rest t [] [] [] loose = c.rest s1 [] [] [] loose) ∧
      ((c.core.aqueue d.toNat).closed = false → 32 ≤ (c.core.aqueue d.toNat).entries.length →
        ∃ t, exec (.aqpush d a) s = .next t ∧ c.waits s1 t .structural ∧ c.rest t [] [] [] = c.rest s1 [] [] []) ∧
      ((c.core.aqueue d.toNat).closed = true → exec (.aqpush d a) s = .next (c.trapWith 4#8 6#8 c.pass s1))) ∧
    (s.acting (.aqclose d) = some (c, s1) →
      ∃ t, exec (.aqclose d) s = .next t ∧ (q t d).closed = true ∧ (q t d).entries = (c.core.aqueue d.toNat).entries ∧ others t d ∧
        c.falls s1 t ∧ c.rest t [] [] [] loose = c.rest s1 [] [] [] loose)

/-- R45, R47, R148, R223, R225: a read of a receive register takes its oldest message whole, or waits; a write to a bound send register sends
its words, the lanes that do not pass as zero, to the receive register bound, waits while 16 messages are held or promised there, and is
discarded where the target has completed; `MQBIND` binds for the cycles after, and `MQTRY` says whether a message is there that did not arrive in this
cycle. -/
def Obligations.MessagesGoToTheBoundRegister : Prop :=
  ∀ (d a : BitVec 6) (s s1 : State) (c : Ctx),
    (s.acting (.vmovFromMqi d a) = some (c, s1) →
      let loose : Loosen := { core := fun x => { x with mqi := [] } }
      (∀ m rest, (c.core.recv a.toNat).messages = m :: rest →
        ∃ t, exec (.vmovFromMqi d a) s = .next t ∧ c.holdsV s1 t d.toNat (fun l => nth m l 0#32) ∧
          (c.here t).recv a.toNat = { c.core.recv a.toNat with messages := rest } ∧
          (∀ n, n ≠ a.toNat → (c.here t).recv n = c.core.recv n) ∧ c.falls s1 t ∧
          c.rest t [d.toNat] [] [] loose = c.rest s1 [d.toNat] [] [] loose) ∧
      ((c.core.recv a.toNat).messages = [] →
        ∃ t, exec (.vmovFromMqi d a) s = .next t ∧ c.waits s1 t (.receive a.toNat) ∧
          c.rest t [] [] [] looseRun = c.rest s1 [] [] [] looseRun)) ∧
    (∀ b, s.acting (.vmovToMqo d a) = some (c, s1) → c.core.binding d.toNat s1.now = some b → s1.coreOfBlock c.k c.core b.gang b.block = none →
      (s1.unplaced (c.k / 128) c.core b.gang = true →
        ∃ t, exec (.vmovToMqo d a) s = .next t ∧ c.waits s1 t (.send d.toNat) ∧ c.rest t [] [] [] looseRun = c.rest s1 [] [] [] looseRun) ∧
      (s1.unplaced (c.k / 128) c.core b.gang = false →
        ∃ t, exec (.vmovToMqo d a) s = .next t ∧ c.falls s1 t ∧ c.rest t [] [] [] = c.rest s1 [] [] [])) ∧
    (∀ b k target, s.acting (.vmovToMqo d a) = some (c, s1) → c.core.binding d.toNat s1.now = some b →
      s1.coreOfBlock c.k c.core b.gang b.block = some k → s1.core? k = some target →
      let held := (target.recv b.queue).messages.length + (target.recv b.queue).promised
      let gone : Prop := target.phase = .killed ∨ target.phase = .completed ∨ target.phase = .halted
      (¬ gone → held < 16 →
        ∃ t f, exec (.vmovToMqo d a) s = .next t ∧ t.flits = s1.flits ++ [f] ∧ f.dDie = k / 128 ∧ f.sDie = c.k / 128 ∧
          f.body = .message ((List.range 32).map fun l => if bit c.pass l then c.v a l else 0#32) k b.queue c.k d.toNat ∧
          (∃ x, t.core? k = some x ∧ x.recv b.queue = { target.recv b.queue with promised := (target.recv b.queue).promised + 1 }) ∧
          c.falls s1 t ∧ (c.my t).apart = (c.my s1).apart ∧ t.mem = s1.mem) ∧
      (¬ gone → 16 ≤ held →
        ∃ t, exec (.vmovToMqo d a) s = .next t ∧ c.waits s1 t (.send d.toNat) ∧ c.rest t [] [] [] looseRun = c.rest s1 [] [] [] looseRun) ∧
      (gone → ∃ t, exec (.vmovToMqo d a) s = .next t ∧ c.falls s1 t ∧ c.rest t [] [] [] = c.rest s1 [] [] [])) ∧
    (s.acting (.vmovToMqo d a) = some (c, s1) → c.core.binding d.toNat s1.now = none →
      exec (.vmovToMqo d a) s = .next (c.trapWith 4#8 5#8 c.pass s1)) ∧
    (s.acting (.mqbind d a) = some (c, s1) →
      let loose : Loosen := { core := fun x => { x with mqo := [] } }
      let v := (c.s a).toNat
      let good : Prop := v < 2 ^ 10 ∧ v / 2 ^ 7 % 2 = 0 ∧ v / 2 ^ 3 % 2 ^ 4 < c.core.launch.gangs ∧ v % 2 ^ 3 < c.core.launch.blocks
      (good → ∃ t, exec (.mqbind d a) s = .next t ∧
        (∀ later, s1.now < later → (c.here t).binding d.toNat later = some { gang := v / 2 ^ 3 % 2 ^ 4, block := v % 2 ^ 3, queue := v / 2 ^ 8 % 2 ^ 2, since := s1.now }) ∧
        (c.here t).binding d.toNat s1.now = c.core.binding d.toNat s1.now ∧ (∀ n, n ≠ d.toNat → nth (c.here t).mqo n [] = nth c.core.mqo n []) ∧ c.falls s1 t ∧
        c.rest t [] [] [] loose = c.rest s1 [] [] [] loose) ∧
      (¬ good → exec (.mqbind d a) s = .next (c.trapWith 4#8 7#8 c.pass s1))) ∧
    (s.acting (.mqtry d a) = some (c, s1) →
      ∃ t, exec (.mqtry d a) s = .next t ∧
        (let q := c.core.recv a.toNat
         c.holdsP s1 t d.toNat (if q.messages.length ≤ (if q.freshAt = s1.now then q.fresh else 0) then 0#32 else 0xFFFFFFFF#32)) ∧ c.falls s1 t ∧
        c.rest t [] [] [d.toNat] = c.rest s1 [] [] [d.toNat])

/-- R210, R211, R339: the lanes that arrive on a barrier count for their warp, once its earlier accesses are performed; the phase completes with the last warp that is expected, which lets
every waiting slot go on; `BAR` waits for that, `BARARR` and `BARDROP` go on, and a warp that drops, or that came through `BARDROP` in any lane (log 23), is marked as
dropped with its arrival and is expected no longer afterwards. A warp whose lanes had all arrived when it ended counts by those (log 24); an arrival carries
what its agent knows of the `TFENCE`s (log 36), and its accesses are those that it issued before its last arriving instruction (log 135).
`BARWAIT` waits only while the warp has arrived in the phase in progress, and else knows what the phase has made known (R216). Lanes that arrive twice, or after a drop, raise barrier-overrun. -/
def Obligations.BarriersCountTheArrivedWarps : Prop :=
  ∀ (b : BitVec 6) (s s1 : State) (c : Ctx),
    let n := b.toNat
    let old := c.core.bar n
    let good : Prop := old.dropped.contains c.a = false ∧ c.pass &&& nth old.lanes c.a 0#32 = 0#32
    let in_ : Prop := c.a ∈ old.arrived ∨ c.core.live c.a &&& ~~~(nth old.lanes c.a 0#32) = 0#32
    let twice : W32 := if old.dropped.contains c.a then c.pass else c.pass &&& nth old.lanes c.a 0#32
    let freed (t : State) : Prop := c.core.acts = true → ∀ x w, (x, w) ≠ (c.a, c.iss.slot) → x ≤ apAgent → (c.core.thread x).ahead = none →
      ((c.core.thread x).slot w).st = .waiting (.bar n) ∨ ((c.core.thread x).slot w).st = .waiting (.barwait n) →
      (((t.thread c.k x).slot w).st = .live ↔ c.core.phaseEnds n c.a c.pass s1.seq)
    (s.acting (.bar b) = some (c, s1) → good →
      ∃ t, exec (.bar b) s = .next t ∧ c.core.barAfter n c.a c.pass s1.seq false ((c.here t).bar n) ∧ freed t ∧
        (c.core.phaseEnds n c.a c.pass s1.seq → c.falls s1 t) ∧ (¬ c.core.phaseEnds n c.a c.pass s1.seq → c.waits s1 t (.bar n)) ∧
        (∀ x, (c.core.thread x).ahead = none → (t.thread c.k x).apart = (c.core.thread x).apart) ∧ ∀ m < 16, m ≠ n → (c.here t).bar m = c.core.bar m) ∧
    (s.acting (.bararr b) = some (c, s1) → good →
      ∃ t, exec (.bararr b) s = .next t ∧ c.core.barAfter n c.a c.pass s1.seq false ((c.here t).bar n) ∧ freed t ∧ c.falls s1 t ∧
        (∀ x, (c.core.thread x).ahead = none → (t.thread c.k x).apart = (c.core.thread x).apart) ∧ ∀ m < 16, m ≠ n → (c.here t).bar m = c.core.bar m) ∧
    (s.acting (.bardrop b) = some (c, s1) → good →
      ∃ t, exec (.bardrop b) s = .next t ∧ c.core.barAfter n c.a c.pass s1.seq true ((c.here t).bar n) ∧ freed t ∧ c.falls s1 t ∧
        (∀ x, (c.core.thread x).ahead = none → (t.thread c.k x).apart = (c.core.thread x).apart) ∧ ∀ m < 16, m ≠ n → (c.here t).bar m = c.core.bar m) ∧
    (twice ≠ 0#32 →
      (s.acting (.bar b) = some (c, s1) → exec (.bar b) s = .next (c.trapWith 0x0D#8 0#8 twice s1)) ∧
      (s.acting (.bararr b) = some (c, s1) → exec (.bararr b) s = .next (c.trapWith 0x0D#8 0#8 twice s1)) ∧
      (s.acting (.bardrop b) = some (c, s1) → exec (.bardrop b) s = .next (c.trapWith 0x0D#8 0#8 twice s1))) ∧
    (s.acting (.barwait b) = some (c, s1) →
      (¬ in_ → ∃ t, exec (.barwait b) s = .next t ∧ c.falls s1 t ∧
        (∀ w < 16, nth (nth (c.here t).know c.a []) w 0 = max (nth (nth c.core.know c.a []) w 0) (nth old.knew w 0)) ∧
        c.rest t [] [] [] looseKnow = c.rest s1 [] [] [] looseKnow) ∧
      (in_ → ∃ t, exec (.barwait b) s = .next t ∧ c.waits s1 t (.barwait n) ∧
        c.rest t [] [] [] looseRun = c.rest s1 [] [] [] looseRun))

/-- R53 to R56: `RGIVE` returns the top registers of a window once the warp's accesses are done; they enter the pool at the end of the cycle. `RCLAIM` joins
the claim queue, in the order of cycles and within one of WARPID, and at the end of a cycle its head is granted when the pool holds enough, with registers of
zero; `RCLAIM.t` takes them at once or not at all. -/
def Obligations.WindowsShrinkAndGrow : Prop :=
  (∀ (d k : BitVec 6) (s s1 : State) (c : Ctx),
    let m := 8 * k.toNat
    let before (x y : Nat × Nat × Nat) : Prop := x.2.2 < y.2.2 ∨ x.2.2 = y.2.2 ∧ x.1 < y.1
    (s.acting (.rgive k) = some (c, s1) → c.core.converged c.a = true → 16 + m ≤ c.th.window →
      (c.th.counter .gl = 0 → c.th.counter .lo = 0 →
        ∃ t, exec (.rgive k) s = .next t ∧ (c.my t).window = c.th.window - m ∧ (c.here t).pool = c.core.pool ∧
          (c.here t).released = c.core.released ++ (if m = 0 then [] else [(s1.now, m)]) ∧
          (∀ n < c.th.window - m, (c.my t).vreg n = (c.my s1).vreg n) ∧ (c.here t).claims = c.core.claims ∧ c.falls s1 t ∧
          c.rest t [] [] [] looseWindow = c.rest s1 [] [] [] looseWindow) ∧
      (¬ (c.th.counter .gl = 0 ∧ c.th.counter .lo = 0) →
        ∃ t, exec (.rgive k) s = .next t ∧ c.waits s1 t .rgive ∧ c.rest t [] [] [] looseRun = c.rest s1 [] [] [] looseRun)) ∧
    (s.acting (.rclaim k) = some (c, s1) → c.core.converged c.a = true → c.th.window + m ≤ 64 →
      ∃ t l r, exec (.rclaim k) s = .next t ∧ c.waits s1 t .rclaim ∧ c.core.claims = l ++ r ∧ (c.here t).claims = l ++ (c.a, m, s1.now) :: r ∧
        (∀ y ∈ l, ¬ before (c.a, m, s1.now) y) ∧ (∀ y ∈ r.head?, before (c.a, m, s1.now) y) ∧
        (c.here t).pool = c.core.pool ∧ (c.my t).window = c.th.window ∧ (c.my t).v = (c.my s1).v ∧
        c.rest t [] [] [] looseWindow = c.rest s1 [] [] [] looseWindow) ∧
    (s.acting (.rclaimT d k) = some (c, s1) → c.core.converged c.a = true → c.th.window + m ≤ 64 →
      let s2 := s1.endCycles c.k
      let now := c.here s2
      let got : Prop := now.claims = [] ∧ m ≤ now.pool
      let bits (x : W32) : W32 := if d.toNat = 7 then allLanes else x
      ∃ t, exec (.rclaimT d k) s = .next t ∧ c.falls s2 t ∧ (c.here t).claims = now.claims ∧
        c.rest t [] [] [d.toNat] looseWindow = c.rest s2 [] [] [d.toNat] looseWindow ∧
        (got → (c.my t).pval d.toNat = bits allLanes ∧ (c.here t).pool = now.pool - m ∧ (c.my t).window = (c.my s2).window + m ∧
          (c.my t).v = (c.my s2).v ++ List.replicate m VReg.zero) ∧
        (¬ got → (c.my t).pval d.toNat = bits 0#32 ∧ (c.here t).pool = now.pool ∧ (c.my t).window = (c.my s2).window ∧ (c.my t).v = (c.my s2).v)) ∧
    (c.core.converged c.a = false →
      (s.acting (.rgive k) = some (c, s1) → exec (.rgive k) s = .next (c.trapWith 4#8 0x0C#8 c.pass s1)) ∧
      (s.acting (.rclaim k) = some (c, s1) → exec (.rclaim k) s = .next (c.trapWith 4#8 0x0C#8 c.pass s1)) ∧
      (s.acting (.rclaimT d k) = some (c, s1) → exec (.rclaimT d k) s = .next (c.trapWith 4#8 0x0C#8 c.pass s1)))) ∧
  (∀ (s : State) (k w need since : Nat) (core : Core) (rest : List (Nat × Nat × Nat)), s.core? k = some core → core.claims = (w, need, since) :: rest → w < 16 →
    (core.thread w).ahead = none →
    let pool := core.pool + ((core.released.filter fun r => decide (r.1 < s.now)).map Prod.snd).sum
    let left := core.released.filter fun r => !decide (r.1 < s.now)
    (need ≤ pool → since < s.now → (∀ x ∈ rest.head?, pool < need + x.2.1 ∨ s.now ≤ x.2.2) →
      ∃ t x, exec (.claimGrant k) s = .next t ∧ t.core? k = some x ∧ x.pool = pool - need ∧ x.claims = rest ∧ x.released = left ∧
        (x.thread w).window = (core.thread w).window + need ∧ (x.thread w).v = (core.thread w).v ++ List.replicate need VReg.zero ∧
        (∀ sl, core.acts = true → ((core.thread w).slot sl).st = .waiting .rclaim → ((x.thread w).slot sl).st = .live ∧
          ((core.thread w).loops = [] → ((x.thread w).slot sl).pc = nextPc ((core.thread w).slot sl).pc)) ∧
        (∀ y, y ≠ w → x.thread y = core.thread y) ∧ t.mem = s.mem) ∧
    (pool < need ∨ s.now ≤ since →
      ∃ t x, exec (.claimGrant k) s = .next t ∧ t.core? k = some x ∧ x.pool = pool ∧ x.released = left ∧ x.claims = core.claims ∧ x.thr = core.thr ∧
        t.mem = s.mem))

/-- R206, R207, R213 to R216: a wait lets its slot go on at once where its condition holds, and else holds the slot: for a counter, a matrix
batch, a phase of a transaction barrier (whose register takes LASTERR) and for stores to the tile store. A `WAITB`, and a `TBWAIT` without an error, acquires what the block's engines have written to
global memory: no load is served from L1 what it holds of that. `FENCE` waits; it completes once
the accesses that it orders are done, and an acquiring one at `.gang` or wider empties L1. -/
def Obligations.WaitsEndWhenTheirConditionHolds : Prop :=
  (∀ (d a b : BitVec 6) (p : BitVec 2) (sc : BitVec 4) (s s1 : State) (c : Ctx),
    let goesOn (i : Instr) : Prop := ∃ t, exec i s = .next t ∧ c.falls s1 t ∧ c.rest t [] [] [] = c.rest s1 [] [] []
    let holds (i : Instr) (w : Wait) : Prop :=
      ∃ t, exec i s = .next t ∧ c.waits s1 t w ∧ c.rest t [] [] [] looseRun = c.rest s1 [] [] [] looseRun
    (s.acting (.waitcReg a p) = some (c, s1) →
      (c.th.counter (pathCode p) ≤ (c.s a).toNat → goesOn (.waitcReg a p)) ∧
      ((c.s a).toNat < c.th.counter (pathCode p) → holds (.waitcReg a p) (.counter (pathCode p) (c.s a).toNat))) ∧
    (s.acting (.waitcImm b p) = some (c, s1) →
      (c.th.counter (pathCode p) ≤ b.toNat → goesOn (.waitcImm b p)) ∧
      (b.toNat < c.th.counter (pathCode p) → holds (.waitcImm b p) (.counter (pathCode p) b.toNat))) ∧
    (s.acting (.waitb a) = some (c, s1) →
      let n := (c.s a).toNat % 2 ^ 32
      ((c.core.lastBatch.toNat + 2 ^ 32 - n) % 2 ^ 32 < 2 ^ 31 →
        ∃ t, exec (.waitb a) s = .next t ∧ c.falls s1 t ∧ c.acquires t ∧ c.rest t [] [] [] looseEngines = c.rest s1 [] [] [] looseEngines) ∧
      (2 ^ 31 ≤ (c.core.lastBatch.toNat + 2 ^ 32 - n) % 2 ^ 32 → holds (.waitb a) (.batch n))) ∧
    (s.acting (.tbwait d a b) = some (c, s1) → (c.s a).toNat % 16 = 0 → (c.s a).toNat + 16 ≤ c.core.launch.shared →
      let bar := c.core.transBar (c.s a).toNat
      let behind := (bar.phase + 2 ^ 16 - (c.s b).toNat % 2 ^ 16) % 2 ^ 16
      let loose : Loosen := { core := fun x => looseEngines.core { x with namedBars := [], loose := [], know := [] } }
      (1 ≤ behind → behind ≤ 2 ^ 15 → c.th.inflight = [] →
        ∃ t, exec (.tbwait d a b) s = .next t ∧ c.holdsS t d.toNat (BitVec.ofNat 64 bar.lastErr) ∧ c.falls s1 t ∧ (bar.lastErr = 0 → c.acquires t) ∧
          c.rest t [] [d.toNat] [] loose = c.rest s1 [] [d.toNat] [] loose) ∧
      (behind = 0 ∨ 2 ^ 15 < behind → holds (.tbwait d a b) (.tbwait d.toNat (c.s a).toNat ((c.s b).toNat % 2 ^ 16) c.taintAny))) ∧
    (s.acting .tfence = some (c, s1) →
      let open_ : Prop := ∃ x ∈ c.th.inflight, x.done = false ∧ x.kind = .store ∧ (x.space = .tw ∨ x.space = .ta)
      let loose : Loosen := { core := fun x => { x with loose := [], know := [] }, state := fun s => { s with seq := 0 } }
      (c.a = apAgent → goesOn .tfence) ∧
      (c.a ≠ apAgent → ¬ open_ →
        ∃ t, exec .tfence s = .next t ∧ c.falls s1 t ∧ t.seq = s1.seq + 1 ∧
          (c.here t).loose = c.core.loose.map (fun l => if l.warp = some c.a ∧ l.fence = none then { l with fence := some s1.seq } else l) ∧
          (∀ w < 16, nth (nth (c.here t).know c.a []) w 0 = max (nth (nth c.core.know c.a []) w 0) (if w = c.a then s1.seq else 0)) ∧
          c.rest t [] [] [] loose = c.rest s1 [] [] [] loose) ∧
      (c.a ≠ apAgent → open_ → holds .tfence .structural)) ∧
    (s.acting (.fence d sc) = some (c, s1) → holds (.fence d sc) (.fence (fenceKind d) (fenceScope sc) none))) ∧
  (∀ (s : State) (k a : Nat) (w : SlotId) (core : Core) (kind : FenceKind) (scope : Scope) (v : List W32) (h u : Nat), s.core? k = some core →
    core.acts = true → a ≤ apAgent → (core.thread a).ahead = none → ((core.thread a).slot w).st = .waiting (.fence kind scope (some (v, h, u))) →
    ((core.thread a).slot (otherSlot w)).fenced = false →
    (∀ x ∈ (core.thread a).inflight, x.done = true ∨ x.kind = .copy ∨ (kind = .acq ∧ x.kind.returns = false)) →
    (kind ≠ .acq → 4 ≤ scope.rank → s.updatesOut k a = false) → (kind = .sc → 4 ≤ scope.rank → s.acked (dieOfCore k) v = true) →
    (kind ≠ .acq → s.farDone scope h u = true) →
    ∃ t x, exec (.fenceComplete k a) s = .next t ∧ t.core? k = some x ∧ ((x.thread a).slot w).st = .live ∧
      ((x.thread a).slot w).pc = ((core.thread a).loopNext ((core.thread a).slot w).pc).1 ∧ (x.thread a).apart = (core.thread a).apart ∧
      (x.l1 = if kind ≠ .rel ∧ 2 ≤ scope.rank then [] else core.l1) ∧ t.mem = s.mem ∧ ∀ y, y ≠ a → x.thread y = core.thread y)

/-- R94: an instruction whose checks hold and whose guard passes no lane only goes on, in a warp and in the access processor. -/
def Obligations.GuardsThatPassNothingOnlyGoOn : Prop :=
  ∀ (i : Instr) (s s1 : State) (c : Ctx), s.issuing i = some (c, s1) → (∀ w, i ≠ .emulatedMajor w) → c.form.reject c.ap c.th.window c.iss = none → ownCheck i c s1 = none →
    (c.th.wctl.getLsbD 0 && c.guardEarly s1.now) = false → c.pass = 0#32 →
    ∃ t, exec i s = .next t ∧ c.falls s1 t ∧ c.rest t [] [] [] = c.rest s1 [] [] []

/-- R104, R93, R51, R68, R132: in a warp that may take a trap, an instruction that fails a check of its form or of its own raises
illegal-instruction with the DETAIL of the first check that fails; one that reads its guard or a source too soon raises short-stall, which can be
resumed, with the slot's mask or the passing lanes; one that reads poison raises poison-consumed with the lanes that do, and is reported. -/
def Obligations.FailedChecksEnterTheHandler : Prop :=
  ∀ (i : Instr) (s s1 : State) (c : Ctx), s.issuing i = some (c, s1) → (∀ w, i ≠ .emulatedMajor w) → c.mayTrap →
    let early (l : List RegRef) : Prop := ∃ r ∈ l, c.th.early s1.now r = true
    let fine : Prop := c.form.reject c.ap c.th.window c.iss = none ∧ ownCheck i c s1 = none ∧ c.guardEarly s1.now = false
    (∀ e, c.form.reject c.ap c.th.window c.iss = some e →
      ∃ t, exec i s = .next t ∧ c.entersHandler s1 t c.core.launch.trapEntry 4#8 e false c.pass) ∧
    (∀ e, c.form.reject c.ap c.th.window c.iss = none → c.guardEarly s1.now = false → ownCheck i c s1 = some e →
      ∃ t, exec i s = .next t ∧ c.entersHandler s1 t c.core.launch.trapEntry 4#8 e false c.pass) ∧
    (c.form.reject c.ap c.th.window c.iss = none → ownCheck i { c with pass := 0#32 } s1 = none → c.th.wctl.getLsbD 0 = true →
      c.guardEarly s1.now = true → ∃ t, exec i s = .next t ∧ c.entersHandler s1 t c.core.launch.trapEntry 6#8 0#8 true c.mask) ∧
    (fine → c.th.wctl.getLsbD 0 = true → c.pass ≠ 0#32 → early (c.form.readRefs 7#4) →
      ∃ t, exec i s = .next t ∧ c.entersHandler s1 t c.core.launch.trapEntry 6#8 0#8 true c.pass) ∧
    (fine → ¬ early (c.form.readRefs 7#4) → c.pass ≠ 0#32 → c.poisoned ≠ 0#32 →
      ∃ t r, exec i s = .next t ∧ (t.die (dieOfCore c.k)).errlog.getLast? = some r ∧ r.code = 0x0A#8 ∧ r.cls = 2#2 ∧ r.addr = c.iss.pc ∧
        r.core = BitVec.ofNat 8 (coreNum c.k) ∧ r.agent = BitVec.ofNat 8 c.a ∧
        c.lands s1 t (((c.core.launch.code + c.core.launch.trapEntry.setWidth 64) &&& 0xFFFFFFFFFFFFFFF0#64) + 4#64) ∧
        (c.my t).trapCause.toNat % 65536 = 0x0A ∧ (c.my t).trapPc = c.iss.pc ∧ (c.my t).trapMask = c.poisoned ∧
        (c.my t).handler = some c.iss.slot ∧ (c.my t).v = (c.my s1).v ∧ (c.my t).s = (c.my s1).s ∧ (c.my t).p = (c.my s1).p)

/-- R386, R391 to R393: a trap that its warp cannot take kills the block: 0x33 where the grid has no handler, 0x34 in a handler, 0x35 in
the access processor, with the trap's code as the DETAIL; the kill is logged and counted and gives the invocation its status, and no other block is
touched. A fragment-table-full trap without a handler writes the trap registers and parks its warp, and a trap of a squashed block only stops it. -/
def Obligations.TrapsThatCannotBeTakenKillTheBlock : Prop :=
  ∀ (s : State) (k a : Nat) (w : SlotId) (t : TrapInfo) (core : Core), s.core? k = some core → core.phase = .running → a ≤ apAgent →
    k / 128 < 12 → (core.thread a).ahead = none → core.launch.redundant = false →
    let u := s.takeTrap k a w t
    let kills (code : W8) : Prop :=
      (∃ x, u.core? k = some x ∧ x.phase = .killed ∧ x.claims = [] ∧ x.thr = core.thr ∧ (∀ p ∈ x.ports, p.run = none) ∧
        (∀ m ∈ x.mx, m.st ≠ .queued) ∧ (∀ y ∈ x.copies, y.st ≠ .waiting) ∧ x.sh = core.sh) ∧
      (∃ r, (u.die (k / 128)).errlog.getLast? = some r ∧ r.code = code ∧ r.detail = t.code ∧ r.core = BitVec.ofNat 8 (k % 128) ∧
        r.agent = BitVec.ofNat 8 a ∧ r.vid = BitVec.ofNat 8 core.vid ∧ r.addr = t.pc) ∧
      (u.die (k / 128)).kills = (if (s.die (k / 128)).freeze then (s.die (k / 128)).kills else ((s.die (k / 128)).kills + 1) % 2 ^ 32) ∧
      (∀ q inv, s.invs.find core.queue = some inv → u.invs.find core.queue = some q → q.status = if inv.status = 0 then 6 else inv.status) ∧
      (∀ j, j ≠ k → u.core? j = s.core? j)
    (core.squashed = true → ∃ x, u.core? k = some x ∧ { x with ports := core.ports } = { core with phase := .stopping } ∧
      u.dies = s.dies) ∧
    (core.squashed = false →
      (a = apAgent → kills 0x35#8) ∧
      (a < apAgent → (core.thread a).handler ≠ none → kills 0x34#8) ∧
      (a < apAgent → (core.thread a).handler = none → core.launch.trapEntry = 0xFFFFFFFF#32 → t.code ≠ 0x11#8 → kills 0x33#8) ∧
      (a < apAgent → (core.thread a).handler = none → core.launch.trapEntry = 0xFFFFFFFF#32 → t.code = 0x11#8 →
        let th := u.thread k a
        let loose (x : Thread) : Thread := { x.apart with trapCause := 0#32, trapPc := 0#64, trapMask := 0#32 }
        th.parked = true ∧ th.trapCause = BitVec.ofNat 32 (t.code.toNat + 256 * t.detail.toNat + 65536 * t.resume.toNat + (if w = .b then 262144 else 0)) ∧
          th.trapPc = t.pc ∧ th.trapMask = t.mask ∧ th.slotA = (core.thread a).slotA ∧ th.slotB = (core.thread a).slotB ∧ th.handler = none ∧
          loose th = loose (core.thread a) ∧ (∀ j, j ≠ k → u.core? j = s.core? j) ∧ (∀ d, { u.die d with cores := [] } = { s.die d with cores := [] }) ∧ u.mem = s.mem ∧
          ((s.die (k / 128)).freeze = false → u.counterOf (k / 128) (.wTrap (k % 128)) = (s.counterOf (k / 128) (.wTrap (k % 128)) + 1) % 2 ^ 32)))

/-- R185 to R189, R193, R194, R196, R197, R199, R207, R257, R259, R262 with R42: an access whose own effect happens first meets its checks: a
redundant block's returning global atomic is refused, a full counter holds the slot, then every lane's alignment and allocation are checked; one
of a core-local space that passes them becomes an outstanding access with one element for each lane (two halves of a 128-bit one), and no earlier access
writes its registers any more. -/
def Obligations.AccessesAreCheckedAndLocalOnesAreIssued : Prop :=
  ∀ (i : Instr) (s s1 : State) (c : Ctx) (q : Asked), s.acting i = some (c, s1) → ownCheck i c s1 = none → c.asked i s1 = some q →
    let room : Prop := ¬ c.refusedAtomic q ∧ c.th.counter q.path < 63
    (c.refusedAtomic q → exec i s = .next (c.trapWith 0x0E#8 0#8 c.pass s1)) ∧
    (¬ c.refusedAtomic q → 63 ≤ c.th.counter q.path → ∃ t, exec i s = .next t ∧ c.waits s1 t .structural ∧ c.rest t [] [] [] = c.rest s1 [] [] []) ∧
    (room → q.crooked ≠ [] → exec i s = .next (c.trapWith 8#8 0#8 (c.named q q.crooked) s1)) ∧
    (room → q.crooked = [] → c.beyond q ≠ [] → exec i s = .next (c.trapWith 8#8 1#8 (c.named q (c.beyond q)) s1)) ∧
    (room → q.crooked = [] → c.beyond q = [] → q.space ≠ .global →
      let n := (c.my s1).inflight.length
      let names (f : RegRef → Option Nat) : List Nat := q.dests.filterMap fun d => f d.1
      let vs := names fun r => match r with | .v n => some n | _ => none
      let ss := names fun r => match r with | .s n => some n | _ => none
      let ps := names fun r => match r with | .p n => some n | _ => none
      ∃ t x, exec i s = .next t ∧ (c.my t).inflight.length = n + 1 ∧ (c.my t).inflight.getLast? = some x ∧ c.isAccess q s1.seq x ∧
        x.reqs = [] ∧ x.elems.length = q.pieces * q.lanes.length ∧
        (∀ l ∈ q.lanes, ∀ h < q.pieces, ∃ e ∈ x.elems, q.elemAt l h e ∧ e.va = (q.addr l).toNat + 8 * h) ∧
        (∀ d ∈ q.dests, ∀ y ∈ (c.my t).inflight.take n, ∀ z ∈ y.dests, z.1 = d.1 → z.2 &&& d.2 = 0#32) ∧
        (c.my t).v = (c.my s1).v ∧ (c.my t).s = (c.my s1).s ∧ (c.my t).p = (c.my s1).p ∧ t.seq = s1.seq + 1 ∧ c.falls s1 t ∧
        c.rest t vs ss ps (looseAccess n) = c.rest s1 vs ss ps (looseAccess n))

/-- R187, R189, R194, R282, R310, R314, R386, R388, R394: a global access that passes its checks translates its lanes. Where every page is resident it
becomes outstanding with an element at each lane's physical address; a fatal address is reported and the access never completes; a table still
to be read holds the slot; a write from a non-zero version to a page that is not of its domain is refused; lanes whose page is absent
leave as a fragment of that page (under `.nf` they are left out; the access processor waits), and the others go on. In a block that has heard that its
version is broke a fatal address or an absent page stops the block instead. -/
def Obligations.GlobalAccessesTranslateTheirLanes : Prop :=
  ∀ (i : Instr) (s s1 : State) (c : Ctx) (q : Asked), s.acting i = some (c, s1) → ownCheck i c s1 = none → c.asked i s1 = some q →
    ¬ c.refusedAtomic q → c.th.counter q.path < 63 → q.crooked = [] → q.space = .global →
    let (s2, f) := s1.translateAll c.k c.core.launch.asid (if q.kind.writes then .write else .read) q.wants
    let n := (c.my s2).inflight.length
    let gone (l : Nat) : Bool := f.absent.any fun p => decide (p.1 = l)
    let refused (l : Nat) : Prop := q.kind.writes = true ∧ c.core.vid ≠ 0 ∧ ∃ e, f.entry l = some e ∧ ¬ (e.ver = true ∧ e.domain = c.core.launch.domain)
    let placed (x : Access) (l : Nat) : Prop := ∀ h < q.pieces, ∃ r ∈ x.reqs, ∃ el ∈ r.elems, ∃ e, f.entry l = some e ∧ q.elemAt l h el ∧
      el.va = vaNat (q.addr l) + 8 * h ∧ r.line * 128 + el.byte = e.phys (vaNat (q.addr l)) + 8 * h ∧ r.die = c.k / 128 ∧ r.vid = c.core.vid ∧ r.domain = c.core.launch.domain ∧
      (r.versioned = true ↔ e.ver = true ∧ e.domain = c.core.launch.domain)
    let kept (t : State) : Prop := (c.my t).v = (c.my s2).v ∧ (c.my t).s = (c.my s2).s ∧ (c.my t).p = (c.my s2).p ∧ t.mem = s2.mem ∧
      (∀ d < 12, (t.die d).slices = (s2.die d).slices) ∧ ∀ j, j ≠ c.k → t.core? j = s2.core? j
    let issued (t : State) (x : Access) (on : Nat → Bool) : Prop :=
      (c.my t).inflight.length = n + 1 ∧ (c.my t).inflight.getLast? = some x ∧ x.tag = s2.seq ∧ x.kind = q.kind ∧ x.path = q.path ∧
        x.mode = q.mode ∧ x.size = q.size ∧ x.scalar = q.once ∧ x.stuck = false ∧ x.done = false ∧ x.elems = [] ∧ x.pc = c.iss.pc ∧
        (∀ l ∈ q.lanes, on l = true → placed x l) ∧ (∀ r ∈ x.reqs, ∀ e ∈ r.elems, e.lane ∈ q.lanes ∧ on e.lane = true)
    let stops : Prop := ∃ t, exec i s = .next t ∧ (c.here t).phase = .stopping ∧ (c.my t).inflight = (c.my s2).inflight ∧ kept t
    (f.fatal.isSome = true → c.core.squashed = true → stops) ∧
    (∀ d va, f.fatal = some (d, va) → c.core.squashed = false →
      ∃ t x, exec i s = .next t ∧ (c.my t).inflight.getLast? = some x ∧ x.stuck = true ∧ x.done = false ∧ x.path = q.path ∧ x.dests = [] ∧
        c.falls s2 t ∧ kept t ∧
        ∃ r, t.reports = s2.reports ++ [(c.core.grid, r)] ∧ r.code = 0x40#8 ∧ r.detail = d ∧ r.addr = va ∧ r.pc = c.iss.pc ∧ r.die = c.k / 128 ∧
          r.core = BitVec.ofNat 8 (c.k % 128) ∧ r.agent = BitVec.ofNat 8 c.a) ∧
    (f.fatal = none → f.pending ≠ [] → ∃ t, exec i s = .next t ∧ c.waits s2 t .structural ∧ c.rest t [] [] [] = c.rest s2 [] [] []) ∧
    (f.fatal = none → f.pending = [] → f.absent = [] → (∀ l ∈ q.lanes, ¬ refused l) →
      ∃ t x, exec i s = .next t ∧ issued t x (fun _ => true) ∧ c.isAccess q s2.seq x ∧ x.absent = 0#32 ∧ c.falls s2 t ∧ kept t) ∧
    (f.fatal = none → f.pending = [] → f.absent = [] → (∃ l ∈ q.lanes, refused l) →
      ∃ m, exec i s = .next (c.trapWith 0x0B#8 0#8 m s2) ∧ (q.once = true → m = c.pass) ∧
        (q.once = false → ∀ l ∈ q.lanes, bit m l = true ↔ refused l)) ∧
    (f.fatal = none → f.pending = [] → f.absent ≠ [] → q.mode = .nf →
      ∃ t x, exec i s = .next t ∧ issued t x (fun l => !gone l) ∧ x.dests = q.dests ∧ x.lanes = c.pass ∧ (∀ l < 32, bit x.absent l = gone l) ∧
        c.falls s2 t ∧ kept t) ∧
    (∀ p rest, f.fatal = none → f.pending = [] → f.absent = p :: rest → q.mode ≠ .nf →
      let key := BitVec.ofNat 64 (c.core.launch.asid * 2 ^ 40 + p.2)
      let asked (t : State) : Prop := ∀ y ∈ f.absent, ∃ r ∈ (t.die (c.k / 128)).pageReqs, r.asid = c.core.launch.asid ∧
        (r.page = y.2 ∨ y.2 / 32 ∈ f.bigs ∧ r.page / 32 = y.2 / 32)
      let byFragment (t : State) (e : Nat) : Prop := ∀ r ∈ (t.die (c.k / 128)).pageReqs, r ∈ (s2.die (c.k / 128)).pageReqs ∨ r.frag = some (c.k, e)
      (c.core.squashed = true → stops) ∧
      (c.ap = true → c.core.squashed = false → c.k / 128 < 12 → ∃ t, exec i s = .next t ∧ c.waits s2 t (.page c.core.launch.asid p.2) ∧ asked t ∧ (c.my t).inflight = (c.my s2).inflight) ∧
      (c.ap = false → c.core.squashed = false → (c.my s2).handler = none → (∀ l ∈ q.lanes, ¬ refused l) → c.k / 128 < 12 →
        ∀ e, e < c.core.frags.length → (nth c.core.frags e Fragment.free).valid = false →
          (∀ g < e, (nth c.core.frags g Fragment.free).valid = true) →
          let left : W32 := if q.once then c.pass else maskOf gone
          ∃ t, exec i s = .next t ∧ asked t ∧ byFragment t e ∧
            (c.here t).frags[e]? = some { valid := true, ready := false, warp := c.a, cause := 0x20#8, pc := c.iss.pc, ra := ((c.my s2).slot c.iss.slot).ra, mask := left, key := key } ∧
            (∀ g, g ≠ e → (nth c.core.frags g Fragment.free).ready = false → (c.here t).frags[g]? = c.core.frags[g]?) ∧
            ((q.once = true ∨ c.pass &&& ~~~left = 0#32) → (c.my t).inflight = (c.my s2).inflight) ∧
            (q.once = false → c.pass &&& ~~~left ≠ 0#32 →
              ∃ x, issued t x (fun l => !gone l) ∧ x.lanes = c.pass &&& ~~~left ∧ x.dests = q.dests.map (fun d => (d.1, d.2 &&& ~~~left)) ∧
                (c.my t).v = (c.my s2).v ∧ (c.my t).s = (c.my s2).s ∧ (c.my t).p = (c.my s2).p) ∧
            (((c.my s2).slot c.iss.slot).mask &&& ~~~left ≠ 0#32 →
              ((c.my t).slot c.iss.slot).mask = ((c.my s2).slot c.iss.slot).mask &&& ~~~left ∧ ((c.my t).slot c.iss.slot).st = .live ∧
                ((c.my t).slot c.iss.slot).pc = ((c.my s2).loopNext c.iss.tpc).1 ∧ (c.my t).loops = ((c.my s2).loopNext c.iss.tpc).2)))

/-- R207, R208, R256 to R258, R260: `FEMARK` and `FEPOLL` check their address and become outstanding accesses to the lines named; `KVMAP` and
`KVAPPEND` refuse a lane out of range; `KVAPPEND` gives each lane the block that its entry maps, maps one popped from the free list where there is
none, and parks the lanes where the list is empty. -/
def Obligations.LineAndAppendInstructionsIssue : Prop :=
  (∀ (d a b : BitVec 6) (s s1 : State) (c : Ctx),
    let x := (c.s a).toNat
    let n := (c.s b).toNat % 2 ^ 12
    let m := (c.my s1).inflight.length
    let last (t : State) (y : Access) : Prop := (c.my t).inflight.length = m + 1 ∧ (c.my t).inflight.getLast? = some y ∧ y.tag = s1.seq ∧ y.path = .lo ∧
      y.space = .sh ∧ y.done = false ∧ y.stuck = false ∧ y.reqs = []
    (s.acting (.femark a b) = some (c, s1) → c.th.counter .lo < 63 →
      (x % 128 ≠ 0 → exec (.femark a b) s = .next (c.trapWith 8#8 0#8 c.pass s1)) ∧
      (x % 128 = 0 → c.core.launch.shared < x + 128 * max 1 n → exec (.femark a b) s = .next (c.trapWith 8#8 1#8 c.pass s1)) ∧
      (x % 128 = 0 → x + 128 * max 1 n ≤ c.core.launch.shared →
        ∃ t y, exec (.femark a b) s = .next t ∧ last t y ∧ y.kind = .femark ∧ y.elems.map (fun e => e.va) = (List.range n).map (fun j => x + 128 * j) ∧
          c.falls s1 t ∧ c.rest t [] [] [] (looseAccess m) = c.rest s1 [] [] [] (looseAccess m))) ∧
    (s.acting (.fepoll d a) = some (c, s1) → c.th.counter .lo < 63 →
      (x % 128 ≠ 0 → exec (.fepoll d a) s = .next (c.trapWith 8#8 0#8 c.pass s1)) ∧
      (x % 128 = 0 → c.core.launch.shared < x + 128 → exec (.fepoll d a) s = .next (c.trapWith 8#8 1#8 c.pass s1)) ∧
      (x % 128 = 0 → x + 128 ≤ c.core.launch.shared →
        ∃ t y, exec (.fepoll d a) s = .next t ∧ last t y ∧ y.kind = .fepoll ∧ y.dests = [(.p d.toNat, if c.ap then allLanes else c.pass)] ∧
          (∀ l < 32, (if c.ap then l = 0 else bit c.pass l = true) → x + 128 * (l + 1) ≤ c.core.launch.shared →
            ∃ e ∈ y.elems, e.lane = l ∧ e.va = x + 128 * l) ∧
          c.falls s1 t ∧ (c.my t).p = (c.my s1).p ∧
          c.rest t [] [] [d.toNat] (looseAccess m) = c.rest s1 [] [] [d.toNat] (looseAccess m)))) ∧
  (∀ (d a b : BitVec 6) (s s1 : State) (c : Ctx) (p : Pool),
    let n := (c.s b).toNat
    let inRange (l : Nat) : Bool := decide ((c.v a l).toNat < p.nseq) && decide ((c.th.lane (a.toNat + 1) l).toNat / 2 ^ p.bshift < p.maxblk)
    let entry (l : Nat) : W64 :=
      BitVec.ofNat 64 (p.tbase + 4 * ((c.v a l).toNat * p.maxblk + (c.th.lane (a.toNat + 1) l).toNat / 2 ^ p.bshift))
    let lanes := lanesOf c.pass
    s1.pools.find n = some p → p.enable = true → n < 256 → inSpill (p.slot p.flhead) = false →
    (s.acting (.kvmap d a b) = some (c, s1) → (∃ l ∈ lanes, ¬ ((c.v d l).toNat < 2 ^ 24 ∧ (c.v d l).toNat < p.nblk ∧ inRange l = true)) →
      exec (.kvmap d a b) s = .next (c.trapWith 8#8 3#8 (maskOf fun l => bit c.pass l &&
        !(decide ((c.v d l).toNat < 2 ^ 24) && decide ((c.v d l).toNat < p.nblk) && inRange l)) s1)) ∧
    (s.acting (.kvappend d a b) = some (c, s1) →
      (c.core.launch.redundant = true → exec (.kvappend d a b) s = .next (c.trapWith 0x0E#8 0#8 c.pass s1)) ∧
      (c.core.launch.redundant = false → 63 ≤ c.th.counter .gl → ∃ t, exec (.kvappend d a b) s = .next t ∧ c.waits s1 t .structural) ∧
      (c.core.launch.redundant = false → c.th.counter .gl < 63 → (∃ l ∈ lanes, inRange l = false) →
        exec (.kvappend d a b) s = .next (c.trapWith 8#8 3#8 (maskOf fun l => bit c.pass l && !inRange l) s1)) ∧
      (c.core.launch.redundant = false → c.th.counter .gl < 63 → (∀ l ∈ lanes, inRange l = true) →
        let (s2, f) := s1.translateAll c.k c.core.launch.asid .write (lanes.map fun l => { lane := l, va := entry l, nib := 0, op := .kv 0#32 })
        let vid := c.core.vid
        let dom := c.core.launch.domain
        let own (e : TlbEntry) : Bool := e.ver && decide (e.domain = dom)
        f.fatal = none → f.pending = [] → f.absent = [] → (∀ l ∈ lanes, ∀ e, f.entry l = some e → vid = 0 ∨ own e = true) →
        (∀ l ∈ lanes, ∀ e, f.entry l = some e →
          let line := e.phys (vaNat (entry l)) / 128
          homed (line * 128) ∧ s2.instantReady (c.k / 128) (homeDie (line * 128)) = true ∧ s2.viewReady (c.k / 128) (line * 128) = true ∧ s2.popReady n = true ∧
            ∀ x ∈ (c.my s2).inflight, ∀ r ∈ x.reqs, r.line = line → r.st ≠ .pending ∧ r.st ≠ .sent) →
        let at_ (e : TlbEntry) (l : Nat) : Nat := e.phys (vaNat (entry l))
        let block (t : State) (e : TlbEntry) (l : Nat) : Nat := bytesAt (t.seenByte dom vid (own e)) (at_ e l) 3
        let outstanding (t : State) (x : Access) : Prop := (c.my t).inflight.length = (c.my s2).inflight.length + 1 ∧ (c.my t).inflight.getLast? = some x ∧
          x.kind = .kvappend ∧ x.path = .gl ∧ x.dests = [(.v d.toNat, c.pass)] ∧ x.done = false ∧ x.stuck = false
        ((∀ l ∈ lanes, ∀ e, f.entry l = some e → block s2 e l ≠ 0) →
          ∃ t x, exec (.kvappend d a b) s = .next t ∧ c.falls s2 t ∧ outstanding t x ∧ t.pools = s2.pools ∧
            ∀ l ∈ lanes, ∀ e, f.entry l = some e → ∃ r ∈ x.reqs, ∃ y ∈ r.elems, y.lane = l ∧ y.got.toNat = block s2 e l) ∧
        (∀ l0 e0, l0 ∈ lanes → (∀ l ∈ lanes, entry l = entry l0) → f.entry l0 = some e0 → block s2 e0 l0 = 0 →
          (∀ s3, s2.popFor c.core n = (s3, 0) → (c.my s2).handler = none → c.core.squashed = false →
            ∀ g, g < c.core.frags.length → (nth c.core.frags g Fragment.free).valid = false →
              (∀ h < g, (nth c.core.frags h Fragment.free).valid = true) →
              ∃ t, exec (.kvappend d a b) s = .next t ∧ (c.my t).inflight = (c.my s2).inflight ∧
                (c.here t).frags[g]? = some { valid := true, ready := false, warp := c.a, cause := 0x21#8, pc := c.iss.pc, ra := ((c.my s2).slot c.iss.slot).ra, mask := c.pass, key := BitVec.ofNat 64 n }) ∧
          (∀ s3 k, s2.popFor c.core n = (s3, k) → k ≠ 0 → k < 2 ^ 24 → s2.roomAt (at_ e0 l0) 8 →
            ((s2.slice (homeDie (at_ e0 l0)) (sliceOf (at_ e0 l0))).copies (setOf (at_ e0 l0)) (at_ e0 l0 / 128)).length < Config.copiesPerLine →
            (vid = 0 ∨ own e0 = false ∨ (s2.sliceEntry (homeDie (at_ e0 l0)) (sliceOf (at_ e0 l0)) dom vid).st = .live) →
            ∃ t x, exec (.kvappend d a b) s = .next t ∧ c.falls s2 t ∧ outstanding t x ∧ t.pools = s3.pools ∧
              (∀ l ∈ lanes, ∃ r ∈ x.reqs, ∃ y ∈ r.elems, y.lane = l ∧ y.got.toNat = k) ∧
              bytesAt (t.seenByte dom vid (own e0)) (at_ e0 l0) 4 = vid * 2 ^ 24 + k)))))

/-- R96 to R102: decoding and encoding agree for the packet words. A well-formed instruction that a slot may hold after its prefixes is what its word
decodes to, with every operand at every value; and a word that decodes after given prefixes is the word of the well-formed instruction it decodes to. -/
def Obligations.PacketWordsRoundTrip : Prop :=
  (∀ (xs : List Ximm) (i : Instr) (w : W32), i.wf = true → isEpilogue i = false → chosenBy i xs = true → encode i = some w → decode xs w = some i) ∧
    ∀ (xs : List Ximm) (i : Instr) (w : W32), decode xs w = some i → i.wf = true ∧ isEpilogue i = false ∧ chosenBy i xs = true ∧ encode i = some w

/-- R238: decoding and encoding agree for the words of epilogue programs, in both directions. -/
def Obligations.EpilogueWordsRoundTrip : Prop :=
  (∀ (i : Instr) (w : W32), i.wf = true → isEpilogue i = true → encode i = some w → decodeEpi w = some i) ∧
    ∀ (i : Instr) (w : W32), decodeEpi w = some i → i.wf = true ∧ isEpilogue i = true ∧ encode i = some w

/-- R95 to R101, R142, R197, R209: some words written out from their encodings decode to the instructions that they stand for, alone and as a table row's
bits; a reserved major and a word with a bit of an unused field set decode to nothing. -/
def Obligations.WordsDecodeToTheirInstructions : Prop :=
  decode [] (0x00#6 ++ 0#18 ++ 0x00#8) = some .nop ∧
  decode [] (0x03#6 ++ 5#6 ++ 6#6 ++ 7#6 ++ 0x00#8) = some (.sadd 5#6 6#6 7#6 0#1) ∧
  decode [] (0x04#6 ++ 1#6 ++ 2#6 ++ 0x3FFF#14) = some (.saddi 1#6 2#6 0x3FFF#14) ∧
  decode [] (0x07#6 ++ 63#6 ++ 0#6 ++ 1#6 ++ 0x02#8) = some (.vaddc 63#6 0#6 1#6) ∧
  decode [] (0x0D#6 ++ 4#6 ++ 8#6 ++ 12#6 ++ 0x0#4 ++ 1#2 ++ 2#2) = some (.ffma 4#6 8#6 12#6 1#2 2#2) ∧
  decode [] (0x12#6 ++ 3#6 ++ 4#6 ++ 0x2000#14) = some (.ld 3#6 4#6 0x2000#14) ∧
  decode [0x0000084#26] (0x12#6 ++ 3#6 ++ 4#6 ++ 0x2000#14) = some (.ldc 3#6 4#6 0x2000#14) ∧
  decode [] 0x60218300#32 = some (.atom 2#6 6#6 3#6 0#4) ∧
  decode [] 0x60218337#32 = some (.red 2#6 6#6 3#6 7#4) ∧
  decode [] (0x1B#6 ++ 0#6 ++ 0#12 ++ 0x4#4 ++ 2#4) = some (.fence 0#6 2#4) ∧
  decode [] (0x3F#6 ++ 0x1234567#26) = some (.ximm 0x1234567#26) ∧
  decode [] (0x25#6 ++ 0#26) = none ∧
  decode [] (0x00#6 ++ 1#18 ++ 0x00#8) = none ∧
  decodeEpi (0x03#5 ++ 1#4 ++ 2#4 ++ 3#4 ++ 0#15) = some (.efma 1#4 2#4 3#4) ∧
  decodeTableWord 32 0x60218300 = some (.atom 2#6 6#6 3#6 0#4)

/-- R445, R447, R448, R296, R330: what cold reset leaves: the mask ROM at its first step, no block, grid, queue, version, page table, message or record, every
counter, clock and memory byte at zero, and every felt module in service at 32 GT/s and 64 lanes. -/
def Obligations.ResetLeavesAnEmptyPart : Prop :=
  let s := State.reset
  s.boot = .step 1 ∧ s.cores = [] ∧ s.grids = [] ∧ s.invs = [] ∧ s.queues = [] ∧ s.domains = [] ∧ s.pools = [] ∧ s.flits = [] ∧ s.halts = [] ∧
    s.stopped = false ∧ s.mem.wf = true ∧ (∀ x, s.committedByte x = 0#8) ∧ s.poison = [] ∧ s.now = s.resetAt ∧
    (∀ d < 12, (∀ e < 12, nth (s.die d).clock e 1#32 = 0#32) ∧ (s.die d).errlog = [] ∧ (s.die d).inbox = [] ∧ (s.die d).kills = 0 ∧ (s.die d).halts = 0 ∧
      (s.die d).logEntries = [] ∧ (s.die d).pageReqs = [] ∧ ∀ k, s.slice d k = Slice.empty) ∧
    (∀ v, v ≠ 0 → ∀ d, ((s.domain d).entry v).st = .free) ∧ (∀ d, ((s.domain d).entry 0).st = .couched) ∧
    ∀ b < 16, ∀ m < 8, (s.feltModule b m).rate = 0 ∧ (s.feltModule b m).width = 0 ∧ (s.feltModule b m).replays = 0

/-- R31, R82, R85, R96, R99, R340, R356: a step does what the plan asks for next. An event, in a device that has not stopped, is `exec` of its instruction. A
port whose run goes on with a live slot, and the access processor, fetch the packet at the slot's PC; where its layout is that of a packet, the word there with the
prefixes before it is decoded, and the step is `exec` of the instruction at that place and with that guard, after the hint that its control gives; what the step
adds is the next issue time, the hint, the run and the counters of the core, and a note of the warps that have become ready. -/
def Obligations.StepRunsTheDecodedWord : Prop :=
  (∀ (s : State) (i : Instr) (rest : List Plan), s.plan = .event i :: rest → s.stopped = false →
    step s = finishStep s (exec i { s with plan := rest })) ∧
  (∀ (s s1 : State) (k : Nat) (pc : W64) (pk : BitVec 128), s.fetch k pc = (s1, .packet pk) → pk.extractLsb' 30 2 = 0#2 →
    let m := slotWordOf pk pc
    m.word = pk.extractLsb' (32 * (pc.toNat / 4 % 4)) 32 ∧ (m.isXimm = false → m.chained = false → s.readUnit k 3 [] pc = (s1, .ready [] [m]))) ∧
  (∀ (s s2 : State) (k a : Nat) (w : SlotId) (core : Core) (xs : List SlotWord) (m : SlotWord) (i : Instr) (b : Bool) (p : Plan) (rest : List Plan),
    s.plan = p :: rest → s.stopped = false → s.core? k = some core → core.phase = .running →
    (a < 16 ∧ p = .port k (a % 4) ∧ (core.portOf a).run = some (a, w) ∨ a = apAgent ∧ w = .a ∧ p = .ap k) →
    (∀ y ≤ apAgent, ∀ z, ((core.thread y).slot z).st = .live ∨ ((core.thread y).slot z).st = .empty) → ((core.thread a).slot w).st = .live →
    s.mayIssue k a core w = true → (core.thread a).deferred = [] → (core.thread a).linkEvents = [] → (core.thread a).ahead = none →
    ((core.thread a).slot w).ra = none → core.firstIssue = none → core.claims = [] → core.reframe = [] →
    let s0 : State := { s with plan := rest }
    s0.readUnit k 3 [] ((core.thread a).slot w).pc = (s2, .ready xs [m]) →
    unitFault xs [m] (decide (a = apAgent)) (if a = apAgent then 0 else (core.portOf a).count) = none → m.badControl (decide (a = apAgent)) = none →
    (s2.core? k).any (fun c => c.loopSplit a m.pc) = false → m.isXimm = false →
    decodeRaw (xs.map fun x => x.word.extractLsb' 0 26) m.word = some (i, b) →
    let now := ((s2.core? k).getD core).apTime (((s2.core? k).getD core).issueTime s2.now a [m]) a xs [m]
    let first := match xs with | x :: _ => x.pc | [] => m.pc
    ∃ u t v, u.cur = some { core := k, agent := a, slot := w, pc := first, tpc := m.pc, xs := xs.map fun x => x.word.extractLsb' 0 26, guard := m.guard, unused := m.word ^^^ (encode i).getD m.word } ∧
      u.now = now ∧ u.mem = s2.mem ∧ u.dies = s2.dies ∧ (∀ j, j ≠ k → u.core? j = s2.core? j) ∧
      (∀ y, ({ u.thread k y with hint := .neutral } : Thread) = { s2.thread k y with hint := .neutral }) ∧
      (u.thread k a).hint = (if a = apAgent then none else m.hint).getD (s2.thread k a).hint ∧
      exec i u = .next t ∧ step s = .next v ∧ v.mem = t.mem ∧ v.cur = none ∧ v.domains = t.domains ∧ v.host = t.host ∧ v.flits = t.flits ∧
      (∀ d < 12, ({ v.die d with cores := [] } : Die) = { t.die d with cores := [] }) ∧
      ∀ j y, ({ v.thread j y with nextAt := 0, hint := .neutral, readyAt := 0 } : Thread) = { t.thread j y with nextAt := 0, hint := .neutral, readyAt := 0 })

/-- R408, R445: a fatal stop lasts. While the device has stopped and no reset or other management act comes up, every step completes and leaves it stopped: no
unit issues, no event acts, nothing is sent to the host, and memory, dies and blocks stay as they are; only the clock goes on. -/
def Obligations.AFatalStopLasts : Prop :=
  ∀ s, s.stopped = true → (∀ i, .event i ∈ s.plan → actsWhenStopped i = false) →
    ∃ t, step s = .next t ∧ t.stopped = true ∧ (∀ i, .event i ∈ t.plan → actsWhenStopped i = false) ∧ t.mem = s.mem ∧ t.dies = s.dies ∧ t.host = s.host ∧
      t.flits = s.flits ∧ t.cores.map Prod.fst = s.cores.map Prod.fst ∧ s.now ≤ t.now ∧ t.now ≤ s.now + 1 ∧
      ∀ k a, ({ t.thread k a with readyAt := 0 } : Thread) = { s.thread k a with readyAt := 0 }

/-- R42, R51, R190, R193, R196, R197, R207, R214, R267: a core-local load, `ATOMSH` or `FEPOLL` whose turn has come completes in `LOAD_DATA_RETURN`: its
registers take, lane by lane, what its elements find one after another, an atomic leaves its results in shared memory, and the counter falls; a
load of a line that is empty stays outstanding. Other agents' registers are as before, and so is where their lanes stand unless the warp's arrival at a
barrier has waited for the access. -/
def Obligations.LocalLoadsReturnWhatTheyFind : Prop :=
  ∀ (s : State) (k a i : Nat) (core : Core) (x : Access), s.core? k = some core → core.acts = true → a ≤ apAgent → i < 256 →
    (core.thread a).inflight[i]? = some x → x.done = false → x.stuck = false → x.path = .lo → x.reqs = [] →
    (core.thread a).localTurn i x = true → (core.thread a).ahead = none → (x.dests.map Prod.fst).Nodup → x.landed = [] → (∀ e ∈ x.elems, e.fits) →
    let upper (e : Elem) : Bool := decide (x.size = 4) && decide (e.off / 8 % 2 = 1)
    (x.elems.map fun e => (e.lane, upper e)).Nodup → (x.size = 4 → ∀ e ∈ x.elems, e.size = 3) →
    let ready : Prop := x.space = .sh → ∀ e ∈ x.elems, e.va / 128 ∈ core.full
    let f (l : Nat) : Nat → W8 := core.spaceByte x.space a l
    let of_ (l : Nat) : List (Nat × Elem) := ((List.range x.elems.length).zip x.elems).filter fun y => decide (y.2.lane = l)
    let found (l : Nat) : Nat := ((of_ l).map fun y =>
      2 ^ (64 * (upper y.2).toNat) * if x.kind = .load then y.2.finds (f l) y.2.va else nth (runElems (fun e => e.va) x.elems (f 0)).1 y.1 0).sum
    let marked (l : Nat) : Bool := (of_ l).any fun y => core.spaceBad x.space a l y.2.va
    let receives (th : Thread) : Prop :=
      (∀ (j n : Nat) (m : W32), x.dests[j]? = some (RegRef.v n, m) → n < (core.thread a).window → ∀ l < 32,
        th.lane n l = (if bit m l then BitVec.ofNat 32 (found l / 2 ^ (32 * j)) else (core.thread a).lane n l) ∧
        bit (th.vreg n).poison l = (if bit m l then marked l else bit ((core.thread a).vreg n).poison l) ∧
        bit (th.vreg n).taint l = (if bit m l then bit x.taint l else bit ((core.thread a).vreg n).taint l)) ∧
      (∀ (j n : Nat) (m : W32), x.dests[j]? = some (RegRef.s n, m) → bit m 0 = true →
        th.sreg n = { val := BitVec.ofNat 64 (found 0), taint := bit x.taint 0, poison := marked 0 })
    let others (t : State) (u : Core) : Prop :=
      (∀ n, (∀ m, (RegRef.v n, m) ∉ x.dests) → (u.thread a).vreg n = (core.thread a).vreg n) ∧
      (∀ n, (∀ m, (RegRef.s n, m) ∉ x.dests) → (u.thread a).sreg n = (core.thread a).sreg n) ∧
      (∀ b, b ≠ a → (core.thread b).ahead = none → (u.thread b).apart = (core.thread b).apart) ∧
      ((∀ n < 16, nth (core.bar n).lanes a 0#32 = 0#32 ∨ a ∈ (core.bar n).arrived) → ∀ b, b ≠ a → u.thread b = core.thread b) ∧
      t.mem = s.mem ∧ t.dies = s.dies ∧ ∀ j, j ≠ k → t.core? j = s.core? j
    (x.kind = .load → ready →
      ∃ t u, exec (.loadDataReturn k a i) s = .next t ∧ t.core? k = some u ∧ receives (u.thread a) ∧ u.stores = core.stores ∧
        (core.thread a).counted (u.thread a) i ∧ others t u) ∧
    (x.kind = .load → ¬ ready → exec (.loadDataReturn k a i) s = .next s) ∧
    (x.kind = .atom → x.space = .sh → core.sh.wf = true → (∀ e ∈ x.elems, e.op.writes = true) →
      (∀ b ∈ core.barsInUse, ∀ e ∈ x.elems, b + 16 ≤ e.va ∨ e.va + sizeBytes e.size ≤ b) →
      ∃ t u, exec (.loadDataReturn k a i) s = .next t ∧ t.core? k = some u ∧ receives (u.thread a) ∧
        (∀ y, u.sh.read y = (runElems (fun e => e.va) x.elems (fun z => core.sh.read z)).2 y) ∧ u.full = core.full ∧ u.tw = core.tw ∧ u.ta = core.ta ∧
        u.tc = core.tc ∧ (core.thread a).counted (u.thread a) i ∧ others t u) ∧
    (∀ n m, x.kind = .fepoll → x.dests = [(.p n, m)] → n < 7 →
      ∃ t u, exec (.loadDataReturn k a i) s = .next t ∧ t.core? k = some u ∧ u.stores = core.stores ∧ (core.thread a).counted (u.thread a) i ∧ others t u ∧
        ∀ l < 32, bit ((u.thread a).pval n) l = if bit m l then (x.elems.any fun e => decide (e.lane = if x.scalar then 0 else l) && core.full.contains (e.va / 128))
          else bit ((core.thread a).pval n) l)

/-- R190, R191, R196, R206 to R208, R265, R268, R270: a core-local store, an operation on a transaction barrier or a `FEMARK` whose turn has come
completes in `STORE_ACKNOWLEDGE`: the elements' bytes, and no others, take the stored data in lane order; a barrier's fields change as its rules say, a `TBARRIVE`'s
once the agent's earlier accesses are performed (R339), and a phase that completes ends the waits for it. -/
def Obligations.LocalStoresLeaveTheirBytes : Prop :=
  ∀ (s : State) (k a i : Nat) (core : Core) (x : Access), s.core? k = some core → core.acts = true → a ≤ apAgent → i < 256 →
    (core.thread a).inflight[i]? = some x → x.done = false → x.stuck = false → x.path = .lo → x.reqs = [] →
    (core.thread a).localTurn i x = true → (core.thread a).ahead = none → x.landed = [] → (∀ e ∈ x.elems, e.fits) →
    let others (t : State) (u : Core) : Prop := (u.thread a).v = (core.thread a).v ∧ (u.thread a).s = (core.thread a).s ∧ (u.thread a).p = (core.thread a).p ∧
      (core.thread a).counted (u.thread a) i ∧ t.mem = s.mem ∧ t.dies = s.dies ∧ ∀ j, j ≠ k → t.core? j = s.core? j
    let apart : Prop := ∀ b ∈ core.barsInUse, ∀ e ∈ x.elems, b + 16 ≤ e.va ∨ e.va + sizeBytes e.size ≤ b
    let bytes (sp : Space) (u : Core) : Prop :=
      (∀ l y, u.spaceByte sp a l y = (runElems (fun e => e.va) (if sp = .ls then x.elems.filter fun e => decide (e.lane = l) else x.elems) (core.spaceByte sp a l)).2 y) ∧
      (∀ sp', sp' ≠ sp → sp' ≠ .global → ∀ b l y, u.spaceByte sp' b l y = core.spaceByte sp' b l y) ∧
      ∀ b l y, b ≠ a → sp = .ls → u.spaceByte .ls b l y = core.spaceByte .ls b l y
    (x.kind = .store → x.space ≠ .global → (∀ e ∈ x.elems, e.lane < (core.thread a).ls.length ∧ ∃ v, e.op = .put v) →
      core.sh.wf = true → core.tw.wf = true → core.ta.wf = true → core.tc.wf = true → (∀ m ∈ (core.thread a).ls, Mem.wf m = true) → (x.space = .sh → apart) →
      ∃ t u, exec (.storeAcknowledge k a i) s = .next t ∧ t.core? k = some u ∧ bytes x.space u ∧ others t u ∧
        (∀ l, l ∈ u.full ↔ l ∈ core.full ∨ (x.mode = .full ∧ ∃ e ∈ x.elems, e.va / 128 = l)) ∧
        (x.space = .sh → ∀ z, u.spaceBad .sh a 0 (32 * z) = (core.spaceBad .sh a 0 (32 * z) &&
          !(List.range 32).all fun j => x.elems.any fun e => decide (e.va ≤ 32 * z + j) && decide (32 * z + j < e.va + sizeBytes e.size)))) ∧
    (x.kind = .femark →
      ∃ t u, exec (.storeAcknowledge k a i) s = .next t ∧ t.core? k = some u ∧ others t u ∧ u.sh = core.sh ∧
        ∀ l, l ∈ u.full ↔ l ∈ core.full ∧ ∀ e ∈ x.elems, e.va / 128 ≠ l) ∧
    (∀ e v, x.elems = [e] → e.op = .put v → core.sh.wf = true → (∀ w d y p m, ((core.thread a).slot w).st ≠ .waiting (.tbwait d y p m)) →
      let b := core.transBar e.va
      let n := v.toNat
      let sum := b.expected + n % 2 ^ 24
      let over_ (c : Nat) : Nat := if b.err = 0 then c else b.err
      let same (u : Core) : Prop := ∀ y, (y < e.va ∨ e.va + 16 ≤ y) → u.sh.read y = core.sh.read y
      (x.kind = .tbinit →
        ∃ t u, exec (.storeAcknowledge k a i) s = .next t ∧ t.core? k = some u ∧ others t u ∧ same u ∧
          u.transBar e.va = { phase := 0, pending := max 1 (n % 2 ^ 16), arrivals := max 1 (n % 2 ^ 16), lastErr := 0, arrived := 0, err := 0, expected := 0, reserved := 0 }) ∧
      (x.kind = .tbexpect → b.pending ≠ 0 →
        ∃ t u, exec (.storeAcknowledge k a i) s = .next t ∧ t.core? k = some u ∧ others t u ∧ same u ∧
          u.transBar e.va = if sum < 2 ^ 24 then { b with expected := sum } else { b with expected := 2 ^ 24 - 1, err := over_ 2 }) ∧
      (x.kind = .tbarrive → (core.thread a).performedBelow x.tag = false → exec (.storeAcknowledge k a i) s = .next s) ∧
      (x.kind = .tbarrive → (core.thread a).performedBelow x.tag = true →
        ∃ t u, exec (.storeAcknowledge k a i) s = .next t ∧ t.core? k = some u ∧ others t u ∧ same u ∧
          (1 < b.pending → u.transBar e.va = { b with pending := b.pending - 1 }) ∧
          (b.pending = 1 → b.arrived < b.expected → u.transBar e.va = { b with pending := 0 }) ∧
          (b.pending = 1 → b.expected ≤ b.arrived →
            u.transBar e.va = { b with phase := (b.phase + 1) % 2 ^ 16, lastErr := if b.expected < b.arrived then over_ 2 else b.err, err := 0, expected := 0, arrived := 0, pending := b.arrivals } ∧
            ∀ y w d taint, y ≤ apAgent → y ≠ a → d < 64 → (core.thread y).ahead = none → (core.thread y).inflight = [] →
              ((core.thread y).slot w).st = .waiting (.tbwait d e.va b.phase taint) → ((core.thread y).slot (otherSlot w)).st = .empty →
              ((u.thread y).slot w).st = .live ∧ ((u.thread y).slot w).pc = ((core.thread y).loopNext ((core.thread y).slot w).pc).1 ∧
                (u.thread y).sreg d = { val := BitVec.ofNat 64 (u.transBar e.va).lastErr, taint := taint, poison := false }) ∧
          (b.pending = 0 → b.arrived < b.expected → u.transBar e.va = { b with err := over_ 5 })))

/-- R428 to R430, R336, R341, R342, R251, R445, R446: while the part answers on PCIe, a doorbell within its ring moves TAIL and one beyond it is reported
to the owning function, one that names no queue of the function is dropped and logged; BAR4 reads committed bytes of open HBM, and writes them at die 0, which sends a write of
another die's line on as its causal message; a queue descriptor is written from the function of its queue or the physical one, keeps HEAD and TAIL and, while it stays enabled, its ring; the host raises its egress cursor; the magic value in RSTREQ begins a warm
reset; and a completion ends its write. -/
def Obligations.HostWritesTakeEffect : Prop :=
  (∀ (s : State) (fn offset size : Nat) (value : W64), s.boot = .ready → s.stopped = false →
    let q := offset / 8
    let ours : Prop := (size = 4 ∨ size = 8) ∧ 8 ∣ offset ∧ offset < 147456 ∧ (s.queue q).vf = fn ∧ fn ∉ s.frozenDoorbells
    let ahead := (BitVec.ofNat 32 value.toNat - (s.queue q).head).toNat
    let logs (t : State) (d : Nat) (cls : BitVec 2) (f : Nat) : Prop := (t.die d).errlog.getLast? =
      some { code := 0x53#8, detail := 0#8, cls := cls, fn := BitVec.ofNat 6 f, core := 0xFF#8, agent := 0x13#8, vid := 0#8, domain := 0#6, addr := BitVec.ofNat 64 offset }
    (ours → ahead ≤ 2 ^ (s.queue q).logn →
      ∃ t, exec (.doorbellWrite fn offset size value) s = .next t ∧ t.queue q = { s.queue q with tail := BitVec.ofNat 32 value.toNat } ∧
        ({ t with queues := s.queues } : State) = s ∧ ∀ j, j ≠ q → t.queue j = s.queue j) ∧
    (ours → 2 ^ (s.queue q).logn < ahead →
      ∃ t, exec (.doorbellWrite fn offset size value) s = .next t ∧ t.queues = s.queues ∧ logs t (offset / 12288) 2#2 fn ∧
        t.host.out = s.host.out ++ [.errNonFatal (fn % 64), .msix (fn % 64) 0] ∧ s.sameDie { t with host := s.host } (offset / 12288) fun d => { d with errlog := [] }) ∧
    (¬ ours → ∃ t, exec (.doorbellWrite fn offset size value) s = .next t ∧ logs t 0 0#2 fn ∧ s.sameDie t 0 fun d => { d with errlog := [] })) ∧
  (∀ (s : State) (addr len : Nat) (data : List W8), s.boot = .ready → s.stopped = false → data ≠ [] → 0 < len →
    let inside (n : Nat) : Prop := isHbm addr = true ∧ isHbm (addr + (n - 1)) = true ∧ inSpill addr = false ∧ inSpill (addr + (n - 1)) = false
    let easy (n : Nat) : Prop := n ≤ 128 ∧ addr % 128 + n ≤ 128 ∧ s.easyLine addr n
    (inside data.length → easy data.length → s.mem.wf = true → homeDie addr = 0 →
      ∃ t, exec (.hostBar4Access addr true data 0) s = .next t ∧ t.host = s.host ∧ t.cores = s.cores ∧
        ∀ x, t.committedByte x = if addr ≤ x ∧ x < addr + data.length then nth data (x - addr) 0#8 else s.committedByte x) ∧
    (inside data.length → addr % 128 + data.length ≤ 128 → homeDie addr ≠ 0 → (s.die 0).holdsBack 0 = false → (s.die 0).heldWrites = [] →
      ∃ t f m r, exec (.hostBar4Access addr true data 0) s = .next t ∧ t.flits = s.flits ++ [f] ∧ f.body = .msg m ∧ m.body = .write r ∧ m.src = 0 ∧
        m.dst = homeDie addr ∧ f.sLeaf = 101 ∧ f.cls = 7 ∧ f.vid = 0 ∧ r.line = addr / 128 ∧ r.vid = 0 ∧ r.owner = .host ∧ r.elems.length = data.length ∧
        (∀ j e, r.elems[j]? = some e → e.va = addr + j ∧ e.size = 0 ∧ e.op = .put ((nth data j 0#8).setWidth 128)) ∧ t.mem = s.mem ∧ t.host = s.host ∧ t.cores = s.cores) ∧
    (inside len → easy len → s.viewReady 0 addr = true →
      ∃ t, exec (.hostBar4Access addr false [] len) s = .next t ∧ t.cores = s.cores ∧ (∀ x, t.committedByte x = s.committedByte x) ∧
        t.host.out = s.host.out ++ [.bar4Data ((List.range len).map fun j => s.committedByte (addr + j))]) ∧
    (¬ inside data.length → ∃ t, exec (.hostBar4Access addr true data 0) s = .next t ∧ s.sameDie t 0 (fun d => { d with errlog := [] }) ∧
      (t.die 0).errlog.getLast? = some { code := 0x53#8, detail := 0#8, cls := 0#2, fn := 0#6, core := 0xFF#8, agent := 0x13#8, vid := 0#8, domain := 0#6, addr := BitVec.ofNat 64 addr }) ∧
    (¬ inside len → exec (.hostBar4Access addr false [] len) s =
      .next { s with host := { s.host with out := s.host.out ++ [.bar4Data (List.replicate len 0xFF#8)] } })) ∧
  (∀ (s : State) (i : Nat), s.stopped = false →
    ∃ t, exec (.hostMemoryCompletion i) s = .next t ∧ ({ t with host := { t.host with writes := s.host.writes } } : State) = s ∧
      ∀ j, t.host.writes[j]? = s.host.writes[if j < i then j else j + 1]?) ∧
  (∀ (s : State) (fn q : Nat) (desc : BitVec 256), s.boot = .ready → s.stopped = false → q < 18432 →
    let bits (lo n : Nat) : Nat := desc.toNat / 2 ^ lo % 2 ^ n
    let enable : Prop := bits 84 1 = 1
    let fits : Prop := 4 ≤ bits 85 5 ∧ bits 85 5 ≤ 16 ∧ (64 * 2 ^ bits 85 5) ∣ bits 0 64
    let others (t : State) : Prop := ({ t with queues := s.queues } : State) = s ∧ ∀ j, j ≠ q → t.queue j = s.queue j
    let may : Prop := fn = 0 ∨ (s.queue q).vf = fn
    (¬ may → exec (.queueDescriptorWrite ⟨fn, q⟩ desc) s = .next s) ∧
    (may → (s.queue q).enable = true → enable →
      ∃ t, exec (.queueDescriptorWrite ⟨fn, q⟩ desc) s = .next t ∧ others t ∧
        t.queue q = { s.queue q with budgetCap := bits 144 48, quantum := bits 112 32, prio := bits 97 3, draft := decide (bits 96 1 = 1) }) ∧
    (may → ¬ ((s.queue q).enable = true ∧ enable) → (enable → fits) →
      ∃ t, exec (.queueDescriptorWrite ⟨fn, q⟩ desc) s = .next t ∧ others t ∧
        t.queue q = { head := (s.queue q).head, tail := (s.queue q).tail, budgetCap := bits 144 48, quantum := bits 112 32, asid := bits 104 8, prio := bits 97 3, draft := decide (bits 96 1 = 1), vf := bits 90 6, logn := bits 85 5, enable := decide (bits 84 1 = 1), base := bits 0 64 }) ∧
    ((s.queue q).enable = false → enable → ¬ fits → exec (.queueDescriptorWrite ⟨fn, q⟩ desc) s = .next s)) ∧
  (∀ (s : State) (n : Nat) (v : W32), s.boot = .ready → s.stopped = false → n < 64 →
    ∃ t, exec (.egressHcurWrite n v) s = .next t ∧ (t.domain n).egress.hcur = v ∧
      s.sameDomain t n fun d => { d with egress := { d.egress with hcur := 0#32 } }) ∧
  (∀ (s : State) (v : W32), s.boot = .ready → s.stopped = false →
    (v ≠ 0x57525354#32 → exec (.rstreqWrite v) s = .next s) ∧
    (v = 0x57525354#32 → exec (.rstreqWrite v) s = exec .warmReset s ∧
      ∃ t, exec (.rstreqWrite v) s = .next t ∧ t.boot = .ready ∧ t.stopped = false ∧ t.cores = [] ∧ t.grids = [] ∧ t.queues = [] ∧ t.domains = [] ∧
        t.host.out = s.host.out ++ [.ready])) ∧
  (∀ (s : State) (fn offset size : Nat) (value : W64) (q : Nat) (desc : BitVec 256) (n : Nat) (v : W32), s.boot ≠ .ready ∨ s.stopped = true →
    exec (.doorbellWrite fn offset size value) s = .next s ∧ exec (.queueDescriptorWrite ⟨fn, q⟩ desc) s = .next s ∧ exec (.egressHcurWrite n v) s = .next s ∧
      exec (.rstreqWrite v) s = .next s) ∧
  (∀ (s : State) (q : Nat), s.windowRead .rstreq = 0 ∧ s.windowRead (.doorbell q) = 0 ∧ s.windowRead (.reserved q) = 0)

/-- R6, R7, R77, R251, R305, R306, R353, R354, R369, R370, R372, R378 to R381, R396, R418, R420: what firmware writes takes its value and changes
nothing else: shares, age, the egress descriptor, KV pools, the log base, dump regions, member sets, acceptance counters, counters and their freeze,
link registers and rates, the peer and address-space tables and the replay threshold. A value that the rule does not allow is ignored. -/
def Obligations.FirmwareWritesTakeEffect : Prop :=
  ∀ (s : State), s.boot = .ready → s.stopped = false →
    (∀ (d n : Nat) (v : W32), d < 12 → n < 64 → ∃ t, exec (.shareTableWrite d n v) s = .next t ∧
      (t.die d).disp.share.find n = some (BitVec.ofNat 32 (v.toNat % 2 ^ 17)) ∧ (∀ j, j ≠ n → (t.die d).disp.share.find j = (s.die d).disp.share.find j) ∧
      s.sameDie t d fun x => { x with disp := { x.disp with share := [] } }) ∧
    (∀ d v, d < 12 → (2 ^ 12 ≤ v ∧ v ≤ 2 ^ 32 → ∃ t, exec (.ageThresholdWrite d v) s = .next t ∧ (t.die d).disp.age = v ∧
        s.sameDie t d fun x => { x with disp := { x.disp with age := 0 } }) ∧
      (¬ (2 ^ 12 ≤ v ∧ v ≤ 2 ^ 32) → exec (.ageThresholdWrite d v) s = .next s)) ∧
    (∀ (n : Nat) (desc : BitVec 256), n < 64 → ∃ t, exec (.egressDescriptorWrite n desc) s = .next t ∧
      s.sameDomain t n (fun d => { d with egress := Egress.reset }) ∧
      let e := (s.domain n).egress
      let f := (t.domain n).egress
      f.hcur.toNat = fieldAt desc 24 4 ∧ f.shadow = fieldAt desc 12 8 - fieldAt desc 12 8 % 64 ∧ f.logn = fieldAt desc 8 1 % 32 ∧ f.base = fieldAt desc 0 8 - fieldAt desc 0 8 % 4096 ∧
      f.lcur = e.lcur ∧
      (if (8 ≤ f.logn ∧ f.logn ≤ 20) ∧ ¬ (8 ≤ e.logn ∧ e.logn ≤ 20) then f.r = e.lcur ∧ f.p = e.lcur ∧ f.l = e.lcur ∧ f.reservations = []
        else f.r = e.r ∧ f.p = e.p ∧ f.l = e.l ∧ f.reservations = e.reservations)) ∧
    (∀ (d n : Nat) (desc : BitVec 512), n < 256 →
      let enable : Prop := fieldAt desc 0x2E 1 % 2 = 1
      let allowed : Prop := fieldAt desc 0x2F 1 = 0 ∧ fieldAt desc 0x38 8 = 0 ∧ fieldAt desc 0x2D 1 = d ∧ d < 12 ∧ 128 ∣ fieldAt desc 0 8 ∧ 4096 ∣ fieldAt desc 8 8 ∧
        4 ∣ fieldAt desc 0x10 8 ∧ 128 ∣ fieldAt desc 0x18 4 ∧ 4 ∣ fieldAt desc 0x1C 4 ∧ fieldAt desc 0x1C 4 * 2 ^ fieldAt desc 0x2C 1 ≤ fieldAt desc 0x18 4 ∧
        2 ≤ fieldAt desc 0x20 4 ∧ fieldAt desc 0x20 4 ≤ 2 ^ 24 ∧ 1 ≤ fieldAt desc 0x24 4 ∧ 1 ≤ fieldAt desc 0x28 4 ∧ fieldAt desc 0x2C 1 ≤ 16
      let held : Prop := ∃ p, s.pools.find n = some p ∧ p.enable = true
      let writes (t : State) (fh ft : W32) : Prop := ({ t with pools := s.pools } : State) = s ∧ (∀ j, j ≠ n → t.pools.find j = s.pools.find j) ∧
        t.pools.find n = some { base := fieldAt desc 0 8, tbase := fieldAt desc 8 8, flbase := fieldAt desc 0x10 8, bbytes := fieldAt desc 0x18 4, pstride := fieldAt desc 0x1C 4, nblk := fieldAt desc 0x20 4, nseq := fieldAt desc 0x24 4, maxblk := fieldAt desc 0x28 4, bshift := fieldAt desc 0x2C 1, home := fieldAt desc 0x2D 1, enable := decide (fieldAt desc 0x2E 1 % 2 = 1), flhead := fh, fltail := ft }
      (¬ held → (enable ∧ allowed ∨ fieldAt desc 0x2E 1 % 2 = 0) →
        ∃ t, exec (.kvPoolDescriptorWrite d n desc) s = .next t ∧ writes t (BitVec.ofNat 32 (fieldAt desc 0x30 4)) (BitVec.ofNat 32 (fieldAt desc 0x34 4))) ∧
      (∀ p, s.pools.find n = some p → p.enable = true → fieldAt desc 0x2E 1 % 2 = 0 →
        ∃ t, exec (.kvPoolDescriptorWrite d n desc) s = .next t ∧ writes t p.flhead p.fltail) ∧
      (held → enable → exec (.kvPoolDescriptorWrite d n desc) s = .next s) ∧
      (enable → ¬ allowed → exec (.kvPoolDescriptorWrite d n desc) s = .next s)) ∧
    (∀ d v, d < 12 → (2 ^ 23 ∣ v → (∀ x ∈ s.pools, x.2.home = d → x.2.enable = false) →
        ∃ t, exec (.logbaseWrite d v) s = .next t ∧ (t.die d).logBase = v ∧ s.sameDie t d fun x => { x with logBase := 0 }) ∧
      (¬ 2 ^ 23 ∣ v → exec (.logbaseWrite d v) s = .next s)) ∧
    (∀ d b n, d < 12 →
      let fits : Prop := 4096 ∣ b ∧ 4096 ∣ n ∧ n ≤ 2 ^ 32 ∧ b / 2 ^ 37 = d ∧ (n ≠ 0 → b % 2 ^ 37 < 0x17C0000000 ∧ (b + (n - 1)) / 2 ^ 37 = d ∧ (b + (n - 1)) % 2 ^ 37 < 0x17C0000000)
      (fits → ∃ t, exec (.dumpRegionWrite d b n) s = .next t ∧ (t.die d).dumpBase = b ∧ (t.die d).dumpSize = n ∧ s.sameDie t d fun x => { x with dumpBase := 0, dumpSize := 0 }) ∧
      (¬ fits → exec (.dumpRegionWrite d b n) s = .next s)) ∧
    (∀ (n : Nat) (m : W32), n < 64 → (∀ x ∈ (s.domain n).table, x.1 ≠ 0 → x.2.st = .free) →
      ∃ t, exec (.membersWrite n m) s = .next t ∧ (t.domain n).members = m ∧ s.sameDomain t n fun d => { d with members := 0#32 }) ∧
    (∀ n v, n < 64 →
      (∃ t, exec (.acceptCounterWrite n .accept v) s = .next t ∧ (t.domain n).accept = BitVec.ofNat 16 v ∧ s.sameDomain t n fun d => { d with accept := 0#16 }) ∧
      (∃ t, exec (.acceptCounterWrite n .proposed v) s = .next t ∧ (t.domain n).proposed = v % 2 ^ 48 ∧ s.sameDomain t n fun d => { d with proposed := 0 }) ∧
      (∃ t, exec (.acceptCounterWrite n .accepted v) s = .next t ∧ (t.domain n).accepted = v % 2 ^ 48 ∧ s.sameDomain t n fun d => { d with accepted := 0 })) ∧
    (∀ d b, d < 12 → ∃ t, exec (.pcctlFreeze d b) s = .next t ∧ (t.die d).freeze = b ∧ s.sameDie t d fun x => { x with freeze := false }) ∧
    (∀ d, d < 12 → ∃ t, exec (.pcctlClear d) s = .next t ∧ ({ t with dies := s.dies, felts := s.felts } : State) = s ∧
      ∀ e c, t.counterOf e c = match bundleOf c with
        | some b => if (bundleDies b).1 = d ∨ (bundleDies b).2 = d then 0 else s.counterOf e c
        | none => if e = d ∧ isSelector c = false then 0 else s.counterOf e c) ∧
    (∀ d c v, d < 12 → placed c → (v ≠ 0 → exec (.counterZeroWrite d c v) s = .next s) ∧
      (v = 0 → ∃ t, exec (.counterZeroWrite d c v) s = .next t ∧ ({ t with dies := s.dies, felts := s.felts } : State) = s ∧
        ∀ e c', t.counterOf e c' = if c' = c ∧ isSelector c = false ∧ (e = d ∨ bundleOf c ≠ none) then 0 else s.counterOf e c')) ∧
    (∀ b m v, b < 16 → m < 8 →
      let free : Prop := (s.bundle b).draining = true ∧ s.bundleEmpty b = true
      let x := s.feltModule b m
      (¬ free → ∀ w, exec (.linkRegisterWrite b m w v) s = .next s) ∧
      (free →
        (v ≤ 4 → ∃ t, exec (.linkRegisterWrite b m .rate v) s = .next t ∧ (t.feltModule b m) = { x with rate := v } ∧ s.sameModule t b m fun _ => x) ∧
        (∃ t, exec (.linkRegisterWrite b m .width v) s = .next t ∧ (t.feltModule b m) = { x with width := v % 4 } ∧ s.sameModule t b m fun _ => x) ∧
        (∃ t, exec (.linkRegisterWrite b m .replay v) s = .next t ∧ (t.feltModule b m) = { x with replays := v % 2 ^ 32 } ∧ s.sameModule t b m fun _ => x) ∧
        (v ≤ 68 → ∃ t, exec (.linkRegisterWrite b m .retired v) s = .next t ∧ (t.feltModule b m) = { x with retired := v } ∧ s.sameModule t b m fun _ => x))) ∧
    (∀ b m r w, b < 16 → m < 8 → r ≤ 4 → w ≤ 2 → w ≤ (s.feltModule b m).width → (s.feltModule b m).retired + (64 - 16 * w) ≤ 68 →
      (s.bundleEmpty b = false → ∃ t, exec (.linkRateChange b m r w) s = .next t ∧ (t.bundle b) = { s.bundle b with draining := true } ∧ ({ t with felts := s.felts } : State) = s ∧
        ∀ j, j ≠ b → t.bundle j = s.bundle j) ∧
      (s.bundleEmpty b = true → ∃ t, exec (.linkRateChange b m r w) s = .next t ∧ t.feltModule b m = { s.feltModule b m with rate := r, width := w } ∧
        ({ t with felts := s.felts } : State) = s ∧ (∀ j, j ≠ b → t.bundle j = s.bundle j) ∧ (∀ n, n ≠ m → t.feltModule b n = s.feltModule b n) ∧
        (t.bundle b).draining = false ∧ (∀ n, n ∈ (t.bundle b).inService ↔ n < 8 ∧ (t.feltModule b n).width ≠ 3))) ∧
    (∀ slot package, slot < 32 →
      (∃ t, exec (.peerSlotTableWrite slot package true) s = .next t ∧ t.peers.find slot = some package ∧ (∀ j, j ≠ slot → t.peers.find j = s.peers.find j) ∧ ({ t with peers := s.peers } : State) = s) ∧
      (∃ t, exec (.peerSlotTableWrite slot package false) s = .next t ∧ t.peers.find slot = none ∧ (∀ j, j ≠ slot → t.peers.find j = s.peers.find j) ∧ ({ t with peers := s.peers } : State) = s)) ∧
    (∀ asid root, asid < 256 →
      (∃ t, exec (.addressSpaceTableWrite asid root true) s = .next t ∧ t.roots.find asid = some root ∧ (∀ j, j ≠ asid → t.roots.find j = s.roots.find j) ∧ ({ t with roots := s.roots } : State) = s) ∧
      (∃ t, exec (.addressSpaceTableWrite asid root false) s = .next t ∧ t.roots.find asid = none ∧ (∀ j, j ≠ asid → t.roots.find j = s.roots.find j) ∧ ({ t with roots := s.roots } : State) = s)) ∧
    (∀ b m v, b < 16 → m < 8 → ∃ t, exec (.registerWrite (.replayThr b m) v) s = .next t ∧ t.feltModule b m = { s.feltModule b m with replayThr := v.toNat % 2 ^ 16 } ∧
      s.sameModule t b m fun _ => s.feltModule b m) ∧
    (∀ d k o v, exec (.registerWrite (.errorLog d k) v) s = .next s ∧ exec (.registerWrite (.reserved o) v) s = .next s)

/-- R226 to R236, R239 with R104: `MMA`, `MZERO` and `DRAIN` check their operands and join the queue of the matrix engine, or wait while sixteen commands
are queued; `MBATCH` gives the number of the batch that it closes; `EPISET` keeps the program that it reads, up to its `EEND`. The next command in order
starts once the earlier commands of its tile let it; `MZERO` leaves a tile of zeros; `MMA` adds the chunks of 32 products to its tile, in the order of K; a
drain ends once its program is through the tile and its writes are answered. -/
def Obligations.MatrixCommandsQueueStartAndEnd : Prop :=
  (∀ (d a b : BitVec 6) (m : BitVec 4) (s s1 : State) (c : Ctx),
    let loose : Loosen := { core := fun x => { x with mx := [], nextMx := 0, namedBars := [] }, state := fun s => { s with seq := 0 } }
    let full : Prop := 16 ≤ (c.core.mx.filter fun y => decide (y.st = .queued)).length
    let tile : Prop := 0x4000 * (d.toNat + 1) ≤ c.core.launch.tileC
    let joins (i : Instr) (op : MatrixOp) : Prop :=
      (full → ∃ t, exec i s = .next t ∧ c.waits s1 t .structural) ∧
      (¬ full → ∃ t, exec i s = .next t ∧ c.falls s1 t ∧ (c.here t).nextMx = c.core.nextMx + 1 ∧ c.rest t [] [] [] loose = c.rest s1 [] [] [] loose ∧
        (c.here t).mx = c.core.mx ++ [{ id := c.core.nextMx, tag := s1.seq, pc := c.iss.pc, tile := d.toNat, op := op, batch := c.core.curBatch, loose := c.core.loose, st := .queued }])
    (s.acting (.mma d a b m) = some (c, s1) →
      let x := (c.s a).toNat
      let y := (c.s b).toNat
      let n := if m.toNat ≤ 4 then 4352 else 4096
      let fits : Prop := x + n ≤ c.core.launch.tileA ∧ y + n ≤ c.core.launch.tileW ∧ tile
      (¬ (256 ∣ x ∧ 512 ∣ y) → exec (.mma d a b m) s = .next (c.trapWith 8#8 0#8 c.pass s1)) ∧
      (256 ∣ x → 512 ∣ y → ¬ fits → exec (.mma d a b m) s = .next (c.trapWith 8#8 1#8 c.pass s1)) ∧
      (256 ∣ x → 512 ∣ y → fits → joins (.mma d a b m) (.mma m.toNat x y))) ∧
    (s.acting (.mzero d) = some (c, s1) →
      (¬ tile → exec (.mzero d) s = .next (c.trapWith 8#8 1#8 c.pass s1)) ∧ (tile → joins (.mzero d) .mzero)) ∧
    (s.acting (.drain d a b) = some (c, s1) → ownCheck (.drain d a b) c s1 = none →
      let dest := (c.s a).toNat
      let pitch := (c.s b).toNat % 2 ^ 32
      let bar : Option Nat := if (c.s b).toNat / 2 ^ 48 % 2 = 1 then some (16 * ((c.s b).toNat / 2 ^ 32 % 2 ^ 16)) else none
      let fits : Prop := tile ∧ (∀ x ∈ bar, x + 16 ≤ c.core.launch.shared) ∧ estBound c.core.epiProgram dest pitch ≤ c.core.launch.shared ∧
        auxBound c.core.epiProgram c.core.epiAux ≤ c.core.launch.shared
      (¬ (4 ∣ dest ∧ 4 ∣ pitch) → exec (.drain d a b) s = .next (c.trapWith 8#8 0#8 c.pass s1)) ∧
      (4 ∣ dest → 4 ∣ pitch → ¬ fits → exec (.drain d a b) s = .next (c.trapWith 8#8 1#8 c.pass s1)) ∧
      (4 ∣ dest → 4 ∣ pitch → fits → joins (.drain d a b) (.drain (c.s a) pitch bar c.core.epiProgram c.core.epiAux))) ∧
    (s.acting (.mbatch d) = some (c, s1) →
      ∃ t, exec (.mbatch d) s = .next t ∧ c.falls s1 t ∧ (c.my t).sreg d.toNat = { val := BitVec.ofNat 64 c.core.curBatch.toNat, taint := false, poison := false } ∧
        (c.here t).curBatch = c.core.curBatch + 1#32 ∧ (∀ n, n ≠ d.toNat → (c.my t).sreg n = (c.my s1).sreg n) ∧ (c.my t).v = (c.my s1).v ∧ (c.my t).p = (c.my s1).p ∧
        (∀ y ∈ (c.here t).mx, y ∈ c.core.mx) ∧ t.mem = s1.mem ∧ t.dies = s1.dies) ∧
    (∀ s2 ws p, s.acting (.episet a b) = some (c, s1) → ownCheck (.episet a b) c s1 = none →
      let n := (c.s a).toNat
      let aux := (c.s b).toNat
      (c.core.launch.epiCount ≤ n → exec (.episet a b) s = .next (c.trap (illegal 8#8 c.iss.pc c.pass) s1)) ∧
      (n < c.core.launch.epiCount → c.readProgram (c.core.launch.epitab + BitVec.ofNat 64 (64 * n)) s1 = (s2, .words ws) →
        (programOf ws = some p → programOk p = true → 4 ∣ aux →
          ∃ t, exec (.episet a b) s = .next t ∧ c.falls s2 t ∧ (c.here t).epiProgram = p ∧ (c.here t).epiAux = aux ∧
            c.rest t [] [] [] { core := fun x => { x with epiProgram := [], epiAux := 0 } } = c.rest s2 [] [] [] { core := fun x => { x with epiProgram := [], epiAux := 0 } }) ∧
        (programOf ws = none → exec (.episet a b) s = .next (c.trap (illegal 8#8 c.iss.pc c.pass) s2)) ∧
        (programOf ws = some p → programOk p = true → ¬ 4 ∣ aux → exec (.episet a b) s = .next (c.trapWith 8#8 0#8 c.pass s2))))) ∧
  (∀ (s : State) (k idx : Nat) (c : Core) (before rest : List MatrixCmd) (m : MatrixCmd), s.core? k = some c →
    (c.mx = before ++ m :: rest → (∀ y ∈ before, y.st ≠ .queued) → m.st = .queued → (∀ y ∈ before ++ rest, y.id ≠ m.id) →
      let free : Prop := ∀ y ∈ before, y.tile ≠ m.tile ∨ y.st = .done ∨ (y.op.writesTile = false ∧ m.op.writesTile = false) ∨
        (y.op.writesTile = false ∧ ∃ r, y.st = .draining r ∧ r.readAll = true)
      (free → ∃ t x, exec (.matrixCommandStart k) s = .next t ∧ t.core? k = some x ∧
        x = { c with mx := before ++ { m with st := if m.op.writesTile then .running else .draining (c.startGroup m.tile EpiRun.first) } :: rest } ∧
        (∀ j, j ≠ k → t.core? j = s.core? j) ∧ ({ t with cores := s.cores } : State) = s) ∧
      (¬ free → exec (.matrixCommandStart k) s = .next s)) ∧
    ((∀ y ∈ c.mx, y.st ≠ .queued) → exec (.matrixCommandStart k) s = .next s) ∧
    (c.mx[idx]? = some m → (∀ y ∈ c.mx, y.id = m.id → y = m) → c.tc.wf = true →
      let ended (t : State) (x : Core) : Prop := t.core? k = some x ∧ (∀ y ∈ x.mx, y.id = m.id → y.st = .done) ∧ (∀ y ∈ x.mx, y.id ≠ m.id → y ∈ c.mx) ∧
        x.ta = c.ta ∧ x.tw = c.tw ∧ t.mem = s.mem ∧ t.dies = s.dies ∧ ∀ j, j ≠ k → t.core? j = s.core? j
      (m.st = .running → m.op = .mzero →
        ∃ t x, exec (.matrixCommandComplete k idx) s = .next t ∧ ended t x ∧ x.sh = c.sh ∧
          ∀ y, x.tc.read y = if 0x4000 * m.tile ≤ y ∧ y < 0x4000 * (m.tile + 1) then 0#8 else c.tc.read y) ∧
      (∀ type a b, m.st = .running → m.op = .mma type a b → m.loose = [] → c.taPoison = [] → c.twPoison = [] →
        let at_ (i j : Nat) : Nat := 0x4000 * m.tile + 256 * i + 4 * j
        ∃ t x, exec (.matrixCommandComplete k idx) s = .next t ∧ ended t x ∧ x.sh = c.sh ∧
          (∀ i j, i < 64 → j < 64 → x.tc.readNat (at_ i j) 4 =
            mmaOut type (fun q => c.ta.read (a + 64 * i + q)) (fun q => c.tw.read (b + 64 * j + q)) (fun q => c.ta.read (a + 4096 + 4 * i + q))
              (fun q => c.tw.read (b + 4096 + 4 * j + q)) (c.tc.readNat (at_ i j) 4)) ∧
          ∀ y, (y < 0x4000 * m.tile ∨ 0x4000 * (m.tile + 1) ≤ y) → x.tc.read y = c.tc.read y) ∧
      (∀ r, m.st = .draining r → c.squashed = false → r.finished = true → (∀ w ∈ r.writes, w.st = .answered) → r.peerSectors ≤ r.signalled →
        (∀ o ∈ s.ualink.out, o.what ≠ .drainSignal k m.id) → m.op.barrier = none →
        ∃ t x, exec (.drainComplete k idx) s = .next t ∧ ended t x ∧ x.sh = c.sh ∧ x.tc = c.tc) ∧
      (∀ r, m.st = .draining r → r.finished = false → c.squashed = false → exec (.drainComplete k idx) s = .next s)))

/-- R200 to R203, R206, R217, R218, R271, R273, R274, R317, R319: `COPY` hands its transfer to the copy unit, or waits while its counter is full; the unit reads
and checks the record, and each sector that has landed counts once, on the barrier too. The prefetches take a line into the home slice and no register, `PGREQ`
asks for an absent page, a page of 2 MiB once for all its parts, and waits while a walk of it does, `CINV` empties the caches that it names, and `TLBINV` takes the translations of an address, or of the address space, from the TLBs. -/
def Obligations.CopiesLandAndLinesAreFetchedAndDropped : Prop :=
  (∀ (a b : BitVec 6) (m : BitVec 4) (s s1 : State) (c : Ctx),
    let regsKept (t : State) : Prop := (c.my t).v = (c.my s1).v ∧ (c.my t).s = (c.my s1).s ∧ (c.my t).p = (c.my s1).p ∧ (c.my t).inflight = (c.my s1).inflight
    (s.acting (.copy a b m) = some (c, s1) →
      let n := (c.my s1).inflight.length
      let loose : Loosen := { thread := fun t => { t with inflight := t.inflight.take n }, core := fun x => { x with copies := [], nextCopy := 0, namedBars := [] }, state := fun s => { s with seq := 0 } }
      let w (i : Nat) : Nat := (c.th.sval (b.toNat + i)).toNat
      let half (i j : Nat) : Int := (BitVec.ofNat 32 (w i / 2 ^ (32 * j))).toInt
      (63 ≤ c.th.counter .cp → ∃ t, exec (.copy a b m) s = .next t ∧ c.waits s1 t .structural) ∧
      (c.th.counter .cp < 63 →
        ∃ t x, exec (.copy a b m) s = .next t ∧ c.falls s1 t ∧ (c.my t).counter .cp = c.th.counter .cp + 1 ∧ (c.here t).copies = c.core.copies ++ [x] ∧
          (c.here t).nextCopy = c.core.nextCopy + 1 ∧ x.id = c.core.nextCopy ∧ x.agent = c.a ∧ x.out = decide (8 ≤ m.toNat) ∧ x.space = spaceOf (BitVec.ofNat 3 m.toNat) ∧
          x.recAddr = c.s a ∧ x.loc.toNat = w 0 ∧ x.coords = [half 1 0, half 1 1, half 2 0, half 2 1, half 3 0] ∧ x.st = .waiting ∧ x.counted = [] ∧
          x.barrier = (if w 3 / 2 ^ 32 % 2 ^ 16 = 0xFFFF then none else some (16 * (w 3 / 2 ^ 32 % 2 ^ 16))) ∧ x.reserved = decide (2 ^ 48 ≤ w 3) ∧
          c.rest t [] [] [] loose = c.rest s1 [] [] [] loose)) ∧
    (s.acting (.pref a b) = some (c, s1) →
      ∃ t, exec (.pref a b) s = .next t ∧ c.falls s1 t ∧ regsKept t ∧
        (∀ s2 e, c.ap = true → s1.translate c.k c.core.launch.asid (c.s a + c.s b) .prefetch = (s2, .resident e) →
          let x := e.phys (vaNat (c.s a + c.s b)) / 128 * 128
          homed x → s2.easyLine x 1 → (s2.slice (homeDie x) (sliceOf x)).homeLine (setOf x) (x / 128) = none → c.core.vid = 0 → ∀ j < 4, t.homeHolds (x + 32 * j) ≠ none)) ∧
    (s.acting (.prefRo a b) = some (c, s1) → ∃ t, exec (.prefRo a b) s = .next t ∧ c.falls s1 t ∧ regsKept t) ∧
    (s.acting (.pgreq a b) = some (c, s1) →
      let first (n : Nat) : State := (c.actLanes.take n).foldl (fun z i => (c.requestPage (c.lineAddr a b i) z).1) s1
      let page : Nat := vaNat (c.s a + c.s b) / 2 ^ 16
      ((∃ n i, c.actLanes[n]? = some i ∧ ((first n).translate c.k c.core.launch.asid (c.lineAddr a b i) .prefetch).2 = .pending) →
        ∃ t, exec (.pgreq a b) s = .next t ∧ c.waits s1 t .structural ∧ regsKept t) ∧
      ((∀ n i, c.actLanes[n]? = some i → ((first n).translate c.k c.core.launch.asid (c.lineAddr a b i) .prefetch).2 ≠ .pending) →
        ∃ t, exec (.pgreq a b) s = .next t ∧ c.falls s1 t ∧ regsKept t ∧
          (∀ s2 big, c.ap = true → c.k / 128 < 12 → s1.translate c.k c.core.launch.asid (c.s a + c.s b) .prefetch = (s2, .absent big) →
            ∃ r ∈ (t.die (c.k / 128)).pageReqs, r.asid = c.core.launch.asid ∧ (r.page = page ∨ big = true ∧ r.page / 32 = page / 32)))) ∧
    (s.acting .cinvRo = some (c, s1) →
      let loose : Loosen := { core := fun x => { x with icache := [] }, state := fun s => s.updDie (c.k / 128) fun d => { d with ro := [] } }
      ∃ t, exec .cinvRo s = .next t ∧ c.falls s1 t ∧ (c.here t).icache = [] ∧ nth (t.die (c.k / 128)).ro (clusterOfCore c.k) [] = [] ∧
        (∀ n, n ≠ clusterOfCore c.k → nth (t.die (c.k / 128)).ro n [] = nth (s1.die (c.k / 128)).ro n []) ∧ c.rest t [] [] [] loose = c.rest s1 [] [] [] loose) ∧
    (s.acting .cinvL1 = some (c, s1) →
      let loose : Loosen := { core := fun x => { x with l1 := [], l1Epoch := 0, stale := [] } }
      ∃ t, exec .cinvL1 s = .next t ∧ c.falls s1 t ∧ (c.here t).l1 = [] ∧ c.rest t [] [] [] loose = c.rest s1 [] [] [] loose) ∧
    (let loose : Loosen := { core := fun x => { x with tlb := [] }, state := fun s => s.updDie (c.k / 128) fun d => { d with clusterTlb := [] } }
     let cluster (t : State) (n : Nat) : List TlbEntry := nth (t.die (c.k / 128)).clusterTlb n []
     let dropped (i : Instr) (gone : TlbEntry → Prop) : Prop := c.k / 128 < 12 → ∃ t, exec i s = .next t ∧ c.falls s1 t ∧
       (∀ e, e ∈ (c.here t).tlb ↔ e ∈ c.core.tlb ∧ ¬ gone e) ∧ (∀ e, e ∈ cluster t (clusterOfCore c.k) ↔ e ∈ cluster s1 (clusterOfCore c.k) ∧ ¬ gone e) ∧
       (∀ n, n ≠ clusterOfCore c.k → cluster t n = cluster s1 n) ∧ c.rest t [] [] [] loose = c.rest s1 [] [] [] loose
     let at_ (e : TlbEntry) : Prop := e.asid = c.core.launch.asid ∧ e.page = vaNat (c.s a) / (if e.big then 2 ^ 21 else 2 ^ 16)
     (s.acting (.tlbinv a) = some (c, s1) → dropped (.tlbinv a) fun e => isCanonical (c.s a) = true ∧ at_ e) ∧
     (s.acting .tlbinvAll = some (c, s1) → dropped .tlbinvAll fun e => e.asid = c.core.launch.asid))) ∧
  (∀ (s : State) (k idx : Nat) (c : Core) (x : Copy), s.core? k = some c → c.copies[idx]? = some x → c.squashed = false → c.mayCount x = true →
    (∀ y ∈ c.copies, y.id = x.id → y = x) →
    (∀ v rest s2 rs d, x.st = .waiting → (c.thread x.agent).writesDone x.tag = true → 64 ∣ x.recAddr.toNat → x.units = v :: rest →
      s.moveReads v.reads x.tag k 17 = (s2, rs) → (∀ r ∈ rs, r.st = .answered) → (∀ i < 64, (readByte rs i).2 = false) →
      d = Deckle.read (natOfBytes ((List.range 64).map fun i => (readByte rs i).1)) → x.recordFault d (c.limit x.space) c.launch.shared = none →
      ∃ t u, exec (.copyValidation k idx) s = .next t ∧ t.core? k = some u ∧ (∀ y ∈ u.copies, y.id = x.id → y.st = .moving ∧ y.deckle = some d) ∧
        ∀ y, y.id ≠ x.id → (y ∈ u.copies ↔ y ∈ c.copies)) ∧
    (x.st = .waiting → (c.thread x.agent).writesDone x.tag = false → exec (.copyValidation k idx) s = .next s) ∧
    (∀ d n v, x.st = .moving → x.deckle = some d → x.moves d n ≠ [] → n ∉ x.counted → x.peerWait = [] → idx < 1024 →
      x.units.find? (fun v => decide (v.unit = n)) = some v →
      let lands (t : State) (u : Core) : Prop := t.core? k = some u ∧ (∀ y ∈ u.copies, y.id = x.id → n ∈ y.counted) ∧ ∀ y, y.id ≠ x.id → (y ∈ u.copies ↔ y ∈ c.copies)
      (v.writes ≠ [] → (∀ r ∈ v.writes, r.st = .answered ∧ isPeer (r.line * 128) = false) →
        ∃ t u, exec (.copySectorLand k (1024 * n + idx)) s = .next t ∧ lands t u ∧ t.mem = s.mem ∧ t.dies = s.dies ∧ (x.barrier = none → u.sh = c.sh) ∧
          ∀ b, x.barrier = some b → c.sh.wf = true → b + 16 ≤ c.launch.shared → (c.transBar b).pending ≠ 0 → (c.transBar b).arrived + 1 < 2 ^ 24 →
            (u.transBar b).arrived = (c.transBar b).arrived + 1 ∧ ∀ y, (y < b ∨ b + 16 ≤ y) → u.sh.read y = c.sh.read y) ∧
      (∀ s2 rs, x.out = false → x.space = .sh → x.barrier = none → v.writes = [] → v.landed = false → s.moveReads v.reads x.tag k 17 = (s2, rs) → (∀ r ∈ rs, r.st = .answered ∧ ∀ e ∈ r.elems, e.poison = false) →
        c.sh.wf = true → ((x.moves d n).map fun m => m.dst.toNat).Nodup →
        ∃ t u, exec (.copySectorLand k (1024 * n + idx)) s = .next t ∧ lands t u ∧
          (∀ p m, (x.moves d n)[p]? = some m → u.sh.read m.dst.toNat = if m.src = none then 0#8 else (readByte rs p).1) ∧
          ∀ y, y ∉ (x.moves d n).map (fun m => m.dst.toNat) → u.sh.read y = c.sh.read y)))

/-- R244 to R249, R289, R290, R293, R348, R378: `RESOLVE` waits for the accesses of its warp and is then applied by the Couch, in order: with status 2, 3 or 1 it
changes nothing; `RESOLVE.s` marks a version and all below it broke; `RESOLVE.c` marks the chain to it couched and all that are neither on it nor below it
broke. Its issuer gets the status once every slice has taken the notice. The queries give what the version table holds; a core whose version is broke stops. -/
def Obligations.ResolvesMarkVersions : Prop :=
  (∀ (d a b : BitVec 6) (s s1 : State) (c : Ctx),
    let dom := s1.domain ((c.s a).toNat % 64)
    let e := dom.entry ((c.s b).toNat % 256)
    let number : Nat := match e.st with | .free => 0 | .live => 1 | .couched => 2 | .broke => 3
    (s.acting (.specchk d) = some (c, s1) →
      ∃ t, exec (.specchk d) s = .next t ∧ c.holdsP s1 t d.toNat (if s1.versionOf c.core = .couched then allLanes else 0#32) ∧ c.falls s1 t ∧
        c.rest t [] [] [d.toNat] = c.rest s1 [] [] [d.toNat]) ∧
    (s.acting (.specchkLive d) = some (c, s1) →
      ∃ t, exec (.specchkLive d) s = .next t ∧ c.holdsP s1 t d.toNat (if s1.versionOf c.core = .broke then 0#32 else allLanes) ∧ c.falls s1 t ∧
        c.rest t [] [] [d.toNat] = c.rest s1 [] [] [d.toNat]) ∧
    (s.acting (.vidq d a b) = some (c, s1) → ownCheck (.vidq d a b) c s1 = none →
      ∃ t v, exec (.vidq d a b) s = .next t ∧ c.holdsS t d.toNat v ∧ c.falls s1 t ∧ c.rest t [] [d.toNat] [] = c.rest s1 [] [d.toNat] [] ∧
        (e.st = .free → v = 0#64) ∧ (e.st ≠ .free → e.depth < 16 → e.parent < 256 → v.toNat = 4096 * number + 256 * e.depth + e.parent)) ∧
    (s.acting (.vidqFree d a) = some (c, s1) → ownCheck (.vidqFree d a) c s1 = none → (dom.table.map Prod.fst).Pairwise (· < ·) → (∀ x ∈ dom.table, x.1 < 256) →
      ∃ t, exec (.vidqFree d a) s = .next t ∧ c.falls s1 t ∧ c.rest t [] [d.toNat] [] = c.rest s1 [] [d.toNat] [] ∧
        c.holdsS t d.toNat (BitVec.ofNat 64 ((List.range 256).filter fun v => decide (v ≠ 0 ∧ (dom.entry v).st = .free)).length)) ∧
    (let loose : Loosen := { core := fun x => { x with ports := [] }, state := fun s => { s with resolves := [], seq := 0 } }
     let asks (i : Instr) (squash : Bool) : Prop := s.acting i = some (c, s1) → ownCheck i c s1 = none →
       (c.core.launch.redundant = true → exec i s = .next (c.trapWith 0x0E#8 0#8 c.pass s1)) ∧
       (c.core.launch.redundant = false → (∃ x ∈ c.th.inflight, x.done = false ∧ x.kind.plain = true) →
         ∃ t, exec i s = .next t ∧ c.waits s1 t .structural ∧ t.resolves = s1.resolves) ∧
       (c.core.launch.redundant = false → (∀ x ∈ c.th.inflight, x.done = true ∨ x.kind.plain = false) →
         ∃ t r, exec i s = .next t ∧ c.waits s1 t (.resolve s1.seq) ∧ t.resolves = s1.resolves ++ [r] ∧ r.domain = (c.s a).toNat % 64 ∧ r.target = (c.s b).toNat % 256 ∧
           r.proposed = (c.s b).toNat / 256 % 256 ∧ r.squash = squash ∧ r.status = none ∧ r.dst = d.toNat ∧ r.ofDomain = c.core.launch.domain ∧ r.ofVid = c.core.vid ∧
           c.rest t [] [] [] loose = c.rest s1 [] [] [] loose)
     asks (.resolveC d a b) false ∧ asks (.resolveS d a b) true)) ∧
  (∀ (s : State) (d k a : Nat) (w : SlotId) (tag : Nat) (before rest : List Resolve) (r : Resolve), s.resolves = before ++ r :: rest → d < 64 → (s.domain d).members = 0#32 →
    r.domain = d → r.source = .instr k a w tag → r.asked = none →
    (r.status = none → (∀ x ∈ before, x.domain = d → x.asked = none → x.status ≠ none) →
      let dom := s.domain d
      let e := dom.entry r.target
      let status : Nat := if ((s.domain r.ofDomain).entry r.ofVid).st = .broke then 2 else if r.ofDomain ≠ d ∧ r.ofVid ≠ 0 then 3
        else if (r.target ≠ 0 ∧ (e.st ≠ .live ∨ e.twin ≠ 0)) ∨ (r.squash = true ∧ r.target = 0) then 1 else 0
      ∃ t r', exec (.resolveApply d) s = .next t ∧ t.resolves = before ++ r' :: rest ∧ r'.status = some status ∧ r'.source = r.source ∧ r'.dst = r.dst ∧
        (status ≠ 0 → ({ t with resolves := s.resolves } : State) = s) ∧
        (status = 0 → (∃ n, t.notices = s.notices ++ [n] ∧ n.domain = d ∧ n.id = r'.notice ∧ n.waiting = List.range 768) ∧
          ∀ v x, (dom.table.map Prod.fst).Nodup → v ≠ 0 → dom.table.find v = some x → x.st = .live → x.twin = 0 →
            let below : Bool := decide (r.target ≠ 0) && x.anc.getLsbD r.target
            let chain : Bool := decide (r.target ≠ 0) && (decide (v = r.target) || e.anc.getLsbD v)
            ((t.domain d).entry v).st = if r.squash then (if v = r.target ∨ below = true then .broke else .live)
              else if chain then .couched else if below then .live else .broke)) ∧
    (∀ n core, r.status = some n → (∀ x ∈ before, x.domain = d → s.resolveDone x = false) → s.core? k = some core → a ≤ apAgent → (core.thread a).ahead = none →
      core.acts = true → ((core.thread a).slot w).st = .waiting (.resolve tag) → r.dst < 64 →
      (n = 0 → (∀ x ∈ s.notices, x.domain = d → x.id ≠ r.notice) ∧ s.updatesOut (noticeMark d r.notice) 20 = false ∧ (∀ x ∈ (s.domain d).joint.awaiting, x.1 ≠ r.notice) ∧
        s.updatesOut k a = false) →
      ∃ t, exec (.resolveComplete d) s = .next t ∧ t.resolves = before ++ rest ∧ ((t.thread k a).slot w).st = .live ∧
        ((t.thread k a).slot w).pc = ((core.thread a).loopNext ((core.thread a).slot w).pc).1 ∧
        (t.thread k a).sreg r.dst = { val := BitVec.ofNat 64 n, taint := r.taint, poison := false } ∧
        (∀ m, m ≠ r.dst → (t.thread k a).sreg m = (core.thread a).sreg m) ∧ t.mem = s.mem)) ∧
  (∀ (s : State) (die slice : Nat) (before rest : List Notice) (n : Notice), s.notices = before ++ n :: rest → die < 12 → slice < 64 → (s.die die).holdsBack die = false →
    64 * die + slice ∈ n.waiting → (∀ x ∈ before, 64 * die + slice ∉ x.waiting ∧ x.waiting ≠ [] ∧ (x.domain ≠ n.domain ∨ x.id ≠ n.id)) →
    (∀ x ∈ rest, x.waiting ≠ [] ∧ (x.domain ≠ n.domain ∨ x.id ≠ n.id)) →
    (s.slice die slice).copyLines (fun d v => decide (d = n.domain) && n.couched.contains v) = [] →
    ∃ t, exec (.sliceResolveNotice die slice) s = .next t ∧ ({ t with notices := s.notices } : State) = s ∧
      let left := n.waiting.filter fun x => x ≠ 64 * die + slice
      t.notices = before ++ (if left = [] then [] else [{ n with waiting := left }]) ++ rest) ∧
  (∀ (s : State) (k : Nat) (c : Core), s.core? k = some c →
    (c.squashed = true ∨ s.versionOf c ≠ .broke → exec (.versionNoticeApply k) s = .next s) ∧
    (c.squashed = false → s.versionOf c = .broke →
      ∃ t x, exec (.versionNoticeApply k) s = .next t ∧ t.core? k = some x ∧ x.squashed = true ∧ x.claims = [] ∧ x.stopAt.isSome = true ∧
        (c.phase = .running ∨ c.phase = .clearing → x.phase = .stopping) ∧ (∀ f ∈ x.frags, f.valid = false) ∧ (∀ y ∈ x.copies, y.st = .ended) ∧
        (∀ m ∈ x.mx, ∀ r, m.st ≠ .draining r) ∧ ∀ j, j ≠ k → t.core? j = s.core? j))

/-- R250, R291, R292, R403 to R405: a pass over a slice takes up the versions that the slice sees as couched or broke, visits set after set, frees the copies of broke ones
and leaves its mark for the versions whose blocks had ended before; a version so marked by every slice is free again. `SIGSYNC` counts and waits in a redundant
block and writes its predicate at once elsewhere; when both blocks of a pair have completed, their signatures decide between a commit and a rerun in two fresh versions. -/
def Obligations.SweepsFreeVersionsAndPairsAreCompared : Prop :=
  (∀ (s : State) (die slice : Nat), die < 12 → slice < 64 →
    let key := 64 * die + slice
    let same (t : State) : Prop := ({ t with dies := s.dies } : State) = s ∧ ∀ j, j ≠ slice → t.slice die j = s.slice die j
    ((s.slice die slice).sweep = none → s.pendingVids die slice ≠ [] →
      ∃ t p, exec (.sweepPassStart die slice) s = .next t ∧ same t ∧ (t.slice die slice).sweep = some p ∧ p.next = 0 ∧ p.vids = s.pendingVids die slice ∧
        ∀ d v n, (d, v, n) ∈ p.released ↔ (d, v) ∈ p.vids ∧ ((s.domain d).entry v).blocks = 0 ∧ n = ((s.domain d).entry v).epoch) ∧
    ((s.slice die slice).sweep ≠ none → exec (.sweepPassStart die slice) s = .next s) ∧
    (∀ p, (s.slice die slice).sweep = some p →
      let lines := (s.slice die slice).setLines p.next p.vids
      (p.next < 1024 → (s.die die).holdsBack die = false → (∀ l ∈ lines, s.mergeWaits l = false) → (s.slice die slice).spilled p.vids = none →
        (∀ w ∈ (s.slice die slice).ways, w.1 / 16 = Machine.setOf (w.2.line * 128)) → (∀ x ∈ p.vids, (s.sliceEntry die slice x.1 x.2).st = .broke) →
        ∃ t, exec (.sweepVisit die slice) s = .next t ∧ same t ∧ (t.slice die slice).sweep = some { p with next := p.next + 1 } ∧ (t.slice die slice).setLines p.next p.vids = [] ∧
          ∀ w ∈ (s.slice die slice).ways, w.1 / 16 ≠ p.next → w ∈ (t.slice die slice).ways) ∧
      (1024 ≤ p.next → s.sweepLeft die slice p = none →
        ∃ t, exec (.sweepPassEnd die slice) s = .next t ∧ (t.slice die slice).sweep = none ∧
          ∀ d v n e, (d, v, n) ∈ p.released → d < 64 → v ≠ 0 → (s.domain d).table.find v = some e → e.epoch = n → key ∈ ((t.domain d).entry v).swept) ∧
      (∀ l, 1024 ≤ p.next → s.sweepLeft die slice p = some l → exec (.sweepPassEnd die slice) s = .next s) ∧
      (p.next < 1024 → exec (.sweepPassEnd die slice) s = .next s))) ∧
  (∀ (s : State) (d v : Nat) (e : VEntry), d < 64 → v ≠ 0 → (s.domain d).members = 0#32 → ((s.domain d).table.map Prod.fst).Nodup → (s.domain d).table.find v = some e →
    let free : Prop := (e.st = .couched ∨ e.st = .broke) ∧ e.blocks = 0 ∧ e.swept = List.range 768 ∧ ∀ g ∈ s.grids, ¬ (g.2.launch.domain = d ∧ g.2.vid = v)
    (free → ∃ t, exec (.vidRecycle d v) s = .next t ∧ ((t.domain d).entry v).st = .free ∧ (∀ u, u ≠ v → (t.domain d).entry u = (s.domain d).entry u) ∧
      (∀ j, j ≠ d → t.domain j = s.domain j) ∧ t.cores = s.cores ∧ t.dies = s.dies ∧ t.mem = s.mem) ∧
    (¬ free → exec (.vidRecycle d v) s = .next s)) ∧
  (∀ (d : BitVec 6) (s s1 : State) (c : Ctx), s.acting (.sigsync d) = some (c, s1) →
    let atOnce (v : W32) : Prop := ∃ t, exec (.sigsync d) s = .next t ∧ c.holdsP s1 t d.toNat v ∧ c.falls s1 t ∧ c.runEnded t ∧
      c.rest t [] [] [d.toNat] looseRun = c.rest s1 [] [] [d.toNat] looseRun
    (s1.versionOf c.core = .broke → atOnce 0#32) ∧
    (s1.versionOf c.core ≠ .broke → c.core.launch.redundant = false → atOnce allLanes) ∧
    (s1.versionOf c.core ≠ .broke → c.core.launch.redundant = true →
      ∃ t, exec (.sigsync d) s = .next t ∧ c.waits s1 t (.sigsync d.toNat (if c.ap then allLanes else c.pass) (c.core.sigCount + 1) s1.seq) ∧
        (c.here t).sigCount = c.core.sigCount + 1 ∧ (c.my t).p = (c.my s1).p ∧ t.mem = s1.mem)) ∧
  (∀ (s : State) (die i : Nat) (p : Pair) (x y : Core), die < 12 → (s.die die).pairs.find i = some p → s.core? (128 * die + p.coreP) = some x → s.core? (128 * die + p.coreT) = some y →
    let pair (t : State) : Option Pair := (t.die die).pairs.find i
    let broke : Prop := ((s.domain p.domain).entry p.vidP).st = .broke
    (p.st = 1 → x.phase = .completed → y.phase = .completed → broke →
      ∃ t, exec (.pairCompare die i) s = .next t ∧ pair t = some { p with st := 2 } ∧ t.resolves = s.resolves ∧ t.cores = s.cores) ∧
    (p.st = 1 → x.phase = .completed → y.phase = .completed → ¬ broke → x.sig = y.sig → p.rerun = false →
      ∃ t r, exec (.pairCompare die i) s = .next t ∧ pair t = some { p with st := 2 } ∧ t.resolves = s.resolves ++ [r] ∧ r.source = .pair ∧
        r.domain = p.domain ∧ r.target = p.vidP ∧ r.squash = false ∧ t.cores = s.cores ∧ t.mem = s.mem) ∧
    (p.st = 1 → x.phase = .completed → y.phase = .completed → ¬ broke → x.sig ≠ y.sig → p.rerun = false →
      ∃ t r, exec (.pairCompare die i) s = .next t ∧ pair t = some { p with st := 3 } ∧ t.resolves = s.resolves ++ [r] ∧ r.source = .pair ∧
        r.domain = p.domain ∧ r.target = p.vidP ∧ r.squash = true ∧ t.cores = s.cores ∧ t.mem = s.mem) ∧
    (p.st = 1 → x.phase = .completed → y.phase = .completed → ¬ broke → x.sig ≠ y.sig → p.rerun = true → p.coreP ≠ p.coreT →
      ∃ t r, exec (.pairCompare die i) s = .next t ∧ pair t = some { p with st := 2 } ∧ t.resolves = s.resolves ++ [r] ∧ r.source = .pair ∧ r.domain = p.domain ∧
        r.target = p.vidP ∧ r.squash = true ∧ ∀ c ∈ [p.coreP, p.coreT], (t.core? (128 * die + c)).map (fun c => c.phase) = some .killed) ∧
    (p.st ≠ 1 ∨ x.phase ≠ .completed ∨ y.phase ≠ .completed → exec (.pairCompare die i) s = .next s) ∧
    (∀ u v rest, p.st = 3 → x.stopped = true → y.stopped = true → x.enginesDone = true → y.enginesDone = true → x.requestsDone = true → y.requestsDone = true →
      (∀ c ∈ [x, y], c.phase ≠ .killed ∧ c.phase ≠ .halted) → (∀ c ∈ [p.coreP, p.coreT], s.writesOnWay (128 * die + c) = false) → p.coreP ≠ p.coreT → (s.domain p.domain).members = 0#32 → p.domain < 64 → (s.domain p.domain).lowestFree 255 = u :: v :: rest → 2 ≤ (s.domain p.domain).freeVids →
      x.launch.domain = p.domain → y.launch.domain = p.domain →
      ∃ t cx cy, exec (.pairRerunStart die i) s = .next t ∧ pair t = some { p with vidP := u, vidT := v, sigP := 0#64, sigT := 0#64, nP := 0, nT := 0, st := 1, rerun := true } ∧
        t.core? (128 * die + p.coreP) = some cx ∧ cx.vid = u ∧ cx.phase = .clearing ∧ cx.launch = x.launch ∧ cx.block = x.block ∧ cx.gang = x.gang ∧
        t.core? (128 * die + p.coreT) = some cy ∧ cy.vid = v ∧ cy.phase = .clearing ∧ cy.launch = y.launch ∧ cy.block = y.block ∧ cy.gang = y.gang) ∧
    (p.st ≠ 3 → exec (.pairRerunStart die i) s = .next s))

/-- R251 to R255, R260, R261, R372: `EGRSV` takes its positions and leaves where they begin, or waits for room; `EGPUSH` writes its held slots, `EGPUB` publishes the
reservation that it names, `EGREL` releases up to the position asked for, writes the slots to the host's ring and leaves both cursors, and `EGREL.v` turns tokens void on the
way. `FLPOP` leaves the oldest block of its list, or 0, and `FLPUSH` adds one: at once from version 0 or a couched one, by the log from a live one. -/
def Obligations.EgressAndFreeListWordsTakeEffect : Prop :=
  ∀ (d a b : BitVec 6) (s s1 : State) (c : Ctx), c.core.launch.redundant = false →
    let dom := c.core.launch.domain
    let ring (t : State) : Egress := (t.domain dom).egress
    let e := ring s1
    let n := (c.s a).toNat % 2 ^ 32
    let version := ((s1.domain dom).entry c.core.vid).st
    let mine (r : Reservation) : Prop := r.core = c.k ∧ r.grid = c.core.grid ∧ r.published = false ∧ r.written = false
    let same (f : Egress) (g : Egress) : Prop := f.hcur = g.hcur ∧ f.lcur = g.lcur ∧ f.shadow = g.shadow ∧ f.logn = g.logn ∧ f.base = g.base ∧ f.l = g.l
    let quiet (t : State) : Prop := (c.my t).v = (c.my s1).v ∧ (c.my t).p = (c.my s1).p ∧ ∀ j, j ≠ dom → t.domain j = s1.domain j
    (s.acting (.egrsv d a) = some (c, s1) →
      let start (t : State) : Prop := c.holdsS t d.toNat (e.r.setWidth 64) ∧ c.falls s1 t ∧ c.runEnded t ∧ quiet t
      (e.configured = false ∨ e.size < n → exec (.egrsv d a) s = .next (c.trapWith 8#8 2#8 c.pass s1)) ∧
      (e.configured = true → n = 0 → ∃ t, exec (.egrsv d a) s = .next t ∧ start t ∧ ring t = e) ∧
      (e.configured = true → 0 < n → n ≤ e.size → (e.r + BitVec.ofNat 32 n - e.hcur).toNat ≤ e.size → c.core.reservesFirst c.a s1.now = false →
        ∃ t, exec (.egrsv d a) s = .next t ∧ start t ∧ same (ring t) e ∧ (ring t).r = e.r + BitVec.ofNat 32 n ∧
          (version ≠ .broke → (ring t).reservations.getLast? =
            some { core := c.k, grid := c.core.grid, vid := c.core.vid, first := e.r, count := n, published := false, isVoid := false, couched := decide (version = .couched), publisher := none, written := false, pushed := [] })) ∧
      (e.configured = true → 0 < n → n ≤ e.size → e.size < (e.r + BitVec.ofNat 32 n - e.hcur).toNat ∨ c.core.reservesFirst c.a s1.now = true →
        ∃ t, exec (.egrsv d a) s = .next t ∧ c.waits s1 t (.egrsv d.toNat c.taintAny n s1.now) ∧ ring t = e)) ∧
    (s.acting (.egpush a b) = some (c, s1) →
      let pos (i : Nat) : W32 := (c.s a).setWidth 32 + BitVec.ofNat 32 i
      let token (i : Nat) : Nat := if c.ap then (c.s b).toNat % 2 ^ 32 else (c.v b i).toNat
      let lanes := if c.ap then [0] else lanesOf c.pass
      let open_ (i : Nat) : Prop := e.configured = true ∧ ∃ r ∈ e.reservations, mine r ∧ (pos i - r.first).toNat < r.count
      let slot (i : Nat) : Nat := e.shadow + 8 * ((pos i).toNat % 2 ^ e.logn)
      ((∀ i ∈ lanes, open_ i) →
        ∃ t, exec (.egpush a b) s = .next t ∧ c.falls s1 t ∧ quiet t ∧ same (ring t) e ∧ (ring t).r = e.r ∧ (ring t).p = e.p ∧ (c.my t).s = (c.my s1).s ∧
          (∀ i ∈ lanes, ∃ r ∈ (ring t).reservations, mine r ∧ (pos i - r.first).toNat < r.count ∧ pos i ∈ r.pushed) ∧
          ((∀ i ∈ lanes, isHbm (slot i) = true ∧ homeDie (slot i) = dom % 12 ∧ s1.easyLine (slot i) 5) → 8 ∣ e.shadow → c.core.vid < 256 →
            ∀ i ∈ lanes, bytesAt t.committedByte (slot i) 8 = 3 * 2 ^ 40 + c.core.vid * 2 ^ 32 + token i)) ∧
      ((∃ i ∈ lanes, ¬ open_ i) → version = .broke → e.configured = true → ∃ t, exec (.egpush a b) s = .next t ∧ c.falls s1 t ∧ quiet t ∧ ring t = e) ∧
      ((∃ i ∈ lanes, ¬ open_ i) → version ≠ .broke ∨ e.configured = false → ∃ m, exec (.egpush a b) s = .next (c.trapWith 8#8 2#8 m s1) ∧ (c.ap = true → m = c.pass) ∧
        (c.ap = false → ∀ i ∈ lanes, bit m i = true ↔ ¬ open_ i))) ∧
    (s.acting (.egpub a) = some (c, s1) →
      (∀ r ∈ e.reservations, e.configured = true → mine r → r.first = (c.s a).setWidth 32 → r.isVoid = false → r.couched = false → ((s1.domain dom).entry r.vid).st = .live →
        ∃ t, exec (.egpub a) s = .next t ∧ c.falls s1 t ∧ quiet t ∧ same (ring t) e ∧ (ring t).r = e.r ∧ (c.my t).s = (c.my s1).s ∧
          { r with published := true, publisher := some (c.k, c.a, s1.seq) } ∈ (ring t).reservations) ∧
      let none_ : Prop := ∀ r ∈ e.reservations, mine r → r.first ≠ (c.s a).setWidth 32
      (none_ → version = .broke → e.configured = true → ∃ t, exec (.egpub a) s = .next t ∧ c.falls s1 t ∧ quiet t ∧ ring t = e) ∧
      (e.configured = false ∨ (none_ ∧ version ≠ .broke) → exec (.egpub a) s = .next (c.trapWith 8#8 2#8 c.pass s1))) ∧
    (∀ (reject : Bool), let i : Instr := if reject then .egrelV d a b else .egrel d a b
      s.acting i = some (c, s1) → ownCheck i c s1 = none →
      let x := (c.s a).toNat % 2 ^ 6
      let s2 := s1.settleEgress x
      let g := (s2.domain x).egress
      let ahead := ((c.s b).setWidth 32 - g.l : W32).toNat
      let k := if 2 ^ 31 ≤ ahead then 0 else min ahead (g.p - g.l).toNat
      let l := g.l + BitVec.ofNat 32 k
      let shadow := g.shadow + 8 * (g.l.toNat % 2 ^ g.logn)
      let base := g.base + 8 * (g.l.toNat % 2 ^ g.logn)
      let left (t : State) : Prop := c.holdsS t d.toNat (g.p ++ l) ∧ c.falls s1 t ∧ c.runEnded t ∧ (t.domain x).egress.l = l ∧ (t.domain x).egress.p = g.p ∧ (t.domain x).egress.r = g.r
      ((s1.domain x).egress.configured = false → exec i s = .next (c.trapWith 8#8 2#8 c.pass s1)) ∧
      ((s1.domain x).egress.configured = true → s2.slotsReady x (c.k / 128) = true →
        (k = 0 → ∃ t, exec i s = .next t ∧ left t ∧ (t.domain x).egress.lcur = g.lcur ∧ ∀ y, t.committedByte y = s2.committedByte y) ∧
        (0 < k → ∃ t, exec i s = .next t ∧ (t.domain x).egress.l = l ∧ (t.domain x).egress.p = g.p ∧ (left t ∨ ∃ asked, c.waits s1 t (.egrel x d.toNat c.taintAny (g.p ++ l) asked))) ∧
        (k = 1 → s2.cores = s1.cores → (c.my s1).inflight = [] → s2.updatesOut c.k c.a = false → s2.host.writes = [] → s2.ualink.out = [] →
          (∀ die slice, ∀ w ∈ (s2.slice die slice).ways, isFar w.2.line = false ∧ w.2.holders = 0#12) → homeDie shadow = x % 12 → isHbm shadow = true → isHbm base = true → 8 ∣ g.shadow → 8 ∣ g.base →
          s2.easyLine shadow 3 → s2.easyLine base 3 →
          let v := bytesAt s2.committedByte shadow 8
          ∃ t, exec i s = .next t ∧ left t ∧ (t.domain x).egress.lcur = (if (l - g.lcur).toNat < 2 ^ 31 then l else g.lcur) ∧
            bytesAt t.committedByte base 8 = (if reject = true ∧ v / 2 ^ 40 % 2 ^ 8 = 1 then 2 * 2 ^ 40 + v % 2 ^ 40 else v)))) ∧
    (∀ p, s1.pools.find (c.s a).toNat = some p →
      let slot (q : W32) : Nat := p.flbase + 4 * (q.toNat % p.nblk)
      let others (t : State) : Prop := ∀ j, j ≠ (c.s a).toNat → t.pools.find j = s1.pools.find j
      let full : Prop := 2 ^ 20 ≤ (s1.die p.home).logEntries.length
      let entry (held : Bool) (x : Nat) : LogEntry := { held := held, free := false, pool := (c.s a).toNat, vid := c.core.vid, domain := dom, block := x }
      (s.acting (.flpop d a) = some (c, s1) → ownCheck (.flpop d a) c s1 = none → s1.popReady (c.s a).toNat = true →
        let x := bytesAt s1.committedByte (slot p.flhead) 4 % 2 ^ 24
        let takes (t : State) (v : Nat) : Prop := c.holdsS t d.toNat (BitVec.ofNat 64 v) ∧ c.falls s1 t ∧ c.runEnded t ∧ others t
        (p.fltail = p.flhead ∨ (version = .live ∧ full) → ∃ t, exec (.flpop d a) s = .next t ∧ takes t 0 ∧ t.pools = s1.pools ∧ (∀ j, (t.die j).logEntries = (s1.die j).logEntries)) ∧
        (p.fltail ≠ p.flhead → homed (slot p.flhead) → 4 ∣ p.flbase → s1.easyLine (slot p.flhead) 5 → x ≠ 0 →
          (version = .couched → ∃ t, exec (.flpop d a) s = .next t ∧ takes t x ∧ t.pools.find (c.s a).toNat = some { p with flhead := p.flhead + 1#32 }) ∧
          (version = .live → ¬ full → p.home < 12 → ∃ t, exec (.flpop d a) s = .next t ∧ takes t x ∧ t.pools.find (c.s a).toNat = some { p with flhead := p.flhead + 1#32 } ∧
            (t.die p.home).logEntries = (s1.die p.home).logEntries ++ [entry false x]) ∧
          (version = .broke → ∃ t, exec (.flpop d a) s = .next t ∧ takes t x ∧
            t.pools.find (c.s a).toNat = some { p with flhead := p.flhead + 1#32, fltail := p.fltail + 1#32 }))) ∧
      (s.acting (.flpush a b) = some (c, s1) → ownCheck (.flpush a b) c s1 = none →
        let x := (c.s b).toNat
        let good : Prop := 0 < x ∧ x < p.nblk ∧ x < 2 ^ 24
        let held := (p.fltail - p.flhead).toNat
        (¬ good → exec (.flpush a b) s = .next (c.trapWith 8#8 3#8 c.pass s1)) ∧
        (good → version = .couched → p.nblk ≤ held + 1 → exec (.flpush a b) s = .next (c.trapWith 8#8 4#8 c.pass s1)) ∧
        (good → version = .couched → held + 1 < p.nblk →
          ∃ t, exec (.flpush a b) s = .next t ∧ c.falls s1 t ∧ others t ∧ t.pools.find (c.s a).toNat = some { p with fltail := p.fltail + 1#32 } ∧
            (isHbm (slot p.fltail) = true → homeDie (slot p.fltail) = p.home → 4 ∣ p.flbase → s1.easyLine (slot p.fltail) 5 → bytesAt t.committedByte (slot p.fltail) 4 = x)) ∧
        (good → version = .live → ¬ full → ∃ t, exec (.flpush a b) s = .next t ∧ c.falls s1 t ∧ t.pools = s1.pools ∧
          (p.home < 12 → (t.die p.home).logEntries = (s1.die p.home).logEntries ++ [entry true x])) ∧
        (good → version = .broke → exec (.flpush a b) s = .next (c.next s1))))

/-- R237 to R239, R268, R270, R403: an epilogue word of the drain that is at work acts on the sixteen elements of its group and goes on with the next word. A word that
computes or loads leaves its register, with no poison; `EST` leaves the bytes in shared memory and sets a line full with the last word that writes to it; `ESTG` and `ERED`
ask for their writes; `ESIG` adds to the signature of a redundant block; `EEND` begins the next group, whose elements it loads, or ends the runs. A poisoned element that is
read fails the drain, and so does the squash of its block's version. -/
def Obligations.EpilogueWordsAct : Prop :=
  ∀ (i : Instr) (s : State) (iss : Issue) (c : Core) (before rest : List MatrixCmd) (m : MatrixCmd) (r : EpiRun) (dest : W64) (pitch aux : Nat) (bar : Option Nat) (program : List W32),
    isEpilogue i = true → s.cur = some iss → s.core? iss.core = some c → c.mx = before ++ m :: rest → m.st = .draining r → r.finished = false →
    m.op = .drain dest pitch bar program aux → (∀ y ∈ before, ∀ q, y.st = .draining q → q.finished = true) → (∀ y ∈ before ++ rest, y.id ≠ m.id) →
    let k := iss.core
    let el (a : BitVec 4) (j : Nat) : W32 := nth (nth r.e a.toNat []) j 0#32
    let clean : Prop := ∀ a ∈ epiReads i, true ∉ nth r.pois a.toNat []
    let words := epiAuxWords r.row r.group aux i
    let loads : Prop := ∀ j < words.2, (words.1 + 4 * j) / 32 ∉ c.shPoison
    let runs (q : EpiRun) : List MatrixCmd := before ++ { m with st := .draining q } :: rest
    let alone (t : State) (u : Core) : Prop := t.core? k = some u ∧ (∀ j, j ≠ k → t.core? j = s.core? j) ∧ ({ t with cores := s.cores, free := s.free } : State) = s
    let place (z : Nat) (j : Nat) : Nat := r.row * pitch + (16 * r.group + j) * 2 ^ z
    (c.squashed = true → exec i s = .next (s.failDrain k m 1)) ∧
    (c.squashed = false → ¬ clean → exec i s = .next (s.failDrain k m 3)) ∧
    (c.squashed = false → clean → ¬ loads → exec i s = .next (s.failDrain k m 3)) ∧
    (c.squashed = false → clean →
      (∀ d f, epiResult el r.row r.group aux (fun y => c.sh.read y) i = some (d, f) → loads →
        ∃ t q, exec i s = .next t ∧ alone t { c with mx := runs q } ∧ q.word = r.word + 1 ∧ ({ q with word := r.word, e := r.e, pois := r.pois } : EpiRun) = r ∧
          (∀ j < 16, nth (nth q.e d.toNat []) j 0#32 = f j ∧ nth (nth q.pois d.toNat []) j true = false) ∧
          ∀ n, n ≠ d.toNat → nth q.e n [] = nth r.e n [] ∧ nth q.pois n [] = nth r.pois n []) ∧
      (i = .enop → ∃ t, exec i s = .next t ∧ alone t { c with mx := runs { r with word := r.word + 1 } }) ∧
      (∀ a z, i = .est a z → z.toNat ≤ 2 → c.sh.wf = true →
        let base := dest.toNat % 2 ^ 32 + place z.toNat 0
        let n := 2 ^ z.toNat
        n ∣ base → (∀ b ∈ c.barsInUse, b + 16 ≤ base ∨ base + 16 * n ≤ b) →
        ∃ t u, exec i s = .next t ∧ alone t u ∧ u.mx = runs { r with word := r.word + 1 } ∧
          (∀ y, u.sh.read y = if base ≤ y ∧ y < base + 16 * n then BitVec.ofNat 8 ((el a ((y - base) / n)).toNat / 256 ^ ((y - base) % n)) else c.sh.read y) ∧
          ({ u with sh := c.sh, shPoison := c.shPoison, full := c.full, mx := c.mx } : Core) = c ∧
          (∀ l, l ∈ c.full → l ∈ u.full) ∧ (∀ l, l ∈ u.full → l ∈ c.full ∨ ∃ j < 16, l = (base + j * n) / 128) ∧
          (r.row = 63 → r.group = 3 → program.length ≤ 16 → (∀ w ∈ program.drop (r.word + 1), ∀ b y, decodeEpi w ≠ some (.est b y)) → ∀ j < 16, (base + j * n) / 128 ∈ u.full)) ∧
      (∀ z (op : Nat → ElemOp), (∃ a, (∃ y, i = .estg a y ∧ z = y.toNat ∧ ∀ j, op j = .put ((el a j).setWidth 128)) ∨
          (i = .ered a ∧ z = 2 ∧ ∀ j, op j = .atom .fadd false ((el a j).setWidth 64))) →
        let va (j : Nat) : W64 := BitVec.ofNat 64 (dest.toNat + place z j)
        let (s2, f) := s.translateLanes k c.launch.asid .write ((List.range 16).map fun j => { lane := j, va := va j, nib := 0, op := op j })
        f.fatal = none → f.pending = [] → f.absent = [] → (c.vid = 0 ∨ ∀ h ∈ f.hits, h.2.ver = true ∧ h.2.domain = c.launch.domain) →
        ∃ t u q, exec i s = .next t ∧ t.core? k = some u ∧ u.mx = runs q ∧ q.word = r.word + 1 ∧ q.e = r.e ∧ q.pois = r.pois ∧ q.row = r.row ∧ q.group = r.group ∧
          t.seq = s2.seq + 1 ∧ t.mem = s2.mem ∧ u.sh = c.sh ∧ (c.launch.redundant = false → u.sig = c.sig) ∧ (∀ j, j ≠ k → t.core? j = s2.core? j) ∧
          ∀ j < 16, ∀ e, f.entry j = some e → ∃ x ∈ q.writes, ∃ y ∈ x.elems, y.lane = j ∧ y.op = op j ∧ x.line * 128 + y.off = e.phys (vaNat (va j)) ∧ x.tag = s2.seq ∧
            x.vid = c.vid ∧ x.domain = c.launch.domain ∧ x.owner = .drain k m.id) ∧
      (∀ a, i = .esig a →
        let sum := ((List.range 16).map fun j => mix (BitVec.ofNat 64 (dest.toNat + place 2 j)) 2 ((el a j).setWidth 64)).foldl (· + ·) 0#64
        let u : Core := { c with mx := runs { r with word := r.word + 1 } }
        (c.launch.redundant = false → ∃ t, exec i s = .next t ∧ alone t u) ∧
        (c.launch.redundant = true → ∃ t, exec i s = .next t ∧ alone { t with dies := s.dies } { u with sig := c.sig + sum } ∧
          s.sameDie t (k / 128) (fun d => { d with pairs := [] }) ∧ ∀ p, k / 128 < 12 → (s.die (k / 128)).pairs.find c.pairIdx = some p →
            (t.die (k / 128)).pairs.find c.pairIdx = some (if p.coreP = k % 128 then { p with sigP := c.sig + sum } else { p with sigT := c.sig + sum }))) ∧
      (i = .eend →
        let last : Prop := r.row = 63 ∧ r.group = 3
        (last → ∃ t, exec i s = .next t ∧ alone t { c with mx := runs { r with finished := true } }) ∧
        (¬ last → ∃ t q, exec i s = .next t ∧ alone t { c with mx := runs q } ∧ q.word = 0 ∧ q.finished = false ∧ q.writes = r.writes ∧
          q.row = (if r.group = 3 then r.row + 1 else r.row) ∧ q.group = (if r.group = 3 then 0 else r.group + 1) ∧
          ∀ n < 16, ∀ j < 16, nth (nth q.e n []) j 0#32 = (if n = 0 then BitVec.ofNat 32 (bytesAt (fun y => c.tc.read y) (0x4000 * m.tile + 256 * q.row + 4 * (16 * q.group + j)) 4) else 0#32) ∧
            nth (nth q.pois n []) j true = (decide (n = 0) && c.tcPoison.contains ((0x4000 * m.tile + 256 * q.row + 4 * (16 * q.group + j)) / 32)))))

/-- R19 to R24, R28, R343 to R349, R364, R365: a walker takes a record and raises HEAD; a well-formed node that it reads acts as its kind says and counts as a step: a
launch hands its grid to the dispatchers of its dies, a condition chooses the next node, a fork takes its versions and starts their grids, a resolve-wait goes on when the
count has moved, and at its limit the versions of the fork are squashed; the end, and the step beyond the limit, end the invocation. The completion of the last grid of a
node lets the invocation go on. -/
def Obligations.WalkersRunTheirGraphs : Prop :=
  (∀ (s s1 : State) (q : Nat) (v : Invocation) (ws : List W64), s.invs.find q = some v →
    let n := natOfWords ws
    let asid := (s.queue q).asid
    let s2 := s1.served q
    let v' : Invocation := { v with nodes := if v.node = 0 then field n 4 4 else v.nodes, steps := v.steps + 1, reads := [] }
    let word (a b : State) (as_ : Nat) (va x : W64) : Prop := a.stepRead q as_ (va &&& ~~~7#64) 1 = (b, .words [x])
    let half (va x : W64) : Nat := if va.toNat / 4 % 2 = 1 then x.toNat / 2 ^ 32 else x.toNat % 2 ^ 32
    let next := field n 16 4
    let stands (t : State) (x : Invocation) : Prop := t.invs.find q = some x
    v.st = .atNode → s.walkerMay q = true →
    (2 ^ 20 ≤ v.steps → v.done = 0 → v.interrupt = false → ∃ t, exec (.nodeStepLimit q) s = .next t ∧ t.invs.find q = none ∧ t.mem = s.mem ∧ t.cores = s.cores) ∧
    (v.steps < 2 ^ 20 → exec (.nodeStepLimit q) s = .next s) ∧
    (v.steps < 2 ^ 20 → s.stepRead q asid (BitVec.ofNat 64 (v.graph + 64 * v.node)) 8 = (s1, .words ws) → nodeOk v n = true →
      (field n 0 1 = 1 → ∀ s3 s4 s5 s6 rs g b w, s2.stepRead q asid (fieldAddr n 8) 24 = (s3, .words rs) →
        let r := natOfWords rs
        let own := field r 0x79 1
        recordOk r = true → word s3 s4 own (fieldAddr r 0x28) g → word s4 s5 own (fieldAddr r 0x30) b → word s5 s6 own (fieldAddr r 0x38) w →
        let l := launchOf r v.args (half (fieldAddr r 0x28) g) (half (fieldAddr r 0x30) b) (half (fieldAddr r 0x38) w)
        let dies := (List.range 12).filter fun d => l.dieMask.getLsbD d
        let count := if l.warps = 0 then 0 else dies.length * l.gangs * (if l.redundant = true then 2 * l.blocks else l.blocks)
        (l.redundant = true → l.gangs ≤ 8) →
        ∃ t, exec (.launchNode q) s = .next t ∧ stands t { v' with st := .waitGrids [s6.nextGrid], next := next } ∧ t.nextGrid = s6.nextGrid + 1 ∧
          t.grids.find s6.nextGrid = some { queue := q, launch := l, vid := 0, dies := dies, remaining := count, cores := [] } ∧
          (0 < count → ∀ i < dies.length, (t.die (nth dies i 0)).disp.spans = (s6.die (nth dies i 0)).disp.spans ++
            [{ grid := s6.nextGrid, queue := q, index := i, next := 0, since := s6.fabric, reserved := [], reported := false }])) ∧
      (field n 0 1 = 2 → ∀ s3 w, word s2 s3 asid (fieldAddr n 8) w →
        ∃ t, exec (.conditionalNode q) s = .next t ∧ stands t { v' with node := if half (fieldAddr n 8) w ≠ 0 then next else field n 20 4 }) ∧
      (field n 0 1 = 3 → ∀ s3 w, word s2 s3 asid (fieldAddr n 8) w →
        let i := (v.iters.find v.node).getD 0
        let again : Prop := half (fieldAddr n 8) w ≠ 0 ∧ i < field n 24 2
        (again → ∃ t, exec (.whileNode q) s = .next t ∧ stands t { v' with node := next, iters := v.iters.put v.node (i + 1) }) ∧
        (¬ again → ∃ t, exec (.whileNode q) s = .next t ∧ stands t { v' with node := field n 20 4, iters := v.iters.put v.node 0 })) ∧
      (field n 0 1 = 4 → ∀ s3 s4 s5 s6 s7 rs g b w f, s2.stepRead q asid (fieldAddr n 8) 24 = (s3, .words rs) →
        let r := natOfWords rs
        let own := field r 0x79 1
        recordOk r = true → word s3 s4 own (fieldAddr r 0x28) g → word s4 s5 own (fieldAddr r 0x30) b → word s5 s6 own (fieldAddr r 0x38) w →
        let l := launchOf r v.args (half (fieldAddr r 0x28) g) (half (fieldAddr r 0x30) b) (half (fieldAddr r 0x38) w)
        l.redundant = false → word s6 s7 asid (fieldAddr n 24) f →
        let parent := field n 42 1
        let e := (s7.domain l.domain).entry parent
        let most := min (half (fieldAddr n 24) f) (field n 40 1)
        let width := if field n 41 1 = 1 then min most (16 - e.depth) else if e.depth = 16 then 0 else most
        (parent = 0 ∨ (e.st = .live ∧ e.isPair = false)) →
        let x : Invocation := { v' with next := next, forkDomain := v.forkDomain.put l.domain (s7.domain l.domain).resolveCount, forkVids := v.forkVids.put l.domain [] }
        let asks (y : Invocation) : Invocation := { y with st := .waitVids width parent (decide (field n 41 1 = 1)) l (field n 32 8) l.params }
        ∃ t, exec (.forkNode q) s = .next t ∧ (s7.coordinator l.domain = none → width = 0 → stands t { x with node := next }) ∧
          (s7.coordinator l.domain = none → width ≠ 0 → stands t (asks x)) ∧
          (s7.coordinator l.domain ≠ none → stands t (asks { x with forkDomain := v.forkDomain.del l.domain }))) ∧
      (field n 0 1 = 5 → ∀ d count, d = field n 8 1 →
        let moved : Prop := (s1.domain d).resolveCount ≠ count ∧ (s1.coordinator d ≠ none → ((s1.domain d).resolveCount - count).toNat < 2 ^ 31)
        (v.forkDomain.find d = none ∨ (v.forkDomain.find d = some count ∧ moved) →
          ∃ t, exec (.resolveWaitNode q) s = .next t ∧ stands t { v' with node := next }) ∧
        (v.forkDomain.find d = some count → ¬ moved →
          ∃ t, exec (.resolveWaitNode q) s = .next t ∧ stands t { v' with st := .waitResolve d s1.fabric (field n 24 8), next := next })) ∧
      (field n 0 1 = 6 →
        (v.done = 0 → ∃ t, exec (.endNode q) s = .next t ∧ t.invs.find q = none ∧ t.queues = s1.queues ∧
          t.host.out = s1.host.out ++ (if v.interrupt = true ∧ s1.stopped = false then [.msix (s1.queue q).vf (1 + q % 63)] else [])) ∧
        (∀ s3 e, let u := (s2.toNode q v' v.node).writeBackFar
          let pa := e.phys (vaNat (BitVec.ofNat 64 v.done))
          v.done ≠ 0 → 8 ∣ v.done → v.interrupt = false → u.host.writes = [] → u.ualink.out = [] → u.walk (q / 1536) asid (BitVec.ofNat 64 v.done) .write = (s3, .resident e) →
          isHbm pa = true → s3.easyLine pa 2 →
          ∃ t, exec (.endNode q) s = .next t ∧ t.invs.find q = none ∧
            bytesAt t.committedByte pa 8 = 2 ^ 32 * v.tag.toNat + 2 ^ 24 * (v.status % 2 ^ 8) + v.node % 2 ^ 24)))) ∧
  (∀ (s : State) (q : Nat) (v : Invocation), s.invs.find q = some v →
    let d := v.forkDomain
    (∀ dom count parent chain (l : Launch) stride params, v.st = .waitVids count parent chain l stride params → l.domain = dom → (s.domain dom).members = 0#32 →
      let vids := (s.domain dom).lowestFree count
      (vids.length = count → 0 < count →
        ∃ t gs, exec (.forkVidsTaken q) s = .next t ∧ gs.length = count ∧ t.invs.find q = some { v with st := .waitGrids gs, forkVids := v.forkVids.put dom vids } ∧
          (∀ u ∈ vids, ((t.domain dom).entry u).st = .live) ∧ (∀ u, u ∉ vids → (t.domain dom).entry u = (s.domain dom).entry u) ∧
          ∀ i < count, ∃ g, t.grids.find (nth gs i 0) = some g ∧ g.vid = nth vids i 0 ∧ g.queue = q ∧ g.launch = { l with params := params + BitVec.ofNat 64 (i * stride) }) ∧
      (vids.length < count → exec (.forkVidsTaken q) s = .next s)) ∧
    (∀ dom start limit, v.st = .waitResolve dom start limit →
      let was : W32 := (d.find dom).getD 0#32
      let moved : Prop := (s.domain dom).resolveCount ≠ was ∧ (s.coordinator dom ≠ none → ((s.domain dom).resolveCount - was).toNat < 2 ^ 31)
      (moved → ∃ t, exec (.resolveWaitNode q) s = .next t ∧ ({ t with invs := s.invs } : State) = s ∧ t.invs.find q = some { v with st := .atNode, node := v.next }) ∧
      (¬ moved → exec (.resolveWaitNode q) s = .next s) ∧
      (¬ moved → limit ≠ 0 → start + limit ≤ s.fabric →
        let vids := (v.forkVids.find dom).getD []
        ∃ t rs, exec (.resolveWaitTimeout q) s = .next t ∧ t.resolves = s.resolves ++ rs ∧
          t.invs.find q = some { v with st := .waitSquash dom, status := if v.status = 0 then 5 else v.status } ∧
          (∀ u, (∃ r ∈ rs, r.target = u) ↔ u ∈ vids ∧ ((s.domain dom).entry u).st = .live ∧ ((s.domain dom).entry u).parent ∉ vids) ∧
          ∀ r ∈ rs, r.source = .walker q ∧ r.domain = dom ∧ r.squash = true ∧ r.status = none) ∧
      (moved ∨ limit = 0 ∨ s.fabric < start + limit → exec (.resolveWaitTimeout q) s = .next s)) ∧
    (∀ dom, v.st = .waitSquash dom → (∀ r ∈ s.resolves, r.source ≠ .walker q) →
      ∃ t, exec (.resolveWaitNode q) s = .next t ∧ t.invs.find q = some { v with st := .atNode, node := v.next }) ∧
    (∀ asid page s1 e, v.st = .waitPage asid page false → s.walk (q / 1536) asid (BitVec.ofNat 64 (page * 2 ^ 16)) .read = (s1, .resident e) →
      ∃ t, exec (.walkerReadRetry q) s = .next t ∧ t.invs.find q = some { v with st := .atNode })) ∧
  (∀ (s s1 : State) (q : Nat) (ws : List W64), s.invs.find q = none → (s.queue q).enable = true → (s.queue q).head ≠ (s.queue q).tail →
    let Q := s.queue q
    let r := natOfWords ws
    s.dropFar.walkerRead (q / 1536) Q.asid (BitVec.ofNat 64 (Q.base + 64 * (Q.head.toNat % 2 ^ Q.logn))) 8 = (s1, .words ws) →
    field r 0x1C 2 < 2 → field r 0x1E 34 = 0 → field r 0 8 % 64 = 0 →
    ∃ t, exec (.walkerTakeRecord q) s = .next t ∧ t.queue q = { Q with head := Q.head + 1#32 } ∧ (∀ j, j ≠ q → t.queue j = s.queue j) ∧
      t.invs.find q = some { queue := q, record := Q.head.toNat, graph := field r 0 8, args := fieldAddr r 8, done := field r 16 8, tag := BitVec.ofNat 32 (field r 0x18 4), interrupt := decide (field r 0x1C 2 = 1), node := 0, nodes := 0, next := 0, steps := 0, status := 0, iters := [], forkDomain := [], forkVids := [], reads := [], st := .atNode }) ∧
  (∀ (s : State) (grid : Nat) (g : Grid), s.grids.find grid = some g → (s.halts.find grid) = none → ((s.domain g.launch.domain).entry g.vid).st ≠ .broke → g.launch.redundant = false →
    let out : Prop := ∃ k ∈ g.cores, ∃ a < 19, s.updatesOut k a = true
    (g.remaining = 0 → ¬ out →
      ∃ t, exec (.gridComplete grid) s = .next t ∧ t.grids.find grid = none ∧ t.cores = s.cores ∧ t.dies = s.dies ∧ t.mem = s.mem ∧
        ∀ v gs, s.invs.find g.queue = some v → v.st = .waitGrids gs →
          t.invs.find g.queue = some (if ∀ x ∈ gs, x = grid then { v with st := .atNode, node := v.next } else { v with st := .waitGrids (gs.filter fun x => x != grid) })) ∧
    (g.remaining ≠ 0 ∨ out → exec (.gridComplete grid) s = .next s))

/-- R25 to R27, R30, R52, R74, R201, R212, R252, R263, R264, R350 to R355, R356, R357 to R360, R386, R404: a dispatcher places the next gang of the only span that waits, on
the cluster that fits it best; an old candidate reserves a cluster; the grid with the token is placed whole. A block runs once it is cleared, a port begins the run of the
ready warp that comes first, held traps and link events are taken at the warp's next issue, run-ahead begins at a wait for a miss and is undone at its end, the access
processor goes on once its page is there. A block whose warps all wait for each other, or whose budget is used, is killed; one that has ended leaves its core. -/
def Obligations.BlocksArePlacedRunAndEnd : Prop :=
  (∀ (s : State) (die : Nat) (sp : Span) (g : Grid), die < 12 → (s.die die).disp.spans = [sp] → s.grids.find sp.grid = some g → s.halts.find sp.grid = none →
    ((s.domain g.launch.domain).entry g.vid).st ≠ .broke → g.launch.redundant = false → (s.queue sp.queue).quantum ≠ 0 →
    let l := g.launch
    let free (cl : Nat) : List Nat := s.freeCores die cl
    let starts (t : State) (n k b : Nat) : Prop := ∃ x, t.core? k = some x ∧ x.grid = sp.grid ∧ x.queue = sp.queue ∧ x.span = sp.index ∧ x.gang = n ∧ x.block = b ∧ x.vid = g.vid ∧
      x.phase = .clearing ∧ { x.launch with budget := l.budget } = l ∧
      x.launch.budget = (if (s.queue sp.queue).budgetCap = 0 then l.budget else min l.budget (s.queue sp.queue).budgetCap)
    (∀ cl < 16, s.token = [] → l.coresident = false → sp.reserved = [] → s.fabric < sp.since + (s.die die).disp.age → (s.queue sp.queue).draft = false → (s.queue sp.queue).prio < 8 →
      (s.die die).disp.next ≤ s.fabric → 0 < ((s.die die).disp.defs.find sp.queue).getD 0 + (s.queue sp.queue).quantum →
      l.blocks ≤ (free cl).length → (∀ c < 16, l.blocks ≤ (free c).length → (free cl).length < (free c).length ∨ ((free cl).length = (free c).length ∧ cl ≤ c)) →
      ∃ t, exec (.dispatchDecision die) s = .next t ∧ (∀ b < l.blocks, starts t sp.next (nth (free cl) b 0) b) ∧
        (∀ k, (∀ b < l.blocks, nth (free cl) b 0 ≠ k) → t.core? k = s.core? k) ∧
        (t.die die).disp.spans = (if l.gangs ≤ sp.next + 1 then [] else [{ sp with next := sp.next + 1, since := s.fabric }])) ∧
    (s.fabric < (s.die die).disp.next → exec (.dispatchDecision die) s = .next s) ∧
    (∀ cl < 16, l.coresident = false → sp.reserved = [] → sp.since + (s.die die).disp.age ≤ s.fabric →
      (∀ c < 16, (free c).length < (free cl).length ∨ ((free c).length = (free cl).length ∧ cl ≤ c)) →
      ∃ t, exec (.gangAged die sp.grid) s = .next t ∧ (t.die die).disp.spans = [{ sp with reserved := [cl] }] ∧ t.cores = s.cores ∧
        s.sameDie t die fun d => { d with disp := { d.disp with spans := [] } }) ∧
    (∀ rest plan, s.token = sp.grid :: rest → g.dies = [die] → sp.next = 0 → sp.reported = true → 0 < l.gangs → s.spanPlan die sp = some plan →
      ∃ t, exec .coresidentPlacement s = .next t ∧ t.token = rest ∧ (t.die die).disp.spans = [] ∧ (t.die die).disp.next = s.fabric + 1 ∧
        (∀ n < l.gangs, ∀ b < l.blocks, ∃ k, starts t n k b) ∧ ((s.die die).disp.next ≤ s.fabric → exec (.dispatchDecision die) s = .next t))) ∧
  (∀ (s : State) (k : Nat) (c : Core), s.core? k = some c → k / 128 < 12 →
    let others (t : State) : Prop := ∀ j, j ≠ k → t.core? j = s.core? j
    let killed (t : State) (code detail : W8) : Prop := (∃ x, t.core? k = some x ∧ x.phase = .killed ∧ x.thr = c.thr ∧ ∀ p ∈ x.ports, p.run = none) ∧
      ∃ r, (t.die (k / 128)).errlog.getLast? = some r ∧ r.code = code ∧ r.detail = detail ∧ r.core = BitVec.ofNat 8 (k % 128) ∧ r.vid = BitVec.ofNat 8 c.vid
    let noFragment : Prop := ∀ f ∈ c.frags, f.valid = false
    let quietRing : Prop := (s.domain c.launch.domain).egress.reservations = []
    (c.phase = .clearing → ∃ t, exec (.clearingDone k) s = .next t ∧ t.core? k = some { c with phase := .running } ∧ t.now = max s.now c.clearedAt ∧
      ({ t with cores := s.cores, now := s.now } : State) = s ∧ others t) ∧
    (c.phase ≠ .clearing → exec (.clearingDone k) s = .next s) ∧
    (∀ port < 4, c.phase = .running → (c.portOf port).run = none → c.joinDue = none →
      let able := s.portReady k port c
      able ≠ [] → ∀ first, (∃ x ∈ able, (c.thread x).nextAt = first) → (∀ x ∈ able, first ≤ (c.thread x).nextAt) →
        let now := max s.now first
        let ready := able.filter fun x => decide ((c.thread x).nextAt ≤ now)
        let since (x : Nat) : Nat := max (c.thread x).readyAt (c.thread x).nextAt
        let before (x y : Nat) : Prop := c.rankOf ready x < c.rankOf ready y ∨ (c.rankOf ready x = c.rankOf ready y ∧ (since x < since y ∨ (since x = since y ∧ x < y)))
        ∃ t x y w, exec (.portArbitration k port) s = .next t ∧ x ∈ ready ∧ (∀ z ∈ ready, z ≠ x → before x z) ∧ t.now = now ∧ t.core? k = some y ∧
          (y.portOf port).run = some (x, w) ∧ (y.portOf port).count = 0 ∧ s.mayIssue k x c w = true ∧ (s.mayIssue k x c .a = true → s.mayIssue k x c .b = true → w ≠ (c.thread x).lastSlot) ∧
          (y.thread x).lastSlot = w ∧ (∀ z < 16, (y.thread z).hint = if z % 4 = port then .neutral else (c.thread z).hint) ∧
          (∀ z, z % 4 = port → z < 16 → (y.thread z).passed = if z ≠ x ∧ z ∈ ready then (c.thread z).passed + 1 else 0) ∧ others t) ∧
    (∀ a w at_, a < 16 → s.nextIssuer k a = some (w, at_) →
      let th := c.thread a
      let sl := th.slot w
      let enters (t : State) (code detail : W8) (resume : Bool) (pc : W64) (mask : W32) : Prop :=
        let u := t.thread k a
        u.trapCause = BitVec.ofNat 32 (code.toNat + 256 * detail.toNat + 65536 * resume.toNat + (if w = .b then 262144 else 0)) ∧ u.trapPc = pc ∧ u.trapMask = mask ∧ u.handler = some w ∧
          u.slot w = { sl with st := .live, pc := ((c.launch.code + c.launch.trapEntry.setWidth 64) &&& 0xFFFFFFFFFFFFFFF0#64) + 4#64 } ∧
          u.v = th.v ∧ u.s = th.s ∧ u.p = th.p ∧ t.now = at_
      (sl.ra = none ∨ sl.st ≠ .live) → c.squashed = false → th.handler = none → th.ahead = none → c.launch.trapEntry ≠ 0xFFFFFFFF#32 →
      (∀ x rest, th.deferred = x :: rest → x.code ≠ 0x0A#8 →
        ∃ t, exec (.warpTrapEntry k a) s = .next t ∧ enters t x.code x.detail x.resume x.pc (if x.mask = 0#32 then sl.mask else x.mask) ∧ (t.thread k a).deferred = rest) ∧
      (∀ d rest, th.linkEvents = d :: rest →
        ∃ t, exec (.linkwatchTrap k a) s = .next t ∧ enters t 0x50#8 d true sl.pc sl.mask ∧ (t.thread k a).linkEvents = rest)) ∧
    (let waits (sl : Slot) : Prop := sl.st = .waiting .rclaim ∨ (∃ b, sl.st = .waiting (.bar b)) ∨ ∃ b, sl.st = .waiting (.barwait b)
      let stuck (th : Thread) : Prop := (th.slotA.st = .empty ∨ waits th.slotA) ∧ (th.slotB.st = .empty ∨ waits th.slotB) ∧ (waits th.slotA ∨ waits th.slotB) ∧
        ∀ f ∈ th.stack, (∃ p m r i, f = .path p m r i) → waits th.slotA ∧ waits th.slotB
      c.phase = .running → (∃ w < c.launch.warps, (c.thread w).ended = false) → (∀ w < c.launch.warps, (c.thread w).ended = true ∨ stuck (c.thread w)) → noFragment →
      c.grantable = false → (∀ b ∈ c.bars, (c.settledBar b).complete = false) →
      ∃ t, exec (.barrierDead k) s = .next t ∧
        killed t 0x31#8 (if ∃ w < c.launch.warps, (c.thread w).slotA.st = .waiting .rclaim ∨ (c.thread w).slotB.st = .waiting .rclaim then 1#8 else 0#8)) ∧
    (∀ t0, c.firstIssue = some t0 → c.acts = true → t0 + c.launch.budget ≤ s.now → ∃ t, exec (.budgetExceeded k) s = .next t ∧ killed t 0x30#8 0#8) ∧
    (∀ t0, c.firstIssue = some t0 → s.now < t0 + c.launch.budget → exec (.budgetExceeded k) s = .next s) ∧
    (let ended : Prop := c.acts = true ∧ (∀ th ∈ c.thr, th.ended = true ∧ ∀ x ∈ th.inflight, x.done = true) ∧ noFragment ∧ c.enginesDone = true
      let overrun : Prop := c.acts = true ∧ ∃ t0, c.firstIssue = some t0 ∧ t0 + c.launch.budget ≤ s.now
      let leaves (t : State) : Prop := t.core? k = none ∧ others t ∧ ∀ g, s.grids.find c.grid = some g → t.grids.find c.grid = some { g with remaining := g.remaining - 1 }
      (ended → ¬ overrun → c.launch.redundant = false → quietRing → ∃ t, exec (.blockComplete k) s = .next t ∧ leaves t) ∧
      (ended → ¬ overrun → c.launch.redundant = true → quietRing → ∃ t, exec (.blockComplete k) s = .next t ∧ t.core? k = some { c with phase := .completed, stopAt := some s.now } ∧ others t) ∧
      (overrun → ∃ t, exec (.blockComplete k) s = .next t ∧ killed t 0x30#8 0#8) ∧
      (¬ ended → ¬ overrun → exec (.blockComplete k) s = .next s) ∧
      (c.phase = .killed ∨ c.phase = .halted → c.enginesDone = true → c.requestsDone = true → c.launch.redundant = false → s.recordDue k c = false → s.writesOnWay k = false → quietRing →
        ∃ t, exec (.blockRelease k) s = .next t ∧ leaves t) ∧
      (c.acts = true → c.stopped = false → exec (.blockRelease k) s = .next s)) ∧
    (∀ a < 16, let th := c.thread a
      (∀ s1 n mine tpc, c.phase = .running → c.launch.ahead = true → th.inhibit = false → th.ahead = none → th.handler = none → SlotId.a ∉ th.aheadDone →
        s.aheadWait k a .a = (s1, some (n, mine, tpc)) → s1.thread k a = th → (∃ x ∈ th.holding .gl n, x.missing = true) →
        ∃ t h, exec (.runaheadEnter k a) s = .next t ∧ (t.thread k a).ahead = some h ∧ h.slot = .a ∧ h.saved = th.slotA ∧ h.v = th.v ∧ h.s = th.s ∧ h.p = th.p ∧ h.loops = th.loops ∧
          h.buffer = [] ∧ h.issued = 0 ∧ (∀ r ∈ mine, r ∈ h.unknown) ∧ (t.thread k a).slotA = { th.slotA with st := .live, pc := (th.loopNext tpc).1 } ∧
          (t.thread k a).v = th.v ∧ (t.thread k a).s = th.s ∧ (t.thread k a).p = th.p ∧ ∀ j, j ≠ k → t.core? j = s1.core? j) ∧
      (∀ h, th.ahead = some h → 64 ≤ h.issued →
        ∃ t, exec (.runaheadExit k a) s = .next t ∧ (t.thread k a).ahead = none ∧ (t.thread k a).slot h.slot = h.saved ∧ (t.thread k a).v = h.v ∧ (t.thread k a).s = h.s ∧
          (t.thread k a).p = h.p ∧ (t.thread k a).loops = h.loops ∧ h.slot ∈ (t.thread k a).aheadDone ∧ others t)) ∧
    (∀ asid page s1 e, c.acts = true → (c.thread apAgent).slotA.st = .waiting (.page asid page) → s.walk (k / 128) asid (BitVec.ofNat 64 (page * 2 ^ 16)) .read = (s1, .resident e) →
      ∃ t, exec (.apAccessResume k) s = .next t ∧ (t.thread k apAgent).slotA = { (c.thread apAgent).slotA with st := .live }))

/-- R47, R223, R278 to R281, R327 to R332, R335, R337: a request whose turn has come is performed at a home slice of its own die, or leaves as a causal message stamped with
the next number of its die; a write that arrives is performed there and raises the sender's entry; an answer is used once the die's clock covers it. An update enters a
guest line, an invalidation drops it, a message enters its receive register. Clock notices, requests and acknowledgements are sent and applied. -/
def Obligations.TrafficIsCarriedInOrder : Prop :=
  (∀ (s : State) (k a i j : Nat) (c : Core) (x : Access) (r : LineReq), s.core? k = some c → a ≤ apAgent → i < 256 → (c.thread a).inflight[i]? = some x → x.reqs[j]? = some r →
    let pa := 128 * r.line
    let h := homeDie pa
    let now (t : State) (q : LineReq) : Prop := ∃ y, (t.thread k a).inflight[i]? = some y ∧ y.reqs[j]? = some q
    let ran := runElems (fun e => e.byte) r.elems (fun z => s.committedByte (pa + z))
    let simple : Prop := isHbm pa = true ∧ s.easyLine pa 3 ∧ (s.die h).holdsBack h = false ∧ r.vid = 0 ∧ r.versioned = false ∧ ∀ e ∈ r.elems, e.fits
    let writes : Prop := writesOf r.elems ≠ 0#128
    (r.st = .pending → x.stuck = false → c.turn a i r = true →
      (writes → h = r.die → simple →
        ∃ t q, exec (.sliceRequest k a (i + 256 * j)) s = .next t ∧ now t q ∧ (q.st = .answered ∨ x.kind.returns = true ∧ ∃ v, q.st = .replied h v) ∧
          ∀ z < 128, t.committedByte (pa + z) = ran.2 z) ∧
      (writes → h ≠ r.die → s.stopped = false → (s.die r.die).holdsBack r.die = false → s.fillInFlight r.die r.line = [] →
        ∃ t q f m, exec (.sliceRequest k a (i + 256 * j)) s = .next t ∧ now t q ∧ q.st = .sent ∧ q.elems = r.elems ∧ t.flits = s.flits ++ [f] ∧ f.body = .msg m ∧ m.src = r.die ∧
          m.dst = h ∧ m.body = .write r ∧ m.seq = (nth (s.die r.die).clock r.die 0#32 + 1#32).toNat ∧ f.cls = r.cls ∧ f.dDie = h ∧ f.dLeaf = 32 + sliceOf pa ∧ f.sDie = r.die ∧ t.mem = s.mem) ∧
      (writes → h ≠ r.die → s.fillInFlight r.die r.line ≠ [] → exec (.sliceRequest k a (i + 256 * j)) s = .next s) ∧
      (¬ writes → (∀ e ∈ r.elems, e.op = .read) → x.mode ≠ .ro → h = r.die → simple →
        ∃ t q, exec (.sliceRequest k a (i + 256 * j)) s = .next t ∧ now t q ∧ (q.st = .answered ∨ ∃ v, q.st = .replied h v) ∧ q.elems.map (fun e => e.got.toNat) = ran.1 ∧
          ∀ z, t.committedByte z = s.committedByte z)) ∧
    (∀ v, r.st = .replied h v →
      (s.replyReady r.die h v = true → (s.die r.die).holdsBack r.die = false → ∃ t, exec (.sliceReplyDeliver k a (i + 256 * j)) s = .next t ∧ now t { r with st := .answered }) ∧
      (s.replyReady r.die h v = false → exec (.sliceReplyDeliver k a (i + 256 * j)) s = .next s)) ∧
    (r.st = .answered ∨ x.stuck = true → exec (.sliceRequest k a (i + 256 * j)) s = .next s)) ∧
  (∀ (s : State) (die idx : Nat) (m : Msg), die < 12 → (s.die die).inbox[idx]? = some m → m.src < 12 → m.src ≠ die →
    let taken (t : State) : Prop := (t.die die).inbox = (s.die die).inbox.take idx ++ (s.die die).inbox.drop (idx + 1)
    let raised (t : State) : Prop := (s.die die).clock.length = 12 → clockAtLeast (nth (t.die die).clock m.src 0#32) (nth m.stamp m.src 0#32) = true
    (∀ r, m.body = .write r →
      let pa := 128 * r.line
      let ran := runElems (fun e => e.byte) r.elems (fun z => s.committedByte (pa + z))
      (s.deliverable m = true → homeDie pa = die → isHbm pa = true → s.easyLine pa 3 → (s.die die).holdsBack die = false → r.vid = 0 → r.versioned = false → writesOf r.elems ≠ 0#128 →
        (∀ e ∈ r.elems, e.fits) →
        ∃ t, exec (.remoteWriteApply die idx) s = .next t ∧ taken t ∧ raised t ∧ (∀ z < 128, t.committedByte (pa + z) = ran.2 z) ∧
          ∀ (k a tag i j : Nat) (c : Core) (x : Access) (q : LineReq), r.owner = .access k a tag → s.core? k = some c → (c.thread a).inflight[i]? = some x → x.tag = tag → x.reqs[j]? = some q → q.line = r.line → q.st = .sent →
            q.places = r.places → ∃ y p v, (t.thread k a).inflight[i]? = some y ∧ y.reqs[j]? = some p ∧ p.st = .replied die v) ∧
      (s.deliverable m = false → exec (.remoteWriteApply die idx) s = .next s)) ∧
    (∀ line sectors data poison core agent, m.body = .update line sectors data poison core agent →
      let slice := sliceOf (line * 128)
      (s.deliverable m = true → s.fillFirst die line m = false → ((s.slice die slice).ways.map Prod.fst).Nodup →
        (∀ key w, (s.slice die slice).guestLine (setOf (line * 128)) line = some (key, w) →
          ∃ t u, exec (.guestUpdateApply die idx) s = .next t ∧ taken t ∧ raised t ∧ (t.slice die slice).ways.find key = some u ∧ u.kind = .guest ∧ u.line = line ∧ u.present = w.present ∧
            (∀ z < 128, u.data.extractLsb' (8 * z) 8 = if sectors.getLsbD (z / 32) ∧ w.present.getLsbD (z / 32) then data.extractLsb' (8 * z) 8 else w.data.extractLsb' (8 * z) 8) ∧
            ∀ z < 4, u.poison.getLsbD z = if sectors.getLsbD z ∧ w.present.getLsbD z then poison.getLsbD z else w.poison.getLsbD z) ∧
        ((s.slice die slice).guestLine (setOf (line * 128)) line = none →
          ∃ t, exec (.guestUpdateApply die idx) s = .next t ∧ taken t ∧ raised t ∧ (t.die die).slices = (s.die die).slices)) ∧
      (s.deliverable m = false ∨ s.fillFirst die line m = true → exec (.guestUpdateApply die idx) s = .next s)) ∧
    (∀ line marks key w, m.body = .invalidate line marks → s.deliverable m = true → s.fillFirst die line m = false →
      (s.slice die (sliceOf (line * 128))).guestLine (setOf (line * 128)) line = some (key, w) →
      ∃ t, exec (.guestInvalidationApply die idx) s = .next t ∧ taken t ∧ raised t ∧ (t.slice die (sliceOf (line * 128))).ways.find key = none) ∧
    (∀ n, m.body = .notice n →
      let old := nth (s.die die).clock m.src 0#32
      (s.noticeReady m.src die n = true → (s.die die).clock.length = 12 →
        ∃ t, exec (.clockNoticeApply die idx) s = .next t ∧ taken t ∧ nth (t.die die).clock m.src 0#32 = (if clockAtLeast n old then n else old) ∧
          (∀ k, k ≠ m.src → nth (t.die die).clock k 0#32 = nth (s.die die).clock k 0#32) ∧ s.sameDie t die fun d => { d with inbox := [], clock := [] }) ∧
      (s.noticeReady m.src die n = false → exec (.clockNoticeApply die idx) s = .next s)) ∧
    (m.body = .askNotice → s.stopped = false →
      ∃ t fs, exec (.clockNoticeApply die idx) s = .next t ∧ taken t ∧ t.flits = s.flits ++ fs ∧ (t.die die).sinceNotice = false ∧
        ∀ e < 12, e ≠ die → ∃ f ∈ fs, ∃ n, f.body = .msg n ∧ n.src = die ∧ n.dst = e ∧ n.body = .notice (nth (s.die die).clock die 0#32)) ∧
    (∀ v, m.body = .ackRequest v → s.stopped = false → (s.die die).ackReqs = [] →
      let short := (List.range 12).filter fun k => decide (k ≠ die) && !clockAtLeast (nth (s.die die).clock k 0#32) (nth v k 0#32)
      (short = [] → ∃ t f n, exec (.clockAckRequest die idx) s = .next t ∧ taken t ∧ (t.die die).ackReqs = [] ∧ t.flits = s.flits ++ [f] ∧ f.body = .msg n ∧ n.src = die ∧ n.dst = m.src ∧
        n.body = .ack die v (nth (s.die die).clock m.src 0#32)) ∧
      (short ≠ [] → ∃ t fs, exec (.clockAckRequest die idx) s = .next t ∧ taken t ∧ (t.die die).ackReqs = [{ fromDie := m.src, stamp := v }] ∧ t.flits = s.flits ++ fs ∧ fs.length = short.length ∧
        ∀ k ∈ short, ∃ f ∈ fs, ∃ n, f.body = .msg n ∧ n.src = die ∧ n.dst = k ∧ n.body = .askNotice)) ∧
    (∀ e v n, m.body = .ack e v n → ∃ t, exec (.clockAck die idx) s = .next t ∧ taken t ∧ (e, v) ∈ (t.die die).acked ∧ ∀ x ∈ (s.die die).acked, x ∈ (t.die die).acked)) ∧
  (∀ (s : State) (die : Nat), die < 12 →
    ((s.die die).sinceNotice = true → s.stopped = false →
      ∃ t fs, exec (.clockNoticeTimer die) s = .next t ∧ t.flits = s.flits ++ fs ∧ (t.die die).sinceNotice = false ∧
        ∀ e < 12, e ≠ die → ∃ f ∈ fs, ∃ n, f.body = .msg n ∧ n.src = die ∧ n.dst = e ∧ n.body = .notice (nth (s.die die).clock die 0#32)) ∧
    ((s.die die).sinceNotice = false → exec (.clockNoticeTimer die) s = .next s)) ∧
  (∀ (s : State) (idx core queue from_ reg : Nat) (f : Flit) (words : List W32) (c : Core), s.flits[idx]? = some f → f.body = .message words core queue from_ reg →
    f.at_ = .leaf f.dDie f.dLeaf → s.core? core = some c → queue < 4 →
    let ended : Prop := c.phase = .killed ∨ c.phase = .halted ∨ c.phase = .completed
    (s.overtakes idx = false →
      ∃ t u, exec (.messageArrive idx) s = .next t ∧ t.flits = s.flits.take idx ++ s.flits.drop (idx + 1) ∧ t.core? core = some u ∧
        (u.recv queue).messages = (if ended then (c.recv queue).messages else (c.recv queue).messages ++ [words]) ∧ (u.recv queue).promised = (c.recv queue).promised - 1 ∧
        (∀ q, q ≠ queue → u.recv q = c.recv q) ∧ u.thr = c.thr ∧ ∀ j, j ≠ core → t.core? j = s.core? j) ∧
    (s.overtakes idx = true → exec (.messageArrive idx) s = .next s))

/-- R377, R380, R410 to R422: a flit climbs only as far as it must, comes down where its destination fixes, and is sent on a module of the bundle that its route takes; the
bridges deliver the messages of each die in order; a module delivers flits with a good CRC, discards the others until their replay, counts what it sends again, retrains after
16 attempts and then takes the first step of the ladder that applies, which is reported and told to the warps that watch; a drained bundle takes its new mapping. -/
def Obligations.FlitsHopAndModulesRecover : Prop :=
  (∀ (s : State) (idx : Nat) (f : Flit), s.flits[idx]? = some f →
    let edge (l : Nat) : Nat := if l < 32 then l / 2 else if l < 96 then (l - 32) / 4 else 2 * (l - 96)
    let aim (d : Nat) : Nat := s.leafFor f d
    let moved (t : State) (p : Place) : Prop := ({ t with flits := s.flits, free := s.free } : State) = s ∧ t.flits.length = s.flits.length ∧ t.flits[idx]? = some { f with at_ := p } ∧
      ∀ j, j ≠ idx → t.flits[j]? = s.flits[j]?
    let goes (p : Place) : Prop := ∃ t, exec (.networkFlitHop idx) s = .next t ∧ moved t p
    (∀ d, f.dDie = d → aim d = f.dLeaf) ∧
    (∀ d l, f.at_ = .leaf d l → f.atBridge = false →
      (l ≠ aim d → goes (.edgeUp d (edge l))) ∧ (l = aim d → f.dDie = d → exec (.networkFlitHop idx) s = .next s) ∧
      (∀ b next dir m, l = aim d → f.dDie ≠ d → s.inTurn idx f d l = true → f.wayOut d = (b, next, dir) → (s.bundle b).moduleOf f = some m → (s.bundle b).draining = false →
        (s.feltModule b m).retraining = none → ∃ order, goes (.felt b m next order) ∧ ∀ g ∈ s.flits, ∀ o, g.at_ = .felt b m next o → o < order)) ∧
    (∀ d e, f.at_ = .edgeUp d e → (edge (aim d) = e → s.inTurn idx f d (aim d) = true → goes (.leaf d (aim d))) ∧ (edge (aim d) ≠ e → ∃ k < 8, goes (.midUp d (8 * (e / 8) + k)))) ∧
    (∀ d m, f.at_ = .midUp d m → (edge (aim d) / 8 = m / 8 → goes (.edgeDown d (edge (aim d)))) ∧ (edge (aim d) / 8 ≠ m / 8 → ∃ k, goes (.top d k))) ∧
    (∀ d x, f.at_ = .top d x → goes (.midDown d (8 * (edge (aim d) / 8) + x))) ∧
    (∀ d x, f.at_ = .midDown d x → goes (.edgeDown d (edge (aim d)))) ∧
    (∀ d x, f.at_ = .edgeDown d x → (s.inTurn idx f d (aim d) = true → goes (.leaf d (aim d))) ∧ (s.inTurn idx f d (aim d) = false → exec (.networkFlitHop idx) s = .next s)) ∧
    (∀ b m d o, f.at_ = .felt b m d o → exec (.networkFlitHop idx) s = .next s)) ∧
  (∀ (s : State) (die src : Nat), die < 12 →
    let candidate (i : Nat) (m : Msg) : Prop := ∃ f, s.flits[i]? = some f ∧ f.body = .msg m ∧ m.src = src ∧ m.dst = die ∧ f.atBridge = true ∧
      ∀ g ∈ s.flits, ∀ n, g.body = .msg n → n.src = src → n.dst = die → n.before m = false
    ((∃ i m, candidate i m) →
      ∃ t i m, exec (.bridgeDeliver die src) s = .next t ∧ candidate i m ∧ t.flits = s.flits.take i ++ s.flits.drop (i + 1) ∧ (t.die die).inbox = (s.die die).inbox ++ [m] ∧
        ({ t with flits := s.flits, dies := s.dies } : State) = s ∧ ∀ j, j ≠ die → t.die j = s.die j) ∧
    ((¬ ∃ i m, candidate i m) → exec (.bridgeDeliver die src) s = .next s)) ∧
  (∀ (s : State) (b m dir : Nat), b < 16 → m < 8 → dir ≤ 1 →
    let x := s.feltModule b m
    let low := if b < 5 then b else if b < 10 then b + 1 else b - 10
    let high := if b < 5 then b + 1 else if b < 10 then b + 2 else b - 4
    let end_ := if dir = 0 then high else low
    let up : Prop := x.retraining = none ∧ x.width ≠ 3
    let n := s.feltOut b m dir
    let taken := nth x.taken dir 0
    let win := if x.winStart + 2 ^ 24 ≤ s.fabric then 0 else x.replayWin
    (n ≠ 0 → up →
      (dir ∉ x.bad → ∃ t, exec (.feltFlitReceive b (m + 8 * dir) true) s = .next t ∧ t.flits.length = s.flits.length ∧
        (∀ (i : Nat) (f : Flit), s.flits[i]? = some f →
          (∀ o, f.at_ = .felt b m end_ o → o + f.bytes ≤ 240 * (taken + 1) → ∃ l, t.flits[i]? = some { f with at_ := .leaf end_ l } ∧ 96 ≤ l ∧ l < 100) ∧
          ((∀ o, f.at_ = .felt b m end_ o → 240 * (taken + 1) < o + f.bytes) → t.flits[i]? = some f)) ∧
        nth (t.feltModule b m).taken dir 0 = taken + 1 ∧ nth (t.feltModule b m).retrans dir 0 = 0 ∧
        s.sameModule { t with flits := s.flits } b m fun y => { y with retrans := [], taken := [] }) ∧
      (∃ t, exec (.feltFlitReceive b (m + 8 * dir) false) s = .next t ∧ dir ∈ (t.feltModule b m).bad ∧ t.flits = s.flits ∧ t.dies = s.dies ∧
        (t.feltModule b m).crcErr = (if (s.die end_).freeze then x.crcErr else min (2 ^ 32 - 1) (x.crcErr + 1)) ∧ s.sameModule t b m fun y => { y with bad := [], crcErr := 0 }) ∧
      (dir ∈ x.bad → exec (.feltFlitReceive b (m + 8 * dir) true) s = .next s)) ∧
    (n = 0 ∨ ¬ up → ∀ good, exec (.feltFlitReceive b (m + 8 * dir) good) s = .next s) ∧
    (dir ∈ x.bad → up → nth x.retrans dir 0 < 16 →
      ∃ t, exec (.feltReplay b (m + 8 * dir)) s = .next t ∧ dir ∉ (t.feltModule b m).bad ∧ nth (t.feltModule b m).retrans dir 0 = nth x.retrans dir 0 + 1 ∧ t.flits = s.flits ∧
        (t.feltModule b m).replays = min (2 ^ 32 - 1) (x.replays + n) ∧ (t.feltModule b m).replayWin = min (2 ^ 16 - 1) (win + n) ∧
        (win < x.replayThr → x.replayThr ≤ win + n → x.replayThr < 2 ^ 16 → x.overThr = false → (t.feltModule b m).overThr = true ∧ ∃ r, (t.die low).errlog.getLast? = some r ∧ r.code = 0x53#8 ∧ r.cls = 1#2)) ∧
    (dir ∉ x.bad ∨ ¬ up → exec (.feltReplay b (m + 8 * dir)) s = .next s) ∧
    (∃ t, exec (.replayWindowExpiry b m) s = .next t ∧ s.sameModule t b m (fun _ => x) ∧ (s.fabric < x.winStart + 2 ^ 24 → t.feltModule b m = x) ∧
      (x.winStart + 2 ^ 24 ≤ s.fabric → ∃ w, t.feltModule b m = { x with replayWin := 0, overThr := false, winStart := w } ∧ 2 ^ 24 ∣ w - x.winStart ∧ w ≤ s.fabric ∧ s.fabric < w + 2 ^ 24)) ∧
    (∀ failing, up → dir ∈ x.bad → 16 ≤ nth x.retrans dir 0 →
      ∃ t, exec (.moduleRetrain b m failing) s = .next t ∧ t.feltModule b m = { x with retraining := some failing } ∧ s.sameModule t b m fun _ => x) ∧
    (∀ failing, x.retraining = some failing →
      let good := 68 - x.retired - failing
      let lanes := match x.width with | 0 => 64 | 1 => 48 | 2 => 32 | _ => 0
      let lost := min 68 (x.retired + failing)
      let takes (t : State) (rate width retired : Nat) (detail : W8) : Prop :=
        t.feltModule b m = { x with rate := rate, width := width, retired := retired, retraining := none, retrans := [0, 0], bad := if width = 3 then [] else x.bad } ∧
          (∃ r, (t.die low).errlog.getLast? = some r ∧ r.code = 0x50#8 ∧ r.detail = detail ∧ r.cls = 1#2) ∧
          (∀ d ∈ [low, high], (t.die d).events = (s.die d).events ++ [(0x50#8, detail)]) ∧
          (∀ k c a, s.core? k = some c → a < c.thr.length → (t.thread k a).linkEvents = if (c.thread a).wctl.getLsbD 1 then (c.thread a).linkEvents ++ [detail] else (c.thread a).linkEvents) ∧
          (width = 3 → (t.bundle b).draining = true ∧ ∀ f ∈ t.flits, ∀ d o, f.at_ ≠ .felt b m d o)
      (lanes ≤ good → x.width ≠ 3 → ∃ t, exec (.retrainComplete b m) s = .next t ∧ takes t x.rate x.width lost 0#8) ∧
      (good < lanes → x.rate ≠ 0 → x.width ≠ 3 → ∃ t, exec (.retrainComplete b m) s = .next t ∧ takes t 0 x.width x.retired 2#8) ∧
      (good < lanes → x.rate = 0 →
        (48 ≤ good → x.width = 0 → ∃ t, exec (.retrainComplete b m) s = .next t ∧ takes t 0 1 lost 1#8) ∧
        (32 ≤ good → x.width < 2 → ¬ (48 ≤ good ∧ x.width = 0) → ∃ t, exec (.retrainComplete b m) s = .next t ∧ takes t 0 2 lost 1#8) ∧
        (good < 32 → (∃ j < 8, j ≠ m ∧ (s.feltModule b j).width ≠ 3) → ∃ t, exec (.retrainComplete b m) s = .next t ∧ takes t 0 3 68 1#8))) ∧
    (x.retraining = none → exec (.retrainComplete b m) s = .next s) ∧
    ((s.bundle b).draining = true → s.bundleEmpty b = true →
      ∃ t, exec (.bundleDrainComplete b) s = .next t ∧ (t.bundle b).draining = false ∧ (∀ j, j ∈ (t.bundle b).inService ↔ j < 8 ∧ (s.feltModule b j).width ≠ 3) ∧
        (t.bundle b).modules = (s.bundle b).modules ∧ ({ t with felts := s.felts } : State) = s ∧ ∀ j, j ≠ b → t.bundle j = s.bundle j) ∧
    ((s.bundle b).draining = false ∨ s.bundleEmpty b = false → exec (.bundleDrainComplete b) s = .next s))

/-- R311, R423 to R426, R440, R452: a peer's read, write or atomic inside the open HBM is performed at its home and answered, one without a valid prefix or outside it is refused
with an error and a log record; a walk is answered with the entry and its companion word, marked with the peer's bit of PEERA; a member's resolve joins those of its domain. A
signal is answered once its sectors have been performed here. A response completes what waits for it. A port that comes up or goes down changes the map of lines to ports once no
request is outstanding on a port that a line leaves; that a request on a port that goes down is sent again is the model's choice, log 153, as is how a signal tells a new copy, log 152. -/
def Obligations.PeersAreServedOverUALink : Prop :=
  (∀ (s : State) (r : UaRequest), s.stopped = false →
    let pa := r.addr
    let answered (t : State) (error : Bool) (bytes : List W8) : Prop := t.ualink.answers = s.ualink.answers ++ [(r.srcPkg, error, bytes)]
    let open_ (n : Nat) : Prop := 0 < n ∧ pa / 128 = (pa + n - 1) / 128 ∧ openHbm pa = true ∧ openHbm (pa + n - 1) = true ∧ s.easyLine pa 3 ∧ r.kind = 0#8
    let others (t : State) (n : Nat) : Prop := ∀ x, x < pa ∨ pa + n ≤ x → t.committedByte x = s.committedByte x
    let bytes (n : Nat) : List W8 := (List.range n).map fun i => s.committedByte (pa + i)
    (∀ n, r.op = .read n → open_ n → ∃ t, exec (.ualinkRequestReceive r) s = .next t ∧ answered t false (bytes n) ∧ others t 0) ∧
    (∀ bs, r.op = .write bs → r.prefixOk = true → open_ bs.length → (r.copy = none ∨ s.ualink.signals = []) →
      ∃ t, exec (.ualinkRequestReceive r) s = .next t ∧ answered t false [] ∧ others t bs.length ∧
        (∀ i < bs.length, t.committedByte (pa + i) = match nth bs i none with | some b => b | none => s.committedByte (pa + i)) ∧
        ∀ d c i, r.copy = some (d, c, i) →
          t.ualink.performedBy (r.srcPkg, d, c, i) = s.ualink.performedBy (r.srcPkg, d, c, i) + (sectorsWritten pa bs).length) ∧
    (∀ op wide v, r.op = .atomic op wide v → r.prefixOk = true → op ≠ .fadd ∨ wide = false →
      let n := if wide then 8 else 4
      open_ n → pa % n = 0 →
        ∃ t, exec (.ualinkRequestReceive r) s = .next t ∧ answered t false (bytes n) ∧ others t n ∧
          bytesAt t.committedByte pa n = atomNumber op wide (bytesAt s.committedByte pa n) (v.toNat % 2 ^ (8 * n))) ∧
    (∀ wide old new, r.op = .cas wide old new → r.prefixOk = true →
      let n := if wide then 8 else 4
      open_ n → pa % n = 0 →
        ∃ t, exec (.ualinkRequestReceive r) s = .next t ∧ answered t false (bytes n) ∧ others t n ∧
          bytesAt t.committedByte pa n = if bytesAt s.committedByte pa n = old.toNat % 2 ^ (8 * n) then new.toNat % 2 ^ (8 * n) else bytesAt s.committedByte pa n) ∧
    (∀ write slot, r.op = .walk write → r.prefixOk = true → open_ 16 → pa % 16 = 0 → (List.range 32).find? (fun k => decide (s.peers.find k = some r.srcPkg)) = some slot →
      ∃ t, exec (.ualinkRequestReceive r) s = .next t ∧ others t 16 ∧ answered t false ((List.range 16).map fun i => t.committedByte (pa + i)) ∧
        bytesAt t.committedByte pa 8 = bytesAt s.committedByte pa 8 ∧
        bytesAt t.committedByte (pa + 8) 8 = (bytesAt s.committedByte (pa + 8) 8 ||| 2 ^ (12 + slot) ||| if write then 2 ^ 63 else 0)) ∧
    (∀ id vid target proposed who squash, r.op = .couch (.resolve id vid target proposed who squash) → r.prefixOk = true → s.memberOf r.domain r.srcPkg = true → s.coordinator r.domain = none →
      ∃ x, exec (.ualinkRequestReceive r) s = .next { s with resolves := s.resolves ++ [x] } ∧ x.source = .member r.srcPkg id who ∧ x.ofVid = vid ∧ x.domain = r.domain ∧ x.target = target ∧
        x.proposed = proposed ∧ x.squash = squash ∧ x.status = none) ∧
    ((∀ m, r.op ≠ .couch m) → s.prefixValid r = false ∨ openHbm pa = false →
      ∃ t l, exec (.ualinkRequestReceive r) s = .next t ∧ answered t true [] ∧ t.mem = s.mem ∧ (t.die (homeDie pa % 12)).errlog.getLast? = some l ∧ l.code = 0x53#8 ∧ l.addr = BitVec.ofNat 64 pa)) ∧
  (∀ (s : State) (g : UaSignal), s.stopped = false →
    let key (g : UaSignal) : Nat × Nat × Nat × Nat := (g.srcPkg, g.bdie, g.bcore, g.copyId)
    let had (g : UaSignal) : Nat := s.ualink.lastSignal (key g)
    let count (g : UaSignal) : Nat := s.ualink.performedBy (key g) - (if had g % 64 ≠ 0 ∨ g.bcount ≤ had g then had g else 0)
    (∀ x ∈ s.ualink.signals, count x < x.bcount) →
      (g.bcount ≤ count g → ∃ t, exec (.ualinkBarrierSignal g) s = .next t ∧ ({ t with ualink := s.ualink } : State) = s ∧ t.ualink.signals = s.ualink.signals ∧
        t.ualink.answers = s.ualink.answers ++ [(g.srcPkg, false, [])] ∧ t.ualink.performedBy (key g) = count g ∧ t.ualink.lastSignal (key g) = g.bcount ∧
        ∀ x, x ≠ key g → t.ualink.performedBy x = s.ualink.performedBy x ∧ t.ualink.lastSignal x = s.ualink.lastSignal x) ∧
      (count g < g.bcount → exec (.ualinkBarrierSignal g) s = .next { s with ualink := { s.ualink with signals := s.ualink.signals ++ [g] } })) ∧
  (∀ (s : State) (id : Nat) (data : BitVec 256) (o : UaOut), s.ualink.out.find? (fun o => decide (o.id = id)) = some o →
    let taken : State := { s with ualink := { s.ualink with out := s.ualink.out.filter fun o => decide (o.id ≠ id) } }
    (∀ error, s.stopped = true ∨ o.port = none → exec (.ualinkResponse id error data) s = .next s) ∧
    (∀ ports line i d bad, s.stopped = false → o.port.isSome = true → s.ualink.draining = some ports → o.what = .writeback line i d bad → taken.ualink.out = [] →
      exec (.ualinkResponse id false data) s = .next { taken with ualink := { taken.ualink with portsUp := ports, draining := none } }) ∧
    (s.stopped = false → o.port.isSome = true → s.ualink.draining = none →
      (∀ line i, o.what = .fill line i → i < 4 → homeDie (line * 128) < 12 → s.roomAt (line * 128) 1 →
        ∃ t key w, exec (.ualinkResponse id false data) s = .next t ∧ t.ualink = taken.ualink ∧
          (t.slice (homeDie (line * 128)) (sliceOf (line * 128))).homeLine (setOf (line * 128)) line = some (key, w) ∧ w.present.getLsbD i = true ∧
          ((s.homeHolds (line * 128 + 32 * i)).isNone = true → w.data.extractLsb' (256 * i) 256 = data ∧ w.poison.getLsbD i = false)) ∧
      (∀ line i d bad, o.what = .writeback line i d bad → exec (.ualinkResponse id false data) s = .next taken) ∧
      (∀ die slot mark askers, o.what = .walk die slot mark askers → taken.standing askers ≠ [] → exec (.ualinkResponse id false data) s = .next { taken with ualink := { taken.ualink with
        walks := s.ualink.walks ++ [{ die := die, slot := slot, mark := mark, entry := data.extractLsb' 0 64, companion := data.extractLsb' 64 64, askers := askers }] } }) ∧
      (∀ die slot mark askers, o.what = .walk die slot mark askers → taken.standing askers = [] → exec (.ualinkResponse id false data) s = .next taken) ∧
      (∀ (r p : LineReq) (k a tag i j : Nat) (c : Core) (x : Access), o.what = .atomic r → r.owner = .access k a tag → taken.ualink.out.any (fun o => o.sameAtomic r) = false → s.core? k = some c →
        a ≤ apAgent → (c.thread a).inflight[i]? = some x → x.tag = tag → x.reqs[j]? = some p → p.line = r.line → p.st = .sent → p.places = r.places →
        ∃ t y q, exec (.ualinkResponse id false data) s = .next t ∧ (t.thread k a).inflight[i]? = some y ∧ y.reqs[j]? = some q ∧ (q.st = .answered ∨ ∃ v, q.st = .replied (homeDie (r.line * 128)) v) ∧
          ∀ e ∈ q.elems, (∃ z ∈ r.elems, z.lane = e.lane ∧ z.off = e.off) → e.got = data.setWidth 128) ∧
      (∀ line i d bad, o.what = .writeback line i d bad → o.for_ = none → homeDie (line * 128) < 12 →
        ∃ t l, exec (.ualinkResponse id true data) s = .next t ∧ t.ualink = taken.ualink ∧ (t.die (homeDie (line * 128))).errlog.getLast? = some l ∧ l.code = 0x40#8 ∧ l.detail = 0x05#8))) ∧
  (∀ (s : State) (port : Nat) (up : Bool),
    let out := s.ualink.out.map fun o => if up = false ∧ o.port = some port then { o with port := none } else o
    (port < 18 → s.ualink.draining = none →
      ∃ t ports, exec (.ualinkPortStateChange port up) s = .next t ∧ (∀ p, p ∈ ports ↔ if p = port then up = true else p ∈ s.ualink.portsUp) ∧ ({ t with ualink := s.ualink } : State) = s ∧
        ((∀ o ∈ out, o.port = none ∨ uaPort ports o.index = o.port) → t.ualink = { s.ualink with
          portsUp := ports, out := out.map fun o => if o.port = none then { o with port := uaPort ports o.index } else o }) ∧
        ((∃ o ∈ out, o.port ≠ none ∧ uaPort ports o.index ≠ o.port) → t.ualink = { s.ualink with draining := some ports, out := out })) ∧
    (18 ≤ port → exec (.ualinkPortStateChange port up) s = .next s))

/-- R298 to R301, R310 to R321, R390, R401: a walk fills the cluster's TLB or asks for the page; the migration engine of a die takes its oldest request, writes the entry present,
and wakes what is parked on the page; an eviction marks the entry, awaits those that may hold it, and makes it absent unless the page is pinned; a shootdown empties the TLBs of
a die and is acknowledged once what it waits for has completed. Scrubs rewrite, report or poison what they read; a stack enters and leaves self-refresh. -/
def Obligations.PagesMoveAndScrubsRepair : Prop :=
  (∀ (s u : State) (die cluster asid : Nat) (va : W64) (kind : WalkKind), die < 12 → cluster < 16 →
    (∀ e, s.walk die asid va kind = (u, .resident e) → ∃ t rest, exec (.pageWalk die cluster asid va kind) s = .next t ∧ nth (t.die die).clusterTlb cluster [] = e :: rest ∧
      (∀ x ∈ rest, x ∈ nth (u.die die).clusterTlb cluster []) ∧ (∀ j, j ≠ cluster → nth (t.die die).clusterTlb j [] = nth (u.die die).clusterTlb j []) ∧
      u.sameDie t die fun d => { d with clusterTlb := [] }) ∧
    (∀ big, s.walk die asid va kind = (u, .absent big) →
      let page := vaNat va / 2 ^ 16
      (kind ≠ .prefetch → ∃ t, exec (.pageWalk die cluster asid va kind) s = .next t ∧
        (∃ r ∈ (t.die die).pageReqs, r.asid = asid ∧ (r.page = page ∨ big = true ∧ r.page / 32 = page / 32)) ∧
        u.sameDie t die fun d => { d with pageReqs := [], migrQueue := [], pageReqCount := 0 }) ∧
      (kind = .prefetch → exec (.pageWalk die cluster asid va kind) s = .next u))) ∧
  (∀ (s u : State) (die frame slot : Nat) (e : W64) (big : Bool) (r : PageReq) (rest : List PageReq), die < 12 → (s.die die).restore = none → (s.die die).migrQueue = r :: rest →
    (s.pageEntry die r.asid r.page = (u, .leaf slot e big) →
      (e.getLsbD 0 = false → isHbm frame = true → inSpill frame = false → frame % pageBytes big = 0 →
        ∃ t, exec (.pageRestoreStart die frame) s = .next t ∧ (t.die die).migrQueue = rest ∧ u.sameDie t die (fun d => { d with restore := none, migrQueue := [] }) ∧
          (t.die die).restore = some { asid := r.asid, page := r.page, big := big, slot := slot, frame := frame, hostFrame := pteFrame e, written := false, sent := 0, awaits := [] }) ∧
      (e.getLsbD 0 = true → e.getLsbD 5 = false →
        let same (page : Nat) : Prop := page = r.page ∨ big = true ∧ page / 32 = r.page / 32
        ∃ t, exec (.pageRestoreStart die frame) s = .next t ∧ (∀ q ∈ (t.die die).migrQueue, ¬ (q.asid = r.asid ∧ same q.page)) ∧
          ∀ (k i page : Nat) (c : Core) (f : Fragment), t.core? k = some c → dieOfCore k = die → c.frags[i]? = some f → f.valid = true → f.cause = 0x20#8 → same page →
            f.key = pageKey r.asid page → f.ready = true)) ∧
    (s.pageEntry die r.asid r.page = (u, .nothing) → ∃ t, exec (.pageRestoreStart die frame) s = .next t ∧ (t.die die).migrQueue = rest ++ [r] ∧
      u.sameDie t die fun d => { d with migrQueue := [] })) ∧
  (∀ (s : State) (die : Nat), die < 12 →
    ((s.die die).restore = none → exec (.pageRestoreComplete die) s = .next s) ∧
    (∀ r, (s.die die).restore = some r → r.sent = 0 →
      (r.written = true → r.awaits ≠ [] → exec (.pageRestoreComplete die) s = .next s) ∧
      (r.written = true → r.awaits = [] →
        ∃ t, exec (.pageRestoreComplete die) s = .next t ∧ (t.die die).restore = none ∧ (t.die die).woken = (s.die die).woken ++ s.wokenBy die r.asid r.page r.big ∧
          ∀ q ∈ (t.die die).pageReqs, ¬ (q.asid = r.asid ∧ (q.page = r.page ∨ r.big = true ∧ q.page / 32 = r.page / 32))) ∧
      (∀ u slot e big, r.written = false → s.pageEntry die r.asid r.page = (u, .leaf slot e big) → isHbm slot = true → slot % 16 = 0 → u.quiet die = true →
        ∃ t, exec (.pageRestoreComplete die) s = .next t ∧
          ((u.copyPage die r.hostFrame r.frame (pageBytes big)).easyLine slot 3 →
            (t.die die).restore.isSome = true ∨ (∀ k c, s.core? k = some c → dieOfCore k ≠ die) →
            bytesAt t.committedByte slot 8 = (entryPresent e r.frame).toNat ∧ ∀ b < 44, (bytesAt t.committedByte (slot + 8) 8).testBit b = false) ∧
          ((t.die die).restore = none ∨ ∃ q, (t.die die).restore = some q ∧ q.written = true ∧ q.awaits ≠ [] ∧ q.asid = r.asid ∧ q.page = r.page)))) ∧
  (∀ (s u : State) (die asid hostFrame slot : Nat) (va e : W64) (hostValid big : Bool),
    let page := vaNat va / 2 ^ 16
    let given (s : State) (x : List (Nat × W64 × Nat × Bool)) : State := s.updDie die fun d => { d with evictQueue := x }
    let mark (t : State) : Nat := bytesAt t.committedByte (slot + 8) 8
    die < 12 → (s.die die).evict = none → (s.die die).evictQueue = [] → (given s [(asid, va, hostFrame, hostValid)]).pageEntry die asid page = (u, .leaf slot e big) →
    u.wokenPending die asid page big = false → isHbm slot = true → slot % 16 = 0 →
    u.engineReady die (homeDie slot) = true → u.easyLine slot 3 → bytesAt u.committedByte slot 8 = e.toNat →
    (evictRefused die e big hostFrame = true → exec (.evictionCommand die asid va hostFrame hostValid) s = .next (given u [])) ∧
    (evictRefused die e big hostFrame = false →
      (u.pageBusy (BitVec.ofNat 64 (mark u)) = true →
        ∃ t, exec (.evictionCommand die asid va hostFrame hostValid) s = .next t ∧ (t.die die).busy = (u.die die).busy ++ [(asid, page)] ∧ (t.die die).evict = (u.die die).evict) ∧
      (u.pageBusy (BitVec.ofNat 64 (mark u)) = false →
        ∃ t v, exec (.evictionCommand die asid va hostFrame hostValid) s = .next t ∧ (t.die die).evict = some v ∧ v.asid = asid ∧ v.page = page ∧ v.slot = slot ∧ v.hostFrame = hostFrame ∧
          v.hostValid = hostValid ∧ (∀ d, d ∈ v.awaits ↔ d < 44 ∧ (mark u).testBit d = true) ∧ bytesAt t.committedByte slot 8 = (e ||| 0x20#64).toNat ∧
          mark t = mark u / 2 ^ 44 * 2 ^ 44))) ∧
  (∀ (s : State) (die asid hostFrame : Nat) (va : W64) (hostValid : Bool) (v : Evict), die < 12 → (s.die die).evict = some v →
    ∃ t, exec (.evictionCommand die asid va hostFrame hostValid) s = .next t ∧ (t.die die).evictQueue = (s.die die).evictQueue ++ [(asid, va, hostFrame, hostValid)] ∧
      s.sameDie t die fun d => { d with evictQueue := [] }) ∧
  (∀ (s : State) (die : Nat), die < 12 →
    ((s.die die).evict = none → (s.die die).evictQueue = [] → exec (.evictionCommit die) s = .next s) ∧
    (∀ v, (s.die die).evict = some v → v.sent = 0 →
      (v.awaits ≠ [] → exec (.evictionCommit die) s = .next s) ∧
      (∀ u slot e big, v.awaits = [] → s.pageEntry die v.asid v.page = (u, .leaf slot e big) → isHbm slot = true → slot % 16 = 0 → u.quiet die = true → u.easyLine slot 3 →
        bytesAt u.committedByte slot 8 = e.toNat →
        let leaves (x : W64) (alone : Prop) : Prop :=
          ∃ t, exec (.evictionCommit die) s = .next t ∧ (t.die die).evict = none ∧ (alone → bytesAt t.committedByte slot 8 = x.toNat)
        (e.getLsbD 4 = true ∨ e.getLsbD 5 = false → leaves (e &&& ~~~0x20#64) (∀ k c, s.core? k = some c → dieOfCore k ≠ die)) ∧
        (e.getLsbD 4 = false → e.getLsbD 5 = true → (bytesAt u.committedByte (slot + 8) 8).testBit 63 = false → v.hostValid = true → leaves (entryAbsent e v.hostFrame) True)))) ∧
  (∀ (s u : State) (die asid : Nat) (va : W64) (place : LeafPlace),
    let page := vaNat va / 2 ^ 16
    die < 12 → s.pageEntry die asid page = (u, place) →
      ∃ t big x, exec (.shootdownRequest die asid va) s = .next t ∧ ((∃ slot e, place = .leaf slot e true) ∨ place = .pending → big = true) ∧
        (∀ o ∈ t.ualink.out, ∀ slot mark asks, o.what ≠ .walk die slot mark asks) ∧ (∀ a ∈ t.ualink.walks, a.die ≠ die) ∧ (∀ y ∈ t.tlbsOf die, y.isOf asid page big = false) ∧
        (t.die die).shoot = (u.die die).shoot ++ [x] ∧ x.asid = asid ∧ x.page = page ∧ x.fromDie = s.shootSource die asid page ∧
        ∀ (k : Nat) (c : Core), u.core? k = some c → dieOfCore k = die → c.launch.asid = asid → ∀ w ∈ c.through k big page, w ∈ x.waits) ∧
  (∀ (s : State) (peer asid : Nat) (va : W64), peer < 32 → s.shootSource (12 + peer) asid (vaNat va / 2 ^ 16) = none →
    exec (.shootdownRequest (12 + peer) asid va) s = .next { s with ualink := { s.ualink with shoots := s.ualink.shoots ++ [(peer, asid, vaNat va / 2 ^ 16)] } }) ∧
  (∀ (s : State) (die idx : Nat),
    (12 ≤ die → idx < 12 → ∃ t, exec (.shootdownAck die idx) s = .next t ∧ (t.die idx).evict = ((s.die idx).evict.map fun v => { v with awaits := setDel v.awaits die }) ∧
      (t.die idx).restore = ((s.die idx).restore.map fun v => { v with awaits := setDel v.awaits die }) ∧ s.sameDie t idx fun d => { d with evict := none, restore := none }) ∧
    (∀ x, die < 12 → (s.die die).shoot[idx]? = some x →
      (x.waits.any (fun w => !s.settled w) = true → exec (.shootdownAck die idx) s = .next s) ∧
      (x.waits.all (fun w => s.settled w) = true →
        ∃ t, exec (.shootdownAck die idx) s = .next t ∧ (t.die die).shoot = (s.die die).shoot.take idx ++ (s.die die).shoot.drop (idx + 1) ∧
          ∀ e v, x.fromDie = some e → e < 12 → (s.die e).evict = some v → v.asid = x.asid → v.page = x.page → (t.die e).evict = some { v with awaits := setDel v.awaits die }))) ∧
  (∀ (s : State) (die sector : Nat), die < 12 → sector < hbmBytes / 32 →
    let sec := firstSector die + sector
    let logged (t : State) (cls : BitVec 2) : Prop := ∃ l, (t.die die).errlog.getLast? = some l ∧ l.code = 0x53#8 ∧ l.cls = cls ∧ l.addr = BitVec.ofNat 64 (32 * sec)
    (∃ t, exec (.patrolScrubVisit die sector .clean) s = .next t ∧ t.mem = s.mem ∧ t.poison = s.poison ∧ (t.die die).errlog = (s.die die).errlog) ∧
    (sec ∉ s.poison → ∃ t, exec (.patrolScrubVisit die sector .corrected) s = .next t ∧ t.mem = s.mem ∧ t.poison = s.poison ∧ logged t 1#2) ∧
    (sec ∉ s.poison → ∃ t, exec (.patrolScrubVisit die sector .uncorrectable) s = .next t ∧ t.mem = s.mem ∧ (∀ x, x ∈ t.poison ↔ x = sec ∨ x ∈ s.poison) ∧ logged t 0#2) ∧
    (inSpill (32 * sec) = true → ∃ t, exec (.scrubWithClear die sector) s = .next t ∧ (s.setMemSector sec 0#256 false).sameDie t die fun d => { d with slices := [] }) ∧
    (inSpill (32 * sec) = false → s.easyLine (32 * sec) 3 → s.mem.wf = true →
      ∃ t, exec (.scrubWithClear die sector) s = .next t ∧ t.memSector sec = (0#256, false) ∧ ∀ x, t.committedByte x = if x / 32 = sec then 0#8 else s.committedByte x)) ∧
  (∀ (s : State) (core agent reg lane : Nat) (c : Core), s.core? core = some c → dieOfCore core < 12 → agent ≤ apAgent → (c.thread agent).ended = false → (c.thread agent).ahead = none →
    let logged (t : State) (cls : BitVec 2) : Prop := ∃ l, (t.die (dieOfCore core)).errlog.getLast? = some l ∧ l.code = 0x53#8 ∧ l.cls = cls ∧ l.agent = BitVec.ofNat 8 agent
    exec (.regfileScrub core agent reg lane .clean) s = .next s ∧
    (∃ t, exec (.regfileScrub core agent reg lane .corrected) s = .next t ∧ logged t 1#2 ∧ t.cores = s.cores) ∧
    (∃ t, exec (.regfileScrub core agent reg lane .uncorrectable) s = .next t ∧ logged t 0#2 ∧ ∃ th, t.thread core agent = th ∧
      (reg < 64 → reg < (c.thread agent).window → th = { c.thread agent with v := th.v } ∧ (nth th.v reg VReg.zero).poison = (nth (c.thread agent).v reg VReg.zero).poison ||| (1#32 <<< (lane % 32)) ∧
        (nth th.v reg VReg.zero).val = (nth (c.thread agent).v reg VReg.zero).val ∧ ∀ j, j ≠ reg → nth th.v j VReg.zero = nth (c.thread agent).v j VReg.zero) ∧
      (64 ≤ reg → reg < 128 → th = { c.thread agent with s := th.s } ∧ (nth th.s (reg - 64) SReg.zero).poison = true ∧ (nth th.s (reg - 64) SReg.zero).val = (nth (c.thread agent).s (reg - 64) SReg.zero).val ∧
        ∀ j, j ≠ reg - 64 → nth th.s j SReg.zero = nth (c.thread agent).s j SReg.zero))) ∧
  (∀ (s : State) (stack : Nat), stack < 24 → s.stopped = false → s.boot = .ready →
    (∃ t, exec (.selfRefreshEntry stack) s = .next t ∧ (∀ x, x ∈ (t.die (stack / 2)).inRefresh ↔ x = stack ∨ x ∈ (s.die (stack / 2)).inRefresh) ∧
      s.sameDie t (stack / 2) fun d => { d with inRefresh := [] }) ∧
    (∃ t, exec (.selfRefreshExit stack) s = .next t ∧ (∀ x, x ∈ (t.die (stack / 2)).inRefresh ↔ x ≠ stack ∧ x ∈ (s.die (stack / 2)).inRefresh) ∧
      s.sameDie t (stack / 2) fun d => { d with inRefresh := [] }))

/-- R394 to R400, R406 to R408, R443, R445 to R451: reports begin a halt or add to it; a die stops the blocks of the grid, writes their records and its header, and the halt ends with
a record of the first fault. An error report is logged, kills the block, marks what was struck, or stops the device. The part resets, boots from an image or goes to recovery,
answers on its management paths, resets a function, follows its power limit, and reports or acts on its security sensors. -/
def Obligations.TheDeviceHaltsResetsAndBoots : Prop :=
  (∀ (s : State) (idx g : Nat) (f : HaltFault), s.reports[idx]? = some (g, f) →
    let taken (t : State) : Prop := t.reports = s.reports.take idx ++ s.reports.drop (idx + 1)
    (s.grids.find g = none → ∃ t, exec (.gridHaltReport idx) s = .next t ∧ taken t ∧ ({ t with reports := s.reports } : State) = s) ∧
    (∀ x, s.grids.find g = some x →
      (s.halts.find g = none → ∃ t h, exec (.gridHaltReport idx) s = .next t ∧ taken t ∧ t.halts.find g = some h ∧ h.grid = g ∧ h.first = f ∧ h.second = none ∧ h.more = 0 ∧ h.arrived = [] ∧
        (x.queue < 18432 → (t.die (x.queue / 1536)).halts = if (s.die (x.queue / 1536)).freeze then (s.die (x.queue / 1536)).halts else ((s.die (x.queue / 1536)).halts + 1) % 2 ^ 32)) ∧
      (∀ h, s.halts.find g = some h → ∃ t, exec (.gridHaltReport idx) s = .next t ∧ taken t ∧
        t.halts.find g = some (if h.second = none then { h with second := some f } else { h with more := min (2 ^ 32 - 1) (h.more + 1) })))) ∧
  (∀ (s : State) (die grid : Nat) (h : Halt) (g : Grid), s.halts.find grid = some h → s.grids.find grid = some g →
    (die ∉ g.dies ∨ die ∈ h.arrived → exec (.haltArrive die grid) s = .next s) ∧
    (die ∈ g.dies → die ∉ h.arrived →
      ∃ t h' places, exec (.haltArrive die grid) s = .next t ∧ t.halts.find grid = some h' ∧ (∀ d, d ∈ h'.arrived ↔ d = die ∨ d ∈ h.arrived) ∧ h'.first = h.first ∧ h'.second = h.second ∧
        h'.offsets.find die = some places ∧ places.map Prod.fst = s.recordOrder die grid ∧ (∀ p, places.head? = some p → p.2 = 128) ∧
        ∀ k c, s.core? k = some c → dieOfCore k = die → c.halts grid = true → ∃ u, t.core? k = some u ∧ u.phase = .halted) ∧
    (die ∈ h.arrived → die ∉ h.written → (∀ x ∈ (h.offsets.find die).getD [], x.1 ∈ h.recorded) →
      let base := (s.die die).dumpBase
      ∃ t h', exec (.dumpHeaderWrite die grid) s = .next t ∧ t.halts.find grid = some h' ∧ (∀ d, d ∈ h'.written ↔ d = die ∨ d ∈ h.written) ∧
        ((s.die die).dumpSize = 0 → t.mem = s.mem) ∧
        (128 ≤ (s.die die).dumpSize → 128 ∣ base → isHbm base = true → s.easyLine base 3 →
          bytesAt t.committedByte base 4 = 0x504D5544 ∧ bytesAt t.committedByte (base + 4) 2 = 1 ∧ t.committedByte (base + 6) = BitVec.ofNat 8 die ∧
          t.committedByte (base + 7) = BitVec.ofNat 8 ((h.offsets.find die).getD []).length ∧ bytesAt t.committedByte (base + 8) 4 = g.queue % 2 ^ 32)) ∧
    (die ∉ h.arrived ∨ die ∈ h.written → exec (.dumpHeaderWrite die grid) s = .next s) ∧
    ((∃ d ∈ g.dies, d ∉ h.written) → exec (.haltComplete grid) s = .next s) ∧
    ((∀ d ∈ g.dies, d ∈ h.written) → g.queue < 18432 →
      ∃ t r, exec (.haltComplete grid) s = .next t ∧ t.halts.find grid = none ∧ t.grids.find grid = none ∧ grid ∉ t.token ∧ r ∈ (t.die (g.queue / 1536)).errlog ∧
        r.code = h.first.code ∧ r.detail = h.first.detail ∧ r.cls = 2#2 ∧ r.addr = h.first.addr ∧ ∀ v, s.invs.find g.queue = some v → v.done = 0 → t.invs.find g.queue = none)) ∧
  (∀ (s : State) (core : Nat) (c : Core), s.core? core = some c →
    let reported : Prop := ∃ x ∈ s.reports, x.1 = c.grid ∧ x.2.key = core
    (c.phase = .halted → s.recordDue core c = true → c.enginesDone = true → c.localDone = true → ¬ reported →
      ∃ t h, exec (.dumpRecordWrite core) s = .next t ∧ t.halts.find c.grid = some h ∧ core ∈ h.recorded ∧
        ((s.die (dieOfCore core)).dumpSize = 0 → ({ t with halts := s.halts } : State) = s)) ∧
    (c.phase ≠ .halted ∨ s.recordDue core c = false ∨ c.enginesDone = false ∨ c.localDone = false ∨ reported → exec (.dumpRecordWrite core) s = .next s)) ∧
  (∀ (s : State) (die : Nat) (e : ErrRecord) (place : ErrorPlace), die < 12 →
    let holders : Prop := ∃ line, place = .holders line
    let cls (x : BitVec 2) : Prop := x = e.cls ∨ (holders ∧ e.cls ≠ 3#2 ∧ x = 1#2)
    let r (x : BitVec 2) : LogRecord := { code := e.code, detail := 0#8, cls := x, fn := e.fn, core := e.core, agent := e.agent, vid := e.vid, domain := e.domain, addr := e.addr }
    let k := die * 128 + e.core.toNat
    let logged (t : State) : Prop := exec (.errorReport die e place) s = .next t ∧ ∃ x, cls x ∧ (holders → e.cls ≠ 3#2 → x = 1#2) ∧ (t.die die).errlog.getLast? = some (r x)
    let plain : Prop := e.cls ≠ 3#2 ∧ (e.code = 0x53#8 ∨ e.code = 0x36#8 ∧ e.core = 0xFF#8)
    (e.code ≠ 0x36#8 → e.code ≠ 0x53#8 → exec (.errorReport die e place) s = .next s) ∧
    (e.cls = 3#2 → e.code = 0x36#8 ∨ e.code = 0x53#8 → ∃ t, logged t ∧ t.stopped = true ∧ t.host.out = s.host.out ++ if s.stopped then [] else [.errFatal]) ∧
    (∀ c, e.cls ≠ 3#2 → e.code = 0x36#8 → e.core ≠ 0xFF#8 → s.core? k = some c → c.phase = .clearing ∨ c.phase = .running ∨ c.phase = .stopping →
      ∃ t u, exec (.errorReport die e place) s = .next t ∧ t.core? k = some u ∧ u.phase = .killed) ∧
    (plain → ¬ holders → e.code ≠ 0x53#8 ∨ e.cls = 1#2 → ∃ t, logged t ∧ t.cores = s.cores ∧ t.mem = s.mem ∧ t.poison = s.poison) ∧
    (plain → e.code = 0x53#8 → e.cls ≠ 1#2 →
      (∀ pa, place = .hbm pa → isHbm pa = true → ∃ t, logged t ∧ ∀ x, x ∈ t.poison ↔ x = pa / 32 ∨ x ∈ s.poison) ∧
      (∀ a c, place = .shared a → s.core? k = some c → ∃ t u, logged t ∧ t.core? k = some u ∧ ∀ x, x ∈ u.shPoison ↔ x = a / 32 ∨ x ∈ c.shPoison) ∧
      (∀ pa key w, place = .slice pa → (s.slice die (sliceOf pa)).ways.find key = some w → w.kind = .home → w.line = pa / 128 → w.present.getLsbD (pa / 32 % 4) = true →
        ∃ t, logged t ∧ (t.slice die (sliceOf pa)).ways.find key = some { w with poison := w.poison ||| BitVec.ofNat 4 (2 ^ (pa / 32 % 4)) }))) ∧
  (∀ (s : State) (path : MgmtPath) (request : SpdmRequest),
    let open_ : Prop := path = .i3c ∨ (s.boot = .ready ∧ s.stopped = false)
    let sent (o : HostOut) : State := { s with host := { s.host with out := s.host.out ++ [o] } }
    (open_ → exec (.mctpWarmResetRequest path) s = exec .warmReset (sent (.mctpAnswer path))) ∧
    (open_ → s.keysErased = true → exec (.spdmRequest path request) s = .next (sent (.spdm path request none))) ∧
    (open_ → s.keysErased = false → ∃ a, exec (.spdmRequest path request) s = .next { sent (.spdm path request (some a)) with free := s.free + 1 } ∧
      (request = .certificate → a.measurements = []) ∧
      ∀ x, request = .measurements → s.image = some x → ∃ rom image policy, a.measurements = [.rom rom, .image image, .version x.version, .policy policy]) ∧
    (¬ open_ → exec (.mctpWarmResetRequest path) s = .next s ∧ exec (.spdmRequest path request) s = .next s)) ∧
  (∀ (s : State),
    (∃ t, exec .coldReset s = .next t ∧ t.boot = State.reset.boot ∧ t.cores = [] ∧ t.dies = State.reset.dies ∧ t.domains = [] ∧ t.queues = [] ∧ t.invs = [] ∧ t.grids = [] ∧ t.pools = [] ∧ t.roots = [] ∧
      t.peers = [] ∧ t.felts = State.reset.felts ∧ t.stopped = false ∧ t.keysErased = s.keysErased ∧ ∀ c, c ∈ t.mem ↔ c ∈ s.mem ∧ isHost c.1 = true) ∧
    (∀ n, s.boot = .step n → s.stopped = false → exec .warmReset s = .next s) ∧
    (∀ n, s.boot = .step n → s.stopped = true → exec .warmReset s = exec .coldReset s) ∧
    ((∀ n, s.boot ≠ .step n) →
      ∃ t, exec .warmReset s = .next t ∧ t.boot = s.boot ∧ t.stopped = false ∧ t.cores = [] ∧ t.domains = [] ∧ t.queues = [] ∧ t.invs = [] ∧ t.grids = [] ∧ t.pools = [] ∧ t.roots = s.roots ∧
        t.peers = [] ∧ t.keysErased = s.keysErased ∧ t.clockSteps = 0 ∧ t.image = s.image ∧ (∀ d < 12, nth (t.die d).clock d 0#32 = nth (s.die d).clock d 0#32) ∧ (s.boot = .ready → t.host.out.getLast? = some .ready) ∧
        (∀ d, (t.die d).errlog = (s.die d).errlog ∧ (t.die d).dumpBase = (s.die d).dumpBase ∧ (t.die d).dumpSize = (s.die d).dumpSize ∧ (t.die d).slices = []) ∧
        (∀ b m, (t.feltModule b m).rate = (s.feltModule b m).rate ∧ (t.feltModule b m).width = (s.feltModule b m).width ∧ (t.feltModule b m).retired = (s.feltModule b m).retired) ∧
        ∀ (d k key i : Nat) (w : Way), s.mem.wf = true → d < 12 → (k, (s.slice d k)) ∈ (s.die d).slices → (key, w) ∈ (s.slice d k).ways → w.kind = .home → i < 4 → w.dirty.getLsbD i = true → isHbm (w.line * 128) = true →
          (∀ e < 12, ∀ x ∈ (s.die e).slices, ∀ y ∈ x.2.ways, y.2.kind = .home → y.2.line = w.line → y.2 = w) →
          t.memSector (w.line * 4 + i) = (w.data.extractLsb' (256 * i) 256, w.poison.getLsbD i)) ∧
    (s.boot = .step 1 → exec .bootImageTimeout s = .next { s with boot := .step 2 }) ∧
    (s.boot ≠ .step 1 → exec .bootImageTimeout s = .next s)) ∧
  (∀ (s : State) (image : FirmwareImage),
    let takes : Prop := s.stopped = false ∧ ((s.boot = .step 1 ∧ image.path = .i3c) ∨ (∃ n, n ≠ 1 ∧ s.boot = .step n ∧ image.path = .pcie) ∨ s.boot = .recovery)
    let good : Prop := image.ecdsaOk = true ∧ image.lmsOk = true ∧ Config.fusedMinimumVersion ≤ image.version
    (takes → good → ∃ t, exec (.firmwareImageOffer image) s = .next t ∧ t.boot = .ready ∧ t.image = some image ∧
      (∀ k p, k < 32 → (k, p) ∈ image.peers → (image.peers.map Prod.fst).Nodup → t.peers.find k = some p) ∧ (∀ k, k ∉ image.peers.map Prod.fst → t.peers.find k = none) ∧ t.host.out = s.host.out ++ [.ready] ∧ t.ualink.portsUp = List.range 18 ∧ t.felts = State.reset.felts ∧
      (∀ c, c ∈ t.mem ↔ c ∈ s.mem ∧ isHost c.1 = true) ∧ t.cores = s.cores ∧ t.dies = s.dies) ∧
    (takes → ¬ good → exec (.firmwareImageOffer image) s = .next { s with boot := .recovery }) ∧
    (¬ takes → exec (.firmwareImageOffer image) s = .next s)) ∧
  (∀ (s : State) (fn : Nat), s.boot = .ready → s.stopped = false →
    (s.haltsOf fn = true → ∃ t, exec (.functionLevelReset fn) s = .next t ∧ (∀ x, x ∈ t.frozenDoorbells ↔ x = fn ∨ x ∈ s.frozenDoorbells) ∧
      ({ t with frozenDoorbells := s.frozenDoorbells } : State) = s) ∧
    (s.haltsOf fn = false →
      ∃ t, exec (.functionLevelReset fn) s = .next t ∧ fn ∉ t.frozenDoorbells ∧
        (∀ q, t.queue q = if (s.queue q).vf = fn then { s.queue q with enable := false, head := 0#32, tail := 0#32 } else s.queue q) ∧
        (∀ q, (s.queue q).vf = fn → t.invs.find q = none) ∧ (∀ g x, t.grids.find g = some x → (s.queue x.queue).vf ≠ fn) ∧
        ∀ k c, s.core? k = some c → (s.queue c.queue).vf = fn → c.phase = .clearing ∨ c.phase = .running ∨ c.phase = .stopping → ∃ u, t.core? k = some u ∧ u.phase = .killed)) ∧
  (∀ (s : State) (watts millis : Nat),
    let clock (n : Nat) : State := { s with clockSteps := n, clockAt := s.now, fabricAt := s.fabric }
    (11500 < watts → s.clockSteps < 10 → exec (.powerLimitThrottle watts) s = .next (clock (s.clockSteps + 1))) ∧
    (watts ≤ 11500 ∨ 10 ≤ s.clockSteps → exec (.powerLimitThrottle watts) s = .next s) ∧
    (watts < 11000 → 10 ≤ millis → 0 < s.clockSteps → exec (.powerClockRestore watts millis) s = .next (clock (s.clockSteps - 1))) ∧
    (11000 ≤ watts ∨ millis < 10 ∨ s.clockSteps = 0 → exec (.powerClockRestore watts millis) s = .next s)) ∧
  (∀ (s : State) (die : Nat) (sensor : Sensor), die < 12 →
    ∃ t r, exec (.securitySensorTrip die sensor) s = .next t ∧ (t.die die).errlog.getLast? = some r ∧ r.code = 0x52#8 ∧ r.cls = (if Config.fusedErase then 3#2 else 1#2) ∧
      t.stopped = (s.stopped || Config.fusedErase) ∧ t.keysErased = (s.keysErased || Config.fusedErase))

/-- R210, R211: `BARARR` and `BARDROP` always go on where their lanes may arrive, `BARWAIT` where a live lane of its warp has yet to arrive, and `BAR` where its lanes are
the last that the phase waits for, which then completes. -/
def Obligations.BarrierInstructionsComplete : Prop :=
  ∀ (b : BitVec 6) (s s1 : State) (c : Ctx),
    let old := c.core.bar b.toNat
    let came (w : Nat) : W32 := nth old.lanes w 0#32
    let fresh : Prop := c.a ∉ old.dropped ∧ c.pass &&& came c.a = 0#32
    let last : Prop := old.arrived.length + 1 = old.expected ∧ c.a < c.core.launch.warps ∧ c.a ∉ old.arrived ∧ c.a ∉ old.leaving ∧ c.core.live c.a ≠ 0#32 ∧
      c.core.live c.a &&& ~~~(came c.a ||| c.pass) = 0#32 ∧ (∀ x ∈ c.th.inflight, x.performed = true) ∧ ∀ w < c.core.launch.warps, w ≠ c.a → w ∈ old.arrived ∨ came w = 0#32
    (s.acting (.bararr b) = some (c, s1) → fresh → ∃ t, exec (.bararr b) s = .next t ∧ c.falls s1 t) ∧
    (s.acting (.bardrop b) = some (c, s1) → fresh → ∃ t, exec (.bardrop b) s = .next t ∧ c.falls s1 t) ∧
    (s.acting (.barwait b) = some (c, s1) → c.a ∉ old.arrived → c.core.live c.a &&& ~~~(came c.a) ≠ 0#32 → ∃ t, exec (.barwait b) s = .next t ∧ c.falls s1 t) ∧
    (s.acting (.bar b) = some (c, s1) → fresh → last → ∃ t, exec (.bar b) s = .next t ∧ c.falls s1 t ∧ ((c.here t).bar b.toNat).phase = old.phase + 1#32)
end

