-- ==== Sys2Proof/Laws/Mem.lean ====
section
/-! SUPPORT. The laws of the two containers: reading back what was written, the canonical form, and elements of lists. -/

namespace Sys2Proof.Machine

/-! ## Lists that stand for files of registers or of dies -/

@[simp] theorem nth_alterPad_same {α : Type} (z : α) (l : List α) (k : Nat) (f : α → α) (d : α) :
    nth (alterPad z l k f) k d = f (nth l k z) := by
  induction l, k using alterPad.induct with
  | case1 => simp [alterPad, nth]
  | case2 j ih => simpa [alterPad, nth] using ih
  | case3 x rest => simp [alterPad, nth]
  | case4 x rest j ih => simpa [alterPad, nth] using ih

theorem nth_alterPad_other {α : Type} (z : α) (l : List α) (k j : Nat) (f : α → α) (h : j ≠ k) :
    nth (alterPad z l k f) j z = nth l j z := by
  induction l, k using alterPad.induct generalizing j with
  | case1 =>
    cases j with
    | zero => exact absurd rfl h
    | succ j => simp [alterPad, nth]
  | case2 k ih =>
    cases j with
    | zero => simp [alterPad, nth]
    | succ j => simpa [alterPad, nth] using ih j (by omega)
  | case3 x rest =>
    cases j with
    | zero => exact absurd rfl h
    | succ j => simp [alterPad, nth]
  | case4 x rest k ih =>
    cases j with
    | zero => simp [alterPad, nth]
    | succ j => simpa [alterPad, nth] using ih j (by omega)

theorem alterPad_alterPad {α : Type} (z : α) (l : List α) (k : Nat) (f g : α → α) :
    alterPad z (alterPad z l k f) k g = alterPad z l k fun x => g (f x) := by
  induction l, k using alterPad.induct with
  | case1 => simp [alterPad]
  | case2 j ih => simpa [alterPad] using ih
  | case3 x rest => simp [alterPad]
  | case4 x rest j ih => simpa [alterPad] using ih

theorem alterPad_comm {α : Type} (z : α) (l : List α) (i j : Nat) (f g : α → α) (h : i ≠ j) :
    alterPad z (alterPad z l i f) j g = alterPad z (alterPad z l j g) i f := by
  induction l, i using alterPad.induct generalizing j with
  | case1 =>
    cases j with
    | zero => exact absurd rfl h
    | succ j => simp [alterPad]
  | case2 i ih =>
    cases j with
    | zero => simp [alterPad]
    | succ j => simpa [alterPad] using ih j (by omega)
  | case3 x rest =>
    cases j with
    | zero => exact absurd rfl h
    | succ j => simp [alterPad]
  | case4 x rest i ih =>
    cases j with
    | zero => simp [alterPad]
    | succ j => simpa [alterPad] using ih j (by omega)

theorem alterPad_congr {α : Type} (z : α) (l : List α) (k : Nat) (f g : α → α) (h : f (nth l k z) = g (nth l k z)) :
    alterPad z l k f = alterPad z l k g := by
  induction l, k using alterPad.induct with
  | case1 => simpa [alterPad, nth] using h
  | case2 j ih => simpa [alterPad] using ih (by simpa [nth] using h)
  | case3 x rest => simpa [alterPad, nth] using h
  | case4 x rest j ih => simpa [alterPad] using ih (by simpa [nth] using h)

/-! ## Finite maps -/

@[simp] theorem KMap.find_alter_same {α : Type} (m : KMap α) (k : Nat) (f : α → α) : (m.alter k f).find k = (m.find k).map f := by
  induction m with
  | nil => rfl
  | cons x rest ih =>
    obtain ⟨j, v⟩ := x
    by_cases h : j = k <;> simp [KMap.alter, KMap.find, h, ih]

theorem KMap.find_alter_other {α : Type} (m : KMap α) (k j : Nat) (f : α → α) (h : j ≠ k) : (m.alter k f).find j = m.find j := by
  induction m with
  | nil => rfl
  | cons x rest ih =>
    obtain ⟨i, v⟩ := x
    by_cases hi : i = k <;> by_cases hj : i = j <;> simp_all [KMap.alter, KMap.find]

theorem KMap.alter_alter {α : Type} (m : KMap α) (k : Nat) (f g : α → α) : (m.alter k f).alter k g = m.alter k fun x => g (f x) := by
  induction m with
  | nil => rfl
  | cons x rest ih =>
    obtain ⟨j, v⟩ := x
    by_cases h : j = k <;> simp [KMap.alter, h, ih]

theorem KMap.alter_congr {α : Type} (m : KMap α) (k : Nat) (f g : α → α) (h : ∀ v, m.find k = some v → f v = g v) :
    m.alter k f = m.alter k g := by
  induction m with
  | nil => rfl
  | cons x rest ih =>
    obtain ⟨j, v⟩ := x
    by_cases hj : j = k
    · simp [KMap.alter, hj, h v (by simp [KMap.find, hj])]
    · simp [KMap.alter, hj, ih fun v hv => h v (by simpa [KMap.find, hj] using hv)]

theorem KMap.alter_absent {α : Type} (m : KMap α) (k : Nat) (f : α → α) (h : m.find k = none) : m.alter k f = m := by
  induction m with
  | nil => rfl
  | cons x rest ih =>
    obtain ⟨j, v⟩ := x
    by_cases hj : j = k
    · simp [KMap.find, hj] at h
    · simp [KMap.alter, hj, ih (by simpa [KMap.find, hj] using h)]

@[simp] theorem KMap.find_put_same {α : Type} (m : KMap α) (k : Nat) (v : α) : (m.put k v).find k = some v := by
  induction m with
  | nil => simp [KMap.put, KMap.find]
  | cons x rest ih =>
    obtain ⟨j, w⟩ := x
    by_cases h : j = k
    · simp [KMap.put, KMap.find, h]
    · by_cases h2 : k < j <;> simp [KMap.put, KMap.find, h, h2, ih]

theorem KMap.find_put_other {α : Type} (m : KMap α) (k j : Nat) (v : α) (h : j ≠ k) : (m.put k v).find j = m.find j := by
  induction m with
  | nil => simp [KMap.put, KMap.find, Ne.symm h]
  | cons x rest ih =>
    obtain ⟨i, w⟩ := x
    by_cases hi : i = k
    · subst hi
      simp [KMap.put, KMap.find, Ne.symm h]
    · by_cases h2 : k < i
      · simp [KMap.put, KMap.find, hi, h2, Ne.symm h]
      · by_cases hj : i = j
        · subst hj
          simp [KMap.put, KMap.find, hi, h2]
        · simp [KMap.put, KMap.find, hi, h2, hj, ih]

@[simp] theorem KMap.find_del_same {α : Type} (m : KMap α) (k : Nat) : (m.del k).find k = none := by
  induction m with
  | nil => rfl
  | cons x rest ih =>
    obtain ⟨j, w⟩ := x
    by_cases h : j = k <;> simp [KMap.del, KMap.find, h, ih]

theorem KMap.find_del_other {α : Type} (m : KMap α) (k j : Nat) (h : j ≠ k) : (m.del k).find j = m.find j := by
  induction m with
  | nil => rfl
  | cons x rest ih =>
    obtain ⟨i, w⟩ := x
    by_cases hi : i = k
    · subst hi
      simp [KMap.del, KMap.find, Ne.symm h, ih]
    · by_cases hj : i = j
      · subst hj
        simp [KMap.del, KMap.find, hi]
      · simp [KMap.del, KMap.find, hi, hj, ih]

/-! ## Byte memories -/

theorem Mem.wfFrom_mono (m : Mem) (lo lo' : Nat) (h : lo' ≤ lo) (hw : m.wfFrom lo = true) : m.wfFrom lo' = true := by
  cases m with
  | nil => rfl
  | cons c rest =>
    obtain ⟨y, b⟩ := c
    simp only [Mem.wfFrom, Bool.and_eq_true, decide_eq_true_eq] at hw ⊢
    exact ⟨⟨by omega, hw.1.2⟩, hw.2⟩

theorem Mem.read_below (m : Mem) (lo x : Nat) (hw : m.wfFrom lo = true) (h : x < lo) : m.read x = blankByte := by
  cases m with
  | nil => rfl
  | cons c rest =>
    obtain ⟨y, b⟩ := c
    simp only [Mem.wfFrom, Bool.and_eq_true, decide_eq_true_eq] at hw
    have h1 : ¬ y = x := by omega
    have h2 : x < y := by omega
    simp [Mem.read, h1, h2]

theorem Mem.wfFrom_insert (m : Mem) (lo x : Nat) (v : W8) (hv : v ≠ blankByte) (hx : lo ≤ x) (hw : m.wfFrom lo = true) :
    (m.insert x v).wfFrom lo = true := by
  induction m generalizing lo with
  | nil => simp [Mem.insert, Mem.wfFrom, hv, hx]
  | cons c rest ih =>
    obtain ⟨y, b⟩ := c
    simp only [Mem.wfFrom, Bool.and_eq_true, decide_eq_true_eq] at hw
    simp only [Mem.insert]
    split
    · next h =>
      subst h
      simp [Mem.wfFrom, hv, hw.1.1, hw.2]
    · split
      · simp [Mem.wfFrom, hv, hx, hw.1.2, hw.2]; omega
      · next h h2 =>
        simp only [Mem.wfFrom, Bool.and_eq_true, decide_eq_true_eq]
        exact ⟨hw.1, ih (y + 1) (by omega) hw.2⟩

theorem Mem.wfFrom_erase (m : Mem) (lo x : Nat) (hw : m.wfFrom lo = true) : (m.erase x).wfFrom lo = true := by
  induction m generalizing lo with
  | nil => rfl
  | cons c rest ih =>
    obtain ⟨y, b⟩ := c
    have hw' := hw
    simp only [Mem.wfFrom, Bool.and_eq_true, decide_eq_true_eq] at hw
    simp only [Mem.erase]
    split
    · exact Mem.wfFrom_mono _ _ _ (by omega) hw.2
    · split
      · exact hw'
      · simp only [Mem.wfFrom, Bool.and_eq_true, decide_eq_true_eq]
        exact ⟨hw.1, ih _ hw.2⟩

/-- A write keeps the canonical form. -/
theorem Mem.wf_write (m : Mem) (x : Nat) (v : W8) (hw : m.wf = true) : (m.write x v).wf = true := by
  unfold Mem.write
  split
  · exact Mem.wfFrom_erase _ _ _ hw
  · next h => exact Mem.wfFrom_insert _ _ _ _ h (Nat.zero_le _) hw

/-- Writing bytes keeps the canonical form. -/
theorem Mem.wf_writeBytes (m : Mem) (x : Nat) (bs : List W8) (hw : m.wf = true) : (m.writeBytes x bs).wf = true := by
  induction bs generalizing m x with
  | nil => exact hw
  | cons b rest ih => exact ih _ _ (Mem.wf_write _ _ _ hw)

theorem Mem.read_insert_same (m : Mem) (x : Nat) (v : W8) : (m.insert x v).read x = v := by
  induction m with
  | nil => simp [Mem.insert, Mem.read]
  | cons c rest ih =>
    obtain ⟨y, b⟩ := c
    simp only [Mem.insert]
    split
    · simp [Mem.read]
    · split
      · simp [Mem.read]
      · next h h2 => simp [Mem.read, h, h2, ih]

theorem Mem.read_insert_other (m : Mem) (lo x y : Nat) (v : W8) (hw : m.wfFrom lo = true) (h : y ≠ x) : (m.insert x v).read y = m.read y := by
  induction m generalizing lo with
  | nil => simp [Mem.insert, Mem.read, Ne.symm h]
  | cons c rest ih =>
    obtain ⟨z, b⟩ := c
    simp only [Mem.wfFrom, Bool.and_eq_true, decide_eq_true_eq] at hw
    simp only [Mem.insert]
    split
    · next hz =>
      subst hz
      by_cases hy : y < z
      · simp [Mem.read, Ne.symm h, hy]
      · simp [Mem.read, Ne.symm h, hy]
    · split
      · next hz hx =>
        by_cases hy : y < x
        · have h1 : ¬ z = y := by omega
          have h2 : y < z := by omega
          simp [Mem.read, Ne.symm h, hy, h1, h2]
        · simp [Mem.read, Ne.symm h, hy]
      · by_cases hzy : z = y
        · simp [Mem.read, hzy]
        · by_cases hy : y < z
          · simp [Mem.read, hzy, hy]
          · simp [Mem.read, hzy, hy, ih _ hw.2]

theorem Mem.read_erase_same (m : Mem) (lo x : Nat) (hw : m.wfFrom lo = true) : (m.erase x).read x = blankByte := by
  induction m generalizing lo with
  | nil => rfl
  | cons c rest ih =>
    obtain ⟨y, b⟩ := c
    simp only [Mem.wfFrom, Bool.and_eq_true, decide_eq_true_eq] at hw
    simp only [Mem.erase]
    split
    · next h => exact Mem.read_below _ _ _ hw.2 (by omega)
    · split
      · next h h2 => simp [Mem.read, h, h2]
      · next h h2 => simp [Mem.read, h, h2, ih _ hw.2]

theorem Mem.read_erase_other (m : Mem) (lo x y : Nat) (hw : m.wfFrom lo = true) (h : y ≠ x) : (m.erase x).read y = m.read y := by
  induction m generalizing lo with
  | nil => rfl
  | cons c rest ih =>
    obtain ⟨z, b⟩ := c
    simp only [Mem.wfFrom, Bool.and_eq_true, decide_eq_true_eq] at hw
    simp only [Mem.erase]
    split
    · next hz =>
      subst hz
      by_cases hy : y < z
      · rw [Mem.read_below rest (z + 1) y hw.2 (by omega)]
        simp [Mem.read, Ne.symm h, hy]
      · simp [Mem.read, Ne.symm h, hy]
    · split
      · rfl
      · by_cases hzy : z = y
        · simp [Mem.read, hzy]
        · by_cases hy : y < z
          · simp [Mem.read, hzy, hy]
          · simp [Mem.read, hzy, hy, ih _ hw.2]

/-- A byte written is the byte read there. -/
theorem Mem.read_write_same (m : Mem) (x : Nat) (v : W8) (hw : m.wf = true) : (m.write x v).read x = v := by
  unfold Mem.write
  split
  · next h => rw [h]; exact Mem.read_erase_same _ _ _ hw
  · exact Mem.read_insert_same _ _ _

/-- Every other byte reads as before. -/
theorem Mem.read_write_other (m : Mem) (x y : Nat) (v : W8) (hw : m.wf = true) (h : y ≠ x) : (m.write x v).read y = m.read y := by
  unfold Mem.write
  split
  · exact Mem.read_erase_other _ _ _ _ hw h
  · exact Mem.read_insert_other _ _ _ _ _ hw h

/-- Bytes outside those written read as before. -/
theorem Mem.read_writeBytes_other (m : Mem) (x y : Nat) (bs : List W8) (hw : m.wf = true) (h : y < x ∨ x + bs.length ≤ y) :
    (m.writeBytes x bs).read y = m.read y := by
  induction bs generalizing m x with
  | nil => rfl
  | cons b rest ih =>
    simp only [List.length_cons] at h
    rw [Mem.writeBytes, ih _ _ (Mem.wf_write _ _ _ hw) (by omega), Mem.read_write_other _ _ _ _ hw (by omega)]

/-- Bytes written are the bytes read there. -/
theorem Mem.read_writeBytes_same (m : Mem) (x k : Nat) (bs : List W8) (hw : m.wf = true) (h : k < bs.length) :
    (m.writeBytes x bs).read (x + k) = bs[k] := by
  induction bs generalizing m x k with
  | nil => simp at h
  | cons b rest ih =>
    cases k with
    | zero =>
      rw [Mem.writeBytes, Nat.add_zero, Mem.read_writeBytes_other _ _ _ _ (Mem.wf_write _ _ _ hw) (by omega)]
      simpa using Mem.read_write_same m x b hw
    | succ k =>
      have := ih (m.write x b) (x + 1) k (Mem.wf_write _ _ _ hw) (by simpa using h)
      rw [Mem.writeBytes]
      have e : x + (k + 1) = x + 1 + k := by omega
      rw [e, this]
      rfl

end Sys2Proof.Machine
end

