-- ==== Sys2Proof/Laws/State.lean ====
section
/-! SUPPORT. One lemma per field of the state per update: an update of one table leaves every other field as it was. -/

namespace Sys2Proof.Machine

@[simp] theorem State.updCore_mem (s : State) (k : Nat) (g : Core → Core) : (s.updCore k g).mem = s.mem := rfl
@[simp] theorem State.updCore_poison (s : State) (k : Nat) (g : Core → Core) : (s.updCore k g).poison = s.poison := rfl
@[simp] theorem State.updCore_covers (s : State) (k : Nat) (g : Core → Core) : (s.updCore k g).covers = s.covers := rfl
@[simp] theorem State.updCore_dies (s : State) (k : Nat) (g : Core → Core) : (s.updCore k g).dies = s.dies := rfl
@[simp] theorem State.updCore_domains (s : State) (k : Nat) (g : Core → Core) : (s.updCore k g).domains = s.domains := rfl
@[simp] theorem State.updCore_notices (s : State) (k : Nat) (g : Core → Core) : (s.updCore k g).notices = s.notices := rfl
@[simp] theorem State.updCore_resolves (s : State) (k : Nat) (g : Core → Core) : (s.updCore k g).resolves = s.resolves := rfl
@[simp] theorem State.updCore_reports (s : State) (k : Nat) (g : Core → Core) : (s.updCore k g).reports = s.reports := rfl
@[simp] theorem State.updCore_pools (s : State) (k : Nat) (g : Core → Core) : (s.updCore k g).pools = s.pools := rfl
@[simp] theorem State.updCore_queues (s : State) (k : Nat) (g : Core → Core) : (s.updCore k g).queues = s.queues := rfl
@[simp] theorem State.updCore_invs (s : State) (k : Nat) (g : Core → Core) : (s.updCore k g).invs = s.invs := rfl
@[simp] theorem State.updCore_grids (s : State) (k : Nat) (g : Core → Core) : (s.updCore k g).grids = s.grids := rfl
@[simp] theorem State.updCore_halts (s : State) (k : Nat) (g : Core → Core) : (s.updCore k g).halts = s.halts := rfl
@[simp] theorem State.updCore_token (s : State) (k : Nat) (g : Core → Core) : (s.updCore k g).token = s.token := rfl
@[simp] theorem State.updCore_roots (s : State) (k : Nat) (g : Core → Core) : (s.updCore k g).roots = s.roots := rfl
@[simp] theorem State.updCore_peers (s : State) (k : Nat) (g : Core → Core) : (s.updCore k g).peers = s.peers := rfl
@[simp] theorem State.updCore_felts (s : State) (k : Nat) (g : Core → Core) : (s.updCore k g).felts = s.felts := rfl
@[simp] theorem State.updCore_flits (s : State) (k : Nat) (g : Core → Core) : (s.updCore k g).flits = s.flits := rfl
@[simp] theorem State.updCore_ualink (s : State) (k : Nat) (g : Core → Core) : (s.updCore k g).ualink = s.ualink := rfl
@[simp] theorem State.updCore_host (s : State) (k : Nat) (g : Core → Core) : (s.updCore k g).host = s.host := rfl
@[simp] theorem State.updCore_boot (s : State) (k : Nat) (g : Core → Core) : (s.updCore k g).boot = s.boot := rfl
@[simp] theorem State.updCore_image (s : State) (k : Nat) (g : Core → Core) : (s.updCore k g).image = s.image := rfl
@[simp] theorem State.updCore_clockSteps (s : State) (k : Nat) (g : Core → Core) : (s.updCore k g).clockSteps = s.clockSteps := rfl
@[simp] theorem State.updCore_clockAt (s : State) (k : Nat) (g : Core → Core) : (s.updCore k g).clockAt = s.clockAt := rfl
@[simp] theorem State.updCore_fabricAt (s : State) (k : Nat) (g : Core → Core) : (s.updCore k g).fabricAt = s.fabricAt := rfl
@[simp] theorem State.updCore_stopped (s : State) (k : Nat) (g : Core → Core) : (s.updCore k g).stopped = s.stopped := rfl
@[simp] theorem State.updCore_keysErased (s : State) (k : Nat) (g : Core → Core) : (s.updCore k g).keysErased = s.keysErased := rfl
@[simp] theorem State.updCore_frozenDoorbells (s : State) (k : Nat) (g : Core → Core) : (s.updCore k g).frozenDoorbells = s.frozenDoorbells := rfl
@[simp] theorem State.updCore_resetAt (s : State) (k : Nat) (g : Core → Core) : (s.updCore k g).resetAt = s.resetAt := rfl
@[simp] theorem State.updCore_now (s : State) (k : Nat) (g : Core → Core) : (s.updCore k g).now = s.now := rfl
@[simp] theorem State.updCore_nextGrid (s : State) (k : Nat) (g : Core → Core) : (s.updCore k g).nextGrid = s.nextGrid := rfl
@[simp] theorem State.updCore_seq (s : State) (k : Nat) (g : Core → Core) : (s.updCore k g).seq = s.seq := rfl
@[simp] theorem State.updCore_walkTurn (s : State) (k : Nat) (g : Core → Core) : (s.updCore k g).walkTurn = s.walkTurn := rfl
@[simp] theorem State.updCore_walkNext (s : State) (k : Nat) (g : Core → Core) : (s.updCore k g).walkNext = s.walkNext := rfl
@[simp] theorem State.updCore_cur (s : State) (k : Nat) (g : Core → Core) : (s.updCore k g).cur = s.cur := rfl
@[simp] theorem State.updCore_plan (s : State) (k : Nat) (g : Core → Core) : (s.updCore k g).plan = s.plan := rfl
@[simp] theorem State.updCore_free (s : State) (k : Nat) (g : Core → Core) : (s.updCore k g).free = s.free := rfl

@[simp] theorem State.updCore_cores (s : State) (k : Nat) (g : Core → Core) : (s.updCore k g).cores = s.cores.alter k g := rfl

@[simp] theorem State.updThread_mem (s : State) (k a : Nat) (g : Thread → Thread) : (s.updThread k a g).mem = s.mem := rfl
@[simp] theorem State.updThread_poison (s : State) (k a : Nat) (g : Thread → Thread) : (s.updThread k a g).poison = s.poison := rfl
@[simp] theorem State.updThread_covers (s : State) (k a : Nat) (g : Thread → Thread) : (s.updThread k a g).covers = s.covers := rfl
@[simp] theorem State.updThread_dies (s : State) (k a : Nat) (g : Thread → Thread) : (s.updThread k a g).dies = s.dies := rfl
@[simp] theorem State.updThread_domains (s : State) (k a : Nat) (g : Thread → Thread) : (s.updThread k a g).domains = s.domains := rfl
@[simp] theorem State.updThread_notices (s : State) (k a : Nat) (g : Thread → Thread) : (s.updThread k a g).notices = s.notices := rfl
@[simp] theorem State.updThread_resolves (s : State) (k a : Nat) (g : Thread → Thread) : (s.updThread k a g).resolves = s.resolves := rfl
@[simp] theorem State.updThread_reports (s : State) (k a : Nat) (g : Thread → Thread) : (s.updThread k a g).reports = s.reports := rfl
@[simp] theorem State.updThread_pools (s : State) (k a : Nat) (g : Thread → Thread) : (s.updThread k a g).pools = s.pools := rfl
@[simp] theorem State.updThread_queues (s : State) (k a : Nat) (g : Thread → Thread) : (s.updThread k a g).queues = s.queues := rfl
@[simp] theorem State.updThread_invs (s : State) (k a : Nat) (g : Thread → Thread) : (s.updThread k a g).invs = s.invs := rfl
@[simp] theorem State.updThread_grids (s : State) (k a : Nat) (g : Thread → Thread) : (s.updThread k a g).grids = s.grids := rfl
@[simp] theorem State.updThread_halts (s : State) (k a : Nat) (g : Thread → Thread) : (s.updThread k a g).halts = s.halts := rfl
@[simp] theorem State.updThread_token (s : State) (k a : Nat) (g : Thread → Thread) : (s.updThread k a g).token = s.token := rfl
@[simp] theorem State.updThread_roots (s : State) (k a : Nat) (g : Thread → Thread) : (s.updThread k a g).roots = s.roots := rfl
@[simp] theorem State.updThread_peers (s : State) (k a : Nat) (g : Thread → Thread) : (s.updThread k a g).peers = s.peers := rfl
@[simp] theorem State.updThread_felts (s : State) (k a : Nat) (g : Thread → Thread) : (s.updThread k a g).felts = s.felts := rfl
@[simp] theorem State.updThread_flits (s : State) (k a : Nat) (g : Thread → Thread) : (s.updThread k a g).flits = s.flits := rfl
@[simp] theorem State.updThread_ualink (s : State) (k a : Nat) (g : Thread → Thread) : (s.updThread k a g).ualink = s.ualink := rfl
@[simp] theorem State.updThread_host (s : State) (k a : Nat) (g : Thread → Thread) : (s.updThread k a g).host = s.host := rfl
@[simp] theorem State.updThread_boot (s : State) (k a : Nat) (g : Thread → Thread) : (s.updThread k a g).boot = s.boot := rfl
@[simp] theorem State.updThread_image (s : State) (k a : Nat) (g : Thread → Thread) : (s.updThread k a g).image = s.image := rfl
@[simp] theorem State.updThread_clockSteps (s : State) (k a : Nat) (g : Thread → Thread) : (s.updThread k a g).clockSteps = s.clockSteps := rfl
@[simp] theorem State.updThread_clockAt (s : State) (k a : Nat) (g : Thread → Thread) : (s.updThread k a g).clockAt = s.clockAt := rfl
@[simp] theorem State.updThread_fabricAt (s : State) (k a : Nat) (g : Thread → Thread) : (s.updThread k a g).fabricAt = s.fabricAt := rfl
@[simp] theorem State.updThread_stopped (s : State) (k a : Nat) (g : Thread → Thread) : (s.updThread k a g).stopped = s.stopped := rfl
@[simp] theorem State.updThread_keysErased (s : State) (k a : Nat) (g : Thread → Thread) : (s.updThread k a g).keysErased = s.keysErased := rfl
@[simp] theorem State.updThread_frozenDoorbells (s : State) (k a : Nat) (g : Thread → Thread) : (s.updThread k a g).frozenDoorbells = s.frozenDoorbells := rfl
@[simp] theorem State.updThread_resetAt (s : State) (k a : Nat) (g : Thread → Thread) : (s.updThread k a g).resetAt = s.resetAt := rfl
@[simp] theorem State.updThread_now (s : State) (k a : Nat) (g : Thread → Thread) : (s.updThread k a g).now = s.now := rfl
@[simp] theorem State.updThread_nextGrid (s : State) (k a : Nat) (g : Thread → Thread) : (s.updThread k a g).nextGrid = s.nextGrid := rfl
@[simp] theorem State.updThread_seq (s : State) (k a : Nat) (g : Thread → Thread) : (s.updThread k a g).seq = s.seq := rfl
@[simp] theorem State.updThread_walkTurn (s : State) (k a : Nat) (g : Thread → Thread) : (s.updThread k a g).walkTurn = s.walkTurn := rfl
@[simp] theorem State.updThread_walkNext (s : State) (k a : Nat) (g : Thread → Thread) : (s.updThread k a g).walkNext = s.walkNext := rfl
@[simp] theorem State.updThread_cur (s : State) (k a : Nat) (g : Thread → Thread) : (s.updThread k a g).cur = s.cur := rfl
@[simp] theorem State.updThread_plan (s : State) (k a : Nat) (g : Thread → Thread) : (s.updThread k a g).plan = s.plan := rfl
@[simp] theorem State.updThread_free (s : State) (k a : Nat) (g : Thread → Thread) : (s.updThread k a g).free = s.free := rfl

@[simp] theorem State.updSlot_mem (s : State) (k a : Nat) (w : SlotId) (g : Slot → Slot) : (s.updSlot k a w g).mem = s.mem := rfl
@[simp] theorem State.updSlot_poison (s : State) (k a : Nat) (w : SlotId) (g : Slot → Slot) : (s.updSlot k a w g).poison = s.poison := rfl
@[simp] theorem State.updSlot_covers (s : State) (k a : Nat) (w : SlotId) (g : Slot → Slot) : (s.updSlot k a w g).covers = s.covers := rfl
@[simp] theorem State.updSlot_dies (s : State) (k a : Nat) (w : SlotId) (g : Slot → Slot) : (s.updSlot k a w g).dies = s.dies := rfl
@[simp] theorem State.updSlot_domains (s : State) (k a : Nat) (w : SlotId) (g : Slot → Slot) : (s.updSlot k a w g).domains = s.domains := rfl
@[simp] theorem State.updSlot_notices (s : State) (k a : Nat) (w : SlotId) (g : Slot → Slot) : (s.updSlot k a w g).notices = s.notices := rfl
@[simp] theorem State.updSlot_resolves (s : State) (k a : Nat) (w : SlotId) (g : Slot → Slot) : (s.updSlot k a w g).resolves = s.resolves := rfl
@[simp] theorem State.updSlot_reports (s : State) (k a : Nat) (w : SlotId) (g : Slot → Slot) : (s.updSlot k a w g).reports = s.reports := rfl
@[simp] theorem State.updSlot_pools (s : State) (k a : Nat) (w : SlotId) (g : Slot → Slot) : (s.updSlot k a w g).pools = s.pools := rfl
@[simp] theorem State.updSlot_queues (s : State) (k a : Nat) (w : SlotId) (g : Slot → Slot) : (s.updSlot k a w g).queues = s.queues := rfl
@[simp] theorem State.updSlot_invs (s : State) (k a : Nat) (w : SlotId) (g : Slot → Slot) : (s.updSlot k a w g).invs = s.invs := rfl
@[simp] theorem State.updSlot_grids (s : State) (k a : Nat) (w : SlotId) (g : Slot → Slot) : (s.updSlot k a w g).grids = s.grids := rfl
@[simp] theorem State.updSlot_halts (s : State) (k a : Nat) (w : SlotId) (g : Slot → Slot) : (s.updSlot k a w g).halts = s.halts := rfl
@[simp] theorem State.updSlot_token (s : State) (k a : Nat) (w : SlotId) (g : Slot → Slot) : (s.updSlot k a w g).token = s.token := rfl
@[simp] theorem State.updSlot_roots (s : State) (k a : Nat) (w : SlotId) (g : Slot → Slot) : (s.updSlot k a w g).roots = s.roots := rfl
@[simp] theorem State.updSlot_peers (s : State) (k a : Nat) (w : SlotId) (g : Slot → Slot) : (s.updSlot k a w g).peers = s.peers := rfl
@[simp] theorem State.updSlot_felts (s : State) (k a : Nat) (w : SlotId) (g : Slot → Slot) : (s.updSlot k a w g).felts = s.felts := rfl
@[simp] theorem State.updSlot_flits (s : State) (k a : Nat) (w : SlotId) (g : Slot → Slot) : (s.updSlot k a w g).flits = s.flits := rfl
@[simp] theorem State.updSlot_ualink (s : State) (k a : Nat) (w : SlotId) (g : Slot → Slot) : (s.updSlot k a w g).ualink = s.ualink := rfl
@[simp] theorem State.updSlot_host (s : State) (k a : Nat) (w : SlotId) (g : Slot → Slot) : (s.updSlot k a w g).host = s.host := rfl
@[simp] theorem State.updSlot_boot (s : State) (k a : Nat) (w : SlotId) (g : Slot → Slot) : (s.updSlot k a w g).boot = s.boot := rfl
@[simp] theorem State.updSlot_image (s : State) (k a : Nat) (w : SlotId) (g : Slot → Slot) : (s.updSlot k a w g).image = s.image := rfl
@[simp] theorem State.updSlot_clockSteps (s : State) (k a : Nat) (w : SlotId) (g : Slot → Slot) : (s.updSlot k a w g).clockSteps = s.clockSteps := rfl
@[simp] theorem State.updSlot_clockAt (s : State) (k a : Nat) (w : SlotId) (g : Slot → Slot) : (s.updSlot k a w g).clockAt = s.clockAt := rfl
@[simp] theorem State.updSlot_fabricAt (s : State) (k a : Nat) (w : SlotId) (g : Slot → Slot) : (s.updSlot k a w g).fabricAt = s.fabricAt := rfl
@[simp] theorem State.updSlot_stopped (s : State) (k a : Nat) (w : SlotId) (g : Slot → Slot) : (s.updSlot k a w g).stopped = s.stopped := rfl
@[simp] theorem State.updSlot_keysErased (s : State) (k a : Nat) (w : SlotId) (g : Slot → Slot) : (s.updSlot k a w g).keysErased = s.keysErased := rfl
@[simp] theorem State.updSlot_frozenDoorbells (s : State) (k a : Nat) (w : SlotId) (g : Slot → Slot) : (s.updSlot k a w g).frozenDoorbells = s.frozenDoorbells := rfl
@[simp] theorem State.updSlot_resetAt (s : State) (k a : Nat) (w : SlotId) (g : Slot → Slot) : (s.updSlot k a w g).resetAt = s.resetAt := rfl
@[simp] theorem State.updSlot_now (s : State) (k a : Nat) (w : SlotId) (g : Slot → Slot) : (s.updSlot k a w g).now = s.now := rfl
@[simp] theorem State.updSlot_nextGrid (s : State) (k a : Nat) (w : SlotId) (g : Slot → Slot) : (s.updSlot k a w g).nextGrid = s.nextGrid := rfl
@[simp] theorem State.updSlot_seq (s : State) (k a : Nat) (w : SlotId) (g : Slot → Slot) : (s.updSlot k a w g).seq = s.seq := rfl
@[simp] theorem State.updSlot_walkTurn (s : State) (k a : Nat) (w : SlotId) (g : Slot → Slot) : (s.updSlot k a w g).walkTurn = s.walkTurn := rfl
@[simp] theorem State.updSlot_walkNext (s : State) (k a : Nat) (w : SlotId) (g : Slot → Slot) : (s.updSlot k a w g).walkNext = s.walkNext := rfl
@[simp] theorem State.updSlot_cur (s : State) (k a : Nat) (w : SlotId) (g : Slot → Slot) : (s.updSlot k a w g).cur = s.cur := rfl
@[simp] theorem State.updSlot_plan (s : State) (k a : Nat) (w : SlotId) (g : Slot → Slot) : (s.updSlot k a w g).plan = s.plan := rfl
@[simp] theorem State.updSlot_free (s : State) (k a : Nat) (w : SlotId) (g : Slot → Slot) : (s.updSlot k a w g).free = s.free := rfl

@[simp] theorem State.updDie_mem (s : State) (d : Nat) (g : Die → Die) : (s.updDie d g).mem = s.mem := by unfold State.updDie; split <;> rfl
@[simp] theorem State.updDie_poison (s : State) (d : Nat) (g : Die → Die) : (s.updDie d g).poison = s.poison := by unfold State.updDie; split <;> rfl
@[simp] theorem State.updDie_covers (s : State) (d : Nat) (g : Die → Die) : (s.updDie d g).covers = s.covers := by unfold State.updDie; split <;> rfl
@[simp] theorem State.updDie_cores (s : State) (d : Nat) (g : Die → Die) : (s.updDie d g).cores = s.cores := by unfold State.updDie; split <;> rfl
@[simp] theorem State.updDie_domains (s : State) (d : Nat) (g : Die → Die) : (s.updDie d g).domains = s.domains := by unfold State.updDie; split <;> rfl
@[simp] theorem State.updDie_notices (s : State) (d : Nat) (g : Die → Die) : (s.updDie d g).notices = s.notices := by unfold State.updDie; split <;> rfl
@[simp] theorem State.updDie_resolves (s : State) (d : Nat) (g : Die → Die) : (s.updDie d g).resolves = s.resolves := by unfold State.updDie; split <;> rfl
@[simp] theorem State.updDie_reports (s : State) (d : Nat) (g : Die → Die) : (s.updDie d g).reports = s.reports := by unfold State.updDie; split <;> rfl
@[simp] theorem State.updDie_pools (s : State) (d : Nat) (g : Die → Die) : (s.updDie d g).pools = s.pools := by unfold State.updDie; split <;> rfl
@[simp] theorem State.updDie_queues (s : State) (d : Nat) (g : Die → Die) : (s.updDie d g).queues = s.queues := by unfold State.updDie; split <;> rfl
@[simp] theorem State.updDie_invs (s : State) (d : Nat) (g : Die → Die) : (s.updDie d g).invs = s.invs := by unfold State.updDie; split <;> rfl
@[simp] theorem State.updDie_grids (s : State) (d : Nat) (g : Die → Die) : (s.updDie d g).grids = s.grids := by unfold State.updDie; split <;> rfl
@[simp] theorem State.updDie_halts (s : State) (d : Nat) (g : Die → Die) : (s.updDie d g).halts = s.halts := by unfold State.updDie; split <;> rfl
@[simp] theorem State.updDie_token (s : State) (d : Nat) (g : Die → Die) : (s.updDie d g).token = s.token := by unfold State.updDie; split <;> rfl
@[simp] theorem State.updDie_roots (s : State) (d : Nat) (g : Die → Die) : (s.updDie d g).roots = s.roots := by unfold State.updDie; split <;> rfl
@[simp] theorem State.updDie_peers (s : State) (d : Nat) (g : Die → Die) : (s.updDie d g).peers = s.peers := by unfold State.updDie; split <;> rfl
@[simp] theorem State.updDie_felts (s : State) (d : Nat) (g : Die → Die) : (s.updDie d g).felts = s.felts := by unfold State.updDie; split <;> rfl
@[simp] theorem State.updDie_flits (s : State) (d : Nat) (g : Die → Die) : (s.updDie d g).flits = s.flits := by unfold State.updDie; split <;> rfl
@[simp] theorem State.updDie_ualink (s : State) (d : Nat) (g : Die → Die) : (s.updDie d g).ualink = s.ualink := by unfold State.updDie; split <;> rfl
@[simp] theorem State.updDie_host (s : State) (d : Nat) (g : Die → Die) : (s.updDie d g).host = s.host := by unfold State.updDie; split <;> rfl
@[simp] theorem State.updDie_boot (s : State) (d : Nat) (g : Die → Die) : (s.updDie d g).boot = s.boot := by unfold State.updDie; split <;> rfl
@[simp] theorem State.updDie_image (s : State) (d : Nat) (g : Die → Die) : (s.updDie d g).image = s.image := by unfold State.updDie; split <;> rfl
@[simp] theorem State.updDie_clockSteps (s : State) (d : Nat) (g : Die → Die) : (s.updDie d g).clockSteps = s.clockSteps := by unfold State.updDie; split <;> rfl
@[simp] theorem State.updDie_clockAt (s : State) (d : Nat) (g : Die → Die) : (s.updDie d g).clockAt = s.clockAt := by unfold State.updDie; split <;> rfl
@[simp] theorem State.updDie_fabricAt (s : State) (d : Nat) (g : Die → Die) : (s.updDie d g).fabricAt = s.fabricAt := by unfold State.updDie; split <;> rfl
@[simp] theorem State.updDie_stopped (s : State) (d : Nat) (g : Die → Die) : (s.updDie d g).stopped = s.stopped := by unfold State.updDie; split <;> rfl
@[simp] theorem State.updDie_keysErased (s : State) (d : Nat) (g : Die → Die) : (s.updDie d g).keysErased = s.keysErased := by unfold State.updDie; split <;> rfl
@[simp] theorem State.updDie_frozenDoorbells (s : State) (d : Nat) (g : Die → Die) : (s.updDie d g).frozenDoorbells = s.frozenDoorbells := by unfold State.updDie; split <;> rfl
@[simp] theorem State.updDie_resetAt (s : State) (d : Nat) (g : Die → Die) : (s.updDie d g).resetAt = s.resetAt := by unfold State.updDie; split <;> rfl
@[simp] theorem State.updDie_now (s : State) (d : Nat) (g : Die → Die) : (s.updDie d g).now = s.now := by unfold State.updDie; split <;> rfl
@[simp] theorem State.updDie_nextGrid (s : State) (d : Nat) (g : Die → Die) : (s.updDie d g).nextGrid = s.nextGrid := by unfold State.updDie; split <;> rfl
@[simp] theorem State.updDie_seq (s : State) (d : Nat) (g : Die → Die) : (s.updDie d g).seq = s.seq := by unfold State.updDie; split <;> rfl
@[simp] theorem State.updDie_walkTurn (s : State) (d : Nat) (g : Die → Die) : (s.updDie d g).walkTurn = s.walkTurn := by unfold State.updDie; split <;> rfl
@[simp] theorem State.updDie_walkNext (s : State) (d : Nat) (g : Die → Die) : (s.updDie d g).walkNext = s.walkNext := by unfold State.updDie; split <;> rfl
@[simp] theorem State.updDie_cur (s : State) (d : Nat) (g : Die → Die) : (s.updDie d g).cur = s.cur := by unfold State.updDie; split <;> rfl
@[simp] theorem State.updDie_plan (s : State) (d : Nat) (g : Die → Die) : (s.updDie d g).plan = s.plan := by unfold State.updDie; split <;> rfl
@[simp] theorem State.updDie_free (s : State) (d : Nat) (g : Die → Die) : (s.updDie d g).free = s.free := by unfold State.updDie; split <;> rfl

@[simp] theorem State.updDomain_mem (s : State) (d : Nat) (g : Domain → Domain) : (s.updDomain d g).mem = s.mem := rfl
@[simp] theorem State.updDomain_poison (s : State) (d : Nat) (g : Domain → Domain) : (s.updDomain d g).poison = s.poison := rfl
@[simp] theorem State.updDomain_covers (s : State) (d : Nat) (g : Domain → Domain) : (s.updDomain d g).covers = s.covers := rfl
@[simp] theorem State.updDomain_cores (s : State) (d : Nat) (g : Domain → Domain) : (s.updDomain d g).cores = s.cores := rfl
@[simp] theorem State.updDomain_dies (s : State) (d : Nat) (g : Domain → Domain) : (s.updDomain d g).dies = s.dies := rfl
@[simp] theorem State.updDomain_notices (s : State) (d : Nat) (g : Domain → Domain) : (s.updDomain d g).notices = s.notices := rfl
@[simp] theorem State.updDomain_resolves (s : State) (d : Nat) (g : Domain → Domain) : (s.updDomain d g).resolves = s.resolves := rfl
@[simp] theorem State.updDomain_reports (s : State) (d : Nat) (g : Domain → Domain) : (s.updDomain d g).reports = s.reports := rfl
@[simp] theorem State.updDomain_pools (s : State) (d : Nat) (g : Domain → Domain) : (s.updDomain d g).pools = s.pools := rfl
@[simp] theorem State.updDomain_queues (s : State) (d : Nat) (g : Domain → Domain) : (s.updDomain d g).queues = s.queues := rfl
@[simp] theorem State.updDomain_invs (s : State) (d : Nat) (g : Domain → Domain) : (s.updDomain d g).invs = s.invs := rfl
@[simp] theorem State.updDomain_grids (s : State) (d : Nat) (g : Domain → Domain) : (s.updDomain d g).grids = s.grids := rfl
@[simp] theorem State.updDomain_halts (s : State) (d : Nat) (g : Domain → Domain) : (s.updDomain d g).halts = s.halts := rfl
@[simp] theorem State.updDomain_token (s : State) (d : Nat) (g : Domain → Domain) : (s.updDomain d g).token = s.token := rfl
@[simp] theorem State.updDomain_roots (s : State) (d : Nat) (g : Domain → Domain) : (s.updDomain d g).roots = s.roots := rfl
@[simp] theorem State.updDomain_peers (s : State) (d : Nat) (g : Domain → Domain) : (s.updDomain d g).peers = s.peers := rfl
@[simp] theorem State.updDomain_felts (s : State) (d : Nat) (g : Domain → Domain) : (s.updDomain d g).felts = s.felts := rfl
@[simp] theorem State.updDomain_flits (s : State) (d : Nat) (g : Domain → Domain) : (s.updDomain d g).flits = s.flits := rfl
@[simp] theorem State.updDomain_ualink (s : State) (d : Nat) (g : Domain → Domain) : (s.updDomain d g).ualink = s.ualink := rfl
@[simp] theorem State.updDomain_host (s : State) (d : Nat) (g : Domain → Domain) : (s.updDomain d g).host = s.host := rfl
@[simp] theorem State.updDomain_boot (s : State) (d : Nat) (g : Domain → Domain) : (s.updDomain d g).boot = s.boot := rfl
@[simp] theorem State.updDomain_image (s : State) (d : Nat) (g : Domain → Domain) : (s.updDomain d g).image = s.image := rfl
@[simp] theorem State.updDomain_clockSteps (s : State) (d : Nat) (g : Domain → Domain) : (s.updDomain d g).clockSteps = s.clockSteps := rfl
@[simp] theorem State.updDomain_clockAt (s : State) (d : Nat) (g : Domain → Domain) : (s.updDomain d g).clockAt = s.clockAt := rfl
@[simp] theorem State.updDomain_fabricAt (s : State) (d : Nat) (g : Domain → Domain) : (s.updDomain d g).fabricAt = s.fabricAt := rfl
@[simp] theorem State.updDomain_stopped (s : State) (d : Nat) (g : Domain → Domain) : (s.updDomain d g).stopped = s.stopped := rfl
@[simp] theorem State.updDomain_keysErased (s : State) (d : Nat) (g : Domain → Domain) : (s.updDomain d g).keysErased = s.keysErased := rfl
@[simp] theorem State.updDomain_frozenDoorbells (s : State) (d : Nat) (g : Domain → Domain) : (s.updDomain d g).frozenDoorbells = s.frozenDoorbells := rfl
@[simp] theorem State.updDomain_resetAt (s : State) (d : Nat) (g : Domain → Domain) : (s.updDomain d g).resetAt = s.resetAt := rfl
@[simp] theorem State.updDomain_now (s : State) (d : Nat) (g : Domain → Domain) : (s.updDomain d g).now = s.now := rfl
@[simp] theorem State.updDomain_nextGrid (s : State) (d : Nat) (g : Domain → Domain) : (s.updDomain d g).nextGrid = s.nextGrid := rfl
@[simp] theorem State.updDomain_seq (s : State) (d : Nat) (g : Domain → Domain) : (s.updDomain d g).seq = s.seq := rfl
@[simp] theorem State.updDomain_walkTurn (s : State) (d : Nat) (g : Domain → Domain) : (s.updDomain d g).walkTurn = s.walkTurn := rfl
@[simp] theorem State.updDomain_walkNext (s : State) (d : Nat) (g : Domain → Domain) : (s.updDomain d g).walkNext = s.walkNext := rfl
@[simp] theorem State.updDomain_cur (s : State) (d : Nat) (g : Domain → Domain) : (s.updDomain d g).cur = s.cur := rfl
@[simp] theorem State.updDomain_plan (s : State) (d : Nat) (g : Domain → Domain) : (s.updDomain d g).plan = s.plan := rfl
@[simp] theorem State.updDomain_free (s : State) (d : Nat) (g : Domain → Domain) : (s.updDomain d g).free = s.free := rfl

@[simp] theorem State.updQueue_mem (s : State) (q : Nat) (g : Queue → Queue) : (s.updQueue q g).mem = s.mem := rfl
@[simp] theorem State.updQueue_poison (s : State) (q : Nat) (g : Queue → Queue) : (s.updQueue q g).poison = s.poison := rfl
@[simp] theorem State.updQueue_covers (s : State) (q : Nat) (g : Queue → Queue) : (s.updQueue q g).covers = s.covers := rfl
@[simp] theorem State.updQueue_cores (s : State) (q : Nat) (g : Queue → Queue) : (s.updQueue q g).cores = s.cores := rfl
@[simp] theorem State.updQueue_dies (s : State) (q : Nat) (g : Queue → Queue) : (s.updQueue q g).dies = s.dies := rfl
@[simp] theorem State.updQueue_domains (s : State) (q : Nat) (g : Queue → Queue) : (s.updQueue q g).domains = s.domains := rfl
@[simp] theorem State.updQueue_notices (s : State) (q : Nat) (g : Queue → Queue) : (s.updQueue q g).notices = s.notices := rfl
@[simp] theorem State.updQueue_resolves (s : State) (q : Nat) (g : Queue → Queue) : (s.updQueue q g).resolves = s.resolves := rfl
@[simp] theorem State.updQueue_reports (s : State) (q : Nat) (g : Queue → Queue) : (s.updQueue q g).reports = s.reports := rfl
@[simp] theorem State.updQueue_pools (s : State) (q : Nat) (g : Queue → Queue) : (s.updQueue q g).pools = s.pools := rfl
@[simp] theorem State.updQueue_invs (s : State) (q : Nat) (g : Queue → Queue) : (s.updQueue q g).invs = s.invs := rfl
@[simp] theorem State.updQueue_grids (s : State) (q : Nat) (g : Queue → Queue) : (s.updQueue q g).grids = s.grids := rfl
@[simp] theorem State.updQueue_halts (s : State) (q : Nat) (g : Queue → Queue) : (s.updQueue q g).halts = s.halts := rfl
@[simp] theorem State.updQueue_token (s : State) (q : Nat) (g : Queue → Queue) : (s.updQueue q g).token = s.token := rfl
@[simp] theorem State.updQueue_roots (s : State) (q : Nat) (g : Queue → Queue) : (s.updQueue q g).roots = s.roots := rfl
@[simp] theorem State.updQueue_peers (s : State) (q : Nat) (g : Queue → Queue) : (s.updQueue q g).peers = s.peers := rfl
@[simp] theorem State.updQueue_felts (s : State) (q : Nat) (g : Queue → Queue) : (s.updQueue q g).felts = s.felts := rfl
@[simp] theorem State.updQueue_flits (s : State) (q : Nat) (g : Queue → Queue) : (s.updQueue q g).flits = s.flits := rfl
@[simp] theorem State.updQueue_ualink (s : State) (q : Nat) (g : Queue → Queue) : (s.updQueue q g).ualink = s.ualink := rfl
@[simp] theorem State.updQueue_host (s : State) (q : Nat) (g : Queue → Queue) : (s.updQueue q g).host = s.host := rfl
@[simp] theorem State.updQueue_boot (s : State) (q : Nat) (g : Queue → Queue) : (s.updQueue q g).boot = s.boot := rfl
@[simp] theorem State.updQueue_image (s : State) (q : Nat) (g : Queue → Queue) : (s.updQueue q g).image = s.image := rfl
@[simp] theorem State.updQueue_clockSteps (s : State) (q : Nat) (g : Queue → Queue) : (s.updQueue q g).clockSteps = s.clockSteps := rfl
@[simp] theorem State.updQueue_clockAt (s : State) (q : Nat) (g : Queue → Queue) : (s.updQueue q g).clockAt = s.clockAt := rfl
@[simp] theorem State.updQueue_fabricAt (s : State) (q : Nat) (g : Queue → Queue) : (s.updQueue q g).fabricAt = s.fabricAt := rfl
@[simp] theorem State.updQueue_stopped (s : State) (q : Nat) (g : Queue → Queue) : (s.updQueue q g).stopped = s.stopped := rfl
@[simp] theorem State.updQueue_keysErased (s : State) (q : Nat) (g : Queue → Queue) : (s.updQueue q g).keysErased = s.keysErased := rfl
@[simp] theorem State.updQueue_frozenDoorbells (s : State) (q : Nat) (g : Queue → Queue) : (s.updQueue q g).frozenDoorbells = s.frozenDoorbells := rfl
@[simp] theorem State.updQueue_resetAt (s : State) (q : Nat) (g : Queue → Queue) : (s.updQueue q g).resetAt = s.resetAt := rfl
@[simp] theorem State.updQueue_now (s : State) (q : Nat) (g : Queue → Queue) : (s.updQueue q g).now = s.now := rfl
@[simp] theorem State.updQueue_nextGrid (s : State) (q : Nat) (g : Queue → Queue) : (s.updQueue q g).nextGrid = s.nextGrid := rfl
@[simp] theorem State.updQueue_seq (s : State) (q : Nat) (g : Queue → Queue) : (s.updQueue q g).seq = s.seq := rfl
@[simp] theorem State.updQueue_walkTurn (s : State) (q : Nat) (g : Queue → Queue) : (s.updQueue q g).walkTurn = s.walkTurn := rfl
@[simp] theorem State.updQueue_walkNext (s : State) (q : Nat) (g : Queue → Queue) : (s.updQueue q g).walkNext = s.walkNext := rfl
@[simp] theorem State.updQueue_cur (s : State) (q : Nat) (g : Queue → Queue) : (s.updQueue q g).cur = s.cur := rfl
@[simp] theorem State.updQueue_plan (s : State) (q : Nat) (g : Queue → Queue) : (s.updQueue q g).plan = s.plan := rfl
@[simp] theorem State.updQueue_free (s : State) (q : Nat) (g : Queue → Queue) : (s.updQueue q g).free = s.free := rfl

end Sys2Proof.Machine
end

