-- ==== Sys2Proof/Laws/Issue.lean ====
section
/-! SUPPORT. What the shared operations of packet words do: reaching the thread that issues, going on, writing results, and what an
instruction leaves unchanged. -/

namespace Sys2Proof.Machine

/-! ## Reaching cores and threads -/

@[simp] theorem State.core?_updCore_same (s : State) (k : Nat) (g : Core → Core) : (s.updCore k g).core? k = (s.core? k).map g :=
  KMap.find_alter_same _ _ _

theorem State.core?_updCore_other (s : State) (k j : Nat) (g : Core → Core) (h : j ≠ k) : (s.updCore k g).core? j = s.core? j :=
  KMap.find_alter_other _ _ _ _ h

theorem State.updCore_updCore (s : State) (k : Nat) (f g : Core → Core) : (s.updCore k f).updCore k g = s.updCore k fun c => g (f c) := by
  simp [State.updCore, KMap.alter_alter]

theorem State.updCore_congr (s : State) (k : Nat) (f g : Core → Core) (h : ∀ c, s.core? k = some c → f c = g c) :
    s.updCore k f = s.updCore k g := by
  simp only [State.updCore]
  rw [KMap.alter_congr _ _ _ _ h]

theorem Core.thread_updThread_same (c : Core) (a : Nat) (g : Thread → Thread) (h : a ≤ apAgent) :
    (c.updThread a g).thread a = g (c.thread a) := by
  simp [Core.updThread, h, Core.thread]

theorem Core.thread_updThread_other (c : Core) (a b : Nat) (g : Thread → Thread) (h : b ≠ a) : (c.updThread a g).thread b = c.thread b := by
  unfold Core.updThread
  split
  · exact nth_alterPad_other _ _ _ _ _ h
  · rfl

theorem Core.updThread_updThread (c : Core) (a : Nat) (f g : Thread → Thread) :
    (c.updThread a f).updThread a g = c.updThread a fun t => g (f t) := by
  unfold Core.updThread
  split <;> simp [alterPad_alterPad]

theorem Core.updThread_congr (c : Core) (a : Nat) (f g : Thread → Thread) (h : f (c.thread a) = g (c.thread a)) :
    c.updThread a f = c.updThread a g := by
  unfold Core.updThread
  split
  · rw [alterPad_congr _ _ _ _ _ h]
  · rfl

theorem State.thread_of_core (s : State) (k a : Nat) (c : Core) (h : s.core? k = some c) : s.thread k a = c.thread a := by
  simp [State.thread, h]

/-- What the issuing agent needs for its thread to be there: a resident block and a number among the agents of a core. -/
def Ctx.present (c : Ctx) (s : State) : Prop := (s.core? c.k).isSome ∧ c.a ≤ apAgent

theorem Ctx.present_updThread {c : Ctx} {s : State} (h : c.present s) (g : Thread → Thread) : c.present (s.updThread c.k c.a g) := by
  refine ⟨?_, h.2⟩
  simpa [State.updThread] using h.1

theorem Ctx.my_updThread {c : Ctx} {s : State} (h : c.present s) (g : Thread → Thread) :
    c.my (s.updThread c.k c.a g) = g (c.my s) := by
  obtain ⟨hc, ha⟩ := h
  obtain ⟨core, hcore⟩ := Option.isSome_iff_exists.mp hc
  simp [Ctx.my, State.thread, State.updThread, hcore, Core.thread_updThread_same _ _ _ ha]

theorem State.updThread_updThread (s : State) (k a : Nat) (f g : Thread → Thread) :
    (s.updThread k a f).updThread k a g = s.updThread k a fun t => g (f t) := by
  simp only [State.updThread, State.updCore_updCore]
  congr 1
  funext c
  exact Core.updThread_updThread c a f g

theorem State.updThread_congr (s : State) (k a : Nat) (f g : Thread → Thread) (h : f (s.thread k a) = g (s.thread k a)) :
    s.updThread k a f = s.updThread k a g := by
  unfold State.updThread
  refine State.updCore_congr _ _ _ _ fun c hc => Core.updThread_congr _ _ _ _ ?_
  simpa [State.thread, hc] using h

/-! ## An acting instruction -/

/-- What it means that an instruction's own effect happens. -/
theorem State.acting_spec {s s1 : State} {i : Instr} {c : Ctx} (h : s.acting i = some (c, s1)) :
    ∃ core, s.cur = some c.iss ∧ s.core? c.k = some core ∧ mkCtx c.iss core i s = (c, s1) ∧ c.a ≤ apAgent ∧ c.th.ahead = none ∧
      c.interlocked s1.now = false ∧ c.form.reject c.ap c.th.window c.iss = none ∧ c.shortStall s1.now = none ∧
      (c.th.wctl.getLsbD 0 && c.guardEarly s1.now) = false ∧ c.pass ≠ 0#32 ∧ c.poisoned = 0#32 := by
  unfold State.acting at h
  split at h
  · cases h
  · next iss hiss =>
    split at h
    · cases h
    · next core hcore =>
      simp only [] at h
      split at h
      · next hc =>
        obtain ⟨h1, h2, h3, h4, h5, h6, h7, h8, -⟩ := hc
        simp only [Option.some.injEq] at h
        have hi : c.iss = iss := by
          have := congrArg (fun x => x.1.iss) h
          simpa [mkCtx] using this.symm
        have e : mkCtx iss core i s = (c, s1) := h
        rw [e] at h2 h3 h4 h5 h6 h7 h8
        subst hi
        exact ⟨core, hiss, hcore, e, h1, h2, h3, by simpa using h4, by simpa using h5, h6, h7, h8⟩
      · cases h

/-- An acting instruction does what its meaning says, unless its own checks fail. -/
theorem issueWith_acting {s s1 : State} {i : Instr} {c : Ctx} (h : s.acting i = some (c, s1)) (chk : Ctx → State → Option W8)
    (body : Ctx → State → State) (load : Ctx → Ahead → State → State) (hk : chk c s1 = none) :
    issueWith i chk body load s = .next (body c s1) := by
  obtain ⟨core, h1, h2, h3, -, h5, h6, h7, h8, h9, h10, h11⟩ := State.acting_spec h
  have h2' : s.core? c.iss.core = some core := h2
  simp only [issueWith, h1, h2', h3, h5, h6, h7, Ctx.execute, h9, h8]
  simp [hk, h10, h11]

theorem issue_acting {s s1 : State} {i : Instr} {c : Ctx} (h : s.acting i = some (c, s1)) (chk : Ctx → State → Option W8)
    (body : Ctx → State → State) (hk : chk c s1 = none) : issue i chk body s = .next (body c s1) :=
  issueWith_acting h chk body _ hk

/-- What an acting instruction sees. -/
theorem State.acting_form {s s1 : State} {i : Instr} {c : Ctx} (h : s.acting i = some (c, s1)) : c.form = form c.ap c.iss.xs i := by
  obtain ⟨core, -, -, h3, -⟩ := State.acting_spec h
  have := congrArg (fun x => x.1.form) h3
  simpa [mkCtx, Ctx.ap] using this.symm

theorem State.acting_core {s s1 : State} {i : Instr} {c : Ctx} (h : s.acting i = some (c, s1)) : s.core? c.k = some c.core := by
  obtain ⟨core, -, h2, h3, -⟩ := State.acting_spec h
  have := congrArg (fun x => x.1.core) h3
  simp only [mkCtx] at this
  rw [h2, this]

theorem State.acting_instr {s s1 : State} {i : Instr} {c : Ctx} (h : s.acting i = some (c, s1)) : c.instr = i := by
  obtain ⟨core, -, -, h3, -⟩ := State.acting_spec h
  have := congrArg (fun x => x.1.instr) h3
  simpa [mkCtx] using this.symm

/-- Early reads use free values and change nothing else. -/
theorem State.acting_state {s s1 : State} {i : Instr} {c : Ctx} (h : s.acting i = some (c, s1)) : s1 = { s with free := s1.free } := by
  obtain ⟨core, -, -, h3, -⟩ := State.acting_spec h
  have := congrArg Prod.snd h3
  simp only [mkCtx] at this
  rw [← this]

theorem State.acting_present {s s1 : State} {i : Instr} {c : Ctx} (h : s.acting i = some (c, s1)) : c.present s1 := by
  obtain ⟨core, -, h2, -, h4, -⟩ := State.acting_spec h
  rw [State.acting_state h]
  refine ⟨?_, h4⟩
  have : s.core? c.k = some core := h2
  simp [State.core?] at this ⊢
  simp [this]

/-- What a step of `readView` may change. -/
theorem Thread.readView_rest (t : Thread) (rs : List RegRef) (now free : Nat) :
    ∃ v sr p, (t.readView rs now free).1 = { t with v := v, s := sr, p := p } := by
  unfold Thread.readView
  have : ∀ (l : List Recent) (u : Thread) (n : Nat), (∃ v sr p, u = { t with v := v, s := sr, p := p }) →
      ∃ v sr p, (l.foldl (fun acc e =>
    let (t, free) := acc
    if !rs.contains e.reg || !e.unseen now then (t, free)
    else
      let group := decide (e.issuedAt = now)
      let pick : W32 := e.lanes &&& (if group then allLanes else maskOf fun i => Config.freeBit (free + i))
      let free := if group then free else free + 32
      match e.reg with
      | .v n => ({ t with v := alterAt t.v n fun r => r.take e.old pick }, free)
      | .s n => ({ t with s := alterAt t.s n fun r => if bit pick 0 then e.oldScalar else r }, free)
      | .p n => ({ t with p := alterAt t.p n fun r => blend pick e.oldPred r }, free)) (u, n)).1 =
        { t with v := v, s := sr, p := p } := by
    intro l
    induction l with
    | nil => intro u n h; simpa using h
    | cons e l ih =>
      rintro u n ⟨v, sr, p, rfl⟩
      simp only [List.foldl_cons]
      split
      · exact ih _ _ ⟨v, sr, p, rfl⟩
      · split
        · exact ih _ _ ⟨_, sr, p, rfl⟩
        · exact ih _ _ ⟨v, _, p, rfl⟩
        · exact ih _ _ ⟨v, sr, _, rfl⟩
  exact this _ _ _ ⟨t.v, t.s, t.p, rfl⟩

theorem mkCtx_th (iss : Issue) (core : Core) (i : Instr) (s : State) :
    ∃ v sr p, (mkCtx iss core i s).1.th = { core.thread iss.agent with v := v, s := sr, p := p } := by
  unfold mkCtx
  by_cases h : iss.agent ≥ 16
  · simp only [h, if_true]
    exact ⟨_, _, _, rfl⟩
  · simp only [h, if_false]
    exact Thread.readView_rest _ _ _ _

/-- The thread as the instruction reads it differs from the thread in registers alone. -/
theorem State.acting_thread {s s1 : State} {i : Instr} {c : Ctx} (h : s.acting i = some (c, s1)) :
    ∃ v sr p, c.th = { c.my s1 with v := v, s := sr, p := p } := by
  obtain ⟨core, -, h2, h3, -⟩ := State.acting_spec h
  have e : c.th = (mkCtx c.iss core i s).1.th := by rw [h3]
  have hm : c.my s1 = core.thread c.iss.agent := by
    rw [State.acting_state h]
    have : s.core? c.k = some core := h2
    simp only [Ctx.my, State.thread, State.core?] at this ⊢
    simp [this, Ctx.a]
  rw [e, hm]
  exact mkCtx_th _ _ _ _

theorem State.acting_notAhead {s s1 : State} {i : Instr} {c : Ctx} (h : s.acting i = some (c, s1)) : (c.my s1).ahead = none := by
  obtain ⟨core, -, -, -, -, h5, -⟩ := State.acting_spec h
  obtain ⟨v, sr, p, e⟩ := State.acting_thread h
  rw [e] at h5
  exact h5

end Sys2Proof.Machine
end

