-- ==== Sys2Proof/Laws/Results.lean ====
section
/-! SUPPORT. Writing a register and going on: what the destination holds, where the slot stands, and that nothing else changes. -/

namespace Sys2Proof.Machine

/-! ## Masks -/

theorem bit_ofNat_sum (f : Nat → Bool) (n : Nat) :
    ∀ i, ((List.range n).foldl (fun acc i => if f i then acc + 2 ^ i else acc) 0).testBit i = (decide (i < n) && f i) ∧
      (List.range n).foldl (fun acc i => if f i then acc + 2 ^ i else acc) 0 < 2 ^ n := by
  induction n with
  | zero => intro i; simp
  | succ n ih =>
    intro i
    rw [List.range_succ, List.foldl_append]
    simp only [List.foldl_cons, List.foldl_nil]
    obtain ⟨h1, h2⟩ := ih i
    by_cases hf : f n
    · simp only [hf, if_true]
      rw [Nat.add_comm]
      refine ⟨?_, by rw [Nat.pow_succ]; omega⟩
      rcases Nat.lt_trichotomy i n with h | h | h
      · rw [Nat.testBit_two_pow_add_gt h, h1]; simp [h, Nat.lt_succ_of_lt h]
      · subst h; rw [Nat.testBit_two_pow_add_eq, h1]; simp [hf]
      · have hp : 2 ^ n * 2 ≤ 2 ^ i := by
          have := Nat.pow_le_pow_right (by omega : 2 > 0) (show n + 1 ≤ i from h)
          rwa [Nat.pow_succ] at this
        have : 2 ^ n + (List.range n).foldl (fun acc i => if f i then acc + 2 ^ i else acc) 0 < 2 ^ i := by omega
        rw [Nat.testBit_lt_two_pow this]
        simp [show ¬ i < n + 1 by omega]
    · simp only [hf]
      refine ⟨?_, by rw [Nat.pow_succ]; simp; omega⟩
      simp only [Bool.false_eq_true, if_false, h1]
      rcases Nat.lt_trichotomy i n with h | h | h
      · simp [h, Nat.lt_succ_of_lt h]
      · subst h; simp [hf]
      · simp [show ¬ i < n by omega, show ¬ i < n + 1 by omega]

@[simp] theorem bit_maskOf (f : Nat → Bool) (i : Nat) (h : i < 32) : bit (maskOf f) i = f i := by
  simp only [bit, maskOf, BitVec.getLsbD_ofNat, (bit_ofNat_sum f 32 i).1]
  simp [h]

@[simp] theorem bit_blend (m a b : W32) (i : Nat) : bit (blend m a b) i = if bit m i then bit a i else bit b i := by
  by_cases h : i < 32
  · simp only [bit, blend, BitVec.getLsbD_or, BitVec.getLsbD_and, BitVec.getLsbD_not, h, decide_true, Bool.true_and]
    by_cases hm : m.getLsbD i = true
    · simp only [hm, Bool.and_true, Bool.not_true, Bool.and_false, Bool.or_false, if_true]
    · have hm : m.getLsbD i = false := by simpa using hm
      simp [hm]
  · have h' : 32 ≤ i := by omega
    simp [bit, h']

theorem blend_self (m a : W32) : blend m a a = a := by
  apply BitVec.eq_of_getLsbD_eq
  intro i hi
  have := bit_blend m a a i
  rw [ite_self] at this
  exact this

theorem nth_map_range (n i : Nat) (f : Nat → W32) (d : W32) (h : i < n) : nth ((List.range n).map f) i d = f i := by
  simp [nth, h]

/-! ## Going on -/

theorem State.advance_eq (s : State) (k a : Nat) (w : SlotId) (tpc : W64) (h : (s.thread k a).ahead = none) :
    s.advance k a w tpc = s.updThread k a fun t => t.advanced w tpc := by
  unfold State.advance
  exact State.updThread_congr _ _ _ _ _ (by simp [h])

/-- What a thread holds after a write and going on. -/
theorem Ctx.next_updThread (c : Ctx) (s : State) (g : Thread → Thread) (hp : c.present s) (hg : ∀ t, (g t).ahead = t.ahead)
    (h : (c.my s).ahead = none) :
    c.next (s.updThread c.k c.a g) = s.updThread c.k c.a fun t => (g t).advanced c.iss.slot c.iss.tpc := by
  have hm : ((s.updThread c.k c.a g).thread c.k c.a).ahead = none := by
    have := Ctx.my_updThread hp g
    simp only [Ctx.my] at this
    rw [this, hg]
    exact h
  rw [Ctx.next, State.advance_eq _ _ _ _ _ hm, State.updThread_updThread]

@[simp] theorem Thread.updSlot_slot (t : Thread) (w : SlotId) (f : Slot → Slot) : (t.updSlot w f).slot w = f (t.slot w) := by
  cases w <;> rfl

/-- The fields that going on leaves alone. -/
theorem Thread.advanced_fields (t : Thread) (w : SlotId) (tpc : W64) :
    (t.advanced w tpc).v = t.v ∧ (t.advanced w tpc).s = t.s ∧ (t.advanced w tpc).p = t.p ∧ (t.advanced w tpc).recent = t.recent ∧
      (t.advanced w tpc).inflight = t.inflight ∧ (t.advanced w tpc).fpstat = t.fpstat ∧ (t.advanced w tpc).gen = t.gen := by
  cases w <;> exact ⟨rfl, rfl, rfl, rfl, rfl, rfl, rfl⟩

theorem Thread.advanced_falls (t : Thread) (w : SlotId) (tpc : W64) :
    ((t.advanced w tpc).slot w).st = .live ∧ ((t.advanced w tpc).slot w).pc = (t.loopNext tpc).1 ∧
      (t.advanced w tpc).loops = (t.loopNext tpc).2 := by
  cases w <;> exact ⟨rfl, rfl, rfl⟩

theorem Thread.loopNext_loops (t u : Thread) (tpc : W64) (h : t.loops = u.loops) : t.loopNext tpc = u.loopNext tpc := by
  simp [Thread.loopNext, h]

/-- A change of one thread leaves the rest alone if it leaves alone what an instruction may not change of that thread. -/
theorem State.except_updThread (s : State) (k a : Nat) (w : SlotId) (vs ss ps : List Nat) (x : Loosen) (g : Thread → Thread)
    (hc : ∀ (c : Core) (h : Thread → Thread), x.core (c.updThread a h) = (x.core c).updThread a h)
    (hx : ∀ c, (x.core c).thread a = c.thread a)
    (hg : (x.thread (g (s.thread k a))).except s.now w vs ss ps = (x.thread (s.thread k a)).except s.now w vs ss ps) :
    (s.updThread k a g).except k a w vs ss ps x = s.except k a w vs ss ps x := by
  have e : ((s.updThread k a g).updCore k fun c => (x.core c).updThread a fun t => (x.thread t).except s.now w vs ss ps) =
      s.updCore k fun c => (x.core c).updThread a fun t => (x.thread t).except s.now w vs ss ps := by
    simp only [State.updThread, State.updCore_updCore]
    refine State.updCore_congr _ _ _ _ fun c hcore => ?_
    rw [hc, Core.updThread_updThread]
    refine Core.updThread_congr _ _ _ _ ?_
    simp only [hx]
    simpa [State.thread, hcore] using hg
  simp only [State.except, State.updThread_now, e]

/-! ## What writing a register leaves alone -/

theorem blankRegs_alterPad {α : Type} (z : α) (l : List α) (n : Nat) (f : α → α) (ns : List Nat) (h : n ∈ ns) :
    blankRegs z (alterPad z l n f) ns = blankRegs z l ns := by
  induction ns generalizing l with
  | nil => simp at h
  | cons m ns ih =>
    simp only [blankRegs, List.foldl_cons] at ih ⊢
    by_cases hm : m = n
    · subst hm
      rw [alterPad_alterPad]
    · rw [alterPad_comm _ _ _ _ _ _ (Ne.symm hm)]
      exact ih _ (by simpa [Ne.symm hm] using h)

/-- A wait that has lost a register named looks the same apart from it. -/
theorem Slot.notAwaited_supersede (sl : Slot) (ns : RegRef → Bool) (r : RegRef) (m : W32) (h : ns r = true) :
    (sl.supersede r m).notAwaited ns = sl.notAwaited ns := by
  unfold Slot.supersede
  split
  · rename_i w hw
    cases w <;> simp only [Slot.notAwaited, Wait.supersede, hw] <;> split <;> simp_all [Wait.notAwaited]
  · rfl

theorem Thread.except_advanced (t : Thread) (now : Nat) (w : SlotId) (vs ss ps : List Nat) (tpc : W64) :
    (t.advanced w tpc).except now w vs ss ps = t.except now w vs ss ps := by
  cases h : t.ahead <;> cases w <;> simp [Thread.except, Thread.waitsApart, Slot.notAwaited, Thread.advanced, Thread.updSlot, h, List.filter_filter]

theorem Thread.except_setS (t : Thread) (now : Nat) (w : SlotId) (vs ss ps : List Nat) (n : Nat) (v : W64) (b : Bool) (h : n ∈ ss) :
    (t.setS n v b).except now w vs ss ps = t.except now w vs ss ps := by
  cases w <;> simp [Thread.except, Thread.waitsApart, Thread.setS, Thread.updSlot, blankRegs_alterPad _ _ _ _ _ h]

theorem Thread.except_setV (t : Thread) (now : Nat) (w : SlotId) (vs ss ps : List Nat) (n : Nat) (m : W32) (f : Nat → W32) (b : W32)
    (h : n ∈ vs) : (t.setV n m f b).except now w vs ss ps = t.except now w vs ss ps := by
  unfold Thread.setV
  split
  · rfl
  · cases w <;> simp [Thread.except, Thread.waitsApart, Thread.updSlot, blankRegs_alterPad _ _ _ _ _ h]

theorem Thread.except_setVKeep (t : Thread) (now : Nat) (w : SlotId) (vs ss ps : List Nat) (n : Nat) (m : W32) (f : Nat → W32) (b : W32)
    (h : n ∈ vs) : (t.setVKeep n m f b).except now w vs ss ps = t.except now w vs ss ps := by
  unfold Thread.setVKeep
  split
  · rfl
  · cases w <;> simp [Thread.except, Thread.waitsApart, Thread.updSlot, blankRegs_alterPad _ _ _ _ _ h]

theorem Thread.except_setP (t : Thread) (now : Nat) (w : SlotId) (vs ss ps : List Nat) (n : Nat) (m v : W32) (h : n ∈ ps) :
    (t.setP n m v).except now w vs ss ps = t.except now w vs ss ps := by
  unfold Thread.setP
  split
  · rfl
  · cases w <;> simp [Thread.except, Thread.waitsApart, Thread.updSlot, blankRegs_alterPad _ _ _ _ _ h]

/-- A live slot waits for nothing. -/
theorem Slot.notAwaited_live (sl : Slot) (ns : RegRef → Bool) :
    ({ sl with st := .live, pc := 0#64 } : Slot).notAwaited ns = { sl with st := .live, pc := 0#64 } := rfl

theorem Slot.supersede_mask (sl : Slot) (r : RegRef) (m : W32) :
    ({ sl.supersede r m with st := .live, pc := 0#64 } : Slot) = { sl with st := .live, pc := 0#64 } := by
  unfold Slot.supersede
  split <;> rfl

theorem Thread.except_supersede (t : Thread) (now : Nat) (w : SlotId) (vs ss ps : List Nat) (r : RegRef) (m : W32)
    (h : isNamed vs ss ps r = true) : (t.supersede r m).except now w vs ss ps = t.except now w vs ss ps := by
  have e : notAwaited (t.supersede r m).inflight (isNamed vs ss ps) = notAwaited t.inflight (isNamed vs ss ps) := by
    simp only [notAwaited, Thread.supersede, List.map_map]
    congr 1
    funext x
    simp only [Function.comp, List.map_map]
    congr 1
    congr 1
    funext y
    by_cases hy : y.1 = r
    · simp [Function.comp, hy, h]
    · simp [Function.comp, hy]
  have ha := t.slotA.notAwaited_supersede (isNamed vs ss ps) r m h
  have hb := t.slotB.notAwaited_supersede (isNamed vs ss ps) r m h
  cases w
  · simp only [Thread.except, e]
    simp only [Thread.waitsApart, Thread.updSlot, Thread.supersede, hb, Slot.notAwaited_live, Slot.supersede_mask t.slotA]
  · simp only [Thread.except, e]
    simp only [Thread.waitsApart, Thread.updSlot, Thread.supersede, ha, Slot.notAwaited_live, Slot.supersede_mask t.slotB]

/-- Forgetting results of a register named, or that no lane waits for, leaves those of the other registers. -/
theorem notReady_pendingBut (t : Thread) (now : Nat) (r : RegRef) (m : W32) (ns : RegRef → Bool) (h : ns r = true) :
    notReady (t.pendingBut now r m) now ns = notReady t.recent now ns := by
  unfold Thread.pendingBut notReady
  simp only [List.filter_filter, List.filter_map]
  generalize t.recent = l
  induction l with
  | nil => rfl
  | cons e l ih =>
    simp only [List.filter_cons, Function.comp]
    by_cases hr : e.reg = r
    · simpa [hr, h] using ih
    · by_cases hu : e.unseen now <;> by_cases hz : e.lanes = 0#32 <;> by_cases hn : ns e.reg <;> simpa [hr, hu, hz, hn] using ih

theorem Thread.remember_recent (t : Thread) (now lat : Nat) (r : RegRef) (m : W32) :
    ∃ e : Recent, (t.remember now lat r m).recent = e :: t.pendingBut now r m ∧ e.reg = r ∧ e.issuedAt = now ∧ e.readyAt = now + lat := by
  cases r <;> exact ⟨_, rfl, rfl, rfl, rfl⟩

theorem Thread.except_remember (t : Thread) (now lat : Nat) (w : SlotId) (vs ss ps : List Nat) (r : RegRef) (m : W32)
    (h : isNamed vs ss ps r = true) : (t.remember now lat r m).except now w vs ss ps = t.except now w vs ss ps := by
  obtain ⟨e, he, hr, -, -⟩ := t.remember_recent now lat r m
  have e1 : notReady (t.remember now lat r m).recent now (isNamed vs ss ps) = notReady t.recent now (isNamed vs ss ps) := by
    rw [he, ← notReady_pendingBut t now r m _ h]
    simp [notReady, hr, h]
  cases w <;> simp only [Thread.except, Thread.updSlot] <;> rw [e1] <;> rfl

/-- A change of the issuing thread that leaves the rest of it alone leaves the rest of the machine alone. -/
theorem Ctx.rest_updThread (c : Ctx) (s : State) (vs ss ps : List Nat) (g : Thread → Thread)
    (h : ∀ t : Thread, (g t).except s.now c.iss.slot vs ss ps = t.except s.now c.iss.slot vs ss ps) :
    c.rest (s.updThread c.k c.a g) vs ss ps = c.rest s vs ss ps :=
  State.except_updThread _ _ _ _ _ _ _ _ _ (fun _ _ => rfl) (fun _ => rfl) (h _)

/-! ## The three kinds of result -/

theorem Thread.remember_fields (t : Thread) (now lat : Nat) (r : RegRef) (m : W32) :
    (t.remember now lat r m).v = t.v ∧ (t.remember now lat r m).s = t.s ∧ (t.remember now lat r m).p = t.p ∧
      (t.remember now lat r m).ahead = t.ahead ∧ (t.remember now lat r m).loops = t.loops ∧ (t.remember now lat r m).window = t.window ∧
      (t.remember now lat r m).slotA = t.slotA ∧ (t.remember now lat r m).slotB = t.slotB :=
  ⟨rfl, rfl, rfl, rfl, rfl, rfl, rfl, rfl⟩

theorem Thread.remember_ready (t : Thread) (now lat : Nat) (r : RegRef) (m : W32) :
    ∃ e ∈ (t.remember now lat r m).recent, e.reg = r ∧ e.issuedAt = now ∧ e.readyAt = now + lat := by
  obtain ⟨e, he, h⟩ := t.remember_recent now lat r m
  exact ⟨e, he ▸ List.mem_cons_self, h⟩

theorem Thread.setV_fields (t : Thread) (n : Nat) (m : W32) (f : Nat → W32) (b : W32) :
    (t.setV n m f b).s = t.s ∧ (t.setV n m f b).p = t.p ∧ (t.setV n m f b).ahead = t.ahead ∧ (t.setV n m f b).loops = t.loops ∧
      (t.setV n m f b).recent = t.recent ∧ (t.setV n m f b).window = t.window := by
  unfold Thread.setV
  split <;> exact ⟨rfl, rfl, rfl, rfl, rfl, rfl⟩

theorem Thread.setP_fields (t : Thread) (n : Nat) (m v : W32) :
    (t.setP n m v).v = t.v ∧ (t.setP n m v).s = t.s ∧ (t.setP n m v).ahead = t.ahead ∧ (t.setP n m v).loops = t.loops ∧
      (t.setP n m v).recent = t.recent ∧ (t.setP n m v).window = t.window := by
  unfold Thread.setP
  split <;> exact ⟨rfl, rfl, rfl, rfl, rfl, rfl⟩

theorem Thread.vreg_setV (t : Thread) (n : Nat) (m : W32) (f : Nat → W32) (b : W32) (h : n < t.window) :
    (t.setV n m f b).vreg n =
      { val := (List.range 32).map fun i => if bit m i then f i else nth (t.vreg n).val i 0#32
        taint := blend m b (t.vreg n).taint
        poison := blend m 0#32 (t.vreg n).poison } := by
  simp [Thread.setV, show ¬ t.window ≤ n by omega, Thread.vreg]

theorem Thread.vreg_setV_other (t : Thread) (n j : Nat) (m : W32) (f : Nat → W32) (b : W32) (h : j ≠ n) :
    (t.setV n m f b).vreg j = t.vreg j := by
  unfold Thread.setV
  split
  · rfl
  · exact nth_alterPad_other _ _ _ _ _ h

theorem Thread.pval_setP (t : Thread) (n : Nat) (m v : W32) (h : n ≠ 7) : (t.setP n m v).pval n = blend m v (t.pval n) := by
  simp [Thread.setP, h, Thread.pval]

/-- A thread after one write and going on. -/
theorem Ctx.write_next (c : Ctx) (s : State) (g : Thread → Thread) (vs ss ps : List Nat) (hp : c.present s)
    (hn : (c.my s).ahead = none) (hg : ∀ t, (g t).ahead = t.ahead) (hl : ∀ t, (g t).loops = t.loops)
    (hx : ∀ t : Thread, (g t).except s.now c.iss.slot vs ss ps = t.except s.now c.iss.slot vs ss ps) :
    c.my (c.next (s.updThread c.k c.a g)) = (g (c.my s)).advanced c.iss.slot c.iss.tpc ∧
      c.falls s (c.next (s.updThread c.k c.a g)) ∧ c.rest (c.next (s.updThread c.k c.a g)) vs ss ps = c.rest s vs ss ps := by
  rw [Ctx.next_updThread _ _ _ hp hg hn]
  have hm := Ctx.my_updThread hp fun t => (g t).advanced c.iss.slot c.iss.tpc
  refine ⟨hm, ?_, Ctx.rest_updThread _ _ _ _ _ _ fun t => by rw [Thread.except_advanced, hx]⟩
  unfold Ctx.falls
  rw [hm, ← Thread.loopNext_loops _ _ c.iss.tpc (hl (c.my s))]
  exact Thread.advanced_falls _ _ _

/-- What an instruction with a scalar result does. -/
theorem Ctx.scalar_spec (c : Ctx) (s : State) (d : BitVec 6) (v : W64) (hp : c.present s) (hn : (c.my s).ahead = none) :
    c.holdsS (c.scalar d v s) d.toNat v ∧ c.falls s (c.scalar d v s) ∧
      (c.form.lat ≠ 0 → c.readyAfter s (c.scalar d v s) (.s d.toNat) c.form.lat) ∧
      c.rest (c.scalar d v s) [] [d.toNat] [] = c.rest s [] [d.toNat] [] := by
  have hnm : isNamed [] [d.toNat] [] (.s d.toNat) = true := by simp [isNamed]
  obtain ⟨h1, h2, h3⟩ := Ctx.write_next c s
    (fun t => ((t.remember s.now c.form.lat (.s d.toNat) allLanes).supersede (.s d.toNat) allLanes).setS d.toNat v c.taintAny) [] [d.toNat] [] hp hn
    (fun _ => rfl) (fun _ => rfl)
    (fun t => by rw [Thread.except_setS _ _ _ _ _ _ _ _ _ (by simp), Thread.except_supersede _ _ _ _ _ _ _ _ hnm,
      Thread.except_remember _ _ _ _ _ _ _ _ _ hnm])
  refine ⟨?_, h2, ?_, h3⟩
  · unfold Ctx.holdsS Thread.sreg
    have e : c.my (c.scalar d v s) = _ := h1
    rw [e, (Thread.advanced_fields _ _ _).2.1]
    simp [Thread.setS]
  · intro _
    unfold Ctx.readyAfter
    have e : c.my (c.scalar d v s) = _ := h1
    rw [e, (Thread.advanced_fields _ _ _).2.2.2.1]
    exact Thread.remember_ready (c.my s) s.now c.form.lat (.s d.toNat) allLanes

/-- What an instruction with a vector result does. -/
theorem Ctx.vector_spec (c : Ctx) (s : State) (d : BitVec 6) (f : Nat → W32) (hp : c.present s) (hn : (c.my s).ahead = none)
    (hw : d.toNat < (c.my s).window) :
    c.holdsV s (c.vector d f s) d.toNat f ∧ c.falls s (c.vector d f s) ∧
      (c.form.lat ≠ 0 → c.readyAfter s (c.vector d f s) (.v d.toNat) c.form.lat) ∧
      c.rest (c.vector d f s) [d.toNat] [] [] = c.rest s [d.toNat] [] [] := by
  have hnm : isNamed [d.toNat] [] [] (.v d.toNat) = true := by simp [isNamed]
  obtain ⟨h1, h2, h3⟩ := Ctx.write_next c s
    (fun t => ((t.remember s.now c.form.lat (.v d.toNat) c.pass).supersede (.v d.toNat) c.pass).setV d.toNat c.pass f c.taint) [d.toNat] [] [] hp hn
    (fun t => by rw [(Thread.setV_fields _ _ _ _ _).2.2.1]; rfl)
    (fun t => by rw [(Thread.setV_fields _ _ _ _ _).2.2.2.1]; rfl)
    (fun t => by rw [Thread.except_setV _ _ _ _ _ _ _ _ _ _ (by simp), Thread.except_supersede _ _ _ _ _ _ _ _ hnm,
      Thread.except_remember _ _ _ _ _ _ _ _ _ hnm])
  have e : c.my (c.vector d f s) = _ := h1
  have hv : ((c.my s).remember s.now c.form.lat (.v d.toNat) c.pass).vreg d.toNat = (c.my s).vreg d.toNat := by
    simp only [Thread.vreg, (Thread.remember_fields _ _ _ _ _).1]
  have hwin : d.toNat < (((c.my s).remember s.now c.form.lat (.v d.toNat) c.pass).supersede (.v d.toNat) c.pass).window := by
    simp only [Thread.supersede, (Thread.remember_fields _ _ _ _ _).2.2.2.2.2.1]
    exact hw
  refine ⟨?_, h2, ?_, h3⟩
  · have ev : (c.my (c.vector d f s)).vreg d.toNat =
        { val := (List.range 32).map fun i => if bit c.pass i then f i else nth ((c.my s).vreg d.toNat).val i 0#32
          taint := blend c.pass c.taint ((c.my s).vreg d.toNat).taint
          poison := blend c.pass 0#32 ((c.my s).vreg d.toNat).poison } := by
      have esup : ∀ t : Thread, (t.supersede (.v d.toNat) c.pass).vreg d.toNat = t.vreg d.toNat := fun _ => rfl
      rw [Thread.vreg, e, (Thread.advanced_fields _ _ _).1, ← Thread.vreg, Thread.vreg_setV _ _ _ _ _ hwin, esup, hv]
    intro l hl
    refine ⟨?_, ?_, ?_⟩
    · rw [Thread.lane, ev]
      simp only [nth_map_range _ _ _ _ hl]
      rfl
    · rw [ev]
      by_cases hb : bit c.pass l <;> simp [Ctx.taint, hl, hb]
    · rw [ev]
      have hz : bit 0#32 l = false := by simp [bit]
      by_cases hb : bit c.pass l <;> simp [hb, hz]
  · intro _
    unfold Ctx.readyAfter
    rw [e, (Thread.advanced_fields _ _ _).2.2.2.1, (Thread.setV_fields _ _ _ _ _).2.2.2.2.1]
    exact Thread.remember_ready (c.my s) s.now c.form.lat (.v d.toNat) c.pass

/-- What an instruction with a predicate result does. -/
theorem Ctx.pred_spec (c : Ctx) (s : State) (d : Nat) (v : W32) (hp : c.present s) (hn : (c.my s).ahead = none) :
    c.holdsP s (c.next (c.putP s d v)) d v ∧ c.falls s (c.next (c.putP s d v)) ∧
      (c.form.lat ≠ 0 → c.readyAfter s (c.next (c.putP s d v)) (.p d) c.form.lat) ∧
      c.rest (c.next (c.putP s d v)) [] [] [d] = c.rest s [] [] [d] := by
  have hnm : isNamed [] [] [d] (.p d) = true := by simp [isNamed]
  obtain ⟨h1, h2, h3⟩ := Ctx.write_next c s
    (fun t => ((t.remember s.now c.form.lat (.p d) (if c.ap then allLanes else c.pass)).supersede (.p d) (if c.ap then allLanes else c.pass)).setP d
      (if c.ap then allLanes else c.pass) (if c.ap then spread (decide (v ≠ 0#32)) else v)) [] [] [d] hp hn
    (fun t => by rw [(Thread.setP_fields _ _ _ _).2.2.1]; rfl)
    (fun t => by rw [(Thread.setP_fields _ _ _ _).2.2.2.1]; rfl)
    (fun t => by rw [Thread.except_setP _ _ _ _ _ _ _ _ _ (by simp), Thread.except_supersede _ _ _ _ _ _ _ _ hnm,
      Thread.except_remember _ _ _ _ _ _ _ _ _ hnm])
  have e : c.my (c.next (c.putP s d v)) = _ := h1
  refine ⟨?_, h2, ?_, h3⟩
  · unfold Ctx.holdsP
    split
    · simp [Thread.pval]
    · next hd =>
      have ep : (c.my (c.next (c.putP s d v))).pval d = blend (if c.ap then allLanes else c.pass)
          (if c.ap then spread (decide (v ≠ 0#32)) else v) ((c.my s).pval d) := by
        have hpv : ∀ t u : Thread, t.p = u.p → t.pval d = u.pval d := fun t u h => by simp [Thread.pval, h]
        rw [e, hpv _ _ (Thread.advanced_fields _ _ _).2.2.1, Thread.pval_setP _ _ _ _ hd,
          hpv (((c.my s).remember s.now c.form.lat (.p d) (if c.ap then allLanes else c.pass)).supersede (.p d) (if c.ap then allLanes else c.pass)) (c.my s)
            rfl]
      rw [ep]
      split
      · next ha =>
        have hall : ∀ x y : W32, blend allLanes x y = x := by
          intro x y
          apply BitVec.eq_of_getLsbD_eq
          intro i hi
          have := bit_blend allLanes x y i
          have ha : bit allLanes i = true := (show ∀ j < 32, bit allLanes j = true by decide) i hi
          rw [ha] at this
          exact this
        exact hall _ _
      · next ha =>
        intro l hl
        simp only [bit_blend]
  · intro _
    unfold Ctx.readyAfter
    rw [e, (Thread.advanced_fields _ _ _).2.2.2.1, (Thread.setP_fields _ _ _ _).2.2.2.2.1]
    exact Thread.remember_ready (c.my s) s.now c.form.lat (.p d) (if c.ap then allLanes else c.pass)

end Sys2Proof.Machine
end

