-- ==== Sys2Proof/Tests/Slice0.lean ====
section
/-! SUPPORT. Tests: words written out from the tables of the spec decode to their instructions; ill-formed terms are refused; concrete states
meet the hypotheses of the statements; single steps with results taken from the rules' examples or worked out by hand. -/

open Sys2Proof Sys2Proof.Machine

set_option maxRecDepth 100000
set_option Elab.async false

/-! ## Words (R95: format A is major, d, a, b, fn; B has imm14; C has imm20) -/

/-- A word of format A (R95, R114). -/
def tA (major d a b fn : Nat) : W32 :=
  BitVec.ofNat 6 major ++ BitVec.ofNat 6 d ++ BitVec.ofNat 6 a ++ BitVec.ofNat 6 b ++ BitVec.ofNat 8 fn

/-- A word of format B or E (R95): the 14-bit field at the low end. -/
def tB (major d a i : Nat) : W32 := BitVec.ofNat 6 major ++ BitVec.ofNat 6 d ++ BitVec.ofNat 6 a ++ BitVec.ofNat 14 i

/-- A word of format C (R95). -/
def tC (major d i : Nat) : W32 := BitVec.ofNat 6 major ++ BitVec.ofNat 6 d ++ BitVec.ofNat 20 i

/-- A word of format F (R95): scale [7:6], size [5:3], mode [2:0]. -/
def tF (major d a b scale size mode : Nat) : W32 := tA major d a b (64 * scale + 8 * size + mode)

/-- The word of an epilogue operation (R238): OP, D, A, B, IMM. -/
def tE (op d a b imm : Nat) : W32 := BitVec.ofNat 5 op ++ BitVec.ofNat 4 d ++ BitVec.ofNat 4 a ++ BitVec.ofNat 4 b ++ BitVec.ofNat 15 imm

/-- Each word decodes, with no prefix, to the instruction beside it. -/
def decodes (l : List (W32 × Instr)) : Bool := l.all fun x => decide (decode [] x.1 = some x.2)

/-- R114: majors 0x00 to 0x02. -/
theorem test_decode_control : decodes
    [(tA 0x00 0 0 0 0x00, .nop), (tA 0x00 0 0 0 0x10, .yield), (0x0000AB20#32, .trap 0xAB#8), (0x0000CD30#32, .bkpt 0xCD#8), (tA 0x00 0 0 0 0x40, .rtt),
     (tA 0x00 0 0 0 0x41, .rttAdv), (0x00512350#32, .mfs 5#6 0x123#12), (0x00631060#32, .mts 6#6 0x310#12), (tA 0x00 0 0 0 0x70, .exit),
     (tA 0x00 0 9 0 0x80, .jmp 9#6), (tA 0x00 7 9 0 0x90, .callReg 7#6 9#6), (tA 0x00 7 0 0 0x91, .callDisp 7#6), (tA 0x00 0 8 0 0xA0, .ret 8#6),
     (tA 0x00 0 8 0 0xB0, .loop 8#6), (tA 0x00 0 0 0 0xC0, .loopbrk), (0x04000000#32 + 0x3FFFFFE#32, .bra 0x3FFFFFE#26), (0x08000000#32, .brv),
     (0x08000010#32, .reconv), (tA 0x02 3 4 0 0x20, .joinw 3#6 4#6), (tA 0x02 0 4 0 0x30, .fragwake 4#6)] = true := by decide +kernel

/-- R102: major 0x03, fn = unsigned [7], immediate [6], OP [5:0]. -/
theorem test_decode_scalar : decodes
    [(tA 0x03 1 2 3 0x00, .sadd 1#6 2#6 3#6 0#1), (tA 0x03 1 2 3 0x41, .ssub 1#6 2#6 3#6 1#1), (tA 0x03 1 2 3 0x02, .smul 1#6 2#6 3#6 0#1),
     (tA 0x03 1 2 3 0x83, .smulh 1#6 2#6 3#6 1#1), (tA 0x03 1 2 3 0x04, .sdiv 1#6 2#6 3#6 0#1), (tA 0x03 1 2 3 0x05, .sand 1#6 2#6 3#6 0#1),
     (tA 0x03 1 2 3 0x46, .sor 1#6 2#6 3#6 1#1), (tA 0x03 1 2 3 0x07, .sxor 1#6 2#6 3#6 0#1), (tA 0x03 1 2 3 0x48, .sshl 1#6 2#6 3#6 1#1),
     (tA 0x03 1 2 3 0x09, .sshr 1#6 2#6 3#6 0#1), (tA 0x03 1 2 3 0x4A, .ssra 1#6 2#6 3#6 1#1), (tA 0x03 1 2 3 0x8B, .smin 1#6 2#6 3#6 1#1 0#1),
     (tA 0x03 1 2 3 0x4C, .smax 1#6 2#6 3#6 0#1 1#1), (tA 0x03 1 2 3 0xCD, .scmp 1#6 2#6 3#6 1#1 1#1), (tA 0x03 1 2 3 0x0E, .ssel 1#6 2#6 3#6 0#1),
     (tA 0x03 1 2 0 0x0F, .spopc 1#6 2#6), (tA 0x03 1 2 0 0x10, .sclz 1#6 2#6), (tA 0x03 1 2 3 0x91, .sbfe 1#6 2#6 3#6 1#1),
     (tA 0x03 1 2 3 0x12, .sbfi 1#6 2#6 3#6), (tA 0x03 1 2 0 0x13, .smov 1#6 2#6), (tA 0x03 1 2 0 0x14, .smovAq 1#6 2#6),
     (tB 0x04 1 2 0x3FFF, .saddi 1#6 2#6 0x3FFF#14), (tC 0x05 1 0x80001, .sli 1#6 0x80001#20)] = true := by decide +kernel

/-- R143: major 0x06. -/
theorem test_decode_predicates : decodes
    [(tA 0x06 1 2 3 0x00, .pand 1#6 2#6 3#6 0#1), (tA 0x06 1 2 3 0x11, .por 1#6 2#6 3#6 1#1), (tA 0x06 1 2 3 0x20, .pxor 1#6 2#6 3#6),
     (tA 0x06 1 2 0 0x30, .pnot 1#6 2#6), (tA 0x06 1 2 0 0x40, .pmovPp 1#6 2#6), (tA 0x06 1 2 0 0x41, .pmovPs 1#6 2#6),
     (tA 0x06 1 2 0 0x42, .pmovSp 1#6 2#6), (tA 0x06 1 2 0 0x48, .pmovCc 1#6 2#6 8#4), (tA 0x06 1 0 0 0x50, .pseti 1#6),
     (tA 0x06 1 2 0 0x60, .ppopc 1#6 2#6), (tA 0x06 1 2 0 0x70, .pfirst 1#6 2#6)] = true := by decide +kernel

/-- R102, R145 to R149: majors 0x07 to 0x0A. -/
theorem test_decode_vector : decodes
    [(tA 0x07 1 2 3 0x00, .vadd 1#6 2#6 3#6 0#1), (tA 0x07 1 2 3 0x41, .vsub 1#6 2#6 3#6 1#1), (tA 0x07 1 2 3 0x02, .vaddc 1#6 2#6 3#6),
     (tA 0x07 1 2 3 0x03, .vmul 1#6 2#6 3#6 0#1), (tA 0x07 1 2 3 0x84, .vmulh 1#6 2#6 3#6 1#1), (tA 0x07 1 2 3 0x05, .vmad 1#6 2#6 3#6),
     (tA 0x07 1 2 3 0x46, .vand 1#6 2#6 3#6 1#1), (tA 0x07 1 2 3 0x07, .vor 1#6 2#6 3#6 0#1), (tA 0x07 1 2 3 0x48, .vxor 1#6 2#6 3#6 1#1),
     (tA 0x07 1 2 3 0x09, .vshl 1#6 2#6 3#6 0#1), (tA 0x07 1 2 3 0x4A, .vshr 1#6 2#6 3#6 1#1), (tA 0x07 1 2 3 0x0B, .vsra 1#6 2#6 3#6 0#1),
     (tA 0x07 1 2 3 0x8C, .vmin 1#6 2#6 3#6 1#1 0#1), (tA 0x07 1 2 3 0x4D, .vmax 1#6 2#6 3#6 0#1 1#1), (tA 0x07 1 2 3 0x8E, .vabsd 1#6 2#6 3#6 1#1),
     (tA 0x07 1 2 0 0x0F, .vpopc 1#6 2#6), (tA 0x07 1 2 0 0x10, .vclz 1#6 2#6), (tA 0x07 1 2 3 0x91, .vbfe 1#6 2#6 3#6 1#1),
     (tA 0x07 1 2 3 0x12, .vbfi 1#6 2#6 3#6), (tA 0x07 1 2 0 0x13, .vmov 1#6 2#6), (tA 0x07 1 2 0 0x14, .vmovFromMqi 1#6 2#6),
     (tA 0x07 1 2 0 0x15, .vmovToMqo 1#6 2#6), (tA 0x07 1 2 3 0x96, .vdot4 1#6 2#6 3#6 1#1), (tB 0x08 1 2 0x2001, .vaddi 1#6 2#6 0x2001#14),
     (tC 0x09 1 0x80001, .vli 1#6 0x80001#20), (tA 0x0A 1 2 3 0x00, .vcmpEq 1#6 2#6 3#6 0#1), (tA 0x0A 1 2 3 0x41, .vcmpNe 1#6 2#6 3#6 1#1),
     (tA 0x0A 1 2 3 0x82, .vcmpLt 1#6 2#6 3#6 1#1 0#1), (tA 0x0A 1 2 3 0x43, .vcmpLe 1#6 2#6 3#6 0#1 1#1), (tA 0x0A 1 2 3 0x04, .vcmpGt 1#6 2#6 3#6 0#1 0#1),
     (tA 0x0A 1 2 3 0xC5, .vcmpGe 1#6 2#6 3#6 1#1 1#1), (tA 0x0A 1 2 3 0x48, .vsel 1#6 2#6 3#6 1#1)] = true := by decide +kernel

/-- R169, R171, R173: majors 0x0B to 0x0D, with the words that R171 gives. -/
theorem test_decode_float : decodes
    [(tA 0x0B 1 2 3 0x01, .fadd 1#6 2#6 3#6 1#2), (tA 0x0B 1 2 3 0x12, .fsub 1#6 2#6 3#6 2#2), (tA 0x0B 1 2 3 0x23, .fmul 1#6 2#6 3#6 3#2),
     (tA 0x0B 1 2 3 0x30, .fmin 1#6 2#6 3#6), (tA 0x0B 1 2 3 0x40, .fmax 1#6 2#6 3#6), (0x2D310550#32, .fcmp 2#3 3#3 4#6 5#6),
     (tA 0x0B 1 2 0 0x60, .fneg 1#6 2#6), (tA 0x0B 1 2 0 0x70, .fabs 1#6 2#6), (tA 0x0B 1 2 3 0x80, .fclamp 1#6 2#6 3#6),
     (tA 0x0B 1 2 4 0x90, .fdot2 1#6 2#6 4#6 0#2), (tA 0x0B 1 2 0 0xA1, .fround 1#6 2#6 1#2), (tA 0x0B 1 2 3 0xB2, .fscale 1#6 2#6 3#6 2#2),
     (0x30418805#32, .faddT 4#6 6#6 8#6 1#2 1#2), (tA 0x0C 1 2 3 0x18, .fsubT 1#6 2#6 3#6 2#2 0#2), (tA 0x0C 1 2 3 0x2F, .fmulT 1#6 2#6 3#6 3#2 3#2),
     (tA 0x0C 1 2 3 0x38, .fminT 1#6 2#6 3#6 2#2), (tA 0x0C 1 2 3 0x4C, .fmaxT 1#6 2#6 3#6 3#2), (tA 0x0C 0x13 4 6 0x54, .fcmpF64 2#3 3#3 4#6 6#6),
     (tA 0x0C 2 4 0 0x64, .fnegT 2#6 4#6 1#2), (tA 0x0C 1 2 0 0x78, .fabsT 1#6 2#6 2#2), (tA 0x0C 1 2 3 0x8C, .fclampT 1#6 2#6 3#6 3#2),
     (tA 0x0C 1 2 3 0x99, .fdot2Packed 1#6 2#6 3#6 0#1 1#2), (tA 0x0C 1 2 3 0x9E, .fdot2Packed 1#6 2#6 3#6 1#1 2#2),
     (tA 0x0C 1 2 0 0xA9, .froundT 1#6 2#6 2#2 1#2), (tA 0x0C 2 4 3 0xB4, .fscaleT 2#6 4#6 3#6 1#2 0#2), (0x3410830C#32, .ffma 1#6 2#6 3#6 3#2 0#2)] = true := by decide +kernel

/-- R175 to R183: majors 0x0E and 0x0F, with the word that R178 gives. -/
theorem test_decode_functions : decodes
    [(tA 0x0E 1 2 0 0x00, .exp2 1#6 2#6), (tA 0x0E 1 2 0 0x10, .lg2 1#6 2#6), (tA 0x0E 1 2 0 0x21, .rcp 1#6 2#6 1#2), (tA 0x0E 1 2 0 0x32, .rsq 1#6 2#6 2#2),
     (tA 0x0E 1 2 0 0x43, .sqrt 1#6 2#6 3#2), (0x3C710101#32, .cvt 7#6 4#6 0#3 1#3 1#4), (tA 0x0F 1 2 1 0x14, .cvtpk2 1#6 2#6 1#6 4#4),
     (tA 0x0F 1 4 9 0x21, .cvtpk4 1#6 4#6 9#6 1#4), (tA 0x0F 4 2 5 0x30, .cvtwide 4#6 2#6 5#6), (tA 0x0F 1 2 4 0x40, .mxscale 1#6 2#6 4#6),
     (tA 0x0F 1 2 5 0x54, .mxq 1#6 2#6 5#6 4#4)] = true := by decide +kernel

/-- R150 to R156: majors 0x10, 0x11, 0x30 and 0x31. -/
theorem test_decode_lanes : decodes
    [(tA 0x10 1 2 3 0x00, .perm 1#6 2#6 3#6), (tA 0x10 1 2 31 0x10, .permx 1#6 2#6 31#6), (tA 0x10 1 2 3 0x20, .shflup 1#6 2#6 3#6),
     (tA 0x10 1 2 3 0x30, .shfldn 1#6 2#6 3#6), (tA 0x10 1 2 3 0x40, .bcastReg 1#6 2#6 3#6), (tA 0x10 1 2 3 0x41, .bcastImm 1#6 2#6 3#6),
     (tA 0x11 1 2 0 0x00, .voteBallot 1#6 2#6), (tA 0x11 1 2 0 0x01, .voteAny 1#6 2#6), (tA 0x11 1 2 0 0x02, .voteAll 1#6 2#6),
     (tA 0x11 1 2 0 0x03, .voteUni 1#6 2#6), (tA 0x11 1 2 0 0x1A, .reduce 1#6 2#6 10#4), (tA 0x11 1 2 0 0x25, .scan 1#6 2#6 5#4),
     (tA 0x11 2 3 0 0x32, .argmax 2#6 3#6 2#4), (tA 0x11 1 2 0 0x40, .matchAny 1#6 2#6), (tA 0x11 1 2 0 0x41, .matchFirst 1#6 2#6),
     (tA 0x30 1 2 3 0x07, .vdot4I16 1#6 2#6 3#6 7#3), (tA 0x30 1 2 3 0x11, .vdot4I4 1#6 2#6 3#6 1#3), (tA 0x31 1 2 0 0x00, .vmovBt 1#6 2#6),
     (tA 0x31 1 2 3 0x10, .vorBmm 1#6 2#6 3#6), (tA 0x31 1 2 3 0x20, .vxorBmm 1#6 2#6 3#6)] = true := by decide +kernel

/-- R98, R188 to R197, R200, R207: majors 0x12 to 0x1A without prefixes, with the words that R197 gives. -/
theorem test_decode_memory : decodes
    [(tB 0x12 1 2 0x2003, .ld 1#6 2#6 0x2003#14), (tB 0x13 1 2 5, .st 1#6 2#6 5#14), (tF 0x14 1 2 3 2 4 1, .ldIndexed 1#6 2#6 3#6 2#2 4#3 1#3),
     (tF 0x15 1 2 3 3 5 0, .stIndexed 1#6 2#6 3#6 3#2 5#3 0#3), (tB 0x16 1 2 8, .lds 1#6 2#6 8#14), (tB 0x17 1 2 8, .ldsh 1#6 2#6 8#14),
     (0x60218300#32, .atom 2#6 6#6 3#6 0#4), (tA 0x18 2 6 3 0x18, .atomcas 2#6 6#6 3#6 1#1), (tA 0x18 2 6 3 0x29, .atomsh 2#6 6#6 3#6 9#4),
     (0x60218337#32, .red 2#6 6#6 3#6 7#4), (0x64000000#32 + 0x8000#32 + 0x400#32 + 0xB#32, .copy 2#6 4#6 11#4), (tA 0x1A 0 1 2 0x00, .tbinit 1#6 2#6),
     (tA 0x1A 0 1 2 0x10, .tbexpect 1#6 2#6), (tA 0x1A 0 1 0 0x20, .tbarrive 1#6), (tA 0x1A 3 1 2 0x30, .tbwait 3#6 1#6 2#6),
     (tA 0x1A 0 1 2 0x40, .femark 1#6 2#6), (tA 0x1A 3 1 0 0x50, .fepoll 3#6 1#6)] = true := by decide +kernel

/-- R98: with the attribute of a prefix (DIR [9], SIZE [8:6], SPACE [5:3], MODE [2:0]) the same words are the other accesses. -/
theorem test_decode_attributes :
    decode [0b0010000100#26] (tB 0x12 1 2 3) = some (.ldc 1#6 2#6 3#14) ∧ decode [0b1011000000#26] (tB 0x16 1 2 3) = some (.sts 1#6 2#6 3#14) ∧
    decode [0b1010010000#26] (tB 0x17 1 2 3) = some (.stsh 1#6 2#6 3#14) ∧ decode [0b0010001000#26] (tB 0x17 1 2 3) = some (.ldl 1#6 2#6 3#14) ∧
    decode [0b1010001000#26] (tB 0x17 1 2 3) = some (.stl 1#6 2#6 3#14) ∧ decode [0b0010011000#26] (tB 0x17 1 2 3) = some (.ldts 1#6 2#6 3#14) ∧
    decode [0b1010100000#26] (tB 0x17 1 2 3) = some (.stts 1#6 2#6 3#14) := by decide +kernel

/-- R54, R209, R221: majors 0x1B to 0x1D. -/
theorem test_decode_sync : decodes
    [(tA 0x1B 0 0 15 0x00, .bar 15#6), (tA 0x1B 0 0 3 0x10, .bararr 3#6), (tA 0x1B 0 0 3 0x20, .barwait 3#6), (tA 0x1B 0 0 3 0x30, .bardrop 3#6),
     (tA 0x1B 2 0 0 0x46, .fence 2#6 6#4), (tA 0x1B 0 7 0 0x53, .waitcReg 7#6 3#2), (tA 0x1B 0 0 63 0x55, .waitcImm 63#6 1#2), (tA 0x1B 0 7 0 0x60, .waitb 7#6),
     (tA 0x1B 0 0 0 0x70, .tfence), (tA 0x1C 2 5 0 0x00, .aqpush 2#6 5#6), (tA 0x1C 2 0 0 0x10, .aqclose 2#6), (tA 0x1C 2 5 0 0x20, .mqbind 2#6 5#6),
     (tA 0x1C 6 2 0 0x30, .mqtry 6#6 2#6), (tA 0x1D 0 0 6 0x00, .rgive 6#6), (tA 0x1D 0 0 1 0x01, .rclaim 1#6), (tA 0x1D 4 0 2 0x02, .rclaimT 4#6 2#6)] = true := by decide +kernel

/-- R217, R228, R242: majors 0x1E to 0x24. -/
theorem test_decode_engines : decodes
    [(0x78000000#32 + 0x8#32 + 0x3#32 * 0x100000#32 + 0x4#32 * 0x4000#32 + 0x5#32 * 0x100#32, .mma 3#6 4#6 5#6 8#4), (tA 0x1E 15 0 0 0x10, .mzero 15#6),
     (tA 0x1F 9 0 0 0x00, .mbatch 9#6), (tA 0x1F 0 1 2 0x10, .episet 1#6 2#6), (tA 0x1F 3 1 2 0x20, .drain 3#6 1#6 2#6), (tA 0x20 1 2 3 0x00, .resolveC 1#6 2#6 3#6),
     (tA 0x20 1 2 3 0x01, .resolveS 1#6 2#6 3#6), (tA 0x20 1 2 3 0x10, .vidq 1#6 2#6 3#6), (tA 0x20 1 2 0 0x11, .vidqFree 1#6 2#6), (tA 0x20 1 0 0 0x20, .specchk 1#6),
     (tA 0x20 1 0 0 0x21, .specchkLive 1#6), (tA 0x20 1 0 0 0x30, .sigsync 1#6), (tA 0x21 1 2 0 0x00, .egrsv 1#6 2#6), (tA 0x21 0 2 0 0x10, .egpub 2#6), (tA 0x21 0 2 3 0x20, .egpush 2#6 3#6),
     (tA 0x21 1 2 3 0x30, .egrel 1#6 2#6 3#6), (tA 0x21 1 2 3 0x31, .egrelV 1#6 2#6 3#6), (tA 0x22 2 4 3 0x00, .kvxl 2#6 4#6 3#6), (tA 0x22 2 4 3 0x10, .kvappend 2#6 4#6 3#6),
     (tA 0x22 2 4 3 0x20, .kvmap 2#6 4#6 3#6), (tA 0x23 1 2 0 0x00, .flpop 1#6 2#6), (tA 0x23 0 2 3 0x10, .flpush 2#6 3#6), (tA 0x24 0 2 3 0x00, .pref 2#6 3#6),
     (tA 0x24 0 2 3 0x01, .prefRo 2#6 3#6), (tA 0x24 0 0 0 0x10, .cinvRo), (tA 0x24 0 0 0 0x11, .cinvL1), (tA 0x24 0 2 3 0x20, .pgreq 2#6 3#6), (tA 0x24 0 2 0 0x30, .tlbinv 2#6),
     (tA 0x24 0 0 0 0x31, .tlbinvAll), (0xFC000000#32 + 0x1234567#32, .ximm 0x1234567#26)] = true := by decide +kernel

/-- R238: epilogue words. -/
theorem test_decode_epilogue :
    ([(tE 0x00 0 0 0 0, Instr.enop), (tE 0x01 1 2 3 0, .eadd 1#4 2#4 3#4), (tE 0x02 1 2 3 0, .emul 1#4 2#4 3#4), (tE 0x03 1 2 3 0, .efma 1#4 2#4 3#4),
      (tE 0x04 1 2 3 0, .emax 1#4 2#4 3#4), (tE 0x05 1 2 3 0, .emin 1#4 2#4 3#4), (tE 0x06 1 2 3 0, .eclamp 1#4 2#4 3#4), (tE 0x07 1 2 0 0, .eexp2 1#4 2#4),
      (tE 0x08 1 2 0 5, .ecvt 1#4 2#4 5#3), (tE 0x09 1 2 0 0, .emovReg 1#4 2#4), (tE 0x09 1 0 0 (0x4000 + 0x1FF), .emovImm 1#4 0x1FF#14), (tE 0x0A 1 2 3 0, .esel 1#4 2#4 3#4),
      (tE 0x0B 1 0 0 0, .erow 1#4), (tE 0x0C 1 0 0 0, .ecol 1#4), (tE 0x0D 1 0 0 0xABC, .eldb 1#4 0xABC#12), (tE 0x0E 1 0 0 0x123, .elds 1#4 0x123#12),
      (tE 0x0F 0 2 0 2, .est 2#4 2#2), (tE 0x10 0 2 0 1, .estg 2#4 1#2), (tE 0x11 0 2 0 0, .ered 2#4), (tE 0x12 0 2 0 0, .esig 2#4), (tE 0x13 0 0 0 0, .eend)].all
      fun x => decide (decodeEpi x.1 = some x.2)) = true := by decide +kernel

/-- R101, R102, R105, R238: words of reserved majors and of unlisted OPs, MODs and operations decode to nothing; emulated majors decode. -/
theorem test_decode_refuses :
    decode [] (tA 0x25 0 0 0 0) = none ∧ decode [] (tA 0x00 0 0 0 0xD0) = none ∧ decode [] (tA 0x06 1 2 0 0x49) = none ∧ decode [] (tA 0x1D 0 0 1 0x03) = none ∧
    decode [] (tA 0x18 2 6 3 0x11) = none ∧ decodeEpi (tE 0x14 0 0 0 0) = none ∧ decodeEpi (tE 0x0F 0 2 0 3) = none ∧
    decode [] (tA 0x32 1 2 3 4) = some (.emulatedMajor (tA 0x32 1 2 3 4)) := by decide +kernel

/-! ## Ill-formed terms -/

/-- Each check of well-formedness of a packet or epilogue word refuses a term just past its bound. -/
theorem test_wf_words :
    ([Instr.pmovCc 0#6 0#6 2#4, .pmovCc 0#6 0#6 9#4, .faddT 0#6 0#6 0#6 0#2 0#2, .fsubT 0#6 0#6 0#6 0#2 0#2, .fmulT 0#6 0#6 0#6 0#2 0#2, .fminT 0#6 0#6 0#6 0#2,
      .fmaxT 0#6 0#6 0#6 0#2, .fnegT 0#6 0#6 0#2, .fabsT 0#6 0#6 0#2, .fclampT 0#6 0#6 0#6 0#2, .froundT 0#6 0#6 0#2 0#2, .fscaleT 0#6 0#6 0#6 0#2 0#2,
      .cvt 0#6 0#6 0#3 1#3 5#4, .cvtpk2 0#6 0#6 0#6 5#4, .cvtpk4 0#6 0#6 0#6 5#4, .mxq 0#6 0#6 0#6 5#4, .reduce 0#6 0#6 0xB#4, .scan 0#6 0#6 0xB#4, .argmax 0#6 0#6 3#4,
      .copy 0#6 0#6 1#4, .copy 0#6 0#6 0xC#4, .fence 0#6 7#4, .mma 0#6 0#6 0#6 9#4, .emulatedMajor 0xC4000000#32, .emulatedMajor 0xFC000000#32, .ecvt 0#4 0#4 6#3,
      .est 0#4 3#2, .estg 0#4 3#2].all fun i => !i.wf) = true := by decide +kernel

/-- Each check of well-formedness of a step refuses a core, a die, a queue, a domain and so on that the part has not. -/
theorem test_wf_steps :
    ([Instr.fenceComplete 1536 0, .fenceComplete 0 17, .claimGrant 1536, .doorbellWrite 33 0 4 0#64, .walkerTakeRecord 18432, .walkerReadRetry 18432, .launchNode 18432,
      .conditionalNode 18432, .whileNode 18432, .forkNode 18432, .forkVidsTaken 18432, .resolveWaitNode 18432, .resolveWaitTimeout 18432, .endNode 18432,
      .nodeStepLimit 18432, .dispatchDecision 12, .gangAged 12 0, .clearingDone 1536, .portArbitration 0 4, .portArbitration 1536 0, .reconvergenceArrival 0 16 .a,
      .joinwComplete 0 16 .a, .joinwTimeout 0 16 .a, .joinwDeadlockBreak 0 16, .warpTrapEntry 0 17, .linkwatchTrap 0 16, .loadDataReturn 0 17 0, .storeAcknowledge 0 17 0,
      .barrierDead 1536, .budgetExceeded 1536, .blockComplete 1536, .blockRelease 1536, .runaheadEnter 0 16, .runaheadExit 0 16, .apAccessResume 1536, .copyValidation 1536 0,
      .copySectorLand 1536 0, .matrixCommandStart 1536, .matrixCommandComplete 1536 0, .drainComplete 1536 0, .resolveApply 64, .resolveComplete 64, .sliceResolveNotice 12 0,
      .sliceResolveNotice 0 64, .versionNoticeApply 1536, .sweepPassStart 12 0, .sweepVisit 0 64, .sweepPassEnd 12 0, .vidRecycle 64 0, .vidRecycle 0 256, .pairCompare 12 0,
      .pairRerunStart 0 64, .sliceRequest 0 17 0, .sliceReplyDeliver 0 19 0, .remoteWriteApply 12 0, .guestUpdateApply 12 0, .guestInvalidationApply 12 0].all fun i => !i.wf) = true := by
  decide +kernel

/-- The same for the rest of the steps. -/
theorem test_wf_more_steps :
    ([Instr.clockNoticeTimer 12, .clockNoticeApply 12 0, .clockAckRequest 12 0, .clockAck 12 0, .patrolScrubVisit 12 0 .clean, .pageWalk 12 0 0 0#64 .read, .pageWalk 0 16 0 0#64 .read,
      .pageWalk 0 0 256 0#64 .read, .pageRestoreStart 12 0, .pageRestoreComplete 12, .evictionCommand 0 256 0#64 0 false, .evictionCommit 12, .shootdownRequest 12 0 0#64,
      .shootdownAck 12 0, .haltArrive 12 0, .dumpRecordWrite 1536, .dumpHeaderWrite 12 0, .regfileScrub 0 0 64 0 .clean, .regfileScrub 0 0 0 32 .clean, .bridgeDeliver 12 0,
      .bridgeDeliver 0 12, .feltFlitReceive 16 0 true, .feltFlitReceive 0 16 true, .feltReplay 0 16, .replayWindowExpiry 0 8, .retrainComplete 16 0,
      .bundleDrainComplete 16, .shareTableWrite 12 0 0#32, .shareTableWrite 0 64 0#32, .pcctlClear 12, .functionLevelReset 33, .selfRefreshEntry 24, .selfRefreshExit 24,
      .scrubWithClear 12 0, .moduleRetrain 16 0 0, .moduleRetrain 0 8 0, .ualinkPortStateChange 18 true, .queueDescriptorWrite ⟨0, 18432⟩ 0#256, .queueDescriptorWrite ⟨33, 0⟩ 0#256, .egressDescriptorWrite 64 0#256,
      .egressHcurWrite 64 0#32, .ageThresholdWrite 12 0, .kvPoolDescriptorWrite 12 0 0#512, .kvPoolDescriptorWrite 0 256 0#512, .logbaseWrite 12 0, .dumpRegionWrite 12 0 0,
      .membersWrite 64 0#32, .acceptCounterWrite 64 .accept 0, .pcctlFreeze 12 true, .counterZeroWrite 12 .kills 0, .linkRegisterWrite 16 0 .rate 0,
      .linkRegisterWrite 0 8 .rate 0, .linkRateChange 0 8 0 0, .peerSlotTableWrite 32 0 true, .addressSpaceTableWrite 256 0 true, .securitySensorTrip 12 .voltageGlitch,
      .errorReport 12 { code := 0x36#8, detail := 0#8, cls := 0#2, fn := 0#6, core := 0#8, agent := 0#8, vid := 0#8, domain := 0#6, addr := 0#64 } .other].all fun i => !i.wf) = true := by decide +kernel

/-! ## States for the witnesses -/

/-- A launch of two warps and an access processor, with handlers, in a grid of two gangs of two blocks. -/
def tLaunch : Launch := { placedLaunch with warps := 2, trapEntry := 0x100#32, emulEntry := 0x200#32, gangs := 2, blocks := 2 }

/-- A running block of it. -/
def tBlock : Core := { Core.start State.reset [] tLaunch 0 0 0 0 0 0 0 0 with phase := .running, tlb := [placedEntry] }

/-- The part with this block on core 0, changed. -/
def tState (f : Core → Core) : State := { State.reset with boot := .ready, cores := [(0, f tBlock)] }

/-- Agent `a` of the block issues from slot A, with prefixes and a guard. -/
def tUnit (a : Nat) (xs : List Ximm) (g : BitVec 4) (f : Core → Core) : State :=
  { tState f with cur := some { core := 0, agent := a, slot := .a, pc := slot1 placedCode, tpc := slot1 placedCode, xs := xs, guard := g, unused := 0#32 } }

/-- Warp 0 issues, unguarded and without prefixes. -/
def tWarp (f : Core → Core) : State := tUnit 0 [] 7#4 f

/-- Set scalar registers of an agent. -/
def tRegs (a : Nat) (l : List (Nat × W64)) (c : Core) : Core :=
  c.updThread a fun t => { t with s := l.foldl (fun s x => alterPad SReg.zero s x.1 fun _ => { val := x.2, taint := false, poison := false }) t.s }

/-- Set vector registers of warp 0, every lane alike. -/
def tVecs (l : List (Nat × W32)) (c : Core) : Core :=
  c.updThread 0 fun t => { t with v := l.foldl (fun v x => alterPad VReg.zero v x.1 fun _ => { VReg.zero with val := List.replicate 32 x.2 }) t.v }

/-- Set predicates of warp 0. -/
def tPreds (l : List (Nat × W32)) (c : Core) : Core :=
  c.updThread 0 fun t => { t with p := l.foldl (fun p x => alterPad 0#32 p x.1 fun _ => x.2) t.p }

/-- Change warp 0. -/
def tThread (f : Thread → Thread) (c : Core) : Core := c.updThread 0 f

/-- The instruction's own effect happens in the state, and what it sees and the state satisfy `p`. -/
def acts (s : State) (i : Instr) (p : Ctx → State → Bool) : Bool := (s.acting i).any fun x => p x.1 x.2

/-- The instruction is issued in the state. -/
def issues (s : State) (i : Instr) (p : Ctx → State → Bool) : Bool := (s.issuing i).any fun x => p x.1 x.2

/-- The outcome is a next state with `p`. -/
def nextIs (o : Out) (p : State → Bool) : Bool := match o with | .next t => p t | _ => false

/-! ## Single steps, with results from the rules' own words -/

/-- R139: 40 + 2 = 42, and the sum wraps at 2^64. -/
theorem test_sadd : nextIs (exec (.sadd 5#6 6#6 7#6 0#1) (tWarp (tRegs 0 [(6, 40#64), (7, 2#64)]))) (fun t => decide ((t.thread 0 0).sval 5 = 42#64)) = true ∧
    nextIs (exec (.sadd 6#6 6#6 7#6 0#1) (tWarp (tRegs 0 [(6, 0xFFFFFFFFFFFFFFFF#64), (7, 2#64)]))) (fun t => decide ((t.thread 0 0).sval 6 = 1#64)) = true := by decide +kernel

/-- R139: a division by zero gives all ones; the most negative number over −1 gives itself. -/
theorem test_sdiv : nextIs (exec (.sdiv 5#6 6#6 7#6 0#1) (tWarp (tRegs 0 [(6, 40#64)]))) (fun t => decide ((t.thread 0 0).sval 5 = 0xFFFFFFFFFFFFFFFF#64)) = true ∧
    nextIs (exec (.sdiv 5#6 6#6 7#6 0#1) (tWarp (tRegs 0 [(6, 0x8000000000000000#64), (7, 0xFFFFFFFFFFFFFFFF#64)])))
      (fun t => decide ((t.thread 0 0).sval 5 = 0x8000000000000000#64)) = true := by decide +kernel

/-- R146: a carry out of all ones plus one, in every lane. -/
theorem test_vaddc : nextIs (exec (.vaddc 1#6 2#6 3#6) (tWarp (tVecs [(2, 0xFFFFFFFF#32), (3, 1#32)])))
    (fun t => decide ((t.thread 0 0).lane 1 31 = 0#32) && decide ((t.thread 0 0).pval 6 = 0xFFFFFFFF#32)) = true := by decide +kernel

/-- R171: 1.5 + 2.25 = 3.75 in FP32. -/
theorem test_fadd : nextIs (exec (.fadd 1#6 2#6 3#6 0#2) (tWarp (tVecs [(2, 0x3FC00000#32), (3, 0x40100000#32)])))
    (fun t => decide ((t.thread 0 0).lane 1 7 = 0x40700000#32) && decide ((t.thread 0 0).fpstat = 0#32)) = true := by decide +kernel

/-! ## Witnesses: states that meet the hypotheses of the statements -/

/-- Of the statements on results: one instruction of each kind, in a warp, and in the access processor where it may issue it. -/
theorem test_meets_results :
    acts (tWarp id) (.sadd 5#6 6#6 7#6 0#1) (fun c _ => (c.scalarResult (.sadd 5#6 6#6 7#6 0#1)).isSome) = true ∧
    acts (tUnit 16 [] 7#4 id) (.sli 5#6 1#20) (fun c _ => (c.scalarResult (.sli 5#6 1#20)).isSome) = true ∧
    acts (tWarp id) (.pand 7#6 1#6 2#6 0#1) (fun c _ => (c.predResult (.pand 7#6 1#6 2#6 0#1)).isSome) = true ∧
    acts (tUnit 16 [] 7#4 id) (.pmovPs 0#6 1#6) (fun c _ => (c.predResult (.pmovPs 0#6 1#6)).isSome) = true ∧
    acts (tWarp id) (.vadd 63#6 6#6 7#6 0#1) (fun c _ => (c.vectorResult (.vadd 63#6 6#6 7#6 0#1)).isSome) = true ∧
    acts (tUnit 0 [] 0#4 (tPreds [(0, 1#32)])) (.perm 1#6 2#6 3#6) (fun c _ => (c.vectorResult (.perm 1#6 2#6 3#6)).isSome) = true ∧
    acts (tWarp id) (.vaddc 1#6 2#6 3#6) (fun _ _ => true) = true ∧ acts (tWarp id) (.argmax 2#6 3#6 0#4) (fun _ _ => true) = true ∧
    acts (tWarp id) (.reduce 2#6 3#6 0#4) (fun _ _ => true) = true ∧ acts (tWarp id) (.reduce 2#6 3#6 8#4) (fun _ _ => true) = true ∧
    acts (tWarp id) (.scan 2#6 3#6 7#4) (fun _ _ => true) = true ∧ acts (tWarp id) (.scan 2#6 3#6 10#4) (fun _ _ => true) = true ∧
    acts (tWarp id) (.ffma 2#6 4#6 6#6 1#2 0#2) (fun c _ => (c.floatResult (.ffma 2#6 4#6 6#6 1#2 0#2)).isSome) = true ∧
    acts (tWarp id) (.cvtpk4 4#6 8#6 0xA#6 0#4) (fun _ _ => decide (narrowBits 0xA = 4)) = true ∧
    acts (tWarp id) (.fcmp 0#3 1#3 4#6 5#6) (fun _ _ => true) = true ∧ acts (tWarp id) (.fcmpF64 7#3 7#3 4#6 6#6) (fun _ _ => true) = true := by decide +kernel

/-- Of the statements on bit fields, orders and rounding: a format, and numbers in range. -/
theorem test_meets_numbers : (e2m1 ∈ formats ∧ 0 < 2 ^ e2m1.bits ∧ 15 < 2 ^ e2m1.bits) ∧ (fp64 ∈ formats ∧ 0 < 1 ∧ RMode.rne ≠ .sr) ∧ 63 < 64 := by decide

/-- Of the statements on transfers: each form taken, and each misaligned. -/
theorem test_meets_transfers :
    acts (tWarp (tRegs 0 [(6, 0x20#64)])) (.jmp 6#6) (fun c _ => (c.transfer (.jmp 6#6)).isSome) = true ∧
    acts (tUnit 16 [] 7#4 (tRegs 16 [(6, 0x20#64)])) (.callReg 5#6 6#6) (fun c _ => (c.transfer (.callReg 5#6 6#6)).isSome) = true ∧
    acts (tUnit 0 [3#26] 7#4 id) (.callDisp 5#6) (fun c _ => (c.transfer (.callDisp 5#6)).isSome) = true ∧
    acts (tWarp (tRegs 0 [(6, 0x10#64)])) (.ret 6#6) (fun c _ => (c.transfer (.ret 6#6)).isSome) = true ∧
    acts (tWarp (tRegs 0 [(6, 0x1C#64)])) (.ret 6#6) (fun c _ => (c.transfer (.ret 6#6)).isSome) = true ∧
    acts (tWarp id) (.bra 0x3FFFFFF#26) (fun c _ => (c.transfer (.bra 0x3FFFFFF#26)).isSome) = true ∧
    acts (tUnit 0 [3#26] 7#4 id) .brv (fun c _ => (c.transfer .brv).isSome) = true ∧
    acts (tWarp (tRegs 0 [(6, 0x28#64)])) (.jmp 6#6) (fun c _ => decide ((c.s 6#6).toNat % 16 ≠ 0)) = true ∧
    acts (tWarp (tRegs 0 [(6, 0x11#64)])) (.callReg 5#6 6#6) (fun c _ => decide ((c.s 6#6).toNat % 16 ≠ 0)) = true ∧
    acts (tWarp (tRegs 0 [(6, 0x12#64)])) (.ret 6#6) (fun c _ => decide ((c.s 6#6).toNat % 4 ≠ 0)) = true := by decide +kernel

/-- An innermost loop of one packet. -/
def tLoop : LoopEntry := { start := slot1 placedCode, last := placedCode, count := 2#32 }

/-- Of the statements on loops: a count of 0, one of 1, a break, and the end packet with a count above and at 1. -/
theorem test_meets_loops :
    acts (tUnit 0 [3#26] 7#4 id) (.loop 6#6) (fun c s => decide (loopCheck c s = none) && decide ((c.s 6#6).toNat % 2 ^ 32 = 0)) = true ∧
    acts (tUnit 0 [3#26] 7#4 (tRegs 0 [(6, 1#64)])) (.loop 6#6) (fun c s => decide (loopCheck c s = none) && decide ((c.s 6#6).toNat % 2 ^ 32 ≠ 0)) = true ∧
    acts (tWarp (tThread fun t => { t with loops := [tLoop] })) .loopbrk (fun c s => decide ((c.my s).loops = [tLoop])) = true ∧
    (slot1 placedCode + 8#64).toNat / 4 % 4 = 3 ∧ (slot1 placedCode + 8#64) &&& 0xFFFFFFFFFFFFFFF0#64 = tLoop.last ∧ tLoop.count.toNat > 1 := by decide +kernel

/-- Of the statements on words without effect, software traps, emulated majors and returns. -/
theorem test_meets_traps :
    acts (tWarp id) .nop (fun _ _ => true) = true ∧ acts (tWarp id) .yield (fun c _ => decide (c.a ≠ apAgent)) = true ∧
    acts (tUnit 16 [] 7#4 id) .yield (fun c _ => decide (c.a = apAgent)) = true ∧ (tWarp id).cur.isSome = true ∧
    acts (tWarp id) (.trap 0#8) (fun c _ => decide (c.a < 16 ∧ c.th.handler = none ∧ c.core.launch.trapEntry ≠ 0xFFFFFFFF#32 ∧ c.core.squashed = false)) = true ∧
    acts (tWarp id) (.bkpt 255#8) (fun c _ => decide (c.a < 16 ∧ c.th.handler = none ∧ c.core.launch.trapEntry ≠ 0xFFFFFFFF#32 ∧ c.core.squashed = false)) = true ∧
    (((tWarp id).core? 0).any fun core => ((tWarp id).cur).any fun iss =>
      let c := (mkCtx iss core (.emulatedMajor 0xC8000000#32) (tWarp id)).1
      decide (iss.agent < 16 ∧ iss.xs.length ≤ 2 ∧ c.th.ahead = none ∧ c.th.handler = none ∧ core.squashed = false ∧ core.launch.emulEntry ≠ 0xFFFFFFFF#32)) = true ∧
    acts (tWarp (tThread fun t => { t with handler := some .a })) .rtt (fun c _ => decide (c.th.handler = some c.iss.slot)) = true ∧
    acts (tWarp (tThread fun t => { t with handler := some .a, trapPc := slot1 placedCode })) .rttAdv (fun c _ => decide (c.th.handler = some c.iss.slot)) = true := by decide +kernel

/-- Of the statements on system registers: a scalar one, the lane number, the clock, and TRAPPC in a handler. -/
theorem test_meets_system :
    acts (tWarp id) (.mfs 5#6 0x53#12) (fun c s => decide ((0x53, 0x20102010#64) ∈ c.systemTable s)) = true ∧ acts (tWarp id) (.mfs 5#6 0#12) (fun _ _ => true) = true ∧
    acts (tWarp id) (.mfs 5#6 0x73#12) (fun _ _ => true) = true ∧ acts (tWarp id) (.mts 6#6 0x31#12) (fun _ _ => true) = true ∧
    acts (tWarp (fun c => tRegs 0 [(6, 0x14#64)] (tThread (fun t => { t with handler := some .a }) c))) (.mts 6#6 0x21#12)
      (fun c _ => c.th.handler.isSome && decide ((c.s 6#6).toNat / 4 % 4 ≠ 0)) = true := by decide +kernel

/-- A page of data at address 0 that the block may write. -/
def tData : TlbEntry := { placedEntry with page := 0, frame := 0x100000, w := true, d := true }

/-- The block with that page in its TLB. -/
def tPaged (f : Core → Core) (c : Core) : Core := f { c with tlb := tData :: c.tlb }

/-- Slot B of warp 0 holds the upper lanes and waits as given; slot A holds the lower ones. -/
def tSplit (w : SlotState) (t : Thread) : Thread :=
  { t with slotA := { t.slotA with mask := 0xFFFF#32 }, slotB := { t.slotA with mask := 0xFFFF0000#32, st := w } }

/-- A wait at `JOINW`. -/
def tJoin (e : W32) (limit : Nat) : SlotState := .waiting (.joinw 1 e 0 limit (slot1 placedCode))

/-- Of the statement on diverging branches: the other slot empty, taken, and taken with a full stack. -/
theorem test_meets_diverging :
    acts (tUnit 0 [3#26] 0#4 (tPreds [(0, 1#32)])) .brv (fun c s => decide (c.pass ≠ c.mask) && decide (((c.my s).slot .b).st = .empty)) = true ∧
    acts (tUnit 0 [3#26] 0#4 (tPaged fun c => tPreds [(0, 1#32)] (tThread (tSplit .live) c))) .brv (fun c s => decide (c.pass ≠ c.mask) &&
      decide (((c.my s).slot .b).st ≠ .empty) && decide ((c.my s).stack.length < c.core.launch.divFrames) && (s.pushReady c.k c.a).2) = true ∧
    acts (tUnit 0 [3#26] 0#4 (fun c => tPreds [(0, 1#32)] (tThread (tSplit .live) { c with launch := { c.launch with divFrames := 0 } }))) .brv
      (fun c s => decide (c.pass ≠ c.mask) && decide (((c.my s).slot .b).st ≠ .empty) && decide (c.core.launch.divFrames ≤ (c.my s).stack.length)) = true := by decide +kernel

/-- A join frame at the first packet that expects lanes, of which some have arrived. -/
def tFrame (e arr : W32) : Frame := .join placedCode e arr none

/-- What the statement on arrivals asks of slot A of warp 0. -/
def tArrives (c : Core) (e arr : W32) : Bool :=
  decide (((c.thread 0).slot .a).st = .live ∧ ((c.thread 0).slot .a).ra = some placedCode ∧ ((c.thread 0).slot .a).pc = (placedCode &&& 0xFFFFFFFFFFFFFFF0#64) + 4#64 ∧
    (c.thread 0).stack = [tFrame e arr] ∧ ((c.thread 0).slot .a).mask &&& ~~~e = 0#32 ∧ c.fragLanes 0 = 0#32 ∧ c.readyFragment 0 = none ∧
    ((c.thread 0).slot .b).mask &&& ((c.thread 0).slot .a).mask = 0#32)

/-- Of the statement on joins: an opened join; arrivals that are the last and that are not; `JOINW` that meets, that holds all, that waits, that comes after a limit; and its ends. -/
theorem test_meets_joins :
    acts (tUnit 0 [3#26] 7#4 (tPaged id)) .reconv (fun c s => decide ((c.my s).stack.length < c.core.launch.divFrames) && (s.pushReady c.k c.a).2) = true ∧
    tArrives (tThread (fun t => { t with slotA := { t.slotA with ra := some placedCode }, stack := [tFrame allLanes 0#32] }) tBlock) allLanes 0#32 = true ∧
    tArrives (tThread (fun t => { tSplit .live t with slotA := { t.slotA with ra := some placedCode, mask := 0xFFFF#32 }, stack := [tFrame allLanes 0#32] }) tBlock) allLanes 0#32 = true ∧
    acts (tUnit 0 [] 7#4 (tThread (tSplit (tJoin allLanes 0)))) (.joinw 1#6 6#6) (fun c s => decide (joinwCheck c s = none) && decide (((c.my s).slot .b).pc = ((c.my s).slot .a).pc) &&
      decide ((c.my s).stack = [] ∧ c.core.fragLanes c.a = 0#32 ∧ c.core.readyFragment c.a = none ∧ ((c.my s).slot .b).mask ≠ 0#32 ∧ c.th.handler = none)) = true ∧
    acts (tWarp (tRegs 0 [(6, 0xFFFFFFFF#64)])) (.joinw 1#6 6#6) (fun c s => decide (joinwCheck c s = none) && decide (((c.my s).slot .b).st = .empty) &&
      decide ((c.s 6#6).setWidth 32 &&& c.core.live c.a &&& ~~~c.mask = 0#32)) = true ∧
    acts (tWarp (fun c => tRegs 0 [(6, 0xFFFFFFFF#64)] (tThread (tSplit .live) c))) (.joinw 6#6 6#6) (fun c s => decide (joinwCheck c s = none) &&
      decide ((c.s 6#6).setWidth 32 &&& c.core.live c.a &&& ~~~c.mask ≠ 0#32)) = true ∧
    (let t := tThread (fun t => { tSplit (tJoin 0xFFFF0000#32 0) t with slotA := { t.slotA with mask := 0xFFFF#32, st := tJoin 0xFFFFFFFF#32 7 } }) tBlock
     decide (0xFFFF0000#32 &&& t.live 0 &&& ~~~((t.thread 0).slot .b).mask = 0#32) && decide (0xFFFFFFFF#32 &&& t.live 0 &&& ~~~((t.thread 0).slot .a).mask ≠ 0#32)) = true ∧
    acts { tUnit 0 [] 7#4 (tThread (tSplit (tJoin allLanes 7))) with now := 8 } (.joinw 1#6 6#6) (fun c s => decide (joinwCheck c s = none ∧ ((c.my s).slot .b).st = tJoin allLanes 7 ∧
      0 + 7 < s.now)) = true ∧
    (let t := tThread (fun t => { tSplit (tJoin 0xFFFFFFFF#32 0) t with slotA := { t.slotA with mask := 0xFF#32, st := tJoin 0xFFFFFFFF#32 7 }, stack := [.path placedCode 0xFF00#32 none 0xFF#8] }) tBlock
     decide (0xFFFFFFFF#32 &&& t.stowed 0 &&& ~~~((t.thread 0).slot .b).mask ≠ 0#32) && decide (0xFFFFFFFF#32 &&& t.stowed 0 &&& ~~~((t.thread 0).slot .a).mask ≠ 0#32)) = true := by
  decide +kernel

/-- A fragment of the upper lanes of warp 0. -/
def tFragment : Fragment := { valid := true, ready := false, warp := 0, cause := 0x20#8, pc := slot1 placedCode, ra := none, mask := 0xFFFF0000#32, key := 0#64 }

/-- Of the statement on exits and fragments. -/
theorem test_meets_exits :
    acts (tUnit 0 [] 0#4 (tPreds [(0, 1#32)])) .exit (fun c _ => decide (c.a < 16 ∧ c.pass ≠ c.mask)) = true ∧
    acts (tWarp id) .exit (fun c s => decide (c.pass = c.mask ∧ c.elsewhere s = 0#32 ∧ c.th.ended = false)) = true ∧
    acts (tUnit 16 [] 7#4 id) .exit (fun c _ => decide (c.a = apAgent)) = true ∧
    acts (tWarp (fun c => { tRegs 0 [(6, 255#64)] c with frags := alterPad Fragment.free c.frags 31 fun _ => tFragment })) (.fragwake 6#6)
      (fun c _ => decide (c.core.frags[31]? = some tFragment) && decide ((c.s 6#6).toNat % 256 = 255)) = true ∧
    acts (tWarp (fun c => { tRegs 0 [(6, 31#64)] c with frags := alterPad Fragment.free c.frags 31 fun _ => tFragment })) (.fragwake 6#6)
      (fun c _ => decide (31 = (c.s 6#6).toNat % 256)) = true := by decide +kernel

/-- The block with its queue 3 as given. -/
def tQueue (e : List W64) (closed : Bool) (c : Core) : Core := { c with aq := alterPad AQueue.shut c.aq 3 fun _ => { entries := e, after := e.map fun _ => 0, waiters := [], closed := closed } }

/-- Of the statement on `aq` queues: held, empty and closed, empty and open; room, none, closed. -/
theorem test_meets_queues :
    acts (tWarp (tQueue [7#64] false)) (.smovAq 5#6 3#6) (fun c _ => decide ((c.core.aqueue 3).entries = [7#64] ∧ c.core.popsBefore 3 c.a c.iss.slot = [] ∧
      ∀ x ∈ (c.core.thread apAgent).inflight, (c.core.aqueue 3).after.headD 0 ≤ x.tag ∨ x.performed = true)) = true ∧
    acts (tWarp (tQueue [] true)) (.smovAq 5#6 3#6) (fun c _ => decide ((c.core.aqueue 3).entries = [] ∧ (c.core.aqueue 3).closed = true)) = true ∧
    acts (tWarp (tQueue [] false)) (.smovAq 5#6 3#6) (fun c _ => decide ((c.core.aqueue 3).entries = [] ∧ (c.core.aqueue 3).closed = false)) = true ∧
    acts (tWarp fun c => let d := tQueue [7#64] false c; { d with aq := alterPad AQueue.shut d.aq 3 fun q => { q with waiters := [(1, .a, 0)] } }) (.smovAq 5#6 3#6) (fun c _ =>
      decide ((c.core.aqueue 3).entries = [7#64] ∧ (c.core.aqueue 3).waiters = [(1, .a, 0)])) = true ∧
    acts (tUnit 16 [] 7#4 (tQueue (List.replicate 31 0#64) false)) (.aqpush 3#6 6#6) (fun c _ => decide ((c.core.aqueue 3).closed = false ∧ (c.core.aqueue 3).entries.length < 32)) = true ∧
    acts (tUnit 16 [] 7#4 (tQueue (List.replicate 32 0#64) false)) (.aqpush 3#6 6#6) (fun c _ => decide ((c.core.aqueue 3).closed = false ∧ 32 ≤ (c.core.aqueue 3).entries.length)) = true ∧
    acts (tUnit 16 [] 7#4 (tQueue [] true)) (.aqpush 3#6 6#6) (fun c _ => decide ((c.core.aqueue 3).closed = true)) = true ∧
    acts (tUnit 16 [] 7#4 id) (.aqclose 3#6) (fun _ _ => true) = true := by decide +kernel

/-- The block with its send register 1 bound to its own receive register 2, which holds `n` messages. -/
def tBound (n : Nat) (c : Core) : Core :=
  { c with mqo := alterPad [] c.mqo 1 fun _ => [{ gang := 0, block := 0, queue := 2, since := 0 }]
           mqi := alterPad MQueue.empty c.mqi 2 fun _ => { MQueue.empty with messages := List.replicate n (List.replicate 32 5#32) } }

/-- A span of the grid of the block, whose second gang is still to be placed. -/
def tSpan : Span := { grid := 0, queue := 0, index := 0, next := 1, since := 0, reserved := [], reported := false }

/-- Of the statement on messages: a message, none; a target with room, full, gone, completed and forgotten, not placed yet; unbound; a good and a bad target; `MQTRY`. -/
theorem test_meets_messages :
    acts (tWarp (tBound 1)) (.vmovFromMqi 5#6 2#6) (fun c _ => decide ((c.core.recv 2).messages.length = 1)) = true ∧
    acts (tWarp (tBound 0)) (.vmovFromMqi 5#6 2#6) (fun c _ => decide ((c.core.recv 2).messages = [])) = true ∧
    acts { tWarp (tBound 15) with now := 1 } (.vmovToMqo 1#6 5#6) (fun c s => decide (c.core.binding 1 s.now = some { gang := 0, block := 0, queue := 2, since := 0 }) && decide (s.coreOfBlock c.k c.core 0 0 = some 0) &&
      decide ((c.core.recv 2).messages.length + (c.core.recv 2).promised < 16)) = true ∧
    acts { tWarp (tBound 16) with now := 1 } (.vmovToMqo 1#6 5#6) (fun c s => decide (c.core.binding 1 s.now = some { gang := 0, block := 0, queue := 2, since := 0 }) && decide (s.coreOfBlock c.k c.core 0 0 = some 0) &&
      decide (16 ≤ (c.core.recv 2).messages.length + (c.core.recv 2).promised)) = true ∧
    (let s := tWarp (fun c => { tBound 0 c with mqo := alterPad [] c.mqo 1 fun _ => [{ gang := 0, block := 1, queue := 2, since := 0 }] })
     acts { s with cores := s.cores ++ [(1, { tBlock with block := 1, phase := .completed })], now := 1 } (.vmovToMqo 1#6 5#6) (fun c s =>
       decide (s.coreOfBlock c.k c.core 0 1 = some 1) && (s.core? 1).any fun x => decide (x.phase = .completed))) = true ∧
    (let s := tWarp (fun c => { tBound 0 c with mqo := alterPad [] c.mqo 1 fun _ => [{ gang := 1, block := 0, queue := 2, since := 0 }] })
     let far (s : State) (free : Bool) : Bool := acts { s with now := 1 } (.vmovToMqo 1#6 5#6) (fun c s => decide (s.coreOfBlock c.k c.core 1 0 = none ∧ s.unplaced (c.k / 128) c.core 1 = free))
     far s false && far (s.updDie 0 fun d => { d with disp := { d.disp with spans := [tSpan] } }) true) = true ∧
    acts (tWarp id) (.vmovToMqo 1#6 5#6) (fun c s => decide (c.core.binding 1 s.now = none)) = true ∧
    acts (tWarp (tRegs 0 [(6, 0x309#64)])) (.mqbind 1#6 6#6) (fun c _ => decide ((c.s 6#6).toNat < 2 ^ 10 ∧ (c.s 6#6).toNat / 2 ^ 7 % 2 = 0 ∧
      (c.s 6#6).toNat / 2 ^ 3 % 2 ^ 4 < c.core.launch.gangs ∧ (c.s 6#6).toNat % 2 ^ 3 < c.core.launch.blocks)) = true ∧
    acts (tWarp (tRegs 0 [(6, 0x400#64)])) (.mqbind 1#6 6#6) (fun c _ => decide (¬ (c.s 6#6).toNat < 2 ^ 10)) = true ∧
    acts (tWarp id) (.mqtry 7#6 2#6) (fun _ _ => true) = true := by decide +kernel

/-- The block with its barrier 15 changed. -/
def tBar (f : Barrier → Barrier) (c : Core) : Core := { c with bars := alterPad (Barrier.start 2) c.bars 15 f }

/-- Of the statement on barriers: an arrival that does not end the phase, one that does, one that comes twice, one after a drop; `BARWAIT` in and out. -/
theorem test_meets_barriers :
    acts (tWarp id) (.bar 15#6) (fun c _ => decide ((c.core.bar 15).dropped.contains c.a = false ∧ c.pass &&& nth (c.core.bar 15).lanes c.a 0#32 = 0#32)) = true ∧
    acts (tWarp (tBar fun b => { b with arrived := [1] })) (.bararr 15#6) (fun c s =>
      decide ((c.core.bar 15).arrived.length + (c.core.newlyIn 15 c.a c.pass s.seq).length = (c.core.bar 15).expected)) = true ∧
    acts (tWarp (tBar fun b => { b with lanes := alterPad 0#32 b.lanes 0 fun _ => 1#32 })) (.bar 15#6) (fun c _ => decide (c.pass &&& nth (c.core.bar 15).lanes c.a 0#32 ≠ 0#32)) = true ∧
    acts (tWarp (tBar fun b => { b with dropped := [0] })) (.bardrop 15#6) (fun c _ => decide ((c.core.bar 15).dropped.contains c.a = true)) = true ∧
    acts (tWarp (tBar fun b => { b with lanes := List.replicate 16 allLanes })) (.barwait 15#6) (fun c _ => decide (c.core.live c.a &&& ~~~(nth (c.core.bar 15).lanes c.a 0#32) = 0#32)) = true ∧
    acts (tWarp (tBar fun b => { b with arrived := [0] })) (.barwait 15#6) (fun c _ => decide (c.a ∈ (c.core.bar 15).arrived)) = true ∧
    acts (tWarp id) (.barwait 15#6) (fun c _ => decide (¬ (c.a ∈ (c.core.bar 15).arrived ∨ c.core.live c.a &&& ~~~(nth (c.core.bar 15).lanes c.a 0#32) = 0#32))) = true := by decide +kernel

/-- The state after a step. -/
def tAfter (i : Instr) (s : State) : State := match exec i s with | .next t => { t with cur := s.cur } | _ => s

/-- Warp 0 with slot A at its first word again. -/
def tAgain (s : State) : State := s.updSlot 0 0 .a fun sl => { sl with st := .live, pc := slot1 placedCode }

/-- The window of warp 0 cut to 16 registers, with the rest in the pool. -/
def tSmall (c : Core) : Core := { tThread (fun t => { t with window := 16, v := t.v.take 16 }) c with pool := c.pool + 48 }

/-- Of the statement on windows: giving with accesses done and not, claiming, taking at once with and without enough, a split warp, and the head of the claims. -/
theorem test_meets_windows :
    acts (tWarp id) (.rgive 6#6) (fun c _ => c.core.converged c.a && decide (16 + 48 ≤ c.th.window ∧ c.th.counter .gl = 0 ∧ c.th.counter .lo = 0)) = true ∧
    acts (tAgain (tAfter (.ldsh 1#6 2#6 0#14) (tWarp id))) (.rgive 6#6) (fun c _ => c.core.converged c.a && decide (16 + 48 ≤ c.th.window ∧ 0 < c.th.counter .lo)) = true ∧
    acts (tWarp tSmall) (.rclaim 6#6) (fun c _ => c.core.converged c.a && decide (c.th.window + 48 ≤ 64)) = true ∧
    acts (tWarp tSmall) (.rclaimT 1#6 6#6) (fun c s => c.core.converged c.a && decide ((c.here (s.endCycles c.k)).claims = [] ∧ 48 ≤ (c.here (s.endCycles c.k)).pool)) = true ∧
    acts (tWarp (fun c => { tSmall c with pool := 47 })) (.rclaimT 1#6 6#6) (fun c s => c.core.converged c.a && decide ((c.here (s.endCycles c.k)).pool < 48)) = true ∧
    acts (tWarp (tThread (tSplit .live))) (.rgive 1#6) (fun c _ => !c.core.converged c.a) = true ∧
    (((tState fun c => { tSmall c with pool := 24, released := [(0, 24)], claims := [(0, 48, 0)] }).core? 0).any fun c => decide (c.claims = [(0, 48, 0)] ∧
      48 ≤ c.pool + ((c.released.filter fun r => decide (r.1 < 1)).map Prod.snd).sum ∧ (c.thread 0).ahead = none)) = true ∧
    (((tState fun c => { tSmall c with pool := 47, claims := [(0, 48, 0)] }).core? 0).any fun c => decide (c.claims = [(0, 48, 0)] ∧
      c.pool + ((c.released.filter fun r => decide (r.1 < 1)).map Prod.snd).sum < 48)) = true := by decide +kernel

/-- A transaction barrier at address 16 of shared memory whose phase 0 has completed. -/
def tBarrier (c : Core) : Core := { c with sh := (c.sh.writeBytes 16 (bytesOfNat 16 (2 ^ 96))) }

/-- Of the statement on waits: each condition held and not held, a fence asked for and one that can complete. -/
theorem test_meets_waits :
    acts (tWarp id) (.waitcReg 6#6 0#2) (fun c _ => decide (c.th.counter .gl ≤ (c.s 6#6).toNat)) = true ∧
    acts (tAgain (tAfter (.ldsh 1#6 2#6 0#14) (tWarp id))) (.waitcImm 0#6 2#2) (fun c _ => decide (0 < c.th.counter .lo)) = true ∧
    acts (tWarp (tRegs 0 [(6, 0xFFFFFFFF#64)])) (.waitb 6#6) (fun c _ => decide ((c.core.lastBatch.toNat + 2 ^ 32 - (c.s 6#6).toNat % 2 ^ 32) % 2 ^ 32 < 2 ^ 31)) = true ∧
    acts (tWarp id) (.waitb 6#6) (fun c _ => decide (2 ^ 31 ≤ (c.core.lastBatch.toNat + 2 ^ 32 - (c.s 6#6).toNat % 2 ^ 32) % 2 ^ 32)) = true ∧
    acts (tWarp (fun c => tRegs 0 [(6, 16#64)] (tBarrier c))) (.tbwait 5#6 6#6 7#6) (fun c _ => decide ((c.s 6#6).toNat % 16 = 0 ∧ (c.s 6#6).toNat + 16 ≤ c.core.launch.shared ∧
      ((c.core.transBar 16).phase + 2 ^ 16 - (c.s 7#6).toNat % 2 ^ 16) % 2 ^ 16 = 1 ∧ c.th.inflight = [])) = true ∧
    acts (tWarp id) (.tbwait 5#6 6#6 7#6) (fun c _ => decide (((c.core.transBar 0).phase + 2 ^ 16 - (c.s 7#6).toNat % 2 ^ 16) % 2 ^ 16 = 0)) = true ∧
    acts (tWarp id) .tfence (fun c _ => decide (c.a ≠ apAgent ∧ c.th.inflight = [])) = true ∧
    acts (tWarp id) (.fence 3#6 4#4) (fun _ _ => true) = true ∧
    (((tState (tThread fun t => { t with slotA := { t.slotA with st := .waiting (.fence .acq .gang (some (List.replicate 12 0#32, 0, 0))) } })).core? 0).any fun c =>
      decide ((c.thread 0).ahead = none) && !((c.thread 0).slot .b).fenced && decide ((c.thread 0).inflight = [])) = true := by decide +kernel

/-- Of the statement on `TFENCE` with a store to the tile store under way. -/
theorem test_meets_tfence :
    (let s := tAgain (tAfter (.stts 1#6 2#6 0#14) (tUnit 0 [0b1010011000#26] 7#4 id))
     acts { s with cur := (tWarp id).cur } .tfence (fun c _ => c.th.inflight.any fun x => !x.done && decide (x.kind = .store ∧ x.space = .tw))) = true := by decide +kernel

/-- Of the statements on guards and on failed checks. -/
theorem test_meets_checks :
    issues (tUnit 0 [] 0#4 id) (.sadd 5#6 6#6 7#6 0#1) (fun c s => decide (c.form.reject c.ap c.th.window c.iss = none ∧ c.guardEarly s.now = false ∧ c.pass = 0#32)) = true ∧
    issues (tUnit 16 [] 0#4 id) (.saddi 5#6 6#6 7#14) (fun c s => decide (c.form.reject c.ap c.th.window c.iss = none ∧ c.guardEarly s.now = false ∧ c.pass = 0#32)) = true ∧
    issues (tUnit 0 [1#26, 2#26] 7#4 id) .nop (fun c _ => (c.form.reject c.ap c.th.window c.iss).isSome) = true ∧
    issues (tWarp id) .rtt (fun c s => decide (c.form.reject c.ap c.th.window c.iss = none ∧ (ownCheck .rtt c s).isSome)) = true ∧
    (let s := tAfter (.pseti 0#6) (tWarp (tThread fun t => { t with wctl := 1#32 }))
     issues { tAgain s with cur := (tUnit 0 [] 0#4 id).cur, now := 1 } (.sadd 5#6 6#6 7#6 0#1) (fun c s => c.th.wctl.getLsbD 0 && c.guardEarly s.now)) = true ∧
    (let s := tAfter (.sli 6#6 1#20) (tWarp (tThread fun t => { t with wctl := 1#32 }))
     issues { tAgain s with now := 1 } (.sadd 5#6 6#6 7#6 0#1) (fun c s => !c.guardEarly s.now && (c.form.readRefs 7#4).any fun r => c.th.early s.now r)) = true ∧
    issues (tWarp (tThread fun t => { t with s := alterPad SReg.zero t.s 6 fun x => { x with poison := true } })) (.sadd 5#6 6#6 7#6 0#1)
      (fun c s => decide (c.poisoned ≠ 0#32) && !c.guardEarly s.now) = true := by decide +kernel

/-- Of the statement on kills: a squashed block, the access processor, a handler, a grid without a handler. -/
theorem test_meets_kills :
    (tBlock.phase = .running ∧ (tBlock.thread 0).ahead = none ∧ tBlock.launch.redundant = false) ∧ ({ tBlock with squashed := true } : Core).squashed = true ∧
    ((tThread (fun t => { t with handler := some .a }) tBlock).thread 0).handler ≠ none ∧
    ({ tBlock with launch := { tLaunch with trapEntry := 0xFFFFFFFF#32 } } : Core).launch.trapEntry = 0xFFFFFFFF#32 := by decide +kernel

/-- Of the statement on accesses: a refused atomic, a full counter, a misaligned lane, one outside, and one that is issued. -/
theorem test_meets_accesses :
    acts (tWarp (fun c => { c with launch := { c.launch with redundant := true } })) (.atom 1#6 2#6 3#6 0#4) (fun c s => (c.asked (.atom 1#6 2#6 3#6 0#4) s).any fun q =>
      c.core.launch.redundant && decide (q.space = .global ∧ q.kind = .atom)) = true ∧
    (let x (s : State) : State := { s with cores := s.cores.map fun y => (y.1, tThread (fun t => { t with inflight := t.inflight.flatMap (List.replicate 63) }) y.2) }
     acts (x (tAgain (tAfter (.ldsh 1#6 2#6 0#14) (tWarp id)))) (.ldsh 4#6 2#6 0#14) (fun c _ => decide (63 ≤ c.th.counter .lo))) = true ∧
    acts (tWarp (tRegs 0 [(2, 1#64)])) (.ldsh 1#6 2#6 0#14) (fun c s => (c.asked (.ldsh 1#6 2#6 0#14) s).any fun q => decide (q.crooked ≠ [])) = true ∧
    acts (tWarp (tRegs 0 [(2, 0xF84#64)])) (.ldsh 1#6 2#6 0#14) (fun c s => (c.asked (.ldsh 1#6 2#6 0#14) s).any fun q => decide (q.crooked = [] ∧ c.beyond q = [31])) = true ∧
    acts (tWarp (tRegs 0 [(2, 0xF80#64)])) (.ldsh 1#6 2#6 0#14) (fun c s => (c.asked (.ldsh 1#6 2#6 0#14) s).any fun q =>
      decide (q.crooked = [] ∧ c.beyond q = [] ∧ q.space ≠ .global ∧ c.th.counter q.path < 63)) = true := by decide +kernel

/-- What a global load of warp 0 finds of its pages. -/
def tFinds (i : Instr) (c : Ctx) (s : State) (p : State × Found → Bool) : Bool :=
  (c.asked i s).any fun q => decide (q.space = .global ∧ q.crooked = []) && p (s.translateLanes c.k c.core.launch.asid (if q.kind.writes then .write else .read) q.wants)

/-- Of the statement on global accesses: pages resident, a fatal address, an absent page (in a warp, under `.nf`, in the access processor), a refused write. -/
theorem test_meets_global :
    acts (tWarp (tPaged id)) (.ld 1#6 2#6 0#14) (fun c s => tFinds (.ld 1#6 2#6 0#14) c s fun x => decide (x.2.fatal = none ∧ x.2.pending = [] ∧ x.2.absent = [])) = true ∧
    acts (tWarp (tPaged id)) (.st 1#6 2#6 0#14) (fun c s => tFinds (.st 1#6 2#6 0#14) c s fun x => decide (x.2.fatal = none ∧ x.2.pending = [] ∧ x.2.absent = []) &&
      decide (c.core.vid = 0)) = true ∧
    acts (tWarp (tRegs 0 [(2, 0x0100000000000000#64)])) (.ld 1#6 2#6 0#14) (fun c s => tFinds (.ld 1#6 2#6 0#14) c s fun x => x.2.fatal.isSome) = true ∧
    acts (tWarp (tPaged fun c => { c with vid := 1 })) (.st 1#6 2#6 0#14) (fun c s => tFinds (.st 1#6 2#6 0#14) c s fun x =>
      decide (x.2.fatal = none ∧ x.2.pending = [] ∧ x.2.absent = [] ∧ c.core.vid ≠ 0) && (x.2.entry 31).any fun e => !e.ver) = true ∧
    (let s := { tWarp id with roots := [(0, 0x200000)] }
     acts s (.ld 1#6 2#6 0#14) (fun c s => tFinds (.ld 1#6 2#6 0#14) c s fun x => decide (x.2.fatal = none ∧ x.2.pending = [] ∧ x.2.absent ≠ [])) &&
     acts { s with cur := (tUnit 0 [0b0010000010#26] 7#4 id).cur } (.ld 1#6 2#6 0#14) (fun c s => tFinds (.ld 1#6 2#6 0#14) c s fun x => decide (x.2.fatal = none ∧ x.2.absent ≠ [])) &&
     acts { s with cur := (tUnit 16 [] 7#4 id).cur } (.lds 1#6 2#6 0#14) (fun c s => tFinds (.lds 1#6 2#6 0#14) c s fun x =>
       c.ap && decide (x.2.fatal = none ∧ x.2.pending = [] ∧ x.2.absent ≠ []))) = true := by decide +kernel

/-- A pool whose table lies on the page of data. -/
def tPool : Pool :=
  { base := 0x8000, tbase := 0, flbase := 0x4000, bbytes := 4096, pstride := 16, nblk := 8, nseq := 2, maxblk := 4, bshift := 4, home := 0, enable := true,
    flhead := 0#32, fltail := 1#32 }

/-- Of the statement on lines and appends: an aligned and a misaligned line, one outside; a lane in range and one out of range; the entry's page resident. -/
theorem test_meets_lines :
    acts (tWarp (tRegs 0 [(6, 0xF80#64), (7, 1#64)])) (.femark 6#6 7#6) (fun c _ => decide (c.th.counter .lo < 63 ∧ (c.s 6#6).toNat % 128 = 0 ∧
      (c.s 6#6).toNat + 128 * max 1 ((c.s 7#6).toNat % 2 ^ 12) ≤ c.core.launch.shared)) = true ∧
    acts (tWarp (tRegs 0 [(6, 0xF80#64), (7, 2#64)])) (.femark 6#6 7#6) (fun c _ => decide ((c.s 6#6).toNat % 128 = 0 ∧
      c.core.launch.shared < (c.s 6#6).toNat + 128 * max 1 ((c.s 7#6).toNat % 2 ^ 12))) = true ∧
    acts (tWarp (tRegs 0 [(6, 0x40#64)])) (.fepoll 1#6 6#6) (fun c _ => decide ((c.s 6#6).toNat % 128 ≠ 0)) = true ∧
    acts (tUnit 16 [] 7#4 (tRegs 16 [(6, 0xF80#64)])) (.fepoll 1#6 6#6) (fun c _ => decide ((c.s 6#6).toNat % 128 = 0 ∧ (c.s 6#6).toNat + 128 ≤ c.core.launch.shared)) = true ∧
    (let s := { tWarp (tPaged id) with pools := [(0, tPool)] }
     acts s (.kvmap 1#6 2#6 3#6) (fun _ s => decide (s.pools.find 0 = some tPool) && tPool.enable) &&
     acts { s with cores := s.cores.map fun x => (x.1, tVecs [(2, 2#32)] x.2) } (.kvappend 1#6 2#6 3#6) (fun c _ => decide (¬ (c.v 2#6 0).toNat < tPool.nseq)) &&
     acts s (.kvappend 1#6 2#6 3#6) (fun c s => !c.core.launch.redundant && decide (c.th.counter .gl < 63) &&
       let x := s.translateLanes c.k c.core.launch.asid .write ((lanesOf c.pass).map fun l => { lane := l, va := 0#64, nib := 0, op := .kv 0#32 })
       decide (x.2.fatal = none ∧ x.2.pending = [] ∧ x.2.absent = [] ∧ c.core.vid = 0) && (x.2.entry 0).any fun e =>
         decide (e.phys 0 = 0x100000) && x.1.instantReady 0 (homeDie (e.phys 0)))) = true := by decide +kernel

/-- Of the statement on local loads and stores: what an instruction of each kind leaves under way on core 0 is what the statement asks for. -/
def tUnderWay (s : State) (kind : AccessKind) : Bool :=
  (s.core? 0).any fun c => ((c.thread 0).inflight[0]?).any fun x =>
    c.acts && !x.done && !x.stuck && decide (x.path = .lo) && decide (x.reqs = []) && (c.thread 0).localTurn 0 x && decide ((c.thread 0).ahead = none) &&
      decide ((x.dests.map Prod.fst).Nodup) && decide (x.kind = kind) && x.elems.all fun e => decide (e.byte + sizeBytes e.size ≤ 128)

/-- A load of each local space, an atomic, a poll, stores, a mark and the operations on barriers are under way. -/
theorem test_meets_local :
    tUnderWay (tAfter (.ldts 1#6 2#6 0#14) (tUnit 0 [0b0010101000#26] 7#4 id)) .load = true ∧ tUnderWay (tAfter (.ldsh 1#6 2#6 0#14) (tWarp id)) .load = true ∧
    tUnderWay (tAfter (.atomsh 1#6 2#6 3#6 0#4) (tWarp id)) .atom = true ∧ tUnderWay (tAfter (.fepoll 6#6 2#6) (tWarp id)) .fepoll = true ∧
    tUnderWay (tAfter (.stl 1#6 2#6 0#14) (tUnit 0 [0b1010001000#26] 7#4 id)) .store = true ∧ tUnderWay (tAfter (.femark 2#6 3#6) (tWarp id)) .femark = true ∧
    tUnderWay (tAfter (.tbinit 2#6 3#6) (tWarp id)) .tbinit = true ∧ tUnderWay (tAfter (.tbexpect 2#6 3#6) (tWarp id)) .tbexpect = true ∧
    tUnderWay (tAfter (.tbarrive 2#6) (tWarp id)) .tbarrive = true := by decide +kernel

/-- Of the statements on words: an instruction of each kind, and prefixes that choose it. -/
theorem test_meets_words :
    ((Instr.ldc 1#6 2#6 3#14).wf = true ∧ isEpilogue (.ldc 1#6 2#6 3#14) = false ∧ chosenBy (.ldc 1#6 2#6 3#14) [0x84#26] = true ∧ (encode (.ldc 1#6 2#6 3#14)).isSome = true) ∧
    ((Instr.est 2#4 2#2).wf = true ∧ isEpilogue (.est 2#4 2#2) = true ∧ (encode (.est 2#4 2#2)).isSome = true) := by decide +kernel

/-- The placed block with a `SADD` in slot 1 of its first packet, and its port in a run of warp 0. -/
def tFetch : State :=
  let s := State.reset.withFetchWord 32 (tA 0x03 5 6 7 0x00).toNat
  { s with cores := s.cores.map fun x => (x.1, { x.2 with mx := [], ports := alterPad Port.idle x.2.ports 0 fun p => { p with run := some (0, .a) } }) }

/-- Of the statement on a step: the plan asks for the port, whose slot is ready, and the packet's word is a `SADD`. -/
theorem test_meets_step :
    (decide (tFetch.plan = [.port 0 0]) && !tFetch.stopped && (tFetch.core? 0).any fun c =>
      decide (c.phase = .running ∧ (c.portOf 0).run = some (0, .a) ∧ ((c.thread 0).slot .a).st = .live ∧ (c.thread 0).deferred = [] ∧ (c.thread 0).linkEvents = [] ∧
        (c.thread 0).ahead = none ∧ ((c.thread 0).slot .a).ra = none ∧ c.firstIssue = none ∧ c.claims = [] ∧ c.reframe = []) && tFetch.mayIssue 0 0 c .a &&
      (List.range 17).all (fun y => [SlotId.a, .b].all fun z => decide (((c.thread y).slot z).st = .live) || decide (((c.thread y).slot z).st = .empty)) &&
      match ({ tFetch with plan := [] } : State).readUnit 0 3 [] ((c.thread 0).slot .a).pc with
      | (s2, .ready [] [m]) => decide (unitFault [] [m] false (c.portOf 0).count = none ∧ m.badControl false = none ∧ m.isXimm = false ∧
          (decodeRaw [] m.word).map Prod.fst = some (.sadd 5#6 6#6 7#6 0#1)) && !(s2.core? 0).any fun c => c.loopSplit 0 m.pc
      | _ => false) = true := by decide +kernel

/-- Of the statements on a fatal stop and on reset. -/
theorem test_meets_stop :
    ({ State.reset with stopped := true, plan := [.tick, .event (.claimGrant 0)] } : State).stopped = true ∧ actsWhenStopped (.claimGrant 0) = false := by decide +kernel

/-- The word that the host's question places runs as the next step: `SLI s5, #-1`. -/
theorem test_fetch_runs : nextIs (step (State.reset.withFetchWord 32 (tC 0x05 5 0xFFFFF).toNat)) (fun t => decide ((t.thread 0 0).sval 5 = 0xFFFFFFFFFFFFFFFF#64)) = true := by
  decide +kernel

/-- The part answers on PCIe, and one queue is listed. -/
def tHosted (q : Queue) : State := { tState id with boot := .ready, queues := [(3, q)] }

/-- A queue descriptor that is enabled, of 16 records at 0. -/
def tDesc : BitVec 256 := BitVec.ofNat 256 (2 ^ 84 + 4 * 2 ^ 85 + 7 * 2 ^ 112)

/-- Of the statement on the host: doorbells, queues and cursors. -/
theorem test_meets_host_writes :
    nextIs (exec (.doorbellWrite 0 24 8 5#64) (tHosted { Queue.reset with logn := 4 })) (fun t => decide ((t.queue 3).tail = 5#32)) = true ∧
    nextIs (exec (.doorbellWrite 0 24 8 99#64) (tHosted { Queue.reset with logn := 4 })) (fun t => decide ((t.queue 3).tail = 0#32 ∧ t.host.out.length = 2)) = true ∧
    nextIs (exec (.doorbellWrite 1 24 8 5#64) (tHosted { Queue.reset with logn := 4 })) (fun t => decide ((t.die 0).errlog.length = 1 ∧ t.host.out = [])) = true ∧
    nextIs (exec (.queueDescriptorWrite ⟨0, 3⟩ tDesc) (tHosted { Queue.reset with tail := 2#32 })) (fun t => decide ((t.queue 3).enable = true ∧ (t.queue 3).logn = 4 ∧ (t.queue 3).tail = 2#32)) = true ∧
    nextIs (exec (.queueDescriptorWrite ⟨0, 3⟩ tDesc) (tHosted { Queue.reset with enable := true, logn := 9 })) (fun t => decide ((t.queue 3).quantum = 7 ∧ (t.queue 3).logn = 9)) = true ∧
    nextIs (exec (.queueDescriptorWrite ⟨0, 3⟩ (tDesc ||| 1#256)) (tHosted Queue.reset)) (fun t => decide ((t.queue 3).enable = false)) = true ∧
    nextIs (exec (.egressHcurWrite 2 6#32) (tHosted Queue.reset)) (fun t => decide ((t.domain 2).egress.hcur = 6#32)) = true ∧
    nextIs (exec (.rstreqWrite 0x57525354#32) (tHosted Queue.reset)) (fun t => decide (t.cores = [])) = true ∧
    nextIs (exec (.rstreqWrite 1#32) (tHosted Queue.reset)) (fun t => decide (t.cores.length = 1)) = true ∧
    nextIs (exec (.rstreqWrite 0x57525354#32) State.reset) (fun t => decide (t.boot = .step 1)) = true ∧
    nextIs (exec (.hostMemoryCompletion 0) { tState id with host := { out := [], writes := [(4, 5)], nextId := 5 } }) (fun t => decide (t.host.writes = [])) = true := by decide +kernel

/-- The same for BAR4. -/
theorem test_meets_bar4 :
    nextIs (exec (.hostBar4Access 0x100003 true [7#8, 9#8] 0) (tHosted Queue.reset)) (fun t => decide (bytesAt t.committedByte 0x100003 2 = 0x907)) = true ∧
    nextIs (exec (.hostBar4Access 0x100003 false [] 2) (tAfter (.hostBar4Access 0x100003 true [7#8, 9#8] 0) (tHosted Queue.reset))) (fun t =>
      decide (t.host.out = [.bar4Data [7#8, 9#8]])) = true ∧
    nextIs (exec (.hostBar4Access 0x17C0000000 true [7#8] 0) (tHosted Queue.reset)) (fun t => decide ((t.die 0).errlog.length = 1)) = true ∧
    nextIs (exec (.hostBar4Access 0x17C0000000 false [] 2) (tHosted Queue.reset)) (fun t => decide (t.host.out = [.bar4Data [0xFF#8, 0xFF#8]])) = true := by decide +kernel

/-- A KV pool descriptor of die 0 that keeps the limits, with FLAGS given. -/
def tKvDesc (flags : Nat) : BitVec 512 :=
  BitVec.ofNat 512 (128 * 2 ^ (8 * 0x18) + 64 * 2 ^ (8 * 0x1C) + 2 * 2 ^ (8 * 0x20) + 2 ^ (8 * 0x24) + 2 ^ (8 * 0x28) + flags * 2 ^ (8 * 0x2E) + 9 * 2 ^ (8 * 0x30))

/-- Of the statement on firmware: tables, pools and registers. -/
theorem test_meets_firmware_writes :
    nextIs (exec (.shareTableWrite 1 2 0x30005#32) (tState id)) (fun t => decide ((t.die 1).disp.share.find 2 = some 0x10005#32)) = true ∧
    nextIs (exec (.ageThresholdWrite 0 4096) (tState id)) (fun t => decide ((t.die 0).disp.age = 4096)) = true ∧
    nextIs (exec (.ageThresholdWrite 0 4095) (tState id)) (fun t => decide ((t.die 0).disp.age = (Die.reset).disp.age)) = true ∧
    nextIs (exec (.egressDescriptorWrite 1 (BitVec.ofNat 256 (0x3000 + 8 * 2 ^ 64 + 64 * 2 ^ 96 + 3 * 2 ^ 192))) (tState id)) (fun t =>
      decide ((t.domain 1).egress.base = 0x3000 ∧ (t.domain 1).egress.logn = 8 ∧ (t.domain 1).egress.shadow = 64 ∧ (t.domain 1).egress.hcur = 3#32)) = true ∧
    nextIs (exec (.kvPoolDescriptorWrite 0 4 (tKvDesc 1)) (tState id)) (fun t => decide ((t.pools.find 4).map Pool.enable = some true)) = true ∧
    nextIs (exec (.kvPoolDescriptorWrite 0 4 (tKvDesc 0)) (tAfter (.kvPoolDescriptorWrite 0 4 (tKvDesc 1)) (tState id))) (fun t =>
      decide ((t.pools.find 4).map Pool.enable = some false ∧ (t.pools.find 4).map Pool.flhead = some 9#32)) = true ∧
    nextIs (exec (.kvPoolDescriptorWrite 0 4 (tKvDesc 1)) (tAfter (.kvPoolDescriptorWrite 0 4 (tKvDesc 1)) (tState id))) (fun t => decide (t.pools.length = 1)) = true ∧
    nextIs (exec (.kvPoolDescriptorWrite 1 4 (tKvDesc 1)) (tState id)) (fun t => decide (t.pools = [])) = true ∧
    nextIs (exec (.logbaseWrite 2 (2 ^ 23)) (tState id)) (fun t => decide ((t.die 2).logBase = 2 ^ 23)) = true ∧
    nextIs (exec (.logbaseWrite 2 5) (tState id)) (fun t => decide ((t.die 2).logBase = 0)) = true ∧
    nextIs (exec (.dumpRegionWrite 0 0x2000 0x1000) (tState id)) (fun t => decide ((t.die 0).dumpBase = 0x2000 ∧ (t.die 0).dumpSize = 0x1000)) = true ∧
    nextIs (exec (.dumpRegionWrite 0 0x2000 1) (tState id)) (fun t => decide ((t.die 0).dumpBase = 0)) = true ∧
    nextIs (exec (.membersWrite 3 6#32) (tState id)) (fun t => decide ((t.domain 3).members = 6#32)) = true ∧
    nextIs (exec (.acceptCounterWrite 3 .accept 6) (tState id)) (fun t => decide ((t.domain 3).accept = 6#16)) = true ∧
    nextIs (exec (.acceptCounterWrite 3 .accepted 6) (tState id)) (fun t => decide ((t.domain 3).accepted = 6)) = true := by decide +kernel

/-- The same for counters, links and tables. -/
theorem test_meets_counter_and_link_writes :
    nextIs (exec (.pcctlFreeze 3 true) (tState id)) (fun t => decide ((t.die 3).freeze = true)) = true ∧
    nextIs (exec (.pcctlClear 3) ((tState id).updDie 3 fun d => { d with kills := 5 })) (fun t => decide (t.counterOf 3 .kills = 0)) = true ∧
    nextIs (exec (.counterZeroWrite 3 .kills 0) ((tState id).updDie 3 fun d => { d with kills := 5 })) (fun t => decide (t.counterOf 3 .kills = 0)) = true ∧
    nextIs (exec (.counterZeroWrite 3 .kills 1) ((tState id).updDie 3 fun d => { d with kills := 5 })) (fun t => decide (t.counterOf 3 .kills = 5)) = true ∧
    nextIs (exec (.linkRegisterWrite 2 1 .retired 3) { tState id with felts := List.replicate 16 { Bundle.reset with draining := true } }) (fun t => decide ((t.feltModule 2 1).retired = 3)) = true ∧
    nextIs (exec (.linkRegisterWrite 2 1 .retired 3) (tState id)) (fun t => decide ((t.feltModule 2 1).retired = 0)) = true ∧
    nextIs (exec (.linkRegisterWrite 2 1 .rate 3) { State.reset with boot := .ready }) (fun t => decide ((t.feltModule 2 1).rate = 0)) = true ∧
    nextIs (exec (.linkRateChange 2 1 3 0) { State.reset with boot := .ready }) (fun t => decide ((t.feltModule 2 1).rate = 3)) = true ∧
    nextIs (exec (.peerSlotTableWrite 4 7 true) (tState id)) (fun t => decide (t.peers.find 4 = some 7)) = true ∧
    nextIs (exec (.peerSlotTableWrite 4 7 false) { tState id with peers := [(4, 7)] }) (fun t => decide (t.peers = [])) = true ∧
    nextIs (exec (.addressSpaceTableWrite 4 4096 true) (tState id)) (fun t => decide (t.roots.find 4 = some 4096)) = true ∧
    nextIs (exec (.addressSpaceTableWrite 4 0 false) { tState id with roots := [(4, 7)] }) (fun t => decide (t.roots = [])) = true ∧
    nextIs (exec (.registerWrite (.replayThr 2 1) 77#64) (tState id)) (fun t => decide ((t.feltModule 2 1).replayThr = 77)) = true ∧
    nextIs (exec (.registerWrite (.reserved 0) 77#64) (tState id)) (fun t => decide (t.felts = (tState id).felts)) = true := by decide +kernel

/-- The block with room for two tiles and two operands, and two programs. -/
def tTiles (c : Core) : Core := { c with launch := { c.launch with tileA := 8192, tileW := 8192, tileC := 0x8000, epiCount := 2 } }

/-- The block with one command of tile 1, in the open batch 1. -/
def tMx (op : MatrixOp) (st : MatrixState) (c : Core) : Core :=
  { tTiles c with mx := [{ id := 7, tag := 0, pc := 0#64, tile := 1, op := op, batch := 1#32, loose := [], st := st }], curBatch := 1#32, lastBatch := 0#32, tc := [(0x4000, 9#8)] }

/-- The program of one word `EEND` lies at the first place of the table of programs, on the page of data. -/
def tProgram (s : State) : State := { s with mem := s.mem.writeBytes (tData.phys 0) (bytesOfNat 4 ((encode .eend).getD 0#32).toNat) }

/-- Of the statement on matrix commands: what may join the queue and what finds it full; a program that is read; a start, a tile of zeros, a product, and the end of a
drain. -/
theorem test_meets_matrix :
    acts (tUnit 16 [] 7#4 (fun c => tTiles (tRegs 16 [(6, 0x100#64), (7, 0x200#64)] c))) (.mma 1#6 6#6 7#6 4#4) (fun c _ => decide ((c.s 6#6).toNat + 4352 ≤ c.core.launch.tileA ∧
      (c.s 7#6).toNat + 4352 ≤ c.core.launch.tileW ∧ 0x4000 * 2 ≤ c.core.launch.tileC ∧ (c.core.mx.filter fun y => decide (y.st = .queued)).length < 16)) = true ∧
    acts (tUnit 16 [] 7#4 (fun c => let d := tMx .mzero .queued c; { d with mx := (List.replicate 16 d.mx).flatten })) (.mzero 1#6) (fun c _ =>
      decide (16 ≤ (c.core.mx.filter fun y => decide (y.st = .queued)).length)) = true ∧
    acts (tUnit 16 [] 7#4 tTiles) (.mbatch 1#6) (fun _ _ => true) = true ∧
    acts (tUnit 16 [] 7#4 tTiles) (.drain 1#6 6#6 7#6) (fun c s => decide (ownCheck (.drain 1#6 6#6 7#6) c s = none ∧ estBound c.core.epiProgram 0 0 ≤ c.core.launch.shared ∧
      auxBound c.core.epiProgram c.core.epiAux ≤ c.core.launch.shared)) = true ∧
    acts (tProgram (tUnit 16 [] 7#4 (fun c => tPaged id (tTiles c)))) (.episet 6#6 7#6) (fun c s =>
      decide (ownCheck (.episet 6#6 7#6) c s = none) && match c.readProgram c.core.launch.epitab s with | (_, .words ws) => decide ((programOf ws).isSome) | _ => false) = true := by
  decide +kernel

/-- The same for the steps of the engine. -/
theorem test_matrix_steps :
    nextIs (exec (.matrixCommandStart 0) (tState (tMx .mzero .queued))) (fun t => (t.core? 0).any fun x => x.mx.all fun y => decide (y.st = .running)) = true ∧
    nextIs (exec (.matrixCommandComplete 0 0) (tState (tMx .mzero .running))) (fun t => (t.core? 0).any fun x => decide (x.tc = []) && x.mx.all fun y => decide (y.st = .done)) = true ∧
    nextIs (exec (.drainComplete 0 0) (tState (tMx (.drain 0#64 0 none [] 0) (.draining { EpiRun.first with finished := true })))) (fun t => (t.core? 0).any fun x =>
      decide (x.tc = [(0x4000, 9#8)]) && x.mx.all fun y => decide (y.st = .done)) = true := by decide +kernel

/-- A record of one row of 64 bytes at address 0x10000, and the bytes there. -/
def tRecord (s : State) : State :=
  { s with mem := (s.mem.writeBytes (tData.phys 0) (bytesOfNat 64 (0x10000 + 64 * 2 ^ 64 + 64 * 2 ^ (8 * 0x30) + 2 ^ (8 * 0x3B)))).writeBytes 0x110000 [7#8, 8#8] }

/-- The access processor copies that row into shared memory. -/
def tCopying : State :=
  tRecord (tUnit 16 [] 7#4 fun c => let d := tPaged (tRegs 16 [(8, 0#64), (11, 0xFFFF00000000#64)]) c; { d with tlb := { tData with page := 1, frame := 0x110000 } :: d.tlb })

/-- A step of the same kind several times. -/
def tTimes (n : Nat) (i : Instr) (s : State) : State := n.repeat (tAfter i) s

/-- Of the statement on copies and lines: the instructions are issued; a record that has been read is checked; a sector that has been read lands. -/
theorem test_meets_copies :
    acts tCopying (.copy 6#6 8#6 2#4) (fun c _ => decide (c.th.counter .cp < 63)) = true ∧
    ((tTimes 2 (.copyValidation 0 0) (tAfter (.copy 6#6 8#6 2#4) tCopying)).core? 0).any (fun c => c.copies.any fun x =>
      decide (x.st = .waiting ∧ x.recAddr = 0#64) && (c.thread x.agent).writesDone x.tag && c.mayCount x && x.units.any fun u => u.reads.any fun r =>
        match r.st with | .replied _ _ => true | _ => false) = true ∧
    ((tTimes 3 (.copyValidation 0 0) (tAfter (.copy 6#6 8#6 2#4) tCopying)).core? 0).any (fun c => c.copies.any fun x => decide (x.st = .moving ∧ x.remaining = [0, 1])) = true ∧
    ((tTimes 2 (.copySectorLand 0 0) (tTimes 3 (.copyValidation 0 0) (tAfter (.copy 6#6 8#6 2#4) tCopying))).core? 0).any (fun c =>
      decide (c.sh.readNat 0 2 = 0x807) && c.copies.any fun x => decide (x.counted = [0])) = true := by decide +kernel

/-- The prefetches, `PGREQ`, `CINV` and `TLBINV` are issued, and do what they say in the access processor. -/
theorem test_meets_line_words :
    nextIs (exec (.pref 6#6 7#6) (tUnit 16 [] 7#4 (tPaged (tRegs 16 [(6, 0x80#64)])))) (fun t => decide (t.homeHolds (tData.phys 0xE0) ≠ none)) = true ∧
    acts (tUnit 0 [] 7#4 (tPaged id)) (.prefRo 6#6 7#6) (fun _ _ => true) = true ∧
    nextIs (exec (.pgreq 6#6 7#6) { tUnit 16 [] 7#4 (tRegs 16 [(6, 0x30000#64)]) with roots := [(0, 0x200000)] }) (fun t => (t.die 0).pageReqs.any fun r => decide (r.page = 3)) = true ∧
    acts (tWarp id) .cinvRo (fun _ _ => true) = true ∧
    acts (tWarp id) .cinvL1 (fun _ _ => true) = true ∧
    nextIs (exec (.tlbinv 6#6) (tUnit 16 [] 7#4 (tPaged id))) (fun t => (t.core? 0).any fun c => decide (c.tlb = [placedEntry])) = true ∧
    nextIs (exec .tlbinvAll (tUnit 16 [] 7#4 (tPaged id))) (fun t => (t.core? 0).any fun c => decide (c.tlb = [])) = true := by decide +kernel

/-- Domain 0 with a live version 1, and 2 below it. -/
def tVersions (s : State) : State :=
  { s with domains := [(0, { s.domain 0 with table := [(1, { VEntry.free with st := .live, depth := 1 }), (2, { VEntry.free with st := .live, depth := 2, parent := 1, anc := 2#256 })] })] }

/-- A resolve of version 1 that warp 0 of core 0 asked for. -/
def tResolve (squash : Bool) (status : Option Nat) : Resolve :=
  { source := .instr 0 0 .a 0, ofDomain := 0, ofVid := 0, domain := 0, target := 1, proposed := 0, squash := squash, status := status, notice := 1, dst := 5, taint := false, asked := none }

/-- The block in version 1, which is broke. -/
def tBroke (f : Core → Core) : State :=
  { tWarp fun c => { f c with vid := 1 } with domains := [(0, { State.reset.domain 0 with table := [(1, { VEntry.free with st := .broke })] })] }

/-- Of the statement on resolves: the words; the application of a commit, a squash and one that fails; the end; a notice at a slice; and a squash that reaches a core. -/
theorem test_meets_resolves :
    acts (tVersions (tWarp (tRegs 0 [(7, 1#64)]))) (.resolveC 5#6 6#6 7#6) (fun c s => decide (ownCheck (.resolveC 5#6 6#6 7#6) c s = none ∧ c.core.launch.redundant = false ∧ c.th.inflight = [])) = true ∧
    acts (tVersions (tWarp (tRegs 0 [(7, 1#64)]))) (.resolveS 5#6 6#6 7#6) (fun c s => decide (ownCheck (.resolveS 5#6 6#6 7#6) c s = none ∧ c.core.launch.redundant = false ∧ c.th.inflight = [])) = true ∧
    nextIs (exec (.vidq 5#6 6#6 7#6) (tVersions (tWarp (tRegs 0 [(7, 2#64)])))) (fun t => decide ((t.thread 0 0).sval 5 = 0x1201#64)) = true ∧
    nextIs (exec (.vidqFree 5#6 6#6) (tVersions (tWarp id))) (fun t => decide ((t.thread 0 0).sval 5 = 253#64)) = true ∧
    nextIs (exec (.specchk 1#6) (tVersions (tWarp id))) (fun t => decide ((t.thread 0 0).pval 1 = allLanes)) = true ∧
    nextIs (exec (.specchkLive 1#6) (tVersions (tWarp fun c => { c with vid := 9 }))) (fun t => decide ((t.thread 0 0).pval 1 = allLanes)) = true := by decide +kernel

/-- The same for the steps that apply them. -/
theorem test_meets_resolve_steps :
    nextIs (exec (.resolveApply 0) { tVersions (tWarp id) with resolves := [tResolve false none] }) (fun t => decide (((t.domain 0).entry 1).st = .couched ∧ ((t.domain 0).entry 2).st = .live ∧
      t.resolves = [tResolve false (some 0)])) = true ∧
    nextIs (exec (.resolveApply 0) { tVersions (tWarp id) with resolves := [tResolve true none] }) (fun t => decide (((t.domain 0).entry 1).st = .broke ∧ ((t.domain 0).entry 2).st = .broke)) = true ∧
    nextIs (exec (.resolveApply 0) { tWarp id with resolves := [tResolve true none] }) (fun t => decide (t.resolves.map (fun r => r.status) = [some 1])) = true ∧
    nextIs (exec (.resolveComplete 0) { tWarp (tThread fun t => { t with slotA := { t.slotA with st := .waiting (.resolve 0) } }) with resolves := [tResolve true (some 1)] })
      (fun t => decide (t.resolves = [] ∧ (t.thread 0 0).sval 5 = 1#64 ∧ ((t.thread 0 0).slot .a).st = .live)) = true ∧
    nextIs (exec (.sliceResolveNotice 11 63) { tWarp id with notices := [{ id := 1, domain := 0, couched := [1], broke := [], old := [], waiting := [0, 767] }] })
      (fun t => decide (t.notices.map (fun n => n.waiting) = [[0]])) = true ∧
    nextIs (exec (.versionNoticeApply 0) (tBroke (tMx (.drain 0#64 0 none [] 0) (.draining EpiRun.first))))
      (fun t => (t.core? 0).any fun x => x.squashed && decide (x.phase = .stopping) && x.mx.all fun m => decide (m.st = .done)) = true := by decide +kernel

/-- Slice 0 of die 0 with a copy of line 0 by version 1 of domain 0, which is broke and whose blocks have ended, in a pass that has come to set `n`. -/
def tSweep (n : Nat) (ways : Bool) : State :=
  let s := tBroke id
  { s with cores := [] }.updSlice 0 0 fun sl =>
    { sl with ways := if ways then [(16 * Machine.setOf 0, Way.fresh (.copy 0 1) 0)] else [], sweep := some { vids := [(0, 1)], next := n, released := [(0, 1, 0)] } }

/-- A pair of cores 0 and 1 whose blocks are in a phase. -/
def tPair (phase : Phase) (st : Nat) (sig : W64) : State :=
  let s := tState fun c => { c with phase := phase, launch := { c.launch with redundant := true } }
  let s : State := { s with cores := s.cores ++ s.cores.map fun (x : Nat × Core) => (1, { x.2 with sig := sig }) }
  s.updDie 0 fun d => { d with pairs := [(0, { grid := 0, gang := 0, block := 0, span := 0, sigP := 0#64, sigT := 0#64, vidP := 1, vidT := 2, domain := 0, coreP := 0, coreT := 1, nP := 0, nT := 0, st := st, rerun := false })] }

/-- Of the statement on sweeps and pairs: a pass begins, visits and ends; a version is free again; `SIGSYNC` in a block that is redundant and in one that is not; a pair
agrees, differs, and runs again. -/
theorem test_meets_sweeps :
    nextIs (exec (.sweepPassStart 0 1) (tSweep 0 true)) (fun t => (t.slice 0 1).sweep.any fun p => decide (p.vids = [(0, 1)] ∧ p.next = 0)) = true ∧
    nextIs (exec (.sweepVisit 0 0) (tSweep (Machine.setOf 0) true)) (fun t => decide ((t.slice 0 0).ways = [])) = true ∧
    nextIs (exec (.sweepPassEnd 0 0) (tSweep 1024 false)) (fun t => decide ((t.slice 0 0).sweep = none ∧ ((t.domain 0).entry 1).swept = [0])) = true ∧
    nextIs (exec (.vidRecycle 0 1) { tBroke id with cores := [], domains := [(0, { State.reset.domain 0 with table := [(1, { VEntry.free with st := .broke, swept := List.range 768 })] })] })
      (fun t => decide (((t.domain 0).entry 1).st = .free)) = true := by decide +kernel

/-- The same for pairs. -/
theorem test_meets_pairs :
    nextIs (exec (.sigsync 1#6) (tWarp id)) (fun t => decide ((t.thread 0 0).pval 1 = allLanes)) = true ∧
    nextIs (exec (.sigsync 1#6) (tWarp fun c => { c with vid := 9, launch := { c.launch with redundant := true } })) (fun t => (t.core? 0).any fun c => decide (c.sigCount = 1)) = true ∧
    nextIs (exec (.pairCompare 0 0) (tPair .completed 1 0#64)) (fun t => t.resolves.any fun r => !r.squash && decide (r.target = 1)) = true ∧
    nextIs (exec (.pairCompare 0 0) (tPair .completed 1 1#64)) (fun t => t.resolves.any fun r => r.squash && decide (r.target = 1)) = true ∧
    nextIs (exec (.pairRerunStart 0 0) (tPair .stopping 3 0#64)) (fun t => ((t.die 0).pairs.find 0).any fun p => p.rerun && decide (p.vidP = 1 ∧ p.vidT = 2) &&
      (t.core? 1).any fun c => decide (c.vid = 2 ∧ c.phase = .clearing)) = true := by decide +kernel

/-- The block's domain with a configured egress ring of 256 slots: the shadow and the host-visible slots lie in HBM of die 0. -/
def tRing (rs : List Reservation) (r : W32) (vid : VidState) (s : State) : State :=
  { s with domains := [(0, { s.domain 0 with table := [(1, { VEntry.free with st := vid })], egress := { hcur := 0#32, lcur := 0#32, shadow := 0x200000, logn := 8, base := 0x300000, r := r, p := 0#32, l := 0#32, reservations := rs } })] }

/-- A reservation of warp 0's block of 4 positions from 0. -/
def tReserved : Reservation :=
  { core := 0, grid := 0, vid := 1, first := 0#32, count := 4, published := false, isVoid := false, couched := false, publisher := none, written := false, pushed := [] }

/-- A pool of 64 blocks whose list is at 0x400000 and holds `n`. -/
def tPool2 (n : Nat) (s : State) : State :=
  { s with mem := s.mem.writeBytes 0x400000 [9#8], pools := [(1, { base := 0x500000, tbase := 0x600000, flbase := 0x400000, bbytes := 128, pstride := 4, nblk := 64, nseq := 1, maxblk := 1, bshift := 0, home := 0, enable := true, flhead := 0#32, fltail := BitVec.ofNat 32 n })] }

/-- Of the statement on egress and free lists: a reservation, one that waits, a push, a publication. -/
theorem test_meets_egress :
    nextIs (exec (.egrsv 5#6 6#6) (tRing [] 0#32 .live (tWarp fun c => tRegs 0 [(6, 4#64)] { c with vid := 1 }))) (fun t =>
      decide ((t.thread 0 0).sval 5 = 0#64 ∧ (t.domain 0).egress.r = 4#32 ∧ (t.domain 0).egress.reservations = [tReserved])) = true ∧
    acts (tRing [] 0#32 .live (tWarp fun c => tRegs 0 [(6, 4#64)] { c with vid := 1 })) (.egrsv 5#6 6#6) (fun c _ => decide (c.core.launch.redundant = false)) = true ∧
    nextIs (exec (.egrsv 5#6 6#6) (tRing [] 253#32 .live (tWarp fun c => tRegs 0 [(6, 4#64)] { c with vid := 1 }))) (fun t =>
      decide (((t.thread 0 0).slot .a).st = .waiting (.egrsv 5 false 4 0))) = true ∧
    nextIs (exec (.egpush 6#6 7#6) (tRing [tReserved] 4#32 .live (tUnit 16 [] 7#4 fun c => tRegs 16 [(6, 2#64), (7, 5#64)] { c with vid := 1 }))) (fun t =>
      decide (bytesAt t.committedByte 0x200010 8 = 0x30100000005 ∧ (t.domain 0).egress.reservations.map Reservation.pushed = [[2#32]])) = true ∧
    nextIs (exec (.egpub 6#6) (tRing [tReserved] 4#32 .live (tWarp fun c => tRegs 0 [] { c with vid := 1 }))) (fun t =>
      (t.domain 0).egress.reservations.any fun r => r.published && decide (r.first = 0#32)) = true := by decide +kernel

/-- The same for a release and for the free lists: a pop from version 0, from a live one and of an empty list, and a push. -/
theorem test_meets_free_lists :
    nextIs (exec (.egrelV 5#6 6#6 7#6) (let s := tRing [] 4#32 .live (tWarp (tRegs 0 [(7, 1#64)])); let e := (s.domain 0).egress
        { s with mem := s.mem.writeBytes 0x200000 [7#8, 0#8, 0#8, 0#8, 2#8, 1#8], domains := [(0, { s.domain 0 with egress := { e with p := 1#32 } })] })) (fun t =>
      decide ((t.thread 0 0).sval 5 = 0x100000001#64 ∧ (t.domain 0).egress.lcur = 1#32 ∧ bytesAt t.committedByte 0x300000 8 = 0x20200000007)) = true ∧
    nextIs (exec (.flpop 5#6 6#6) (tPool2 1 (tWarp (tRegs 0 [(6, 1#64)])))) (fun t => decide ((t.thread 0 0).sval 5 = 9#64 ∧ (t.pools.find 1).map Pool.flhead = some 1#32)) = true ∧
    nextIs (exec (.flpop 5#6 6#6) (tRing [] 0#32 .live (tPool2 1 (tWarp fun c => tRegs 0 [(6, 1#64)] { c with vid := 1 })))) (fun t =>
      decide ((t.thread 0 0).sval 5 = 9#64 ∧ (t.die 0).logEntries = [{ held := false, free := false, pool := 1, vid := 1, domain := 0, block := 9 }])) = true ∧
    nextIs (exec (.flpop 5#6 6#6) (tPool2 0 (tWarp (tRegs 0 [(6, 1#64)])))) (fun t => decide ((t.thread 0 0).sval 5 = 0#64)) = true ∧
    nextIs (exec (.flpush 6#6 7#6) (tPool2 1 (tWarp (tRegs 0 [(6, 1#64), (7, 5#64)])))) (fun t =>
      decide ((t.pools.find 1).map Pool.fltail = some 2#32 ∧ bytesAt t.committedByte 0x400004 4 = 5)) = true := by decide +kernel

/-- Warp 0's block with a drain to `sh:` 0 with rows of 256 bytes and auxiliary words from 1024, whose registers `e1` and `e2` hold 1.0 and 2.0 in every element. -/
def tDrain (row group : Nat) (f : Core → Core) : State :=
  let e := [List.replicate 16 0#32, List.replicate 16 0x3F800000#32, List.replicate 16 0x40000000#32] ++ List.replicate 13 (List.replicate 16 0#32)
  tUnit 16 [] 7#4 fun c => f (tMx (.drain 0#64 256 none [(encode (.est 1#4 2#2)).getD 0#32, (encode .eend).getD 0#32] 1024)
    (.draining { row := row, group := group, word := 0, e := e, pois := List.replicate 16 (List.replicate 16 false), writes := [], finished := false, peerSectors := 0, peerLine := 0, signalled := 0 }) c)

/-- What register `d` of that drain holds after a word. -/
def tElements (i : Instr) (d : Nat) : List W32 :=
  match exec i (tDrain 2 1 fun c => { c with sh := [(1024 + 8, 9#8), (1024 + 68, 5#8)] }) with
  | .next t => match t.core? 0 with
    | some c => match c.mx.map MatrixCmd.st with
      | [.draining r] => nth r.e d []
      | _ => []
    | none => []
  | _ => []

/-- Of the statement on epilogue words: words that compute, and words that load. -/
theorem test_meets_epilogue_results :
    (tElements (.eadd 3#4 1#4 2#4) 3 = List.replicate 16 0x40400000#32) ∧
    (tElements (.ecvt 3#4 2#4 4#3) 3 = List.replicate 16 2#32) ∧
    (tElements (.emovImm 3#4 0x0FE0#14) 3 = List.replicate 16 0x3F800000#32) ∧
    (tElements (.erow 3#4) 3 = List.replicate 16 0x40000000#32) ∧
    (nth (tElements (.ecol 3#4) 3) 0 0#32 = 0x41800000#32) ∧
    (nth (tElements (.eldb 3#4 0#12) 3) 1 0#32 = 5#32) ∧
    (tElements (.elds 3#4 0#12) 3 = List.replicate 16 9#32) := by decide +kernel

/-- The same for the words that store, that end a group and the runs, and for a poisoned element. -/
theorem test_meets_epilogue_stores :
    nextIs (exec (.est 1#4 2#2) (tDrain 63 3 id)) (fun t => (t.core? 0).any fun c => decide (c.sh.read 16323 = 0x3F#8) && c.full.contains 127) = true ∧
    nextIs (exec (.esig 1#4) (tDrain 0 0 fun c => { c with launch := { c.launch with redundant := true } })) (fun t => (t.core? 0).any fun c => decide (c.sig ≠ 0#64)) = true ∧
    nextIs (exec .eend (tDrain 2 3 fun c => { c with tc := [(0x4000 + 256 * 3, 9#8)] })) (fun t => (t.core? 0).any fun c => c.mx.any fun m => match m.st with
      | .draining r => decide (r.row = 3 ∧ r.group = 0 ∧ (nth r.e 0 []).headD 0#32 = 9#32) | _ => false) = true ∧
    nextIs (exec .eend (tDrain 63 3 id)) (fun t => (t.core? 0).any fun c => c.mx.any fun m => match m.st with | .draining r => r.finished | _ => false) = true ∧
    nextIs (exec (.estg 1#4 2#2) (tDrain 0 0 (tPaged id))) (fun t => (t.core? 0).any fun c => c.mx.any fun m => match m.st with
      | .draining r => decide (r.word = 1) && r.writes.any fun x => decide (x.line * 128 = tData.phys 0) | _ => false) = true := by decide +kernel

/-- The words of a number, least significant first. -/
def tWords (n r : Nat) : List W64 := (List.range n).map fun i => BitVec.ofNat 64 (r / 2 ^ (64 * i))

/-- Address space 0 maps its first page to 0x100000, by tables from 0x1000000. -/
def tMapped (s : State) : State :=
  let e (at_ v : Nat) (m : Mem) : Mem := m.writeBytes at_ (bytesOfNat 8 v)
  { s with roots := [(0, 0x1000000)], mem := e 0x1030000 0x100007 (e 0x1020000 0x1030001 (e 0x1010000 0x1020001 (e 0x1000000 0x1010001 s.mem))) }

/-- The invocation of queue 0 at a node of the kind given, whose words and those of a record at 1024 its step has read already. -/
def tNode (node record : Nat) (f : Invocation → Invocation) : State :=
  let reads (va : Nat) (ws : List W64) : List (Nat × W64 × W64) := ((List.range ws.length).zip ws).map fun x => (0, BitVec.ofNat 64 (va + 8 * x.1), x.2)
  let v : Invocation := { queue := 0, record := 0, graph := 0, args := 0#64, done := 0, tag := 5#32, interrupt := false, node := 0, nodes := 0, next := 1, steps := 0, status := 0, iters := [], forkDomain := [], forkVids := [], reads := reads 0 (tWords 8 node) ++ reads 1024 (tWords 24 record), st := .atNode }
  { tState id with invs := [(0, f v)] }

/-- A launch of one block of one warp on die 0. -/
def tLaunchRecord : Nat :=
  2 ^ (8 * 0x40) + 2 ^ (8 * 0x41) + 2 ^ (8 * 0x42) + 2 * 2 ^ (8 * 0x43) + 2 ^ (8 * 0x46) + 1000 * 2 ^ (8 * 0x58) + (2 ^ 32 - 1) * 2 ^ (8 * 0x1C)

/-- Of the statement on walkers: a launch, a condition, a loop, a fork and its versions, a wait for a resolve and its limit. -/
theorem test_meets_walker_nodes :
    nextIs (exec (.launchNode 0) (tNode (1 + 2 * 2 ^ 32 + 1024 * 2 ^ 64 + 1 * 2 ^ 128) tLaunchRecord id)) (fun t => decide ((t.invs.find 0).map Invocation.st = some (.waitGrids [0]) ∧
      (t.grids.find 0).map Grid.remaining = some 1 ∧ (t.die 0).disp.spans.length = 1)) = true ∧
    nextIs (exec (.conditionalNode 0) (tNode (2 + 4 * 2 ^ 32 + 1024 * 2 ^ 64 + 1 * 2 ^ 128 + 3 * 2 ^ 160) 0 id)) (fun t => decide ((t.invs.find 0).map Invocation.node = some 3)) = true ∧
    nextIs (exec (.whileNode 0) (tNode (3 + 4 * 2 ^ 32 + 1024 * 2 ^ 64 + 1 * 2 ^ 128 + 3 * 2 ^ 160 + 9 * 2 ^ 192) 1 id)) (fun t =>
      decide ((t.invs.find 0).map Invocation.node = some 1 ∧ (t.invs.find 0).map Invocation.iters = some [(0, 1)])) = true ∧
    nextIs (exec (.forkNode 0) (tNode (4 + 4 * 2 ^ 32 + 1024 * 2 ^ 64 + 1 * 2 ^ 128 + 4 * 2 ^ (8 * 40)) tLaunchRecord id)) (fun t => (t.invs.find 0).any fun v =>
      match v.st with | .waitVids n _ _ _ _ _ => decide (n = 4) | _ => false) = true ∧
    nextIs (exec (.forkVidsTaken 0) (tNode 0 0 fun v => { v with st := .waitVids 2 0 false tLaunch 16 0#64 })) (fun t =>
      decide ((t.invs.find 0).map Invocation.forkVids = some [(0, [1, 2])] ∧ (t.grids.find 1).map Grid.vid = some 2)) = true ∧
    nextIs (exec (.resolveWaitNode 0) (tNode (5 + 4 * 2 ^ 32 + 3 * 2 ^ 128 + 77 * 2 ^ 192) 0 fun v => { v with forkDomain := [(0, 0#32)] })) (fun t =>
      (t.invs.find 0).any fun v => match v.st with | .waitResolve _ _ n => decide (n = 77 ∧ v.next = 3) | _ => false) = true ∧
    nextIs (exec (.resolveWaitNode 0) (tNode 0 0 fun v => { v with st := .waitResolve 0 0 0, forkDomain := [(0, 7#32)] })) (fun t => decide ((t.invs.find 0).map Invocation.node = some 1)) = true ∧
    nextIs (exec (.resolveWaitNode 0) (tNode 0 0 fun v => { v with st := .waitSquash 0 })) (fun t => decide ((t.invs.find 0).map Invocation.node = some 1)) = true ∧
    nextIs (exec (.resolveWaitTimeout 0) (tVersions { tNode 0 0 fun v => { v with st := .waitResolve 0 0 1, forkVids := [(0, [1, 2])] } with now := 1000 })) (fun t =>
      decide (t.resolves.map Resolve.target = [1])) = true := by decide +kernel

/-- The same for the end of an invocation, its limit, a read made again, a record that is taken, and the end of a grid. -/
theorem test_meets_walker_ends :
    nextIs (exec (.endNode 0) (tNode (6 + 2 ^ 32) 0 fun v => { v with interrupt := true })) (fun t => decide (t.invs = [] ∧ t.host.out = [.msix 0 1])) = true ∧
    nextIs (exec (.endNode 0) (tMapped (tNode (6 + 2 ^ 32) 0 fun v => { v with done := 64 }))) (fun t => decide (t.invs = [] ∧ bytesAt t.committedByte 0x100040 8 = 5 * 2 ^ 32)) = true ∧
    nextIs (exec (.nodeStepLimit 0) (tNode 0 0 fun v => { v with steps := 2 ^ 20 })) (fun t => decide (t.invs = [])) = true ∧
    nextIs (exec (.walkerReadRetry 0) (tMapped (tNode 0 0 fun v => { v with st := .waitPage 0 0 false }))) (fun t => decide ((t.invs.find 0).map Invocation.st = some .atNode)) = true ∧
    nextIs (exec (.walkerTakeRecord 0) (let s := tMapped { tNode 0 0 id with invs := [] }
        { s with mem := s.mem.writeBytes 0x100000 (bytesOfNat 64 (0x40 + 7 * 2 ^ (8 * 0x18))), queues := [(0, { s.queue 0 with enable := true, logn := 4, tail := 1#32, base := 0 })] })) (fun t =>
      decide ((t.queue 0).head = 1#32 ∧ (t.invs.find 0).map Invocation.graph = some 0x40 ∧ (t.invs.find 0).map Invocation.tag = some 7#32)) = true ∧
    nextIs (exec (.gridComplete 3) { tNode 0 0 fun v => { v with st := .waitGrids [3] } with grids := [(3, { queue := 0, launch := tLaunch, vid := 0, dies := [0], remaining := 0, cores := [] })] }) (fun t =>
      decide (t.grids = [] ∧ (t.invs.find 0).map Invocation.node = some 1)) = true := by decide +kernel

/-- A span of two gangs of one block that waits on die 0, with its grid. -/
def tSpans (f : Span → Span) (g : Launch → Launch) : State :=
  let q : Queue := { State.reset.queue 0 with quantum := 100, enable := true }
  let s : State := { tState id with queues := [(0, q)], grids := [(5, { queue := 0, launch := g { tLaunch with gangs := 2, blocks := 1 }, vid := 0, dies := [0], remaining := 2, cores := [] })] }
  s.updDie 0 fun d => { d with disp := { d.disp with spans := [f { grid := 5, queue := 0, index := 0, next := 0, since := 0, reserved := [], reported := false }] } }

/-- Of the statement on blocks: the dispatcher. -/
theorem test_meets_dispatch :
    nextIs (exec (.dispatchDecision 0) (tSpans id id)) (fun t => (t.core? 1).any fun c => decide (c.grid = 5 ∧ c.gang = 0 ∧ c.phase = .clearing) && decide ((t.die 0).disp.spans.map Span.next = [1])) = true ∧
    nextIs (exec (.gangAged 0 5) { tSpans id id with now := 2 ^ 22 }) (fun t => decide ((t.die 0).disp.spans.map Span.reserved = [[1]])) = true ∧
    nextIs (exec .coresidentPlacement { tSpans (fun x => { x with reserved := [1], reported := true }) (fun l => { l with coresident := true }) with token := [5] }) (fun t =>
      decide (t.token = [] ∧ (t.die 0).disp.spans = []) && (t.core? 8).any (fun c => decide (c.gang = 0)) && (t.core? 9).any (fun c => decide (c.gang = 1))) = true := by decide +kernel

/-- The same for the life of a block. -/
theorem test_meets_blocks :
    nextIs (exec (.clearingDone 0) (tState fun c => { c with phase := .clearing })) (fun t => (t.core? 0).any fun c => decide (c.phase = .running)) = true ∧
    nextIs (exec (.portArbitration 0 0) (tState id)) (fun t => (t.core? 0).any fun c => decide ((c.portOf 0).run = some (0, .a))) = true ∧
    nextIs (exec (.warpTrapEntry 0 0) (tState (tThread fun t => { t with deferred := [{ code := 0x0B#8, detail := 0#8, resume := false, pc := 4#64, mask := 0#32 }] }))) (fun t =>
      decide ((t.thread 0 0).handler = some .a ∧ (t.thread 0 0).trapPc = 4#64)) = true ∧
    nextIs (exec (.linkwatchTrap 0 0) (tState (tThread fun t => { t with linkEvents := [3#8] }))) (fun t => decide ((t.thread 0 0).handler = some .a ∧ (t.thread 0 0).trapCause.toNat % 2 ^ 16 = 0x350)) = true ∧
    nextIs (exec (.barrierDead 0) (tState fun c => tThread (fun t => { t with slotA := { t.slotA with st := .waiting (.bar 0) }, ended := false }) { c with thr := c.thr.map fun t => { t with ended := true } })) (fun t => (t.core? 0).any fun c => decide (c.phase = .killed)) = true ∧
    nextIs (exec (.budgetExceeded 0) (tState fun c => { c with firstIssue := some 0, launch := { c.launch with budget := 0 } })) (fun t => (t.core? 0).any fun c => decide (c.phase = .killed)) = true ∧
    nextIs (exec (.blockComplete 0) (tState fun c => { c with thr := c.thr.map fun t => { t with ended := true } })) (fun t => decide (t.cores = [])) = true ∧
    nextIs (exec (.blockComplete 0) (tState fun c => { c with thr := c.thr.map (fun t => { t with ended := true }), launch := { c.launch with redundant := true } })) (fun t =>
      (t.core? 0).any fun c => decide (c.phase = .completed)) = true ∧
    nextIs (exec (.blockRelease 0) (tState fun c => { c with phase := .killed })) (fun t => decide (t.cores = [])) = true ∧
    nextIs (exec (.runaheadExit 0 0) (tState (tThread fun t => { t with ahead := some { slot := .a, saved := { t.slotA with st := .waiting (.counter .gl 0) }, v := t.v, s := t.s, p := t.p, loops := [], fpstat := 0#32, gen := t.gen, recent := [], unknown := [], buffer := [], issued := 64 } }))) (fun t =>
      decide ((t.thread 0 0).slotA.st = .waiting (.counter .gl 0) ∧ (t.thread 0 0).aheadDone = [.a])) = true ∧
    nextIs (exec (.apAccessResume 0) (tMapped (tState fun c => c.updThread 16 fun t => { t with slotA := { t.slotA with st := .waiting (.page 0 0) } }))) (fun t =>
      decide ((t.thread 0 16).slotA.st = .live)) = true := by decide +kernel

/-- The same for the beginning of a run-ahead: warp 0 waits at `WAITC.gl 0` for a load whose request has missed. -/
theorem test_meets_run_ahead :
    nextIs (exec (.runaheadEnter 0 0) (let c : Core → Core := fun c => { tThread (fun t => { t with slotA := { t.slotA with st := .waiting (.counter .gl 0) }, inflight := [{ tag := 0, kind := .load, path := .gl, space := .global, mode := .normal, scalar := false, dst := 5, dests := [(.v 5, allLanes)], size := 2, pc := slot1 placedCode, lanes := allLanes, absent := 0#32, reqs := [{ engineReq 0x100000 [] with missed := true, st := .sent }], elems := [], landed := [], extra := [], taint := 0#32, stuck := false, done := false }] }) c with launch := { c.launch with ahead := true } }
        let packet : BitVec 128 := 0#32 ++ 0#32 ++ (encode (.waitcImm 0#6 0#2)).getD 0#32 ++ 0x1DDC0000#32
        { tState c with mem := (tState c).mem.writeBytes placedFrame (bytesOfNat 16 packet.toNat) })) (fun t =>
      ((t.thread 0 0).ahead.any fun h => decide (h.slot = .a ∧ RegRef.v 5 ∈ h.unknown)) && decide ((t.thread 0 0).slotA.st = .live ∧ (t.thread 0 0).slotA.pc = slot1 placedCode + 4#64)) = true := by decide +kernel

/-- A store of warp 0 to a line of die `d`, outstanding. -/
def tStore (d : Nat) : State :=
  tAfter (.st 5#6 6#6 0#14) (tWarp fun (c : Core) => let x : Core := tVecs [(5, 7#32)] c; { x with tlb := { tData with frame := d * 2 ^ 37 + 0x100000 } :: c.tlb })

/-- The messages under way are in the inboxes of their dies. -/
def tArrived (s : State) : State :=
  s.flits.foldl (fun s f => match f.body with | .msg m => s.updDie m.dst fun d => { d with inbox := d.inbox ++ [m] } | _ => s) { s with flits := [] }

/-- A message in the inbox of die 0 from die 1, with a stamp of zeros but for the sender's entry. -/
def tInbox (body : MsgBody) : State :=
  (tState id).updDie 0 fun d => { d with inbox := [{ src := 1, dst := 0, seq := 1, stamp := [0#32, 1#32] ++ List.replicate 10 0#32, body := body }] }

/-- Of the statement on traffic: a write at home, a write to another die, its arrival and its answer, and a read at home. -/
theorem test_meets_requests :
    nextIs (exec (.sliceRequest 0 0 0) (tStore 0)) (fun t => decide (bytesAt t.committedByte 0x100000 4 = 7)) = true ∧
    nextIs (exec (.sliceRequest 0 0 0) (tStore 1)) (fun t => decide (t.flits.length = 1 ∧ t.flits.map Flit.dDie = [1])) = true ∧
    nextIs (exec (.remoteWriteApply 1 0) (tArrived (tAfter (.sliceRequest 0 0 0) (tStore 1)))) (fun t => decide (bytesAt t.committedByte (2 ^ 37 + 0x100000) 4 = 7 ∧ (t.die 1).inbox = [])) = true ∧
    nextIs (exec (.sliceReplyDeliver 0 0 0) (tAfter (.remoteWriteApply 1 0) (tArrived (tAfter (.sliceRequest 0 0 0) (tStore 1))))) (fun t =>
      (t.thread 0 0).inflight.all fun x => x.reqs.all fun r => decide (r.st = .answered)) = true ∧
    nextIs (exec (.sliceRequest 0 0 0) (tAfter (.ld 5#6 6#6 0#14) (tWarp (tPaged id)))) (fun t => (t.thread 0 0).inflight.all fun x => x.reqs.all fun r => decide (r.st ≠ .pending)) = true := by decide +kernel

/-- The same for messages between dies and cores. -/
theorem test_meets_die_messages :
    nextIs (exec (.guestUpdateApply 0 0) ((tInbox (.update 0 1#4 9#1024 0#4 0 0)).updSlice 0 (sliceOf 0) fun sl => { sl with ways := [(16 * Machine.setOf 0, { Way.fresh .guest 0 with present := 15#4 })] })) (fun t =>
      (t.slice 0 (sliceOf 0)).ways.all fun w => decide (w.2.data = 9#1024)) = true ∧
    nextIs (exec (.guestUpdateApply 0 0) (tInbox (.update 0 1#4 9#1024 0#4 0 0))) (fun t => decide ((t.die 0).inbox = [])) = true ∧
    nextIs (exec (.guestInvalidationApply 0 0) ((tInbox (.invalidate 0 [])).updSlice 0 (sliceOf 0) fun sl => { sl with ways := [(16 * Machine.setOf 0, Way.fresh .guest 0)] })) (fun t =>
      decide ((t.slice 0 (sliceOf 0)).ways = [])) = true ∧
    nextIs (exec (.clockNoticeApply 0 0) (tInbox (.notice 5#32))) (fun t => decide (nth (t.die 0).clock 1 0#32 = 5#32 ∧ (t.die 0).inbox = [])) = true ∧
    nextIs (exec (.clockNoticeApply 0 0) (tInbox .askNotice)) (fun t => decide (t.flits.length = 11)) = true ∧
    nextIs (exec (.clockAckRequest 0 0) (tInbox (.ackRequest (List.replicate 12 0#32)))) (fun t => decide (t.flits.map Flit.dDie = [1] ∧ (t.die 0).ackReqs = [])) = true ∧
    nextIs (exec (.clockAckRequest 0 0) (tInbox (.ackRequest (0#32 :: 0#32 :: 4#32 :: List.replicate 9 0#32)))) (fun t => decide (t.flits.map Flit.dDie = [2] ∧ (t.die 0).ackReqs.length = 1)) = true ∧
    nextIs (exec (.clockAck 0 0) (tInbox (.ack 1 [] 0#32))) (fun t => decide ((t.die 0).acked = [(1, [])])) = true ∧
    nextIs (exec (.clockNoticeTimer 0) ((tState id).updDie 0 fun d => { d with sinceNotice := true })) (fun t => decide (t.flits.length = 11 ∧ (t.die 0).sinceNotice = false)) = true ∧
    nextIs (exec (.messageArrive 0) { tState id with flits := [{ dDie := 0, dLeaf := 0, sDie := 0, sLeaf := 0, cls := 0, resp := false, domain := 0, vid := 0, form := 2, cseq := 0#16, key := 0, body := .message [4#32] 0 2 0 0, at_ := .leaf 0 0 }] }) (fun t =>
      (t.core? 0).any fun c => decide ((c.recv 2).messages = [[4#32]] ∧ t.flits = [])) = true := by decide +kernel

/-- A message from die 0 to die `d` at a place. -/
def tFlit (d : Nat) (p : Place) : Flit :=
  { flitOf { src := 0, dst := d, seq := 1, stamp := List.replicate 12 0#32, body := .notice 3#32 } 103 d with at_ := p }

/-- Where a flit is after a hop. -/
def tHop (i : Instr) (f : Flit) : Option Place := match exec i { tState id with flits := [f] } with | .next t => (t.flits[0]?).map Flit.at_ | _ => none

/-- Module 0 of bundle 0, with its flits. -/
def tModule (f : FeltModule → FeltModule) (flits : List Flit) : State :=
  { tState id with felts := [{ Bundle.reset with modules := alterAt Bundle.reset.modules 0 f }], flits := flits }

/-- Of the statement on flits and modules: the hops of a message from leaf 103 to bridge 97 and over bundle 0, and its delivery. -/
theorem test_meets_hops :
    (tHop (.networkFlitHop 0) (tFlit 1 (.leaf 0 103)) = some (.edgeUp 0 14)) ∧
    (tHop (.networkFlitHop 0) (tFlit 1 (.edgeDown 0 2)) = some (.leaf 0 97)) ∧
    ((tHop (.networkFlitHop 0) (tFlit 1 (.midUp 0 9))).isSome = true) ∧
    (tHop (.networkFlitHop 0) (tFlit 1 (.top 0 3)) = some (.midDown 0 3)) ∧
    (tHop (.networkFlitHop 0) (tFlit 1 (.midDown 0 3)) = some (.edgeDown 0 2)) ∧
    (tHop (.networkFlitHop 0) (tFlit 1 (.leaf 0 97)) = some (.felt 0 0 1 0)) ∧
    nextIs (exec (.bridgeDeliver 1 0) { tState id with flits := [tFlit 1 (.leaf 1 96)] }) (fun t => decide (t.flits = [] ∧ (t.die 1).inbox.length = 1)) = true := by decide +kernel

/-- The same for modules. -/
theorem test_meets_modules :
    nextIs (exec (.feltFlitReceive 0 0 true) (tModule id [tFlit 1 (.felt 0 0 1 0)])) (fun t => decide (t.flits.map Flit.at_ = [.leaf 1 96])) = true ∧
    nextIs (exec (.feltFlitReceive 0 0 false) (tModule id [tFlit 1 (.felt 0 0 1 0)])) (fun t => decide ((t.feltModule 0 0).bad = [0] ∧ (t.feltModule 0 0).crcErr = 1)) = true ∧
    nextIs (exec (.feltReplay 0 0) (tModule (fun x => { x with bad := [0] }) [tFlit 1 (.felt 0 0 1 0)])) (fun t => decide ((t.feltModule 0 0).bad = [] ∧ (t.feltModule 0 0).replays = 1 ∧ (t.feltModule 0 0).retrans = [1, 0])) = true ∧
    nextIs (exec (.replayWindowExpiry 0 0) (tModule (fun x => { x with replayWin := 5 }) [])) (fun t => decide ((t.feltModule 0 0).replayWin = 5)) = true ∧
    nextIs (exec (.replayWindowExpiry 0 0) { tModule (fun x => { x with replayWin := 5 }) [] with now := 2 ^ 26 }) (fun t => decide ((t.feltModule 0 0).replayWin = 0)) = true ∧
    nextIs (exec (.feltReplay 0 0) (tModule (fun x => { x with bad := [0], replayWin := 255 }) [tFlit 1 (.felt 0 0 1 0)])) (fun t => decide ((t.feltModule 0 0).overThr = true ∧ (t.die 0).errlog.map LogRecord.code = [0x53#8])) = true ∧
    nextIs (exec (.feltFlitReceive 0 0 true) (tModule id [])) (fun t => decide ((t.feltModule 0 0).taken = FeltModule.reset.taken)) = true ∧
    nextIs (exec (.moduleRetrain 0 0 6) (tModule (fun x => { x with bad := [0], retrans := [16, 0] }) [])) (fun t => decide ((t.feltModule 0 0).retraining = some 6)) = true ∧
    nextIs (exec (.retrainComplete 0 0) (tModule (fun x => { x with retraining := some 4 }) [])) (fun t => decide ((t.feltModule 0 0).retired = 4 ∧ (t.feltModule 0 0).width = 0)) = true ∧
    nextIs (exec (.retrainComplete 0 0) (tModule (fun x => { x with retraining := some 5, rate := 2 }) [])) (fun t => decide ((t.feltModule 0 0).rate = 0 ∧ (t.die 0).errlog.map LogRecord.detail = [2#8])) = true ∧
    nextIs (exec (.retrainComplete 0 0) (tModule (fun x => { x with retraining := some 5 }) [])) (fun t => decide ((t.feltModule 0 0).width = 1)) = true ∧
    nextIs (exec (.retrainComplete 0 0) (tModule (fun x => { x with retraining := some 30 }) [])) (fun t => decide ((t.feltModule 0 0).width = 2)) = true ∧
    nextIs (exec (.retrainComplete 0 0) (tModule (fun x => { x with retraining := some 60 }) [])) (fun t => decide ((t.feltModule 0 0).width = 3 ∧ (t.bundle 0).draining = true)) = true ∧
    nextIs (exec (.bundleDrainComplete 0) { tState id with felts := [{ Bundle.reset with modules := alterAt Bundle.reset.modules 0 fun x => { x with width := 3 }, draining := true }] }) (fun t =>
      decide ((t.bundle 0).inService = [1, 2, 3, 4, 5, 6, 7] ∧ (t.bundle 0).draining = false)) = true := by decide +kernel

/-- A request of package 3 to the line at 0x100000, which holds 7 in every word. -/
def tPeer (op : UaOp) : UaRequest :=
  { prefixOk := true, kind := 0#8, domain := 0, vid := 0, srcPkg := 3, copy := none, addr := 0x100000, op := op }

/-- The state that it is served in. -/
def tServing (i : Instr) : State := { tAfter i (tStore 0) with peers := [(2, 3)] }

/-- An atomic of warp 0 whose request is out at a peer. -/
def tAtPeer (i : Instr) : State :=
  let s := (tAfter i (tWarp (tPaged id))).updThread 0 0 fun t => { t with inflight := t.inflight.map fun x => { x with reqs := x.reqs.map fun r => { r with st := .sent } } }
  let rs := (s.thread 0 0).inflight.flatMap Access.reqs
  { s with ualink := { s.ualink with out := rs.map fun r => { id := 9, port := some 0, slot := 1, addr := 0, what := .atomic r, prefix_ := none, for_ := none } } }

/-- A request of this package to a peer, outstanding on port 0. -/
def tAsked (what : UaWait) : State :=
  let s := tState id
  { s with ualink := { s.ualink with out := [{ id := 9, port := some 0, slot := 1, addr := 0, what := what, prefix_ := none, for_ := none }] } }

/-- The bytes of the last answer to a peer. -/
def tAnswer (t : State) : Option (Nat × Bool × List W8) := t.ualink.answers.getLast?

/-- Of the statement on UALink: requests. -/
theorem test_meets_peer_requests :
    nextIs (exec (.ualinkRequestReceive (tPeer (.read 4))) (tServing (.sliceRequest 0 0 0))) (fun t => decide (tAnswer t = some (3, false, [7#8, 0#8, 0#8, 0#8]))) = true ∧
    nextIs (exec (.ualinkRequestReceive (tPeer (.write [none, some 5#8]))) (tServing (.sliceRequest 0 0 0))) (fun t => decide (tAnswer t = some (3, false, []) ∧ bytesAt t.committedByte 0x100000 2 = 0x507)) = true ∧
    nextIs (exec (.ualinkRequestReceive (tPeer (.atomic .add false 2#64))) (tServing (.sliceRequest 0 0 0))) (fun t =>
      decide (tAnswer t = some (3, false, [7#8, 0#8, 0#8, 0#8]) ∧ bytesAt t.committedByte 0x100000 2 = 9)) = true ∧
    nextIs (exec (.ualinkRequestReceive (tPeer (.cas false 7#64 4#64))) (tServing (.sliceRequest 0 0 0))) (fun t => decide (bytesAt t.committedByte 0x100000 2 = 4)) = true ∧
    nextIs (exec (.ualinkRequestReceive (tPeer (.walk true))) (tServing (.sliceRequest 0 0 0))) (fun t =>
      decide ((tAnswer t).map (fun x => x.2.2) = some [7#8, 0#8, 0#8, 0#8, 7#8, 0#8, 0#8, 0#8, 7#8, 0x40#8, 0#8, 0#8, 7#8, 0#8, 0#8, 0x80#8])) = true ∧
    nextIs (exec (.ualinkRequestReceive { tPeer (.read 4) with addr := 2 ^ 45 }) (tServing (.sliceRequest 0 0 0))) (fun t => decide (tAnswer t = some (3, true, []))) = true := by decide +kernel

/-- The same for a signal, responses and ports. -/
theorem test_meets_peer_responses :
    nextIs (exec (.ualinkBarrierSignal { srcPkg := 3, baddr := 0, bdie := 0, bcore := 0, bcount := 0, copyId := 0 }) (tState id)) (fun t => decide (t.ualink.answers = [(3, false, [])])) = true ∧
    nextIs (exec (.ualinkBarrierSignal { srcPkg := 3, baddr := 0, bdie := 0, bcore := 0, bcount := 1, copyId := 0 }) (tState id)) (fun t => decide (t.ualink.answers = [] ∧ t.ualink.signals.length = 1)) = true ∧
    nextIs (exec (.ualinkResponse 9 false 6#256) (tAsked (.fill (2 ^ 44) 1))) (fun t =>
      (t.slice (homeDie (2 ^ 51)) (sliceOf (2 ^ 51))).ways.any fun w => decide (w.2.present = 2#4 ∧ w.2.data.extractLsb' 256 256 = 6#256)) = true ∧
    nextIs (exec (.ualinkResponse 9 false 0#256) (tAsked (.writeback 0 0 0#256 false))) (fun t => decide (t.ualink.out = [])) = true ∧
    nextIs (exec (.ualinkResponse 9 true 0#256) (tAsked (.writeback 0 0 0#256 false))) (fun t => (t.die 0).errlog.any fun l => decide (l.detail = 5#8)) = true ∧
    nextIs (exec (.ualinkResponse 9 false 5#256) (tAsked (.walk 0 16 (some true) [0]))) (fun t =>
      decide (t.ualink.walks = [{ die := 0, slot := 16, mark := some true, entry := 5#64, companion := 0#64, askers := [0] }])) = true ∧
    nextIs (exec (.ualinkResponse 9 false 5#256) (tAsked (.walk 0 16 (some true) [12 + 77]))) (fun t => decide (t.ualink.walks = [])) = true ∧
    nextIs (exec (.ualinkPortStateChange 4 false) (tAsked (.walk 0 16 none [0]))) (fun t => decide (4 ∉ t.ualink.portsUp ∧ t.ualink.out.length = 1)) = true ∧
    nextIs (exec (.ualinkResponse 9 false 3#256) (tAtPeer (.atom 5#6 6#6 6#6 0#4))) (fun t =>
      (t.thread 0 0).inflight.any fun x => x.reqs.any fun r => decide (r.st = .answered) && r.elems.any fun e => decide (e.got = 3#128)) = true := by decide +kernel

/-- The first page of address space 0 has a leaf entry, and die 0 is as a function makes it. -/
def tLeaf (entry : Nat) (f : Die → Die) : State :=
  let s := tMapped (tState id)
  { s with mem := s.mem.writeBytes 0x1030000 (bytesOfNat 8 entry) }.updDie 0 f

/-- A TLB entry of that page. -/
def tEntry : TlbEntry := tData

/-- An eviction of that page under way. -/
def tEvict (awaits : List Nat) : Evict := { asid := 0, page := 0, slot := 0x1030000, hostFrame := hostBase, hostValid := true, sent := 0, entry := 0x100007#64, awaits := awaits }

/-- A restore of that page under way. -/
def tRestore (written : Bool) : Restore := { asid := 0, page := 0, big := false, slot := 0x1030000, frame := 0x200000, hostFrame := 0, written := written, sent := 0, awaits := [] }

/-- Of the statement on pages: walks, and restores before their copy. -/
theorem test_meets_walks_and_restores :
    nextIs (exec (.pageWalk 0 0 0 0#64 .read) (tLeaf 0x100007 id)) (fun t => decide ((nth (t.die 0).clusterTlb 0 []).length = 1)) = true ∧
    nextIs (exec (.pageWalk 0 0 0 0#64 .read) (tLeaf 0 id)) (fun t => decide ((t.die 0).pageReqs.length = 1)) = true ∧
    nextIs (exec (.pageWalk 0 0 0 0#64 .prefetch) (tLeaf 0 id)) (fun t => decide ((t.die 0).pageReqs.length = 0)) = true ∧
    nextIs (exec (.pageRestoreStart 0 0x200000) (tLeaf 0 fun d => { d with migrQueue := [{ asid := 0, page := 0, frag := none }] })) (fun t =>
      decide ((t.die 0).migrQueue = [] ∧ (t.die 0).restore.map Restore.frame = some 0x200000)) = true ∧
    nextIs (exec (.pageRestoreStart 0 0x200000) (tLeaf 0x100001 fun d => { d with migrQueue := [{ asid := 0, page := 0, frag := none }] })) (fun t => decide ((t.die 0).migrQueue = [])) = true ∧
    nextIs (exec (.pageRestoreStart 0 0) ({ tState id with roots := [] }.updDie 0 fun d => { d with migrQueue := [{ asid := 0, page := 0, frag := none }] })) (fun t =>
      decide ((t.die 0).migrQueue.length = 1)) = true ∧
    nextIs (exec (.pageRestoreComplete 0) (tLeaf 0 fun d => { d with restore := some (tRestore true) })) (fun t => decide ((t.die 0).restore = none)) = true := by decide +kernel

/-- The same for a restore that copies its page: its entry is found, and the engine may act. -/
theorem test_meets_restore_copy :
    (((tLeaf hostBase fun d => { d with restore := some (tRestore false) }).pageEntry 0 0 0).2 = .leaf 0x1030000 (BitVec.ofNat 64 hostBase) false) ∧
    ((tLeaf hostBase fun d => { d with restore := some (tRestore false) }).pageEntry 0 0 0).1.quiet 0 = true := by decide +kernel

/-- The same for evictions and shootdowns. -/
theorem test_meets_evictions :
    nextIs (exec (.evictionCommand 0 0 0#64 0 true) (tLeaf 0x100007 id)) (fun t => decide ((t.die 0).evict = none)) = true ∧
    nextIs (exec (.evictionCommand 0 0 0#64 hostBase true) (let s := tLeaf 0x100007 id
        { s with mem := s.mem.writeBytes 0x1030008 (bytesOfNat 8 (2 ^ 62)), domains := [(0, { s.domain 0 with table := [(1, { VEntry.free with st := .live })] })] })) (fun t => decide ((t.die 0).busy = [(0, 0)])) = true ∧
    nextIs (exec (.evictionCommand 0 0 0#64 hostBase true) (let s := tLeaf 0x100007 id
        { s with mem := s.mem.writeBytes 0x1030008 (bytesOfNat 8 5) })) (fun t =>
      decide ((t.die 0).evict = some (tEvict [0, 2]) ∧ bytesAt t.committedByte 0x1030000 8 = 0x100027 ∧ bytesAt t.committedByte 0x1030008 8 = 0)) = true ∧
    nextIs (exec (.evictionCommit 0) (tLeaf 0x100037 fun d => { d with evict := some (tEvict []) })) (fun t => decide ((t.die 0).evict = none ∧ bytesAt t.committedByte 0x1030000 8 = 0x100017)) = true ∧
    nextIs (exec (.evictionCommit 0) (tLeaf 0x100027 fun d => { d with evict := some (tEvict []) })) (fun t =>
      decide ((t.die 0).evict = none ∧ bytesAt t.committedByte 0x1030000 8 = hostBase + 6)) = true ∧
    nextIs (exec (.shootdownRequest 0 0 0#64) (tLeaf 0x100007 fun d => { d with clusterTlb := [[tEntry]] })) (fun t => decide ((t.die 0).clusterTlb.flatten = [] ∧ (t.die 0).shoot.length = 1)) = true ∧
    nextIs (exec (.shootdownAck 0 0) (tLeaf 0x100007 fun d => { d with shoot := [{ asid := 0, page := 0, waits := [], fromDie := some 0 }], evict := some (tEvict [0, 2]) })) (fun t =>
      decide ((t.die 0).shoot = [] ∧ (t.die 0).evict = some (tEvict [2]))) = true ∧
    nextIs (exec (.shootdownAck 14 0) (tLeaf 0 fun d => { d with evict := some (tEvict [0, 14]) })) (fun t => decide ((t.die 0).evict = some (tEvict [0]))) = true := by decide +kernel

/-- The same for scrubs and self-refresh. -/
theorem test_meets_scrubs :
    nextIs (exec (.patrolScrubVisit 0 3 .clean) (tState id)) (fun t => decide (t.poison = [])) = true ∧
    nextIs (exec (.patrolScrubVisit 0 3 .corrected) (tState id)) (fun t => decide ((t.die 0).errlog.map LogRecord.cls = [1#2])) = true ∧
    nextIs (exec (.patrolScrubVisit 0 3 .uncorrectable) (tState id)) (fun t => decide (t.poison = [3] ∧ (t.die 0).errlog.map LogRecord.cls = [0#2])) = true ∧
    nextIs (exec (.scrubWithClear 0 3) { tState id with poison := [3] }) (fun t => decide (t.poison = [])) = true ∧
    nextIs (exec (.scrubWithClear 0 0xBE000000) { tState id with poison := [0xBE000000] }) (fun t => decide (t.poison = [])) = true ∧
    nextIs (exec (.regfileScrub 0 0 2 5 .corrected) (tState id)) (fun t => decide ((t.die 0).errlog.map LogRecord.cls = [1#2])) = true ∧
    nextIs (exec (.regfileScrub 0 0 2 5 .uncorrectable) (tState id)) (fun t => decide ((nth (t.thread 0 0).v 2 VReg.zero).poison = 32#32)) = true ∧
    nextIs (exec (.regfileScrub 0 0 66 0 .uncorrectable) (tState id)) (fun t => decide ((nth (t.thread 0 0).s 2 SReg.zero).poison = true)) = true ∧
    nextIs (exec (.selfRefreshEntry 3) (tState id)) (fun t => decide ((t.die 1).inRefresh = [3])) = true ∧
    nextIs (exec (.selfRefreshExit 3) ((tState id).updDie 1 fun d => { d with inRefresh := [3] })) (fun t => decide ((t.die 1).inRefresh = [])) = true := by decide +kernel

/-- A fault of core 0 of die 0. -/
def tFault : HaltFault := { code := 0x40#8, detail := 5#8, pc := 0#64, addr := 64#64, die := 0, core := 0#8, agent := 0#8, section_ := 0#8, block := 0xFF#8, cycle := 0 }

/-- A halt of the grid of the block on core 0. -/
def tHalt : Halt := { grid := 0, first := tFault, second := none, more := 0, arrived := [], written := [], offsets := [], recorded := [], lengths := [] }

/-- A state with that grid, its halt as a function makes it, and reports. -/
def tHalting (reports : List (Nat × HaltFault)) (f : Halt → Option Halt) (g : Core → Core) : State :=
  { tState g with reports := reports, grids := [(0, { queue := 0, launch := tLaunch, vid := 0, dies := [0], remaining := 1, cores := [0] })], halts := match f tHalt with | some h => [(0, h)] | none => [] }

/-- Of the statement on the device: reports and halts. -/
theorem test_meets_halts :
    nextIs (exec (.gridHaltReport 0) { tState id with reports := [(0, tFault)] }) (fun t => decide (t.reports = [])) = true ∧
    nextIs (exec (.gridHaltReport 0) (tHalting [(0, tFault)] (fun _ => none) id)) (fun t => decide ((t.halts.find 0).map Halt.first = some tFault ∧ (t.die 0).halts = 1)) = true ∧
    nextIs (exec (.gridHaltReport 0) (tHalting [(0, tFault)] some id)) (fun t => decide ((t.halts.find 0).map Halt.second = some (some tFault))) = true ∧
    nextIs (exec (.haltArrive 0 0) (tHalting [] some id)) (fun t => decide ((t.halts.find 0).map Halt.arrived = some [0] ∧ (t.core? 0).map Core.phase = some .halted)) = true ∧
    nextIs (exec (.dumpHeaderWrite 0 0) ((tHalting [] (fun h => some { h with arrived := [0] }) id).updDie 0 fun d => { d with dumpBase := 0x200000, dumpSize := 4096 })) (fun t =>
      decide ((t.halts.find 0).map Halt.written = some [0] ∧ bytesAt t.committedByte 0x200000 4 = 0x504D5544)) = true ∧
    nextIs (exec (.haltComplete 0) (tHalting [] (fun h => some { h with written := [0] }) id)) (fun t => decide (t.halts = [] ∧ t.grids = [] ∧ (t.die 0).errlog.map LogRecord.code = [0x40#8])) = true := by decide +kernel

/-- The same for the record of a block. -/
theorem test_meets_dump_record :
    nextIs (exec (.dumpRecordWrite 0) (tHalting [] (fun h => some { h with arrived := [0], offsets := [(0, [(0, 128)])] }) fun c => { c with phase := .halted })) (fun t =>
      decide ((t.halts.find 0).map Halt.recorded = some [0] ∧ t.mem = (tState id).mem)) = true := by decide +kernel

/-- An error record of die 0. -/
def tError (code : W8) (cls : BitVec 2) : ErrRecord := { code := code, detail := 0#8, cls := cls, fn := 0#6, core := 0#8, agent := 0#8, vid := 0#8, domain := 0#6, addr := 0#64 }

/-- The same for error reports and the management paths. -/
theorem test_meets_reports :
    nextIs (exec (.errorReport 0 (tError 0x53#8 3#2) .other) (tState id)) (fun t => decide (t.stopped = true ∧ (t.die 0).errlog.length = 1)) = true ∧
    nextIs (exec (.errorReport 0 (tError 0x36#8 2#2) .other) (tState id)) (fun t => decide ((t.core? 0).map Core.phase = some .killed)) = true ∧
    nextIs (exec (.errorReport 0 (tError 0x53#8 1#2) (.hbm 64)) (tState id)) (fun t => decide (t.poison = [] ∧ (t.die 0).corrErr = 1)) = true ∧
    nextIs (exec (.errorReport 0 (tError 0x53#8 2#2) (.hbm 64)) (tState id)) (fun t => decide (t.poison = [2])) = true ∧
    nextIs (exec (.errorReport 0 (tError 0x53#8 2#2) (.shared 64)) (tState id)) (fun t => decide ((t.core? 0).map Core.shPoison = some [2])) = true ∧
    nextIs (exec (.errorReport 0 (tError 0x53#8 2#2) (.slice 0)) ((tState id).updSlice 0 (sliceOf 0) fun sl => { sl with ways := [(0, { Way.fresh .home 0 with present := 15#4 })] })) (fun t =>
      (t.slice 0 (sliceOf 0)).ways.all fun w => decide (w.2.poison = 1#4)) = true ∧
    nextIs (exec (.mctpWarmResetRequest .i3c) (tState id)) (fun t => decide (t.host.out.head? = some (.mctpAnswer .i3c))) = true ∧
    nextIs (exec (.spdmRequest .i3c .measurements) { tState id with keysErased := true }) (fun t => decide (t.host.out = [.spdm .i3c .measurements none])) = true ∧
    nextIs (exec (.spdmRequest .i3c .measurements) (tState id)) (fun t => decide (t.host.out.length = 1 ∧ t.free = 1)) = true := by decide +kernel

/-- An image that both keys have signed, of the oldest version that is accepted. -/
def tImage (path : MgmtPath) : FirmwareImage := { path := path, ecdsaOk := true, lmsOk := true, version := Config.fusedMinimumVersion, digest := 0, peers := [(2, 3)] }

/-- That image is accepted. -/
theorem test_meets_image : imageOk (tImage .i3c) = true := by simp [imageOk, tImage]

/-- The same for resets, boot and power. -/
theorem test_meets_resets :
    nextIs (exec .coldReset (tState id)) (fun t => decide (t.boot = .step 1 ∧ t.cores = [])) = true ∧
    nextIs (exec .warmReset { tState id with boot := .ready }) (fun t => decide (t.boot = .ready ∧ t.cores = [] ∧ t.host.out = [.ready])) = true ∧
    nextIs (exec .warmReset (({ tState id with boot := .ready } : State).updSlice 0 (sliceOf 0) fun sl => { sl with ways := [(0, { Way.fresh .home 0 with present := 15#4, dirty := 1#4, data := 9#1024 })] })) (fun t =>
      decide (t.memSector 0 = (9#256, false))) = true ∧
    nextIs (exec .bootImageTimeout State.reset) (fun t => decide (t.boot = .step 2)) = true ∧
    nextIs (exec (.firmwareImageOffer { tImage .i3c with ecdsaOk := false }) State.reset) (fun t => decide (t.boot = .recovery)) = true ∧
    nextIs (exec (.functionLevelReset 0) { tHalting [] some id with boot := .ready }) (fun t => decide (t.frozenDoorbells = [0])) = true ∧
    nextIs (exec (.functionLevelReset 0) { tHalting [] (fun _ => none) id with boot := .ready }) (fun t => decide (t.grids = [] ∧ (t.core? 0).map Core.phase = some .killed)) = true ∧
    nextIs (exec (.powerLimitThrottle 12000) (tState id)) (fun t => decide (t.clockSteps = 1)) = true ∧
    nextIs (exec (.powerClockRestore 10000 10) { tState id with clockSteps := 2 }) (fun t => decide (t.clockSteps = 1)) = true := by decide +kernel

/-! ## More witnesses: the clauses for other premises -/

/-- Of the statement on barrier instructions that complete: fresh lanes, and the last warp of a phase. -/
theorem test_meets_barrier_ends :
    acts (tWarp id) (.bararr 15#6) (fun c _ => decide (c.a ∉ (c.core.bar 15).dropped ∧ c.pass &&& nth (c.core.bar 15).lanes c.a 0#32 = 0#32)) = true ∧
    acts (tWarp id) (.bardrop 15#6) (fun c _ => decide (c.a ∉ (c.core.bar 15).dropped ∧ c.pass &&& nth (c.core.bar 15).lanes c.a 0#32 = 0#32)) = true ∧
    acts (tWarp (tBar fun b => { b with arrived := [1] })) (.bar 15#6) (fun c _ =>
      let old := c.core.bar 15
      decide (old.arrived.length + 1 = old.expected ∧ c.a < c.core.launch.warps ∧ c.a ∉ old.arrived ∧ c.a ∉ old.leaving ∧ c.core.live c.a ≠ 0#32 ∧
        c.core.live c.a &&& ~~~(nth old.lanes c.a 0#32 ||| c.pass) = 0#32 ∧ (∀ x ∈ c.th.inflight, x.performed = true)) &&
        (List.range c.core.launch.warps).all fun w => decide (w = c.a ∨ w ∈ old.arrived ∨ nth old.lanes w 0#32 = 0#32)) = true ∧
    nextIs (exec (.bar 15#6) (tWarp (tBar fun b => { b with arrived := [1] }))) (fun t => (t.core? 0).any fun c => decide ((c.bar 15).phase = 1#32)) = true := by decide +kernel

/-- Of the statement on global accesses: a fatal address and an absent page in a squashed block, which only stops. -/
theorem test_meets_squashed_accesses :
    (let s (x : Nat) : State := { tWarp (fun c => { tRegs 0 [(2, BitVec.ofNat 64 x)] c with squashed := true }) with roots := [(0, 0x200000)] }
     acts (s (2 ^ 56)) (.ld 1#6 2#6 0#14) (fun c s => tFinds (.ld 1#6 2#6 0#14) c s fun x => x.2.fatal.isSome && c.core.squashed) &&
     acts (s 0) (.ld 1#6 2#6 0#14) (fun c s => tFinds (.ld 1#6 2#6 0#14) c s fun x => decide (x.2.fatal = none ∧ x.2.pending = [] ∧ x.2.absent ≠ []) && c.core.squashed) &&
     nextIs (exec (.ld 1#6 2#6 0#14) (s 0)) (fun t => (t.core? 0).any fun c => decide (c.phase = .stopping))) = true := by decide +kernel

/-- Of the statement on local stores: a `TBARRIVE` while an earlier access of its agent is not performed yet. -/
theorem test_meets_early_arrival :
    (let s := tAfter (.tbarrive 2#6) (tAgain (tAfter (.st 1#6 2#6 0#14) (tWarp (tPaged id))))
     ((s.core? 0).any fun c => ((c.thread 0).inflight[1]?).any fun x => decide (x.kind = .tbarrive) && !(c.thread 0).performedBelow x.tag && (c.thread 0).localTurn 1 x) &&
     nextIs (exec (.storeAcknowledge 0 0 1) s) (fun t => (t.core? 0).any fun c => decide ((c.thread 0).inflight.length = 2) && (c.thread 0).inflight.all fun x => !x.done)) = true := by
  decide +kernel

/-- Of the statement on appends: the entry maps no block, and the list is empty or holds one; the entry maps one. -/
theorem test_meets_appends :
    (let s (n entry : Nat) : State := let s := { tWarp (tPaged id) with pools := [(0, { tPool with fltail := BitVec.ofNat 32 n })] }
       { s with mem := (s.mem.writeBytes 0x4000 [9#8]).writeBytes 0x100000 [BitVec.ofNat 8 entry] }
     let sees (s : State) (p : Ctx → State → TlbEntry → Bool) : Bool := acts s (.kvappend 1#6 2#6 3#6) fun c s =>
       let x := s.translateLanes c.k c.core.launch.asid .write ((lanesOf c.pass).map fun l => { lane := l, va := 0#64, nib := 0, op := .kv 0#32 })
       decide (x.2.fatal = none ∧ x.2.pending = [] ∧ x.2.absent = []) && (x.2.entry 0).any fun e => p c x.1 e
     sees (s 0 0) (fun c s e => s.viewReady 0 (e.phys 0) && s.popReady 0 && decide ((s.popFor c.core 0).2 = 0 ∧ bytesAt (s.seenByte 0 0 false) (e.phys 0) 3 = 0 ∧
       (c.my s).handler = none ∧ c.core.squashed = false ∧ (nth c.core.frags 0 Fragment.free).valid = false)) &&
     sees (s 1 0) (fun c s e => s.viewReady 0 (e.phys 0) && s.popReady 0 && decide ((s.popFor c.core 0).2 = 9 ∧ (s.slice 0 (sliceOf (e.phys 0))).ways = [] ∧ c.core.vid = 0)) &&
     sees (s 1 7) (fun _ s e => decide (bytesAt (s.seenByte 0 0 false) (e.phys 0) 3 = 7))) = true := by decide +kernel

/-- Of the statement on the host: a write of BAR4 to a line of another die, a descriptor from a function that does not own its queue, and a reset. -/
theorem test_meets_more_host :
    nextIs (exec (.hostBar4Access (2 ^ 37 + 0x100003) true [7#8] 0) (tHosted Queue.reset)) (fun t => decide (t.flits.map Flit.sLeaf = [101] ∧ t.flits.map Flit.dDie = [1])) = true ∧
    nextIs (exec (.queueDescriptorWrite ⟨1, 3⟩ tDesc) (tHosted Queue.reset)) (fun t => decide ((t.queue 3).enable = false)) = true ∧
    nextIs (exec (.queueDescriptorWrite ⟨1, 3⟩ tDesc) (tHosted { Queue.reset with vf := 1 })) (fun t => decide ((t.queue 3).enable = true)) = true ∧
    nextIs (exec (.rstreqWrite 0x57525354#32) (tHosted Queue.reset)) (fun t => decide (t.boot = .ready ∧ t.queues = [] ∧ t.host.out = [.ready])) = true := by decide +kernel

/-- Of the statement on lines: `PGREQ` waits for a table that lies at a peer. -/
theorem test_meets_waiting_request :
    (let s : State := { tUnit 16 [] 7#4 id with roots := [(0, 2 ^ 51 + 0x2000)], peers := [(0, 3)], ualink := { State.reset.ualink with portsUp := [0] } }
     acts s (.pgreq 6#6 7#6) (fun c s => decide (c.actLanes ≠ [] ∧ (s.translate c.k c.core.launch.asid (c.s 6#6 + c.s 7#6) .prefetch).2 = .pending)) &&
     nextIs (exec (.pgreq 6#6 7#6) s) (fun t => decide (((t.thread 0 16).slot .a).st = .waiting .structural ∧ (t.die 0).pageReqs = []))) = true := by decide +kernel

/-- Of the statement on sweeps and pairs: a pass that has a line left; a pair of a broke version, and one that differs again. -/
theorem test_meets_more_pairs :
    nextIs (exec (.sweepPassEnd 0 0) (tSweep 1024 true)) (fun t => (t.slice 0 0).sweep.isSome) = true ∧
    nextIs (exec (.pairCompare 0 0) (let s := tPair .completed 1 1#64
        { s with domains := [(0, { State.reset.domain 0 with table := [(1, { VEntry.free with st := .broke })] })] })) (fun t =>
      decide (t.resolves = []) && ((t.die 0).pairs.find 0).any fun p => decide (p.st = 2)) = true ∧
    nextIs (exec (.pairCompare 0 0) ((tPair .completed 1 1#64).updDie 0 fun d => { d with pairs := d.pairs.map fun x => (x.1, { x.2 with rerun := true }) })) (fun t =>
      decide (t.resolves.length = 1 ∧ (t.core? 0).map Core.phase = some .killed ∧ (t.core? 1).map Core.phase = some .killed)) = true := by decide +kernel

/-- Of the statement on egress: a reservation that waits behind another's, and a push and a publication of a broke version whose reservations are void. -/
theorem test_meets_more_egress :
    (let s := tRing [] 0#32 .live (tUnit 16 [] 7#4 fun c => tRegs 16 [(6, 4#64)] (tThread (fun t => { t with slotA := { t.slotA with st := .waiting (.egrsv 5 false 4 0) } }) { c with vid := 1 }))
     acts s (.egrsv 5#6 6#6) (fun c s => c.core.reservesFirst c.a s.now && decide ((s.domain 0).egress.configured = true)) &&
     nextIs (exec (.egrsv 5#6 6#6) s) (fun t => decide (((t.thread 0 16).slot .a).st = .waiting (.egrsv 5 false 4 0) ∧ (t.domain 0).egress.r = 0#32))) = true ∧
    nextIs (exec (.egpush 6#6 7#6) (tRing [] 4#32 .broke (tUnit 16 [] 7#4 fun c => { c with vid := 1 }))) (fun t =>
      decide (((t.thread 0 16).slot .a).st = .live ∧ (t.thread 0 16).handler = none) && (t.core? 0).any fun c => decide (c.phase = .running)) = true ∧
    nextIs (exec (.egpub 6#6) (tRing [] 4#32 .broke (tWarp fun c => { c with vid := 1 }))) (fun t =>
      decide (((t.thread 0 0).slot .a).st = .live ∧ (t.thread 0 0).handler = none) && (t.core? 0).any fun c => decide (c.phase = .running)) = true := by decide +kernel

/-- Of the statement on walkers: a fork and a wait of a domain that another package coordinates. -/
theorem test_meets_member_nodes :
    (let member (n : Nat) (s : State) : State :=
       { s with domains := [(0, { s.domain 0 with members := 4#32, resolveCount := BitVec.ofNat 32 n })], peers := [(2, 3)], ualink := { s.ualink with ident := 5 } }
     decide ((member 0 (tNode 0 0 id)).coordinator 0 = some 3) &&
     nextIs (exec (.forkNode 0) (member 0 (tNode (4 + 4 * 2 ^ 32 + 1024 * 2 ^ 64 + 1 * 2 ^ 128 + 4 * 2 ^ (8 * 40)) tLaunchRecord fun v => { v with forkDomain := [(0, 1#32)] }))) (fun t => (t.invs.find 0).any fun v =>
       decide (v.forkDomain = []) && match v.st with | .waitVids n _ _ _ _ _ => decide (n = 4) | _ => false) &&
     nextIs (exec (.resolveWaitNode 0) (member 7 (tNode 0 0 fun v => { v with st := .waitResolve 0 0 0, forkDomain := [(0, 3#32)] }))) (fun t => decide ((t.invs.find 0).map Invocation.node = some 1)) &&
     nextIs (exec (.resolveWaitNode 0) (member 7 (tNode 0 0 fun v => { v with st := .waitResolve 0 0 0, forkDomain := [(0, 9#32)] }))) (fun t => decide ((t.invs.find 0).map Invocation.node = some 0))) = true := by
  decide +kernel

/-- Of the statement on blocks: the grid with the token in a decision, and a block that has used its budget and ends. -/
theorem test_meets_more_blocks :
    nextIs (exec (.dispatchDecision 0) { tSpans (fun x => { x with reserved := [1], reported := true }) (fun l => { l with coresident := true }) with token := [5] }) (fun t =>
      decide (t.token = [] ∧ (t.die 0).disp.spans = [] ∧ (t.die 0).disp.next = t.fabric + 1) && (t.core? 8).any (fun c => decide (c.gang = 0))) = true ∧
    nextIs (exec (.dispatchDecision 0) ((tSpans id id).updDie 0 fun d => { d with disp := { d.disp with next := 1 } })) (fun t => decide ((t.die 0).disp.spans.length = 1) && (t.core? 1).isNone) = true ∧
    nextIs (exec (.blockComplete 0) (tState fun c => { c with firstIssue := some 0, thr := c.thr.map (fun t => { t with ended := true }), launch := { c.launch with budget := 0 } })) (fun t =>
      (t.core? 0).any fun c => decide (c.phase = .killed)) = true ∧
    (let s := (tState id).takeTrap 0 0 .b { code := 0x11#8, detail := 0#8, resume := false, pc := 64#64, mask := 1#32 }
     let f (n : W32) : State := (tState fun c => { c with launch := { c.launch with trapEntry := n } }).takeTrap 0 0 .b { code := 0x11#8, detail := 0#8, resume := false, pc := 64#64, mask := 1#32 }
     decide ((s.thread 0 0).handler = some .b) && decide (((f 0xFFFFFFFF#32).thread 0 0).parked = true ∧ ((f 0xFFFFFFFF#32).thread 0 0).trapCause = 0x40011#32)) = true := by decide +kernel

/-- Of the statement on traffic: a store while a fill of its line is on its way, an atomic that is answered at home, and an answer whose updates have yet to come. -/
theorem test_meets_more_requests :
    (let t (c : Core) : Core := { c with tlb := { tData with frame := 2 ^ 37 + 0x100000 } :: c.tlb }
     let s := tAfter (.st 5#6 6#6 0#14) (tAgain (tAfter (.ld 5#6 6#6 0#14) (tWarp t)))
     let u := s.updThread 0 0 fun t => { t with inflight := t.inflight.take 1 |>.map (fun x => { x with reqs := x.reqs.map fun r => { r with st := .replied 1 (List.replicate 12 0#32) } }) |>.append (t.inflight.drop 1) }
     decide (u.fillInFlight 0 ((2 ^ 37 + 0x100000) / 128) ≠ []) && decide (s.fillInFlight 0 ((2 ^ 37 + 0x100000) / 128) = []) &&
     nextIs (exec (.sliceRequest 0 0 1) u) (fun t => decide (t.flits = [])) &&
     nextIs (exec (.sliceReplyDeliver 0 0 0) (u.updThread 0 0 fun t => { t with inflight := t.inflight.map fun x => { x with reqs := x.reqs.map fun r => { r with st := .replied 1 (0#32 :: 0#32 :: 9#32 :: List.replicate 9 0#32) } } })) (fun t =>
       (t.thread 0 0).inflight.all fun x => x.reqs.all fun r => decide (r.st ≠ .answered))) = true ∧
    nextIs (exec (.sliceRequest 0 0 0) (tAfter (.atom 1#6 2#6 3#6 0#4) (tWarp fun c => tPaged (tVecs [(1, 5#32)]) c))) (fun t =>
      (t.thread 0 0).inflight.all (fun x => x.reqs.all fun r => decide (r.st ≠ .pending)) && decide (bytesAt t.committedByte 0x100000 4 = 160)) = true := by decide +kernel

/-- Of the statement on epilogue words: `ESIG` in a block of a pair. -/
theorem test_meets_signature :
    nextIs (exec (.esig 1#4) ((tDrain 0 0 fun c => { c with launch := { c.launch with redundant := true }, pairIdx := 0 }).updDie 0 fun d =>
      { d with pairs := [(0, { grid := 0, gang := 0, block := 0, span := 0, sigP := 0#64, sigT := 0#64, vidP := 1, vidT := 2, domain := 0, coreP := 0, coreT := 1, nP := 0, nT := 0, st := 1, rerun := false })] }))
      (fun t => (t.core? 0).any fun c => ((t.die 0).pairs.find 0).any fun p => decide (c.sig ≠ 0#64 ∧ p.sigP = c.sig ∧ p.sigT = 0#64)) = true := by decide +kernel

/-- Of the statement on UALink: the last response that a drain waits for, ports that change, a copy's write, a signal of a second copy, and an access's write that fails. -/
theorem test_meets_more_peers :
    (let ask (f : Ualink → Ualink) : State := let s := tAsked (.writeback 0 0 0#256 false); { s with ualink := f s.ualink }
     nextIs (exec (.ualinkResponse 9 false 0#256) (ask fun u => { u with draining := some [1, 2] })) (fun t => decide (t.ualink.portsUp = [1, 2] ∧ t.ualink.draining = none)) &&
     nextIs (exec (.ualinkPortStateChange 4 true) (ask id)) (fun t => decide (t.ualink.draining.isSome = true ∧ t.ualink.out.length = 1)) &&
     nextIs (exec (.ualinkPortStateChange 4 true) (tState id)) (fun t => decide (4 ∈ t.ualink.portsUp ∧ t.ualink.draining = none)) &&
     nextIs (exec (.ualinkRequestReceive { tPeer (.write [none, some 5#8]) with copy := some (0, 0, 1) }) (tServing (.sliceRequest 0 0 0))) (fun t =>
       decide (t.ualink.performedBy (3, 0, 0, 1) = 1 ∧ tAnswer t = some (3, false, []))) &&
     nextIs (exec (.ualinkBarrierSignal { srcPkg := 3, baddr := 0, bdie := 0, bcore := 0, bcount := 2, copyId := 1 }) (let s := tState id
         { s with ualink := { s.ualink with performed := [((3, 0, 0, 1), 66)], last := [((3, 0, 0, 1), 64)] } })) (fun t =>
       decide (t.ualink.answers = [(3, false, [])] ∧ t.ualink.lastSignal (3, 0, 0, 1) = 2))) = true := by decide +kernel

/-- Of the statement on pages: a 2 MiB page that is absent, a command while another is under way, and a shootdown asked of a peer. -/
theorem test_meets_more_pages :
    (let big := { tLeaf 0 id with mem := (tLeaf 0 id).mem.writeBytes 0x1020000 (bytesOfNat 8 0x200027) }
     decide ((big.walk 0 0 0#64 .read).2 = .absent true) && nextIs (exec (.pageWalk 0 0 0 0#64 .read) big) (fun t => decide ((t.die 0).pageReqs.length = 1))) = true ∧
    nextIs (exec (.evictionCommand 0 0 0#64 hostBase true) (tLeaf 0x100007 fun d => { d with evict := some (tEvict []) })) (fun t => decide ((t.die 0).evictQueue.length = 1 ∧ (t.die 0).evict = some (tEvict []))) = true ∧
    nextIs (exec (.shootdownRequest 14 0 0#64) (tLeaf 0x100007 id)) (fun t => decide (t.ualink.shoots = [(2, 0, 0)])) = true := by decide +kernel

/-- Of the statement on the device: a report of a code that is no error's, of a slice's marks of holders, a certificate, a warm reset in a boot that has stopped, and what
an accepted image asks of its table. -/
theorem test_meets_more_device :
    nextIs (exec (.errorReport 0 (tError 0x12#8 2#2) .other) (tState id)) (fun t => decide ((t.die 0).errlog = [])) = true ∧
    nextIs (exec (.errorReport 0 (tError 0x53#8 2#2) (.holders 0)) (tState id)) (fun t => decide ((t.die 0).errlog.map LogRecord.cls = [1#2])) = true ∧
    nextIs (exec (.spdmRequest .i3c .certificate) (tState id)) (fun t => t.host.out.any fun o => match o with | .spdm _ _ (some a) => decide (a.measurements = []) | _ => false) = true ∧
    nextIs (exec (.spdmRequest .i3c .measurements) { tState id with image := some (tImage .i3c) }) (fun t => t.host.out.any fun o => match o with
      | .spdm _ _ (some a) => decide (a.measurements.length = 4) | _ => false) = true ∧
    nextIs (exec .warmReset { State.reset with stopped := true }) (fun t => decide (t.stopped = false ∧ t.boot = .step 1)) = true ∧
    ((tImage .i3c).peers.map Prod.fst).Nodup := by decide +kernel
end

section
/-! PROOFS. What firmware writes (O46): the rules of the state's tables that these writes change, one equation or frame per write, and the
statement assembled from them. -/

namespace Sys2Proof.Machine

/-! ## Lists and maps -/

theorem nth_replicate_zero (n k : Nat) : nth (List.replicate n 0) k 0 = 0 := by
  by_cases h : k < n <;> simp [nth, h]

theorem nth_set_zero (l : List Nat) (k j : Nat) : nth (l.set k 0) j 0 = if j = k then 0 else nth l j 0 := by
  by_cases h : j = k
  · subst h
    by_cases hl : j < l.length <;> simp [nth, hl]
  · simp [nth, List.getElem?_set_ne (Ne.symm h), h]

theorem KMap.find_mapValues {α : Type} (m : KMap α) (g : α → α) (k : Nat) : KMap.find (m.map fun x => (x.1, g x.2)) k = (m.find k).map g := by
  induction m with
  | nil => rfl
  | cons x rest ih =>
    obtain ⟨j, v⟩ := x
    by_cases h : j = k <;> simp [KMap.find, h, ih]

/-! ## Dies, domains, bundles and modules after a change -/

theorem State.firmware_of_ready {s : State} (hr : s.hostReady = true) (f : State → State) : s.firmware f = f s := by
  simp [State.firmware, hr]

theorem State.firmware_id (s : State) : (s.firmware fun s => s) = s := by
  simp [State.firmware]

theorem State.die_updDie_same (s : State) {d : Nat} (f : Die → Die) (hd : d < 12) : (s.updDie d f).die d = f (s.die d) := by
  have h : d < Config.dies := hd
  simp [State.updDie, h, State.die]

theorem State.die_updDie_other (s : State) {d j : Nat} (f : Die → Die) (h : j ≠ d) : (s.updDie d f).die j = s.die j := by
  unfold State.updDie
  split
  · exact nth_alterPad_other _ _ _ _ _ h
  · rfl

theorem State.updDie_frame (s : State) (d : Nat) (f : Die → Die) : ({ s.updDie d f with dies := s.dies } : State) = s := by
  unfold State.updDie
  split <;> rfl

theorem State.sameDie_updDie (s : State) {d : Nat} (f loose : Die → Die) (hd : d < 12) (hl : loose (f (s.die d)) = loose (s.die d)) :
    s.sameDie (s.updDie d f) d loose :=
  ⟨s.updDie_frame d f, fun _ h => s.die_updDie_other f h, by rw [s.die_updDie_same f hd, hl]⟩

@[simp] theorem State.domain_updDomain_same (s : State) (n : Nat) (f : Domain → Domain) : (s.updDomain n f).domain n = f (s.domain n) := by
  simp [State.updDomain, State.domain]

theorem State.domain_updDomain_other (s : State) {n j : Nat} (f : Domain → Domain) (h : j ≠ n) : (s.updDomain n f).domain j = s.domain j := by
  simp [State.updDomain, State.domain, KMap.find_put_other _ _ _ _ h]

theorem State.sameDomain_updDomain (s : State) (n : Nat) (f loose : Domain → Domain) (hl : loose (f (s.domain n)) = loose (s.domain n)) :
    s.sameDomain (s.updDomain n f) n loose :=
  ⟨rfl, fun _ h => s.domain_updDomain_other f h, by rw [s.domain_updDomain_same, hl]⟩

theorem State.updBundle_frame (s : State) (b : Nat) (f : Bundle → Bundle) : ({ s.updBundle b f with felts := s.felts } : State) = s := by
  unfold State.updBundle
  split <;> rfl

theorem State.bundle_updBundle_same (s : State) {b : Nat} (f : Bundle → Bundle) (hb : b < 16) : (s.updBundle b f).bundle b = f (s.bundle b) := by
  simp [State.updBundle, hb, State.bundle]

theorem State.bundle_updBundle_other (s : State) {b j : Nat} (f : Bundle → Bundle) (h : j ≠ b) : (s.updBundle b f).bundle j = s.bundle j := by
  unfold State.updBundle
  split
  · exact nth_alterPad_other _ _ _ _ _ h
  · rfl

@[simp] theorem State.updBundle_dies (s : State) (b : Nat) (f : Bundle → Bundle) : (s.updBundle b f).dies = s.dies := by
  unfold State.updBundle
  split <;> rfl

/-- A change of a module changes no bundle's drain and mapping (R420). -/
theorem State.bundle_updModule_drain (s : State) (b m j : Nat) (f : FeltModule → FeltModule) :
    ((s.updModule b m f).bundle j).draining = (s.bundle j).draining ∧ ((s.updModule b m f).bundle j).inService = (s.bundle j).inService := by
  unfold State.updModule
  by_cases hj : j = b
  · subst hj
    by_cases hb : j < 16
    · rw [s.bundle_updBundle_same _ hb]
      split <;> exact ⟨rfl, rfl⟩
    · simp [State.updBundle, hb]
  · simp [s.bundle_updBundle_other _ hj]

theorem State.feltModule_updModule_same (s : State) {b m : Nat} (f : FeltModule → FeltModule) (hb : b < 16) (hm : m < 8) :
    (s.updModule b m f).feltModule b m = f (s.feltModule b m) := by
  simp [State.updModule, State.feltModule, s.bundle_updBundle_same _ hb, hm]

theorem State.feltModule_updModule_other (s : State) {b m j n : Nat} (f : FeltModule → FeltModule) (h : ¬ (j = b ∧ n = m)) :
    (s.updModule b m f).feltModule j n = s.feltModule j n := by
  unfold State.updModule State.feltModule
  by_cases hj : j = b
  · subst hj
    by_cases hb : j < 16
    · rw [s.bundle_updBundle_same _ hb]
      split
      · exact nth_alterPad_other _ _ _ _ _ fun hn => h ⟨rfl, hn⟩
      · rfl
    · simp [State.updBundle, hb]
  · rw [s.bundle_updBundle_other _ hj]

theorem State.sameModule_updModule (s : State) (b m : Nat) (f : FeltModule → FeltModule) (x : FeltModule) :
    s.sameModule (s.updModule b m f) b m fun _ => x :=
  ⟨s.updBundle_frame b _, fun _ _ h => s.feltModule_updModule_other f h, rfl, fun j => s.bundle_updModule_drain b m j f⟩

/-! ## Policy, the egress descriptor and the places of a die (R251, R353, R354, R372, R396) -/

theorem and_low17 (v : W32) : v &&& 0x1FFFF#32 = BitVec.ofNat 32 (v.toNat % 2 ^ 17) := by
  apply BitVec.eq_of_toNat_eq
  have h : v.toNat &&& 0x1FFFF = v.toNat % 2 ^ 17 := Nat.and_two_pow_sub_one_eq_mod v.toNat 17
  rw [BitVec.toNat_and, BitVec.toNat_ofNat, BitVec.toNat_ofNat, show 0x1FFFF % 2 ^ 32 = 0x1FFFF from rfl, h]
  omega

section Ready
variable {s : State} (hr : s.hostReady = true)
include hr

theorem exec_shareTableWrite {n : Nat} (d : Nat) (v : W32) (hn : n < 64) :
    exec (.shareTableWrite d n v) s = .next (s.updDisp d fun x => { x with share := x.share.put n (BitVec.ofNat 32 (v.toNat % 2 ^ 17)) }) := by
  change execShareTableWrite d n v s = _
  simp [execShareTableWrite, State.firmware_of_ready hr, hn, and_low17]

theorem shareTableWrite_effect {d n : Nat} (v : W32) (hd : d < 12) (hn : n < 64) :
    ∃ t, exec (.shareTableWrite d n v) s = .next t ∧ (t.die d).disp.share.find n = some (BitVec.ofNat 32 (v.toNat % 2 ^ 17)) ∧
      (∀ j, j ≠ n → (t.die d).disp.share.find j = (s.die d).disp.share.find j) ∧
      s.sameDie t d fun x => { x with disp := { x.disp with share := [] } } := by
  refine ⟨_, exec_shareTableWrite hr d v hn, ?_, fun j hj => ?_, s.sameDie_updDie _ _ hd rfl⟩
  · rw [State.updDisp, s.die_updDie_same _ hd]
    exact KMap.find_put_same _ _ _
  · rw [State.updDisp, s.die_updDie_same _ hd]
    exact KMap.find_put_other _ _ _ _ hj

theorem ageThresholdWrite_effect {d v : Nat} (hd : d < 12) (hv : 2 ^ 12 ≤ v ∧ v ≤ 2 ^ 32) :
    ∃ t, exec (.ageThresholdWrite d v) s = .next t ∧ (t.die d).disp.age = v ∧ s.sameDie t d fun x => { x with disp := { x.disp with age := 0 } } := by
  have he : exec (.ageThresholdWrite d v) s = .next (s.updDisp d fun x => { x with age := v }) := by
    change execAgeThresholdWrite d v s = _
    simp only [execAgeThresholdWrite, State.firmware_of_ready hr]
    rw [if_neg (by omega)]
  exact ⟨_, he, by rw [State.updDisp, s.die_updDie_same _ hd], s.sameDie_updDie _ _ hd rfl⟩

theorem ageThresholdWrite_ignored {v : Nat} (d : Nat) (hv : ¬ (2 ^ 12 ≤ v ∧ v ≤ 2 ^ 32)) : exec (.ageThresholdWrite d v) s = .next s := by
  change execAgeThresholdWrite d v s = _
  simp only [execAgeThresholdWrite, State.firmware_of_ready hr]
  rw [if_pos (by omega)]

theorem logbaseWrite_effect {d v : Nat} (hd : d < 12) (hv : 2 ^ 23 ∣ v) (hp : ∀ x ∈ s.pools, x.2.home = d → x.2.enable = false) :
    ∃ t, exec (.logbaseWrite d v) s = .next t ∧ (t.die d).logBase = v ∧ s.sameDie t d fun x => { x with logBase := 0 } := by
  have hnone : (s.pools.any fun x => x.2.enable && decide (x.2.home = d)) = false := by
    simp only [List.any_eq_false, Bool.and_eq_true, decide_eq_true_eq, not_and]
    intro x hx he hh
    simp [hp x hx hh] at he
  have he : exec (.logbaseWrite d v) s = .next (s.updDie d fun x => { x with logBase := v }) := by
    change execLogbaseWrite d v s = _
    have hmod := Nat.mod_eq_zero_of_dvd hv
    simp only [execLogbaseWrite, State.firmware_of_ready hr, hnone, hmod]
    simp
  exact ⟨_, he, by rw [s.die_updDie_same _ hd], s.sameDie_updDie _ _ hd rfl⟩

theorem logbaseWrite_ignored {v : Nat} (d : Nat) (hv : ¬ 2 ^ 23 ∣ v) : exec (.logbaseWrite d v) s = .next s := by
  change execLogbaseWrite d v s = _
  simp only [execLogbaseWrite, State.firmware_of_ready hr]
  rw [if_pos (Or.inl fun h => hv (Nat.dvd_of_mod_eq_zero h))]

theorem exec_dumpRegionWrite (d b n : Nat) :
    exec (.dumpRegionWrite d b n) s = .next (if dumpFits d b n then s.updDie d fun x => { x with dumpBase := b, dumpSize := n } else s) := by
  change execDumpRegionWrite d b n s = _
  simp [execDumpRegionWrite, State.firmware_of_ready hr]

theorem pcctlFreeze_effect {d : Nat} (b : Bool) (hd : d < 12) :
    ∃ t, exec (.pcctlFreeze d b) s = .next t ∧ (t.die d).freeze = b ∧ s.sameDie t d fun x => { x with freeze := false } := by
  have he : exec (.pcctlFreeze d b) s = .next (s.updDie d fun x => { x with freeze := b }) := by
    change execPcctlFreeze d b s = _
    simp [execPcctlFreeze, State.firmware_of_ready hr]
  exact ⟨_, he, by rw [s.die_updDie_same _ hd], s.sameDie_updDie _ _ hd rfl⟩

end Ready

theorem openHbm_iff (x : Nat) : openHbm x = true ↔ x / 2 ^ 37 < 12 ∧ x % 2 ^ 37 < 0x17C0000000 := by
  have hdies : Config.dies = 12 := rfl
  have hbytes : hbmBytes = 0x1800000000 := rfl
  simp only [openHbm, inSpill, isHbm, Bool.and_eq_true, Bool.not_eq_true', Bool.and_eq_false_iff, decide_eq_true_eq, decide_eq_false_iff_not]
  omega

/-- A dump region that the die takes: the alignments of R396, and all of it open HBM of the die. A region below 4 GiB that begins in open HBM and
ends in open HBM lies in one die. -/
theorem dumpFits_iff {d : Nat} (b n : Nat) (hd : d < 12) : dumpFits d b n = true ↔
    4096 ∣ b ∧ 4096 ∣ n ∧ n ≤ 2 ^ 32 ∧ b / 2 ^ 37 = d ∧
      (n ≠ 0 → b % 2 ^ 37 < 0x17C0000000 ∧ (b + (n - 1)) / 2 ^ 37 = d ∧ (b + (n - 1)) % 2 ^ 37 < 0x17C0000000) := by
  simp only [dumpFits, Bool.and_eq_true, Bool.or_eq_true, decide_eq_true_eq, openHbm_iff, and_assoc, Nat.dvd_iff_mod_eq_zero]
  refine and_congr_right fun _ => and_congr_right fun _ => and_congr_right fun hn => and_congr_right fun hb => ?_
  omega

theorem dumpRegionWrite_effect {s : State} (hr : s.hostReady = true) {d b n : Nat} (hd : d < 12) (hf : dumpFits d b n = true) :
    ∃ t, exec (.dumpRegionWrite d b n) s = .next t ∧ (t.die d).dumpBase = b ∧ (t.die d).dumpSize = n ∧
      s.sameDie t d fun x => { x with dumpBase := 0, dumpSize := 0 } := by
  refine ⟨_, (exec_dumpRegionWrite hr d b n).trans (by rw [if_pos hf]), ?_, ?_, s.sameDie_updDie _ _ hd rfl⟩ <;>
    rw [s.die_updDie_same _ hd]

end Sys2Proof.Machine
end

section
/-! PROOFS. What firmware writes into a domain, a KV pool and the tables of the package (R251, R305, R306, R369, R370, R378). -/

namespace Sys2Proof.Machine

/-! ## Fields of descriptors -/

theorem poolField_eq_fieldAt (desc : BitVec 512) (at_ len : Nat) : poolField desc at_ len = fieldAt desc at_ len := by
  simp [poolField, fieldAt, Nat.shiftRight_eq_div_pow]

theorem Egress.configured_iff (e : Egress) : e.configured = true ↔ 8 ≤ e.logn ∧ e.logn ≤ 20 := by
  simp [Egress.configured]

/-- The ring of a domain with the fields that a descriptor gives, before its cursors start again (R251). -/
def Egress.described (e : Egress) (desc : BitVec 256) : Egress :=
  { e with
    hcur := desc.extractLsb' 192 32
    shadow := (desc.extractLsb' 96 64).toNat / 64 * 64
    logn := (desc.extractLsb' 64 5).toNat
    base := (desc.extractLsb' 0 64).toNat / 4096 * 4096 }

/-- The ring of a domain after a write of its descriptor: its cursors start at LCUR where the write configures it (R251). -/
def Egress.rewritten (e : Egress) (desc : BitVec 256) : Egress :=
  if (e.described desc).configured && !e.configured then
    { e.described desc with r := e.lcur, p := e.lcur, l := e.lcur, reservations := [] }
  else e.described desc

theorem Egress.described_fields (e : Egress) (desc : BitVec 256) :
    (e.described desc).hcur.toNat = fieldAt desc 24 4 ∧ (e.described desc).shadow = fieldAt desc 12 8 - fieldAt desc 12 8 % 64 ∧
      (e.described desc).logn = fieldAt desc 8 1 % 32 ∧ (e.described desc).base = fieldAt desc 0 8 - fieldAt desc 0 8 % 4096 := by
  refine ⟨rfl, ?_, ?_, ?_⟩
  · change fieldAt desc 12 8 / 64 * 64 = _
    omega
  · simp only [Egress.described, fieldAt, BitVec.extractLsb'_toNat]
    omega
  · change fieldAt desc 0 8 / 4096 * 4096 = _
    omega

/-- A write of a descriptor keeps LCUR, and the cursors start at it exactly where the write configures the ring. -/
theorem Egress.rewritten_fields (e : Egress) (desc : BitVec 256) :
    let f := e.rewritten desc
    f.hcur.toNat = fieldAt desc 24 4 ∧ f.shadow = fieldAt desc 12 8 - fieldAt desc 12 8 % 64 ∧ f.logn = fieldAt desc 8 1 % 32 ∧
      f.base = fieldAt desc 0 8 - fieldAt desc 0 8 % 4096 ∧ f.lcur = e.lcur ∧
      (if (8 ≤ f.logn ∧ f.logn ≤ 20) ∧ ¬ (8 ≤ e.logn ∧ e.logn ≤ 20) then f.r = e.lcur ∧ f.p = e.lcur ∧ f.l = e.lcur ∧ f.reservations = []
        else f.r = e.r ∧ f.p = e.p ∧ f.l = e.l ∧ f.reservations = e.reservations) := by
  obtain ⟨hh, hs, hn, hb⟩ := e.described_fields desc
  by_cases hc : (e.described desc).configured = true ∧ ¬ e.configured = true
  · have he : e.rewritten desc = { e.described desc with r := e.lcur, p := e.lcur, l := e.lcur, reservations := [] } := by
      simp [Egress.rewritten, hc]
    rw [he]
    rw [Egress.configured_iff, Egress.configured_iff] at hc
    exact ⟨hh, hs, hn, hb, rfl, by rw [if_pos hc]; exact ⟨rfl, rfl, rfl, rfl⟩⟩
  · have he : e.rewritten desc = e.described desc := by
      simp_all [Egress.rewritten]
    rw [he]
    rw [Egress.configured_iff, Egress.configured_iff] at hc
    exact ⟨hh, hs, hn, hb, rfl, by rw [if_neg hc]; exact ⟨rfl, rfl, rfl, rfl⟩⟩

/-! ## The limits of a KV pool (R370) -/

/-- The limits under which die `d` takes a descriptor that enables a pool (R362, R370; log 108). -/
def kvAllowed (d : Nat) (desc : BitVec 512) : Prop :=
  fieldAt desc 0x2F 1 = 0 ∧ fieldAt desc 0x38 8 = 0 ∧ fieldAt desc 0x2D 1 = d ∧ d < 12 ∧ 128 ∣ fieldAt desc 0 8 ∧ 4096 ∣ fieldAt desc 8 8 ∧
    4 ∣ fieldAt desc 0x10 8 ∧ 128 ∣ fieldAt desc 0x18 4 ∧ 4 ∣ fieldAt desc 0x1C 4 ∧ fieldAt desc 0x1C 4 * 2 ^ fieldAt desc 0x2C 1 ≤ fieldAt desc 0x18 4 ∧
    2 ≤ fieldAt desc 0x20 4 ∧ fieldAt desc 0x20 4 ≤ 2 ^ 24 ∧ 1 ≤ fieldAt desc 0x24 4 ∧ 1 ≤ fieldAt desc 0x28 4 ∧ fieldAt desc 0x2C 1 ≤ 16

/-- The model refuses a descriptor that enables a pool where its own tests fail. -/
def kvRefused (d : Nat) (desc : BitVec 512) : Bool :=
  (poolOf desc).enable && (!(poolOf desc).fits || !poolReservedOk desc || decide ((poolOf desc).home ≠ d))

theorem poolOf_enable (desc : BitVec 512) : (poolOf desc).enable = decide (fieldAt desc 0x2E 1 % 2 = 1) := by
  simp [poolOf, poolField_eq_fieldAt]

theorem kvAllowed_iff (d : Nat) (desc : BitVec 512) :
    kvAllowed d desc ↔ (poolOf desc).fits = true ∧ poolReservedOk desc = true ∧ (poolOf desc).home = d := by
  have hdies : Config.dies = 12 := rfl
  simp only [kvAllowed, Pool.fits, poolReservedOk, poolOf, poolField_eq_fieldAt, Bool.and_eq_true, decide_eq_true_eq, Nat.dvd_iff_mod_eq_zero, hdies, and_assoc]
  constructor
  · rintro ⟨h2f, h38, rfl, hd, hbase, htbase, hflbase, hbbytes, hpstride, hfit, hlo, hhi, hseq, hmax, hshift⟩
    simp only [*, and_self]
  · rintro ⟨hbase, htbase, hflbase, hbbytes, hpstride, hfit, hlo, hhi, hseq, hmax, hshift, hd, h2f, h38, rfl⟩
    simp only [*, and_self]

theorem kvRefused_iff (d : Nat) (desc : BitVec 512) : kvRefused d desc = true ↔ fieldAt desc 0x2E 1 % 2 = 1 ∧ ¬ kvAllowed d desc := by
  rw [kvAllowed_iff, kvRefused, poolOf_enable]
  simp only [Bool.and_eq_true, Bool.or_eq_true, Bool.not_eq_true', decide_eq_true_eq, ← Bool.not_eq_true]
  tauto

/-- The descriptor of pool `n` becomes what the descriptor says, with these ends of the free list, and nothing else changes. -/
def State.kvWritten (s t : State) (n : Nat) (desc : BitVec 512) (fh ft : W32) : Prop :=
  ({ t with pools := s.pools } : State) = s ∧ (∀ j, j ≠ n → t.pools.find j = s.pools.find j) ∧
    t.pools.find n = some
      { base := fieldAt desc 0 8, tbase := fieldAt desc 8 8, flbase := fieldAt desc 0x10 8, bbytes := fieldAt desc 0x18 4
        pstride := fieldAt desc 0x1C 4, nblk := fieldAt desc 0x20 4, nseq := fieldAt desc 0x24 4, maxblk := fieldAt desc 0x28 4
        bshift := fieldAt desc 0x2C 1, home := fieldAt desc 0x2D 1, enable := decide (fieldAt desc 0x2E 1 % 2 = 1), flhead := fh, fltail := ft }

theorem State.kvWritten_put (s : State) (n : Nat) (desc : BitVec 512) (fh ft : W32) :
    s.kvWritten { s with pools := s.pools.put n { poolOf desc with flhead := fh, fltail := ft } } n desc fh ft :=
  ⟨rfl, fun _ h => KMap.find_put_other _ _ _ _ h, by simp only [KMap.find_put_same, poolOf, poolField_eq_fieldAt]⟩

theorem State.kvWritten_putFresh (s : State) (n : Nat) (desc : BitVec 512) : s.kvWritten { s with pools := s.pools.put n (poolOf desc) } n desc
    (BitVec.ofNat 32 (fieldAt desc 0x30 4)) (BitVec.ofNat 32 (fieldAt desc 0x34 4)) :=
  ⟨rfl, fun _ h => KMap.find_put_other _ _ _ _ h, by simp only [KMap.find_put_same, poolOf, poolField_eq_fieldAt]⟩

/-! ## The writes -/

theorem Domain.freeVids_of_free (d : Domain) (h : ∀ x ∈ d.table, x.1 ≠ 0 → x.2.st = .free) : d.freeVids = 255 := by
  have hnone : (d.vids fun v e => decide (v ≠ 0) && decide (e.st ≠ .free)) = [] := by
    simpa [Domain.vids, List.filter_eq_nil_iff] using fun a e hx => h (a, e) hx
  rw [Domain.freeVids, hnone]
  rfl

/-- A domain whose acceptance counter `r` firmware has written (R378). -/
def Domain.writeAccept (r : AcceptReg) (v : Nat) (d : Domain) : Domain :=
  match r with
  | .accept => { d with accept := BitVec.ofNat 16 v }
  | .proposed => { d with proposed := v % 2 ^ 48 }
  | .accepted => { d with accepted := v % 2 ^ 48 }

section Ready
variable {s : State} (hr : s.hostReady = true)
include hr

theorem exec_egressDescriptorWrite {n : Nat} (desc : BitVec 256) (hn : n < 64) :
    exec (.egressDescriptorWrite n desc) s = .next (s.updDomain n fun d => { d with egress := d.egress.rewritten desc }) := by
  change execEgressDescriptorWrite n desc s = _
  simp only [execEgressDescriptorWrite, State.firmware_of_ready hr]
  exact congrArg Host.Outcome.next (if_neg (by omega))

theorem egressDescriptorWrite_effect {n : Nat} (desc : BitVec 256) (hn : n < 64) :
    ∃ t, exec (.egressDescriptorWrite n desc) s = .next t ∧ s.sameDomain t n (fun d => { d with egress := Egress.reset }) ∧
      (t.domain n).egress = (s.domain n).egress.rewritten desc :=
  ⟨_, exec_egressDescriptorWrite hr desc hn, s.sameDomain_updDomain _ _ _ rfl, by rw [s.domain_updDomain_same]⟩

theorem kvPool_ignored_of_refused {d n : Nat} {desc : BitVec 512} (h : kvRefused d desc = true) :
    exec (.kvPoolDescriptorWrite d n desc) s = .next s := by
  change execKvPoolDescriptorWrite d n desc s = _
  simp only [kvRefused] at h
  simp only [execKvPoolDescriptorWrite, State.firmware_of_ready hr, h]
  split <;> simp

theorem kvPool_ignored_of_enabled {d n : Nat} {desc : BitVec 512} {p : Pool} (hp : s.pools.find n = some p) (he : p.enable = true)
    (hn : (poolOf desc).enable = true) : exec (.kvPoolDescriptorWrite d n desc) s = .next s := by
  change execKvPoolDescriptorWrite d n desc s = _
  simp [execKvPoolDescriptorWrite, State.firmware_of_ready hr, hp, he, hn]

theorem exec_kvPool_fresh {d n : Nat} {desc : BitVec 512} (hn : n < 256) (h : kvRefused d desc = false)
    (hp : ∀ p, s.pools.find n = some p → p.enable = false) :
    exec (.kvPoolDescriptorWrite d n desc) s = .next { s with pools := s.pools.put n (poolOf desc) } := by
  change execKvPoolDescriptorWrite d n desc s = _
  simp only [kvRefused] at h
  simp only [execKvPoolDescriptorWrite, State.firmware_of_ready hr, h]
  split
  next => simp [hn]
  next p hf => simp [hp p hf]

theorem exec_kvPool_disabled {d n : Nat} {desc : BitVec 512} {p : Pool} (hp : s.pools.find n = some p) (he : p.enable = true)
    (hn : (poolOf desc).enable = false) :
    exec (.kvPoolDescriptorWrite d n desc) s =
      .next { s with pools := s.pools.put n { poolOf desc with flhead := p.flhead, fltail := p.fltail } } := by
  change execKvPoolDescriptorWrite d n desc s = _
  simp [execKvPoolDescriptorWrite, State.firmware_of_ready hr, hp, he, hn]

/-- What a write of a KV pool's descriptor does (R370): a pool that is not enabled takes every descriptor that does not enable it and every one
within the limits; an enabled pool takes only a descriptor that disables it, and keeps the ends of its free list. -/
theorem kvPoolDescriptorWrite_effect {n : Nat} (d : Nat) (desc : BitVec 512) (hn : n < 256) :
    let held : Prop := ∃ p, s.pools.find n = some p ∧ p.enable = true
    let enable : Prop := fieldAt desc 0x2E 1 % 2 = 1
    (¬ held → (enable ∧ kvAllowed d desc ∨ fieldAt desc 0x2E 1 % 2 = 0) → ∃ t, exec (.kvPoolDescriptorWrite d n desc) s = .next t ∧
      s.kvWritten t n desc (BitVec.ofNat 32 (fieldAt desc 0x30 4)) (BitVec.ofNat 32 (fieldAt desc 0x34 4))) ∧
    (∀ p, s.pools.find n = some p → p.enable = true → fieldAt desc 0x2E 1 % 2 = 0 →
      ∃ t, exec (.kvPoolDescriptorWrite d n desc) s = .next t ∧ s.kvWritten t n desc p.flhead p.fltail) ∧
    (held → enable → exec (.kvPoolDescriptorWrite d n desc) s = .next s) ∧
    (enable → ¬ kvAllowed d desc → exec (.kvPoolDescriptorWrite d n desc) s = .next s) := by
  refine ⟨fun hheld hok => ?_, fun p hp he h0 => ?_, fun ⟨p, hp, he⟩ h1 => ?_, fun h1 hbad => ?_⟩
  · have hok' : kvRefused d desc = false := by
      rw [← Bool.not_eq_true, kvRefused_iff]
      rintro ⟨h1, hbad⟩
      exact hok.elim (fun h => hbad h.2) (by omega)
    have hfree : ∀ p, s.pools.find n = some p → p.enable = false := fun p hp => by simpa using fun he => hheld ⟨p, hp, he⟩
    exact ⟨_, exec_kvPool_fresh hr hn hok' hfree, s.kvWritten_putFresh n desc⟩
  · exact ⟨_, exec_kvPool_disabled hr hp he (by simp [poolOf_enable, h0]), s.kvWritten_put n desc _ _⟩
  · exact kvPool_ignored_of_enabled hr hp he (by simp [poolOf_enable, h1])
  · exact kvPool_ignored_of_refused hr ((kvRefused_iff d desc).2 ⟨h1, hbad⟩)

theorem membersWrite_effect {n : Nat} (m : W32) (hn : n < 64) (h : ∀ x ∈ (s.domain n).table, x.1 ≠ 0 → x.2.st = .free) :
    ∃ t, exec (.membersWrite n m) s = .next t ∧ (t.domain n).members = m ∧ s.sameDomain t n fun d => { d with members := 0#32 } := by
  have he : exec (.membersWrite n m) s = .next (s.updDomain n fun d => { d with members := m }) := by
    change execMembersWrite n m s = _
    simp [execMembersWrite, State.firmware_of_ready hr, hn, Domain.freeVids_of_free _ h]
  exact ⟨_, he, by rw [s.domain_updDomain_same], s.sameDomain_updDomain _ _ _ rfl⟩

theorem exec_acceptCounterWrite {n : Nat} (r : AcceptReg) (v : Nat) (hn : n < 64) :
    exec (.acceptCounterWrite n r v) s = .next (s.updDomain n (Domain.writeAccept r v)) := by
  change execAcceptCounterWrite n r v s = _
  simp only [execAcceptCounterWrite, State.firmware_of_ready hr]
  exact congrArg Host.Outcome.next (if_neg (by omega))

theorem acceptCounterWrite_effect {n : Nat} (v : Nat) (hn : n < 64) :
    (∃ t, exec (.acceptCounterWrite n .accept v) s = .next t ∧ (t.domain n).accept = BitVec.ofNat 16 v ∧
      s.sameDomain t n fun d => { d with accept := 0#16 }) ∧
    (∃ t, exec (.acceptCounterWrite n .proposed v) s = .next t ∧ (t.domain n).proposed = v % 2 ^ 48 ∧
      s.sameDomain t n fun d => { d with proposed := 0 }) ∧
    (∃ t, exec (.acceptCounterWrite n .accepted v) s = .next t ∧ (t.domain n).accepted = v % 2 ^ 48 ∧
      s.sameDomain t n fun d => { d with accepted := 0 }) := by
  refine ⟨⟨_, exec_acceptCounterWrite hr _ v hn, ?_, s.sameDomain_updDomain _ _ _ rfl⟩,
    ⟨_, exec_acceptCounterWrite hr _ v hn, ?_, s.sameDomain_updDomain _ _ _ rfl⟩,
    ⟨_, exec_acceptCounterWrite hr _ v hn, ?_, s.sameDomain_updDomain _ _ _ rfl⟩⟩ <;>
    rw [s.domain_updDomain_same] <;> rfl

theorem exec_peerSlotTableWrite {slot : Nat} (package : Nat) (valid : Bool) (h : slot < 32) :
    exec (.peerSlotTableWrite slot package valid) s = .next { s with peers := if valid then s.peers.put slot package else s.peers.del slot } := by
  change execPeerSlotTableWrite slot package valid s = _
  simp [execPeerSlotTableWrite, State.firmware_of_ready hr, h]

theorem peerSlotTableWrite_effect {slot : Nat} (package : Nat) (h : slot < 32) :
    (∃ t, exec (.peerSlotTableWrite slot package true) s = .next t ∧ t.peers.find slot = some package ∧
      (∀ j, j ≠ slot → t.peers.find j = s.peers.find j) ∧ ({ t with peers := s.peers } : State) = s) ∧
    (∃ t, exec (.peerSlotTableWrite slot package false) s = .next t ∧ t.peers.find slot = none ∧
      (∀ j, j ≠ slot → t.peers.find j = s.peers.find j) ∧ ({ t with peers := s.peers } : State) = s) :=
  ⟨⟨_, exec_peerSlotTableWrite hr _ _ h, KMap.find_put_same _ _ _, fun _ hj => KMap.find_put_other _ _ _ _ hj, rfl⟩,
    ⟨_, exec_peerSlotTableWrite hr _ _ h, KMap.find_del_same _ _, fun _ hj => KMap.find_del_other _ _ _ hj, rfl⟩⟩

theorem exec_addressSpaceTableWrite {asid : Nat} (root : Nat) (valid : Bool) (h : asid < 256) :
    exec (.addressSpaceTableWrite asid root valid) s = .next { s with roots := if valid then s.roots.put asid root else s.roots.del asid } := by
  change execAddressSpaceTableWrite asid root valid s = _
  simp [execAddressSpaceTableWrite, State.firmware_of_ready hr, h]

theorem addressSpaceTableWrite_effect {asid : Nat} (root : Nat) (h : asid < 256) :
    (∃ t, exec (.addressSpaceTableWrite asid root true) s = .next t ∧ t.roots.find asid = some root ∧
      (∀ j, j ≠ asid → t.roots.find j = s.roots.find j) ∧ ({ t with roots := s.roots } : State) = s) ∧
    (∃ t, exec (.addressSpaceTableWrite asid root false) s = .next t ∧ t.roots.find asid = none ∧
      (∀ j, j ≠ asid → t.roots.find j = s.roots.find j) ∧ ({ t with roots := s.roots } : State) = s) :=
  ⟨⟨_, exec_addressSpaceTableWrite hr _ _ h, KMap.find_put_same _ _ _, fun _ hj => KMap.find_put_other _ _ _ _ hj, rfl⟩,
    ⟨_, exec_addressSpaceTableWrite hr _ _ h, KMap.find_del_same _ _, fun _ hj => KMap.find_del_other _ _ _ hj, rfl⟩⟩

end Ready

end Sys2Proof.Machine
end

section
/-! PROOFS. What firmware writes to links and counters (R77, R379 to R381, R418, R420), and the statement on firmware's writes. -/

namespace Sys2Proof.Machine

/-! ## Counters: where each stands (R379) -/

/-- The counters of a core as its die holds them. -/
def Die.coreCounters (x : Die) (k : Nat) : CoreCounters := (x.cores.find k).getD CoreCounters.zero

/-- A slice of a die. -/
def Die.slice (x : Die) (k : Nat) : Slice := (x.slices.find k).getD Slice.empty

/-- The counters that a die holds itself; those of felt modules stand in their bundles. -/
def Die.counter (x : Die) (c : CounterId) : Nat :=
  match c with
  | .crcErr _ _ | .replayWin _ _ => 0
  | .issued k => (x.coreCounters k).issued
  | .apIssued k => (x.coreCounters k).apIssued
  | .fragSplit k => (x.coreCounters k).fragSplit
  | .fragFull k => (x.coreCounters k).fragFull
  | .wTrap k => (x.coreCounters k).wTrap
  | .raEnter k => (x.coreCounters k).raEnter
  | .raInstr k => (x.coreCounters k).raInstr
  | .raPref k => (x.coreCounters k).raPref
  | .hit k cls => nth (x.slice k).hits cls 0
  | .miss k cls => nth (x.slice k).misses cls 0
  | .sel k cls => nth (x.slice k).sel cls 0
  | .pageReq => x.pageReqCount
  | .kills => x.kills
  | .halts => x.halts
  | .spillx => x.spillx
  | .corrErr => x.corrErr

theorem State.counterOf_die (s : State) (e : Nat) {c : CounterId} (h : bundleOf c = none) : s.counterOf e c = (s.die e).counter c := by
  cases c with
  | crcErr b m | replayWin b m => cases h
  | _ => rfl

theorem State.counterOf_module (s t : State) (e : Nat) {c : CounterId} {b : Nat} (h : bundleOf c = some b)
    (hm : ∀ m, t.feltModule b m = s.feltModule b m) : t.counterOf e c = s.counterOf e c := by
  cases c with
  | crcErr b' m | replayWin b' m =>
    cases h
    simp only [State.counterOf, hm]
  | _ => cases h

theorem State.feltModule_updDie (s : State) (d : Nat) (f : Die → Die) (b m : Nat) : (s.updDie d f).feltModule b m = s.feltModule b m := by
  simp [State.feltModule, State.bundle]

/-- A change of one die changes no module's counter and no other die's. -/
theorem State.counterOf_updDie (s : State) {d : Nat} (f : Die → Die) (hd : d < 12) (e : Nat) (c : CounterId) :
    (s.updDie d f).counterOf e c = if e = d ∧ bundleOf c = none then (f (s.die d)).counter c else s.counterOf e c := by
  cases hb : bundleOf c with
  | none =>
    rw [State.counterOf_die _ _ hb, State.counterOf_die _ _ hb]
    by_cases he : e = d
    · subst he
      simp [s.die_updDie_same f hd]
    · simp [he, s.die_updDie_other f he]
  | some b => simp [State.counterOf_module s _ e hb fun m => s.feltModule_updDie d f b m]

/-! ## Clearing the counters of a die (R381) -/

/-- A cleared die's slices read as the slices cleared; one that it does not list reads as empty both ways. -/
theorem Die.slice_clearCounters (x : Die) (k : Nat) : x.clearCounters.slice k = (x.slice k).clearCounters := by
  simp only [Die.slice, Die.clearCounters, KMap.find_mapValues]
  cases x.slices.find k <;> rfl

theorem Die.counter_clearCounters (x : Die) {c : CounterId} (h : bundleOf c = none) :
    x.clearCounters.counter c = if isSelector c = false then 0 else x.counter c := by
  cases c with
  | crcErr b m | replayWin b m => cases h
  | hit k cls | miss k cls =>
    simp only [Die.counter, Die.slice_clearCounters, Slice.clearCounters, nth_replicate_zero]
    rfl
  | sel k cls =>
    simp only [Die.counter, Die.slice_clearCounters]
    rfl
  | _ => rfl

theorem State.bundle_clearModules (s : State) (p : Nat → Bool) (b : Nat) : ((s.clearModules p).bundle b).modules =
    if p b then (s.bundle b).modules.map FeltModule.clearCounters else (s.bundle b).modules := by
  have hreset : Bundle.reset.modules.map FeltModule.clearCounters = Bundle.reset.modules := rfl
  by_cases hb : b < s.felts.length
  · simp [State.bundle, State.clearModules, nth, List.zip_eq_zipWith, hb, apply_ite Bundle.modules]
  · simp [State.bundle, State.clearModules, nth, hb, hreset]

theorem State.feltModule_clearModules (s : State) (p : Nat → Bool) (b m : Nat) : (s.clearModules p).feltModule b m =
    if p b then (s.feltModule b m).clearCounters else s.feltModule b m := by
  simp only [State.feltModule, s.bundle_clearModules]
  split
  · simp only [nth, List.getElem?_map]
    cases (s.bundle b).modules[m]? <;> rfl
  · rfl

/-! ## Zeroing one counter (R379) -/

/-- The core that a counter counts for. -/
def coreOf (c : CounterId) : Option Nat :=
  match c with
  | .issued k | .apIssued k | .fragSplit k | .fragFull k | .wTrap k | .raEnter k | .raInstr k | .raPref k => some k
  | _ => none

/-- The slice that a counter counts for. -/
def sliceOfCounter (c : CounterId) : Option Nat :=
  match c with
  | .hit k _ | .miss k _ | .sel k _ => some k
  | _ => none

/-- The counter of a core that has this name. -/
def CoreCounters.count (y : CoreCounters) (c : CounterId) : Nat :=
  match c with
  | .issued _ => y.issued
  | .apIssued _ => y.apIssued
  | .fragSplit _ => y.fragSplit
  | .fragFull _ => y.fragFull
  | .wTrap _ => y.wTrap
  | .raEnter _ => y.raEnter
  | .raInstr _ => y.raInstr
  | .raPref _ => y.raPref
  | _ => 0

/-- A core's counters with the one of this name zeroed. -/
def CoreCounters.zeroed (y : CoreCounters) (c : CounterId) : CoreCounters :=
  match c with
  | .issued _ => { y with issued := 0 }
  | .apIssued _ => { y with apIssued := 0 }
  | .fragSplit _ => { y with fragSplit := 0 }
  | .fragFull _ => { y with fragFull := 0 }
  | .wTrap _ => { y with wTrap := 0 }
  | .raEnter _ => { y with raEnter := 0 }
  | .raInstr _ => { y with raInstr := 0 }
  | .raPref _ => { y with raPref := 0 }
  | _ => y

/-- The counter of a slice that has this name. -/
def Slice.count (sl : Slice) (c : CounterId) : Nat :=
  match c with
  | .hit _ cls => nth sl.hits cls 0
  | .miss _ cls => nth sl.misses cls 0
  | .sel _ cls => nth sl.sel cls 0
  | _ => 0

/-- A slice with the counter of this name zeroed. -/
def Slice.zeroed (sl : Slice) (c : CounterId) : Slice :=
  match c with
  | .hit _ cls => { sl with hits := sl.hits.set cls 0 }
  | .miss _ cls => { sl with misses := sl.misses.set cls 0 }
  | _ => sl

/-- A die with one of the counters zeroed that it holds itself. -/
def Die.zeroed (x : Die) (c : CounterId) : Die :=
  match c with
  | .crcErr _ _ | .replayWin _ _ | .sel _ _ => x
  | .issued k | .apIssued k | .fragSplit k | .fragFull k | .wTrap k | .raEnter k | .raInstr k | .raPref k => x.setCore k fun y => y.zeroed c
  | .hit k _ | .miss k _ => { x with slices := x.slices.put k ((x.slice k).zeroed c) }
  | .pageReq => { x with pageReqCount := 0 }
  | .kills => { x with kills := 0 }
  | .halts => { x with halts := 0 }
  | .spillx => { x with spillx := 0 }
  | .corrErr => { x with corrErr := 0 }

theorem State.zeroCounter_die (s : State) (d : Nat) {c : CounterId} (hb : bundleOf c = none) (hs : isSelector c = false) :
    s.zeroCounter d c = s.updDie d fun x => x.zeroed c := by
  cases c with
  | crcErr b m | replayWin b m => cases hb
  | sel k cls => cases hs
  | _ => rfl

theorem Die.counter_setCore_same (x : Die) {k : Nat} (f : CoreCounters → CoreCounters) {c : CounterId} (h : coreOf c = some k) :
    (x.setCore k f).counter c = (f (x.coreCounters k)).count c := by
  have hk : (x.setCore k f).coreCounters k = f (x.coreCounters k) := by
    simp [Die.setCore, Die.coreCounters]
  cases c with
  | issued j | apIssued j | fragSplit j | fragFull j | wTrap j | raEnter j | raInstr j | raPref j =>
    cases h
    simp only [Die.counter, hk, CoreCounters.count]
  | _ => cases h

theorem Die.counter_setCore_other (x : Die) {k : Nat} (f : CoreCounters → CoreCounters) {c : CounterId} (h : coreOf c ≠ some k) :
    (x.setCore k f).counter c = x.counter c := by
  cases c with
  | issued j | apIssued j | fragSplit j | fragFull j | wTrap j | raEnter j | raInstr j | raPref j =>
    have hj : j ≠ k := fun e => h (congrArg some e)
    simp only [Die.counter, Die.setCore, Die.coreCounters, KMap.find_put_other _ _ _ _ hj]
  | _ => rfl

theorem Die.counter_putSlice_same (x : Die) {k : Nat} (sl : Slice) {c : CounterId} (h : sliceOfCounter c = some k) :
    ({ x with slices := x.slices.put k sl } : Die).counter c = sl.count c := by
  cases c with
  | hit j cls | miss j cls | sel j cls =>
    cases h
    simp [Die.counter, Die.slice, Slice.count]
  | _ => cases h

theorem Die.counter_putSlice_other (x : Die) {k : Nat} (sl : Slice) {c : CounterId} (h : sliceOfCounter c ≠ some k) :
    ({ x with slices := x.slices.put k sl } : Die).counter c = x.counter c := by
  cases c with
  | hit j cls | miss j cls | sel j cls =>
    have hj : j ≠ k := fun e => h (congrArg some e)
    simp only [Die.counter, Die.slice, KMap.find_put_other _ _ _ _ hj]
  | _ => rfl

theorem Die.counter_of_core (x : Die) {k : Nat} {c : CounterId} (h : coreOf c = some k) : x.counter c = (x.coreCounters k).count c := by
  cases c with
  | issued j | apIssued j | fragSplit j | fragFull j | wTrap j | raEnter j | raInstr j | raPref j =>
    cases h
    rfl
  | _ => cases h

theorem Die.counter_of_slice (x : Die) {k : Nat} {c : CounterId} (h : sliceOfCounter c = some k) : x.counter c = (x.slice k).count c := by
  cases c with
  | hit j cls | miss j cls | sel j cls =>
    cases h
    rfl
  | _ => cases h

/-- Each counter of a core has a field of its own, so zeroing one leaves the other seven. -/
theorem CoreCounters.count_zeroed (y : CoreCounters) {k : Nat} {c c' : CounterId} (h : coreOf c = some k) (h' : coreOf c' = some k) :
    (y.zeroed c).count c' = if c' = c then 0 else y.count c' := by
  cases c with
  | issued j | apIssued j | fragSplit j | fragFull j | wTrap j | raEnter j | raInstr j | raPref j =>
    cases h
    cases c' <;> simp_all [coreOf, CoreCounters.count, CoreCounters.zeroed]
  | _ => cases h

theorem Slice.count_zeroed (sl : Slice) {k : Nat} {c c' : CounterId} (h : sliceOfCounter c = some k) (hs : isSelector c = false)
    (h' : sliceOfCounter c' = some k) : (sl.zeroed c).count c' = if c' = c then 0 else sl.count c' := by
  cases c with
  | hit j cls | miss j cls =>
    cases h
    cases c' <;> simp_all [sliceOfCounter, Slice.count, Slice.zeroed, nth_set_zero]
  | sel j cls => cases hs
  | _ => cases h

theorem Die.counter_zeroed (x : Die) {c : CounterId} (hb : bundleOf c = none) (hs : isSelector c = false) (c' : CounterId) :
    (x.zeroed c).counter c' = if c' = c then 0 else x.counter c' := by
  cases c with
  | crcErr b m | replayWin b m => cases hb
  | sel k cls => cases hs
  | issued k | apIssued k | fragSplit k | fragFull k | wTrap k | raEnter k | raInstr k | raPref k =>
    by_cases h : coreOf c' = some k
    · rw [x.counter_of_core h]
      exact (x.counter_setCore_same _ h).trans ((x.coreCounters k).count_zeroed rfl h)
    · rw [if_neg (fun e => h (congrArg coreOf e))]
      exact x.counter_setCore_other _ h
  | hit k cls | miss k cls =>
    by_cases h : sliceOfCounter c' = some k
    · rw [x.counter_of_slice h]
      exact (x.counter_putSlice_same _ h).trans ((x.slice k).count_zeroed rfl rfl h)
    · rw [if_neg (fun e => h (congrArg sliceOfCounter e))]
      exact x.counter_putSlice_other _ h
  | pageReq | kills | halts | spillx | corrErr => cases c' <;> rfl

theorem State.counterOf_updModule_die (s : State) (b m : Nat) (f : FeltModule → FeltModule) (e : Nat) {c : CounterId} (h : bundleOf c = none) :
    (s.updModule b m f).counterOf e c = s.counterOf e c := by
  rw [State.counterOf_die _ _ h, State.counterOf_die _ _ h]
  simp [State.die, State.updModule]

/-- A module's counter is one for both of its dies, so zeroing it at one shows at every die. -/
theorem State.counterOf_zeroCounter_module (s : State) (d : Nat) {c : CounterId} {b : Nat} (hb : bundleOf c = some b) (hc : placed c) (e : Nat)
    (c' : CounterId) : (s.zeroCounter d c).counterOf e c' = if c' = c then 0 else s.counterOf e c' := by
  cases h : bundleOf c' with
  | none =>
    have hne : c' ≠ c := fun heq => by simp [heq, hb] at h
    rw [if_neg hne]
    cases c with
    | crcErr j n | replayWin j n => exact s.counterOf_updModule_die j n _ e h
    | _ => cases hb
  | some b' =>
    cases c with
    | crcErr j n | replayWin j n =>
      obtain ⟨hj, hn⟩ := hc
      cases c' with
      | crcErr j' n' | replayWin j' n' =>
        by_cases hm : j' = j ∧ n' = n
        · obtain ⟨rfl, rfl⟩ := hm
          simp [State.counterOf, State.zeroCounter, s.feltModule_updModule_same _ hj hn]
        · simp [State.counterOf, State.zeroCounter, s.feltModule_updModule_other _ hm, hm]
      | _ => cases h
    | _ => cases hb

theorem State.counterOf_zeroCounter_die (s : State) {d : Nat} {c : CounterId} (hd : d < 12) (hb : bundleOf c = none) (hs : isSelector c = false)
    (e : Nat) (c' : CounterId) : (s.zeroCounter d c).counterOf e c' = if c' = c ∧ e = d then 0 else s.counterOf e c' := by
  rw [s.zeroCounter_die d hb hs, s.counterOf_updDie _ hd]
  by_cases h : e = d ∧ bundleOf c' = none
  · obtain ⟨rfl, hb'⟩ := h
    simp [Die.counter_zeroed _ hb hs, State.counterOf_die s e hb', hb']
  · have hne : ¬ (c' = c ∧ e = d) := by
      rintro ⟨rfl, rfl⟩
      exact h ⟨rfl, hb⟩
    rw [if_neg h, if_neg hne]

theorem State.counterOf_zeroCounter (s : State) {d : Nat} {c : CounterId} (hd : d < 12) (hc : placed c) (e : Nat) (c' : CounterId) :
    (s.zeroCounter d c).counterOf e c' =
      if c' = c ∧ isSelector c = false ∧ (e = d ∨ bundleOf c ≠ none) then 0 else s.counterOf e c' := by
  cases hb : bundleOf c with
  | some b =>
    have hs : isSelector c = false := by cases c with
      | sel k cls => cases hb
      | _ => rfl
    simp [s.counterOf_zeroCounter_module d hb hc, hs]
  | none =>
    cases hs : isSelector c with
    | false => simp [s.counterOf_zeroCounter_die hd hb hs]
    | true =>
      cases c with
      | sel k cls => simp [State.zeroCounter]
      | _ => cases hs

theorem State.zeroCounter_frame (s : State) (d : Nat) (c : CounterId) :
    ({ s.zeroCounter d c with dies := s.dies, felts := s.felts } : State) = s := by
  have hdie (f : Die → Die) : ({ s.updDie d f with dies := s.dies, felts := s.felts } : State) = s := by
    unfold State.updDie
    split <;> rfl
  have hmodule (b m : Nat) (f : FeltModule → FeltModule) : ({ s.updModule b m f with dies := s.dies, felts := s.felts } : State) = s := by
    unfold State.updModule State.updBundle
    split <;> rfl
  cases c with
  | crcErr b m | replayWin b m => exact hmodule b m _
  | sel k cls => rfl
  | _ => exact hdie _

/-! ## Links (R77, R418, R420) -/

theorem State.drained_iff (s : State) (b : Nat) : s.drained b = true ↔ (s.bundle b).draining = true ∧ s.bundleEmpty b = true := by
  simp [State.drained]

/-- A module whose link register `w` firmware has written (R77). -/
def FeltModule.writeLink (w : LinkReg) (v : Nat) (x : FeltModule) : FeltModule :=
  match w with
  | .rate => { x with rate := v }
  | .width => { x with width := v % 4 }
  | .replay => { x with replays := v % 2 ^ 32 }
  | .retired => { x with retired := v }

/-- The values that a link register takes (R77). -/
def linkValueOk (w : LinkReg) (v : Nat) : Prop :=
  match w with
  | .rate => v ≤ 4
  | .retired => v ≤ 68
  | _ => True

/-- A bundle whose drain has ended sends on the modules in service (R420). -/
def Bundle.remapped (x : Bundle) : Bundle := { x with draining := false, inService := x.working }

theorem Bundle.mem_working (x : Bundle) (n : Nat) : n ∈ x.working ↔ n < 8 ∧ (nth x.modules n FeltModule.reset).width ≠ 3 := by
  simp [Bundle.working]

theorem widthLanes_eq {w : Nat} (h : w ≤ 2) : widthLanes w = 64 - 16 * w := by
  match w, h with
  | 0, _ | 1, _ | 2, _ => rfl

section Ready
variable {s : State} (hr : s.hostReady = true)
include hr

theorem pcctlClear_effect {d : Nat} (hd : d < 12) :
    ∃ t, exec (.pcctlClear d) s = .next t ∧ ({ t with dies := s.dies, felts := s.felts } : State) = s ∧
      (∀ e c b, bundleOf c = some b → t.counterOf e c = if (bundleDies b).1 = d ∨ (bundleDies b).2 = d then 0 else s.counterOf e c) ∧
      (∀ e c, bundleOf c = none → t.counterOf e c = if e = d ∧ isSelector c = false then 0 else s.counterOf e c) := by
  have he : exec (.pcctlClear d) s = .next ((s.updDie d Die.clearCounters).clearModules (endsAt d)) := by
    change execPcctlClear d s = _
    simp only [execPcctlClear, State.firmware_of_ready hr]
  refine ⟨_, he, ?_, fun e c b hb => ?_, fun e c hb => ?_⟩
  · unfold State.updDie State.clearModules
    split <;> rfl
  · cases c with
    | crcErr j m | replayWin j m =>
      cases hb
      simp only [State.counterOf, State.feltModule_clearModules, State.feltModule_updDie, endsAt, Bool.or_eq_true, decide_eq_true_eq]
      split <;> rfl
    | _ => cases hb
  · have hfelts : ((s.updDie d Die.clearCounters).clearModules (endsAt d)).counterOf e c = (s.updDie d Die.clearCounters).counterOf e c := by
      rw [State.counterOf_die _ _ hb, State.counterOf_die _ _ hb]
      rfl
    rw [hfelts, s.counterOf_updDie _ hd, Die.counter_clearCounters _ hb]
    by_cases h : e = d
    · subst h
      simp [hb, State.counterOf_die s e hb]
    · simp [h]

theorem exec_counterZeroWrite (d : Nat) (c : CounterId) (v : Nat) :
    exec (.counterZeroWrite d c v) s = .next (if v = 0 then s.zeroCounter d c else s) := by
  change execCounterZeroWrite d c v s = _
  simp only [execCounterZeroWrite, State.firmware_of_ready hr]

theorem linkRegisterWrite_ignored {b : Nat} (m : Nat) (w : LinkReg) (v : Nat) (h : ¬ ((s.bundle b).draining = true ∧ s.bundleEmpty b = true)) :
    exec (.linkRegisterWrite b m w v) s = .next s := by
  rw [← s.drained_iff, Bool.not_eq_true] at h
  change execLinkRegisterWrite b m w v s = _
  simp [execLinkRegisterWrite, State.firmware_of_ready hr, h]

theorem exec_linkRegisterWrite {b : Nat} (m : Nat) {w : LinkReg} {v : Nat} (h : (s.bundle b).draining = true ∧ s.bundleEmpty b = true)
    (hv : linkValueOk w v) : exec (.linkRegisterWrite b m w v) s = .next (s.updModule b m (FeltModule.writeLink w v)) := by
  rw [← s.drained_iff] at h
  change execLinkRegisterWrite b m w v s = _
  simp only [execLinkRegisterWrite, State.firmware_of_ready hr, h]
  cases w with
  | rate | retired => exact congrArg Host.Outcome.next (if_neg (Nat.not_lt.mpr hv))
  | width | replay => rfl

theorem linkRegisterWrite_effect {b m : Nat} {w : LinkReg} {v : Nat} (hb : b < 16) (hm : m < 8)
    (h : (s.bundle b).draining = true ∧ s.bundleEmpty b = true) (hv : linkValueOk w v) :
    ∃ t, exec (.linkRegisterWrite b m w v) s = .next t ∧ t.feltModule b m = (s.feltModule b m).writeLink w v ∧
      s.sameModule t b m fun _ => s.feltModule b m :=
  ⟨_, exec_linkRegisterWrite hr m h hv, s.feltModule_updModule_same _ hb hm, s.sameModule_updModule b m _ _⟩

theorem exec_linkRateChange {b m r w : Nat} (hrate : r ≤ 4) (hw : w ≤ 2) (hx : w ≤ (s.feltModule b m).width)
    (hl : (s.feltModule b m).retired + (64 - 16 * w) ≤ 68) :
    exec (.linkRateChange b m r w) s = .next (if s.bundleEmpty b = false then s.updBundle b fun x => { x with draining := true }
      else (s.updModule b m fun x => { x with rate := r, width := w }).updBundle b Bundle.remapped) := by
  rw [← widthLanes_eq hw] at hl
  change execLinkRateChange b m r w s = _
  simp only [execLinkRateChange, State.firmware_of_ready hr]
  rw [if_neg (by omega)]
  cases s.bundleEmpty b <;> rfl

theorem linkRateChange_drains {b m r w : Nat} (hb : b < 16) (hrate : r ≤ 4) (hw : w ≤ 2) (hx : w ≤ (s.feltModule b m).width)
    (hl : (s.feltModule b m).retired + (64 - 16 * w) ≤ 68) (he : s.bundleEmpty b = false) :
    ∃ t, exec (.linkRateChange b m r w) s = .next t ∧ t.bundle b = { s.bundle b with draining := true } ∧
      ({ t with felts := s.felts } : State) = s ∧ ∀ j, j ≠ b → t.bundle j = s.bundle j :=
  ⟨_, (exec_linkRateChange hr hrate hw hx hl).trans (by rw [if_pos he]), s.bundle_updBundle_same _ hb, s.updBundle_frame b _,
    fun _ hj => s.bundle_updBundle_other _ hj⟩

theorem linkRateChange_effect {b m r w : Nat} (hb : b < 16) (hm : m < 8) (hrate : r ≤ 4) (hw : w ≤ 2) (hx : w ≤ (s.feltModule b m).width)
    (hl : (s.feltModule b m).retired + (64 - 16 * w) ≤ 68) (he : s.bundleEmpty b = true) :
    ∃ t, exec (.linkRateChange b m r w) s = .next t ∧ t.feltModule b m = { s.feltModule b m with rate := r, width := w } ∧
      ({ t with felts := s.felts } : State) = s ∧ (∀ j, j ≠ b → t.bundle j = s.bundle j) ∧ (∀ n, n ≠ m → t.feltModule b n = s.feltModule b n) ∧
      (t.bundle b).draining = false ∧ ∀ n, n ∈ (t.bundle b).inService ↔ n < 8 ∧ (t.feltModule b n).width ≠ 3 := by
  let u := s.updModule b m fun x => { x with rate := r, width := w }
  have hbundle : (u.updBundle b Bundle.remapped).bundle b = (u.bundle b).remapped := u.bundle_updBundle_same _ hb
  have hmodule (n : Nat) : (u.updBundle b Bundle.remapped).feltModule b n = u.feltModule b n := by
    simp only [State.feltModule, hbundle, Bundle.remapped]
  refine ⟨u.updBundle b Bundle.remapped, (exec_linkRateChange hr hrate hw hx hl).trans (by simp [he, u]), ?_, ?_, fun j hj => ?_, fun n hn => ?_, ?_,
    fun n => ?_⟩
  · rw [hmodule, s.feltModule_updModule_same _ hb hm]
  · calc ({ u.updBundle b Bundle.remapped with felts := s.felts } : State)
      _ = { ({ u.updBundle b Bundle.remapped with felts := u.felts } : State) with felts := s.felts } := rfl
      _ = { u with felts := s.felts } := by rw [u.updBundle_frame]
      _ = s := s.updBundle_frame b _
  · rw [u.bundle_updBundle_other _ hj]
    exact s.bundle_updBundle_other _ hj
  · rw [hmodule, s.feltModule_updModule_other _ fun h => hn h.2]
  · rw [hbundle]
    rfl
  · rw [hmodule, hbundle]
    exact (u.bundle b).mem_working n

theorem replayThrWrite_effect {b m : Nat} (v : W64) (hb : b < 16) (hm : m < 8) :
    ∃ t, exec (.registerWrite (.replayThr b m) v) s = .next t ∧ t.feltModule b m = { s.feltModule b m with replayThr := v.toNat % 2 ^ 16 } ∧
      s.sameModule t b m fun _ => s.feltModule b m := by
  have he : exec (.registerWrite (.replayThr b m) v) s = .next (s.updModule b m fun x => { x with replayThr := v.toNat % 2 ^ 16 }) := by
    change execRegisterWrite (.replayThr b m) v s = _
    simp only [execRegisterWrite, State.firmware_of_ready hr]
  exact ⟨_, he, s.feltModule_updModule_same _ hb hm, s.sameModule_updModule b m _ _⟩

end Ready

/-- Read-only and reserved registers ignore writes, whatever the state (R7, R407). -/
theorem registerWrite_readOnly (s : State) (d k o : Nat) (v : W64) :
    exec (.registerWrite (.errorLog d k) v) s = .next s ∧ exec (.registerWrite (.reserved o) v) s = .next s :=
  ⟨congrArg Host.Outcome.next s.firmware_id, congrArg Host.Outcome.next s.firmware_id⟩

end Sys2Proof.Machine

open Sys2Proof Sys2Proof.Machine

/-- Settles O46: each write of firmware has its equation above, and what it leaves unchanged is a frame of the table that it changes. -/
theorem firmwareWritesTakeEffect : Obligations.FirmwareWritesTakeEffect := by
  intro s hboot hstopped
  have hr : s.hostReady = true := by simp [State.hostReady, hboot, hstopped]
  refine ⟨fun d n v hd hn => shareTableWrite_effect hr v hd hn,
    fun d v hd => ⟨ageThresholdWrite_effect hr hd, ageThresholdWrite_ignored hr d⟩,
    fun n desc hn => ?egress,
    fun d n desc hn => kvPoolDescriptorWrite_effect hr d desc hn,
    fun d v hd => ⟨logbaseWrite_effect hr hd, logbaseWrite_ignored hr d⟩,
    fun d b n hd => ⟨fun hf => dumpRegionWrite_effect hr hd ((dumpFits_iff b n hd).2 hf), fun hf => ?dumpIgnored⟩,
    fun n m hn hfree => membersWrite_effect hr m hn hfree,
    fun n v hn => acceptCounterWrite_effect hr v hn,
    fun d b hd => pcctlFreeze_effect hr b hd,
    fun d hd => ?clear,
    fun d c v hd hc => ⟨fun hv => ?nonzero, fun hv => ?zero⟩,
    fun b m v hb hm => ⟨fun hfree w => linkRegisterWrite_ignored hr m w v hfree, fun hfree =>
      ⟨fun hv => linkRegisterWrite_effect (w := .rate) hr hb hm hfree hv, linkRegisterWrite_effect (w := .width) hr hb hm hfree trivial,
        linkRegisterWrite_effect (w := .replay) hr hb hm hfree trivial, fun hv => linkRegisterWrite_effect (w := .retired) hr hb hm hfree hv⟩⟩,
    fun b m r w hb hm hrate hw hx hl => ⟨linkRateChange_drains hr hb hrate hw hx hl, linkRateChange_effect hr hb hm hrate hw hx hl⟩,
    fun slot package h => peerSlotTableWrite_effect hr package h,
    fun asid root h => addressSpaceTableWrite_effect hr root h,
    fun b m v hb hm => replayThrWrite_effect hr v hb hm,
    registerWrite_readOnly s⟩
  case egress =>
    obtain ⟨t, he, hsame, hring⟩ := egressDescriptorWrite_effect hr desc hn
    refine ⟨t, he, hsame, ?_⟩
    rw [hring]
    exact Egress.rewritten_fields _ desc
  case dumpIgnored =>
    rw [exec_dumpRegionWrite hr, if_neg ((dumpFits_iff b n hd).not.2 hf)]
  case clear =>
    obtain ⟨t, he, hframe, hmodules, hdie⟩ := pcctlClear_effect hr hd
    refine ⟨t, he, hframe, fun e c => ?_⟩
    cases hb : bundleOf c with
    | some b => exact hmodules e c b hb
    | none => exact hdie e c hb
  case nonzero =>
    rw [exec_counterZeroWrite hr, if_neg hv]
  case zero =>
    exact ⟨_, (exec_counterZeroWrite hr d c v).trans (by rw [if_pos hv]), s.zeroCounter_frame d c, s.counterOf_zeroCounter hd hc⟩
end

section
/-! PROOFS. What requests at the slices, messages between dies and walks of page tables leave alone (R278 to R288, R310, R330): every table of the
package but memory, dies, UALink, the host port, flits and resolves; and of the dies the error logs. -/

namespace Sys2Proof.Machine

/-! ## The frame -/

/-- A state without what requests at slices and messages between dies may change. -/
def State.beyondSlices (s : State) : State :=
  { s with mem := [], poison := [], covers := [], dies := [], resolves := [], flits := [], ualink := State.reset.ualink, host := State.reset.host }

/-- A state differs from another at most in what requests at slices and messages between dies may change. -/
structure State.slicesOnly (s t : State) : Prop where
  beyond : t.beyondSlices = s.beyondSlices
  errlog : ∀ d, (t.die d).errlog = (s.die d).errlog

namespace State.slicesOnly

variable {s t u : State}

@[refl] theorem refl (s : State) : s.slicesOnly s := ⟨rfl, fun _ => rfl⟩

theorem trans (h : s.slicesOnly t) (h' : t.slicesOnly u) : s.slicesOnly u :=
  ⟨h'.beyond.trans h.beyond, fun d => (h'.errlog d).trans (h.errlog d)⟩

theorem cores (h : s.slicesOnly t) : t.cores = s.cores := by
  have := congrArg State.cores h.beyond
  exact this
theorem domains (h : s.slicesOnly t) : t.domains = s.domains := by
  have := congrArg State.domains h.beyond
  exact this
theorem notices (h : s.slicesOnly t) : t.notices = s.notices := by
  have := congrArg State.notices h.beyond
  exact this
theorem queues (h : s.slicesOnly t) : t.queues = s.queues := by
  have := congrArg State.queues h.beyond
  exact this
theorem invs (h : s.slicesOnly t) : t.invs = s.invs := by
  have := congrArg State.invs h.beyond
  exact this
theorem grids (h : s.slicesOnly t) : t.grids = s.grids := by
  have := congrArg State.grids h.beyond
  exact this
theorem stopped (h : s.slicesOnly t) : t.stopped = s.stopped := by
  have := congrArg State.stopped h.beyond
  exact this

theorem queue (h : s.slicesOnly t) (q : Nat) : t.queue q = s.queue q := by simp [State.queue, h.queues]
theorem core? (h : s.slicesOnly t) (k : Nat) : t.core? k = s.core? k := by simp [State.core?, h.cores]
theorem thread (h : s.slicesOnly t) (k a : Nat) : t.thread k a = s.thread k a := by simp [State.thread, h.core?]

/-- States that agree in their dies need agree only beyond the slices. -/
theorem of_dies (hd : t.dies = s.dies) (h : t.beyondSlices = s.beyondSlices) : s.slicesOnly t :=
  ⟨h, fun d => by simp [State.die, hd]⟩

theorem updDie (s : State) (d : Nat) (f : Die → Die) (hf : ∀ x, (f x).errlog = x.errlog) : s.slicesOnly (s.updDie d f) where
  beyond := by unfold State.updDie; split <;> rfl
  errlog e := by
    by_cases h : e = d
    · subst h
      by_cases he : e < 12
      · rw [s.die_updDie_same f he, hf]
      · rw [State.updDie, if_neg (by exact he)]
    · rw [s.die_updDie_other f h]

theorem foldl {α : Type} (l : List α) (f : State → α → State) (hf : ∀ (s : State) x, s.slicesOnly (f s x)) (s : State) : s.slicesOnly (l.foldl f s) := by
  induction l generalizing s with
  | nil => exact refl s
  | cons x l ih => exact (hf s x).trans (ih _)

theorem foldl_fst {α β : Type} (l : List α) (f : State × β → α → State × β) (hf : ∀ (a : State × β) x, a.1.slicesOnly (f a x).1) (a : State × β) :
    a.1.slicesOnly (l.foldl f a).1 := by
  induction l generalizing a with
  | nil => exact refl a.1
  | cons x l ih => exact (hf a x).trans (ih _)

end State.slicesOnly

/-! ## Slices, ways and spilled copies -/

theorem State.updSlice_slicesOnly (s : State) (d k : Nat) (f : Slice → Slice) : s.slicesOnly (s.updSlice d k f) := .updDie _ _ _ fun _ => rfl
theorem State.updWay_slicesOnly (s : State) (d k key : Nat) (f : Way → Way) : s.slicesOnly (s.updWay d k key f) := s.updSlice_slicesOnly _ _ _
theorem State.sendUa_slicesOnly (s : State) (pa : Nat) (w : UaWait) : s.slicesOnly (s.sendUa pa w) := .of_dies rfl rfl
theorem State.setMemSector_slicesOnly (s : State) (sec : Nat) (v : BitVec 256) (bad : Bool) : s.slicesOnly (s.setMemSector sec v bad) := .of_dies rfl rfl

theorem State.wake_slicesOnly (s : State) (pa : Nat) : s.slicesOnly (s.wake pa) := by
  unfold State.wake
  split
  · exact .updDie _ _ _ fun _ => rfl
  · rfl

theorem State.passOn_slicesOnly (s : State) (line i : Nat) (v : BitVec 256) (bad : Bool) : s.slicesOnly (s.passOn line i v bad) := by
  unfold State.passOn
  split
  · exact s.sendUa_slicesOnly _ _
  · split
    · exact .of_dies rfl rfl
    · rfl

theorem State.writeBack_slicesOnly (s : State) (w : Way) : s.slicesOnly (s.writeBack w) := by
  refine .foldl _ _ (fun s i => ?_) s
  split
  · dsimp only
    split
    · exact s.sendUa_slicesOnly _ _
    · exact (s.wake_slicesOnly _).trans ((State.setMemSector_slicesOnly _ _ _ _).trans (State.passOn_slicesOnly _ _ _ _ _))
  · rfl

theorem State.sendCausal_slicesOnly (s : State) (src : Nat) (dsts : List Nat) (leaf key : Nat) (b : MsgBody) :
    s.slicesOnly (s.sendCausal src dsts leaf key b) := by
  unfold State.sendCausal
  split
  · rfl
  · exact (State.slicesOnly.updDie s src _ fun _ => by rfl).trans (.of_dies rfl rfl)

theorem State.storeRecord_slicesOnly (s : State) (d k r : Nat) : s.slicesOnly (s.storeRecord d k r) := by
  unfold State.storeRecord
  dsimp only
  split <;> exact .of_dies rfl (by simp only [State.beyondSlices])

theorem State.updSpill_slicesOnly (s : State) (d k : Nat) (f : Slice → Slice) : s.slicesOnly (s.updSpill d k f) := by
  unfold State.updSpill
  dsimp only
  split
  · exact s.updSlice_slicesOnly _ _ _
  · exact (s.updSlice_slicesOnly d k f).trans (.foldl _ _ (fun s r => s.storeRecord_slicesOnly d k r) _)

theorem State.evictWay_slicesOnly (s : State) (d k key : Nat) : s.slicesOnly (s.evictWay d k key) := by
  unfold State.evictWay
  split
  · rfl
  · split
    · exact s.updSlice_slicesOnly _ _ _
    · exact s.updSpill_slicesOnly _ _ _
    · exact (s.writeBack_slicesOnly _).trans ((State.sendCausal_slicesOnly _ _ _ _ _ _).trans (State.updSlice_slicesOnly _ _ _ _))

theorem State.claimWay_slicesOnly (s : State) (d k set : Nat) : s.slicesOnly (s.claimWay d k set).1 := by
  unfold State.claimWay
  split
  · rfl
  · exact (s.updSlice_slicesOnly _ _ _).trans (State.evictWay_slicesOnly _ _ _ _)

theorem State.insertWay_slicesOnly (s : State) (d k key cls : Nat) (distant : Bool) (w : Way) : s.slicesOnly (s.insertWay d k key cls distant w) :=
  s.updSlice_slicesOnly _ _ _

theorem State.spillExhausted_slicesOnly (s : State) (d : Nat) : s.slicesOnly (s.spillExhausted d) :=
  (State.slicesOnly.updDie s d _ fun _ => by rfl).trans (.updDie _ _ _ fun _ => rfl)

theorem State.homeWay_slicesOnly (s : State) (pa cls : Nat) (distant : Bool) : s.slicesOnly (s.homeWay pa cls distant).1 := by
  unfold State.homeWay
  dsimp only
  split
  · exact s.updWay_slicesOnly _ _ _ _
  · have h := s.claimWay_slicesOnly (homeDie pa) (sliceOf pa) (setOf pa)
    split <;> rename_i heq <;> rw [heq] at h
    · exact h.trans (State.insertWay_slicesOnly _ _ _ _ _ _ _)
    · exact h

theorem State.fillSectors_slicesOnly (s : State) (d k key : Nat) (need : BitVec 4) : s.slicesOnly (s.fillSectors d k key need) := by
  unfold State.fillSectors
  split
  · rfl
  · split
    · rfl
    · exact s.updWay_slicesOnly _ _ _ _

theorem State.propagate_slicesOnly (s : State) (d k key : Nat) (sectors : BitVec 4) (core agent : Nat) :
    s.slicesOnly (s.propagate d k key sectors core agent) := by
  unfold State.propagate
  split
  · rfl
  · split
    · rfl
    · exact s.sendCausal_slicesOnly _ _ _ _ _

theorem State.markInvalidations_slicesOnly (s : State) (line core agent : Nat) : s.slicesOnly (s.markInvalidations line core agent) where
  beyond := rfl
  errlog d := by
    simp only [State.markInvalidations, State.die, nth, List.getElem?_map]
    cases s.dies[d]? <;> rfl

theorem State.writeHome_slicesOnly (s : State) (d k key : Nat) (new : BitVec 1024) (mask : BitVec 128) (cleans poisons : BitVec 4) (core agent : Nat) :
    s.slicesOnly (s.writeHome d k key new mask cleans poisons core agent) :=
  (s.fillSectors_slicesOnly d k key _).trans ((State.updWay_slicesOnly _ _ _ _ _).trans
    ((State.markInvalidations_slicesOnly _ _ _ _).trans (State.propagate_slicesOnly _ _ _ _ _ _ _)))

theorem State.writeThrough_slicesOnly (s : State) (line : Nat) (new : BitVec 1024) (mask : BitVec 128) (cleans poisons : BitVec 4) (core agent : Nat) :
    s.slicesOnly (s.writeThrough line new mask cleans poisons core agent) := by
  refine (s.markInvalidations_slicesOnly line core agent).trans (.foldl _ _ (fun s i => ?_) _)
  dsimp only
  split
  · rfl
  · split
    · exact s.passOn_slicesOnly _ _ _ _
    · exact (s.setMemSector_slicesOnly _ _ _).trans (State.passOn_slicesOnly _ _ _ _ _)

theorem State.mergeCopies_slicesOnly (s : State) (pa : Nat) (cs : List CopyView) (cls core agent : Nat) :
    s.slicesOnly (s.mergeCopies pa cs cls core agent) := by
  unfold State.mergeCopies
  split
  · rfl
  · dsimp only
    refine State.slicesOnly.trans ?_ (State.updSpill_slicesOnly _ _ _ _)
    have h := s.homeWay_slicesOnly pa cls false
    split <;> rename_i heq <;> rw [heq] at h
    · exact h.trans (State.writeHome_slicesOnly _ _ _ _ _ _ _ _ _ _)
    · exact h.trans ((State.spillExhausted_slicesOnly _ _).trans (State.writeThrough_slicesOnly _ _ _ _ _ _ _ _))

theorem State.mergeLine_slicesOnly (s : State) (pa cls core agent : Nat) : s.slicesOnly (s.mergeLine pa cls core agent) :=
  s.mergeCopies_slicesOnly _ _ _ _ _

theorem State.takeWaited_slicesOnly (s : State) (line tag : Nat) : s.slicesOnly (s.takeWaited line tag).1 := by
  unfold State.takeWaited
  split
  · exact .of_dies rfl rfl
  · rfl

theorem State.countLookup_slicesOnly (s : State) (d k cls : Nat) (hit : Bool) : s.slicesOnly (s.countLookup d k cls hit) := by
  unfold State.countLookup
  split
  · rfl
  · exact s.updSlice_slicesOnly _ _ _

theorem State.makeRoom_slicesOnly (s : State) (d k set line : Nat) : s.slicesOnly (s.makeRoom d k set line) := by
  unfold State.makeRoom
  split
  · rfl
  · split
    · rfl
    · exact s.updSpill_slicesOnly _ _ _

theorem State.recallCopy_slicesOnly (s : State) (d k set line dom vid cls : Nat) (distant : Bool) :
    s.slicesOnly (s.recallCopy d k set line dom vid cls distant) := by
  unfold State.recallCopy
  split
  · rfl
  · next r rec _ =>
    dsimp only
    have h := (s.updSpill_slicesOnly d k fun sl => { sl with spill := sl.spill.del r }).trans
      ((State.makeRoom_slicesOnly _ d k set line).trans (State.claimWay_slicesOnly _ d k set))
    split <;> rename_i heq <;> rw [heq] at h
    · exact h.trans (State.insertWay_slicesOnly _ _ _ _ _ _ _)
    · exact h.trans (State.updSpill_slicesOnly _ _ _ _)

theorem State.useCopy_slicesOnly (s : State) (d k set line dom vid cls : Nat) (distant : Bool) :
    s.slicesOnly (s.useCopy d k set line dom vid cls distant) := by
  unfold State.useCopy
  split
  · exact s.updSlice_slicesOnly _ _ _
  · exact s.recallCopy_slicesOnly _ _ _ _ _ _ _ _

theorem State.copyWay_slicesOnly (s : State) (pa dom vid cls : Nat) (distant : Bool) : s.slicesOnly (s.copyWay pa dom vid cls distant).1 := by
  unfold State.copyWay
  dsimp only
  have h := s.useCopy_slicesOnly (homeDie pa) (sliceOf pa) (setOf pa) (pa / 128) dom vid cls distant
  split
  · exact h
  · have h' := h.trans (State.makeRoom_slicesOnly _ (homeDie pa) (sliceOf pa) (setOf pa) (pa / 128))
    split
    · exact h'
    · have h'' := h'.trans (State.claimWay_slicesOnly _ (homeDie pa) (sliceOf pa) (setOf pa))
      split <;> rename_i heq <;> rw [heq] at h''
      · exact h''.trans (State.insertWay_slicesOnly _ _ _ _ _ _ _)
      · exact h''

theorem State.dropPassing_slicesOnly (s : State) (line : Nat) : s.slicesOnly (s.dropPassing line) := by
  unfold State.dropPassing
  split
  · exact .of_dies rfl rfl
  · rfl

theorem State.squashFull_slicesOnly (s : State) (dom vid : Nat) : s.slicesOnly (s.squashFull dom vid) := .of_dies rfl rfl

/-! ## One request -/

theorem State.cover_slicesOnly (s : State) (o : Owner) (line dom vid : Nat) (marks : BitVec 4) (mask : BitVec 128) :
    s.slicesOnly (s.cover o line dom vid marks mask).1 := by
  unfold State.cover
  dsimp only
  split
  case h_3 => rfl
  all_goals
    refine State.slicesOnly.foldl_fst _ _ (fun a i => ?_) (s, 0#4)
    split
    · rfl
    · split <;> exact .of_dies rfl rfl

theorem State.landHome_slicesOnly (s : State) (r : LineReq) (key : Option Nat) (after : BitVec 1024) (mask : BitVec 128) (core agent : Nat) :
    s.slicesOnly (s.landHome r key after mask core agent) := by
  unfold State.landHome
  dsimp only
  refine State.slicesOnly.trans (s.cover_slicesOnly r.owner r.line 0 0 (sectorsOf (s.homeBytes (r.line * 128)).bad) mask) ?_
  split
  · exact State.writeHome_slicesOnly _ _ _ _ _ _ _ _ _ _
  · exact State.writeThrough_slicesOnly _ _ _ _ _ _ _ _

theorem State.landCopy_slicesOnly (s : State) (r : LineReq) (key : Nat) (after : BitVec 1024) (mask bad : BitVec 128) :
    s.slicesOnly (s.landCopy r key after mask bad) :=
  (s.cover_slicesOnly r.owner r.line r.domain r.vid _ mask).trans (State.updWay_slicesOnly _ _ _ _ _)

theorem State.performReq_slicesOnly (s : State) (r : LineReq) (core agent : Nat) : s.slicesOnly (s.performReq r core agent).1 := by
  unfold State.performReq
  extract_lets pa d k set wr target commits merged need held home
  have hmerged : s.slicesOnly merged := by
    simp only [merged]
    split
    · exact s.mergeLine_slicesOnly _ _ _ _
    · rfl
  have hwaited := hmerged.trans (merged.takeWaited_slicesOnly r.line r.tag)
  split
  next waiting waited heq =>
  rw [heq] at hwaited
  extract_lets counted used read
  have hread : s.slicesOnly read := hwaited.trans ((State.countLookup_slicesOnly _ _ _ _ _).trans
    (.foldl _ _ (fun s (c : CopyView) => s.useCopy_slicesOnly d k set r.line c.domain c.vid r.cls r.distant) _))
  have hhome : s.slicesOnly (if home = true then read.homeWay pa r.cls r.distant else (read, none)).1 := by
    split
    · exact hread.trans (State.homeWay_slicesOnly _ _ _ _)
    · exact hread
  split
  next allocated key heq' =>
  rw [heq'] at hhome
  extract_lets filled view stays
  have hfilled : s.slicesOnly filled := by
    simp only [filled]
    split
    · exact hhome.trans (State.fillSectors_slicesOnly _ _ _ _ _)
    · split
      · exact hhome.trans (State.spillExhausted_slicesOnly _ _)
      · exact hhome
  split
  next es after mask _ =>
  dsimp only
  have hdropped := hfilled.trans (State.dropPassing_slicesOnly _ r.line)
  split
  · exact hdropped
  · clear_value target
    cases target with
    | dropped => exact hdropped
    | committed => exact hdropped.trans (State.landHome_slicesOnly _ _ _ _ _ _ _)
    | copy =>
      have hcopy := hdropped.trans (State.copyWay_slicesOnly _ pa r.domain r.vid r.cls r.distant)
      dsimp only
      split <;> rename_i heq'' <;> rw [heq''] at hcopy
      · exact hcopy.trans (State.landCopy_slicesOnly _ _ _ _ _ _)
      · refine hcopy.trans (State.slicesOnly.trans ?_ (State.squashFull_slicesOnly _ _ _))
        split
        · rfl
        · exact State.spillExhausted_slicesOnly _ _

/-! ## Reads and writes of the engines of a die -/

theorem State.readCommitted_slicesOnly (s : State) (pa size : Nat) : s.slicesOnly (s.readCommitted pa size).1 := by
  have h := (s.wake_slicesOnly pa).trans (State.performReq_slicesOnly _ (engineReq pa [engineElem pa size .read]) 0 0)
  unfold State.readCommitted
  dsimp only
  split <;> exact h

theorem State.writeCommitted_slicesOnly (s : State) (pa size : Nat) (v : W64) : s.slicesOnly (s.writeCommitted pa size v) :=
  (s.wake_slicesOnly pa).trans (State.performReq_slicesOnly _ _ _ _)

theorem State.engineWrite_slicesOnly (s : State) (e pa size : Nat) (v : W64) : s.slicesOnly (s.engineWrite e pa size v) := by
  unfold State.engineWrite State.engineSend
  dsimp only
  split
  · exact (s.wake_slicesOnly _).trans (State.performReq_slicesOnly _ _ _ _)
  · split
    · exact .updDie _ _ _ fun _ => rfl
    · exact s.sendCausal_slicesOnly _ _ _ _ _

theorem State.flushLine_slicesOnly (s : State) (pa : Nat) : s.slicesOnly (s.flushLine pa) := by
  unfold State.flushLine
  split
  · exact (s.writeBack_slicesOnly _).trans (State.updWay_slicesOnly _ _ _ _ _)
  · rfl

theorem State.writeBackFar_slicesOnly (s : State) : s.slicesOnly s.writeBackFar := by
  refine .foldl _ _ (fun s d => .foldl _ _ (fun s sl => .foldl _ _ (fun s w => ?_) _) _) _
  split
  · exact (s.writeBack_slicesOnly _).trans (State.updWay_slicesOnly _ _ _ _ _)
  · rfl

/-! ## Walks of the page tables -/

theorem State.askPeer_slicesOnly (s : State) (line : Nat) (sectors : BitVec 4) (tag : Nat) : s.slicesOnly (s.askPeer line sectors tag) := by
  refine State.slicesOnly.trans (t := if s.ualink.missed.contains (line, tag) then s else { s with ualink := { s.ualink with missed := s.ualink.missed ++ [(line, tag)] } })
    ?_ (.foldl _ _ (fun s i => ?_) _)
  · split
    · rfl
    · exact .of_dies rfl rfl
  · dsimp only
    split
    · exact s.sendUa_slicesOnly _ _
    · rfl

theorem State.takeError_slicesOnly {s t : State} {line : Nat} (h : s.takeError line = some t) : s.slicesOnly t := by
  unfold State.takeError at h
  split at h
  · cases h
    exact .of_dies rfl rfl
  · cases h

theorem State.readWord_slicesOnly (s : State) (die pa : Nat) : s.slicesOnly (s.readWord die pa).1 := by
  unfold State.readWord
  dsimp only
  split
  · exact s.askPeer_slicesOnly _ _ _
  · split
    · rfl
    · exact s.readCommitted_slicesOnly _ _

theorem State.orCompanion_slicesOnly (s : State) (slot bit : Nat) (write : Bool) : s.slicesOnly (s.orCompanion slot bit write).1 := by
  have h (r : LineReq) := (s.wake_slicesOnly slot).trans (State.performReq_slicesOnly _ r 0 0)
  unfold State.orCompanion
  dsimp only
  split <;> exact h _

theorem State.markCompanion_slicesOnly (s : State) (die slot : Nat) (write : Bool) : s.slicesOnly (s.markCompanion die slot write).1 := by
  unfold State.markCompanion
  split
  · exact s.orCompanion_slicesOnly _ _ _
  · rfl

theorem State.peerSlot_slicesOnly (s : State) (die slot : Nat) (mark : Option Bool) (asker : Nat) : s.slicesOnly (s.peerSlot die slot mark asker).1 := by
  unfold State.peerSlot
  split
  · exact .of_dies rfl rfl
  · split
    · exact .of_dies rfl rfl
    · exact s.sendUa_slicesOnly _ _

theorem State.readLeaf_slicesOnly (s : State) (die slot : Nat) (write : Bool) (asker : Nat) : s.slicesOnly (s.readLeaf die slot write asker).1 := by
  unfold State.readLeaf
  split
  · exact s.peerSlot_slicesOnly _ _ _ _
  · have h := s.markCompanion_slicesOnly die slot write
    split <;> rename_i heq <;> rw [heq] at h
    · exact h
    · have h' := h.trans (State.readWord_slicesOnly _ die slot)
      split <;> rename_i heq' <;> rw [heq'] at h' <;> exact h'

theorem State.readEntry_slicesOnly (s : State) (die slot asker : Nat) : s.slicesOnly (s.readEntry die slot asker).1 := by
  unfold State.readEntry
  split
  · exact s.peerSlot_slicesOnly _ _ _ _
  · exact s.readWord_slicesOnly _ _

theorem State.walkWaits_slicesOnly {s asked : State} (h : s.slicesOnly asked) (slot : Nat) : s.slicesOnly (s.walkWaits asked slot).1 := by
  unfold State.walkWaits
  split
  · next t heq => exact State.takeError_slicesOnly heq
  · exact h

theorem State.walkLeaf_slicesOnly (s : State) (die asid va : Nat) (kind : WalkKind) (slot : Nat) (big : Bool) (asker : Nat)
    (table : State → W64 → State × XResult) (htable : ∀ (s : State) e, s.slicesOnly (table s e).1) :
    s.slicesOnly (s.walkLeaf die asid va kind slot big asker table).1 := by
  have h := s.readLeaf_slicesOnly die slot (decide (kind = .write)) asker
  unfold State.walkLeaf
  split <;> rename_i heq <;> rw [heq] at h
  · exact State.walkWaits_slicesOnly h _
  · split
    · exact h
    · split
      · exact h
      · split
        · exact h.trans (htable _ _)
        · exact h

theorem State.walkFrom_slicesOnly (s : State) (die asid va : Nat) (kind : WalkKind) (asker level table : Nat) :
    s.slicesOnly (s.walkFrom die asid va kind asker level table).1 := by
  induction level generalizing s table with
  | zero => exact s.walkLeaf_slicesOnly _ _ _ _ _ _ _ _ fun s _ => .refl s
  | succ n ih =>
    rw [State.walkFrom]
    have h := s.readEntry_slicesOnly die (table + 16 * levelIndex (n + 1) va) asker
    split <;> rename_i heq <;> rw [heq] at h
    · exact State.walkWaits_slicesOnly h _
    · extract_lets down
      have hdown : ∀ (s : State) e, s.slicesOnly (down s e).1 := fun s e => ih s (pteFrame e)
      split
      · exact h
      · split
        · exact h.trans (State.walkLeaf_slicesOnly _ _ _ _ _ _ _ _ _ hdown)
        · split
          · exact h
          · exact h.trans (hdown _ _)

theorem State.walkFor_slicesOnly (s : State) (die asid : Nat) (va : W64) (kind : WalkKind) (asker : Nat) :
    s.slicesOnly (s.walkFor die asid va kind asker).1 := by
  unfold State.walkFor
  split
  · rfl
  · split
    · rfl
    · split
      · rfl
      · next root _ _ _ =>
        have h := s.walkFrom_slicesOnly die asid (vaNat va) kind asker 3 root
        split <;> rename_i heq
        · rw [heq] at h
          exact h.trans (.of_dies rfl rfl)
        · exact h

theorem State.walk_slicesOnly (s : State) (die asid : Nat) (va : W64) (kind : WalkKind) : s.slicesOnly (s.walk die asid va kind).1 :=
  s.walkFor_slicesOnly _ _ _ _ _

end Sys2Proof.Machine
end
section
/-! PROOFS. The graph walkers, step by step (R19 to R24, R343 to R349): what the reads of a step leave alone, what each node does once its words are there,
and the grids that a launch starts. -/

namespace Sys2Proof.Machine

/-! ## Reads of a step (R345) -/

theorem State.walkerRead_slicesOnly (s : State) (die asid : Nat) (va : W64) (n : Nat) : s.slicesOnly (s.walkerRead die asid va n).1 := by
  induction n generalizing s va with
  | zero => rfl
  | succ n ih =>
    rw [State.walkerRead]
    have h := s.walk_slicesOnly die asid va .read
    split <;> rename_i heq <;> rw [heq] at h
    · exact h
    · exact h
    · exact h
    · next walked e =>
      have h' := h.trans (State.readWord_slicesOnly walked die (e.phys (vaNat va)))
      split <;> rename_i heq' <;> rw [heq'] at h'
      · split
        · next u heq'' => exact h.trans (State.takeError_slicesOnly heq'')
        · exact h'
      · exact h'
      · have h'' := h'.trans (ih _ (va + 8#64))
        split
        · next heq'' =>
          rw [heq''] at h''
          exact h''
        · exact h''

/-- A state differs from another at most in what the reads of a step of a queue's invocation may change, as far as the walker looks: every queue stands as
before, and the invocation has only noted words that it has read. -/
structure State.readsOnly (q : Nat) (s t : State) : Prop where
  queues : t.queues = s.queues
  inv : ∀ v, s.invs.find q = some v → ∃ rs, t.invs.find q = some { v with reads := rs }

theorem State.slicesOnly.readsOnly {s t : State} (h : s.slicesOnly t) (q : Nat) : s.readsOnly q t :=
  ⟨h.queues, fun v hv => ⟨v.reads, by rw [h.invs, hv]⟩⟩

theorem State.readsOnly.trans {q : Nat} {s t u : State} (h : s.readsOnly q t) (h' : t.readsOnly q u) : s.readsOnly q u where
  queues := h'.queues.trans h.queues
  inv v hv := by
    obtain ⟨rs, hr⟩ := h.inv v hv
    obtain ⟨rs', hr'⟩ := h'.inv _ hr
    exact ⟨rs', hr'⟩

theorem State.readsOnly.queue {q : Nat} {s t : State} (h : s.readsOnly q t) (j : Nat) : t.queue j = s.queue j := by simp [State.queue, h.queues]

@[simp] theorem State.invs_updInv (s : State) (q : Nat) (f : Invocation → Invocation) : (s.updInv q f).invs.find q = (s.invs.find q).map f := by
  simp [State.updInv]

theorem State.stepRead_readsOnly (s : State) (q asid : Nat) (va : W64) (n : Nat) : s.readsOnly q (s.stepRead q asid va n).1 := by
  induction n generalizing s va with
  | zero => exact (State.slicesOnly.refl s).readsOnly q
  | succ n ih =>
    rw [State.stepRead]
    split
    next read r heq =>
    have hfirst : s.readsOnly q read := by
      split at heq
      · cases heq
        exact (State.slicesOnly.refl s).readsOnly q
      · have h := s.walkerRead_slicesOnly (q / Config.queuesPerDie) asid va 1
        rw [heq] at h
        exact h.readsOnly q
    split
    · next w _ _ =>
      extract_lets known note noted
      have hnoted : read.readsOnly q noted :=
        ⟨rfl, fun v hv => ⟨(note v).reads, by
          simp only [noted, KMap.find_alter_same, hv, Option.map_some, note]
          split <;> rfl⟩⟩
      have h := (hfirst.trans hnoted).trans (ih noted (va + 8#64))
      split
      · next heq' =>
        rw [heq'] at h
        exact h
      · exact h
    · exact hfirst

/-- The half of an 8-byte word that an address names (R345). -/
def wordHalf (va x : W64) : Nat := if va.toNat / 4 % 2 = 1 then x.toNat / 2 ^ 32 else x.toNat % 2 ^ 32

theorem halfAt_singleton (va x : W64) : halfAt va [x] = wordHalf va x := by
  have hbit : va.getLsbD 2 = decide (va.toNat / 4 % 2 = 1) := by
    simp [BitVec.getLsbD, Nat.testBit_eq_decide_div_mod_eq]
  have hx := x.isLt
  simp only [halfAt, wordHalf, nth, hbit, decide_eq_true_eq]
  split
  · simp [Nat.shiftRight_eq_div_pow]; omega
  · simp

/-- A step reads the 8-byte word that holds an address. -/
def State.reads8 (q : Nat) (s t : State) (asid : Nat) (va x : W64) : Prop := s.stepRead q asid (va &&& ~~~7#64) 1 = (t, .words [x])

theorem State.nodeWord_of_reads8 {s t : State} {q asid : Nat} {va x : W64} (h : State.reads8 q s t asid va x) (k : State → Nat → State) :
    s.nodeWord q asid va k = k t (wordHalf va x) := by
  simp only [State.nodeWord, show s.stepRead q asid (va &&& ~~~7#64) 1 = (t, .words [x]) from h, State.afterRead, halfAt_singleton]

theorem State.readsOnly_of_read {s t : State} {q asid : Nat} {va : W64} {n : Nat} {r : WalkRead} (h : s.stepRead q asid va n = (t, r)) : s.readsOnly q t := by
  have hr := s.stepRead_readsOnly q asid va n
  rwa [h] at hr

theorem State.served_readsOnly (s : State) (q j : Nat) : s.readsOnly j (s.served q) := ⟨rfl, fun v hv => ⟨v.reads, hv⟩⟩

/-! ## A node acts (R345, R346) -/

/-- The invocation of a step that reads its node: NODES is that of the first node (R365). -/
def Invocation.atNodes (v : Invocation) (n : Nat) : Invocation := { v with nodes := if v.node = 0 then field n 4 4 else v.nodes }

theorem State.nodeStep_acts {s s1 : State} {q kind : Nat} {v : Invocation} {ws : List W64} (hv : s.invs.find q = some v) (hst : v.st = .atNode)
    (hmay : s.walkerMay q = true) (hsteps : v.steps < 2 ^ 20)
    (hread : s.stepRead q (s.queue q).asid (BitVec.ofNat 64 (v.graph + 64 * v.node)) 8 = (s1, .words ws)) (hok : nodeOk v (natOfWords ws) = true)
    (hkind : field (natOfWords ws) 0 1 = kind) (act : State → Invocation → Nat → State) :
    s.nodeStep q kind act = act (s1.served q) (v.atNodes (natOfWords ws)) (natOfWords ws) := by
  have hlt : ¬ Config.nodeSteps ≤ v.steps := by simpa [Config.nodeSteps] using hsteps
  simp [State.nodeStep, hv, hst, hmay, hlt, hread, hok, hkind, Invocation.atNodes]

/-- What a step leaves of its invocation: it stands as given at a node, the step counts, and the words it read are forgotten. -/
def Invocation.steppedTo (v : Invocation) (st : InvState) (node : Nat) : Invocation :=
  { v with st := st, node := node, steps := v.steps + 1, reads := [] }

theorem State.find_stepped {s : State} {q n : Nat} {v : Invocation} {rs : List (Nat × W64 × W64)} (h : s.invs.find q = some { v with reads := rs })
    (st : InvState) (node : Nat) : (s.stepped q (v.atNodes n) st node).invs.find q = some ((v.atNodes n).steppedTo st node) := by
  simp [State.stepped, h, Invocation.steppedTo, Invocation.atNodes]

theorem State.find_toNode {s : State} {q n : Nat} {v : Invocation} {rs : List (Nat × W64 × W64)} (h : s.invs.find q = some { v with reads := rs })
    (hst : v.st = .atNode) (node : Nat) :
    (s.toNode q (v.atNodes n) node).invs.find q = some { v.atNodes n with steps := v.steps + 1, reads := [], node := node } := by
  rw [State.toNode, State.find_stepped h, Invocation.steppedTo, ← hst]
  rfl

/-! ## A launch record is read (R22, R24, R364) -/

/-- A step reads a launch record that keeps its limits, and the three count words that the record names: the launch they give. -/
structure State.readsLaunch (q : Nat) (v : Invocation) (va : W64) (s t : State) (l : Launch) : Prop where
  read : ∃ s3 s4 s5 rs g b w, s.stepRead q (s.queue q).asid va 24 = (s3, .words rs) ∧ recordOk (natOfWords rs) = true ∧
    State.reads8 q s3 s4 (field (natOfWords rs) 0x79 1) (fieldAddr (natOfWords rs) 0x28) g ∧
    State.reads8 q s4 s5 (field (natOfWords rs) 0x79 1) (fieldAddr (natOfWords rs) 0x30) b ∧
    State.reads8 q s5 t (field (natOfWords rs) 0x79 1) (fieldAddr (natOfWords rs) 0x38) w ∧
    l = launchOf (natOfWords rs) v.args (wordHalf (fieldAddr (natOfWords rs) 0x28) g) (wordHalf (fieldAddr (natOfWords rs) 0x30) b)
      (wordHalf (fieldAddr (natOfWords rs) 0x38) w)

theorem State.readsLaunch.readsOnly {q : Nat} {v : Invocation} {va : W64} {s t : State} {l : Launch} (h : State.readsLaunch q v va s t l) : s.readsOnly q t := by
  obtain ⟨_, _, _, _, _, _, _, hr, -, hg, hb, hw, -⟩ := h.read
  exact (((readsOnly_of_read hr).trans (readsOnly_of_read hg)).trans (readsOnly_of_read hb)).trans (readsOnly_of_read hw)

theorem State.readsLaunch.eq {q : Nat} {v : Invocation} {va : W64} {s t : State} {l : Launch} (h : State.readsLaunch q v va s t l)
    (hl : l.redundant = true → l.gangs ≤ 8) (k : State → Launch → State) : s.readLaunch q v va k = k t l := by
  obtain ⟨_, _, _, _, _, _, _, hr, hok, hg, hb, hw, rfl⟩ := h.read
  simp only [State.readLaunch, hr, State.afterRead, hok, Bool.not_true, Bool.false_eq_true, if_false, State.nodeWord_of_reads8 hg,
    State.nodeWord_of_reads8 hb, State.nodeWord_of_reads8 hw]
  rw [if_neg fun ⟨hred, hgt⟩ => Nat.not_lt.mpr (hl hred) hgt]

/-! ## A grid starts (R20 to R23) -/

/-- The grid that a launch gives (R28). -/
def Launch.grid (l : Launch) (q vid : Nat) : Grid :=
  { queue := q, launch := l, vid := vid, dies := diesOf l.dieMask,
    remaining := if l.warps = 0 then 0 else (diesOf l.dieMask).length * l.gangs * l.gangBlocks, cores := [] }

/-- A span is handed to each die of a list in turn (R20, R21). -/
def State.handSpans (s : State) (id q : Nat) (xs : List (Nat × Nat)) : State :=
  xs.foldl (fun s x => s.updDie x.2 fun d => { d with disp := { d.disp with spans := d.disp.spans ++
    [{ grid := id, queue := q, index := x.1, next := 0, since := s.fabric, reserved := [], reported := false }] } }) s

theorem State.handSpans_frame (s : State) (id q : Nat) (xs : List (Nat × Nat)) : ({ s.handSpans id q xs with dies := s.dies } : State) = s := by
  induction xs generalizing s with
  | nil => rfl
  | cons x xs ih =>
    have h := ih (s.updDie x.2 fun d => { d with disp := { d.disp with spans := d.disp.spans ++
      [{ grid := id, queue := q, index := x.1, next := 0, since := s.fabric, reserved := [], reported := false }] } })
    exact (congrArg (fun t : State => ({ t with dies := s.dies } : State)) h).trans (s.updDie_frame x.2 _)

theorem State.fabric_eq_of_frame {s t : State} (h : ({ t with dies := s.dies } : State) = s) : t.fabric = s.fabric := by
  have hf := congrArg State.fabric h
  exact hf

theorem State.die_handSpans_other (s : State) (id q : Nat) (xs : List (Nat × Nat)) (d : Nat) (h : d ∉ xs.map Prod.snd) :
    (s.handSpans id q xs).die d = s.die d := by
  induction xs generalizing s with
  | nil => rfl
  | cons x xs ih =>
    simp only [List.map_cons, List.mem_cons, not_or] at h
    exact (ih _ h.2).trans (s.die_updDie_other _ h.1)

theorem State.spans_handSpans (s : State) (id q : Nat) (xs : List (Nat × Nat)) (hn : (xs.map Prod.snd).Nodup) (hlt : ∀ x ∈ xs, x.2 < 12) :
    ∀ x ∈ xs, ((s.handSpans id q xs).die x.2).disp.spans = (s.die x.2).disp.spans ++
      [{ grid := id, queue := q, index := x.1, next := 0, since := s.fabric, reserved := [], reported := false }] := by
  induction xs generalizing s with
  | nil => simp
  | cons y xs ih =>
    obtain ⟨hy, hn⟩ := List.nodup_cons.mp hn
    intro x hx
    rcases List.mem_cons.mp hx with rfl | hx
    · rw [State.handSpans, List.foldl_cons]
      refine (congrArg (fun d : Die => d.disp.spans) (State.die_handSpans_other _ id q xs x.2 hy)).trans ?_
      rw [s.die_updDie_same _ (hlt x (List.mem_cons_self ..))]
    · have hne : x.2 ≠ y.2 := fun h => hy (h ▸ List.mem_map_of_mem hx)
      have h := ih (s.updDie y.2 fun d => { d with disp := { d.disp with spans := d.disp.spans ++
        [{ grid := id, queue := q, index := y.1, next := 0, since := s.fabric, reserved := [], reported := false }] } }) hn
        (fun z hz => hlt z (List.mem_cons_of_mem _ hz)) x hx
      rw [s.die_updDie_other _ hne, State.fabric_eq_of_frame (s.updDie_frame y.2 _)] at h
      exact h

theorem mem_zip_range_nth (l : List Nat) {i : Nat} (h : i < l.length) : (i, nth l i 0) ∈ (List.range l.length).zip l := by
  rw [List.mem_iff_getElem]
  exact ⟨i, by simpa using h, by simp [nth, h]⟩

theorem diesOf_nodup (m : BitVec 12) : (diesOf m).Nodup := List.nodup_range.filter _

theorem State.startGrid_snd (s : State) (q : Nat) (l : Launch) (vid : Nat) : (s.startGrid q l vid).2 = s.nextGrid := rfl

theorem State.eq_of_dies_frame {s t : State} (h : ({ t with dies := s.dies } : State) = s) : t = { s with dies := t.dies } := by
  have hf := congrArg (fun u : State => ({ u with dies := t.dies } : State)) h
  exact hf

theorem State.startGrid_eq (s : State) (q : Nat) (l : Launch) (vid : Nat) : ∃ dies token,
    (s.startGrid q l vid).1 = { s with grids := s.grids.put s.nextGrid (l.grid q vid), nextGrid := s.nextGrid + 1, dies := dies, token := token } ∧
    (0 < (l.grid q vid).remaining → ∀ i < (diesOf l.dieMask).length, (nth dies (nth (diesOf l.dieMask) i 0) Die.reset).disp.spans =
      (s.die (nth (diesOf l.dieMask) i 0)).disp.spans ++
        [{ grid := s.nextGrid, queue := q, index := i, next := 0, since := s.fabric, reserved := [], reported := false }]) := by
  let s0 : State := { s with grids := s.grids.put s.nextGrid (l.grid q vid), nextGrid := s.nextGrid + 1 }
  let xs := (List.range (diesOf l.dieMask).length).zip (diesOf l.dieMask)
  let u : State := if (l.grid q vid).remaining = 0 then s0 else s0.handSpans s.nextGrid q xs
  have hu : u = { s0 with dies := u.dies } := by
    apply State.eq_of_dies_frame
    simp only [u]
    split
    · rfl
    · exact s0.handSpans_frame _ _ _
  refine ⟨u.dies, (if l.coresident ∧ (l.grid q vid).remaining ≠ 0 then s.token ++ [s.nextGrid] else s.token), ?_, fun hpos i hi => ?_⟩
  · have hstart : (s.startGrid q l vid).1 = if l.coresident ∧ (l.grid q vid).remaining ≠ 0 then { u with token := u.token ++ [s.nextGrid] } else u := rfl
    rw [hstart, hu]
    split <;> rfl
  · have hsnd : xs.map Prod.snd = diesOf l.dieMask := by simp [xs, List.map_snd_zip]
    have hmem := mem_zip_range_nth (diesOf l.dieMask) hi
    have h := s0.spans_handSpans s.nextGrid q xs (hsnd ▸ diesOf_nodup _)
      (fun x hx => by
        have : x.2 ∈ diesOf l.dieMask := hsnd ▸ List.mem_map_of_mem hx
        simp only [diesOf, List.mem_filter, List.mem_range] at this
        exact this.1) _ hmem
    simp only [u, if_neg (Nat.ne_of_gt hpos)]
    exact h

end Sys2Proof.Machine
end
section
/-! PROOFS. What each node of a graph does once its words are there (R346 to R349). -/

namespace Sys2Proof.Machine

/-- The node that an invocation stands at has been read and acts: the state it acts on, and its number. -/
structure State.actsAt (s u : State) (q kind n : Nat) (v : Invocation) : Prop where
  st : v.st = .atNode
  find : s.invs.find q = some v
  reads : s.readsOnly q u
  acts : ∀ act, s.nodeStep q kind act = act u (v.atNodes n) n

theorem State.actsAt_of_read {s s1 : State} {q kind : Nat} {v : Invocation} {ws : List W64} (hv : s.invs.find q = some v) (hst : v.st = .atNode)
    (hmay : s.walkerMay q = true) (hsteps : v.steps < 2 ^ 20)
    (hread : s.stepRead q (s.queue q).asid (BitVec.ofNat 64 (v.graph + 64 * v.node)) 8 = (s1, .words ws)) (hok : nodeOk v (natOfWords ws) = true)
    (hkind : field (natOfWords ws) 0 1 = kind) : s.actsAt (s1.served q) q kind (natOfWords ws) v :=
  ⟨hst, hv, (State.readsOnly_of_read hread).trans (s1.served_readsOnly q q), State.nodeStep_acts hv hst hmay hsteps hread hok hkind⟩

theorem State.actsAt.asid {s u : State} {q kind n : Nat} {v : Invocation} (h : s.actsAt u q kind n v) : (u.queue q).asid = (s.queue q).asid := by
  rw [h.reads.queue]

theorem State.actsAt.stands {s u t : State} {q kind n : Nat} {v : Invocation} (h : s.actsAt u q kind n v) (ht : u.readsOnly q t) :
    ∃ rs, t.invs.find q = some { v with reads := rs } := (h.reads.trans ht).inv v h.find

theorem launchNode_hands {s u t : State} {q n : Nat} {v : Invocation} {l : Launch} (h : s.actsAt u q 1 n v)
    (hl : State.readsLaunch q (v.atNodes n) (fieldAddr n 8) u t l) (hred : l.redundant = true → l.gangs ≤ 8) :
    ∃ t', exec (.launchNode q) s = .next t' ∧
      t'.invs.find q = some { (v.atNodes n).steppedTo (.waitGrids [t.nextGrid]) v.node with next := field n 16 4 } ∧ t'.nextGrid = t.nextGrid + 1 ∧
      t'.grids.find t.nextGrid = some (l.grid q 0) ∧
      (0 < (l.grid q 0).remaining → ∀ i < (diesOf l.dieMask).length, (t'.die (nth (diesOf l.dieMask) i 0)).disp.spans =
        (t.die (nth (diesOf l.dieMask) i 0)).disp.spans ++
          [{ grid := t.nextGrid, queue := q, index := i, next := 0, since := t.fabric, reserved := [], reported := false }]) := by
  obtain ⟨rs, hrs⟩ := h.stands hl.readsOnly
  obtain ⟨dies, token, hgrid, hspans⟩ := t.startGrid_eq q l 0
  have hx : exec (.launchNode q) s = .next (((t.startGrid q l 0).1.stepped q (v.atNodes n) (.waitGrids [t.nextGrid]) v.node).updInv q fun v =>
      { v with next := field n 16 4 }) := by
    change execLaunchNode q s = _
    rw [execLaunchNode, h.acts, hl.eq hred]
    rfl
  refine ⟨_, hx, ?_⟩
  simp only [hgrid]
  refine ⟨?_, rfl, ?_, hspans⟩
  · exact (State.invs_updInv ..).trans (congrArg (Option.map _) (State.find_stepped (rs := rs) hrs _ _))
  · exact KMap.find_put_same _ _ _

theorem conditionalNode_chooses {s u t : State} {q n : Nat} {v : Invocation} {w : W64} (h : s.actsAt u q 2 n v)
    (hw : State.reads8 q u t (s.queue q).asid (fieldAddr n 8) w) :
    ∃ t', exec (.conditionalNode q) s = .next t' ∧ t'.invs.find q = some
      { v.atNodes n with steps := v.steps + 1, reads := [], node := if wordHalf (fieldAddr n 8) w ≠ 0 then field n 16 4 else field n 20 4 } := by
  obtain ⟨rs, hrs⟩ := h.stands (State.readsOnly_of_read hw)
  have hx : exec (.conditionalNode q) s = .next (t.toNode q (v.atNodes n) (if wordHalf (fieldAddr n 8) w ≠ 0 then field n 16 4 else field n 20 4)) := by
    change execConditionalNode q s = _
    rw [execConditionalNode, h.acts, h.asid, State.nodeWord_of_reads8 hw]
  exact ⟨_, hx, State.find_toNode hrs h.st _⟩

theorem whileNode_chooses {s u t : State} {q n : Nat} {v : Invocation} {w : W64} (h : s.actsAt u q 3 n v)
    (hw : State.reads8 q u t (s.queue q).asid (fieldAddr n 8) w) :
    (wordHalf (fieldAddr n 8) w ≠ 0 ∧ (v.iters.find v.node).getD 0 < field n 24 2 → ∃ t', exec (.whileNode q) s = .next t' ∧ t'.invs.find q = some
      { v.atNodes n with steps := v.steps + 1, reads := [], node := field n 16 4, iters := v.iters.put v.node ((v.iters.find v.node).getD 0 + 1) }) ∧
    (¬ (wordHalf (fieldAddr n 8) w ≠ 0 ∧ (v.iters.find v.node).getD 0 < field n 24 2) → ∃ t', exec (.whileNode q) s = .next t' ∧ t'.invs.find q = some
      { v.atNodes n with steps := v.steps + 1, reads := [], node := field n 20 4, iters := v.iters.put v.node 0 }) := by
  obtain ⟨rs, hrs⟩ := h.stands (State.readsOnly_of_read hw)
  have hx : exec (.whileNode q) s = .next (if wordHalf (fieldAddr n 8) w ≠ 0 ∧ (v.iters.find v.node).getD 0 < field n 24 2 then
      (t.toNode q (v.atNodes n) (field n 16 4)).updInv q fun x => { x with iters := x.iters.put v.node ((v.iters.find v.node).getD 0 + 1) }
      else (t.toNode q (v.atNodes n) (field n 20 4)).updInv q fun x => { x with iters := x.iters.put v.node 0 }) := by
    change execWhileNode q s = _
    rw [execWhileNode, h.acts, h.asid, State.nodeWord_of_reads8 hw]
    rfl
  refine ⟨fun hagain => ⟨_, hx.trans (by rw [if_pos hagain]), ?_⟩, fun hagain => ⟨_, hx.trans (by rw [if_neg hagain]), ?_⟩⟩
  all_goals
    rw [State.invs_updInv, State.find_toNode hrs h.st]
    rfl

/-! ## A fork (R348) -/

/-- The width of a fork: the word read, up to the node's limit, up to the depth left below the parent. -/
def forkWidth (n w : Nat) (e : VEntry) : Nat :=
  if field n 41 1 = 1 then min (min w (field n 40 1)) (Config.versionDepth - e.depth) else if e.depth = Config.versionDepth then 0 else min w (field n 40 1)

theorem forkNode_asks {s u t t' : State} {q n : Nat} {v : Invocation} {l : Launch} {f : W64} (h : s.actsAt u q 4 n v)
    (hl : State.readsLaunch q (v.atNodes n) (fieldAddr n 8) u t l) (hred : l.redundant = false)
    (hf : State.reads8 q t t' (s.queue q).asid (fieldAddr n 24) f)
    (hparent : field n 42 1 = 0 ∨ (((t'.domain l.domain).entry (field n 42 1)).st = .live ∧ ((t'.domain l.domain).entry (field n 42 1)).isPair = false)) :
    let width := forkWidth n (wordHalf (fieldAddr n 24) f) ((t'.domain l.domain).entry (field n 42 1))
    let here := t'.coordinator l.domain = none
    ∃ t'', exec (.forkNode q) s = .next t'' ∧ t''.invs.find q = some
      { (v.atNodes n).steppedTo
          (if width = 0 ∧ here then .atNode else .waitVids width (field n 42 1) (decide (field n 41 1 = 1)) l (field n 32 8) l.params)
          (if width = 0 ∧ here then field n 16 4 else v.node) with
        next := field n 16 4
        forkDomain := if here then v.forkDomain.put l.domain (t'.domain l.domain).resolveCount else v.forkDomain.del l.domain
        forkVids := v.forkVids.put l.domain [] } := by
  intro width here
  obtain ⟨rs, hrs⟩ := h.stands (hl.readsOnly.trans (State.readsOnly_of_read hf))
  have hx : exec (.forkNode q) s = .next
      ((t'.stepped q (v.atNodes n)
        (if width = 0 ∧ here then .atNode else .waitVids width (field n 42 1) (decide (field n 41 1 = 1)) l (field n 32 8) l.params)
        (if width = 0 ∧ here then field n 16 4 else v.node)).updInv q fun x =>
      { x with
        next := field n 16 4
        forkDomain := if here then x.forkDomain.put l.domain (t'.domain l.domain).resolveCount else x.forkDomain.del l.domain
        forkVids := x.forkVids.put l.domain [] }) := by
    change execForkNode q s = _
    rw [execForkNode, h.acts, hl.eq (by simp [hred])]
    have hasid : (t.queue q).asid = (s.queue q).asid := by rw [(h.reads.trans hl.readsOnly).queue]
    have hbad : ¬ (field n 42 1 ≠ 0 ∧ (((t'.domain l.domain).entry (field n 42 1)).st ≠ .live ∨ ((t'.domain l.domain).entry (field n 42 1)).isPair = true)) := by
      rintro ⟨h0, h1 | h1⟩ <;> rcases hparent with hp | ⟨hp1, hp2⟩ <;> simp_all
    simp only [hred, Bool.false_eq_true, if_false, hasid, State.nodeWord_of_reads8 hf, decide_eq_true_eq, if_neg hbad]
    simp only [width, here, forkWidth, Bool.and_eq_true, decide_eq_true_eq, Option.isNone_iff_eq_none]
    rfl
  refine ⟨_, hx, ?_⟩
  rw [State.invs_updInv, State.find_stepped hrs]
  rfl

end Sys2Proof.Machine
end
section
/-! PROOFS. The nodes and events of a walker that wait, and the end of an invocation (R344, R346, R348, R349). -/

namespace Sys2Proof.Machine

/-! ## A resolve-wait (R349) -/

/-- The resolve count of a domain has moved since it had a value, as the walker's package knows it (R349, R452). -/
def State.hasMoved (s : State) (d : Nat) (count : W32) : Prop :=
  (s.domain d).resolveCount ≠ count ∧ (s.coordinator d ≠ none → ((s.domain d).resolveCount - count).toNat < 2 ^ 31)

theorem State.resolvedSince_iff (s : State) (d : Nat) (count : W32) : s.resolvedSince d count = true ↔ s.hasMoved d count := by
  cases h : s.coordinator d <;> simp [State.resolvedSince, State.hasMoved, h]

theorem State.resolvedSince_eq_false_iff (s : State) (d : Nat) (count : W32) : s.resolvedSince d count = false ↔ ¬ s.hasMoved d count := by
  rw [← s.resolvedSince_iff, Bool.not_eq_true]

theorem execResolveWaitNode_of_atNode {s u : State} {q n : Nat} {v : Invocation} (h : s.actsAt u q 5 n v) :
    exec (.resolveWaitNode q) s = .next (match v.forkDomain.find (field n 8 1) with
      | none => u.toNode q (v.atNodes n) (field n 16 4)
      | some count => if u.resolvedSince (field n 8 1) count then u.toNode q (v.atNodes n) (field n 16 4)
        else (u.stepped q (v.atNodes n) (.waitResolve (field n 8 1) u.fabric (field n 24 8)) v.node).updInv q fun x => { x with next := field n 16 4 }) := by
  change execResolveWaitNode q s = _
  simp only [execResolveWaitNode, h.find, h.st, h.acts]
  rfl

theorem resolveWaitNode_goesOn {s u : State} {q n : Nat} {v : Invocation} (h : s.actsAt u q 5 n v)
    (hmoved : v.forkDomain.find (field n 8 1) = none ∨ ∃ count, v.forkDomain.find (field n 8 1) = some count ∧ u.hasMoved (field n 8 1) count) :
    ∃ t, exec (.resolveWaitNode q) s = .next t ∧ t.invs.find q =
      some { v.atNodes n with steps := v.steps + 1, reads := [], node := field n 16 4 } := by
  obtain ⟨rs, hrs⟩ := h.reads.inv v h.find
  refine ⟨u.toNode q (v.atNodes n) (field n 16 4), (execResolveWaitNode_of_atNode h).trans ?_, State.find_toNode hrs h.st _⟩
  obtain hnone | ⟨count, hsome, hmoved⟩ := hmoved
  · simp only [hnone]
  · simp only [hsome, (u.resolvedSince_iff _ _).mpr hmoved, if_true]

theorem resolveWaitNode_waits {s u : State} {q n : Nat} {v : Invocation} {count : W32} (h : s.actsAt u q 5 n v)
    (hsome : v.forkDomain.find (field n 8 1) = some count) (hmoved : ¬ u.hasMoved (field n 8 1) count) :
    ∃ t, exec (.resolveWaitNode q) s = .next t ∧ t.invs.find q =
      some { (v.atNodes n).steppedTo (.waitResolve (field n 8 1) u.fabric (field n 24 8)) v.node with next := field n 16 4 } := by
  obtain ⟨rs, hrs⟩ := h.reads.inv v h.find
  refine ⟨(u.stepped q (v.atNodes n) (.waitResolve (field n 8 1) u.fabric (field n 24 8)) v.node).updInv q fun x => { x with next := field n 16 4 },
    (execResolveWaitNode_of_atNode h).trans ?_, (State.invs_updInv ..).trans (congrArg (Option.map _) (State.find_stepped hrs _ _))⟩
  simp only [hsome, (u.resolvedSince_eq_false_iff _ _).mpr hmoved, Bool.false_eq_true, if_false]

/-- The invocation of a queue waits for the resolve count of a domain to move (R349). -/
structure State.waitsResolve (s : State) (q dom start limit : Nat) (v : Invocation) : Prop where
  find : s.invs.find q = some v
  st : v.st = .waitResolve dom start limit

/-- The count that the fork of an invocation noted of a domain (R348). -/
def Invocation.noted (v : Invocation) (dom : Nat) : W32 := (v.forkDomain.find dom).getD 0#32

theorem resolveWaitNode_ends {s : State} {q dom start limit : Nat} {v : Invocation} (h : s.waitsResolve q dom start limit v)
    (hmoved : s.hasMoved dom (v.noted dom)) :
    exec (.resolveWaitNode q) s = .next (s.updInv q fun x => { x with st := .atNode, node := x.next }) := by
  change execResolveWaitNode q s = _
  simp only [execResolveWaitNode, h.find, h.st, show s.resolvedSince dom ((v.forkDomain.find dom).getD 0#32) = true from (s.resolvedSince_iff _ _).mpr hmoved]
  rfl

theorem resolveWaitNode_stays {s : State} {q dom start limit : Nat} {v : Invocation} (h : s.waitsResolve q dom start limit v)
    (hmoved : ¬ s.hasMoved dom (v.noted dom)) : exec (.resolveWaitNode q) s = .next s := by
  change execResolveWaitNode q s = _
  simp only [execResolveWaitNode, h.find, h.st,
    show s.resolvedSince dom ((v.forkDomain.find dom).getD 0#32) = false from (s.resolvedSince_eq_false_iff _ _).mpr hmoved]
  rfl

theorem resolveWaitTimeout_stays {s : State} {q dom start limit : Nat} {v : Invocation} (h : s.waitsResolve q dom start limit v)
    (hmoved : s.hasMoved dom (v.noted dom) ∨ limit = 0 ∨ s.fabric < start + limit) : exec (.resolveWaitTimeout q) s = .next s := by
  change execResolveWaitTimeout q s = _
  simp only [execResolveWaitTimeout, h.find, h.st]
  rw [if_pos]
  rw [s.resolvedSince_iff]
  simp only [Invocation.noted] at hmoved
  tauto

/-- What a walker asks of the Couch for a VID of a fork whose time is over (R349). -/
def walkerSquash (q dom u : Nat) : Resolve :=
  { source := .walker q, ofDomain := 0, ofVid := 0, domain := dom, target := u, proposed := 0, squash := true, status := none, notice := 0, dst := 0,
    taint := false, asked := none }

/-- The live VIDs of a fork that hang from none of them (R349). -/
def State.liveRoots (s : State) (dom : Nat) (vids : List Nat) : List Nat :=
  vids.filter fun u => decide (((s.domain dom).entry u).st = .live) && !vids.contains ((s.domain dom).entry u).parent

theorem State.mem_liveRoots (s : State) (dom : Nat) (vids : List Nat) (u : Nat) :
    u ∈ s.liveRoots dom vids ↔ u ∈ vids ∧ ((s.domain dom).entry u).st = .live ∧ ((s.domain dom).entry u).parent ∉ vids := by
  simp [State.liveRoots]

theorem resolveWaitTimeout_squashes {s : State} {q dom start limit : Nat} {v : Invocation} (h : s.waitsResolve q dom start limit v)
    (hmoved : ¬ s.hasMoved dom (v.noted dom)) (hlimit : limit ≠ 0) (hover : start + limit ≤ s.fabric) :
    ∃ t, exec (.resolveWaitTimeout q) s = .next t ∧
      t.resolves = s.resolves ++ (s.liveRoots dom ((v.forkVids.find dom).getD [])).map (walkerSquash q dom) ∧
      t.invs.find q = some { v with st := .waitSquash dom, status := if v.status = 0 then 5 else v.status } := by
  have hx : exec (.resolveWaitTimeout q) s = .next ((State.setStatus
      { s with resolves := s.resolves ++ (s.liveRoots dom ((v.forkVids.find dom).getD [])).map (walkerSquash q dom) } q 0x05).updInv q
        fun x => { x with st := .waitSquash dom }) := by
    change execResolveWaitTimeout q s = _
    simp only [execResolveWaitTimeout, h.find, h.st]
    rw [if_neg]
    · rfl
    · rw [s.resolvedSince_iff]
      rintro (h0 | h1 | h2)
      · exact hlimit h0
      · omega
      · exact hmoved h2
  refine ⟨_, hx, rfl, ?_⟩
  rw [State.invs_updInv, State.setStatus, KMap.find_alter_same, h.find]
  rfl

theorem resolveWaitNode_afterSquash {s : State} {q dom : Nat} {v : Invocation} (hv : s.invs.find q = some v) (hst : v.st = .waitSquash dom)
    (hdone : ∀ r ∈ s.resolves, r.source ≠ .walker q) :
    ∃ t, exec (.resolveWaitNode q) s = .next t ∧ t.invs.find q = some { v with st := .atNode, node := v.next } := by
  have hsq : s.squashing q = false := by
    simpa [State.squashing] using hdone
  refine ⟨s.updInv q fun x => { x with st := .atNode, node := x.next }, ?_, by rw [State.invs_updInv, hv]; rfl⟩
  change execResolveWaitNode q s = _
  simp only [execResolveWaitNode, hv, hst, hsq]
  rfl

theorem walkerReadRetry_goesOn {s s1 : State} {q asid page : Nat} {v : Invocation} {e : TlbEntry} (hv : s.invs.find q = some v)
    (hst : v.st = .waitPage asid page false) (hwalk : s.walk (q / 1536) asid (BitVec.ofNat 64 (page * 2 ^ 16)) .read = (s1, .resident e)) :
    ∃ t, exec (.walkerReadRetry q) s = .next t ∧ t.invs.find q = some { v with st := .atNode } := by
  have h1 : s1.invs.find q = some v := by
    have h := (s.walk_slicesOnly (q / 1536) asid (BitVec.ofNat 64 (page * 2 ^ 16)) .read).invs
    rw [hwalk] at h
    rw [h, hv]
  refine ⟨s1.updInv q fun v => { v with st := .atNode }, ?_, by rw [State.invs_updInv, h1]; rfl⟩
  change execWalkerReadRetry q s = _
  simp only [execWalkerReadRetry, hv, hst, queueDie, Config.queuesPerDie, hwalk]
  rfl

/-! ## The end of an invocation (R344) -/

theorem State.toHost_eq (s : State) (o : HostOut) : ∃ host, s.toHost o = { s with host := host } := by
  unfold State.toHost
  split
  · exact ⟨s.host, rfl⟩
  · exact ⟨_, rfl⟩

theorem State.toHost_out (s : State) (o : HostOut) : (s.toHost o).host.out = s.host.out ++ if s.stopped = false then [o] else [] := by
  unfold State.toHost
  cases s.stopped <;> simp

theorem State.find_closeInvocation (s : State) (q : Nat) (v : Invocation) : (s.closeInvocation q v).invs.find q = none := by
  simp [State.closeInvocation]

theorem State.closeInvocation_eq (s : State) (q : Nat) (v : Invocation) : ∃ host, s.closeInvocation q v = { s with host := host, invs := s.invs.del q } := by
  unfold State.closeInvocation
  split
  · obtain ⟨host, h⟩ := s.toHost_eq (.msix (s.queue q).vf (1 + q % 63))
    exact ⟨host, by rw [h]⟩
  · exact ⟨s.host, rfl⟩

theorem State.closeInvocation_out (s : State) (q : Nat) (v : Invocation) : (s.closeInvocation q v).host.out =
    s.host.out ++ if v.interrupt = true ∧ s.stopped = false then [.msix (s.queue q).vf (1 + q % 63)] else [] := by
  unfold State.closeInvocation
  cases v.interrupt
  · simp
  · simp [State.toHost_out]

theorem State.completeInvocation_unnotified {s : State} {q : Nat} {v : Invocation} (hv : s.invs.find q = some v) (hdone : v.done = 0) :
    s.completeInvocation q = s.closeInvocation q v := by
  simp only [State.completeInvocation, hv, hdone, if_true]

theorem nodeStepLimit_ends {s : State} {q : Nat} {v : Invocation} (hv : s.invs.find q = some v) (hst : v.st = .atNode) (hmay : s.walkerMay q = true)
    (hsteps : 2 ^ 20 ≤ v.steps) (hdone : v.done = 0) :
    ∃ t, exec (.nodeStepLimit q) s = .next t ∧ t.invs.find q = none ∧ t.mem = s.mem ∧ t.cores = s.cores := by
  have hle : Config.nodeSteps ≤ v.steps := hsteps
  have hset : ((s.served q).setStatus q 0x03).invs.find q = some { v with status := if v.status = 0 then 0x03 else v.status } := by
    simp [State.setStatus, State.served, hv]
  have hend : exec (.nodeStepLimit q) s = .next (((s.served q).setStatus q 0x03).completeInvocation q) := by
    change execNodeStepLimit q s = _
    simp only [execNodeStepLimit, hv, hst, hmay, hle, and_self, if_true]
    rfl
  rw [State.completeInvocation_unnotified hset hdone] at hend
  refine ⟨_, hend, State.find_closeInvocation _ _ _, ?_⟩
  obtain ⟨host, heq⟩ := ((s.served q).setStatus q 0x03).closeInvocation_eq q { v with status := if v.status = 0 then 0x03 else v.status }
  rw [heq]
  exact ⟨rfl, rfl⟩

theorem nodeStepLimit_notYet {s : State} {q : Nat} {v : Invocation} (hv : s.invs.find q = some v) (hsteps : v.steps < 2 ^ 20) :
    exec (.nodeStepLimit q) s = .next s := by
  have hlt : ¬ Config.nodeSteps ≤ v.steps := by simpa [Config.nodeSteps] using hsteps
  change execNodeStepLimit q s = _
  simp only [execNodeStepLimit, hv, hlt, and_false, if_false]

theorem execEndNode_eq {s u : State} {q n : Nat} {v : Invocation} (h : s.actsAt u q 6 n v) :
    exec (.endNode q) s = .next ((u.toNode q (v.atNodes n) v.node).completeInvocation q) := by
  change execEndNode q s = _
  rw [execEndNode, h.acts]
  rfl

theorem endNode_unnotified {s u : State} {q n : Nat} {v : Invocation} (h : s.actsAt u q 6 n v) (hdone : v.done = 0) :
    ∃ t, exec (.endNode q) s = .next t ∧ t.invs.find q = none ∧ t.queues = u.queues ∧
      t.host.out = u.host.out ++ (if v.interrupt = true ∧ u.stopped = false then [.msix (u.queue q).vf (1 + q % 63)] else []) := by
  obtain ⟨rs, hrs⟩ := h.reads.inv v h.find
  have hfind := State.find_toNode (n := n) hrs h.st v.node
  have hend := execEndNode_eq h
  rw [State.completeInvocation_unnotified hfind hdone] at hend
  refine ⟨_, hend, State.find_closeInvocation _ _ _, ?_, State.closeInvocation_out _ _ _⟩
  obtain ⟨host, heq⟩ := (u.toNode q (v.atNodes n) v.node).closeInvocation_eq q
    { v.atNodes n with steps := v.steps + 1, reads := [], node := v.node }
  rw [heq]
  rfl

end Sys2Proof.Machine
end
section
/-! PROOFS. The versions and grids of a fork, the records that a walker takes, and the completion of a grid (R19, R28, R343, R348). -/

namespace Sys2Proof.Machine

/-! ## The Couch of a domain without members takes versions (R348) -/

theorem KMap.alter_id {α : Type} (m : KMap α) (k : Nat) : (m.alter k fun v => v) = m := by
  induction m with
  | nil => rfl
  | cons x rest ih =>
    obtain ⟨j, v⟩ := x
    by_cases h : j = k <;> simp [KMap.alter, h, ih]

theorem State.updInv_id (s : State) (q : Nat) : (s.updInv q fun x => x) = s := by
  simp only [State.updInv, KMap.alter_id]

theorem State.memberPkgs_of_empty {s : State} {d : Nat} (h : (s.domain d).members = 0#32) : s.memberPkgs d = [] := by
  simp [State.memberPkgs, h]

theorem State.coordinator_of_empty {s : State} {d : Nat} (h : (s.domain d).members = 0#32) : s.coordinator d = none := by
  simp [State.coordinator, State.memberPkgs_of_empty h]

theorem State.tellMembers_of_empty {s : State} {d : Nat} (h : (s.domain d).members = 0#32) : s.tellMembers d [] [] = s := by
  simp [State.tellMembers, State.coordinator_of_empty h, State.memberPkgs_of_empty h]

theorem Domain.entry_fork_same (d : Domain) {v : Nat} (parent twin : Nat) (h : v ≠ 0) : ((d.fork v parent twin).entry v).st = .live := by
  simp [Domain.fork, Domain.entry, h]

theorem Domain.entry_fork_other (d : Domain) {v u : Nat} (parent twin : Nat) (h : u ≠ v) : (d.fork v parent twin).entry u = d.entry u := by
  simp [Domain.fork, Domain.entry, KMap.find_put_other _ _ _ _ h]

theorem Domain.members_forkAll (d : Domain) (parent : Nat) (chain : Bool) (vids : List Nat) : (d.forkAll parent chain vids).members = d.members := by
  induction vids generalizing d parent with
  | nil => rfl
  | cons u rest ih => exact ih _ _

theorem Domain.entry_forkAll_other (d : Domain) (parent : Nat) (chain : Bool) {vids : List Nat} {u : Nat} (h : u ∉ vids) :
    (d.forkAll parent chain vids).entry u = d.entry u := by
  induction vids generalizing d parent with
  | nil => rfl
  | cons w rest ih =>
    simp only [List.mem_cons, not_or] at h
    exact (ih _ _ h.2).trans (d.entry_fork_other _ _ h.1)

theorem Domain.entry_forkAll_live (d : Domain) (parent : Nat) (chain : Bool) {vids : List Nat} {u : Nat} (h : u ∈ vids) (h0 : u ≠ 0) :
    ((d.forkAll parent chain vids).entry u).st = .live := by
  induction vids generalizing d parent with
  | nil => simp at h
  | cons w rest ih =>
    by_cases hu : u ∈ rest
    · exact ih _ _ hu
    · obtain rfl : u = w := by simpa [hu] using h
      rw [Domain.forkAll, Domain.entry_forkAll_other _ _ _ hu]
      exact d.entry_fork_same _ _ h0

theorem Domain.ne_zero_of_mem_lowestFree {d : Domain} {n u : Nat} (h : u ∈ d.lowestFree n) : u ≠ 0 := by
  have h := (List.mem_filter.mp (List.mem_of_mem_take h)).2
  simp only [Bool.and_eq_true, decide_eq_true_eq] at h
  exact h.1

theorem State.askVids_few {s : State} {d n : Nat} (who parent : Nat) (chain : Bool) (hm : (s.domain d).members = 0#32)
    (hn : ((s.domain d).lowestFree n).length < n) : s.askVids d who n parent chain false = (s, none, none) := by
  simp [State.askVids, State.coordinator_of_empty hm, State.takeVids, hn]

theorem State.askVids_taken {s : State} {d n : Nat} (who parent : Nat) (chain : Bool) (hm : (s.domain d).members = 0#32)
    (hn : ((s.domain d).lowestFree n).length = n) : ∃ root, s.askVids d who n parent chain false =
      (s.updDomain d fun x => x.forkAll root chain ((s.domain d).lowestFree n), some ((s.domain d).lowestFree n), none) := by
  refine ⟨if ((s.domain d).entry parent).st = .live ∧ ((s.domain d).entry parent).twin = 0 then parent else 0, ?_⟩
  simp only [State.askVids, State.coordinator_of_empty hm, State.takeVids, if_neg (Nat.not_lt.mpr hn.ge), Bool.false_eq_true, if_false]
  rw [State.tellMembers_of_empty]
  rw [State.domain_updDomain_same, Domain.members_forkAll, hm]

/-! ## The grids of a fork (R348) -/

theorem nth_range' (a n i : Nat) (h : i < n) : nth (List.range' a n) i 0 = a + i := by
  simp [nth, h]

/-- The grid of the version `i` of a fork: its parameters lie `i` strides further. -/
def Launch.forked (l : Launch) (params : W64) (stride i : Nat) : Launch := { l with params := params + BitVec.ofNat 64 (i * stride) }

theorem State.forkGrids_spec (s : State) (q : Nat) (l : Launch) (stride : Nat) (params : W64) (vids : List Nat) (k : Nat) :
    ∃ t, s.forkGrids q l stride params vids k = (t, List.range' s.nextGrid vids.length) ∧ t.domains = s.domains ∧ t.invs = s.invs ∧
      (∀ j < s.nextGrid, t.grids.find j = s.grids.find j) ∧
      ∀ i < vids.length, t.grids.find (s.nextGrid + i) = some ((l.forked params stride (k + i)).grid q (nth vids i 0)) := by
  induction vids generalizing s k with
  | nil => exact ⟨s, rfl, rfl, rfl, fun _ _ => rfl, fun i hi => absurd hi (Nat.not_lt_zero i)⟩
  | cons u rest ih =>
    obtain ⟨dies, token, hgrid, -⟩ := s.startGrid_eq q (l.forked params stride k) u
    obtain ⟨t, ht, hdom, hinv, hold, hnew⟩ := ih (s.startGrid q (l.forked params stride k) u).1 (k + 1)
    have hnext : (s.startGrid q (l.forked params stride k) u).1.nextGrid = s.nextGrid + 1 := by rw [hgrid]
    rw [hnext] at ht hold hnew
    refine ⟨t, ?_, hdom.trans (by rw [hgrid]), hinv.trans (by rw [hgrid]), fun j hj => ?_, fun i hi => ?_⟩
    · rw [State.forkGrids]
      change (match (s.startGrid q (l.forked params stride k) u).1.forkGrids q l stride params rest (k + 1) with | (s', gs) => (s', s.nextGrid :: gs)) = _
      rw [ht]
      rfl
    · rw [hold j (by omega), hgrid]
      exact KMap.find_put_other _ _ _ _ (Nat.ne_of_lt hj)
    · cases i with
      | zero =>
        rw [Nat.add_zero, hold _ (Nat.lt_succ_self _), hgrid]
        exact KMap.find_put_same _ _ _
      | succ i =>
        have h := hnew i (by simpa using hi)
        rw [show s.nextGrid + (i + 1) = s.nextGrid + 1 + i by omega, h, show k + (i + 1) = k + 1 + i by omega]
        rfl

theorem forkVidsTaken_few {s : State} {q count parent stride : Nat} {chain : Bool} {l : Launch} {params : W64} {v : Invocation}
    (hv : s.invs.find q = some v) (hst : v.st = .waitVids count parent chain l stride params) (hm : (s.domain l.domain).members = 0#32)
    (hfew : ((s.domain l.domain).lowestFree count).length < count) : exec (.forkVidsTaken q) s = .next s := by
  change execForkVidsTaken q s = _
  simp only [execForkVidsTaken, hv, hst, State.askVids_few _ _ _ hm hfew, State.updInv_id]

theorem forkVidsTaken_starts {s : State} {q count parent stride : Nat} {chain : Bool} {l : Launch} {params : W64} {v : Invocation}
    (hv : s.invs.find q = some v) (hst : v.st = .waitVids count parent chain l stride params) (hm : (s.domain l.domain).members = 0#32)
    (hall : ((s.domain l.domain).lowestFree count).length = count) (hpos : 0 < count) :
    ∃ t gs, exec (.forkVidsTaken q) s = .next t ∧ gs.length = count ∧
      t.invs.find q = some { v with st := .waitGrids gs, forkVids := v.forkVids.put l.domain ((s.domain l.domain).lowestFree count) } ∧
      (∀ u ∈ (s.domain l.domain).lowestFree count, ((t.domain l.domain).entry u).st = .live) ∧
      (∀ u, u ∉ (s.domain l.domain).lowestFree count → (t.domain l.domain).entry u = (s.domain l.domain).entry u) ∧
      ∀ i < count, t.grids.find (nth gs i 0) =
        some ((l.forked params stride i).grid q (nth ((s.domain l.domain).lowestFree count) i 0)) := by
  obtain ⟨root, hask⟩ := State.askVids_taken q parent chain hm hall
  obtain ⟨t, ht, hdom, hinv, -, hgrids⟩ := (s.updDomain l.domain fun x => x.forkAll root chain ((s.domain l.domain).lowestFree count)).forkGrids_spec
    q l stride params ((s.domain l.domain).lowestFree count) 0
  rw [hall] at ht hgrids
  have hx : exec (.forkVidsTaken q) s = .next (t.updInv q fun x =>
      { x with st := .waitGrids (List.range' s.nextGrid count), forkVids := x.forkVids.put l.domain ((s.domain l.domain).lowestFree count) }) := by
    change execForkVidsTaken q s = _
    simp only [execForkVidsTaken, hv, hst, hask, State.updInv_id, if_neg (Nat.ne_of_gt hpos), ht]
    rfl
  have hent : t.domain l.domain = (s.domain l.domain).forkAll root chain ((s.domain l.domain).lowestFree count) := by
    rw [State.domain, hdom]
    exact s.domain_updDomain_same _ _
  refine ⟨_, List.range' s.nextGrid count, hx, List.length_range' .., ?_, fun u hu => ?_, fun u hu => ?_, fun i hi => ?_⟩
  · rw [State.invs_updInv, hinv]
    exact congrArg (Option.map _) hv
  · exact (congrArg (fun d : Domain => (d.entry u).st) hent).trans (Domain.entry_forkAll_live _ _ _ hu (Domain.ne_zero_of_mem_lowestFree hu))
  · exact (congrArg (fun d : Domain => d.entry u) hent).trans (Domain.entry_forkAll_other _ _ _ hu)
  · rw [nth_range' _ _ _ hi]
    exact (hgrids i hi).trans (by rw [Nat.zero_add])

/-! ## A record is taken (R343) -/

theorem State.walkerRead_keeps {s t : State} {die asid : Nat} {va : W64} {n : Nat} {r : WalkRead} (h : s.dropFar.walkerRead die asid va n = (t, r)) :
    t.queues = s.queues ∧ t.invs = s.invs := by
  have hs := s.dropFar.walkerRead_slicesOnly die asid va n
  rw [h] at hs
  exact ⟨hs.queues, hs.invs⟩

/-- The invocation that a record gives (R343). -/
def invocationOf (q head r : Nat) : Invocation :=
  { queue := q, record := head, graph := field r 0 8, args := fieldAddr r 8, done := field r 16 8, tag := BitVec.ofNat 32 (field r 0x18 4),
    interrupt := decide (field r 0x1C 2 = 1), node := 0, nodes := 0, next := 0, steps := 0, status := 0, iters := [], forkDomain := [],
    forkVids := [], reads := [], st := .atNode }

theorem walkerTakeRecord_begins {s s1 : State} {q : Nat} {ws : List W64} (hinv : s.invs.find q = none) (hon : (s.queue q).enable = true)
    (hhead : (s.queue q).head ≠ (s.queue q).tail)
    (hread : s.dropFar.walkerRead (q / 1536) (s.queue q).asid
      (BitVec.ofNat 64 ((s.queue q).base + 64 * ((s.queue q).head.toNat % 2 ^ (s.queue q).logn))) 8 = (s1, .words ws))
    (hint : field (natOfWords ws) 0x1C 2 < 2) (hzero : field (natOfWords ws) 0x1E 34 = 0) (hgraph : field (natOfWords ws) 0 8 % 64 = 0) :
    ∃ t, exec (.walkerTakeRecord q) s = .next t ∧ t.queue q = { s.queue q with head := (s.queue q).head + 1#32 } ∧
      (∀ j, j ≠ q → t.queue j = s.queue j) ∧ t.invs.find q = some (invocationOf q (s.queue q).head.toNat (natOfWords ws)) := by
  obtain ⟨hqueues, hinvs⟩ := State.walkerRead_keeps hread
  have hmod : decide (field (natOfWords ws) 0x1C 2 % 2 = 1) = decide (field (natOfWords ws) 0x1C 2 = 1) := by
    rw [Nat.mod_eq_of_lt hint]
  let s2 := (s1.updQueue q fun Q => { Q with head := Q.head + 1#32 }).updInv q id
  have hx : exec (.walkerTakeRecord q) s = .next { s2 with invs := s2.invs.put q (invocationOf q (s.queue q).head.toNat (natOfWords ws)) } := by
    change execWalkerTakeRecord q s = _
    simp only [execWalkerTakeRecord, State.takeRecord, hon, hhead, hinv, Bool.not_true, Bool.false_eq_true, Option.isSome_none, or_self, if_false,
      queueDie, Config.queuesPerDie, hread, hint, hzero, hgraph, and_self, if_true, hmod]
    rfl
  refine ⟨_, hx, ?_, fun j hj => ?_, KMap.find_put_same _ _ _⟩
  · simp [s2, State.queue, State.updQueue, State.updInv, hqueues]
  · simp [s2, State.queue, State.updQueue, State.updInv, hqueues, KMap.find_put_other _ _ _ _ hj]

/-! ## A grid completes (R28) -/

theorem State.gridDead_eq_false {s : State} {grid : Nat} {g : Grid} (hg : s.grids.find grid = some g) (hhalt : s.halts.find grid = none)
    (hbroke : ((s.domain g.launch.domain).entry g.vid).st ≠ .broke) : s.gridDead grid = false := by
  simp [State.gridDead, hg, hhalt, hbroke]

/-- A write of the blocks of a grid is still on its way (R28). -/
def State.writesOut (s : State) (g : Grid) : Prop := ∃ k ∈ g.cores, ∃ a < 19, s.updatesOut k a = true

/-- One grid of the node of an invocation has completed: it goes on once every grid of the node has (R28, R346). -/
def Invocation.gridDone (grid : Nat) (v : Invocation) : Invocation :=
  match v.st with
  | .waitGrids gs =>
    if (gs.filter fun x => x != grid).isEmpty then { v with st := .atNode, node := v.next } else { v with st := .waitGrids (gs.filter fun x => x != grid) }
  | _ => v

theorem execGridComplete_of_alive {s : State} {grid : Nat} {g : Grid} (hg : s.grids.find grid = some g) (hhalt : s.halts.find grid = none)
    (hbroke : ((s.domain g.launch.domain).entry g.vid).st ≠ .broke) (hred : g.launch.redundant = false) :
    exec (.gridComplete grid) s = .next (if decide (g.remaining ≠ 0) || (g.cores.any fun k => (List.range 19).any fun a => s.updatesOut k a) then s
      else State.updInv { s with grids := s.grids.del grid, token := setDel s.token grid } g.queue (Invocation.gridDone grid)) := by
  change execGridComplete grid s = _
  simp only [execGridComplete, hg, State.gridDead_eq_false hg hhalt hbroke, Bool.false_eq_true, if_false, hhalt, hred, Option.isSome_none,
    Bool.false_or, Bool.false_and, Bool.or_false, Option.map_some, Option.getD_some]
  rfl

theorem State.writesOut_iff (s : State) (g : Grid) : (g.cores.any fun k => (List.range 19).any fun a => s.updatesOut k a) = true ↔ s.writesOut g := by
  simp [State.writesOut]

theorem gridComplete_waits {s : State} {grid : Nat} {g : Grid} (hg : s.grids.find grid = some g) (hhalt : s.halts.find grid = none)
    (hbroke : ((s.domain g.launch.domain).entry g.vid).st ≠ .broke) (hred : g.launch.redundant = false) (hleft : g.remaining ≠ 0 ∨ s.writesOut g) :
    exec (.gridComplete grid) s = .next s := by
  rw [execGridComplete_of_alive hg hhalt hbroke hred, if_pos]
  rw [Bool.or_eq_true, decide_eq_true_eq, s.writesOut_iff]
  exact hleft

theorem gridComplete_ends {s : State} {grid : Nat} {g : Grid} (hg : s.grids.find grid = some g) (hhalt : s.halts.find grid = none)
    (hbroke : ((s.domain g.launch.domain).entry g.vid).st ≠ .broke) (hred : g.launch.redundant = false) (hleft : g.remaining = 0) (hout : ¬ s.writesOut g) :
    ∃ t, exec (.gridComplete grid) s = .next t ∧ t.grids.find grid = none ∧ t.cores = s.cores ∧ t.dies = s.dies ∧ t.mem = s.mem ∧
      ∀ v gs, s.invs.find g.queue = some v → v.st = .waitGrids gs → t.invs.find g.queue =
        some (if ∀ x ∈ gs, x = grid then { v with st := .atNode, node := v.next } else { v with st := .waitGrids (gs.filter fun x => x != grid) }) := by
  have hx := execGridComplete_of_alive hg hhalt hbroke hred
  rw [if_neg (by rw [Bool.or_eq_true, decide_eq_true_eq, s.writesOut_iff]; tauto)] at hx
  refine ⟨_, hx, KMap.find_del_same _ _, rfl, rfl, rfl, fun v gs hv hst => ?_⟩
  have hall : (gs.filter fun x => x != grid).isEmpty = true ↔ ∀ x ∈ gs, x = grid := by
    simp [List.isEmpty_iff, List.filter_eq_nil_iff]
  rw [State.invs_updInv, hv]
  simp only [Option.map_some, Invocation.gridDone, hst, hall]

end Sys2Proof.Machine
end
section
/-! PROOFS. One line of committed memory: masks of bytes bit by bit, the home line of a slice while its ways change, and what a write of an engine leaves
there once it is flushed (R277 to R279). -/

namespace Sys2Proof.Machine

/-! ## Masks of bytes -/

theorem testBit_byteSum (m : BitVec 128) (n j : Nat) :
    ((List.range n).foldl (fun acc i => if m.getLsbD i then acc + 255 * 2 ^ (8 * i) else acc) 0).testBit j = (decide (j < 8 * n) && m.getLsbD (j / 8)) ∧
    (List.range n).foldl (fun acc i => if m.getLsbD i then acc + 255 * 2 ^ (8 * i) else acc) 0 < 2 ^ (8 * n) := by
  induction n generalizing j with
  | zero => simp
  | succ n ih =>
    have hlt := (ih j).2
    have hpow : 2 ^ (8 * (n + 1)) = 256 * 2 ^ (8 * n) := by rw [Nat.mul_succ, Nat.pow_add]; omega
    rw [List.range_succ, List.foldl_append, List.foldl_cons, List.foldl_nil]
    generalize (List.range n).foldl (fun acc i => if m.getLsbD i then acc + 255 * 2 ^ (8 * i) else acc) 0 = a at ih hlt ⊢
    split
    next hm =>
      refine ⟨?_, by omega⟩
      rw [Nat.add_comm, Nat.mul_comm 255, Nat.testBit_two_pow_mul_add _ hlt, show 255 = 2 ^ 8 - 1 by rfl, Nat.testBit_two_pow_sub_one, (ih j).1]
      by_cases hj : j < 8 * n
      · simp [hj, show j < 8 * (n + 1) by omega]
      · by_cases hj' : j < 8 * (n + 1)
        · have hd : j / 8 = n := by omega
          simp [hj, hj', hd, hm, show j - 8 * n < 8 by omega]
        · simp [hj, hj', show ¬ j - 8 * n < 8 by omega]
    next hm =>
      refine ⟨?_, by omega⟩
      rw [(ih j).1]
      by_cases hj : j < 8 * n
      · simp [hj, show j < 8 * (n + 1) by omega]
      · by_cases hj' : j < 8 * (n + 1)
        · have hd : j / 8 = n := by omega
          simp [hj, hj', hd, hm]
        · simp [hj, hj']

theorem getLsbD_bitsOfBytes (m : BitVec 128) {i : Nat} (h : i < 1024) : (bitsOfBytes m).getLsbD i = m.getLsbD (i / 8) := by
  unfold bitsOfBytes
  split
  next h0 => simp [h0]
  next => rw [BitVec.getLsbD_ofNat, (testBit_byteSum m 128 i).1]; simp [h]

theorem getLsbD_putBytes (line new : BitVec 1024) (m : BitVec 128) {i : Nat} (h : i < 1024) :
    (putBytes line new m).getLsbD i = if m.getLsbD (i / 8) then new.getLsbD i else line.getLsbD i := by
  simp only [putBytes, BitVec.getLsbD_or, BitVec.getLsbD_and, BitVec.getLsbD_not, getLsbD_bitsOfBytes m h, h, decide_true, Bool.true_and]
  cases m.getLsbD (i / 8) <;> simp

theorem getLsbD_byteRange (off n : Nat) {i : Nat} (h : i < 128) : (byteRange off n).getLsbD i = decide (off ≤ i ∧ i < off + n) := by
  rw [byteRange, BitVec.getLsbD_ofNat, Nat.testBit_mul_two_pow, Nat.testBit_two_pow_sub_one, Bool.eq_iff_iff]
  simp [h]
  omega

theorem testBit_bitSum (p : Nat → Prop) [DecidablePred p] (n j : Nat) :
    ((List.range n).foldl (fun acc i => if p i then acc + 2 ^ i else acc) 0).testBit j = (decide (j < n) && decide (p j)) ∧
    (List.range n).foldl (fun acc i => if p i then acc + 2 ^ i else acc) 0 < 2 ^ n := by
  induction n with
  | zero => simp
  | succ n ih =>
    obtain ⟨hbit, hlt⟩ := ih
    rw [List.range_succ, List.foldl_append, List.foldl_cons, List.foldl_nil]
    generalize (List.range n).foldl (fun acc i => if p i then acc + 2 ^ i else acc) 0 = a at hbit hlt ⊢
    rcases Nat.lt_trichotomy j n with hj | rfl | hj
    · split
      · refine ⟨?_, by rw [Nat.pow_succ]; omega⟩
        rw [Nat.add_comm, Nat.testBit_two_pow_add_gt hj, hbit]
        simp [hj, Nat.lt_succ_of_lt hj]
      · exact ⟨by rw [hbit]; simp [hj, Nat.lt_succ_of_lt hj], by rw [Nat.pow_succ]; omega⟩
    · split
      next hp =>
        refine ⟨?_, by rw [Nat.pow_succ]; omega⟩
        rw [Nat.add_comm, Nat.testBit_two_pow_add_eq, hbit]
        simp [hp]
      next hp => exact ⟨by rw [hbit]; simp [hp], by rw [Nat.pow_succ]; omega⟩
    · have hlt' : (if p n then a + 2 ^ n else a) < 2 ^ (n + 1) := by
        rw [Nat.pow_succ]
        split <;> omega
      refine ⟨?_, hlt'⟩
      rw [Nat.testBit_lt_two_pow (hlt'.trans_le (Nat.pow_le_pow_right (by decide) hj))]
      simp [Nat.not_lt.mpr hj]

theorem getLsbD_sectorsOf (m : BitVec 128) {i : Nat} (h : i < 4) : (sectorsOf m).getLsbD i = decide (m.extractLsb' (32 * i) 32 ≠ 0#32) := by
  rw [sectorsOf, BitVec.getLsbD_ofNat, (testBit_bitSum (fun i => m.extractLsb' (32 * i) 32 ≠ 0#32) 4 i).1]
  simp [h]

/-- The sector of a byte that a mask names is one that the mask touches. -/
theorem getLsbD_sectorsOf_of_byte {m : BitVec 128} {i : Nat} (h : i < 128) (hm : m.getLsbD i = true) : (sectorsOf m).getLsbD (i / 32) = true := by
  rw [getLsbD_sectorsOf m (by omega), decide_eq_true_eq]
  intro h0
  have hb := congrArg (fun b : BitVec 32 => b.getLsbD (i % 32)) h0
  simp only [BitVec.getLsbD_extractLsb', BitVec.getLsbD_zero, show 32 * (i / 32) + i % 32 = i by omega, hm, Nat.mod_lt _ (show 32 > 0 by decide),
    decide_true, Bool.and_true] at hb
  exact absurd hb (by decide)

end Sys2Proof.Machine
end
section
/-! PROOFS. The home line of a slice while its ways change, and what an engine's write of an easy line leaves there once it is flushed (R277 to R279). -/

namespace Sys2Proof.Machine

/-! ## Maps in the order of their keys -/

theorem KMap.keys_alter {α : Type} (m : KMap α) (k : Nat) (f : α → α) : (m.alter k f).map Prod.fst = m.map Prod.fst := by
  induction m with
  | nil => rfl
  | cons x rest ih =>
    obtain ⟨j, v⟩ := x
    by_cases h : j = k <;> simp [KMap.alter, h, ih]

theorem KMap.mem_alter {α : Type} {m : KMap α} {k : Nat} {f : α → α} {x : Nat × α} (h : x ∈ m.alter k f) :
    x ∈ m ∨ ∃ v, (x.1, v) ∈ m ∧ x.2 = f v := by
  induction m with
  | nil => simp [KMap.alter] at h
  | cons y rest ih =>
    obtain ⟨j, v⟩ := y
    by_cases hj : j = k
    · simp only [KMap.alter, hj, if_true, List.mem_cons] at h
      rcases h with rfl | h
      · exact .inr ⟨v, by simp [hj], rfl⟩
      · exact .inl (List.mem_cons_of_mem _ h)
    · simp only [KMap.alter, hj, if_false, List.mem_cons] at h
      rcases h with rfl | h
      · exact .inl (List.mem_cons_self ..)
      · rcases ih h with h | ⟨w, hw, hx⟩
        · exact .inl (List.mem_cons_of_mem _ h)
        · exact .inr ⟨w, List.mem_cons_of_mem _ hw, hx⟩

theorem KMap.mem_put {α : Type} {m : KMap α} {k : Nat} {v : α} {x : Nat × α} (h : x ∈ m.put k v) : x = (k, v) ∨ x ∈ m := by
  induction m with
  | nil => simpa [KMap.put] using h
  | cons y rest ih =>
    obtain ⟨j, w⟩ := y
    simp only [KMap.put] at h
    split at h
    · rcases List.mem_cons.mp h with h | h
      · exact .inl h
      · exact .inr (List.mem_cons_of_mem _ h)
    · split at h
      · exact List.mem_cons.mp h
      · rcases List.mem_cons.mp h with h | h
        · exact .inr (h ▸ List.mem_cons_self ..)
        · exact (ih h).imp_right (List.mem_cons_of_mem _)

theorem KMap.mem_put_self {α : Type} (m : KMap α) (k : Nat) (v : α) : (k, v) ∈ m.put k v := by
  induction m with
  | nil => simp [KMap.put]
  | cons y rest ih =>
    obtain ⟨j, w⟩ := y
    simp only [KMap.put]
    split
    · exact List.mem_cons_self ..
    · split
      · exact List.mem_cons_self ..
      · exact List.mem_cons_of_mem _ ih

/-- The keys of a map stand in order, each once. -/
def KMap.sorted {α : Type} (m : KMap α) : Prop := (m.map Prod.fst).Pairwise (· < ·)

theorem KMap.sorted_alter {α : Type} {m : KMap α} (h : m.sorted) (k : Nat) (f : α → α) : (m.alter k f).sorted := by
  rw [KMap.sorted, KMap.keys_alter]
  exact h

theorem KMap.sorted_put {α : Type} {m : KMap α} (h : m.sorted) (k : Nat) (v : α) : (m.put k v).sorted := by
  induction m with
  | nil => simp [KMap.put, KMap.sorted]
  | cons y rest ih =>
    obtain ⟨j, w⟩ := y
    obtain ⟨hj, hrest⟩ := List.pairwise_cons.mp h
    simp only [KMap.put]
    split
    next hjk => exact List.pairwise_cons.mpr ⟨fun i hi => hjk ▸ hj i hi, hrest⟩
    next hjk =>
      split
      next hkj =>
        refine List.pairwise_cons.mpr ⟨fun i hi => ?_, h⟩
        rcases List.mem_cons.mp hi with rfl | hi
        · exact hkj
        · exact hkj.trans (hj i hi)
      next hkj =>
        refine List.pairwise_cons.mpr ⟨fun i hi => ?_, ih hrest⟩
        obtain ⟨x, hx, rfl⟩ := List.mem_map.mp hi
        rcases KMap.mem_put hx with rfl | hx
        · simp only at hkj ⊢
          omega
        · exact hj _ (List.mem_map_of_mem hx)

theorem KMap.find_of_mem {α : Type} {m : KMap α} (h : m.sorted) {k : Nat} {v : α} (hm : (k, v) ∈ m) : m.find k = some v := by
  induction m with
  | nil => simp at hm
  | cons y rest ih =>
    obtain ⟨j, w⟩ := y
    obtain ⟨hj, hrest⟩ := List.pairwise_cons.mp h
    rcases List.mem_cons.mp hm with heq | hm
    · cases heq
      simp [KMap.find]
    · have hlt := hj k (List.mem_map_of_mem hm)
      simp only [KMap.find, Nat.ne_of_lt hlt, if_false]
      exact ih hrest hm

theorem KMap.mem_of_find {α : Type} {m : KMap α} {k : Nat} {v : α} (h : m.find k = some v) : (k, v) ∈ m := by
  induction m with
  | nil => simp [KMap.find] at h
  | cons y rest ih =>
    obtain ⟨j, w⟩ := y
    simp only [KMap.find] at h
    split at h
    next hj => cases h; simp [hj]
    next => exact List.mem_cons_of_mem _ (ih h)

/-! ## The home line of a slice -/

/-- The ways of a slice stand in order, the home line of a line is found under a key, and no version has a copy of the line. -/
structure Slice.homeAt (sl : Slice) (set line key : Nat) (w : Way) : Prop where
  sorted : sl.ways.sorted
  homeLine : sl.homeLine set line = some (key, w)
  noCopy : sl.copies set line = []

theorem Slice.copies_eq_nil_iff (sl : Slice) (set line : Nat) : sl.copies set line = [] ↔
    (∀ x ∈ sl.ways, x.1 / 16 = set → x.2.line = line → ∀ d v, x.2.kind ≠ .copy d v) ∧ ∀ x ∈ sl.spill, x.2.line ≠ line := by
  simp only [Slice.copies, List.append_eq_nil_iff, List.filterMap_eq_nil_iff]
  refine and_congr (forall₂_congr fun x _ => ?_) (forall₂_congr fun x _ => ?_)
  · by_cases hx : x.1 / 16 = set ∧ x.2.line = line
    · simp only [hx, and_self, if_true]
      cases x.2.kind <;> simp
    · simp only [hx, if_false, true_iff]
      exact fun h1 h2 => absurd ⟨h1, h2⟩ hx
  · simp

theorem Slice.homeAt.find {sl : Slice} {set line key : Nat} {w : Way} (h : sl.homeAt set line key w) : sl.ways.find key = some w :=
  KMap.find_of_mem h.sorted (List.mem_of_find?_eq_some h.homeLine)

theorem Slice.homeAt.line_eq {sl : Slice} {set line key : Nat} {w : Way} (h : sl.homeAt set line key w) : w.line = line := by
  have hp := List.find?_some h.homeLine
  simp only [Bool.and_eq_true, decide_eq_true_eq] at hp
  exact hp.2.2

theorem KMap.find?_alter {α : Type} {m : KMap α} (hs : m.sorted) {p : Nat × α → Bool} {k : Nat} {v : α} (h : m.find? p = some (k, v)) (f : α → α)
    (hp : ∀ j w, p (j, f w) = p (j, w)) : (m.alter k f).find? p = some (k, f v) := by
  induction m with
  | nil => simp at h
  | cons y rest ih =>
    obtain ⟨j, w⟩ := y
    obtain ⟨hj, hrest⟩ := List.pairwise_cons.mp hs
    cases hy : p (j, w) with
    | true =>
      rw [List.find?_cons_of_pos hy] at h
      cases h
      rw [KMap.alter, if_pos rfl, List.find?_cons_of_pos (by rw [hp, hy])]
    | false =>
      rw [List.find?_cons_of_neg (by simp [hy])] at h
      have hlt := hj k (List.mem_map_of_mem (List.mem_of_find?_eq_some h))
      rw [KMap.alter, if_neg (Nat.ne_of_lt hlt), List.find?_cons_of_neg (by simp [hy])]
      exact ih hrest h

theorem Slice.homeAt.alter {sl : Slice} {set line key : Nat} {w : Way} (h : sl.homeAt set line key w) (f : Way → Way)
    (hkind : ∀ w, (f w).kind = w.kind) (hline : ∀ w, (f w).line = w.line) :
    ({ sl with ways := sl.ways.alter key f } : Slice).homeAt set line key (f w) where
  sorted := KMap.sorted_alter h.sorted _ _
  homeLine := KMap.find?_alter h.sorted h.homeLine f fun j w => by simp only [hkind, hline]
  noCopy := by
    have hc := (sl.copies_eq_nil_iff set line).mp h.noCopy
    refine (Slice.copies_eq_nil_iff _ _ _).mpr ⟨fun x hx h1 h2 d v => ?_, hc.2⟩
    rcases KMap.mem_alter hx with hx | ⟨u, hu, hxu⟩
    · exact hc.1 x hx h1 h2 d v
    · rw [hxu, hkind]
      exact hc.1 (x.1, u) hu h1 ((hline u).symm.trans (hxu ▸ h2)) d v

/-- The ways and the spilled copies of a slice stand as they stood. -/
theorem Slice.homeAt.of_ways {sl sl' : Slice} {set line key : Nat} {w : Way} (h : sl.homeAt set line key w) (hw : sl'.ways = sl.ways)
    (hs : sl'.spill = sl.spill) : sl'.homeAt set line key w where
  sorted := hw ▸ h.sorted
  homeLine := by
    rw [Slice.homeLine, Slice.findWay, hw]
    exact h.homeLine
  noCopy := by
    rw [Slice.copies, hw, hs]
    exact h.noCopy

theorem Slice.homeAt_put {sl : Slice} {set line key : Nat} {w : Way} (hs : sl.ways.sorted) (hnone : sl.homeLine set line = none)
    (hc : sl.copies set line = []) (hset : key / 16 = set) (hkind : w.kind = .home) (hline : w.line = line) :
    ({ sl with ways := sl.ways.put key w } : Slice).homeAt set line key w where
  sorted := KMap.sorted_put hs _ _
  homeLine := by
    have hself := KMap.mem_put_self sl.ways key w
    cases hf : ({ sl with ways := sl.ways.put key w } : Slice).homeLine set line with
    | none =>
      have := List.find?_eq_none.mp hf _ hself
      simp [hset, hkind, hline] at this
    | some x =>
      rcases KMap.mem_put (List.mem_of_find?_eq_some hf) with rfl | hx
      · rfl
      · exact absurd (List.find?_some hf) (List.find?_eq_none.mp hnone x hx)
  noCopy := by
    have hcopy := (sl.copies_eq_nil_iff set line).mp hc
    refine (Slice.copies_eq_nil_iff _ _ _).mpr ⟨fun x hx h1 h2 d v => ?_, hcopy.2⟩
    rcases KMap.mem_put hx with rfl | hx
    · rw [hkind]
      exact fun h => nomatch h
    · exact hcopy.1 x hx h1 h2 d v

end Sys2Proof.Machine
end
section
/-! PROOFS. What an engine's write of an easy line leaves in its home slice, and what is read there afterwards (R277 to R279). -/

namespace Sys2Proof.Machine

/-! ## Where a line of HBM lives -/

/-- A line of HBM: what its bytes share. -/
structure HbmLine (x y : Nat) : Prop where
  die : homeDie y = homeDie x
  slice : sliceOf y = sliceOf x
  set : setOf y = setOf x
  line : y / 128 = x / 128

theorem isHbm_iff {x : Nat} : isHbm x = true ↔ x / 2 ^ 37 < 12 ∧ x % 2 ^ 37 < 0x1800000000 := by
  rw [isHbm, Bool.and_eq_true, decide_eq_true_eq, decide_eq_true_eq]
  rfl

theorem not_far_of_isHbm {x : Nat} (h : isHbm x = true) : isPeer x = false ∧ isHost x = false := by
  have hx := (isHbm_iff.mp h).1
  have hp : ¬ peerBase ≤ x := by
    rw [show peerBase = 0x8000000000000 from rfl]
    omega
  have hh : ¬ hostBase ≤ x := by
    rw [show hostBase = 0x1000000000000 from rfl]
    omega
  exact ⟨by rw [isPeer, decide_eq_false hp, Bool.false_and], by rw [isHost, decide_eq_false hh, Bool.false_and]⟩

theorem homeDie_of_isHbm {x : Nat} (h : isHbm x = true) : homeDie x = x / 2 ^ 37 ∧ lineIndex x = x % 2 ^ 37 / 128 := by
  obtain ⟨hp, hh⟩ := not_far_of_isHbm h
  simp only [homeDie, lineIndex, hp, hh, Bool.or_self, Bool.false_eq_true, if_false, and_self]

theorem homeDie_lt_of_isHbm {x : Nat} (h : isHbm x = true) : homeDie x < 12 := by
  rw [(homeDie_of_isHbm h).1]
  exact (isHbm_iff.mp h).1

theorem hbmLine_of_line {x y : Nat} (h : isHbm x = true) (hl : y / 128 = x / 128) : isHbm y = true ∧ HbmLine x y := by
  have hy : isHbm y = true := by
    obtain ⟨h1, h2⟩ := isHbm_iff.mp h
    exact isHbm_iff.mpr ⟨by omega, by omega⟩
  obtain ⟨hd, hi⟩ := homeDie_of_isHbm h
  obtain ⟨hd', hi'⟩ := homeDie_of_isHbm hy
  have hidx : lineIndex y = lineIndex x := by rw [hi, hi']; omega
  exact ⟨hy, by rw [hd, hd']; omega, by rw [sliceOf, hidx, sliceOf], by rw [setOf, hidx, setOf], hl⟩

/-! ## Slices after a change of the state -/

theorem State.slice_updDie (s : State) (e : Nat) (f : Die → Die) (hf : ∀ x, (f x).slices = x.slices) (d k : Nat) : (s.updDie e f).slice d k = s.slice d k := by
  by_cases h : d = e
  · subst h
    by_cases hd : d < 12
    · rw [State.slice, s.die_updDie_same f hd, hf]
      rfl
    · exact congrArg (fun t : State => t.slice d k) (if_neg hd)
  · rw [State.slice, s.die_updDie_other f h]
    rfl

theorem State.slice_updSlice_same (s : State) {d : Nat} (k : Nat) (f : Slice → Slice) (hd : d < 12) : (s.updSlice d k f).slice d k = f (s.slice d k) := by
  rw [State.slice, State.updSlice, s.die_updDie_same _ hd]
  simp [State.slice]

theorem State.slice_of_dies {s t : State} (h : t.dies = s.dies) (d k : Nat) : t.slice d k = s.slice d k := by
  simp only [State.slice, State.die, h]

@[simp] theorem State.slice_wake (s : State) (x d k : Nat) : (s.wake x).slice d k = s.slice d k := by
  unfold State.wake
  split
  · exact s.slice_updDie _ (fun d => { d with inRefresh := setDel d.inRefresh (2 * homeDie x + sliceOf x / 32) }) (fun _ => rfl) d k
  · rfl

@[simp] theorem State.slice_sendCausal (s : State) (src : Nat) (dsts : List Nat) (leaf key : Nat) (body : MsgBody) (d k : Nat) :
    (s.sendCausal src dsts leaf key body).slice d k = s.slice d k := by
  unfold State.sendCausal
  split
  · rfl
  · exact s.slice_updDie src (fun x => { x with clock := x.clock.set src (nth (s.die src).clock src 0#32 + 1#32), sinceNotice := true }) (fun _ => rfl) d k

@[simp] theorem State.slice_markInvalidations (s : State) (line core agent d k : Nat) : (s.markInvalidations line core agent).slice d k = s.slice d k := by
  simp only [State.markInvalidations, State.slice, State.die, nth, List.getElem?_map]
  cases s.dies[d]? <;> rfl

@[simp] theorem State.slice_passOn (s : State) (line i : Nat) (v : BitVec 256) (bad : Bool) (d k : Nat) :
    (s.passOn line i v bad).slice d k = s.slice d k := by
  unfold State.passOn
  split
  · rfl
  · split <;> rfl

@[simp] theorem State.slice_writeBack (s : State) (w : Way) (d k : Nat) : (s.writeBack w).slice d k = s.slice d k := by
  unfold State.writeBack
  generalize List.range 4 = is
  induction is generalizing s with
  | nil => rfl
  | cons i is ih =>
    rw [List.foldl_cons, ih]
    split
    · dsimp only
      split
      · rfl
      · rw [State.slice_passOn]
        exact s.slice_wake _ d k
    · rfl

@[simp] theorem State.slice_dropPassing (s : State) (line d k : Nat) : (s.dropPassing line).slice d k = s.slice d k := by
  unfold State.dropPassing
  split <;> rfl

@[simp] theorem State.slice_takeWaited (s : State) (line tag d k : Nat) : (s.takeWaited line tag).1.slice d k = s.slice d k := by
  unfold State.takeWaited
  split <;> rfl

/-! ## The home line in the state -/

section
variable {s : State} {d k set line key : Nat} {w : Way}

theorem State.homeAt_updWay (hd : d < 12) (h : (s.slice d k).homeAt set line key w) (f : Way → Way) (hkind : ∀ w, (f w).kind = w.kind)
    (hline : ∀ w, (f w).line = w.line) : ((s.updWay d k key f).slice d k).homeAt set line key (f w) := by
  rw [State.updWay, s.slice_updSlice_same k _ hd]
  exact h.alter f hkind hline

/-- A sector of a way is fetched from memory (R279). -/
def State.fetchSector (s : State) (need : BitVec 4) (w : Way) (i : Nat) : Way :=
  if need.getLsbD i && !w.present.getLsbD i then
    let (v, bad) := s.memSector (w.line * 4 + i)
    { w with
      data := (w.data &&& ~~~((BitVec.ofNat 1024 (2 ^ 256 - 1)) <<< (256 * i))) ||| (v.setWidth 1024 <<< (256 * i))
      present := w.present ||| BitVec.ofNat 4 (2 ^ i)
      poison := if bad then w.poison ||| BitVec.ofNat 4 (2 ^ i) else w.poison &&& ~~~(BitVec.ofNat 4 (2 ^ i)) }
  else w

theorem State.fetchSectors_keep (s : State) (need : BitVec 4) (is : List Nat) (w : Way) :
    (is.foldl (s.fetchSector need) w).kind = w.kind ∧ (is.foldl (s.fetchSector need) w).line = w.line := by
  induction is generalizing w with
  | nil => exact ⟨rfl, rfl⟩
  | cons i is ih =>
    have h : (s.fetchSector need w i).kind = w.kind ∧ (s.fetchSector need w i).line = w.line := by
      unfold State.fetchSector
      split <;> exact ⟨rfl, rfl⟩
    exact ⟨(ih _).1.trans h.1, (ih _).2.trans h.2⟩

theorem State.homeAt_fillSectors (hd : d < 12) (h : (s.slice d k).homeAt set line key w) (need : BitVec 4) :
    ∃ w', ((s.fillSectors d k key need).slice d k).homeAt set line key w' := by
  unfold State.fillSectors
  rw [h.find]
  dsimp only
  split
  · exact ⟨w, h⟩
  · refine ⟨(List.range 4).foldl (s.fetchSector need) w, ?_⟩
    have hcongr := KMap.alter_congr (s.slice d k).ways key (fun _ => (List.range 4).foldl (s.fetchSector need) w)
      (fun w => (List.range 4).foldl (s.fetchSector need) w) (fun v hv => by rw [h.find] at hv; cases hv; rfl)
    have ha := h.alter (fun w => (List.range 4).foldl (s.fetchSector need) w) (fun w => (s.fetchSectors_keep need _ w).1)
      (fun w => (s.fetchSectors_keep need _ w).2)
    rw [← hcongr] at ha
    rw [State.updWay, s.slice_updSlice_same k _ hd]
    exact ha

/-- A way after a write of bytes (R279). -/
def Way.written (w : Way) (new : BitVec 1024) (mask : BitVec 128) (cleans poisons : BitVec 4) : Way :=
  { w with
    data := putBytes w.data new mask
    present := w.present ||| sectorsOf mask
    dirty := w.dirty ||| sectorsOf mask
    poison := (w.poison &&& ~~~cleans) ||| poisons }

theorem State.homeAt_writeHome (hd : d < 12) (h : (s.slice d k).homeAt set line key w) (new : BitVec 1024) (mask : BitVec 128)
    (cleans poisons : BitVec 4) (core agent : Nat) :
    ∃ w' : Way, ((s.writeHome d k key new mask cleans poisons core agent).slice d k).homeAt set line key (w'.written new mask cleans poisons) := by
  obtain ⟨w', h'⟩ := State.homeAt_fillSectors hd h (sectorsOf mask &&& ~~~wholeSectors mask)
  refine ⟨w', ?_⟩
  have hu := State.homeAt_updWay hd h' (fun w => w.written new mask cleans poisons) (fun _ => rfl) (fun _ => rfl)
  unfold State.writeHome State.propagate
  dsimp only
  split
  · rw [State.slice_markInvalidations]
    exact hu
  · split
    · rw [State.slice_markInvalidations]
      exact hu
    · rw [State.slice_sendCausal, State.slice_markInvalidations]
      exact hu

/-- A line without a way takes a free one of its set (R279, R295). -/
theorem State.claimWay_free (hd : d < 12) (hroom : 0 < ((List.range 16).filter fun w => ((s.slice d k).ways.find (16 * set + w)).isNone).length) :
    ∃ t key, s.claimWay d k set = (t, some key) ∧ key / 16 = set ∧ t.slice d k = s.slice d k := by
  obtain ⟨i, hi⟩ := List.length_pos_iff_exists_mem.mp hroom
  obtain ⟨hi16, hnone⟩ := List.mem_filter.mp hi
  have hex : ((List.range 16).map fun w => set * 16 + w).find? (fun key => ((s.slice d k).ways.find key).isNone) ≠ none := by
    rw [Ne, List.find?_eq_none]
    intro hall
    exact hall (set * 16 + i) (List.mem_map_of_mem hi16) (by rw [Nat.mul_comm]; exact hnone)
  obtain ⟨key, hkey⟩ := Option.ne_none_iff_exists'.mp hex
  have hfree : (s.slice d k).ways.find key = none := by
    have h := List.find?_some hkey
    exact Option.isNone_iff_eq_none.mp h
  obtain ⟨j, hj, hjk⟩ := List.mem_map.mp (List.mem_of_find?_eq_some hkey)
  have hv : (s.slice d k).victim set = some (s.slice d k, key) := by
    unfold Slice.victim
    simp only [hkey]
  have hsame := s.slice_updSlice_same k (fun _ => s.slice d k) hd
  refine ⟨s.updSlice d k fun _ => s.slice d k, key, ?_, by have := List.mem_range.mp hj; omega, hsame⟩
  simp only [State.claimWay, hv, State.evictWay, hsame, hfree]

end

end Sys2Proof.Machine
end
section
/-! PROOFS. An engine's write of an easy line of HBM, performed and flushed, and what is read there afterwards (R277 to R279). -/

namespace Sys2Proof.Machine

theorem State.homeAt_insertWay {s : State} {d k set line key : Nat} (hd : d < 12) (hs : (s.slice d k).ways.sorted)
    (hl : (s.slice d k).homeLine set line = none) (hc : (s.slice d k).copies set line = []) (hset : key / 16 = set) (cls : Nat) (distant : Bool) :
    ∃ w, ((s.insertWay d k key cls distant (Way.fresh .home line)).slice d k).homeAt set line key w := by
  let u := ((s.slice d k).insertValue (key / 16) cls distant)
  refine ⟨{ Way.fresh .home line with rrpv := u.2, rank := u.1.uses }, ?_⟩
  rw [State.insertWay, s.slice_updSlice_same _ _ hd]
  have h := Slice.homeAt_put (w := { Way.fresh .home line with rrpv := u.2, rank := u.1.uses }) hs hl hc hset rfl rfl
  have hsame : u.1.ways = (s.slice d k).ways ∧ u.1.spill = (s.slice d k).spill := by
    simp only [u, Slice.insertValue]
    split <;> split <;> exact ⟨rfl, rfl⟩
  refine h.of_ways ?_ hsame.2
  exact congrArg (fun m : KMap Way => m.put key { Way.fresh .home line with rrpv := u.2, rank := u.1.uses }) hsame.1

theorem State.homeWay_easy {s : State} {x : Nat} (hd : homeDie x < 12) (hs : (s.slice (homeDie x) (sliceOf x)).ways.sorted)
    (hc : (s.slice (homeDie x) (sliceOf x)).copies (setOf x) (x / 128) = [])
    (hroom : 0 < ((List.range 16).filter fun w => ((s.slice (homeDie x) (sliceOf x)).ways.find (16 * setOf x + w)).isNone).length)
    (cls : Nat) (distant : Bool) : ∃ t key w, s.homeWay x cls distant = (t, some key) ∧
      (t.slice (homeDie x) (sliceOf x)).homeAt (setOf x) (x / 128) key w := by
  unfold State.homeWay
  dsimp only
  cases hl : (s.slice (homeDie x) (sliceOf x)).homeLine (setOf x) (x / 128) with
  | some y => exact ⟨_, y.1, _, rfl, State.homeAt_updWay hd ⟨hs, hl, hc⟩ (fun w => { w with rrpv := 0 }) (fun _ => rfl) (fun _ => rfl)⟩
  | none =>
    obtain ⟨t, key, hclaim, hset, hsame⟩ := State.claimWay_free hd hroom
    rw [hclaim]
    obtain ⟨w, hw⟩ := State.homeAt_insertWay hd (by rw [hsame]; exact hs) (by rw [hsame]; exact hl) (by rw [hsame]; exact hc) hset cls distant
    exact ⟨_, key, w, rfl, hw⟩

/-- Copies of no version: none are merged, and a view reads through none. -/
theorem State.couchedCopies_of_none {s : State} {d k set line : Nat} (h : (s.slice d k).copies set line = []) : s.couchedCopies d k set line = [] := by
  simp [State.couchedCopies, h, orderCopies]

theorem State.slice_countLookup_ways (s : State) {d : Nat} (k cls : Nat) (hit : Bool) (hd : d < 12) :
    ((s.countLookup d k cls hit).slice d k).ways = (s.slice d k).ways ∧ ((s.countLookup d k cls hit).slice d k).spill = (s.slice d k).spill := by
  unfold State.countLookup
  split
  · exact ⟨rfl, rfl⟩
  · rw [s.slice_updSlice_same k _ hd]
    split <;> exact ⟨rfl, rfl⟩

/-- What a put of 8 bytes leaves in a line. -/
theorem applyElems_put8 (x : Nat) (v : W64) (l : LineBytes) (stays : BitVec 128) :
    (applyElems [engineElem x 3 (.put (v.setWidth 128))] l stays).2.1.data =
      putBytes l.data (((v.setWidth 128).setWidth 1024 &&& BitVec.ofNat 1024 (2 ^ 64 - 1)) <<< (8 * (x % 128))) (byteRange (x % 128) 8) ∧
    (applyElems [engineElem x 3 (.put (v.setWidth 128))] l stays).2.2 = byteRange (x % 128) 8 := by
  constructor
  · rfl
  · exact BitVec.zero_or

/-- The home line of an address holds 8 bytes there. -/
def State.holds8 (s : State) (x : Nat) (v : W64) : Prop := ∃ key w, (s.slice (homeDie x) (sliceOf x)).homeAt (setOf x) (x / 128) key w ∧
  w.present.getLsbD (x / 32 % 4) = true ∧ ∀ i < 64, w.data.getLsbD (8 * (x % 128) + i) = v.getLsbD i

theorem Way.written_holds {w : Way} {x : Nat} (hx : x % 128 + 8 ≤ 128) (l : BitVec 1024) (v : W64) (cleans poisons : BitVec 4) :
    let new := putBytes l (((v.setWidth 128).setWidth 1024 &&& BitVec.ofNat 1024 (2 ^ 64 - 1)) <<< (8 * (x % 128))) (byteRange (x % 128) 8)
    (w.written new (byteRange (x % 128) 8) cleans poisons).present.getLsbD (x / 32 % 4) = true ∧
      ∀ i < 64, (w.written new (byteRange (x % 128) 8) cleans poisons).data.getLsbD (8 * (x % 128) + i) = v.getLsbD i := by
  intro new
  have hmask : ∀ i < 8, (byteRange (x % 128) 8).getLsbD (x % 128 + i) = true := fun i hi => by
    rw [getLsbD_byteRange _ _ (by omega), decide_eq_true_eq]
    omega
  constructor
  · have h := getLsbD_sectorsOf_of_byte (by omega) (hmask 0 (by omega))
    rw [Nat.add_zero, show x % 128 / 32 = x / 32 % 4 by omega] at h
    simp [Way.written, h]
  · intro i hi
    have hbyte : (byteRange (x % 128) 8).getLsbD ((8 * (x % 128) + i) / 8) = true := by
      rw [show (8 * (x % 128) + i) / 8 = x % 128 + i / 8 by omega]
      exact hmask _ (by omega)
    change (putBytes w.data new (byteRange (x % 128) 8)).getLsbD _ = _
    rw [getLsbD_putBytes _ _ _ (by omega), if_pos hbyte, getLsbD_putBytes _ _ _ (by omega), if_pos hbyte]
    rw [BitVec.getLsbD_shiftLeft, Nat.add_sub_cancel_left, BitVec.getLsbD_and, BitVec.getLsbD_ofNat, Nat.testBit_two_pow_sub_one,
      BitVec.getLsbD_setWidth, BitVec.getLsbD_setWidth]
    simp [hi, show i < 1024 by omega, show i < 128 by omega, show 8 * (x % 128) + i < 1024 by omega]

/-- The slice of an address has room for its line and no copy of it. -/
structure State.openLine (s : State) (x : Nat) : Prop where
  sorted : (s.slice (homeDie x) (sliceOf x)).ways.sorted
  room : 0 < ((List.range 16).filter fun w => ((s.slice (homeDie x) (sliceOf x)).ways.find (16 * setOf x + w)).isNone).length
  noCopy : (s.slice (homeDie x) (sliceOf x)).copies (setOf x) (x / 128) = []

theorem State.openLine_of_easy {s : State} {x n : Nat} (h : s.easyLine x n) (hn : 0 < n) : s.openLine x :=
  ⟨h.1.1, hn.trans_le h.1.2, h.2.1⟩

theorem State.openLine.wake {s : State} {x : Nat} (h : s.openLine x) (y : Nat) : (s.wake y).openLine x := by
  obtain ⟨h1, h2, h3⟩ := h
  constructor <;> rw [State.slice_wake] <;> assumption

/-- A request that writes committed memory at an easy line has the home line of that in a way, and lands there. -/
theorem State.performReq_lands {s : State} {x : Nat} {r : LineReq} (hbm : isHbm x = true) (ho : s.openLine x) (hr : r.line * 128 / 128 = x / 128) (hvid : r.vid = 0)
    (hwr : writesOf r.elems ≠ 0#128) (core agent : Nat) :
    ∃ u key w view stays, (u.slice (homeDie x) (sliceOf x)).homeAt (setOf x) (x / 128) key w ∧ (s.performReq r core agent).1 =
      if (applyElems r.elems view stays).2.2 = 0#128 then u
      else u.landHome r (some key) (applyElems r.elems view stays).2.1.data (applyElems r.elems view stays).2.2 core agent := by
  obtain ⟨hsorted, hroom, hcopies⟩ := ho
  obtain ⟨-, hdie, hslice, hset, hline⟩ := hbmLine_of_line hbm hr
  have hd := homeDie_lt_of_isHbm hbm
  have htarget (t : State) : t.targetFor r = .committed := by
    simp [State.targetFor, State.targetOf, hvid]
  have hmerge (t : State) (c : (t.slice (homeDie x) (sliceOf x)).copies (setOf x) (x / 128) = []) :
      t.couchedCopies (homeDie x) (sliceOf x) (setOf x) (x / 128) = [] := State.couchedCopies_of_none c
  unfold State.performReq
  extract_lets pa d k set wr target commits s1 need held home
  have htar : target = .committed := htarget s
  have hcommits : commits = true := by simp [commits, htar, wr, hwr]
  have hs1 : s1 = s := by
    simp only [s1, hcommits, if_true, State.mergeLine, pa, hdie, hslice, hset, hline, hmerge s hcopies, State.mergeCopies]
  have hhome : home = true := by simp [home, hcommits]
  clear_value held need home commits target s1
  subst htar hcommits hs1 hhome
  have hsame2 := s1.slice_takeWaited r.line r.tag (homeDie x) (sliceOf x)
  generalize s1.takeWaited r.line r.tag = p at hsame2 ⊢
  obtain ⟨s2, waited⟩ := p
  obtain ⟨hways3, hspill3⟩ := s2.slice_countLookup_ways (sliceOf x) r.cls (isHit need held && !waited) hd
  have hcopies3 : ((s2.countLookup (homeDie x) (sliceOf x) r.cls (isHit need held && !waited)).slice (homeDie x) (sliceOf x)).copies (setOf x) (x / 128) = [] := by
    rw [Slice.copies, hways3, hspill3, hsame2]
    exact hcopies
  have hused : (s2.countLookup (homeDie x) (sliceOf x) r.cls (isHit need held && !waited)).viewCopies pa r.domain r.vid r.versioned = [] := by
    simp only [State.viewCopies, hvid, decide_true, Bool.true_or, if_true, pa, hdie, hslice, hset, hline, hmerge _ hcopies3]
  obtain ⟨s4, key, w, hway, hat⟩ := State.homeWay_easy (x := x) hd (by rw [hways3, hsame2]; exact hsorted) hcopies3 (by rw [hways3, hsame2]; exact hroom) r.cls r.distant
  have hway' : (s2.countLookup (homeDie x) (sliceOf x) r.cls (isHit need held && !waited)).homeWay pa r.cls r.distant = (s4, some key) := by
    rw [← hway]
    simp only [State.homeWay, pa, hdie, hslice, hset, hline]
  obtain ⟨w', hat'⟩ := State.homeAt_fillSectors hd hat need
  simp only [d, k, pa, hdie, hslice] at hused hway' ⊢
  simp only [hused, List.filter_nil, List.foldl_nil, if_true, hway']
  let view := (s4.fillSectors (homeDie x) (sliceOf x) key need).viewLine (r.line * 128) r.domain r.vid r.versioned
  refine ⟨(s4.fillSectors (homeDie x) (sliceOf x) key need).dropPassing r.line, key, w', view, view.bad, by rw [State.slice_dropPassing]; exact hat', ?_⟩
  split <;> rfl

/-- The 8 bytes that an engine puts. -/
theorem byteRange8_ne_zero {x : Nat} (hx : x % 128 + 8 ≤ 128) : byteRange (x % 128) 8 ≠ 0#128 := by
  intro h0
  have hbit := getLsbD_byteRange (x % 128) 8 (i := x % 128) (by omega)
  rw [h0] at hbit
  simp at hbit

theorem State.landHome_engine {s : State} {r : LineReq} (ho : r.owner = .engine) (key : Nat) (after : BitVec 1024) (mask : BitVec 128) (core agent : Nat) :
    s.landHome r (some key) after mask core agent =
      s.writeHome (homeDie (r.line * 128)) (sliceOf (r.line * 128)) key after mask (wholeSectors (putsOf r.elems) ||| 0#4) 0#4 core agent := by
  simp only [State.landHome, ho, State.cover]

theorem State.writeCommitted_holds8 {s : State} {x : Nat} (hbm : isHbm x = true) (hin : x % 128 + 8 ≤ 128) (ho : s.openLine x) (v : W64) :
    (s.writeCommitted x 3 v).holds8 x v := by
  have hline : (engineReq x [engineElem x 3 (.put (v.setWidth 128))]).line * 128 / 128 = x / 128 := Nat.mul_div_cancel _ (by decide)
  have hwr : writesOf (engineReq x [engineElem x 3 (.put (v.setWidth 128))]).elems = byteRange (x % 128) 8 := BitVec.zero_or
  obtain ⟨u, key, w, view, stays, hat, heq⟩ := State.performReq_lands hbm (ho.wake x) hline rfl (by rw [hwr]; exact byteRange8_ne_zero hin) 0 0
  obtain ⟨hdata, hmask⟩ := applyElems_put8 x v view stays
  obtain ⟨-, hdie, hslice, -, -⟩ := hbmLine_of_line hbm hline
  obtain ⟨w', hat'⟩ := State.homeAt_writeHome (homeDie_lt_of_isHbm hbm) hat
    (putBytes view.data (((v.setWidth 128).setWidth 1024 &&& BitVec.ofNat 1024 (2 ^ 64 - 1)) <<< (8 * (x % 128))) (byteRange (x % 128) 8))
    (byteRange (x % 128) 8) (wholeSectors (putsOf (engineReq x [engineElem x 3 (.put (v.setWidth 128))]).elems) ||| 0#4) 0#4 0 0
  refine ⟨key, _, ?_, Way.written_holds (w := w') hin view.data v
    (wholeSectors (putsOf (engineReq x [engineElem x 3 (.put (v.setWidth 128))]).elems) ||| 0#4) 0#4⟩
  change ((s.wake x).performReq (engineReq x [engineElem x 3 (.put (v.setWidth 128))]) 0 0).1.slice _ _ |>.homeAt _ _ _ _
  rw [heq]
  change (Slice.homeAt (State.slice (if (applyElems [engineElem x 3 (.put (v.setWidth 128))] view stays).2.2 = 0#128 then u
    else u.landHome (engineReq x [engineElem x 3 (.put (v.setWidth 128))]) (some key)
      (applyElems [engineElem x 3 (.put (v.setWidth 128))] view stays).2.1.data
      (applyElems [engineElem x 3 (.put (v.setWidth 128))] view stays).2.2 0 0) _ _) _ _ _ _)
  rw [hmask, hdata, if_neg (byteRange8_ne_zero hin), State.landHome_engine rfl, hdie, hslice]
  exact hat'

/-! ## Flushing and reading -/

theorem State.holds8.flushLine {s : State} {x : Nat} {v : W64} (hbm : isHbm x = true) (h : s.holds8 x v) : (s.flushLine x).holds8 x v := by
  obtain ⟨key, w, hat, hpres, hdata⟩ := h
  rw [State.flushLine, hat.homeLine]
  refine ⟨key, { w with dirty := 0#4 }, ?_, hpres, hdata⟩
  exact State.homeAt_updWay (homeDie_lt_of_isHbm hbm) (by rw [State.slice_writeBack]; exact hat) (fun x => { x with dirty := 0#4 }) (fun _ => rfl)
    (fun _ => rfl)

theorem State.holds8.of_dies {s t : State} {x : Nat} {v : W64} (h : s.holds8 x v) (hd : t.dies = s.dies) : t.holds8 x v := by
  obtain ⟨key, w, hat, hpres, hdata⟩ := h
  exact ⟨key, w, by rw [State.slice_of_dies hd]; exact hat, hpres, hdata⟩

theorem State.holds8.committedByte {s : State} {x : Nat} {v : W64} (hbm : isHbm x = true) (hal : x % 8 = 0) (h : s.holds8 x v) {j : Nat} (hj : j < 8) :
    s.committedByte (x + j) = v.extractLsb' (8 * j) 8 := by
  obtain ⟨key, w, hat, hpres, hdata⟩ := h
  obtain ⟨-, hdie, hslice, hset, hline⟩ := hbmLine_of_line (y := x + j) hbm (by omega)
  have hlayers : s.layers (x + j) 0 0 false = [] := by
    simp [State.layers, hdie, hslice, hset, hline, State.couchedCopies_of_none hat.noCopy]
  have hholds : s.homeHolds (x + j) = some w := by
    simp only [State.homeHolds, hdie, hslice, hset, hline, hat.homeLine, show (x + j) / 32 % 4 = x / 32 % 4 by omega, hpres, if_true]
  simp only [State.committedByte, State.seenByte, hlayers, List.find?_nil, State.homeByte, hholds]
  apply BitVec.eq_of_getLsbD_eq
  intro i hi
  rw [BitVec.getLsbD_extractLsb', BitVec.getLsbD_extractLsb', ← hdata (8 * j + i) (by omega)]
  congr 2
  omega

theorem natOfBytes_extract (v : W64) (n : Nat) (a : Nat) : natOfBytes ((List.range' a n).map fun j => v.extractLsb' (8 * j) 8) = v.toNat / 2 ^ (8 * a) % 2 ^ (8 * n) := by
  induction n generalizing a with
  | zero => simp [natOfBytes, Nat.mod_one]
  | succ n ih =>
    rw [List.range'_succ, List.map_cons, natOfBytes, ih, BitVec.extractLsb'_toNat, Nat.shiftRight_eq_div_pow]
    have hp : 2 ^ (8 * (a + 1)) = 2 ^ (8 * a) * 256 := by rw [Nat.mul_succ, Nat.pow_add]
    have hq : 2 ^ (8 * (n + 1)) = 256 * 2 ^ (8 * n) := by rw [Nat.mul_succ, Nat.pow_add, Nat.mul_comm]
    rw [hp, ← Nat.div_div_eq_div_mul, hq, Nat.mod_mul]

theorem State.holds8.bytesAt {s : State} {x : Nat} {v : W64} (hbm : isHbm x = true) (hal : x % 8 = 0) (h : s.holds8 x v) :
    Machine.bytesAt s.committedByte x 8 = v.toNat := by
  have hmap : ((List.range 8).map fun j => s.committedByte (x + j)) = (List.range' 0 8).map fun j => v.extractLsb' (8 * j) 8 := by
    rw [← List.range_eq_range']
    exact List.map_congr_left fun j hj => h.committedByte hbm hal (List.mem_range.mp hj)
  rw [Machine.bytesAt, hmap, natOfBytes_extract]
  have := v.isLt
  omega

end Sys2Proof.Machine
end
section
/-! PROOFS. The completion word of an invocation (R344), and the statement about walkers assembled (O53). -/

namespace Sys2Proof.Machine

/-! ## The page of a resident translation -/

/-- A translation that is resident has its frame at a multiple of 4096 bytes (R305). -/
def XResult.aligned (r : XResult) : Prop := ∀ e, r = .resident e → e.frame % 4096 = 0

theorem aligned_notPresent (kind : WalkKind) : (notPresent kind).aligned := by
  intro e h
  unfold notPresent at h
  split at h <;> cases h

theorem aligned_leafResult (asid va : Nat) (big : Bool) (kind : WalkKind) (e c : W64) : (leafResult asid va big kind e c).aligned := by
  intro x h
  unfold leafResult at h
  split at h
  · cases h
  · split at h
    · cases h
    · split at h
      · split at h <;> cases h
      · cases h
        exact Nat.mul_mod_left _ _

theorem State.aligned_walkWaits (s t : State) (slot : Nat) : (s.walkWaits t slot).2.aligned := by
  intro e h
  unfold State.walkWaits at h
  split at h <;> cases h

theorem State.aligned_walkLeaf (s : State) (die asid va : Nat) (kind : WalkKind) (slot : Nat) (big : Bool) (asker : Nat) {table : State → W64 → State × XResult}
    (ht : ∀ t e, (table t e).2.aligned) : (s.walkLeaf die asid va kind slot big asker table).2.aligned := by
  unfold State.walkLeaf
  split
  · exact s.aligned_walkWaits _ slot
  · split
    · exact aligned_notPresent kind
    · split
      · exact fun _ h => nomatch h
      · split
        · exact ht _ _
        · exact aligned_leafResult _ _ _ _ _ _

theorem State.aligned_walkFrom (s : State) (die asid va : Nat) (kind : WalkKind) (asker level table : Nat) :
    (s.walkFrom die asid va kind asker level table).2.aligned := by
  induction level generalizing s table with
  | zero =>
    rw [State.walkFrom]
    exact s.aligned_walkLeaf _ _ _ _ _ _ _ fun _ _ _ h => nomatch h
  | succ n ih =>
    rw [State.walkFrom]
    dsimp only
    split
    · exact s.aligned_walkWaits _ _
    · split
      · exact aligned_notPresent kind
      · split
        · exact State.aligned_walkLeaf _ _ _ _ _ _ _ _ fun t e => ih t _
        · split
          · exact fun _ h => nomatch h
          · exact ih _ _

theorem State.aligned_walk (s : State) (die asid : Nat) (va : W64) (kind : WalkKind) : (s.walk die asid va kind).2.aligned := by
  unfold State.walk State.walkFor
  split
  · exact fun _ h => nomatch h
  · split
    · exact fun _ h => nomatch h
    · split
      · exact fun _ h => nomatch h
      · split
        · exact fun _ h => nomatch h
        · exact s.aligned_walkFrom _ _ _ _ _ _ _

theorem phys_mod8 {s t : State} {die asid done : Nat} {kind : WalkKind} {e : TlbEntry} (h : s.walk die asid (BitVec.ofNat 64 done) kind = (t, .resident e))
    (hdone : 8 ∣ done) : e.phys (vaNat (BitVec.ofNat 64 done)) % 8 = 0 := by
  have hframe : e.frame % 4096 = 0 := by
    have ha := s.aligned_walk die asid (BitVec.ofNat 64 done) kind
    rw [h] at ha
    exact ha e rfl
  have hva : vaNat (BitVec.ofNat 64 done) = done % 2 ^ 64 % 2 ^ 56 := by
    simp [vaNat, BitVec.extractLsb'_toNat]
  rw [TlbEntry.phys, hva]
  split <;> omega

/-! ## The completion word (R344) -/

theorem Invocation.word_toNat (v : Invocation) : v.word.toNat = 2 ^ 32 * v.tag.toNat + 2 ^ 24 * (v.status % 2 ^ 8) + v.node % 2 ^ 24 := by
  have hlow : ((BitVec.ofNat 8 v.status ++ BitVec.ofNat 24 v.node : W32)).toNat = 2 ^ 24 * (v.status % 2 ^ 8) + v.node % 2 ^ 24 := by
    rw [BitVec.toNat_append, BitVec.toNat_ofNat, BitVec.toNat_ofNat, ← Nat.shiftLeft_add_eq_or_of_lt (Nat.mod_lt _ (by decide)), Nat.shiftLeft_eq, Nat.mul_comm]
  rw [Invocation.word, BitVec.toNat_append, ← Nat.shiftLeft_add_eq_or_of_lt (BitVec.isLt _), hlow, Nat.shiftLeft_eq]
  omega

theorem State.allFarDone_of_empty {s : State} (hw : s.host.writes = []) (ho : s.ualink.out = []) : s.allFarDone = true := by
  simp [State.allFarDone, State.farDone, hw, ho]

/-- An invocation is to write its completion word to HBM, and everything it must wait for is done. -/
structure State.mayNotify (s s3 : State) (q : Nat) (v : Invocation) (e : TlbEntry) : Prop where
  find : s.invs.find q = some v
  done : v.done ≠ 0
  aligned : 8 ∣ v.done
  silent : v.interrupt = false
  hostIdle : s.writeBackFar.host.writes = []
  peersIdle : s.writeBackFar.ualink.out = []
  walk : s.writeBackFar.walk (q / 1536) (s.queue q).asid (BitVec.ofNat 64 v.done) .write = (s3, .resident e)

theorem State.mayNotify.completes {s s3 : State} {q : Nat} {v : Invocation} {e : TlbEntry} (h : s.mayNotify s3 q v e) :
    s.completeInvocation q =
      ((s3.writeCommitted (e.phys (vaNat (BitVec.ofNat 64 v.done))) 3 v.word).flushLine (e.phys (vaNat (BitVec.ofNat 64 v.done)))).closeInvocation q v := by
  have hmod : v.done % 8 = 0 := Nat.mod_eq_zero_of_dvd h.aligned
  simp only [State.completeInvocation, h.find, h.done, if_false, hmod, ne_eq, not_true_eq_false, State.allFarDone_of_empty h.hostIdle h.peersIdle,
    Bool.not_true, Bool.false_eq_true, queueDie, Config.queuesPerDie, h.walk]

theorem State.mayNotify.word {s s3 : State} {q : Nat} {v : Invocation} {e : TlbEntry} (h : s.mayNotify s3 q v e)
    (hbm : isHbm (e.phys (vaNat (BitVec.ofNat 64 v.done))) = true) (heasy : s3.easyLine (e.phys (vaNat (BitVec.ofNat 64 v.done))) 2) :
    (s.completeInvocation q).invs.find q = none ∧ bytesAt (s.completeInvocation q).committedByte (e.phys (vaNat (BitVec.ofNat 64 v.done))) 8 =
      2 ^ 32 * v.tag.toNat + 2 ^ 24 * (v.status % 2 ^ 8) + v.node % 2 ^ 24 := by
  have hmod := phys_mod8 h.walk h.aligned
  rw [h.completes]
  generalize e.phys (vaNat (BitVec.ofNat 64 v.done)) = x at hbm heasy hmod ⊢
  have hholds := (State.writeCommitted_holds8 hbm (by omega) (State.openLine_of_easy heasy (by decide)) v.word).flushLine hbm
  generalize (s3.writeCommitted x 3 v.word).flushLine x = t at hholds ⊢
  obtain ⟨host, heq⟩ := t.closeInvocation_eq q v
  refine ⟨t.find_closeInvocation q v, ?_⟩
  rw [heq, ← v.word_toNat]
  exact (hholds.of_dies rfl).bytesAt hbm hmod

end Sys2Proof.Machine
end

section
open Sys2Proof Sys2Proof.Machine

/-- Settles O53: each node's effect by the reads of its step, one lemma per node and per event of the walker. -/
theorem walkersRunTheirGraphs : Obligations.WalkersRunTheirGraphs := by
  unfold Obligations.WalkersRunTheirGraphs
  refine ⟨fun s s1 q v ws hv => ?_, fun s q v hv => ⟨?_, ?_, ?_, ?_⟩, ?_, fun s grid g hg hhalt hbroke hred => ?_⟩
  · intro n asid s2 v' word half next stands hst hmay
    refine ⟨fun hsteps hdone _ => nodeStepLimit_ends hv hst hmay hsteps hdone, nodeStepLimit_notYet hv, fun hsteps hread hok => ?_⟩
    have hacts (kind : Nat) (hk : field n 0 1 = kind) : s.actsAt s2 q kind n v := State.actsAt_of_read hv hst hmay hsteps hread hok hk
    refine ⟨?_, ?_, ?_, ?_, ?_, ?_⟩
    · intro hk s3 s4 s5 s6 rs g b w hrs r own hrec hg hb hw l dies count hred
      have hasid : (s2.queue q).asid = asid := (hacts 1 hk).asid
      rw [← hasid] at hrs
      exact launchNode_hands (hacts 1 hk) ⟨s3, s4, s5, rs, g, b, w, hrs, hrec, hg, hb, hw, rfl⟩ hred
    · intro hk s3 w hw
      exact conditionalNode_chooses (hacts 2 hk) hw
    · intro hk s3 w hw
      exact whileNode_chooses (hacts 3 hk) hw
    · intro hk s3 s4 s5 s6 s7 rs g b w f hrs r own hrec hg hb hw l hred hf parent e most width hparent x asks
      have hasid : (s2.queue q).asid = asid := (hacts 4 hk).asid
      rw [← hasid] at hrs
      have hl : State.readsLaunch q (v.atNodes n) (fieldAddr n 8) s2 s6 l := ⟨s3, s4, s5, rs, g, b, w, hrs, hrec, hg, hb, hw, rfl⟩
      obtain ⟨t, hx, hfind⟩ := forkNode_asks (hacts 4 hk) hl hred hf hparent
      have hwidth : forkWidth n (wordHalf (fieldAddr n 24) f) ((s7.domain l.domain).entry (field n 42 1)) = width := rfl
      refine ⟨t, hx, fun hhere hzero => hfind.trans ?_, fun hhere hpos => hfind.trans ?_, fun hfar => hfind.trans ?_⟩
      · rw [hwidth, if_pos ⟨hzero, hhere⟩, if_pos ⟨hzero, hhere⟩, if_pos hhere, ← hst]
        rfl
      · rw [hwidth, if_neg fun h => hpos h.1, if_neg fun h => hpos h.1, if_pos hhere]
        rfl
      · rw [hwidth, if_neg fun h => hfar h.2, if_neg fun h => hfar h.2, if_neg hfar]
        rfl
    · intro hk d count hd moved
      subst hd
      refine ⟨fun h => resolveWaitNode_goesOn (hacts 5 hk) ?_, fun hsome hnot => ?_⟩
      · exact h.imp_right fun h => ⟨count, h⟩
      · have h := resolveWaitNode_waits (hacts 5 hk) hsome hnot
        exact h
    · intro hk
      have hfind : (s2.toNode q v' v.node).invs.find q = some { v' with node := v.node } := by
        obtain ⟨rs, hrs⟩ := (hacts 6 hk).reads.inv v hv
        exact State.find_toNode (n := n) hrs hst v.node
      refine ⟨fun hdone => ?_, ?_⟩
      · have h := endNode_unnotified (hacts 6 hk) hdone
        exact h
      · intro s3 e u pa h0 h8 hint hw ho hwalk hbm heasy
        have hasid : ((s2.toNode q v' v.node).queue q).asid = asid := (hacts 6 hk).asid
        have hmay : (s2.toNode q v' v.node).mayNotify s3 q { v' with node := v.node } e := ⟨hfind, h0, h8, hint, hw, ho, by rw [hasid]; exact hwalk⟩
        obtain ⟨hgone, hword⟩ := hmay.word hbm heasy
        exact ⟨_, execEndNode_eq (hacts 6 hk), hgone, hword⟩
  · intro dom count parent chain l stride params hst hdom hm vids
    subst hdom
    refine ⟨fun hall hpos => ?_, fun hfew => forkVidsTaken_few hv hst hm hfew⟩
    obtain ⟨t, gs, hx, hlen, hfind, hlive, hold, hgrids⟩ := forkVidsTaken_starts hv hst hm hall hpos
    exact ⟨t, gs, hx, hlen, hfind, hlive, hold, fun i hi => ⟨_, hgrids i hi, rfl, rfl, rfl⟩⟩
  · intro dom start limit hst was moved
    have h : s.waitsResolve q dom start limit v := ⟨hv, hst⟩
    refine ⟨fun hmoved => ⟨_, resolveWaitNode_ends h hmoved, rfl, by rw [State.invs_updInv, hv]; rfl⟩, fun hmoved => resolveWaitNode_stays h hmoved,
      fun hmoved hlimit hover => ?_, fun hmoved => resolveWaitTimeout_stays h hmoved⟩
    obtain ⟨t, hx, hres, hfind⟩ := resolveWaitTimeout_squashes h hmoved hlimit hover
    refine ⟨t, _, hx, hres, hfind, fun u => ?_, fun r hr => ?_⟩
    · rw [← s.mem_liveRoots]
      simp [walkerSquash]
    · obtain ⟨u, -, rfl⟩ := List.mem_map.mp hr
      exact ⟨rfl, rfl, rfl, rfl⟩
  · exact fun dom hst hdone => resolveWaitNode_afterSquash hv hst hdone
  · exact fun asid page s1 e hst hwalk => walkerReadRetry_goesOn hv hst hwalk
  · intro s s1 q ws hinv hon hhead Q r hread hint hzero hgraph
    exact walkerTakeRecord_begins hinv hon hhead hread hint hzero hgraph
  · exact ⟨fun hleft hout => gridComplete_ends hg hhalt hbroke hred hleft hout, fun hleft => gridComplete_waits hg hhalt hbroke hred hleft⟩

end
section
/-! PROOFS. A dispatcher and the only span that waits on its die: what a decision leaves alone, the cluster that fits best, and the blocks of a gang that is
placed (R25, R350 to R355). -/

namespace Sys2Proof.Machine

/-! ## What turns, charges and rings change -/

/-- A dispatcher without the turns of its queues: deficits, ring pointers, the counts of the draft share, and the cycle of its next decision. -/
def Die.turnless (d : Die) : Die := { d with disp := { d.disp with defs := [], pointers := [], draftCC := [], allCC := [], next := 0 } }

/-- Two states differ at most in the turns of a die's dispatcher. -/
def State.turnsOnly (die : Nat) (s t : State) : Prop := s.sameDie t die Die.turnless

section
variable {die : Nat} {s t u : State}

theorem State.turnsOnly.refl (s : State) : s.turnsOnly die s := ⟨rfl, fun _ _ => rfl, rfl⟩

theorem State.turnsOnly.trans (h : State.turnsOnly die s t) (h' : State.turnsOnly die t u) : State.turnsOnly die s u :=
  ⟨by have := congrArg (fun x : State => ({ x with dies := s.dies } : State)) h'.1; exact this.trans h.1,
    fun j hj => (h'.2.1 j hj).trans (h.2.1 j hj), h'.2.2.trans h.2.2⟩

theorem State.turnsOnly_updDie (hd : die < 12) (s : State) (f : Die → Die) (hf : (f (s.die die)).turnless = (s.die die).turnless) :
    State.turnsOnly die s (s.updDie die f) := s.sameDie_updDie f Die.turnless hd hf

theorem State.turnsOnly.eq (h : State.turnsOnly die s t) : t = { s with dies := t.dies } := State.eq_of_dies_frame h.1

theorem State.turnsOnly.core? (h : State.turnsOnly die s t) (k : Nat) : t.core? k = s.core? k := by rw [h.eq]; rfl

theorem State.turnsOnly.queue (h : State.turnsOnly die s t) (q : Nat) : t.queue q = s.queue q := by rw [h.eq]; rfl

theorem State.turnsOnly.grids (h : State.turnsOnly die s t) : t.grids = s.grids := by rw [h.eq]

theorem State.turnsOnly.token (h : State.turnsOnly die s t) : t.token = s.token := by rw [h.eq]

theorem State.turnsOnly.fabric (h : State.turnsOnly die s t) : t.fabric = s.fabric := by rw [h.eq]; rfl

theorem State.turnsOnly.disp {α : Type} (h : State.turnsOnly die s t) (f : Dispatcher → α) (hf : ∀ d : Die, f d.turnless.disp = f d.disp) :
    f (t.die die).disp = f (s.die die).disp := by rw [← hf (t.die die), ← hf (s.die die), h.2.2]

theorem State.turnsOnly.spans (h : State.turnsOnly die s t) : (t.die die).disp.spans = (s.die die).disp.spans := h.disp _ fun _ => rfl

theorem State.turnsOnly.freed (h : State.turnsOnly die s t) (j : Nat) : (t.die j).disp.freed = (s.die j).disp.freed := by
  by_cases hj : j = die
  · rw [hj]
    exact h.disp _ fun _ => rfl
  · rw [h.2.1 j hj]

theorem State.turnsOnly.freeCores (h : State.turnsOnly die s t) (e cl : Nat) : t.freeCores e cl = s.freeCores e cl := by
  simp only [State.freeCores, State.freedNow, h.core?, h.freed, h.fabric]
  rfl

theorem State.turnsOnly.clusters (h : State.turnsOnly die s t) (e : Nat) (p : Nat → Bool) : t.clusters e p = s.clusters e p := by
  simp only [State.clusters, h.freeCores]

theorem State.turnsOnly.gridDead (h : State.turnsOnly die s t) (g : Nat) : t.gridDead g = s.gridDead g := by rw [h.eq]; rfl

theorem State.turnsOnly_moveDef (hd : die < 12) (s : State) (q : Nat) (x : Int) : State.turnsOnly die s (s.moveDef die q x) := State.turnsOnly_updDie hd s _ rfl

theorem State.turnsOnly_setPointer (hd : die < 12) (s : State) (c q : Nat) : State.turnsOnly die s (s.setPointer die c q) := State.turnsOnly_updDie hd s _ rfl

theorem State.turnsOnly_leaveRing (hd : die < 12) (s : State) (q : Nat) : State.turnsOnly die s (s.leaveRing die q) := by
  unfold State.leaveRing
  split
  · exact .refl s
  · exact State.turnsOnly_updDie hd s _ rfl

theorem State.turnsOnly_charge (hd : die < 12) (s : State) (q dom cost : Nat) : State.turnsOnly die s (s.charge die q dom cost) :=
  (State.turnsOnly_moveDef hd s q _).trans (State.turnsOnly_updDie hd _ _ rfl)

end

/-! ## The clusters of a die -/

/-- A cluster of those below `m` is the best fit for `n` blocks: it has the fewest free cores that are enough, and is the lowest of those (R350). -/
def fitsBest (f : Nat → Nat) (n m : Nat) (c : Nat) : Prop := c < m ∧ n ≤ f c ∧ ∀ x < m, n ≤ f x → f c < f x ∨ (f c = f x ∧ c ≤ x)

/-- What a search for the best fit has found among the clusters below `m`. -/
def fitFound (f : Nat → Nat) (n m : Nat) (b : Option (Nat × Nat)) : Prop :=
  (b = none → ∀ x < m, f x < n) ∧ ∀ y, b = some y → y.2 = f y.1 ∧ fitsBest f n m y.1

/-- One step of the search for the best fit. -/
def fitStep (n : Nat) (b : Option (Nat × Nat)) (x : Nat × Nat) : Option (Nat × Nat) :=
  if x.2 < n then b
  else match b with
    | some y => if x.2 < y.2 then some x else b
    | none => some x

theorem fitFound_step {f : Nat → Nat} {n m : Nat} {b : Option (Nat × Nat)} (h : fitFound f n m b) : fitFound f n (m + 1) (fitStep n b (m, f m)) := by
  by_cases hlt : f m < n
  · rw [show fitStep n b (m, f m) = b from if_pos hlt]
    refine ⟨fun hb x hx => ?_, fun y hy => ?_⟩
    · rcases Nat.lt_succ_iff_lt_or_eq.mp hx with hx | rfl
      · exact h.1 hb x hx
      · exact hlt
    · obtain ⟨h1, h2, h3, h4⟩ := h.2 y hy
      refine ⟨h1, Nat.lt_succ_of_lt h2, h3, fun x hx hn => ?_⟩
      rcases Nat.lt_succ_iff_lt_or_eq.mp hx with hx | rfl
      · exact h4 x hx hn
      · omega
  · have hnew (hless : ∀ x < m, n ≤ f x → f m < f x) : fitFound f n (m + 1) (some (m, f m)) := by
      refine ⟨(fun h => nomatch h), fun y hy => ?_⟩
      cases hy
      refine ⟨rfl, Nat.lt_succ_self m, Nat.not_lt.mp hlt, fun x hx hn => ?_⟩
      rcases Nat.lt_succ_iff_lt_or_eq.mp hx with hx | rfl
      · exact .inl (hless x hx hn)
      · exact .inr ⟨rfl, Nat.le_refl _⟩
    rw [show fitStep n b (m, f m) = _ from if_neg hlt]
    cases b with
    | none => exact hnew fun x hx hn => absurd (h.1 rfl x hx) (Nat.not_lt.mpr hn)
    | some z =>
      obtain ⟨h1, h2, h3, h4⟩ := h.2 z rfl
      by_cases hless : f m < z.2
      · simp only [hless, if_true]
        refine hnew fun x hx hn => ?_
        have := h4 x hx hn
        omega
      · simp only [hless, if_false]
        refine ⟨(fun h => nomatch h), fun y hy => ?_⟩
        cases hy
        refine ⟨h1, Nat.lt_succ_of_lt h2, h3, fun x hx hn => ?_⟩
        rcases Nat.lt_succ_iff_lt_or_eq.mp hx with hx | rfl
        · exact h4 x hx hn
        · omega

theorem fitFound_range (f : Nat → Nat) (n m : Nat) : fitFound f n m (((List.range m).map fun c => (c, f c)).foldl (fitStep n) none) := by
  induction m with
  | zero => exact ⟨fun _ x hx => absurd hx (Nat.not_lt_zero x), (fun _ h => nomatch h)⟩
  | succ m ih =>
    rw [List.range_succ, List.map_append, List.foldl_append]
    exact fitFound_step ih

theorem bestFit_eq {f : Nat → Nat} {n cl : Nat} (h : fitsBest f n 16 cl) : bestFit ((List.range 16).map fun c => (c, f c)) n = some cl := by
  have hb := fitFound_range f n 16
  change (((List.range 16).map fun c => (c, f c)).foldl (fitStep n) none).map (fun x => x.1) = _
  obtain ⟨hcl, hn, hbest⟩ := h
  generalize ((List.range 16).map fun c => (c, f c)).foldl (fitStep n) none = b at hb ⊢
  cases b with
  | none => exact absurd (hb.1 rfl cl hcl) (Nat.not_lt.mpr hn)
  | some y =>
    obtain ⟨-, hy, hyn, hybest⟩ := hb.2 y rfl
    have h1 := hybest cl hcl hn
    have h2 := hbest y.1 hy hyn
    rw [Option.map_some, show y.1 = cl by omega]

/-- The best fit of a list has enough free cores there. -/
theorem mem_of_bestFit {free : List (Nat × Nat)} {n c : Nat} (h : bestFit free n = some c) : ∃ m, (c, m) ∈ free ∧ n ≤ m := by
  have key : ∀ (xs : List (Nat × Nat)) (b : Option (Nat × Nat)), (∀ y, b = some y → y ∈ free ∧ n ≤ y.2) → (∀ x ∈ xs, x ∈ free) →
      ∀ y, xs.foldl (fitStep n) b = some y → y ∈ free ∧ n ≤ y.2 := by
    intro xs
    induction xs with
    | nil => exact fun b hb _ => hb
    | cons x xs ih =>
      intro b hb hxs
      refine ih _ (fun y hy => ?_) fun z hz => hxs z (List.mem_cons_of_mem _ hz)
      have hx : ¬ x.2 < n → x ∈ free ∧ n ≤ x.2 := fun h => ⟨hxs x (List.mem_cons_self ..), Nat.not_lt.mp h⟩
      unfold fitStep at hy
      split at hy
      · exact hb y hy
      next hlt =>
        split at hy
        · split at hy
          · cases hy
            exact hx hlt
          · exact hb y hy
        · cases hy
          exact hx hlt
  change (free.foldl (fitStep n) none).map (fun x => x.1) = some c at h
  obtain ⟨y, hy, rfl⟩ := Option.map_eq_some_iff.mp h
  obtain ⟨hmem, hle⟩ := key free none (fun _ h => nomatch h) (fun _ h => h) y hy
  exact ⟨y.2, hmem, hle⟩

end Sys2Proof.Machine
end
section
/-! PROOFS. The free cores of a cluster, and the blocks of a gang put on them (R25, R27, R350, R354). -/

namespace Sys2Proof.Machine

/-! ## The cluster with the most free cores (R354) -/

/-- A cluster of those below `m` has the most free cores, and is the lowest of those. -/
def freest (f : Nat → Nat) (m c : Nat) : Prop := c < m ∧ ∀ x < m, f x < f c ∨ (f x = f c ∧ c ≤ x)

/-- One step of the search for the cluster with the most free cores. -/
def mostStep (b : Option (Nat × Nat)) (x : Nat × Nat) : Option (Nat × Nat) :=
  match b with
  | some y => if y.2 < x.2 then some x else b
  | none => some x

/-- What a search for the cluster with the most free cores has found among those below `m`. -/
def freestFound (f : Nat → Nat) (m : Nat) (b : Option (Nat × Nat)) : Prop := (b = none → m = 0) ∧ ∀ y, b = some y → y.2 = f y.1 ∧ freest f m y.1

theorem freestFound_step {f : Nat → Nat} {m : Nat} {b : Option (Nat × Nat)} (h : freestFound f m b) : freestFound f (m + 1) (mostStep b (m, f m)) := by
  have hnew (hmore : ∀ x < m, f x < f m) : freestFound f (m + 1) (some (m, f m)) := by
    refine ⟨(fun h => nomatch h), fun y hy => ?_⟩
    cases hy
    refine ⟨rfl, Nat.lt_succ_self m, fun x hx => ?_⟩
    rcases Nat.lt_succ_iff_lt_or_eq.mp hx with hx | rfl
    · exact .inl (hmore x hx)
    · exact .inr ⟨rfl, Nat.le_refl _⟩
  cases b with
  | none => exact hnew fun x hx => absurd (h.1 rfl ▸ hx) (Nat.not_lt_zero x)
  | some z =>
    obtain ⟨hz, hzm, hzbest⟩ := h.2 z rfl
    by_cases hmore : z.2 < f m
    · rw [show mostStep (some z) (m, f m) = some (m, f m) from if_pos hmore]
      refine hnew fun x hx => ?_
      have := hzbest x hx
      omega
    · rw [show mostStep (some z) (m, f m) = some z from if_neg hmore]
      refine ⟨(fun h => nomatch h), fun y hy => ?_⟩
      cases hy
      refine ⟨hz, Nat.lt_succ_of_lt hzm, fun x hx => ?_⟩
      rcases Nat.lt_succ_iff_lt_or_eq.mp hx with hx | rfl
      · exact hzbest x hx
      · omega

theorem freestFound_range (f : Nat → Nat) (m : Nat) : freestFound f m (((List.range m).map fun c => (c, f c)).foldl mostStep none) := by
  induction m with
  | zero => exact ⟨fun _ => rfl, (fun _ h => nomatch h)⟩
  | succ m ih =>
    rw [List.range_succ, List.map_append, List.foldl_append]
    exact freestFound_step ih

theorem State.reserveCluster_freest {s : State} {die i cl : Nat} (hheld : (s.die die).reserved = [])
    (hcl : freest (fun c => (s.freeCores die c).length) 16 cl) :
    s.reserveCluster die i = s.updDie die fun d =>
      { d with disp := { d.disp with spans := alterAt d.disp.spans i fun x => { x with reserved := x.reserved ++ [cl] } } } := by
  have hall : (s.clusters die fun c => !([] : List Nat).contains c) = (List.range 16).map fun c => (c, (s.freeCores die c).length) := by
    simp [State.clusters]
  have hfound := freestFound_range (fun c => (s.freeCores die c).length) 16
  unfold State.reserveCluster
  rw [hheld]
  change (match (s.clusters die fun c => !([] : List Nat).contains c).foldl mostStep none with | none => s | some (c, _) => _) = _
  rw [hall]
  generalize ((List.range 16).map fun c => (c, (s.freeCores die c).length)).foldl mostStep none = b at hfound ⊢
  cases b with
  | none => exact absurd (hfound.1 rfl) (by decide)
  | some y =>
    obtain ⟨-, hlt, hy⟩ := hfound.2 y rfl
    have h1 := hy cl hcl.1
    have h2 := hcl.2 y.1 hlt
    have heq : y.1 = cl := by
      dsimp only at h1 h2
      omega
    rw [← heq]

/-! ## Free cores -/

theorem State.mem_freeCores {s : State} {die cl k : Nat} : k ∈ s.freeCores die cl ↔
    ∃ i < 8, k = die * 128 + 8 * cl + i ∧ s.core? k = none ∧ s.freedNow k = false := by
  simp only [State.freeCores, List.mem_filterMap, List.mem_range]
  refine exists_congr fun i => and_congr_right fun _ => ?_
  by_cases h : (s.core? (die * Config.coresPerDie + 8 * cl + i)).isSome || s.freedNow (die * Config.coresPerDie + 8 * cl + i)
  · simp only [h, if_true]
    constructor
    · exact fun h => nomatch h
    · rintro ⟨rfl, hc, hf⟩
      rw [show die * 128 = die * Config.coresPerDie from rfl] at hc hf
      rw [hc, hf] at h
      exact nomatch h
  · simp only [h]
    simp only [Bool.or_eq_true, not_or, Bool.not_eq_true, Option.isSome_eq_false_iff, Option.isNone_iff_eq_none] at h
    constructor
    · intro hk
      cases hk
      exact ⟨rfl, h.1, h.2⟩
    · rintro ⟨rfl, -, -⟩
      rfl

theorem State.nodup_freeCores (s : State) (die cl : Nat) : (s.freeCores die cl).Nodup := by
  refine List.Nodup.filterMap (fun a a' b hb hb' => ?_) List.nodup_range
  simp only [Option.mem_def] at hb hb'
  split at hb
  · cases hb
  · split at hb'
    · cases hb'
    · rw [Option.some.injEq] at hb hb'
      omega

theorem nth_mem {l : List Nat} {i : Nat} (h : i < l.length) : nth l i 0 ∈ l := by
  simp [nth, h]

theorem nth_inj {l : List Nat} (hl : l.Nodup) {i j : Nat} (hi : i < l.length) (hj : j < l.length) (h : nth l i 0 = nth l j 0) : i = j := by
  simp only [nth, List.getElem?_eq_getElem hi, List.getElem?_eq_getElem hj, Option.getD_some] at h
  exact hl.getElem_inj_iff.mp h

/-! ## A block is put on a core (R25) -/

theorem State.tellMembers_eq (s : State) (d : Nat) (couched broke : List Nat) :
    ∃ doms ua, s.tellMembers d couched broke = { s with domains := doms, ualink := ua } := by
  have htell (ps : List Nat) (m : CouchMsg) (t : State) : ∃ ua, ps.foldl (fun s p => State.tell s d p m) t = { t with ualink := ua } := by
    induction ps generalizing t with
    | nil => exact ⟨t.ualink, rfl⟩
    | cons p ps ih =>
      obtain ⟨ua, h⟩ := ih (t.tell d p m)
      exact ⟨ua, h⟩
  unfold State.tellMembers
  split
  · exact ⟨s.domains, s.ualink, rfl⟩
  · obtain ⟨ua, h⟩ := htell (s.memberPkgs d) ((s.domain d).noticeMsg couched broke) s
    dsimp only
    rw [h]
    split
    · exact ⟨s.domains, ua, rfl⟩
    · exact ⟨_, ua, rfl⟩

theorem State.countBlocks_eq (s : State) (d vid : Nat) (up : Bool) : ∃ doms ua, s.countBlocks d vid up = { s with domains := doms, ualink := ua } := by
  unfold State.countBlocks
  split
  · exact ⟨s.domains, s.ualink, rfl⟩
  · split
    · exact ⟨s.domains, _, rfl⟩
    · unfold State.countBlock
      obtain ⟨doms, ua, h⟩ := State.tellMembers_eq (s.updDomain d fun x =>
        { x with
          epochs := x.epochs + 1
          joint := { x.joint with swept := x.joint.swept.filter fun y => y.1 != vid }
          table := x.table.alter vid fun e =>
            { e with blocks := if up then e.blocks + 1 else e.blocks - 1, swept := [], epoch := x.epochs + 1 } }) d [] []
      exact ⟨doms, ua, h⟩

/-- A core holds the block of a gang that a span placed there (R25, R358). -/
structure State.hasStarted (s t : State) (sp : Span) (g : Grid) (n k b : Nat) (x : Core) : Prop where
  core : t.core? k = some x
  grid : x.grid = sp.grid
  queue : x.queue = sp.queue
  span : x.span = sp.index
  gang : x.gang = n
  block : x.block = b
  vid : x.vid = g.vid
  phase : x.phase = .clearing
  launch : x.launch = { g.launch with budget := s.budgetOf sp.queue g.launch }

/-- The blocks put on cores so far: all else of the state is as it was, but for domains, messages and the grid's list of cores. -/
structure State.blocksPut (s t : State) (sp : Span) (g : Grid) (cores : List Nat) (n : Nat) : Prop where
  frame : ∃ cs gs doms ua, t = { s with cores := cs, grids := gs, domains := doms, ualink := ua }
  started : ∀ b < n, ∃ x, s.hasStarted t sp g sp.next (nth cores b 0) b x
  others : ∀ k, (∀ b < n, nth cores b 0 ≠ k) → t.core? k = s.core? k
  grid : ∀ j x, s.grids.find j = some x → ∃ ks, t.grids.find j = some { x with cores := ks }

theorem State.placeBlock_eq (s : State) (k : Nat) (sp : Span) (g : Grid) (block vid side pair : Nat) : ∃ tlb doms ua,
    s.placeBlock k sp g block vid side pair = { s with
      cores := s.cores.put k (Core.start s tlb { g.launch with budget := s.budgetOf sp.queue g.launch } sp.grid sp.queue sp.index sp.next block vid side pair)
      grids := s.grids.alter sp.grid fun g => { g with cores := setAdd g.cores k }
      domains := doms
      ualink := ua } := by
  let l := { g.launch with budget := s.budgetOf sp.queue g.launch }
  obtain ⟨doms, ua, h⟩ := State.countBlocks_eq { s with
    cores := s.cores.put k (Core.start s (s.tlbAtStart k l.asid) l sp.grid sp.queue sp.index sp.next block vid side pair)
    grids := s.grids.alter sp.grid fun g => { g with cores := setAdd g.cores k } } l.domain vid true
  exact ⟨s.tlbAtStart k l.asid, doms, ua, h⟩

theorem State.blocksPut_placeOne {s t : State} {sp : Span} {g : Grid} {cores : List Nat} {n : Nat} (h : s.blocksPut t sp g cores n) (hc : cores.Nodup)
    (hn : n < cores.length) (hred : g.launch.redundant = false) (die : Nat) (twins : List Nat) :
    s.blocksPut (t.placeOne die sp g cores twins n) sp g cores (n + 1) := by
  obtain ⟨tlb, doms, ua, heq⟩ := t.placeBlock_eq (nth cores n 0) sp g n g.vid 0 0
  have hplace : t.placeOne die sp g cores twins n = t.placeBlock (nth cores n 0) sp g n g.vid 0 0 := by
    simp only [State.placeOne, hred, Bool.not_false, if_true]
  obtain ⟨cs, gs, doms', ua', hframe⟩ := h.frame
  have hbudget : t.budgetOf sp.queue g.launch = s.budgetOf sp.queue g.launch := by rw [hframe]; rfl
  have hold (k : Nat) (hk : k ≠ nth cores n 0) : (t.placeOne die sp g cores twins n).core? k = t.core? k := by
    rw [hplace, heq]
    exact KMap.find_put_other _ _ _ _ hk
  refine ⟨?_, fun b hb => ?_, fun k hk => ?_, fun j x hx => ?_⟩
  · rw [hplace, heq, hframe]
    exact ⟨_, _, _, _, rfl⟩
  · rcases Nat.lt_succ_iff_lt_or_eq.mp hb with hb | rfl
    · obtain ⟨x, hx⟩ := h.started b hb
      have hne : nth cores b 0 ≠ nth cores n 0 := fun he => Nat.ne_of_lt hb (nth_inj hc (hb.trans hn) hn he)
      exact ⟨x, { hx with core := (hold _ hne).trans hx.core }⟩
    · have hcore : (t.placeOne die sp g cores twins b).core? (nth cores b 0) =
          some (Core.start t tlb { g.launch with budget := t.budgetOf sp.queue g.launch } sp.grid sp.queue sp.index sp.next b g.vid 0 0) := by
        rw [hplace, heq]
        exact KMap.find_put_same _ _ _
      exact ⟨_, hcore, rfl, rfl, rfl, rfl, rfl, rfl, rfl, by rw [← hbudget]; rfl⟩
  · rw [hold k fun he => hk n (Nat.lt_succ_self n) he.symm]
    exact h.others k fun b hb => hk b (Nat.lt_succ_of_lt hb)
  · obtain ⟨ks, hks⟩ := h.grid j x hx
    rw [hplace, heq]
    by_cases hj : j = sp.grid
    · subst hj
      exact ⟨_, by rw [KMap.find_alter_same, hks]; rfl⟩
    · exact ⟨ks, by rw [KMap.find_alter_other _ _ _ _ hj, hks]⟩

theorem State.blocksPut_fold (s : State) {sp : Span} {g : Grid} {cores : List Nat} (hc : cores.Nodup) (hred : g.launch.redundant = false) (die : Nat)
    (twins : List Nat) {n : Nat} (hn : n ≤ cores.length) :
    s.blocksPut ((List.range n).foldl (fun s b => s.placeOne die sp g cores twins b) s) sp g cores n := by
  induction n with
  | zero =>
    exact ⟨⟨s.cores, s.grids, s.domains, s.ualink, rfl⟩, fun b hb => absurd hb (Nat.not_lt_zero b), fun _ _ => rfl, fun j x hx => ⟨x.cores, hx⟩⟩
  | succ n ih =>
    rw [List.range_succ, List.foldl_append]
    exact State.blocksPut_placeOne (ih (Nat.le_of_succ_le hn)) hc hn hred die twins

end Sys2Proof.Machine
end
section
/-! PROOFS. The decisions of a dispatcher on whose die one span waits (R350 to R354). -/

namespace Sys2Proof.Machine

/-- One span waits on a die, of a grid that is alive and not redundant, and whose queue has a quantum. -/
structure State.onlySpan (s : State) (die : Nat) (sp : Span) (g : Grid) : Prop where
  dieLt : die < 12
  spans : (s.die die).disp.spans = [sp]
  grid : s.grids.find sp.grid = some g
  alive : s.gridDead sp.grid = false
  single : g.launch.redundant = false
  quantum : (s.queue sp.queue).quantum ≠ 0

section
variable {s t : State} {die : Nat} {sp : Span} {g : Grid}

theorem State.onlySpan.turns (h : s.onlySpan die sp g) (ht : State.turnsOnly die s t) : t.onlySpan die sp g :=
  ⟨h.dieLt, ht.spans.trans h.spans, ht.grids ▸ h.grid, (ht.gridDead _).trans h.alive, h.single, ht.queue _ ▸ h.quantum⟩

theorem State.onlySpan.launch (h : s.onlySpan die sp g) : s.launchOfGrid sp.grid = some g.launch := by
  rw [State.launchOfGrid, h.grid]
  rfl

theorem State.onlySpan.coresident (h : s.onlySpan die sp g) : s.coresident sp.grid = g.launch.coresident := by
  rw [State.coresident, h.launch]
  rfl

/-- The places of the spans of the die. -/
theorem State.onlySpan.places (h : s.onlySpan die sp g) :
    (List.range (s.die die).disp.spans.length).zip (s.die die).disp.spans = [(0, sp)] := by
  rw [h.spans]
  rfl

theorem State.onlySpan.reserved (h : s.onlySpan die sp g) : (s.die die).reserved = sp.reserved := by
  rw [Die.reserved, h.spans]
  simp

/-! ## A gang is placed (R25, R350, R352) -/

theorem State.nextGang_spans {u : State} (hd : die < 12) (hspans : (u.die die).disp.spans = [sp]) (gangs : Nat) :
    ((u.nextGang die 0 sp gangs).die die).disp.spans =
      if gangs ≤ sp.next + 1 then [] else [{ sp with next := sp.next + 1, since := u.fabric, reserved := [] }] := by
  unfold State.nextGang
  rw [(State.turnsOnly_leaveRing hd _ _).spans, u.die_updDie_same _ hd, hspans]
  split <;> rfl

/-- A step after which only the die's dispatcher differs. -/
theorem State.nextGang_frame (u : State) (hd : die < 12) (gangs : Nat) : ({ u.nextGang die 0 sp gangs with dies := u.dies } : State) = u := by
  have h := (State.turnsOnly_leaveRing hd (u.updDie die fun d =>
    { d with disp := { d.disp with
        spans := if gangs ≤ sp.next + 1 then dropAt d.disp.spans 0
                 else alterAt d.disp.spans 0 fun x => { x with next := sp.next + 1, since := u.fabric, reserved := [] } } }) sp.queue).eq
  unfold State.nextGang
  rw [h]
  exact u.updDie_frame die _

theorem State.nextGang_freed (u : State) (hd : die < 12) (gangs j : Nat) : ((u.nextGang die 0 sp gangs).die j).disp.freed = (u.die j).disp.freed := by
  unfold State.nextGang
  rw [(State.turnsOnly_leaveRing hd _ _).freed]
  by_cases hj : j = die
  · rw [hj, u.die_updDie_same _ hd]
  · rw [u.die_updDie_other _ hj]

/-- A gang of the only span has been placed on a cluster: its blocks have started there, and the next gang is the candidate. -/
structure State.gangPlaced (s t : State) (die : Nat) (sp : Span) (g : Grid) (cl : Nat) : Prop where
  frame : ∃ cs gs doms ua ds, t = { s with cores := cs, grids := gs, domains := doms, ualink := ua, dies := ds }
  started : ∀ b < g.launch.blocks, ∃ x, s.hasStarted t sp g sp.next (nth (s.freeCores die cl) b 0) b x
  others : ∀ k, (∀ b < g.launch.blocks, nth (s.freeCores die cl) b 0 ≠ k) → t.core? k = s.core? k
  spans : (t.die die).disp.spans = if g.launch.gangs ≤ sp.next + 1 then [] else [{ sp with next := sp.next + 1, since := s.fabric, reserved := [] }]
  freed : ∀ j, (t.die j).disp.freed = (s.die j).disp.freed
  grid : ∃ ks, t.grids.find sp.grid = some { g with cores := ks }

theorem State.placeGang_places (hd : die < 12) (hone : (s.die die).disp.spans = [sp]) (hgrid : s.grids.find sp.grid = some g)
    (hred : g.launch.redundant = false) {cl : Nat} (hfit : g.launch.blocks ≤ (s.freeCores die cl).length) :
    s.gangPlaced (s.placeGang die 0 [cl]) die sp g cl := by
  have hput := s.blocksPut_fold (sp := sp) (s.nodup_freeCores die cl) hred die [] hfit
  generalize hu : (List.range g.launch.blocks).foldl (fun x b => State.placeOne x die sp g (s.freeCores die cl) [] b) s = u at hput
  obtain ⟨cs, gs, doms, ua, hframe⟩ := hput.frame
  obtain ⟨w, hwdef⟩ : ∃ w, w = u.charge die sp.queue g.launch.domain (g.launch.blocks * s.budgetOf sp.queue g.launch * [cl].length) := ⟨_, rfl⟩
  have hw : State.turnsOnly die u w := hwdef ▸ State.turnsOnly_charge hd u _ _ _
  have hplace : s.placeGang die 0 [cl] = w.nextGang die 0 sp g.launch.gangs := by
    rw [hwdef, ← hu]
    unfold State.placeGang
    rw [hone, List.getElem?_cons_zero]
    dsimp only
    rw [hgrid]
    rfl
  have hnext := w.nextGang_frame (sp := sp) hd g.launch.gangs
  have hdies : u.dies = s.dies := by rw [hframe]
  have hspans : (w.die die).disp.spans = [sp] := by
    rw [hw.spans, State.die, hdies]
    exact hone
  have hcore (k : Nat) : (w.nextGang die 0 sp g.launch.gangs).core? k = u.core? k := by
    rw [State.eq_of_dies_frame hnext]
    exact hw.core? k
  have hfab : w.fabric = s.fabric := by rw [hw.fabric, hframe]; rfl
  rw [hplace]
  refine ⟨⟨cs, gs, doms, ua, (w.nextGang die 0 sp g.launch.gangs).dies, ?_⟩, fun b hb => ?_, fun k hk => (hcore k).trans (hput.others k hk), ?_, fun j => ?_, ?_⟩
  · exact (State.eq_of_dies_frame hnext).trans (congrArg (fun x : State => ({ x with dies := (w.nextGang die 0 sp g.launch.gangs).dies } : State))
      (hw.eq.trans (congrArg (fun x : State => ({ x with dies := w.dies } : State)) hframe)))
  · obtain ⟨x, hx⟩ := hput.started b hb
    exact ⟨x, { hx with core := (hcore _).trans hx.core }⟩
  · rw [State.nextGang_spans hd hspans, hfab]
  · rw [w.nextGang_freed hd, hw.freed, State.die, hdies]
    rfl
  · obtain ⟨ks, hks⟩ := hput.grid sp.grid g hgrid
    refine ⟨ks, ?_⟩
    rw [State.eq_of_dies_frame hnext]
    exact hw.grids ▸ hks

end

end Sys2Proof.Machine
end
section
/-! PROOFS. A dispatcher's decision where one span waits, the reservation of an old candidate, and the grid with the token (R350 to R355). -/

namespace Sys2Proof.Machine

section
variable {s t : State} {die : Nat} {sp : Span} {g : Grid}

/-! ## The steps of a decision before the choice -/

theorem State.onlySpan.pruneSpans_eq (h : s.onlySpan die sp g) :
    s.pruneSpans die = s.updDie die fun d => { d with disp := { d.disp with spans := d.disp.spans.filter fun x => !s.gridDead x.grid } } := by
  have hgone : ((s.die die).disp.spans.filter fun x => s.gridDead x.grid) = [] := by
    rw [h.spans]
    simp [h.alive]
  rw [State.pruneSpans, State.dropSpans, hgone]
  rfl

theorem State.onlySpan.keeps (h : s.onlySpan die sp g) :
    ((s.die die).disp.spans.filter fun x => !s.gridDead x.grid) = (s.die die).disp.spans := by
  rw [h.spans]
  simp [h.alive]

theorem State.onlySpan.pruned_disp (h : s.onlySpan die sp g) : ((s.pruneSpans die).die die).disp = (s.die die).disp := by
  rw [h.pruneSpans_eq, s.die_updDie_same _ h.dieLt]
  simp only [h.keeps]

theorem State.onlySpan.pruned (h : s.onlySpan die sp g) : State.turnsOnly die s (s.pruneSpans die) := by
  rw [h.pruneSpans_eq]
  refine State.turnsOnly_updDie h.dieLt s _ ?_
  simp only [Die.turnless, h.keeps]

theorem State.gatherSpan_of_noToken (h : s.token = []) (die : Nat) : s.gatherSpan die = s := by
  simp only [State.gatherSpan, State.tokenSpan, h]

theorem State.onlySpan.ageSpans (h : s.onlySpan die sp g) (hages : s.ages die sp = false) : s.ageSpans die (s.die die).disp.spans.length = s := by
  rw [h.spans]
  simp only [List.length_cons, List.length_nil, State.ageSpans]
  rw [h.places]
  simp [hages]

theorem State.onlySpan.orderPairs (h : s.onlySpan die sp g) : s.orderPairs die = s := by
  unfold State.orderPairs
  rw [h.spans]
  simp [h.launch, h.single]

theorem State.onlySpan.agedChoice (h : s.onlySpan die sp g) (hr : sp.reserved = []) : s.agedChoice die = none := by
  unfold State.agedChoice
  dsimp only
  rw [h.places]
  simp [hr]

/-! ## The choice (R350 to R352) -/

/-- The only span of a die fits a cluster best, and nothing keeps its queue from being served. -/
structure State.serves (s : State) (die : Nat) (sp : Span) (g : Grid) (cl : Nat) : Prop where
  only : s.onlySpan die sp g
  open_ : sp.reserved = []
  alone : g.launch.coresident = false
  ungated : (s.queue sp.queue).draft = false
  fits : fitsBest (fun c => (s.freeCores die c).length) g.launch.blocks 16 cl

theorem State.serves.turns {cl : Nat} (h : s.serves die sp g cl) (ht : State.turnsOnly die s t) : t.serves die sp g cl :=
  ⟨h.only.turns ht, h.open_, h.alone, by rw [ht.queue]; exact h.ungated, by simpa only [ht.freeCores] using h.fits⟩

theorem State.serves.queueChoice {cl : Nat} (h : s.serves die sp g cl) : s.queueChoice die sp.queue = some (0, [cl]) := by
  have hclusters : (s.clusters die fun c => !([] : List Nat).contains c || ([] : List Nat).contains c) = (List.range 16).map fun c => (c, (s.freeCores die c).length) := by
    simp [State.clusters]
  have hfit : s.fit die sp false = some [cl] := by
    simp only [State.fit, h.only.launch, State.pairRoom, h.only.single, h.only.reserved, h.open_, hclusters, pickClusters, bestFit_eq h.fits]
    simp
  have hgated : s.gated die sp.queue g.launch.domain = false := by simp [State.gated, h.ungated]
  unfold State.queueChoice
  dsimp only
  rw [h.only.places]
  simp [h.only.coresident, h.alone, h.only.launch, hgated, hfit]

theorem satDef_pos {x : Int} (h : 0 < x) : 0 < satDef x := by
  unfold satDef
  omega

theorem State.serves.visit {cl : Nat} (h : s.serves die sp g cl) (c : Nat)
    (hdef : 0 < ((s.die die).disp.defs.find sp.queue).getD 0 + (s.queue sp.queue).quantum) :
    ∃ u, State.turnsOnly die s u ∧ s.visit die c [sp.queue] 2 0 = u.placeGang die 0 [cl] := by
  by_cases hlow : ((s.die die).disp.defs.find sp.queue).getD 0 ≤ 0
  · have hmove := State.turnsOnly_moveDef h.only.dieLt s sp.queue ((s.queue sp.queue).quantum : Int)
    have hserves := h.turns hmove
    have hdefs : ¬ (((s.moveDef die sp.queue ((s.queue sp.queue).quantum : Int)).die die).disp.defs.find sp.queue).getD 0 ≤ 0 := by
      rw [State.moveDef, s.die_updDie_same _ h.only.dieLt]
      simp only [KMap.find_put_same, Option.getD_some]
      exact Int.not_le.mpr (satDef_pos hdef)
    refine ⟨_, hmove.trans (State.turnsOnly_setPointer h.only.dieLt _ c sp.queue), ?_⟩
    rw [State.visit]
    simp only [List.length_cons, List.length_nil, Nat.zero_add, Nat.mod_one, show nth [sp.queue] 0 0 = sp.queue from rfl, h.queueChoice, hlow, true_or, if_true]
    rw [State.visit]
    simp only [List.length_cons, List.length_nil, Nat.zero_add, Nat.mod_one, show nth [sp.queue] 0 0 = sp.queue from rfl, hserves.queueChoice, hdefs,
      hserves.only.quantum, or_self, if_false]
  · refine ⟨_, State.turnsOnly_setPointer h.only.dieLt s c sp.queue, ?_⟩
    rw [State.visit]
    simp only [List.length_cons, List.length_nil, Nat.zero_add, Nat.mod_one, show nth [sp.queue] 0 0 = sp.queue from rfl, h.queueChoice, hlow, h.only.quantum,
      or_self, if_false]

theorem pointerPlace_singleton (q p : Nat) : pointerPlace [q] p = 0 := by
  by_cases h : p ≤ q <;> simp [pointerPlace, nth, h]

theorem State.serves.serveClasses {cl : Nat} (h : s.serves die sp g cl) {classes : List Nat} (hc : (s.queue sp.queue).prio ∈ classes)
    (hdef : 0 < ((s.die die).disp.defs.find sp.queue).getD 0 + (s.queue sp.queue).quantum) :
    ∃ u, State.turnsOnly die s u ∧ s.serveClasses die classes = u.placeGang die 0 [cl] := by
  induction classes with
  | nil => simp at hc
  | cons c rest ih =>
    rw [State.serveClasses]
    by_cases hp : (s.queue sp.queue).prio = c
    · have hring : s.ring die c = [sp.queue] := by
        simp [State.ring, h.only.spans, hp, setAdd]
      obtain ⟨u, hu, hv⟩ := h.visit c hdef
      refine ⟨u, hu, ?_⟩
      rw [hring, pointerPlace_singleton]
      simpa [h.queueChoice] using hv
    · have hring : s.ring die c = [] := by
        simp [State.ring, h.only.spans, hp]
      rw [hring]
      simpa using ih ((List.mem_cons.mp hc).resolve_left hp)

/-- A die takes its next decision not before the next fabric cycle (R350). -/
def State.takesTurn (s : State) (die : Nat) : State := s.updDie die fun d => { d with disp := { d.disp with next := s.fabric + 1 } }

/-- The gang that a decision places, once the spans are pruned and the old candidates have reserved (R351). -/
def State.chooses (s : State) (die : Nat) : State :=
  match s.agedChoice die with
  | some (i, cs) => s.placeGang die i cs
  | none => s.serveClasses die [7, 6, 5, 4, 3, 2, 1, 0]

theorem execDispatchDecision_of_due (hdie : die < 12) (hnext : (s.die die).disp.next ≤ s.fabric) (htoken : s.tokenDecides die = false) :
    exec (.dispatchDecision die) s = .next ((((((s.takesTurn die).pruneSpans die).gatherSpan die).ageSpans die
      ((s.takesTurn die).die die).disp.spans.length).orderPairs die).chooses die) := by
  have hdue : ¬ (Config.dies ≤ die ∨ s.fabric < (s.die die).disp.next) := by
    rintro (hd | hn)
    · exact absurd hdie (Nat.not_lt.mpr hd)
    · exact absurd hnext (Nat.not_le.mpr hn)
  change execDispatchDecision die s = _
  simp only [execDispatchDecision, if_neg hdue, htoken, Bool.false_eq_true, if_false, State.takesTurn]
  generalize State.orderPairs _ die = u
  rfl

theorem dispatchDecision_notYet (hnext : s.fabric < (s.die die).disp.next) : exec (.dispatchDecision die) s = .next s := by
  change execDispatchDecision die s = _
  rw [execDispatchDecision, if_pos (.inr hnext)]

theorem State.serves.pruned_defs {cl : Nat} (h : s.serves die sp g cl) :
    (((s.takesTurn die).pruneSpans die).die die).disp.defs = (s.die die).disp.defs := by
  have hturn : State.turnsOnly die s (s.takesTurn die) := State.turnsOnly_updDie h.only.dieLt s _ rfl
  rw [(h.turns hturn).only.pruned_disp, State.takesTurn, s.die_updDie_same _ h.only.dieLt]

/-- A decision serves the only span of the die (R350 to R352). -/
theorem State.serves.decision {cl : Nat} (h : s.serves die sp g cl) (htoken : s.token = []) (hage : s.fabric < sp.since + (s.die die).disp.age)
    (hnext : (s.die die).disp.next ≤ s.fabric) (hprio : (s.queue sp.queue).prio < 8)
    (hdef : 0 < ((s.die die).disp.defs.find sp.queue).getD 0 + (s.queue sp.queue).quantum) :
    ∃ u, State.turnsOnly die s u ∧ exec (.dispatchDecision die) s = .next (u.placeGang die 0 [cl]) := by
  have hdecides : s.tokenDecides die = false := by simp [State.tokenDecides, State.tokenReady, htoken]
  have hexec := execDispatchDecision_of_due h.only.dieLt hnext hdecides
  have hturn : State.turnsOnly die s (s.takesTurn die) := State.turnsOnly_updDie h.only.dieLt s _ rfl
  have hprune : State.turnsOnly die s ((s.takesTurn die).pruneSpans die) := hturn.trans (h.turns hturn).only.pruned
  have hdefs := h.pruned_defs
  have hlen : ((s.takesTurn die).die die).disp.spans.length = (((s.takesTurn die).pruneSpans die).die die).disp.spans.length := by
    rw [hturn.spans, hprune.spans]
  rw [hlen] at hexec
  generalize (s.takesTurn die).pruneSpans die = u at hexec hprune hdefs
  have hu := h.turns hprune
  have hages : u.ages die sp = false := by
    have hage' : (u.die die).disp.age = (s.die die).disp.age := hprune.disp (fun d => d.age) fun _ => rfl
    simp [State.ages, hage', hprune.fabric, hage]
  rw [State.gatherSpan_of_noToken (hprune.token.trans htoken), hu.only.ageSpans hages, hu.only.orderPairs, State.chooses, hu.only.agedChoice h.open_] at hexec
  obtain ⟨v, hv, hserve⟩ := hu.serveClasses (classes := [7, 6, 5, 4, 3, 2, 1, 0]) (by
    have hp : (u.queue sp.queue).prio < 8 := by rw [hprune.queue]; exact hprio
    generalize (u.queue sp.queue).prio = p at hp
    interval_cases p <;> decide) (by rw [hdefs, hprune.queue]; exact hdef)
  exact ⟨v, hprune.trans hv, hexec.trans (congrArg _ hserve)⟩

end

end Sys2Proof.Machine
end
section
/-! PROOFS. An old candidate reserves a cluster, and the grid with the token is placed whole (R354, R355). -/

namespace Sys2Proof.Machine

section
variable {s t u : State} {die : Nat} {sp : Span} {g : Grid}

theorem gangAged_reserves (h : s.onlySpan die sp g) (halone : g.launch.coresident = false) (hr : sp.reserved = [])
    (hage : sp.since + (s.die die).disp.age ≤ s.fabric) {cl : Nat} (hcl : freest (fun c => (s.freeCores die c).length) 16 cl) :
    exec (.gangAged die sp.grid) s = .next (s.updDie die fun d =>
      { d with disp := { d.disp with spans := alterAt d.disp.spans 0 fun x => { x with reserved := x.reserved ++ [cl] } } }) := by
  have hages : s.ages die sp = true := by
    simp [State.ages, hr, h.coresident, halone, h.alive, hage]
  change execGangAged die sp.grid s = _
  simp only [execGangAged]
  rw [h.places]
  simp only [List.find?_cons, decide_true, hages, if_true]
  rw [State.reserveCluster_freest (h.reserved.trans hr) hcl]

/-! ## The grid with the token (R355) -/

theorem State.gangPlaced.freedNow {cl : Nat} (h : s.gangPlaced t die sp g cl) (k : Nat) : t.freedNow k = s.freedNow k := by
  obtain ⟨cs, gs, doms, ua, ds, hframe⟩ := h.frame
  have hfab : t.fabric = s.fabric := by rw [hframe]; rfl
  simp only [State.freedNow, h.freed, hfab]

/-- A core that was free and took no block of the gang is still free. -/
theorem State.gangPlaced.stillFree {cl c k : Nat} (h : s.gangPlaced t die sp g cl) (hk : k ∈ s.freeCores die c)
    (hnot : ∀ b < g.launch.blocks, nth (s.freeCores die cl) b 0 ≠ k) : k ∈ t.freeCores die c := by
  obtain ⟨i, hi, hki, hcore, hfree⟩ := State.mem_freeCores.mp hk
  exact State.mem_freeCores.mpr ⟨i, hi, hki, (h.others k hnot).trans hcore, (h.freedNow k).trans hfree⟩

/-- A gang takes as many free cores of its cluster as it has blocks, and none elsewhere. -/
theorem State.gangPlaced.freeCores_length {cl : Nat} (h : s.gangPlaced t die sp g cl) (hfit : g.launch.blocks ≤ (s.freeCores die cl).length) (c : Nat) :
    (s.freeCores die c).length - (if c = cl then g.launch.blocks else 0) ≤ (t.freeCores die c).length := by
  have hnodup := s.nodup_freeCores die c
  by_cases hc : c = cl
  · subst hc
    rw [if_pos rfl, ← List.length_drop]
    refine ((hnodup.sublist (List.drop_sublist _ _)).subperm fun k hk => ?_).length_le
    obtain ⟨j, hj, hjk⟩ := List.mem_drop_iff_getElem.mp hk
    refine h.stillFree (List.mem_of_mem_drop hk) fun b hb he => ?_
    have hlt : g.launch.blocks + j < (s.freeCores die c).length := by omega
    have hnth : nth (s.freeCores die c) (g.launch.blocks + j) 0 = k := by
      rw [nth, List.getElem?_eq_getElem hlt, hjk]
      rfl
    have := nth_inj hnodup (hb.trans_le hfit) hlt (he.trans hnth.symm)
    omega
  · rw [if_neg hc, Nat.sub_zero]
    refine (hnodup.subperm fun k hk => h.stillFree hk fun b hb he => ?_).length_le
    obtain ⟨i, hi, hki, -, -⟩ := State.mem_freeCores.mp hk
    obtain ⟨i', hi', hki', -, -⟩ := State.mem_freeCores.mp (nth_mem (hb.trans_le hfit))
    omega

/-- The span of the token grid on a die while its gangs are placed: `i` of them stand on cores, and the clusters of a list still have the free cores that
the list gives them. -/
structure State.placing (s u : State) (die : Nat) (sp : Span) (g : Grid) (i : Nat) (free : List (Nat × Nat)) : Prop where
  frame : ∃ cs gs doms ua ds, u = { s with cores := cs, grids := gs, domains := doms, ualink := ua, dies := ds }
  spans : if i < g.launch.gangs then ∃ since reserved, (u.die die).disp.spans = [{ sp with next := i, since := since, reserved := reserved }]
    else (u.die die).disp.spans = []
  grid : ∃ ks, u.grids.find sp.grid = some { g with cores := ks }
  started : ∀ n < i, ∀ b < g.launch.blocks, ∃ k x, s.hasStarted u sp g n k b x
  room : ∀ x ∈ free, x.2 ≤ (u.freeCores die x.1).length

theorem State.tokenSpan_of_one {rest : List Nat} (htoken : u.token = sp.grid :: rest) (hspans : (u.die die).disp.spans = [sp]) :
    u.tokenSpan die = some (0, sp) := by
  simp [State.tokenSpan, htoken, hspans]

theorem takeCores_mem {free : List (Nat × Nat)} {c n : Nat} {x : Nat × Nat} (h : x ∈ takeCores free c n) :
    ∃ m, (x.1, m) ∈ free ∧ x.2 = m - if x.1 = c then n else 0 := by
  obtain ⟨y, hy, rfl⟩ := List.mem_map.mp h
  by_cases hc : y.1 = c
  · exact ⟨y.2, by simpa [hc] using hc ▸ hy, by simp [hc]⟩
  · exact ⟨y.2, by simpa [hc] using hy, by simp [hc]⟩

theorem State.placing.next {i cl : Nat} {free : List (Nat × Nat)} (h : s.placing u die sp g i free) (hd : die < 12) (hi : i < g.launch.gangs)
    (hred : g.launch.redundant = false) (hbest : bestFit free g.launch.blocks = some cl) :
    s.placing (u.placeGang die 0 [cl]) die sp g (i + 1) (takeCores free cl g.launch.blocks) := by
  obtain ⟨cs, gs, doms, ua, ds, hframe⟩ := h.frame
  have hspans := h.spans
  rw [if_pos hi] at hspans
  obtain ⟨since, reserved, hspans⟩ := hspans
  obtain ⟨ks, hgrid⟩ := h.grid
  obtain ⟨m, hmem, hle⟩ := mem_of_bestFit hbest
  have hfit : g.launch.blocks ≤ (u.freeCores die cl).length := hle.trans (h.room _ hmem)
  have hbudget : u.budgetOf sp.queue g.launch = s.budgetOf sp.queue g.launch := by rw [hframe]; rfl
  have hput := State.placeGang_places (sp := { sp with next := i, since := since, reserved := reserved }) (g := { g with cores := ks }) hd hspans hgrid hred hfit
  generalize u.placeGang die 0 [cl] = v at hput
  obtain ⟨cs', gs', doms', ua', ds', hframe'⟩ := hput.frame
  refine ⟨⟨cs', gs', doms', ua', ds', by rw [hframe', hframe]⟩, ?_, ?_, fun n hn b hb => ?_, fun x hx => ?_⟩
  · have hs := hput.spans
    dsimp only at hs
    by_cases hlast : g.launch.gangs ≤ i + 1
    · rw [if_neg (Nat.not_lt.mpr hlast)]
      rw [if_pos hlast] at hs
      exact hs
    · rw [if_pos (Nat.not_le.mp hlast)]
      rw [if_neg hlast] at hs
      exact ⟨_, _, hs⟩
  · obtain ⟨ks', hks'⟩ := hput.grid
    exact ⟨ks', hks'⟩
  · rcases Nat.lt_succ_iff_lt_or_eq.mp hn with hn | rfl
    · obtain ⟨k, x, hx⟩ := h.started n hn b hb
      refine ⟨k, x, { hx with core := (hput.others k fun b' hb' he => ?_).trans hx.core }⟩
      obtain ⟨-, -, -, hnone, -⟩ := State.mem_freeCores.mp (nth_mem (hb'.trans_le hfit))
      rw [he, hx.core] at hnone
      exact nomatch hnone
    · obtain ⟨x, hx⟩ := hput.started b hb
      exact ⟨_, x, ⟨hx.core, hx.grid, hx.queue, hx.span, hx.gang, hx.block, hx.vid, hx.phase, hx.launch.trans (by rw [← hbudget])⟩⟩
  · obtain ⟨m, hm, hxm⟩ := takeCores_mem hx
    have hlen := hput.freeCores_length hfit x.1
    have hroom := h.room _ hm
    dsimp only at hlen hroom
    omega

theorem State.placing.whole {rest : List Nat} (htoken : s.token = sp.grid :: rest) (hd : die < 12) (hred : g.launch.redundant = false)
    {m i : Nat} {free : List (Nat × Nat)} {plan : List (List Nat)} (h : s.placing u die sp g i free) (hi : i + m = g.launch.gangs)
    (hplan : planSpan free g.launch.blocks false m = some plan) : ∃ free', s.placing (u.placeSpan die plan) die sp g g.launch.gangs free' := by
  induction m generalizing u i free plan with
  | zero =>
    cases hplan
    rw [← hi]
    exact ⟨free, h⟩
  | succ m ih =>
    rw [planSpan, pickClusters, show (none.orElse fun _ => bestFit free g.launch.blocks) = bestFit free g.launch.blocks from rfl] at hplan
    cases hbest : bestFit free g.launch.blocks with
    | none => rw [hbest] at hplan; exact nomatch hplan
    | some cl =>
      rw [hbest] at hplan
      obtain ⟨tail, htail, rfl⟩ := Option.map_eq_some_iff.mp hplan
      have hi' : i < g.launch.gangs := by omega
      have hspans := h.spans
      rw [if_pos hi'] at hspans
      obtain ⟨since, reserved, hspans⟩ := hspans
      obtain ⟨cs, gs, doms, ua, ds, hframe⟩ := h.frame
      have htok : u.tokenSpan die = some (0, { sp with next := i, since := since, reserved := reserved }) :=
        State.tokenSpan_of_one (rest := rest) (by rw [hframe]; exact htoken) hspans
      rw [State.placeSpan, htok]
      exact ih (h.next hd hi' hred hbest) (by omega) htail

/-- The grid with the token has its only span on a die, reports, and fits there (R355). -/
structure State.tokenFits (s : State) (die : Nat) (sp : Span) (g : Grid) (rest : List Nat) (plan : List (List Nat)) : Prop where
  only : s.onlySpan die sp g
  token : s.token = sp.grid :: rest
  dies : g.dies = [die]
  first : sp.next = 0
  reported : sp.reported = true
  gangs : 0 < g.launch.gangs
  plan : s.spanPlan die sp = some plan

theorem State.tokenFits.ready {rest : List Nat} {plan : List (List Nat)} (h : s.tokenFits die sp g rest plan) : s.tokenReady = some (sp.grid, g) := by
  have hspan := State.tokenSpan_of_one h.token h.only.spans
  simp [State.tokenReady, h.token, h.only.grid, h.only.alive, h.dies, hspan, h.reported, h.plan]

theorem State.tokenFits.placeToken {rest : List Nat} {plan : List (List Nat)} (h : s.tokenFits die sp g rest plan) :
    s.placeToken = some { ((s.placeSpan die plan).updDie die fun d => { d with disp := { d.disp with next := s.fabric + 1 } }) with token := rest } := by
  have hspan := State.tokenSpan_of_one h.token h.only.spans
  simp only [State.placeToken, h.ready, h.token, h.dies, List.foldl_cons, List.foldl_nil, hspan, h.plan, Option.getD_some]

theorem State.tokenFits.starts {rest : List Nat} {plan : List (List Nat)} (h : s.tokenFits die sp g rest plan) :
    ∃ free, s.placing (s.placeSpan die plan) die sp g g.launch.gangs free := by
  have hplan := h.plan
  simp only [State.spanPlan, h.only.launch, State.pairRoom, h.only.single, h.only.quantum, Bool.not_false, Bool.true_or, Bool.not_true, Bool.false_eq_true,
    or_self, if_false] at hplan
  refine State.placing.whole h.token h.only.dieLt h.only.single (i := 0) ?_ (Nat.zero_add _) hplan
  refine ⟨⟨s.cores, s.grids, s.domains, s.ualink, s.dies, rfl⟩, ?_, ⟨g.cores, h.only.grid⟩, fun n hn => absurd hn (Nat.not_lt_zero n), fun x hx => ?_⟩
  · rw [if_pos h.gangs]
    exact ⟨sp.since, sp.reserved, by rw [h.only.spans, ← h.first]⟩
  · obtain ⟨c, -, rfl⟩ := List.mem_map.mp hx
    exact Nat.le_refl _

end

end Sys2Proof.Machine
end
section
/-! PROOFS. How a block is killed and how it leaves its core (R26, R264, R358, R392, R393). -/

namespace Sys2Proof.Machine

/-! ## What voiding the reservations of a block leaves alone -/

/-- A state with the blocks, the grids and the error logs of another, in the same cycle. -/
structure State.blocksKept (s t : State) : Prop where
  cores : t.cores = s.cores
  grids : t.grids = s.grids
  now : t.now = s.now
  errlog : ∀ d, (t.die d).errlog = (s.die d).errlog

namespace State.blocksKept

variable {s t u : State}

@[refl] theorem refl (s : State) : s.blocksKept s := ⟨rfl, rfl, rfl, fun _ => rfl⟩

theorem trans (h : s.blocksKept t) (h' : t.blocksKept u) : s.blocksKept u :=
  ⟨h'.cores.trans h.cores, h'.grids.trans h.grids, h'.now.trans h.now, fun d => (h'.errlog d).trans (h.errlog d)⟩

theorem core? (h : s.blocksKept t) (k : Nat) : t.core? k = s.core? k := by simp [State.core?, h.cores]

theorem of_slices (h : s.slicesOnly t) : s.blocksKept t :=
  ⟨h.cores, h.grids, by simpa [State.beyondSlices] using congrArg State.now h.beyond, h.errlog⟩

theorem updDomain (s : State) (d : Nat) (f : Domain → Domain) : s.blocksKept (s.updDomain d f) := ⟨rfl, rfl, rfl, fun _ => rfl⟩

theorem foldl {α : Type} (l : List α) (f : State → α → State) (hf : ∀ (s : State) x, s.blocksKept (f s x)) (s : State) : s.blocksKept (l.foldl f s) := by
  induction l generalizing s with
  | nil => exact refl s
  | cons x l ih => exact (hf s x).trans (ih _)

end State.blocksKept

theorem State.settleReservation_blocksKept (s : State) (d i : Nat) : s.blocksKept (s.settleReservation d i) := by
  unfold State.settleReservation
  split
  · rfl
  · dsimp only
    split
    · exact .updDomain _ _ _
    · refine (State.blocksKept.updDomain s d _).trans ((State.blocksKept.foldl _ _ (fun s j => ?_) _).trans (.updDomain _ _ _))
      split <;> exact .of_slices (State.engineWrite_slicesOnly _ _ _ _ _)

theorem State.voidReservations_blocksKept (s : State) (k grid dom : Nat) : s.blocksKept (s.voidReservations k grid dom) := by
  unfold State.voidReservations State.settleEgress
  exact (State.blocksKept.updDomain s dom _).trans
    ((State.blocksKept.foldl _ _ (fun s i => s.settleReservation_blocksKept dom i) _).trans (.updDomain _ _ _))

/-! ## Kills (R392, R393) -/

/-- The block `c` of core `k` has been killed, with a record of the kill as the last one of its die (R392, R393). -/
structure State.blockKilled (t : State) (k : Nat) (c : Core) (code detail : W8) : Prop where
  core : ∃ x, t.core? k = some x ∧ x.phase = .killed ∧ x.thr = c.thr ∧ ∀ p ∈ x.ports, p.run = none
  record : ∃ r, (t.die (k / 128)).errlog.getLast? = some r ∧ r.code = code ∧ r.detail = detail ∧ r.core = BitVec.ofNat 8 (k % 128) ∧ r.vid = BitVec.ofNat 8 c.vid

theorem State.blockKilled.kept {t u : State} {k : Nat} {c : Core} {code detail : W8} (h : t.blockKilled k c code detail) (hu : t.blocksKept u) :
    u.blockKilled k c code detail :=
  ⟨by rw [hu.core?]; exact h.core, by rw [hu.errlog]; exact h.record⟩

/-- A block that runs, or runs to its end after a squash, has neither ended nor been killed or halted. -/
theorem Core.acts_iff (c : Core) : c.acts = true ↔ c.phase = .running ∨ c.phase = .stopping := by simp [Core.acts]

theorem getLast?_logged (l : List LogRecord) (r : LogRecord) :
    (if (l ++ [r]).length > 1024 then (l ++ [r]).drop 1 else l ++ [r]).getLast? = some r := by
  split
  · next h =>
    obtain ⟨x, l, rfl⟩ := List.exists_cons_of_ne_nil (l := l) (by rintro rfl; simp at h)
    simp
  · simp

theorem State.logError_last (s : State) {die : Nat} (hd : die < 12) (r : LogRecord) : ((s.logError die r).die die).errlog.getLast? = some r := by
  rw [State.logError, s.die_updDie_same _ hd]
  exact getLast?_logged _ _

@[simp] theorem State.logError_core? (s : State) (die k : Nat) (r : LogRecord) : (s.logError die r).core? k = s.core? k := by
  simp [State.logError, State.core?, State.updDie_cores]

/-- The block that a kill leaves on its core (R392). -/
def Core.killedAt (c : Core) (now : Nat) : Core :=
  { c with
    phase := .killed
    stopAt := if c.phase = .completed then c.stopAt else some now
    heldCounts := c.countsNow
    ports := c.ports.map fun p => { p with run := none, count := 0 }
    claims := []
    frags := c.frags.map fun _ => Fragment.free
    mx := c.mx.map fun m => if m.st = .queued then { m with st := .done, loose := [] } else m
    copies := c.copies.map fun x => if x.st = .waiting then { x with st := .ended } else x }

/-- What follows the report of a kill: it is counted, the invocation takes its status, and the block's reservations become void (R252, R344, R392). -/
def State.countKill (s : State) (k : Nat) (c : Core) (code : W8) : State :=
  let s := s.updDie (k / 128) fun d => { d with kills := d.count d.kills 32 }
  let s := if code = 0x37#8 then s else s.setStatus c.queue 0x06
  s.voidReservations k c.grid c.launch.domain

theorem State.countKill_blocksKept (s : State) (k : Nat) (c : Core) (code : W8) : s.blocksKept (s.countKill k c code) := by
  have hcounted : s.blocksKept (s.updDie (k / 128) fun d => { d with kills := d.count d.kills 32 }) := .of_slices (.updDie _ _ _ fun _ => rfl)
  have hstatus (v : State) : v.blocksKept (if code = 0x37#8 then v else v.setStatus c.queue 0x06) := by
    split
    · rfl
    · exact ⟨rfl, rfl, rfl, fun _ => rfl⟩
  unfold State.countKill
  exact hcounted.trans ((hstatus _).trans (State.voidReservations_blocksKept _ k c.grid c.launch.domain))

theorem State.killBlock_eq {s : State} {k : Nat} {c : Core} (hc : s.core? k = some c) (hacts : c.acts = true) (code detail : W8) (agent : Nat) (pc : W64) :
    let u := s.updCore k fun c => c.killedAt s.now
    ∃ rs, s.killBlock k code detail agent pc =
      { (u.report (k / 128) (u.recordOf k agent code detail (killClass code detail) pc)).countKill k c code with resolves := rs } := by
  have hphase : ¬ (c.phase = .killed ∨ c.phase = .halted ∨ (c.phase = .completed ∧ code ≠ 0x32#8 ∧ code ≠ 0x37#8)) := by
    rcases c.acts_iff.mp hacts with h | h <;> simp [h]
  intro u
  unfold State.killBlock
  rw [hc]
  dsimp only
  rw [if_neg hphase]
  split <;> exact ⟨_, rfl⟩

/-- The kill of a block that acts, whose report is that of no error beyond its log record (R392, R393, R406). -/
theorem State.killBlock_kills {s : State} {k : Nat} {c : Core} (hc : s.core? k = some c) (hk : k / 128 < 12) (hacts : c.acts = true) {code : W8}
    (detail : W8) (hclass : killClass code detail = 0#2) (agent : Nat) (pc : W64) : (s.killBlock k code detail agent pc).blockKilled k c code detail := by
  obtain ⟨rs, heq⟩ := State.killBlock_eq hc hacts code detail agent pc
  dsimp only at heq
  obtain ⟨u, hu⟩ : ∃ u, u = s.updCore k fun c => c.killedAt s.now := ⟨_, rfl⟩
  have huc : u.core? k = some (c.killedAt s.now) := by rw [hu, State.core?_updCore_same, hc]; rfl
  rw [← hu] at heq
  obtain ⟨r, hr⟩ : ∃ r, r = u.recordOf k agent code detail (killClass code detail) pc := ⟨_, rfl⟩
  have hreport : u.report (k / 128) r = u.logError (k / 128) r := by
    have : r.cls = 0#2 := by simp only [hr, State.recordOf, huc, hclass]
    simp [State.report, this]
  have hlog : (u.logError (k / 128) r).blockKilled k c code detail := by
    refine ⟨⟨c.killedAt s.now, by simp [huc], rfl, rfl, ?_⟩, r, u.logError_last hk r, ?_⟩
    · intro p hp
      obtain ⟨q, -, rfl⟩ := List.mem_map.mp hp
      rfl
    · rw [hr, State.recordOf, huc]
      exact ⟨rfl, rfl, rfl, rfl⟩
  rw [heq, ← hr, hreport]
  exact hlog.kept ((State.countKill_blocksKept _ k c code).trans ⟨rfl, rfl, rfl, fun _ => rfl⟩)

/-! ## The block that waits for itself, and the block whose budget is used (R212, R358) -/

theorem Core.overBudget_iff (c : Core) (now : Nat) : c.overBudget now = true ↔ c.acts = true ∧ ∃ t, c.firstIssue = some t ∧ t + c.launch.budget ≤ now := by
  simp [Core.overBudget, Option.any_eq_true]

theorem State.endBudget_kills {s : State} {k : Nat} {c : Core} (hc : s.core? k = some c) (hk : k / 128 < 12) (hover : c.overBudget s.now = true) :
    (s.endBudget k).blockKilled k c 0x30#8 0#8 := by
  have hacts := ((c.overBudget_iff s.now).mp hover).1
  unfold State.endBudget
  rw [hc, if_pos (by exact hover)]
  exact State.killBlock_kills hc hk hacts 0#8 (by decide) _ _

theorem State.endBudget_notYet {s : State} {k : Nat} {c : Core} (hc : s.core? k = some c) (hover : c.overBudget s.now = false) : s.endBudget k = s := by
  unfold State.endBudget
  rw [hc, if_neg (by simp [hover])]

theorem Slot.deadWait_iff (sl : Slot) :
    sl.deadWait = true ↔ sl.st = .waiting .rclaim ∨ (∃ b, sl.st = .waiting (.bar b)) ∨ ∃ b, sl.st = .waiting (.barwait b) := by
  unfold Slot.deadWait
  split <;> simp_all

/-- A warp of which every live lane waits where only the block itself could end the wait (R212). -/
theorem Core.deadWarp_of_stuck {c : Core} {w : Nat} (ha : (c.thread w).slotA.st = .empty ∨ (c.thread w).slotA.deadWait = true)
    (hb : (c.thread w).slotB.st = .empty ∨ (c.thread w).slotB.deadWait = true) (hone : (c.thread w).slotA.deadWait = true ∨ (c.thread w).slotB.deadWait = true)
    (hstack : ∀ f ∈ (c.thread w).stack, (∃ p m r i, f = .path p m r i) → (c.thread w).slotA.deadWait = true ∧ (c.thread w).slotB.deadWait = true) :
    c.deadWarp w = true := by
  have hframes : ((c.thread w).stack.all fun f =>
      match f with | .path _ _ _ _ => (c.thread w).slotA.deadWait && (c.thread w).slotB.deadWait | .join _ _ _ _ => true) = true := by
    rw [List.all_eq_true]
    intro f hf
    cases f with
    | path p m r i => simpa using hstack _ hf ⟨p, m, r, i, rfl⟩
    | join l e a v => rfl
  unfold Core.deadWarp
  simp only [Bool.or_eq_true, Bool.and_eq_true, decide_eq_true_eq]
  exact .inr ⟨⟨⟨ha, hb⟩, hone⟩, hframes⟩

theorem barrierDead_kills {s : State} {k : Nat} {c : Core} (hc : s.core? k = some c) (hk : k / 128 < 12) (hrun : c.phase = .running)
    (hsome : ∃ w < c.launch.warps, (c.thread w).ended = false) (hdead : ∀ w < c.launch.warps, c.deadWarp w = true) (hfrags : ∀ f ∈ c.frags, f.valid = false)
    (hgrant : c.grantable = false) (hbars : ∀ b ∈ c.bars, (c.settledBar b).complete = false) :
    ∃ t, exec (.barrierDead k) s = .next t ∧ t.blockKilled k c 0x31#8
      (if ∃ w < c.launch.warps, (c.thread w).slotA.st = .waiting .rclaim ∨ (c.thread w).slotB.st = .waiting .rclaim then 1#8 else 0#8) := by
  have hacts := c.acts_iff.mpr (.inl hrun)
  change ∃ t, execBarrierDead k s = .next t ∧ _
  unfold execBarrierDead
  rw [hc]
  dsimp only
  rw [if_pos (by simpa [hrun, hgrant] using ⟨hsome, hdead, hfrags, hbars⟩)]
  refine ⟨_, rfl, ?_⟩
  convert State.killBlock_kills hc hk hacts _ _ _ _ using 1
  · simp
  · split <;> decide

theorem Core.deadWarp_of_ended {c : Core} {w : Nat} (h : (c.thread w).ended = true) : c.deadWarp w = true := by
  simp [Core.deadWarp, h]

end Sys2Proof.Machine
end
section
/-! PROOFS. How a block that has ended leaves its core, and a block that has been cleared begins (R26, R263, R264, R404). -/

namespace Sys2Proof.Machine

/-! ## Leaving the core (R26, R264) -/

theorem State.leavePair_kept (s : State) (die k : Nat) (c : Core) : s.blocksKept (s.leavePair die k c) := by
  unfold State.leavePair
  split
  · rfl
  · split
    · rfl
    · split
      · exact .of_slices (.updDie _ _ _ fun _ => rfl)
      · rfl

/-- A block has left core `k`, and its grid has one less to wait for (R26, R28). -/
structure State.blockLeft (s t : State) (k : Nat) (c : Core) : Prop where
  free : t.core? k = none
  others : ∀ j, j ≠ k → t.core? j = s.core? j
  grid : ∀ g, s.grids.find c.grid = some g → t.grids.find c.grid = some { g with remaining := g.remaining - 1 }

theorem State.releaseCore_leaves {s : State} {k : Nat} {c : Core} (hc : s.core? k = some c) (hk : k / 128 < 12) : s.blockLeft (s.releaseCore k) k c := by
  obtain ⟨u, hu⟩ : ∃ u, u = s.moveDef (k / 128) c.queue ((c.launch.budget : Int) - (s.used c : Int)) := ⟨_, rfl⟩
  have hturns : State.turnsOnly (k / 128) s u := hu ▸ State.turnsOnly_moveDef hk _ _ _
  obtain ⟨doms, ua, hcount⟩ := u.countBlocks_eq c.launch.domain c.vid false
  have hcores : (s.releaseCore k).cores = s.cores.del k := by
    unfold State.releaseCore
    rw [hc]
    dsimp only
    rw [State.updDie_cores, show dieOfCore k = k / 128 from rfl, ← hu, hcount]
    dsimp only
    rw [hturns.eq]
  have hgrids : (s.releaseCore k).grids = s.grids.alter c.grid fun g => { g with remaining := g.remaining - 1 } := by
    unfold State.releaseCore
    rw [hc]
    dsimp only
    rw [(State.leavePair_kept _ _ _ _).grids, State.updDie_grids, show dieOfCore k = k / 128 from rfl, ← hu, hcount]
    dsimp only
    rw [hturns.grids]
  exact ⟨by rw [State.core?, hcores, KMap.find_del_same], fun j hj => by rw [State.core?, hcores, KMap.find_del_other _ _ _ hj]; rfl,
    fun g hg => by rw [hgrids, KMap.find_alter_same, hg]; rfl⟩

theorem State.blockLeft.of_kept {s u t : State} {k : Nat} {c : Core} (hu : s.blocksKept u) (h : u.blockLeft t k c) : s.blockLeft t k c :=
  ⟨h.free, fun j hj => (h.others j hj).trans (hu.core? j), fun g hg => h.grid g (by rw [hu.grids]; exact hg)⟩

/-- A block whose reservations have become void leaves its core (R252, R264). -/
theorem State.voidedAndReleased_leaves {s : State} {k : Nat} {c : Core} (hc : s.core? k = some c) (hk : k / 128 < 12) :
    s.blockLeft ((s.voidReservations k c.grid c.launch.domain).releaseCore k) k c := by
  have hvoid := s.voidReservations_blocksKept k c.grid c.launch.domain
  exact .of_kept hvoid (State.releaseCore_leaves (by rw [hvoid.core?, hc]) hk)

/-! ## `BLOCK_COMPLETE` (R26, R358, R404) -/

/-- A block of which nothing is left to do (R26). -/
structure Core.hasEnded (c : Core) : Prop where
  acts : c.acts = true
  threads : ∀ th ∈ c.thr, th.ended = true ∧ ∀ x ∈ th.inflight, x.done = true
  noFragment : ∀ f ∈ c.frags, f.valid = false
  engines : c.enginesDone = true

/-- The test of `BLOCK_COMPLETE` (R26). -/
theorem Core.hasEnded_iff (c : Core) : c.hasEnded ↔
    c.acts = true ∧ (c.thr.all fun t => t.ended && t.inflight.all fun x => x.done) = true ∧ (c.frags.all fun f => !f.valid) = true ∧ c.enginesDone = true := by
  constructor
  · rintro ⟨ha, ht, hf, he⟩
    exact ⟨ha, by simpa using ht, by simpa using hf, he⟩
  · rintro ⟨ha, ht, hf, he⟩
    exact ⟨ha, by simpa using ht, by simpa using hf, he⟩

variable {s : State} {k : Nat} {c : Core}

theorem blockComplete_ended (hc : s.core? k = some c) (hend : c.hasEnded) (hover : c.overBudget s.now = false) :
    exec (.blockComplete k) s = .next (
      let v := s.voidReservations k c.grid c.launch.domain
      if c.launch.redundant then v.updCore k fun c => { c with phase := .completed, stopAt := some v.now } else v.releaseCore k) := by
  change execBlockComplete k s = _
  unfold execBlockComplete
  rw [hc]
  dsimp only
  rw [if_neg (by simp [hover]), if_pos (c.hasEnded_iff.mp hend)]

theorem blockComplete_leaves (hc : s.core? k = some c) (hk : k / 128 < 12) (hend : c.hasEnded) (hover : c.overBudget s.now = false)
    (hred : c.launch.redundant = false) : ∃ t, exec (.blockComplete k) s = .next t ∧ s.blockLeft t k c := by
  refine ⟨_, blockComplete_ended hc hend hover, ?_⟩
  dsimp only
  rw [if_neg (by simp [hred])]
  exact State.voidedAndReleased_leaves hc hk

/-- A block of a pair keeps its core until the pair is settled (R404). -/
theorem blockComplete_pair (hc : s.core? k = some c) (hend : c.hasEnded) (hover : c.overBudget s.now = false) (hred : c.launch.redundant = true) :
    ∃ t, exec (.blockComplete k) s = .next t ∧ t.core? k = some { c with phase := .completed, stopAt := some s.now } ∧ ∀ j, j ≠ k → t.core? j = s.core? j := by
  have hvoid := s.voidReservations_blocksKept k c.grid c.launch.domain
  refine ⟨_, blockComplete_ended hc hend hover, ?_⟩
  dsimp only
  rw [if_pos hred]
  refine ⟨?_, fun j hj => (State.core?_updCore_other _ _ _ _ hj).trans (hvoid.core? j)⟩
  rw [State.core?_updCore_same, hvoid.core?, hc, hvoid.now]
  rfl

theorem blockComplete_overBudget (hc : s.core? k = some c) (hk : k / 128 < 12) (hover : c.overBudget s.now = true) :
    ∃ t, exec (.blockComplete k) s = .next t ∧ t.blockKilled k c 0x30#8 0#8 := by
  change ∃ t, execBlockComplete k s = .next t ∧ _
  unfold execBlockComplete
  rw [hc]
  dsimp only
  rw [if_pos hover]
  exact ⟨_, rfl, State.endBudget_kills hc hk hover⟩

theorem blockComplete_notYet (hc : s.core? k = some c) (hend : ¬ c.hasEnded) (hover : c.overBudget s.now = false) : exec (.blockComplete k) s = .next s := by
  change execBlockComplete k s = _
  unfold execBlockComplete
  rw [hc]
  dsimp only
  rw [if_neg (by simp [hover]), if_neg (fun h => hend (c.hasEnded_iff.mpr h))]

/-! ## `BLOCK_RELEASE` (R264, R392) -/

theorem blockRelease_leaves (hc : s.core? k = some c) (hk : k / 128 < 12) (hphase : c.phase = .killed ∨ c.phase = .halted) (heng : c.enginesDone = true)
    (hreq : c.requestsDone = true) (hred : c.launch.redundant = false) (hrec : s.recordDue k c = false) (hway : s.writesOnWay k = false) :
    ∃ t, exec (.blockRelease k) s = .next t ∧ s.blockLeft t k c := by
  have hholds : s.pairHolds (dieOfCore k) c = false := by simp [State.pairHolds, hred]
  change ∃ t, execBlockRelease k s = .next t ∧ _
  unfold execBlockRelease
  rw [hc]
  dsimp only
  rw [if_pos (by rcases hphase with h | h <;> simp [h, heng, hreq, hrec, hway, hholds])]
  exact ⟨_, rfl, State.voidedAndReleased_leaves hc hk⟩

theorem blockRelease_acting (hc : s.core? k = some c) (hacts : c.acts = true) (hstop : c.stopped = false) : exec (.blockRelease k) s = .next s := by
  change execBlockRelease k s = _
  unfold execBlockRelease
  rw [hc]
  dsimp only
  rw [if_neg (by rcases c.acts_iff.mp hacts with h | h <;> simp [h, hstop])]

/-! ## `CLEARING_DONE` (R263) -/

theorem clearingDone_runs (hc : s.core? k = some c) (hphase : c.phase = .clearing) :
    ∃ t, exec (.clearingDone k) s = .next t ∧ t.core? k = some { c with phase := .running } ∧ t.now = max s.now c.clearedAt ∧
      ({ t with cores := s.cores, now := s.now } : State) = s ∧ ∀ j, j ≠ k → t.core? j = s.core? j := by
  refine ⟨({ s with now := max s.now c.clearedAt } : State).updCore k fun c => { c with phase := .running }, ?_, ?_, rfl, rfl,
    fun j hj => State.core?_updCore_other _ _ _ _ hj⟩
  · change execClearingDone k s = _
    unfold execClearingDone
    rw [hc]
    dsimp only
    rw [if_pos hphase]
  · rw [State.core?_updCore_same]
    exact congrArg _ hc

theorem clearingDone_otherPhase (hc : s.core? k = some c) (hphase : c.phase ≠ .clearing) : exec (.clearingDone k) s = .next s := by
  change execClearingDone k s = _
  unfold execClearingDone
  rw [hc]
  dsimp only
  rw [if_neg hphase]

end Sys2Proof.Machine
end
section
/-! PROOFS. Arbitration at a port: the warp that comes first begins a run (R30, R356, R357). -/

namespace Sys2Proof.Machine

/-! ## The warp that comes first (R357) -/

theorem Core.before_iff (c : Core) (ready : List Nat) (a b : Nat) : c.before ready a b = true ↔
    c.rankOf ready a < c.rankOf ready b ∨ (c.rankOf ready a = c.rankOf ready b ∧
      ((c.thread a).readySince < (c.thread b).readySince ∨ ((c.thread a).readySince = (c.thread b).readySince ∧ a < b))) := by
  simp [Core.before]

theorem Core.before_trans {c : Core} {ready : List Nat} {x y z : Nat} (h : c.before ready x y = true) (h' : c.before ready y z = true) :
    c.before ready x z = true := by
  rw [Core.before_iff] at *
  omega

theorem Core.before_of_not {c : Core} {ready : List Nat} {x y : Nat} (h : ¬ c.before ready x y = true) (hne : x ≠ y) : c.before ready y x = true := by
  rw [Core.before_iff] at *
  omega

/-- A warp of a list comes before every other one of it. -/
def Core.firstOf (c : Core) (ready l : List Nat) (x : Nat) : Prop := x ∈ l ∧ ∀ z ∈ l, z ≠ x → c.before ready x z = true

/-- One step of the search for the winner. -/
def Core.winStep (c : Core) (ready : List Nat) (w : Option Nat) (a : Nat) : Option Nat :=
  match w with
  | none => some a
  | some b => if c.before ready a b then some a else some b

theorem Core.winStep_firstOf {c : Core} {ready l : List Nat} {b : Nat} (h : c.firstOf ready l b) (a : Nat) :
    ∃ x, c.winStep ready (some b) a = some x ∧ c.firstOf ready (l ++ [a]) x := by
  obtain ⟨hb, hfirst⟩ := h
  by_cases hab : c.before ready a b = true
  · refine ⟨a, if_pos hab, by simp, fun z hz hne => ?_⟩
    rcases List.mem_append.mp hz with hz | hz
    · by_cases hzb : z = b
      · exact hzb ▸ hab
      · exact Core.before_trans hab (hfirst z hz hzb)
    · exact absurd (List.mem_singleton.mp hz) hne
  · refine ⟨b, if_neg hab, by simp [hb], fun z hz hne => ?_⟩
    rcases List.mem_append.mp hz with hz | hz
    · exact hfirst z hz hne
    · obtain rfl := List.mem_singleton.mp hz
      exact Core.before_of_not hab hne

theorem Core.foldl_winStep {c : Core} {ready : List Nat} (l seen : List Nat) {b : Nat} (h : c.firstOf ready seen b) :
    ∃ x, l.foldl (c.winStep ready) (some b) = some x ∧ c.firstOf ready (seen ++ l) x := by
  induction l generalizing seen b with
  | nil => exact ⟨b, rfl, by simpa using h⟩
  | cons a l ih =>
    obtain ⟨x, hx, hfirst⟩ := Core.winStep_firstOf h a
    rw [List.foldl_cons, hx]
    simpa using ih _ hfirst

/-- The winner comes before every other ready warp. -/
theorem Core.winner_first (c : Core) {ready : List Nat} (h : ready ≠ []) : ∃ x, c.winner ready = some x ∧ c.firstOf ready ready x := by
  obtain ⟨a, l, rfl⟩ := List.exists_cons_of_ne_nil h
  exact Core.foldl_winStep l [a] ⟨by simp, by simp⟩

/-! ## The cycle of the arbitration (R356) -/

/-- One step of the search for the earliest cycle. -/
def earlierStep (f : Nat → Nat) (m : Option Nat) (a : Nat) : Option Nat :=
  match m with
  | none => some (f a)
  | some n => some (min n (f a))

theorem foldl_earlierStep_some (f : Nat → Nat) (l : List Nat) (n : Nat) :
    ∃ m, l.foldl (earlierStep f) (some n) = some m ∧ (m = n ∨ ∃ x ∈ l, f x = m) ∧ m ≤ n ∧ ∀ x ∈ l, m ≤ f x := by
  induction l generalizing n with
  | nil => exact ⟨n, rfl, .inl rfl, Nat.le_refl n, by simp⟩
  | cons a l ih =>
    obtain ⟨m, hm, hfrom, hle, hall⟩ := ih (min n (f a))
    refine ⟨m, hm, ?_, by omega, ?_⟩
    · rcases hfrom with rfl | ⟨x, hx, rfl⟩
      · by_cases h : n ≤ f a
        · exact .inl (Nat.min_eq_left h)
        · exact .inr ⟨a, by simp, (Nat.min_eq_right (by omega)).symm⟩
      · exact .inr ⟨x, by simp [hx], rfl⟩
    · intro x hx
      rcases List.mem_cons.mp hx with rfl | hx
      · omega
      · exact hall x hx

/-- The earliest cycle of a list of warps. -/
theorem foldl_earlierStep {f : Nat → Nat} {l : List Nat} {first : Nat} (hin : ∃ x ∈ l, f x = first) (hall : ∀ x ∈ l, first ≤ f x) :
    l.foldl (earlierStep f) none = some first := by
  obtain ⟨y, hy, rfl⟩ := hin
  obtain ⟨a, l, rfl⟩ := List.exists_cons_of_ne_nil (List.ne_nil_of_mem hy)
  obtain ⟨m, hm, hfrom, hle, hleast⟩ := foldl_earlierStep_some f l (f a)
  rw [List.foldl_cons]
  refine hm.trans (congrArg some ?_)
  have h1 : f y ≤ m := by
    rcases hfrom with rfl | ⟨x, hx, rfl⟩
    · exact hall a (by simp)
    · exact hall x (by simp [hx])
  have h2 : m ≤ f y := by
    rcases List.mem_cons.mp hy with rfl | hy
    · exact hle
    · exact hleast y hy
  omega

/-! ## The run that begins -/

theorem State.offered_may {s : State} {k a : Nat} {c : Core} (h : s.warpReady k a c = true) :
    s.mayIssue k a c (s.offered k a c) = true ∧
      (s.mayIssue k a c .a = true → s.mayIssue k a c .b = true → s.offered k a c ≠ (c.thread a).lastSlot) := by
  have hother (w : SlotId) : otherSlot w ≠ w := by cases w <;> simp [otherSlot]
  unfold State.warpReady at h
  unfold State.offered
  cases ha : s.mayIssue k a c .a <;> cases hb : s.mayIssue k a c .b
  · simp [ha, hb] at h
  · simp [hb]
  · simp [ha]
  · refine ⟨?_, fun _ _ => hother _⟩
    have hboth (w : SlotId) : s.mayIssue k a c w = true := by cases w <;> assumption
    exact hboth _

variable {s : State} {k port : Nat} {c : Core}

/-- The next arbitration of a port on which nothing runs. -/
theorem State.nextRun_wins {first : Nat} (hport : port < 4) (hrun : c.phase = .running) (hidle : (c.portOf port).run = none)
    (hin : ∃ x ∈ s.portReady k port c, (c.thread x).nextAt = first) (hall : ∀ x ∈ s.portReady k port c, first ≤ (c.thread x).nextAt) :
    let ready := (s.portReady k port c).filter fun x => decide ((c.thread x).nextAt ≤ max s.now first)
    ∃ x, s.nextRun k port c = some (max s.now first, ready, x, s.offered k x c) ∧ c.firstOf ready ready x := by
  intro ready
  have hdue := foldl_earlierStep hin hall
  have hne : ready ≠ [] := by
    obtain ⟨y, hy, hat⟩ := hin
    exact List.ne_nil_of_mem (List.mem_filter.mpr ⟨hy, by simp only [decide_eq_true_eq]; omega⟩)
  obtain ⟨x, hx, hfirst⟩ := c.winner_first hne
  refine ⟨x, ?_, hfirst⟩
  unfold State.nextRun
  rw [if_neg (by simp [hrun, hidle]; omega)]
  change ((s.portReady k port c).foldl (earlierStep fun x => (c.thread x).nextAt) none).bind _ = _
  rw [hdue, Option.bind_some]
  change (c.winner ready).map _ = _
  rw [hx]
  rfl

/-- No wait at `JOINW` ends before the arbitration of a block that has none. -/
theorem State.joinsBefore_of_none (hc : s.core? k = some c) (hjoin : c.joinDue = none) (n : Nat) : s.joinsBefore k port n = s := by
  unfold State.joinsBefore
  rw [hc]
  simp [hjoin]

/-! ## The warps of the port after it (R357) -/

/-- What an arbitration won by warp `x` does to warp `z` of its port: hints end, and a ready warp that is passed over counts it. -/
def Thread.arbitrated (x : Nat) (ready : List Nat) (z : Nat) (t : Thread) : Thread :=
  { t with hint := .neutral, passed := if z = x ∨ !ready.contains z then 0 else t.passed + 1 }

theorem Core.thread_foldl_updThread (g : Nat → Thread → Thread) {l : List Nat} (hl : l.Nodup) (hle : ∀ x ∈ l, x ≤ apAgent) (c : Core) (z : Nat) :
    (l.foldl (fun c x => c.updThread x (g x)) c).thread z = if z ∈ l then g z (c.thread z) else c.thread z := by
  induction l generalizing c with
  | nil => simp
  | cons a l ih =>
    obtain ⟨ha, hl⟩ := List.nodup_cons.mp hl
    rw [List.foldl_cons, ih hl (fun x hx => hle x (by simp [hx]))]
    by_cases hz : z = a
    · subst hz
      simp [ha, Core.thread_updThread_same _ _ _ (hle z (by simp))]
    · simp [hz, Core.thread_updThread_other _ _ _ _ hz]

/-- Changes of threads of one block are made on that block alone. -/
theorem State.foldl_updThread_core (g : Nat → Thread → Thread) (l : List Nat) (s : State) (k : Nat) :
    (l.foldl (fun s x => s.updThread k x (g x)) s).core? k = (s.core? k).map (fun c => l.foldl (fun c x => c.updThread x (g x)) c) ∧
      (∀ j, j ≠ k → (l.foldl (fun s x => s.updThread k x (g x)) s).core? j = s.core? j) ∧ (l.foldl (fun s x => s.updThread k x (g x)) s).now = s.now := by
  induction l generalizing s with
  | nil => simp
  | cons a l ih =>
    obtain ⟨hsame, hother, hnow⟩ := ih (s.updThread k a (g a))
    refine ⟨?_, fun j hj => (hother j hj).trans (State.core?_updCore_other _ _ _ _ hj), hnow⟩
    rw [List.foldl_cons, hsame, State.updThread, State.core?_updCore_same, Option.map_map]
    rfl

theorem portWarps_iff {port z : Nat} (hport : port < 4) : z ∈ portWarps port ↔ z < 16 ∧ z % 4 = port := by
  simp only [portWarps, List.mem_cons, List.not_mem_nil, or_false]
  omega

theorem portWarps_nodup (port : Nat) : (portWarps port).Nodup := by
  simp [portWarps]

theorem State.mem_portReady {x : Nat} : x ∈ s.portReady k port c ↔ x ∈ portWarps port ∧ s.warpReady k x c = true := by
  simp [State.portReady]

/-- What an arbitration comes to: the warp `x`, first of the warps `ready` in that cycle, begins a run from slot `w`. -/
structure State.runBegun (s t : State) (k port : Nat) (c : Core) (ready : List Nat) (x : Nat) (w : SlotId) (y : Core) : Prop where
  core : t.core? k = some y
  run : (y.portOf port).run = some (x, w)
  count : (y.portOf port).count = 0
  lastSlot : (y.thread x).lastSlot = w
  hint : ∀ z < 16, (y.thread z).hint = if z % 4 = port then .neutral else (c.thread z).hint
  passed : ∀ z, z % 4 = port → z < 16 → (y.thread z).passed = if z ≠ x ∧ z ∈ ready then (c.thread z).passed + 1 else 0
  others : ∀ j, j ≠ k → t.core? j = s.core? j

/-- The state in which warp `x` of the warps `ready` has begun a run (R356, R357). -/
def State.beginRun (s : State) (k port : Nat) (ready : List Nat) (x : Nat) (w : SlotId) : State :=
  let s := (portWarps port).foldl (fun s z => s.updThread k z (Thread.arbitrated x ready z)) s
  let s := s.updThread k x fun t => { t with lastSlot := w }
  s.updPort k port fun p => { p with run := some (x, w), count := 0 }

theorem State.beginRun_now (s : State) (k port : Nat) (ready : List Nat) (x : Nat) (w : SlotId) : (s.beginRun k port ready x w).now = s.now :=
  (State.foldl_updThread_core (Thread.arbitrated x ready) (portWarps port) s k).2.2

theorem State.beginRun_begins (hc : s.core? k = some c) (hport : port < 4) (ready : List Nat) {x : Nat} (hx : x ∈ portWarps port) (w : SlotId) :
    ∃ y, s.runBegun (s.beginRun k port ready x w) k port c ready x w y := by
  have hle : ∀ z ∈ portWarps port, z ≤ apAgent := fun z hz => by
    have := ((portWarps_iff hport).mp hz).1
    simp only [apAgent]
    omega
  obtain ⟨hsame, hother, -⟩ := State.foldl_updThread_core (Thread.arbitrated x ready) (portWarps port) s k
  rw [hc, Option.map_some] at hsame
  have hthread := Core.thread_foldl_updThread (Thread.arbitrated x ready) (portWarps_nodup port) hle c
  generalize (portWarps port).foldl (fun c z => c.updThread z (Thread.arbitrated x ready z)) c = d at hsame hthread
  have hlast := d.thread_updThread_same x (fun t => { t with lastSlot := w }) (hle x hx)
  have hrest (z : Nat) (hz : z ≠ x) := d.thread_updThread_other x z (fun t => { t with lastSlot := w }) hz
  refine ⟨{ d.updThread x fun t => { t with lastSlot := w } with
      ports := alterPad Port.idle (d.updThread x fun t => { t with lastSlot := w }).ports port fun p => { p with run := some (x, w), count := 0 } }, ?_⟩
  have hports : ∀ ps, nth (alterPad Port.idle ps port fun p => { p with run := some (x, w), count := 0 }) (port % 4) Port.idle =
      { nth ps port Port.idle with run := some (x, w), count := 0 } := fun ps => by
    rw [Nat.mod_eq_of_lt hport, nth_alterPad_same]
  have hhint (z : Nat) : ((d.updThread x fun t => { t with lastSlot := w }).thread z).hint = (d.thread z).hint := by
    by_cases hz : z = x
    · rw [hz, hlast]
    · rw [hrest z hz]
  have hpassed (z : Nat) : ((d.updThread x fun t => { t with lastSlot := w }).thread z).passed = (d.thread z).passed := by
    by_cases hz : z = x
    · rw [hz, hlast]
    · rw [hrest z hz]
  constructor
  case core =>
    unfold State.beginRun State.updPort
    rw [State.core?_updCore_same, State.updThread, State.core?_updCore_same, hsame]
    rfl
  case run => exact congrArg Port.run (hports _)
  case count => exact congrArg Port.count (hports _)
  case lastSlot => exact congrArg Thread.lastSlot hlast
  case hint =>
    intro z hz
    refine (hhint z).trans ?_
    rw [hthread z]
    by_cases hp : z % 4 = port
    · rw [if_pos ((portWarps_iff hport).mpr ⟨hz, hp⟩), if_pos hp]
      rfl
    · rw [if_neg fun h => hp ((portWarps_iff hport).mp h).2, if_neg hp]
  case passed =>
    intro z hp hz
    refine (hpassed z).trans ?_
    rw [hthread z, if_pos ((portWarps_iff hport).mpr ⟨hz, hp⟩)]
    by_cases hpass : z ≠ x ∧ z ∈ ready
    · rw [if_pos hpass]
      exact if_neg (by simpa using hpass)
    · rw [if_neg hpass]
      exact if_pos (by simpa [imp_iff_not_or, or_comm] using hpass)
  case others =>
    intro j hj
    unfold State.beginRun State.updPort
    rw [State.core?_updCore_other _ _ _ _ hj, State.updThread, State.core?_updCore_other _ _ _ _ hj]
    exact hother j hj

/-- `PORT_ARBITRATION` of a port on which nothing runs, in a block without a wait at `JOINW` that would end before. -/
theorem portArbitration_begins {first : Nat} (hc : s.core? k = some c) (hport : port < 4) (hrun : c.phase = .running) (hidle : (c.portOf port).run = none)
    (hjoin : c.joinDue = none) (hin : ∃ x ∈ s.portReady k port c, (c.thread x).nextAt = first)
    (hall : ∀ x ∈ s.portReady k port c, first ≤ (c.thread x).nextAt) :
    let ready := (s.portReady k port c).filter fun x => decide ((c.thread x).nextAt ≤ max s.now first)
    ∃ t x y, exec (.portArbitration k port) s = .next t ∧ c.firstOf ready ready x ∧ t.now = max s.now first ∧ s.warpReady k x c = true ∧
      s.runBegun t k port c ready x (s.offered k x c) y := by
  intro ready
  obtain ⟨x, hnext, hfirst⟩ := State.nextRun_wins hport hrun hidle hin hall
  have hx := State.mem_portReady.mp (List.mem_filter.mp hfirst.1).1
  obtain ⟨y, hy⟩ := State.beginRun_begins (s := { s with now := max s.now first }) hc hport ready hx.1 (s.offered k x c)
  refine ⟨({ s with now := max s.now first } : State).beginRun k port ready x (s.offered k x c), x, y, ?_, hfirst, State.beginRun_now _ _ _ _ _ _, hx.2, ?_⟩
  · change execPortArbitration k port s = _
    unfold execPortArbitration
    dsimp only
    rw [State.joinsBefore_of_none hc hjoin, hc, Option.bind_some, hnext]
    rfl
  · exact ⟨hy.core, hy.run, hy.count, hy.lastSlot, hy.hint, hy.passed, hy.others⟩

end Sys2Proof.Machine
end
section
/-! PROOFS. Held traps and link events, run-ahead, and an access processor whose page is there (R52, R74, R132, R201, R359, R360, R386). -/

namespace Sys2Proof.Machine

/-! ## Taking a trap (R68, R132) -/

/-- Bit fields one above the other add up. -/
theorem shiftLeft_or_fields {n d c : Nat} (hd : d < 256) (hc : c < 256) : n <<< 16 ||| d <<< 8 ||| c = 65536 * n + 256 * d + c := by
  rw [Nat.or_assoc, ← Nat.shiftLeft_add_eq_or_of_lt (i := 8) (by omega), ← Nat.shiftLeft_add_eq_or_of_lt (i := 16) (by omega)]
  omega

theorem causeWord_eq (code detail : W8) (resume : Bool) (w : SlotId) : causeWord code detail resume w =
    BitVec.ofNat 32 (code.toNat + 256 * detail.toNat + 65536 * resume.toNat + (if w = .b then 262144 else 0)) := by
  have hc := code.isLt
  have hd := detail.isLt
  have hflags : ((if w = .b then 0x40000#32 else 0#32 : W32) ||| if resume then 0x10000#32 else 0#32).toNat =
      (resume.toNat + if w = .b then 4 else 0) <<< 16 := by
    cases w <;> cases resume <;> rfl
  apply BitVec.eq_of_toNat_eq
  unfold causeWord
  rw [BitVec.toNat_or, BitVec.toNat_or, hflags, BitVec.toNat_shiftLeft, BitVec.toNat_setWidth, BitVec.toNat_setWidth, BitVec.toNat_ofNat,
    Nat.mod_eq_of_lt (a := detail.toNat) (by omega), Nat.mod_eq_of_lt (a := code.toNat) (by omega), Nat.mod_eq_of_lt (a := detail.toNat <<< 8) (by omega),
    shiftLeft_or_fields hd hc]
  cases w <;> cases resume <;> simp only [if_true, if_false, reduceCtorEq, Bool.toNat_true, Bool.toNat_false] <;> omega

theorem slot1_eq (entry : W64) : slot1 entry = (entry &&& 0xFFFFFFFFFFFFFFF0#64) + 4#64 := rfl

variable {s : State} {k a : Nat} {c : Core}

/-- What entering a handler leaves of a thread `th`: the trap registers and the slot that goes on at the handler, and the rest as it was (R68, R132). -/
structure Thread.entered (th u : Thread) (w : SlotId) (x : TrapInfo) (entry : W64) : Prop where
  cause : u.trapCause = causeWord x.code x.detail x.resume w
  pc : u.trapPc = x.pc
  mask : u.trapMask = x.mask
  handler : u.handler = some w
  slot : u.slot w = { th.slot w with st := .live, pc := slot1 entry }
  v : u.v = th.v
  s : u.s = th.s
  p : u.p = th.p
  deferred : u.deferred = th.deferred
  linkEvents : u.linkEvents = th.linkEvents

theorem State.core?_countCore (s : State) (k j : Nat) (f : CoreCounters → CoreCounters) : (s.countCore k f).core? j = s.core? j := by
  simp [State.countCore, State.core?]

theorem State.thread_countCore (s : State) (k j a : Nat) (f : CoreCounters → CoreCounters) : (s.countCore k f).thread j a = s.thread j a := by
  simp [State.thread, State.core?_countCore]

theorem State.core?_endRun_other (s : State) (k a : Nat) {j : Nat} (h : j ≠ k) : (s.endRun k a).core? j = s.core? j := by
  unfold State.endRun
  split
  · rfl
  · exact State.core?_updCore_other _ _ _ _ h

theorem State.thread_endRun (s : State) (k a j b : Nat) : (s.endRun k a).thread j b = s.thread j b := by
  unfold State.endRun
  split
  · rfl
  · by_cases h : j = k
    · subst h
      simp only [State.thread, State.core?_updCore_same]
      cases s.core? j <;> rfl
    · simp [State.thread, State.core?_updCore_other _ _ _ _ h]

theorem State.endRun_now (s : State) (k a : Nat) : (s.endRun k a).now = s.now := by
  unfold State.endRun
  split <;> rfl

theorem State.thread_updThread (hc : s.core? k = some c) (ha : a ≤ apAgent) (g : Thread → Thread) : (s.updThread k a g).thread k a = g (c.thread a) := by
  simp [State.thread, State.updThread, hc, Core.thread_updThread_same _ _ _ ha]

theorem State.enterHandler_enters (hc : s.core? k = some c) (ha : a ≤ apAgent) (w : SlotId) (x : TrapInfo) (entry : W64) :
    (c.thread a).entered ((s.enterHandler k a w x entry).thread k a) w x entry := by
  unfold State.enterHandler
  rw [State.thread_endRun, State.thread_countCore, State.thread_updThread hc ha]
  cases w <;> exact ⟨rfl, rfl, rfl, rfl, rfl, rfl, rfl, rfl, rfl, rfl⟩

theorem State.enterHandler_now (s : State) (k a : Nat) (w : SlotId) (x : TrapInfo) (entry : W64) : (s.enterHandler k a w x entry).now = s.now := by
  unfold State.enterHandler
  rw [State.endRun_now, State.countCore, State.updDie_now]
  rfl

/-- A warp takes a trap in its handler when nothing keeps it from it: it runs outside run-ahead and outside a handler, in a block that has a handler and
has not heard of a squash (R132). -/
structure Core.canTrap (c : Core) (a : Nat) : Prop where
  warp : a < 16
  version : c.squashed = false
  free : (c.thread a).handler = none
  notAhead : (c.thread a).ahead = none
  entry : c.launch.trapEntry ≠ 0xFFFFFFFF#32

theorem State.takeTrap_enters (hc : s.core? k = some c) (h : c.canTrap a) (w : SlotId) (x : TrapInfo) (hx : x.code ≠ 0x0A#8) :
    s.takeTrap k a w x = s.enterHandler k a w x (c.launch.code + c.launch.trapEntry.setWidth 64) := by
  have hwarp := h.warp
  unfold State.takeTrap
  rw [hc]
  dsimp only
  rw [if_neg (by simp [h.notAhead]), if_neg (by simp [h.version]), if_neg (by omega), if_neg (by simp [h.free]), if_neg h.entry, if_neg hx]

theorem Core.updThread_eq (c : Core) (a : Nat) (g : Thread → Thread) : c.updThread a g = { c with thr := (c.updThread a g).thr } := by
  unfold Core.updThread
  split <;> rfl

theorem Core.canTrap_updThread (h : c.canTrap a) {g : Thread → Thread} (hh : (g (c.thread a)).handler = (c.thread a).handler)
    (hahead : (g (c.thread a)).ahead = (c.thread a).ahead) : (c.updThread a g).canTrap a := by
  have hwarp := h.warp
  have hth := c.thread_updThread_same a g (by simp only [apAgent]; omega)
  refine ⟨h.warp, ?_, by rw [hth, hh, h.free], by rw [hth, hahead, h.notAhead], ?_⟩
  · rw [c.updThread_eq]
    exact h.version
  · rw [c.updThread_eq]
    exact h.entry

/-! ## What is held for a warp (R74, R201) -/

theorem State.takeHeld_takes {at_ : Nat} {w : SlotId} (hnext : s.nextIssuer k a = some (w, at_)) (hrec : ((s.thread k a).slot w).atReconvergence = false)
    (f : State → SlotId → State) : s.takeHeld k a f = f { s with now := at_ } w := by
  unfold State.takeHeld
  rw [hnext]
  dsimp only
  rw [if_neg (by simp [hrec])]

theorem Slot.notAtReconvergence {sl : Slot} (h : sl.ra = Option.none ∨ sl.st ≠ .live) : sl.atReconvergence = false := by
  rcases h with h | h
  · simp [Slot.atReconvergence, h]
  · cases hra : sl.ra <;> simp [Slot.atReconvergence, hra, h]

theorem Thread.slot_deferred (th : Thread) (rest : List TrapInfo) (w : SlotId) : ({ th with deferred := rest } : Thread).slot w = th.slot w := by
  cases w <;> rfl

theorem Thread.slot_linkEvents (th : Thread) (rest : List W8) (w : SlotId) : ({ th with linkEvents := rest } : Thread).slot w = th.slot w := by
  cases w <;> rfl

/-- A trap that follows a change of the thread's own queues enters the handler of the changed thread. -/
theorem State.takeTrap_afterUpdThread (hc : s.core? k = some c) (h : c.canTrap a) {g : Thread → Thread} (hh : (g (c.thread a)).handler = (c.thread a).handler)
    (hahead : (g (c.thread a)).ahead = (c.thread a).ahead) (w : SlotId) (x : TrapInfo) (hx : x.code ≠ 0x0A#8) :
    (g (c.thread a)).entered (((s.updThread k a g).takeTrap k a w x).thread k a) w x (c.launch.code + c.launch.trapEntry.setWidth 64) ∧
      ((s.updThread k a g).takeTrap k a w x).now = s.now := by
  have hwarp := h.warp
  have ha : a ≤ apAgent := by simp only [apAgent]; omega
  have hc' : (s.updThread k a g).core? k = some (c.updThread a g) := by rw [State.updThread, State.core?_updCore_same, hc]; rfl
  have hlaunch : (c.updThread a g).launch = c.launch := by rw [c.updThread_eq]
  rw [State.takeTrap_enters hc' (Core.canTrap_updThread h hh hahead) w x hx, hlaunch, State.enterHandler_now, State.updThread_now]
  refine ⟨?_, rfl⟩
  have := State.enterHandler_enters hc' ha w x (c.launch.code + c.launch.trapEntry.setWidth 64)
  rwa [Core.thread_updThread_same _ _ _ ha] at this

theorem State.heldTrap_enters (hc : s.core? k = some c) (h : c.canTrap a) {x : TrapInfo} {rest : List TrapInfo} (hheld : (c.thread a).deferred = x :: rest)
    (hx : x.code ≠ 0x0A#8) (w : SlotId) :
    ({ c.thread a with deferred := rest } : Thread).entered ((s.heldTrap k a w).thread k a) w
        { x with mask := if x.mask = 0#32 then ((c.thread a).slot w).mask else x.mask } (c.launch.code + c.launch.trapEntry.setWidth 64) ∧
      (s.heldTrap k a w).now = s.now := by
  have hwarp := h.warp
  have hth := State.thread_updThread hc (a := a) (by simp only [apAgent]; omega) fun t => { t with deferred := rest }
  have hheld' : (s.thread k a).deferred = x :: rest := by rw [State.thread_of_core s k a c hc, hheld]
  unfold State.heldTrap
  rw [hheld']
  dsimp only
  rw [hth, Thread.slot_deferred]
  exact State.takeTrap_afterUpdThread hc h (g := fun t => { t with deferred := rest }) rfl rfl w _ hx

theorem State.linkTrap_enters (hc : s.core? k = some c) (h : c.canTrap a) {d : W8} {rest : List W8} (hheld : (c.thread a).linkEvents = d :: rest) (w : SlotId) :
    ({ c.thread a with linkEvents := rest } : Thread).entered ((s.linkTrap k a w).thread k a) w
        { code := 0x50#8, detail := d, resume := true, pc := ((c.thread a).slot w).pc, mask := ((c.thread a).slot w).mask }
        (c.launch.code + c.launch.trapEntry.setWidth 64) ∧
      (s.linkTrap k a w).now = s.now := by
  have hwarp := h.warp
  have hth := State.thread_updThread hc (a := a) (by simp only [apAgent]; omega) fun t => { t with linkEvents := rest }
  have hheld' : (s.thread k a).linkEvents = d :: rest := by rw [State.thread_of_core s k a c hc, hheld]
  unfold State.linkTrap
  rw [hheld']
  dsimp only
  rw [hth, Thread.slot_linkEvents]
  exact State.takeTrap_afterUpdThread hc h (g := fun t => { t with linkEvents := rest }) rfl rfl w _ (by simp)

/-- `WARP_TRAP_ENTRY` of a warp whose slot `w` makes the next issue (R132, R201). -/
theorem warpTrapEntry_enters {at_ : Nat} {w : SlotId} (hc : s.core? k = some c) (hnext : s.nextIssuer k a = some (w, at_)) (h : c.canTrap a)
    (hrec : ((c.thread a).slot w).atReconvergence = false) {x : TrapInfo} {rest : List TrapInfo} (hheld : (c.thread a).deferred = x :: rest) (hx : x.code ≠ 0x0A#8) :
    ∃ t, exec (.warpTrapEntry k a) s = .next t ∧ t.now = at_ ∧ ({ c.thread a with deferred := rest } : Thread).entered (t.thread k a) w
      { x with mask := if x.mask = 0#32 then ((c.thread a).slot w).mask else x.mask } (c.launch.code + c.launch.trapEntry.setWidth 64) := by
  have hth := State.thread_of_core s k a c hc
  obtain ⟨henter, hnow⟩ := State.heldTrap_enters (s := { s with now := at_ }) hc h hheld hx w
  refine ⟨_, ?_, hnow, henter⟩
  change execWarpTrapEntry k a s = _
  unfold execWarpTrapEntry
  dsimp only
  rw [if_neg (by simp [hth, h.notAhead, hheld]), State.takeHeld_takes hnext (by rw [hth, hrec])]

/-- `LINKWATCH_TRAP` of a warp whose slot `w` makes the next issue (R70, R74). -/
theorem linkwatchTrap_enters {at_ : Nat} {w : SlotId} (hc : s.core? k = some c) (hnext : s.nextIssuer k a = some (w, at_)) (h : c.canTrap a)
    (hrec : ((c.thread a).slot w).atReconvergence = false) {d : W8} {rest : List W8} (hheld : (c.thread a).linkEvents = d :: rest) :
    ∃ t, exec (.linkwatchTrap k a) s = .next t ∧ t.now = at_ ∧ ({ c.thread a with linkEvents := rest } : Thread).entered (t.thread k a) w
      { code := 0x50#8, detail := d, resume := true, pc := ((c.thread a).slot w).pc, mask := ((c.thread a).slot w).mask }
      (c.launch.code + c.launch.trapEntry.setWidth 64) := by
  have hth := State.thread_of_core s k a c hc
  obtain ⟨henter, hnow⟩ := State.linkTrap_enters (s := { s with now := at_ }) hc h hheld w
  refine ⟨_, ?_, hnow, henter⟩
  change execLinkwatchTrap k a s = _
  unfold execLinkwatchTrap
  dsimp only
  rw [if_neg (by simp [hth, h.free, h.notAhead, hheld]), State.takeHeld_takes hnext (by rw [hth, hrec])]

/-! ## Run-ahead (R52, R359, R360) -/

/-- What run-ahead saves of a thread when it begins from slot A, with registers that it may not read (R52, R359). -/
def Thread.aheadFrom (t : Thread) (mine : List RegRef) : Ahead :=
  { slot := .a, saved := t.slotA, v := t.v, s := t.s, p := t.p, loops := t.loops, fpstat := t.fpstat, gen := t.gen, recent := t.recent,
    unknown := mine ++ (t.inflight.filter fun x => !x.done).flatMap fun x => x.dests.map fun d => d.1, buffer := [], issued := 0 }

/-- A thread in which slot A goes on ahead of its wait (R52, R359). -/
def Thread.goneAhead (t : Thread) (mine : List RegRef) (tpc : W64) : Thread :=
  { t with slotA := { t.slotA with st := .live, pc := (t.loopNext tpc).1 }, ahead := some (t.aheadFrom mine), loops := (t.loopNext tpc).2 }

/-- A thread for which slot A may run ahead (R359). -/
structure Core.mayRunAhead (c : Core) (a : Nat) : Prop where
  warp : a < 16
  running : c.phase = .running
  allowed : c.launch.ahead = true
  notInhibited : (c.thread a).inhibit = false
  notAhead : (c.thread a).ahead = none
  outside : (c.thread a).handler = none
  notDone : SlotId.a ∉ (c.thread a).aheadDone

theorem State.enterAhead_enters {s1 : State} {n : Nat} {mine : List RegRef} {tpc : W64} (hc : s.core? k = some c) (h : c.mayRunAhead a)
    (hwait : s.aheadWait k a .a = (s1, some (n, mine, tpc))) (hsame : s1.thread k a = c.thread a) (hmiss : ∃ x ∈ (c.thread a).holding .gl n, x.missing = true) :
    ((s.enterAhead k a .a).thread k a) = (c.thread a).goneAhead mine tpc ∧ ∀ j, j ≠ k → (s.enterAhead k a .a).core? j = s1.core? j := by
  have hwarp := h.warp
  obtain ⟨c1, hc1⟩ : ∃ c1, s1.core? k = some c1 := by
    obtain ⟨x, hx, -⟩ := hmiss
    cases hs1 : s1.core? k with
    | some c1 => exact ⟨c1, rfl⟩
    | none =>
      have habs : c.thread a = Thread.absent := by rw [← hsame, State.thread, hs1]
      rw [habs] at hx
      exact absurd hx (by simp [Thread.holding, Thread.absent])
  have hth1 : c1.thread a = c.thread a := by rw [← hsame, State.thread_of_core _ _ _ _ hc1]
  have hany : ((s1.thread k a).holding .gl n).any (fun x => x.missing) = true := by
    rw [hsame, List.any_eq_true]
    exact hmiss
  unfold State.enterAhead
  rw [hc]
  dsimp only
  rw [if_neg (by simp [h.running, h.allowed, h.notInhibited, h.notAhead, h.outside, h.notDone]), hwait]
  dsimp only
  rw [if_neg (by simp [hany])]
  refine ⟨?_, fun j hj => ?_⟩
  · rw [State.thread_countCore, State.thread_endRun, State.thread_updThread hc1 (by simp only [apAgent]; omega), hth1]
    rfl
  · rw [State.core?_countCore, State.core?_endRun_other _ _ _ hj, State.updThread, State.core?_updCore_other _ _ _ _ hj]

theorem runaheadEnter_enters {s1 : State} {n : Nat} {mine : List RegRef} {tpc : W64} (hc : s.core? k = some c) (h : c.mayRunAhead a)
    (hwait : s.aheadWait k a .a = (s1, some (n, mine, tpc))) (hsame : s1.thread k a = c.thread a) (hmiss : ∃ x ∈ (c.thread a).holding .gl n, x.missing = true) :
    ∃ t, exec (.runaheadEnter k a) s = .next t ∧ t.thread k a = (c.thread a).goneAhead mine tpc ∧ ∀ j, j ≠ k → t.core? j = s1.core? j := by
  have hwarp := h.warp
  obtain ⟨hth, hothers⟩ := State.enterAhead_enters hc h hwait hsame hmiss
  refine ⟨_, ?_, hth, hothers⟩
  change execRunaheadEnter k a s = _
  unfold execRunaheadEnter
  rw [if_neg (by omega)]
  dsimp only
  rw [if_pos (by rw [hth]; rfl)]

theorem runaheadExit_exits {h : Ahead} (hc : s.core? k = some c) (ha : a ≤ apAgent) (hahead : (c.thread a).ahead = some h) (hissued : 64 ≤ h.issued) :
    ∃ t, exec (.runaheadExit k a) s = .next t ∧ t.thread k a = (c.thread a).exitAhead ∧ ∀ j, j ≠ k → t.core? j = s.core? j := by
  refine ⟨s.exitAhead k a, ?_, ?_, fun j hj => ?_⟩
  · change execRunaheadExit k a s = _
    unfold execRunaheadExit
    rw [State.thread_of_core s k a c hc, hahead]
    exact congrArg _ (if_pos hissued)
  · rw [State.exitAhead, State.thread_endRun, State.thread_updThread hc ha]
  · rw [State.exitAhead, State.core?_endRun_other _ _ _ hj, State.updThread, State.core?_updCore_other _ _ _ _ hj]

/-- At the end of run-ahead a thread has its slot, its registers and its loops as they were saved (R52). -/
theorem Thread.exitAhead_restores {t : Thread} {h : Ahead} (hahead : t.ahead = some h) :
    t.exitAhead.ahead = none ∧ t.exitAhead.slot h.slot = h.saved ∧ t.exitAhead.v = h.v ∧ t.exitAhead.s = h.s ∧ t.exitAhead.p = h.p ∧
      t.exitAhead.loops = h.loops ∧ h.slot ∈ t.exitAhead.aheadDone := by
  unfold Thread.exitAhead
  rw [hahead]
  refine ⟨rfl, ?_, rfl, rfl, rfl, rfl, List.mem_cons_self ..⟩
  obtain ⟨w, _⟩ := h
  cases w <;> rfl

/-! ## The access processor (R386) -/

theorem apAccessResume_goesOn {asid page : Nat} {s1 : State} {e : TlbEntry} (hc : s.core? k = some c) (hacts : c.acts = true)
    (hst : (c.thread apAgent).slotA.st = .waiting (.page asid page))
    (hwalk : s.walk (k / 128) asid (BitVec.ofNat 64 (page * 2 ^ 16)) .read = (s1, .resident e)) :
    ∃ t, exec (.apAccessResume k) s = .next t ∧ (t.thread k apAgent).slotA = { (c.thread apAgent).slotA with st := .live } := by
  have hc1 : s1.core? k = some c := by
    have := (s.walk_slicesOnly (k / 128) asid (BitVec.ofNat 64 (page * 2 ^ 16)) .read).core? k
    rw [hwalk] at this
    rw [← hc]
    exact this
  refine ⟨s1.updSlot k apAgent .a fun sl => { sl with st := .live }, ?_, ?_⟩
  · change execApAccessResume k s = _
    unfold execApAccessResume
    rw [hc]
    dsimp only
    rw [hacts, hst]
    dsimp only
    rw [show dieOfCore k = k / 128 from rfl, hwalk]
  · rw [State.updSlot, State.thread_updThread hc1 (Nat.le_refl _)]
    rfl

end Sys2Proof.Machine
end
section
/-! PROOFS. The settling of O54: the decisions of a dispatcher and the life of a block, assembled (R25 to R30, R350 to R360). -/

namespace Sys2Proof.Machine

section
variable {s t u : State} {die : Nat} {sp : Span} {g : Grid}

/-- What the fields of a block that has started say of its launch record (R358, R363). -/
theorem State.hasStarted.fields {n k b : Nat} {x : Core} (h : s.hasStarted t sp g n k b x) :
    t.core? k = some x ∧ x.grid = sp.grid ∧ x.queue = sp.queue ∧ x.span = sp.index ∧ x.gang = n ∧ x.block = b ∧ x.vid = g.vid ∧ x.phase = .clearing ∧
      { x.launch with budget := g.launch.budget } = g.launch ∧
      x.launch.budget = (if (s.queue sp.queue).budgetCap = 0 then g.launch.budget else min g.launch.budget (s.queue sp.queue).budgetCap) := by
  refine ⟨h.core, h.grid, h.queue, h.span, h.gang, h.block, h.vid, h.phase, ?_, ?_⟩
  · rw [h.launch]
  · rw [h.launch]
    rfl

theorem State.hasStarted.of_turns {n k b : Nat} {x : Core} (hu : State.turnsOnly die s u) (h : u.hasStarted t sp g n k b x) : s.hasStarted t sp g n k b x :=
  { h with launch := by rw [h.launch, State.budgetOf, State.budgetOf, hu.queue] }

/-- A gang that is placed after nothing but the dispatcher's turns have changed. -/
theorem State.gangPlaced.of_turns {cl : Nat} (hu : State.turnsOnly die s u) (h : u.gangPlaced t die sp g cl) :
    (∀ b < g.launch.blocks, ∃ x, s.hasStarted t sp g sp.next (nth (s.freeCores die cl) b 0) b x) ∧
      (∀ k, (∀ b < g.launch.blocks, nth (s.freeCores die cl) b 0 ≠ k) → t.core? k = s.core? k) ∧
      (t.die die).disp.spans = if g.launch.gangs ≤ sp.next + 1 then [] else [{ sp with next := sp.next + 1, since := s.fabric, reserved := [] }] := by
  have hstarted := h.started
  have hothers := h.others
  have hspans := h.spans
  rw [hu.freeCores] at hstarted hothers
  rw [hu.fabric] at hspans
  refine ⟨fun b hb => ?_, fun k hk => (hothers k hk).trans (hu.core? k), hspans⟩
  obtain ⟨x, hx⟩ := hstarted b hb
  exact ⟨x, hx.of_turns hu⟩

/-- The state in which the gangs of the grid with the token have been placed (R355). -/
theorem State.tokenFits.places {rest : List Nat} {plan : List (List Nat)} (h : s.tokenFits die sp g rest plan) :
    ∃ t, s.placeToken = some t ∧ t.token = rest ∧ (t.die die).disp.spans = [] ∧ (t.die die).disp.next = s.fabric + 1 ∧
      ∀ n < g.launch.gangs, ∀ b < g.launch.blocks, ∃ k x, s.hasStarted t sp g n k b x := by
  obtain ⟨free, hplaced⟩ := h.starts
  have hspans := hplaced.spans
  rw [if_neg (Nat.lt_irrefl _)] at hspans
  have hdie := (s.placeSpan die plan).die_updDie_same (fun d => { d with disp := { d.disp with next := s.fabric + 1 } }) h.only.dieLt
  have hcores : ((s.placeSpan die plan).updDie die fun d => { d with disp := { d.disp with next := s.fabric + 1 } }).cores = (s.placeSpan die plan).cores := by simp
  refine ⟨_, h.placeToken, rfl, ?_, ?_, fun n hn b hb => ?_⟩
  · exact (congrArg (fun d : Die => d.disp.spans) hdie).trans hspans
  · exact congrArg (fun d : Die => d.disp.next) hdie
  · obtain ⟨k, x, hx⟩ := hplaced.started n hn b hb
    exact ⟨k, x, { hx with core := (congrArg (fun cs : KMap Core => cs.find k) hcores).trans hx.core }⟩

theorem State.tokenFits.tokenDecides {rest : List Nat} {plan : List (List Nat)} (h : s.tokenFits die sp g rest plan) : s.tokenDecides die = true := by
  simp [State.tokenDecides, h.ready, h.dies]

theorem dispatchDecision_token (hd : die < 12) (hnext : (s.die die).disp.next ≤ s.fabric) (htoken : s.tokenDecides die = true) (hplace : s.placeToken = some t) :
    exec (.dispatchDecision die) s = .next t := by
  change execDispatchDecision die s = _
  rw [execDispatchDecision, if_neg (by simp only [Config.dies]; omega), if_pos htoken, hplace]
  rfl

theorem coresidentPlacement_places (hplace : s.placeToken = some t) : exec .coresidentPlacement s = .next t := by
  change execCoresidentPlacement s = _
  rw [execCoresidentPlacement, hplace]
  rfl

end

end Sys2Proof.Machine
end

section
open Sys2Proof Sys2Proof.Machine

/-- Settles O54: the decisions by what one waiting span leaves to choose, the life of a block event by event. -/
theorem blocksArePlacedRunAndEnd : Obligations.BlocksArePlacedRunAndEnd := by
  unfold Obligations.BlocksArePlacedRunAndEnd
  refine ⟨fun s die sp g hd hspans hgrid hhalt hbroke hred hquantum => ?_, fun s k c hc hk => ?_⟩
  · have honly : s.onlySpan die sp g := ⟨hd, hspans, hgrid, State.gridDead_eq_false hgrid hhalt hbroke, hred, hquantum⟩
    refine ⟨?_, dispatchDecision_notYet, ?_, ?_⟩
    · intro cl hcl htoken halone hopen hage hdraft hprio hnext hdef hfit hbest
      have hserves : s.serves die sp g cl := ⟨honly, hopen, halone, hdraft, hcl, hfit, hbest⟩
      obtain ⟨u, hu, hx⟩ := hserves.decision htoken hage hnext hprio hdef
      have hplaced := State.placeGang_places hd (hu.spans.trans hspans) (by rw [hu.grids, hgrid]) hred (cl := cl) (by rw [hu.freeCores]; exact hfit)
      obtain ⟨hstarted, hothers, hrest⟩ := hplaced.of_turns hu
      refine ⟨_, hx, fun b hb => ?_, hothers, by rw [hrest, ← hopen]⟩
      obtain ⟨x, hstart⟩ := hstarted b hb
      exact ⟨x, hstart.fields⟩
    · intro cl hcl halone hopen hage hmost
      refine ⟨_, gangAged_reserves honly halone hopen hage ⟨hcl, hmost⟩, ?_, by simp, State.updDie_frame _ _ _, fun j hj => s.die_updDie_other _ hj, ?_⟩
      · rw [s.die_updDie_same _ hd]
        simp [hspans, alterAt, hopen]
      · rw [s.die_updDie_same _ hd]
    · intro rest plan htoken hdies hfirst hreported hgangs hplan
      have hfits : s.tokenFits die sp g rest plan := ⟨honly, htoken, hdies, hfirst, hreported, hgangs, hplan⟩
      obtain ⟨t, hplace, htok, hnone, hnext, hstarted⟩ := hfits.places
      refine ⟨t, coresidentPlacement_places hplace, htok, hnone, hnext, fun n hn b hb => ?_,
        fun hdue => dispatchDecision_token hd hdue hfits.tokenDecides hplace⟩
      obtain ⟨j, x, hstart⟩ := hstarted n hn b hb
      exact ⟨j, x, hstart.fields⟩
  · have hkilled {t : State} {code detail : W8} (h : t.blockKilled k c code detail) := And.intro h.core h.record
    have hleft {t : State} (h : s.blockLeft t k c) := And.intro h.free (And.intro h.others h.grid)
    refine ⟨clearingDone_runs hc, clearingDone_otherPhase hc, ?_, ?_, ?_, ?_, ?_, ?_, ?_, ?_⟩
    · intro port hport hrun hidle hjoin able hable first hin hall now ready since before
      obtain ⟨t, x, y, hx, hfirst, hnow, hready, hbegun⟩ := portArbitration_begins hc hport hrun hidle hjoin hin hall
      obtain ⟨hmay, hother⟩ := State.offered_may hready
      exact ⟨t, x, y, _, hx, hfirst.1, fun z hz hne => (c.before_iff _ x z).mp (hfirst.2 z hz hne), hnow, hbegun.core, hbegun.run, hbegun.count, hmay, hother,
        hbegun.lastSlot, hbegun.hint, hbegun.passed, hbegun.others⟩
    · intro a w at_ ha hnext th sl enters hrec hsquash hhandler hahead hentry
      have htrap : c.canTrap a := ⟨ha, hsquash, hhandler, hahead, hentry⟩
      refine ⟨fun x rest hheld hx => ?_, fun d rest hheld => ?_⟩
      · obtain ⟨t, hexec, hnow, hin⟩ := warpTrapEntry_enters hc hnext htrap (Slot.notAtReconvergence hrec) hheld hx
        refine ⟨t, hexec, ⟨hin.cause.trans (causeWord_eq _ _ _ _), hin.pc, hin.mask, hin.handler, ?_, hin.v, hin.s, hin.p, hnow⟩, hin.deferred⟩
        have hslot := hin.slot
        rw [Thread.slot_deferred] at hslot
        exact hslot
      · obtain ⟨t, hexec, hnow, hin⟩ := linkwatchTrap_enters hc hnext htrap (Slot.notAtReconvergence hrec) hheld
        refine ⟨t, hexec, ⟨hin.cause.trans (causeWord_eq _ _ _ _), hin.pc, hin.mask, hin.handler, ?_, hin.v, hin.s, hin.p, hnow⟩, hin.linkEvents⟩
        have hslot := hin.slot
        rw [Thread.slot_linkEvents] at hslot
        exact hslot
    · intro waits stuck hrun hsome hall hfrags hgrant hbars
      have hdead : ∀ w < c.launch.warps, c.deadWarp w = true := fun w hw => by
        rcases hall w hw with h | ⟨ha, hb, hone, hstack⟩
        · exact Core.deadWarp_of_ended h
        · simp only [waits, ← Slot.deadWait_iff] at ha hb hone hstack
          exact Core.deadWarp_of_stuck ha hb hone hstack
      obtain ⟨t, hx, hkill⟩ := barrierDead_kills hc hk hrun hsome hdead hfrags hgrant hbars
      exact ⟨t, hx, hkilled hkill⟩
    · intro t0 hissued hacts hover
      exact ⟨_, rfl, hkilled (State.endBudget_kills hc hk ((c.overBudget_iff _).mpr ⟨hacts, t0, hissued, hover⟩))⟩
    · intro t0 hissued hunder
      have hnot : c.overBudget s.now = false := by simp [Core.overBudget, hissued, hunder]
      exact congrArg Host.Outcome.next (State.endBudget_notYet hc hnot)
    · intro ended overrun leaves
      have hover (h : ¬ overrun) : c.overBudget s.now = false := by
        rw [Bool.eq_false_iff]
        exact fun hb => h ((c.overBudget_iff _).mp hb)
      have hend (h : ended) : c.hasEnded := ⟨h.1, h.2.1, h.2.2.1, h.2.2.2⟩
      refine ⟨fun h hno hred _ => ?_, fun h hno hred _ => blockComplete_pair hc (hend h) (hover hno) hred, fun h => ?_,
        fun h hno => blockComplete_notYet hc (fun he => h ⟨he.acts, he.threads, he.noFragment, he.engines⟩) (hover hno),
        fun hphase heng hreq hred hrec hway _ => ?_, blockRelease_acting hc⟩
      · obtain ⟨t, hx, ht⟩ := blockComplete_leaves hc hk (hend h) (hover hno) hred
        exact ⟨t, hx, hleft ht⟩
      · obtain ⟨t, hx, ht⟩ := blockComplete_overBudget hc hk ((c.overBudget_iff _).mpr h)
        exact ⟨t, hx, hkilled ht⟩
      · obtain ⟨t, hx, ht⟩ := blockRelease_leaves hc hk hphase heng hreq hred hrec hway
        exact ⟨t, hx, hleft ht⟩
    · intro a ha th
      refine ⟨fun s1 n mine tpc hrun hallow hinhibit hnot hhandler hdone hwait hsame hmiss => ?_, fun h hahead hissued => ?_⟩
      · obtain ⟨t, hx, hth, hothers⟩ := runaheadEnter_enters hc ⟨ha, hrun, hallow, hinhibit, hnot, hhandler, hdone⟩ hwait hsame hmiss
        refine ⟨t, th.aheadFrom mine, hx, ?_⟩
        rw [hth]
        exact ⟨rfl, rfl, rfl, rfl, rfl, rfl, rfl, rfl, rfl, fun r hr => List.mem_append_left _ hr, rfl, rfl, rfl, rfl, hothers⟩
      · obtain ⟨t, hx, hth, hothers⟩ := runaheadExit_exits hc (Nat.le_of_lt ha) hahead hissued
        obtain ⟨hnone, hslot, hv, hs, hp, hloops, hmem⟩ := Thread.exitAhead_restores hahead
        refine ⟨t, hx, ?_⟩
        rw [hth]
        exact ⟨hnone, hslot, hv, hs, hp, hloops, hmem, hothers⟩
    · exact fun asid page s1 e hacts hst hwalk => apAccessResume_goesOn hc hacts hst hwalk

end

section
/-! PROOFS. Packet words begin no run-ahead (R52, R359): what the shared operations of threads, cores and the package leave of it. Only an event begins it, so a
warp that issues outside run-ahead is outside it afterwards. -/

namespace Sys2Proof.Machine

/-! ## Threads that stay outside run-ahead -/

/-- A change of a thread that begins no run-ahead. -/
def Thread.keepsOut (f : Thread → Thread) : Prop := ∀ t, t.ahead = none → (f t).ahead = none

/-- No thread of a block has begun run-ahead between two states of it. -/
def Core.staysOut (c d : Core) : Prop := ∀ a, (c.thread a).ahead = none → (d.thread a).ahead = none

/-- No thread of the package has begun run-ahead between two states. -/
def State.staysOut (s t : State) : Prop := ∀ k a, (s.thread k a).ahead = none → (t.thread k a).ahead = none

@[simp] theorem Thread.setV_ahead (t : Thread) (n : Nat) (m : W32) (f : Nat → W32) (b : W32) : (t.setV n m f b).ahead = t.ahead := by
  unfold Thread.setV
  split <;> rfl

@[simp] theorem Thread.setVKeep_ahead (t : Thread) (n : Nat) (m : W32) (f : Nat → W32) (b : W32) : (t.setVKeep n m f b).ahead = t.ahead := by
  unfold Thread.setVKeep
  split <;> rfl

@[simp] theorem Thread.setP_ahead (t : Thread) (n : Nat) (m v : W32) : (t.setP n m v).ahead = t.ahead := by
  unfold Thread.setP
  split <;> rfl

@[simp] theorem Thread.setS_ahead (t : Thread) (n : Nat) (v : W64) (b : Bool) : (t.setS n v b).ahead = t.ahead := rfl
@[simp] theorem Thread.supersede_ahead (t : Thread) (r : RegRef) (m : W32) : (t.supersede r m).ahead = t.ahead := rfl
@[simp] theorem Thread.remember_ahead (t : Thread) (now lat : Nat) (r : RegRef) (m : W32) : (t.remember now lat r m).ahead = t.ahead := rfl
@[simp] theorem Thread.forget_ahead (t : Thread) (now : Nat) (r : RegRef) (m : W32) : (t.forget now r m).ahead = t.ahead := rfl
@[simp] theorem Thread.grow_ahead (t : Thread) (m : Nat) : (t.grow m).ahead = t.ahead := rfl

@[simp] theorem Thread.updSlot_ahead (t : Thread) (w : SlotId) (f : Slot → Slot) : (t.updSlot w f).ahead = t.ahead := by
  cases w <;> rfl

@[simp] theorem Thread.writeSys_ahead (t : Thread) (n : Nat) (v : W64) : (t.writeSys n v).ahead = t.ahead := by
  unfold Thread.writeSys
  split
  · rfl
  · split <;> rfl
  · rfl
  · rfl
  · rfl

@[simp] theorem Thread.advanced_ahead (t : Thread) (w : SlotId) (tpc : W64) : (t.advanced w tpc).ahead = t.ahead := by
  cases w <;> rfl

theorem Thread.keepsOut_of_eq {f : Thread → Thread} (h : ∀ t, (f t).ahead = t.ahead) : Thread.keepsOut f := fun t ht => (h t).trans ht

theorem Thread.outside_of_out {t : Thread} (h : t.ahead = none) (f : Thread → Thread) : t.outside f = f t := by
  simp [Thread.outside, h]

theorem Thread.keepsOut_exitAhead : Thread.keepsOut Thread.exitAhead := fun t h => by
  simp [Thread.exitAhead, h]

/-! ## Cores -/

namespace Core.staysOut

variable {c d e : Core}

@[refl] theorem refl (c : Core) : c.staysOut c := fun _ h => h

theorem trans (h : c.staysOut d) (h' : d.staysOut e) : c.staysOut e := fun a ha => h' a (h a ha)

theorem of_thr (h : d.thr = c.thr) : c.staysOut d := fun a ha => by
  rw [Core.thread, h]
  exact ha

theorem updThread (c : Core) (a : Nat) {f : Thread → Thread} (hf : Thread.keepsOut f) : c.staysOut (c.updThread a f) := fun b hb => by
  by_cases hab : b = a
  · subst hab
    by_cases hle : b ≤ apAgent
    · rw [Core.thread_updThread_same _ _ _ hle]
      exact hf _ hb
    · rw [Core.updThread, if_neg hle]
      exact hb
  · rw [Core.thread_updThread_other _ _ _ _ hab]
    exact hb

/-- A change of every thread alike. -/
theorem mapThr {f : Thread → Thread} (hf : ∀ t, (f t).ahead = t.ahead) (h : d.thr = c.thr.map f) : c.staysOut d := fun a ha => by
  simp only [Core.thread, nth, h, List.getElem?_map] at *
  cases hx : c.thr[a]? with
  | none => rfl
  | some t =>
    rw [hx] at ha
    exact (hf t).trans ha

theorem foldl {α : Type} (l : List α) (f : Core → α → Core) (hf : ∀ (c : Core) x, c.staysOut (f c x)) (c : Core) : c.staysOut (l.foldl f c) := by
  induction l generalizing c with
  | nil => exact refl c
  | cons x l ih => exact (hf c x).trans (ih _)

end Core.staysOut

theorem Core.freeFragment_staysOut (c : Core) (i : Nat) : c.staysOut (c.freeFragment i) := .mapThr (f := fun t => { t with parked := false }) (fun _ => rfl) rfl

theorem Core.noFill_staysOut (c : Core) (line : Nat) : c.staysOut (c.noFill line) :=
  .mapThr (f := fun t => { t with inflight := t.inflight.map fun x => { x with reqs := x.reqs.map fun r => if r.line = line then { r with epoch := 0 } else r } })
    (fun _ => rfl) rfl

theorem Core.distrust_staysOut (c : Core) (line : Nat) (b : BitVec 4) : c.staysOut (c.distrust line b) := (c.noFill_staysOut line).trans (.of_thr rfl)

theorem Core.acquireEngines_staysOut (c : Core) : c.staysOut c.acquireEngines :=
  (Core.staysOut.foldl c.engineWrote (fun c x => c.distrust x.1 x.2) (fun c x => c.distrust_staysOut x.1 x.2) c).trans (.of_thr rfl)

theorem Core.acquireShadow_staysOut (c : Core) (e : Egress) : c.staysOut (c.acquireShadow e) :=
  .foldl _ _ (fun c line => c.distrust_staysOut line _) c

theorem Core.l1Issue_staysOut (c : Core) (kind : AccessKind) (r : LineReq) : c.staysOut (c.l1Issue kind r) := by
  refine (c.noFill_staysOut r.line).trans ?_
  cases kind <;> exact .of_thr rfl

theorem Core.learnAt_staysOut (c : Core) (n : Nat) : c.staysOut (c.learnAt n) :=
  .foldl _ _ (fun c w => by split <;> exact .of_thr rfl) c

theorem Core.completeBatches_staysOut (c : Core) (n : Nat) : c.staysOut (c.completeBatches n) := by
  induction n generalizing c with
  | zero => exact .refl c
  | succ n ih =>
    unfold Core.completeBatches
    split
    · refine Core.staysOut.trans (.of_thr ?_) (ih _)
      rfl
    · rfl

theorem Core.release_staysOut (c : Core) (now n : Nat) : c.staysOut (c.release now n) := by
  unfold Core.release
  split <;> exact .of_thr rfl

theorem Core.closeFinal_staysOut (c : Core) : c.staysOut c.closeFinal := by
  unfold Core.closeFinal
  split <;> exact .of_thr rfl

theorem Core.endTbwait_staysOut (c : Core) (a addr : Nat) : c.staysOut (c.endTbwait a addr) := by
  unfold Core.endTbwait
  dsimp only
  split
  · exact .of_thr rfl
  · obtain ⟨d, hd⟩ : ∃ d, d = Core.learn { c with namedBars := setDel c.namedBars addr } a ((c.tbKnow.find addr).getD []) := ⟨_, rfl⟩
    have hlearn : c.staysOut d.acquireEngines := Core.staysOut.trans (.of_thr (hd ▸ rfl)) d.acquireEngines_staysOut
    rw [← hd]
    split
    · exact hlearn
    · exact hlearn.trans (.of_thr rfl)

theorem Core.updSlot_staysOut (c : Core) (a : Nat) (w : SlotId) (f : Slot → Slot) : c.staysOut (c.updThread a fun t => t.updSlot w f) :=
  .updThread c a (Thread.keepsOut_of_eq fun t => t.updSlot_ahead w f)

theorem Core.refillOnce_staysOut {c d : Core} {w : Nat} (h : c.refillOnce w = some d) : c.staysOut d := by
  unfold Core.refillOnce at h
  dsimp only at h
  split at h
  · exact nomatch h
  · split at h
    · cases h
      exact (c.freeFragment_staysOut _).trans (Core.updSlot_staysOut _ _ _ _)
    · split at h
      · cases h
        exact .updThread c w (Thread.keepsOut_of_eq fun t => t.updSlot_ahead _ _)
      · exact nomatch h

theorem Core.refill_staysOut (c : Core) (w : Nat) : c.staysOut (c.refill w) := by
  unfold Core.refill
  split
  · rfl
  · next h =>
    split
    · exact Core.refillOnce_staysOut h
    · next h' => exact (Core.refillOnce_staysOut h).trans (Core.refillOnce_staysOut h')

theorem Core.settleJoins_staysOut (c : Core) (w n : Nat) : c.staysOut (c.settleJoins w n) := by
  induction n generalizing c with
  | zero => exact .refl c
  | succ n ih =>
    unfold Core.settleJoins
    split
    · rfl
    · exact (Core.staysOut.updThread c w (Thread.keepsOut_of_eq fun t => by rfl)).trans (ih _)
    · refine Core.staysOut.trans ?_ (ih _)
      dsimp only
      split
      · exact .updThread c w (Thread.keepsOut_of_eq fun t => t.updSlot_ahead _ _)
      · exact .updThread c w (Thread.keepsOut_of_eq fun t => by rfl)

/-! ## The package -/

namespace State.staysOut

variable {s t u : State}

@[refl] theorem refl (s : State) : s.staysOut s := fun _ _ h => h

theorem trans (h : s.staysOut t) (h' : t.staysOut u) : s.staysOut u := fun k a ha => h' k a (h k a ha)

theorem of_cores (h : t.cores = s.cores) : s.staysOut t := fun k a ha => by
  rw [State.thread, State.core?, h]
  exact ha

theorem of_slices (h : s.slicesOnly t) : s.staysOut t := .of_cores h.cores

/-- Either of two ways on. -/
theorem ite {p : Prop} [Decidable p] (ht : s.staysOut t) (hu : s.staysOut u) : s.staysOut (if p then t else u) := by
  split <;> assumption

/-- What follows of the first part of a pair follows of the state that the pair is taken apart into. -/
theorem of_fst {α : Type} {p : State × α} {r : α} (h : s.staysOut p.1) (he : p = (t, r)) : s.staysOut t := by
  rw [he] at h
  exact h

theorem updCore (s : State) (k : Nat) {f : Core → Core} (hf : ∀ c : Core, c.staysOut (f c)) : s.staysOut (s.updCore k f) := fun j a ha => by
  by_cases hj : j = k
  · subst hj
    rw [State.thread, State.core?_updCore_same]
    rw [State.thread] at ha
    cases hc : s.core? j with
    | none => rfl
    | some c =>
      rw [hc] at ha
      exact hf c a ha
  · rw [State.thread, State.core?_updCore_other _ _ _ _ hj]
    exact ha

/-- A change of a block that leaves its threads alone. -/
theorem updCore_rest (s : State) (k : Nat) {f : Core → Core} (hf : ∀ c : Core, (f c).thr = c.thr) : s.staysOut (s.updCore k f) :=
  .updCore s k fun c => .of_thr (hf c)

theorem updThread (s : State) (k a : Nat) {f : Thread → Thread} (hf : Thread.keepsOut f) : s.staysOut (s.updThread k a f) :=
  .updCore s k fun c => .updThread c a hf

/-- A change of a thread that leaves run-ahead alone. -/
theorem updThread_rest (s : State) (k a : Nat) {f : Thread → Thread} (hf : ∀ t, (f t).ahead = t.ahead) : s.staysOut (s.updThread k a f) :=
  .updThread s k a (Thread.keepsOut_of_eq hf)

theorem updSlot (s : State) (k a : Nat) (w : SlotId) (f : Slot → Slot) : s.staysOut (s.updSlot k a w f) :=
  .updThread_rest s k a fun t => t.updSlot_ahead w f

theorem updDie (s : State) (d : Nat) (f : Die → Die) : s.staysOut (s.updDie d f) := .of_cores (s.updDie_cores d f)
theorem updDomain (s : State) (d : Nat) (f : Domain → Domain) : s.staysOut (s.updDomain d f) := .of_cores rfl
theorem countCore (s : State) (k : Nat) (f : CoreCounters → CoreCounters) : s.staysOut (s.countCore k f) := .updDie s _ _

theorem foldl {α : Type} (l : List α) (f : State → α → State) (hf : ∀ (s : State) x, s.staysOut (f s x)) (s : State) : s.staysOut (l.foldl f s) := by
  induction l generalizing s with
  | nil => exact refl s
  | cons x l ih => exact (hf s x).trans (ih _)

theorem foldl_fst {α β : Type} (l : List α) (f : State × β → α → State × β) (hf : ∀ (p : State × β) x, p.1.staysOut (f p x).1) (p : State × β) :
    p.1.staysOut (l.foldl f p).1 := by
  induction l generalizing p with
  | nil => exact refl p.1
  | cons x l ih => exact (hf p x).trans (ih _)

end State.staysOut

theorem State.endRun_staysOut (s : State) (k a : Nat) : s.staysOut (s.endRun k a) := by
  unfold State.endRun
  split
  · rfl
  · exact .updCore_rest s k fun _ => rfl

theorem State.endRunOf_staysOut (s : State) (k a : Nat) (w : SlotId) : s.staysOut (s.endRunOf k a w) := by
  unfold State.endRunOf
  split
  · rfl
  · exact .updCore_rest s k fun _ => rfl

theorem State.wait_staysOut (s : State) (k a : Nat) (w : SlotId) (why : Wait) : s.staysOut (s.wait k a w why) := by
  unfold State.wait
  dsimp only
  split
  · exact .updSlot s k a w _
  · exact (State.staysOut.updSlot s k a w _).trans (State.endRunOf_staysOut _ _ _ _)

theorem State.advance_staysOut (s : State) (k a : Nat) (w : SlotId) (tpc : W64) : s.staysOut (s.advance k a w tpc) :=
  .updThread s k a fun t h => by simp [h]

theorem State.exitAhead_staysOut (s : State) (k a : Nat) : s.staysOut (s.exitAhead k a) :=
  (State.staysOut.updThread s k a Thread.keepsOut_exitAhead).trans (State.endRun_staysOut _ _ _)

theorem State.discardFault_staysOut (s : State) (k a : Nat) : s.staysOut (s.discardFault k a) :=
  (State.staysOut.updCore_rest s k fun _ => by rfl).trans (State.endRun_staysOut _ _ _)

theorem State.logError_staysOut (s : State) (d : Nat) (r : LogRecord) : s.staysOut (s.logError d r) := .updDie s d _

theorem State.toHost_staysOut (s : State) (o : HostOut) : s.staysOut (s.toHost o) := by
  obtain ⟨host, h⟩ := s.toHost_eq o
  rw [h]
  exact .of_cores rfl

theorem State.report_staysOut (s : State) (d : Nat) (r : LogRecord) : s.staysOut (s.report d r) := by
  unfold State.report
  dsimp only
  split
  · exact (s.logError_staysOut d r).trans ((State.staysOut.updDie _ d _).trans ((State.toHost_staysOut _ _).trans (State.toHost_staysOut _ _)))
  · split
    · exact (s.logError_staysOut d r).trans ((State.toHost_staysOut _ _).trans (State.toHost_staysOut _ _))
    · exact s.logError_staysOut d r

theorem State.settleEgress_staysOut (s : State) (d : Nat) : s.staysOut (s.settleEgress d) := by
  unfold State.settleEgress
  exact (State.staysOut.foldl _ _ (fun s i => .of_cores (s.settleReservation_blocksKept d i).cores) s).trans (.updDomain _ _ _)

theorem State.countKill_staysOut (s : State) (k : Nat) (c : Core) (code : W8) : s.staysOut (s.countKill k c code) := .of_cores (s.countKill_blocksKept k c code).cores

theorem State.killBlock_staysOut (s : State) (k : Nat) (code detail : W8) (agent : Nat) (pc : W64) : s.staysOut (s.killBlock k code detail agent pc) := by
  unfold State.killBlock
  split
  · rfl
  · next c _ =>
    split
    · rfl
    · have hkill : s.staysOut (s.updCore k fun c => c.killedAt s.now) := .updCore_rest s k fun _ => rfl
      have hrest (u : State) (r : LogRecord) : u.staysOut ((u.report (dieOfCore k) r).countKill k c code) :=
        (u.report_staysOut _ r).trans (State.countKill_staysOut _ k c code)
      dsimp only
      split
      · exact hkill.trans ((hrest _ _).trans (.of_cores rfl))
      · exact hkill.trans (hrest _ _)

theorem State.enterHandler_staysOut (s : State) (k a : Nat) (w : SlotId) (t : TrapInfo) (entry : W64) : s.staysOut (s.enterHandler k a w t entry) := by
  unfold State.enterHandler
  refine State.staysOut.trans (.updThread_rest s k a ?_) ((State.staysOut.countCore _ k _).trans (State.endRun_staysOut _ _ _))
  exact fun th => th.updSlot_ahead w _

theorem State.takeTrap_staysOut (s : State) (k a : Nat) (w : SlotId) (t : TrapInfo) : s.staysOut (s.takeTrap k a w t) := by
  unfold State.takeTrap
  split
  · rfl
  · split
    · exact s.exitAhead_staysOut k a
    · split
      · exact s.discardFault_staysOut k a
      · split
        · exact s.killBlock_staysOut _ _ _ _ _
        · split
          · exact s.killBlock_staysOut _ _ _ _ _
          · split
            · split
              · exact (State.staysOut.updThread_rest s k a fun _ => by rfl).trans ((State.staysOut.countCore _ k _).trans (State.endRun_staysOut _ _ _))
              · exact s.killBlock_staysOut _ _ _ _ _
            · refine State.staysOut.trans ?_ (State.enterHandler_staysOut _ _ _ _ _ _)
              split
              · exact s.report_staysOut _ _
              · rfl

theorem State.returnFromTrap_staysOut (s : State) (k a : Nat) (w : SlotId) (pc : W64) : s.staysOut (s.returnFromTrap k a w pc) := by
  unfold State.returnFromTrap
  refine State.staysOut.trans (.updThread_rest s k a ?_) (State.endRun_staysOut _ _ _)
  exact fun th => th.updSlot_ahead w _

end Sys2Proof.Machine
end

section
/-! PROOFS. Packet words begin no run-ahead: translation, fetches, fragments, joins, barriers, batches and register claims (R52, R359). -/

namespace Sys2Proof.Machine

/-! ## Translation and fetching (R82, R310) -/

/-- A block but for the translations and the code that its core holds. -/
def Core.uncached (c : Core) : Core := { c with tlb := [], icache := [] }

/-- Of the blocks, nothing but the translations and the code that their cores hold has changed. -/
def State.cachesOnly (s t : State) : Prop := ∀ k, (t.core? k).map Core.uncached = (s.core? k).map Core.uncached

namespace State.cachesOnly

variable {s t u : State}

@[refl] theorem refl (s : State) : s.cachesOnly s := fun _ => rfl

theorem trans (h : s.cachesOnly t) (h' : t.cachesOnly u) : s.cachesOnly u := fun k => (h' k).trans (h k)

theorem of_cores (h : t.cores = s.cores) : s.cachesOnly t := fun k => by rw [State.core?, h, State.core?]

theorem of_slices (h : s.slicesOnly t) : s.cachesOnly t := .of_cores h.cores

theorem of_fst {α : Type} {p : State × α} {r : α} (h : s.cachesOnly p.1) (he : p = (t, r)) : s.cachesOnly t := by
  rw [he] at h
  exact h

theorem updCore (s : State) (k : Nat) {f : Core → Core} (hf : ∀ c : Core, (f c).uncached = c.uncached) : s.cachesOnly (s.updCore k f) := fun j => by
  by_cases hj : j = k
  · subst hj
    rw [State.core?_updCore_same]
    cases s.core? j with
    | none => rfl
    | some c => exact congrArg some (hf c)
  · rw [State.core?_updCore_other _ _ _ _ hj]

theorem updDie (s : State) (d : Nat) (f : Die → Die) : s.cachesOnly (s.updDie d f) := .of_cores (s.updDie_cores d f)

/-- A block is still there. -/
theorem core {k : Nat} {c : Core} (h : s.cachesOnly t) (hc : s.core? k = some c) : ∃ d, t.core? k = some d ∧ d.uncached = c.uncached := by
  have hk := h k
  rw [hc] at hk
  exact Option.map_eq_some_iff.mp hk

theorem thread (h : s.cachesOnly t) (k a : Nat) : t.thread k a = s.thread k a := by
  have hk := h k
  unfold State.thread
  cases hs : s.core? k with
  | none =>
    rw [hs] at hk
    rw [Option.map_eq_none_iff.mp hk]
  | some c =>
    obtain ⟨d, hd, hdc⟩ := h.core hs
    rw [hd]
    have hthr := congrArg (fun x : Core => nth x.thr a Thread.absent) hdc
    exact hthr

theorem staysOut (h : s.cachesOnly t) : s.staysOut t := fun k a ha => by
  rw [h.thread]
  exact ha

end State.cachesOnly

theorem State.fillTlbs_cachesOnly (s : State) (k : Nat) (e : TlbEntry) : s.cachesOnly (s.fillTlbs k e) := by
  unfold State.fillTlbs
  exact State.cachesOnly.trans (.updCore s k fun _ => by rfl) (.updDie _ _ _)

theorem State.translate_cachesOnly (s : State) (k asid : Nat) (va : W64) (kind : WalkKind) : s.cachesOnly (s.translate k asid va kind).1 := by
  unfold State.translate
  dsimp only
  split
  · rfl
  · split
    · exact .updCore s k fun _ => by rfl
    · split
      · exact s.fillTlbs_cachesOnly k _
      · have hwalk := State.cachesOnly.of_slices (s.walkFor_slicesOnly (dieOfCore k) asid va kind (12 + k))
        split
        · next h => exact (hwalk.of_fst h).trans (State.fillTlbs_cachesOnly _ _ _)
        · next h => exact hwalk.of_fst h

theorem State.translate_staysOut (s : State) (k asid : Nat) (va : W64) (kind : WalkKind) : s.staysOut (s.translate k asid va kind).1 :=
  (s.translate_cachesOnly k asid va kind).staysOut

theorem State.wakeAndPerform_cachesOnly (s : State) (pa : Nat) (r : LineReq) (core agent : Nat) : s.cachesOnly ((s.wake pa).performReq r core agent).1 :=
  State.cachesOnly.trans (.of_slices (s.wake_slicesOnly pa)) (.of_slices (State.performReq_slicesOnly _ _ _ _))

theorem State.requestPage_staysOut (s : State) (die asid page : Nat) (frag : Option (Nat × Nat)) (big : Bool) :
    s.staysOut (s.requestPage die asid page frag big) := .updDie s die _

theorem State.reportFatal_staysOut (s : State) (k agent : Nat) (detail : W8) (pc addr : W64) (sect : W8) :
    s.staysOut (s.reportFatal k agent detail pc addr sect) := by
  unfold State.reportFatal
  split
  · rfl
  · split
    · split
      · exact .updCore_rest s k fun _ => by rfl
      · rfl
    · exact .of_cores rfl

theorem State.performReq_staysOut (s : State) (r : LineReq) (core agent : Nat) : s.staysOut (s.performReq r core agent).1 :=
  .of_slices (s.performReq_slicesOnly r core agent)

theorem State.wakeAndPerform_staysOut (s : State) (pa : Nat) (r : LineReq) (core agent : Nat) : s.staysOut ((s.wake pa).performReq r core agent).1 :=
  (s.wakeAndPerform_cachesOnly pa r core agent).staysOut

theorem State.askPeer_staysOut (s : State) (line : Nat) (missing : BitVec 4) (tag : Nat) : s.staysOut (s.askPeer line missing tag) :=
  .of_slices (s.askPeer_slicesOnly line missing tag)

theorem State.fetchLine_cachesOnly (s : State) (line : Nat) : s.cachesOnly (s.fetchLine line).1 := by
  unfold State.fetchLine
  exact s.wakeAndPerform_cachesOnly _ _ _ _

theorem State.fetchView_cachesOnly (s : State) (r : LineReq) : s.cachesOnly (s.fetchView r).1 := by
  unfold State.fetchView
  exact s.wakeAndPerform_cachesOnly _ _ _ _

theorem State.readOnlyLine_cachesOnly (s : State) (k dom vid line : Nat) {read : State → State × LineRead} (h : s.cachesOnly (read s).1) :
    s.cachesOnly (s.readOnlyLine k dom vid line read).1 := by
  unfold State.readOnlyLine
  dsimp only
  split
  · exact .updDie _ _ _
  · exact h.trans (.updDie _ _ _)

theorem State.fetch_cachesOnly (s : State) (k : Nat) (pc : W64) : s.cachesOnly (s.fetch k pc).1 := by
  unfold State.fetch
  split
  · rfl
  · next c _ =>
    have htr := s.translate_cachesOnly k c.launch.asid (packetOf pc) .fetch
    split
    · next h => exact htr.of_fst h
    · next h => exact htr.of_fst h
    · next h => exact htr.of_fst h
    · next t e h =>
      refine (htr.of_fst h).trans ?_
      dsimp only
      split
      · split
        · next h => exact .of_slices (State.takeError_slicesOnly h)
        · exact .of_slices (State.askPeer_slicesOnly _ _ _ _)
      · split
        · split
          · exact .updCore _ k fun _ => by rfl
          · split
            · refine State.cachesOnly.trans (.of_cores ?_) (.updCore _ k fun _ => by rfl)
              rfl
            · exact .of_cores rfl
        · split
          · rfl
          · exact (t.readOnlyLine_cachesOnly k 0 0 _ (t.fetchLine_cachesOnly _)).trans (.updCore _ k fun _ => by rfl)

theorem State.fetch_staysOut (s : State) (k : Nat) (pc : W64) : s.staysOut (s.fetch k pc).1 := (s.fetch_cachesOnly k pc).staysOut

theorem State.readUnit_cachesOnly (s : State) (k n : Nat) (xs : List SlotWord) (pc : W64) : s.cachesOnly (s.readUnit k n xs pc).1 := by
  induction n generalizing s xs pc with
  | zero =>
    have hf := s.fetch_cachesOnly k pc
    unfold State.readUnit
    split
    · next h => exact hf.of_fst h
    · next h => exact hf.of_fst h
    · next h =>
      split <;> exact hf.of_fst h
  | succ n ih =>
    have hf := s.fetch_cachesOnly k pc
    unfold State.readUnit
    split
    · next h => exact hf.of_fst h
    · next h => exact hf.of_fst h
    · next h =>
      dsimp only
      split
      · exact hf.of_fst h
      · split
        · exact (hf.of_fst h).trans (ih _ _ _)
        · exact hf.of_fst h

theorem State.codeWord_staysOut (s : State) (k : Nat) (pc : W64) : s.staysOut (s.codeWord k pc).1 := by
  have hf := s.fetch_staysOut k pc
  unfold State.codeWord
  split
  all_goals next h => exact hf.of_fst h

theorem State.afterInstr_staysOut (s : State) (k n : Nat) (pc : W64) : s.staysOut (s.afterInstr k n pc).1 := by
  induction n generalizing s pc with
  | zero => exact .refl s
  | succ n ih =>
    have hw := s.codeWord_staysOut k pc
    unfold State.afterInstr
    split
    · next h =>
      split
      · exact (hw.of_fst h).trans (ih _ _)
      · exact hw.of_fst h
    · next h => exact hw.of_fst h

/-! ## Frames, fragments and joins (R123 to R129, R367) -/

theorem State.engineWrite_staysOut (s : State) (e pa size : Nat) (v : W64) : s.staysOut (s.engineWrite e pa size v) := .of_slices (s.engineWrite_slicesOnly e pa size v)

theorem State.reframe_staysOut (s : State) (k w : Nat) : s.staysOut (s.reframe k w) := .updCore_rest s k fun _ => rfl

theorem State.writeFrame_staysOut (s : State) (k w i : Nat) (f : Frame) : s.staysOut (s.writeFrame k w i f) := by
  unfold State.writeFrame
  split
  · rfl
  · next c _ =>
    have htr := s.translate_staysOut k c.launch.asid (c.frameAddr w i) .write
    dsimp only
    split
    · next h => exact (htr.of_fst h).trans ((State.engineWrite_staysOut _ _ _ _ _).trans (State.engineWrite_staysOut _ _ _ _ _))
    · next h => exact (htr.of_fst h).trans (State.reportFatal_staysOut _ _ _ _ _ _ _)
    · next h => exact (htr.of_fst h).trans ((State.requestPage_staysOut _ _ _ _ _ _).trans (State.reframe_staysOut _ _ _))
    · next h => exact (htr.of_fst h).trans (State.reframe_staysOut _ _ _)

theorem State.writeFrames_staysOut (s : State) (k w : Nat) : s.staysOut (s.writeFrames k w) := by
  unfold State.writeFrames
  exact .foldl _ (fun (s : State) (x : Nat × Frame) => s.writeFrame k w x.1 x.2) (fun s x => s.writeFrame_staysOut k w x.1 x.2) s

theorem State.pushReady_staysOut (s : State) (k w : Nat) : s.staysOut (s.pushReady k w).1 := by
  unfold State.pushReady
  split
  · rfl
  · next c _ =>
    have htr := s.translate_staysOut k c.launch.asid (c.frameAddr w (c.thread w).stack.length) .write
    dsimp only
    split
    · next h => exact (htr.of_fst h).trans (State.requestPage_staysOut _ _ _ _ _ _)
    · next h => exact htr.of_fst h
    · next h => exact htr.of_fst h

theorem State.pushFrame_staysOut (s : State) (k w : Nat) (f : Frame) : s.staysOut (s.pushFrame k w f) := by
  unfold State.pushFrame
  exact State.staysOut.trans (.updThread_rest s k w fun _ => by rfl) (State.writeFrame_staysOut _ _ _ _ _)

/-- A slot that has lost its last lane is empty (R127). -/
def Slot.dropEmpty (sl : Slot) : Slot := if sl.mask = 0#32 then Slot.none else sl

/-- What losing lanes does to the slots of a warp before holders fill them (R132). -/
def Thread.dropEmpty (t : Thread) : Thread :=
  let t := { t with slotA := t.slotA.dropEmpty, slotB := t.slotB.dropEmpty }
  match t.handler with
  | some h => if (t.slot h).st = .empty then { t with handler := none } else t
  | none => t

@[simp] theorem Thread.dropEmpty_ahead (t : Thread) : t.dropEmpty.ahead = t.ahead := by
  unfold Thread.dropEmpty
  dsimp only
  split
  · split <;> rfl
  · rfl

theorem State.settle_staysOut (s : State) (k w : Nat) : s.staysOut (s.settle k w) := by
  have hcore (c : Core) : c.staysOut (((c.updThread w Thread.dropEmpty).settleJoins w 65).refill w) :=
    (Core.staysOut.updThread c w (Thread.keepsOut_of_eq Thread.dropEmpty_ahead)).trans ((Core.settleJoins_staysOut _ w 65).trans (Core.refill_staysOut _ w))
  have hupd : s.staysOut (s.updCore k fun c => ((c.updThread w Thread.dropEmpty).settleJoins w 65).refill w) := .updCore s k hcore
  unfold State.settle
  dsimp only
  split
  · exact hupd
  · exact hupd.trans (State.writeFrames_staysOut _ k w)

theorem State.splitFragment_staysOut (s : State) (k a : Nat) (w : SlotId) (lanes : W32) (cause : W8) (key pc : W64) :
    s.staysOut (s.splitFragment k a w lanes cause key pc).1 := by
  unfold State.splitFragment
  split
  · rfl
  · split
    · exact s.discardFault_staysOut k a
    · split
      · exact s.killBlock_staysOut _ _ _ _ _
      · split
        · exact (State.staysOut.countCore s k _).trans (State.takeTrap_staysOut _ _ _ _ _)
        · refine State.staysOut.trans ?_ (.countCore _ k _)
          refine .updCore s k fun c => Core.staysOut.trans ?_ (Core.updSlot_staysOut _ a w _)
          exact .of_thr rfl

theorem State.wakeFragments_staysOut (s : State) (k : Nat) (p : Nat → Fragment → Bool) : s.staysOut (s.wakeFragments k p) := by
  unfold State.wakeFragments
  split
  · rfl
  · generalize hu : s.updCore k _ = u
    have hready : s.staysOut u := hu ▸ .updCore_rest s k fun _ => rfl
    dsimp only
    split
    · exact hready
    · exact hready.trans (.foldl _ _ (fun s w => s.settle_staysOut k w) _)

theorem State.endJoinw_staysOut (s : State) (k w : Nat) (sl : SlotId) (pd : Nat) (tpc : W64) : s.staysOut (s.endJoinw k w sl pd tpc) := by
  unfold State.endJoinw
  refine State.staysOut.trans (.updThread s k w fun t ht => ?_) (State.advance_staysOut _ _ _ _ _)
  rw [Thread.outside_of_out ht]
  simp [ht]

theorem State.expireJoinw_staysOut (s : State) (k w : Nat) (sl : SlotId) (now : Nat) : s.staysOut (s.expireJoinw k w sl now) := by
  unfold State.expireJoinw
  split
  · split
    · exact s.endJoinw_staysOut _ _ _ _ _
    · rfl
  · rfl

theorem State.fillJoinw_staysOut (s : State) (k w : Nat) (sl : SlotId) : s.staysOut (s.fillJoinw k w sl) := by
  unfold State.fillJoinw
  split
  · rfl
  · dsimp only
    split
    · split
      · exact s.endJoinw_staysOut _ _ _ _ _
      · rfl
    · rfl

/-! ## Waits that end, barriers and register claims (R55, R56, R210 to R212, R236) -/

theorem State.releaseSlot_staysOut (s : State) (k a : Nat) (w : SlotId) (p : Wait → Bool) : s.staysOut (s.releaseSlot k a w p) := by
  unfold State.releaseSlot
  dsimp only
  split
  · split
    · exact s.advance_staysOut _ _ _ _
    · rfl
  · rfl

theorem State.releaseAll_staysOut (s : State) (k : Nat) (p : Wait → Bool) : s.staysOut (s.releaseAll k p) :=
  .foldl _ _ (fun s a => (s.releaseSlot_staysOut k a .a p).trans (State.releaseSlot_staysOut _ k a .b p)) s

theorem State.settleBatches_staysOut (s : State) (k : Nat) : s.staysOut (s.settleBatches k) := by
  unfold State.settleBatches
  generalize hu : s.updCore k _ = u
  have hdone : s.staysOut u := hu ▸ .updCore s k fun c => c.completeBatches_staysOut _
  dsimp only
  split
  · refine hdone.trans (State.staysOut.trans ?_ (State.releaseAll_staysOut _ _ _))
    split
    · exact .updCore _ k Core.acquireEngines_staysOut
    · rfl
  · exact hdone

theorem State.settleBar_staysOut (s : State) (k n : Nat) : s.staysOut (s.settleBar k n) := by
  unfold State.settleBar
  split
  · rfl
  · dsimp only
    split
    · refine State.staysOut.trans ?_ (State.releaseAll_staysOut _ _ _)
      refine .updCore s k fun c => Core.staysOut.trans ?_ (Core.learnAt_staysOut _ n)
      exact .of_thr rfl
    · exact .updCore_rest s k fun _ => by rfl

theorem State.settleBars_staysOut (s : State) (k : Nat) : s.staysOut (s.settleBars k) := .foldl _ _ (fun s n => s.settleBar_staysOut k n) s

theorem Core.grow_staysOut (c : Core) (w m : Nat) : c.staysOut (c.updThread w fun t => t.grow m) :=
  .updThread c w (Thread.keepsOut_of_eq fun t => t.grow_ahead m)

theorem State.grantHead_staysOut (s : State) (k : Nat) : s.staysOut (s.grantHead k) := by
  unfold State.grantHead
  split
  · rfl
  · split
    · split
      · refine State.staysOut.trans ?_ ((State.releaseSlot_staysOut _ k _ _ _).trans (State.releaseSlot_staysOut _ _ _ _ _))
        refine .updCore s k fun c => Core.staysOut.trans ?_ (.of_thr rfl)
        exact c.grow_staysOut _ _
      · rfl
    · rfl

theorem State.endCycles_staysOut (s : State) (k : Nat) : s.staysOut (s.endCycles k) := by
  unfold State.endCycles
  exact State.staysOut.trans (.updCore_rest s k fun _ => by rfl) (.foldl _ _ (fun s _ => s.grantHead_staysOut k) _)

/-! ## Lanes that leave a warp (R120) -/

theorem State.endWarp_staysOut (s : State) (k w : Nat) (last : W32) : s.staysOut (s.endWarp k w last) := by
  unfold State.endWarp
  split
  · rfl
  · split
    · rfl
    · refine State.staysOut.trans ?_ (State.endRun_staysOut _ _ _)
      refine .updCore s k fun c => Core.staysOut.trans ?_ (.of_thr rfl)
      exact (Core.staysOut.updThread c w (Thread.keepsOut_of_eq fun _ => by rfl)).trans (Core.release_staysOut _ _ _)

theorem State.exitLanes_staysOut (s : State) (k w : Nat) (sl : SlotId) (lanes : W32) : s.staysOut (s.exitLanes k w sl lanes) := by
  unfold State.exitLanes
  generalize hu : s.updSlot k w sl _ = u
  have hless : s.staysOut u := hu ▸ .updSlot s k w sl _
  dsimp only
  refine State.staysOut.trans ?_ ((State.settle_staysOut _ k w).trans ((State.endWarp_staysOut _ _ _ _).trans (State.settleBars_staysOut _ _)))
  split
  · exact hless.trans (State.endRunOf_staysOut _ _ _ _)
  · exact hless

end Sys2Proof.Machine
end

section
/-! PROOFS. Packet words begin no run-ahead: results, waits, traps, accesses, transfers, free lists, egress rings and matrix commands (R52, R359). -/

namespace Sys2Proof.Machine

/-! ## Results, waits and traps -/

theorem Ctx.putV_staysOut (c : Ctx) (s : State) (n : Nat) (f : Nat → W32) : s.staysOut (c.putV s n f) := .updThread_rest s _ _ fun _ => by simp
theorem Ctx.putVPart_staysOut (c : Ctx) (s : State) (n : Nat) (f : Nat → W32) : s.staysOut (c.putVPart s n f) := .updThread_rest s _ _ fun _ => by simp
theorem Ctx.putS_staysOut (c : Ctx) (s : State) (n : BitVec 6) (v : W64) : s.staysOut (c.putS s n v) := .updThread_rest s _ _ fun _ => by simp
theorem Ctx.putSClean_staysOut (c : Ctx) (s : State) (n : BitVec 6) (v : W64) : s.staysOut (c.putSClean s n v) := .updThread_rest s _ _ fun _ => by simp
theorem Ctx.putP_staysOut (c : Ctx) (s : State) (n : Nat) (v : W32) : s.staysOut (c.putP s n v) := .updThread_rest s _ _ fun _ => by simp
theorem Ctx.putPAll_staysOut (c : Ctx) (s : State) (n : Nat) (v : W32) : s.staysOut (c.putPAll s n v) := .updThread_rest s _ _ fun _ => by simp
theorem Ctx.setGen_staysOut (c : Ctx) (g : List W32) (s : State) : s.staysOut (c.setGen g s) := .updThread_rest s _ _ fun _ => rfl

theorem Ctx.putV2_staysOut (c : Ctx) (s : State) (n : BitVec 6) (f : Nat → W64) : s.staysOut (c.putV2 s n f) :=
  (c.putV_staysOut s _ _).trans (c.putV_staysOut _ _ _)

theorem Ctx.flags_staysOut (c : Ctx) (f : W32) (s : State) : s.staysOut (c.flags f s) := by
  unfold Ctx.flags
  split
  · rfl
  · exact .updThread_rest s _ _ fun _ => by rfl

theorem Ctx.next_staysOut (c : Ctx) (s : State) : s.staysOut (c.next s) := s.advance_staysOut _ _ _ _
theorem Ctx.wait_staysOut (c : Ctx) (why : Wait) (s : State) : s.staysOut (c.wait why s) := s.wait_staysOut _ _ _ _
theorem Ctx.trap_staysOut (c : Ctx) (t : TrapInfo) (s : State) : s.staysOut (c.trap t s) := s.takeTrap_staysOut _ _ _ _
theorem Ctx.trapWith_staysOut (c : Ctx) (code detail : W8) (lanes : W32) (s : State) : s.staysOut (c.trapWith code detail lanes s) := c.trap_staysOut _ s
theorem Ctx.egressRange_staysOut (c : Ctx) (lanes : W32) (s : State) : s.staysOut (c.egressRange lanes s) := c.trapWith_staysOut _ _ _ s

theorem Ctx.scalar_staysOut (c : Ctx) (d : BitVec 6) (v : W64) (s : State) : s.staysOut (c.scalar d v s) := (c.putS_staysOut s d v).trans (c.next_staysOut _)
theorem Ctx.pred_staysOut (c : Ctx) (d : BitVec 6) (v : W32) (s : State) : s.staysOut (c.pred d v s) := (c.putP_staysOut s _ v).trans (c.next_staysOut _)
theorem Ctx.vector_staysOut (c : Ctx) (d : BitVec 6) (f : Nat → W32) (s : State) : s.staysOut (c.vector d f s) := (c.putV_staysOut s _ f).trans (c.next_staysOut _)
theorem Ctx.predicate_staysOut (c : Ctx) (d : BitVec 6) (f : Nat → Bool) (s : State) : s.staysOut (c.predicate d f s) :=
  (c.putP_staysOut s _ _).trans (c.next_staysOut _)
theorem Ctx.permute_staysOut (c : Ctx) (d a : BitVec 6) (s : State) : s.staysOut (c.permute d a s) := c.vector_staysOut d _ s

theorem Ctx.floats_staysOut (c : Ctx) (t : BitVec 2) (d : BitVec 6) (f : Nat → List (Nat × W32)) (s : State) : s.staysOut (c.floats t d f s) := by
  unfold Ctx.floats
  dsimp only
  split
  · exact (c.flags_staysOut _ s).trans ((c.putV2_staysOut _ d _).trans (c.next_staysOut _))
  · exact (c.flags_staysOut _ s).trans (c.vector_staysOut d _ _)

theorem Ctx.float1_staysOut (c : Ctx) (t : BitVec 2) (d a : BitVec 6) (f : Format → Nat → Nat × W32) (s : State) : s.staysOut (c.float1 t d a f s) :=
  c.floats_staysOut t d _ s
theorem Ctx.float2_staysOut (c : Ctx) (t : BitVec 2) (d a b : BitVec 6) (f : Format → Nat → Nat → Nat × W32) (s : State) : s.staysOut (c.float2 t d a b f s) :=
  c.floats_staysOut t d _ s
theorem Ctx.float3_staysOut (c : Ctx) (t : BitVec 2) (d a b : BitVec 6) (f : Format → Nat → Nat → Nat → Nat × W32) (s : State) :
    s.staysOut (c.float3 t d a b f s) := c.floats_staysOut t d _ s
theorem Ctx.scale_staysOut (c : Ctx) (t : BitVec 2) (d a b : BitVec 6) (r : BitVec 2) (s : State) : s.staysOut (c.scale t d a b r s) := c.floats_staysOut t d _ s

theorem Ctx.floatCompare_staysOut (c : Ctx) (t : BitVec 2) (cc p : BitVec 3) (a b : BitVec 6) (s : State) : s.staysOut (c.floatCompare t cc p a b s) := by
  unfold Ctx.floatCompare
  exact (c.flags_staysOut _ s).trans (c.predicate_staysOut _ _ _)

theorem Ctx.drawn_staysOut (c : Ctx) (f : W32) (g : List W32) (s : State) : s.staysOut (c.flags f (c.setGen g s)) :=
  (c.setGen_staysOut g s).trans (c.flags_staysOut f _)

theorem Ctx.packNarrow_staysOut (c : Ctx) (d a t : BitVec 6) (m : BitVec 4) (n : Nat) (s : State) : s.staysOut (c.packNarrow d a t m n s) := by
  unfold Ctx.packNarrow
  dsimp only
  split
  · split
    · exact (c.drawn_staysOut _ _ s).trans ((c.putVPart_staysOut _ _ _).trans (c.next_staysOut _))
    · exact (c.drawn_staysOut _ _ s).trans ((c.putVPart_staysOut _ _ _).trans (c.next_staysOut _))
  · exact (c.drawn_staysOut _ _ s).trans (c.vector_staysOut d _ _)

theorem Ctx.unlessRedundant_staysOut (c : Ctx) {f : State → State} {s : State} (h : s.staysOut (f s)) : s.staysOut (c.unlessRedundant f s) := by
  unfold Ctx.unlessRedundant
  split
  · exact c.trapWith_staysOut _ _ _ s
  · exact h

theorem Ctx.waitCounter_staysOut (c : Ctx) (path : Path) (k : Nat) (s : State) : s.staysOut (c.waitCounter path k s) := by
  unfold Ctx.waitCounter
  split
  · exact c.next_staysOut s
  · exact c.wait_staysOut _ s

theorem Ctx.jump_staysOut (c : Ctx) (pc : W64) (s : State) : s.staysOut (c.jump pc s) := (State.staysOut.updSlot s _ _ _ _).trans (State.endRunOf_staysOut _ _ _ _)

theorem Ctx.push_staysOut (c : Ctx) (f : Frame) (s : State) {go : State → State} (hgo : ∀ s : State, s.staysOut (go s)) : s.staysOut (c.push f s go) := by
  unfold Ctx.push
  split
  · exact c.trapWith_staysOut _ _ _ s
  · have hready := s.pushReady_staysOut c.k c.a
    dsimp only
    split
    · exact hready.trans (c.wait_staysOut _ _)
    · exact hready.trans ((State.pushFrame_staysOut _ _ _ _).trans (hgo _))

theorem Ctx.arrive_staysOut (c : Ctx) (n : Nat) (dropping waits : Bool) (s : State) : s.staysOut (c.arrive n dropping waits s) := by
  unfold Ctx.arrive
  dsimp only
  split
  · exact c.trapWith_staysOut _ _ _ s
  · generalize hu : s.updCore c.k _ = u
    have harrived : s.staysOut u := hu ▸ .updCore_rest s c.k fun _ => rfl
    split
    · split
      · exact harrived.trans ((u.settleBar_staysOut c.k n).trans (State.staysOut.trans (.updCore_rest _ c.k fun _ => by rfl) (c.next_staysOut _)))
      · exact harrived.trans ((u.settleBar_staysOut c.k n).trans (c.wait_staysOut _ _))
    · exact harrived.trans ((c.next_staysOut u).trans (State.settleBar_staysOut _ _ _))

/-! ## Accesses (R184 to R190, R388) -/

theorem State.translateLanes_staysOut (s : State) (k asid : Nat) (kind : WalkKind) (ws : List Want) : s.staysOut (s.translateLanes k asid kind ws).1 := by
  unfold State.translateLanes
  refine State.staysOut.foldl_fst ws _ (fun p w => ?_) (s, ({} : Found))
  obtain ⟨s, f⟩ := p
  dsimp only
  split
  · rfl
  · exact s.translate_staysOut k asid w.va kind

theorem State.translateAll_staysOut (s : State) (k asid : Nat) (kind : WalkKind) (ws : List Want) : s.staysOut (s.translateAll k asid kind ws).1 := by
  have h := s.translateLanes_staysOut k asid kind ws
  unfold State.translateAll
  dsimp only
  split
  · exact h.trans (.of_cores rfl)
  · exact h

theorem State.requestPages_staysOut (s : State) (die asid : Nat) (f : Found) (frag : Option (Nat × Nat)) : s.staysOut (s.requestPages die asid f frag) := by
  unfold State.requestPages
  exact .foldl _ (fun (s : State) (p : Nat × Nat) => s.requestPage die asid p.2 frag (f.bigs.contains (p.2 / 32))) (fun s p => s.requestPage_staysOut _ _ _ _ _) s

theorem Thread.foldl_supersede_ahead (ds : List (RegRef × W32)) (t : Thread) : (ds.foldl (fun t d => t.supersede d.1 d.2) t).ahead = t.ahead := by
  induction ds generalizing t with
  | nil => rfl
  | cons d ds ih => exact (ih _).trans (t.supersede_ahead d.1 d.2)

theorem Ctx.append_staysOut (c : Ctx) (x : Access) (s : State) : s.staysOut (c.append x s) := by
  unfold Ctx.append
  refine State.staysOut.trans (.of_cores ?_) (.updThread_rest { s with seq := s.seq + 1 } _ _ fun t => Thread.foldl_supersede_ahead x.dests t)
  rfl

theorem Ctx.writesIssue_staysOut (c : Ctx) (q : Ask) (tag : Nat) (rs : List LineReq) (s : State) : s.staysOut (c.writesIssue q tag rs s) := by
  unfold Ctx.writesIssue
  split
  · rfl
  · refine .foldl rs _ (fun s r => ?_) s
    have hl1 : s.staysOut (s.updCore c.k fun x => x.l1Issue q.kind r) := .updCore s c.k fun x => x.l1Issue_staysOut q.kind r
    dsimp only
    split
    · exact hl1
    · exact hl1.trans (.updDie _ _ _)

theorem Ctx.send_staysOut (c : Ctx) (q : Ask) (f : Found) (absent : W32) (s : State) : s.staysOut (c.send q f absent s) := by
  unfold Ctx.send
  dsimp only
  refine State.staysOut.trans ?_ (c.writesIssue_staysOut _ _ _ _)
  refine (c.append_staysOut _ s).trans (.foldl _ _ (fun s r => .updCore_rest s c.k fun x => ?_) _)
  split <;> rfl

theorem Ctx.nextAfterSplit_staysOut (c : Ctx) (s : State) : s.staysOut (c.nextAfterSplit s) := by
  unfold Ctx.nextAfterSplit
  split
  · exact (State.staysOut.updSlot s _ _ _ _).trans ((State.endRun_staysOut _ _ _).trans (State.settle_staysOut _ _ _))
  · exact (c.next_staysOut s).trans (State.settle_staysOut _ _ _)

/-- What a split comes to: the lanes' pages are requested where they have left. -/
theorem State.splitAndRequest_staysOut {s t : State} {left : Bool} {k a : Nat} {w : SlotId} {lanes : W32} {cause : W8} {key pc : W64}
    (h : s.splitFragment k a w lanes cause key pc = (t, left)) (die asid : Nat) (f : Found) (frag : Option (Nat × Nat)) :
    s.staysOut (if left then t.requestPages die asid f frag else t) := by
  have ht := (s.splitFragment_staysOut k a w lanes cause key pc).of_fst h
  split
  · exact ht.trans (t.requestPages_staysOut _ _ _ _)
  · exact ht

theorem Ctx.globalAccess_staysOut (c : Ctx) (q : Ask) (s : State) : s.staysOut (c.globalAccess q s) := by
  have htr := s.translateAll_staysOut c.k c.core.launch.asid (if q.kind.writes then .write else .read) q.wants
  unfold Ctx.globalAccess
  dsimp only
  generalize s.translateAll c.k c.core.launch.asid (if q.kind.writes then .write else .read) q.wants = p at htr ⊢
  obtain ⟨s1, f⟩ := p
  refine State.staysOut.trans htr ?_
  dsimp only
  split
  · exact .ite (s1.discardFault_staysOut _ _) ((s1.reportFatal_staysOut _ _ _ _ _ _).trans ((c.append_staysOut _ _).trans (c.next_staysOut _)))
  · refine .ite (c.wait_staysOut _ s1) (.ite (.ite (c.trapWith_staysOut _ _ _ s1) ((c.send_staysOut _ _ _ s1).trans (c.next_staysOut _)))
      (.ite ((c.send_staysOut _ _ _ s1).trans (c.next_staysOut _)) (.ite (s1.discardFault_staysOut _ _)
        (.ite ((s1.requestPages_staysOut _ _ _ _).trans (c.wait_staysOut _ _)) ?_))))
    generalize hsplit : s1.splitFragment c.k c.a c.iss.slot _ _ _ _ = p
    obtain ⟨s2, left⟩ := p
    have hs2 := State.splitAndRequest_staysOut hsplit (dieOfCore c.k) c.core.launch.asid f
    exact .ite (hs2 _) (.ite ((hs2 _).trans ((c.trapWith_staysOut _ _ _ _).trans (State.settle_staysOut _ _ _)))
      (.ite ((hs2 _).trans (c.nextAfterSplit_staysOut _)) ((hs2 _).trans ((c.send_staysOut _ _ _ _).trans (c.nextAfterSplit_staysOut _)))))

theorem Ctx.access_staysOut (c : Ctx) (q : Ask) (s : State) : s.staysOut (c.access q s) := by
  unfold Ctx.access
  split
  · exact c.wait_staysOut _ s
  · split
    · exact c.trapWith_staysOut _ _ _ s
    · split
      · exact c.trapWith_staysOut _ _ _ s
      · split
        · exact c.globalAccess_staysOut q s
        · exact (c.append_staysOut _ s).trans (c.next_staysOut _)

theorem Ctx.atomAccess_staysOut (c : Ctx) (q : Ask) (s : State) : s.staysOut (c.atomAccess q s) := by
  unfold Ctx.atomAccess
  split
  · exact c.trapWith_staysOut _ _ _ s
  · exact c.access_staysOut q s

end Sys2Proof.Machine
end

section
/-! PROOFS. Packet words begin no run-ahead: prefetches, free lists, egress rings, epilogue programs, resolves and `KVAPPEND` (R52, R359). -/

namespace Sys2Proof.Machine

/-! ## Prefetches and page requests (R217, R218) -/

theorem State.serveReadOnly_staysOut (s : State) (r : LineReq) (core : Nat) : s.staysOut (s.serveReadOnly r core).1 := by
  unfold State.serveReadOnly
  dsimp only
  split
  · exact s.askPeer_staysOut _ _ _
  · split
    · rfl
    · exact (s.readOnlyLine_cachesOnly core r.domain r.vid r.line (s.fetchView_cachesOnly r)).staysOut

theorem Ctx.prefetchLine_staysOut (c : Ctx) (ro : Bool) (va : W64) (s : State) : s.staysOut (c.prefetchLine ro va s) := by
  have htr := s.translate_staysOut c.k c.core.launch.asid va .prefetch
  unfold Ctx.prefetchLine
  split
  · next t e h =>
    refine (htr.of_fst h).trans (.ite (t.askPeer_staysOut _ _ _) (.ite (t.serveReadOnly_staysOut _ _) ?_))
    exact t.wakeAndPerform_staysOut _ _ _ _
  · next h => exact htr.of_fst h

theorem Ctx.requestPage_staysOut (c : Ctx) (va : W64) (s : State) : s.staysOut (c.requestPage va s).1 := by
  have htr := s.translate_staysOut c.k c.core.launch.asid va .prefetch
  unfold Ctx.requestPage
  split
  · next h => exact (htr.of_fst h).trans (State.requestPage_staysOut _ _ _ _ _ _)
  · next h => exact htr.of_fst h
  · next h => exact htr.of_fst h

theorem State.dropTlb_staysOut (s : State) (k : Nat) (p : TlbEntry → Bool) : s.staysOut (s.dropTlb k p) := by
  unfold State.dropTlb
  exact State.staysOut.trans (.updCore_rest s k fun _ => by rfl) (.updDie _ _ _)

/-! ## Free lists (R222, R259 to R262) -/

theorem State.readCommitted_staysOut (s : State) (pa size : Nat) : s.staysOut (s.readCommitted pa size).1 := .of_slices (s.readCommitted_slicesOnly pa size)

theorem State.updPool_staysOut (s : State) (n : Nat) (f : Pool → Pool) : s.staysOut (s.updPool n f) := .of_cores rfl

theorem State.ringPop_staysOut (s : State) (n : Nat) : s.staysOut (s.ringPop n).1 := by
  unfold State.ringPop
  split
  · rfl
  · split
    · rfl
    · exact (s.readCommitted_staysOut _ 2).trans (State.updPool_staysOut _ _ _)

theorem State.wakePool_staysOut (s : State) (n : Nat) : s.staysOut (s.wakePool n) := by
  unfold State.wakePool
  exact .foldl s.cores (fun (s : State) (x : Nat × Core) => s.wakeFragments x.1 _) (fun s x => s.wakeFragments_staysOut x.1 _) s

theorem State.ringPush_staysOut (s : State) (n b : Nat) : s.staysOut (s.ringPush n b) := by
  unfold State.ringPush
  split
  · rfl
  · exact (s.engineWrite_staysOut _ _ _ _).trans ((State.updPool_staysOut _ _ _).trans (State.wakePool_staysOut _ _))

theorem State.storeLog_staysOut (s : State) (die i : Nat) : s.staysOut (s.storeLog die i) := by
  unfold State.storeLog
  split
  · exact s.engineWrite_staysOut _ _ _ _
  · rfl

theorem State.appendLog_staysOut (s : State) (die : Nat) (e : LogEntry) : s.staysOut (s.appendLog die e) := by
  unfold State.appendLog
  exact (State.staysOut.updDie s die _).trans (State.storeLog_staysOut _ _ _)

theorem State.popFor_staysOut (s : State) (c : Core) (n : Nat) : s.staysOut (s.popFor c n).1 := by
  have hpop := s.ringPop_staysOut n
  unfold State.popFor
  split
  · rfl
  · split
    · split
      · rfl
      · dsimp only
        split
        · exact hpop
        · exact hpop.trans (State.appendLog_staysOut _ _ _)
    · dsimp only
      split
      · exact hpop
      · exact hpop.trans (State.ringPush_staysOut _ _ _)
    · exact hpop

theorem State.pushFor_staysOut (s : State) (c : Core) (n b : Nat) : s.staysOut (s.pushFor c n b) := by
  unfold State.pushFor
  split
  · rfl
  · split
    · exact .ite (s.report_staysOut _ _) (s.appendLog_staysOut _ _)
    · rfl
    · exact s.ringPush_staysOut n b

/-! ## Egress rings (R251 to R255) -/

theorem State.reserve_staysOut (s : State) (k : Nat) (c : Core) (n : Nat) : s.staysOut (s.reserve k c n) :=
  (State.staysOut.updDomain s _ _).trans (State.settleEgress_staysOut _ _)

theorem State.instantMessage_staysOut (s : State) (e h : Nat) : s.staysOut (s.instantMessage e h) := by
  unfold State.instantMessage
  exact .ite (.refl s) ((State.staysOut.updDie s e _).trans (.updDie _ h _))

theorem State.releasePosition_staysOut (s : State) (d : Nat) (q : W32) (reject : Bool) : s.staysOut (s.releasePosition d q reject) := by
  unfold State.releasePosition
  have hread := s.readCommitted_staysOut ((s.domain d).egress.shadowSlot q) 3
  have hwrite (u : State) (h pa : Nat) (v : W64) : u.staysOut ((u.instantMessage (d % Config.dies) h).writeCommitted pa 3 v) :=
    (u.instantMessage_staysOut _ _).trans (.of_slices (State.writeCommitted_slicesOnly _ _ _ _))
  dsimp only
  refine hread.trans (.ite (State.staysOut.trans ?_ ((hwrite _ _ _ _).trans (.of_slices (State.flushLine_slicesOnly _ _)))) (State.staysOut.trans ?_ (hwrite _ _ _ _)))
  · exact .ite (State.engineWrite_staysOut _ _ _ _ _) (.refl _)
  · exact .ite (State.engineWrite_staysOut _ _ _ _ _) (.refl _)

theorem State.releaseStep_staysOut (s : State) (k a : Nat) (asked : Option (Nat × Nat)) : s.staysOut (s.releaseStep k a asked).1 := by
  unfold State.releaseStep
  split
  · rfl
  · cases asked with
    | some x =>
      dsimp only
      split <;> rfl
    | none =>
      dsimp only
      split <;> exact .of_slices s.writeBackFar_slicesOnly

theorem Ctx.release_staysOut (c : Ctx) (d a b : BitVec 6) (reject : Bool) (s : State) : s.staysOut (c.release d a b reject s) := by
  unfold Ctx.release
  extract_lets dom t e ahead n u l v w finish
  have hfinish (u : State) : u.staysOut (finish u) := (c.putS_staysOut u d _).trans ((c.next_staysOut _).trans (State.endRun_staysOut _ _ _))
  have hsettled : s.staysOut t := s.settleEgress_staysOut dom
  have hcopied : t.staysOut u := .foldl (List.range n) _ (fun s j => s.releasePosition_staysOut dom _ reject) t
  have hfreed : u.staysOut w := State.staysOut.trans (.updDomain u dom _) (.updCore _ c.k fun x => x.acquireShadow_staysOut e)
  have hstep := w.releaseStep_staysOut c.k c.a none
  refine .ite (c.egressRange_staysOut _ s) (hsettled.trans (.ite (c.wait_staysOut _ t) (hcopied.trans (hfreed.trans (.ite (hfinish w) ?_)))))
  split
  · next h => exact (hstep.of_fst h).trans ((State.staysOut.updDomain _ _ _).trans (hfinish _))
  · next h => exact (hstep.of_fst h).trans (c.wait_staysOut _ _)

/-! ## Matrix commands, epilogue programs and resolves (R230 to R238, R245) -/

theorem Ctx.queueMatrix_staysOut (c : Ctx) (t : BitVec 6) (op : MatrixOp) (s : State) : s.staysOut (c.queueMatrix t op s) := by
  unfold Ctx.queueMatrix
  refine .ite (c.wait_staysOut _ s) (State.staysOut.trans ?_ (c.next_staysOut _))
  refine State.staysOut.trans (t := { s with seq := s.seq + 1 }) (.of_cores rfl) (.updCore_rest _ c.k fun _ => ?_)
  rfl

theorem Ctx.readProgram_staysOut (c : Ctx) (va : W64) (s : State) : s.staysOut (c.readProgram va s).1 := by
  have htr := s.translate_staysOut c.k c.core.launch.asid va .read
  unfold Ctx.readProgram
  split
  · next h => exact htr.of_fst h
  · next h => exact htr.of_fst h
  · next h => exact htr.of_fst h
  · next t e h =>
    refine (htr.of_fst h).trans ?_
    dsimp only
    split
    · exact t.askPeer_staysOut _ _ _
    · split
      · rfl
      · exact t.wakeAndPerform_staysOut _ _ _ _

theorem Ctx.resolve_staysOut (c : Ctx) (d a b : BitVec 6) (squash : Bool) (s : State) : s.staysOut (c.resolve d a b squash s) := by
  unfold Ctx.resolve
  refine .ite ((c.wait_staysOut _ s).trans (State.endRun_staysOut _ _ _)) (State.staysOut.trans ?_ (c.wait_staysOut _ _))
  exact .of_cores rfl

/-! ## `KVAPPEND` (R258) -/

theorem Ctx.kvStep_staysOut (c : Ctx) (pool : Nat) (q : Ask) (tag : Nat) (e : TlbEntry) (va : W64) (s : State) : s.staysOut (c.kvStep pool q tag e va s).1 := by
  unfold Ctx.kvStep
  extract_lets pa r
  have hread := s.performReq_staysOut { r with elems := [engineElem pa 2 .read] } c.k c.a
  generalize s.performReq { r with elems := [engineElem pa 2 .read] } c.k c.a = x at hread ⊢
  obtain ⟨s1, x⟩ := x
  refine State.staysOut.trans hread ?_
  dsimp only
  split
  all_goals
    split
    · rfl
    · have hpop := s1.popFor_staysOut c.core pool
      generalize s1.popFor c.core pool = y at hpop ⊢
      obtain ⟨s2, n⟩ := y
      refine State.staysOut.trans hpop ?_
      dsimp only
      split
      · rfl
      · exact (s2.instantMessage_staysOut _ _).trans (State.performReq_staysOut _ _ _ _)

theorem Ctx.kvServe_staysOut (c : Ctx) (pool : Nat) (q : Ask) (tag : Nat) (f : Found) (p : Pool) (a : BitVec 6) (groups : List (List Nat)) (s : State) :
    s.staysOut (c.kvServe pool q tag f p a groups s).1 := by
  induction groups generalizing s with
  | nil => exact .refl s
  | cons g rest ih =>
    cases g with
    | nil => exact ih s
    | cons i tail =>
      unfold Ctx.kvServe
      dsimp only
      cases f.entry i with
      | none => exact ih s
      | some e =>
        dsimp only
        have hstep := c.kvStep_staysOut pool q tag e (c.kvEntry p a i) s
        generalize c.kvStep pool q tag e (c.kvEntry p a i) s = x at hstep ⊢
        obtain ⟨s1, n, bad⟩ := x
        cases n with
        | zero => exact hstep
        | succ n => exact hstep.trans (ih s1)

theorem Ctx.kvServed_staysOut (c : Ctx) (d : BitVec 6) (q : Ask) (f : Found) (done : List (Nat × Nat × Bool)) (s : State) :
    s.staysOut (c.kvServed d q f done s) := by
  unfold Ctx.kvServed
  exact (c.append_staysOut _ s).trans (c.writesIssue_staysOut _ _ _ _)

theorem Ctx.kvGo_staysOut (c : Ctx) (d a b : BitVec 6) (q : Ask) (f : Found) (split : Bool) (s : State) : s.staysOut (c.kvGo d a b q f split s) := by
  unfold Ctx.kvGo
  extract_lets p pool lanes
  have hserve := c.kvServe_staysOut pool q s.seq f p a (c.kvGroups p a lanes) s
  generalize c.kvServe pool q s.seq f p a (c.kvGroups p a lanes) s = x at hserve ⊢
  obtain ⟨s1, done, left⟩ := x
  have hdone : s.staysOut (if done = [] then s1 else c.kvServed d q f done s1) := hserve.trans (.ite (.refl s1) (c.kvServed_staysOut d q f done s1))
  dsimp only
  generalize (if done = [] then s1 else c.kvServed d q f done s1) = u at hdone ⊢
  refine hdone.trans (.ite (.ite (c.nextAfterSplit_staysOut u) (c.next_staysOut u)) ?_)
  have hsplit := u.splitFragment_staysOut c.k c.a c.iss.slot (maskOf fun i => left.contains i) 0x21#8 (BitVec.ofNat 64 pool) c.iss.pc
  generalize u.splitFragment c.k c.a c.iss.slot (maskOf fun i => left.contains i) 0x21#8 (BitVec.ofNat 64 pool) c.iss.pc = x at hsplit ⊢
  exact .ite (hsplit.trans (c.nextAfterSplit_staysOut _)) hsplit

theorem Ctx.kvAppend_staysOut (c : Ctx) (d a b : BitVec 6) (s : State) : s.staysOut (c.kvAppend d a b s) := by
  unfold Ctx.kvAppend
  extract_lets p q asid
  have htr := s.translateAll_staysOut c.k asid .write q.wants
  generalize s.translateAll c.k asid .write q.wants = x at htr ⊢
  obtain ⟨s1, f⟩ := x
  refine htr.trans ?_
  dsimp only
  split
  · exact .ite (s1.discardFault_staysOut _ _) ((s1.reportFatal_staysOut _ _ _ _ _ _).trans ((c.append_staysOut _ _).trans (c.next_staysOut _)))
  · split
    · exact State.staysOut.trans (.ite (.refl s1) (s1.askPeer_staysOut _ _ _)) (c.wait_staysOut _ _)
    · refine .ite (c.wait_staysOut _ s1) (.ite (.ite (c.trapWith_staysOut _ _ _ s1) (c.kvGo_staysOut _ _ _ _ _ _ s1)) ?_)
      generalize hsplit : s1.splitFragment c.k c.a c.iss.slot _ _ _ _ = x
      obtain ⟨s2, left⟩ := x
      have hs2 := State.splitAndRequest_staysOut hsplit (dieOfCore c.k) asid f
      exact .ite (hs2 _) (.ite ((hs2 _).trans ((c.trapWith_staysOut _ _ _ _).trans (State.settle_staysOut _ _ _))) ((hs2 _).trans (c.kvGo_staysOut _ _ _ _ _ _ _)))

end Sys2Proof.Machine
end

section
/-! PROOFS. Every packet word is answered by a state in which nobody has begun run-ahead (R52, R104, R359): the issue of a word outside run-ahead, and the words whose
effect is no single operation. -/

namespace Sys2Proof.Machine

/-! ## The issue of a word -/

/-- An agent outside run-ahead issues: what it gets is a state, in which nobody has begun run-ahead. -/
def State.answersOut (s : State) (o : Out) : Prop :=
  ∀ iss core, s.cur = some iss → s.core? iss.core = some core → (core.thread iss.agent).ahead = none → ∃ t, o = .next t ∧ s.staysOut t

theorem Ctx.execute_staysOut (c : Ctx) {chk : Ctx → State → Option W8} {body : Ctx → State → State} (h : ∀ (c : Ctx) (s : State), s.staysOut (body c s)) (s : State) :
    s.staysOut (c.execute chk body s) := by
  unfold Ctx.execute
  extract_lets blind
  split
  · exact c.trap_staysOut _ s
  · split
    · exact c.trap_staysOut _ s
    · exact .ite (c.next_staysOut s) (.ite (c.trapWith_staysOut _ _ _ s) (h c s))

theorem mkCtx_ahead (iss : Issue) (core : Core) (i : Instr) (s : State) : (mkCtx iss core i s).1.th.ahead = (core.thread iss.agent).ahead := by
  obtain ⟨v, sr, p, h⟩ := mkCtx_th iss core i s
  rw [h]

theorem mkCtx_staysOut (iss : Issue) (core : Core) (i : Instr) (s : State) : s.staysOut (mkCtx iss core i s).2 := .of_cores rfl

namespace State.answersOut

variable {s : State} {i : Instr} {chk : Ctx → State → Option W8}

theorem issueWith {body : Ctx → State → State} {load : Ctx → Ahead → State → State} (h : ∀ (c : Ctx) (s : State), s.staysOut (body c s)) :
    s.answersOut (issueWith i chk body load s) := by
  intro iss core hcur hcore hout
  unfold Machine.issueWith
  simp only [hcur, hcore]
  have hth := mkCtx_ahead iss core i s
  have hs := mkCtx_staysOut iss core i s
  generalize mkCtx iss core i s = x at hth hs
  obtain ⟨c, s1⟩ := x
  dsimp only at hth hs ⊢
  rw [hth, hout]
  dsimp only
  split
  · exact ⟨_, rfl, hs.trans (c.wait_staysOut _ s1)⟩
  · split
    · exact ⟨_, rfl, hs.trans (c.trap_staysOut _ s1)⟩
    · exact ⟨_, rfl, hs.trans (c.execute_staysOut h s1)⟩

theorem issue {body : Ctx → State → State} (h : ∀ (c : Ctx) (s : State), s.staysOut (body c s)) : s.answersOut (issue i chk body s) := .issueWith h

theorem issueLoad {q : Ctx → Ask} : s.answersOut (issueLoad i q s) := .issueWith fun c s => c.access_staysOut _ s

theorem issueStore {q : Ctx → Ask} : s.answersOut (issueStore i q s) := .issue fun c s => c.access_staysOut _ s

/-! The words whose effect is one operation of the issuing context. -/

theorem scalar {d : BitVec 6} {v : Ctx → W64} : s.answersOut (Machine.issue i chk (fun c => c.scalar d (v c)) s) := .issue fun c s => c.scalar_staysOut d _ s

theorem pred {d : BitVec 6} {v : Ctx → W32} : s.answersOut (Machine.issue i chk (fun c => c.pred d (v c)) s) := .issue fun c s => c.pred_staysOut d _ s

theorem vector {d : BitVec 6} {v : Ctx → Nat → W32} : s.answersOut (Machine.issue i chk (fun c => c.vector d (v c)) s) :=
  .issue fun c s => c.vector_staysOut d _ s

theorem predicate {d : BitVec 6} {v : Ctx → Nat → Bool} : s.answersOut (Machine.issue i chk (fun c => c.predicate d (v c)) s) :=
  .issue fun c s => c.predicate_staysOut d _ s

theorem permute {d a : BitVec 6} : s.answersOut (Machine.issue i chk (fun c => c.permute d a) s) := .issue fun c s => c.permute_staysOut d a s

theorem floats {t : BitVec 2} {d : BitVec 6} {f : Ctx → Nat → List (Nat × W32)} : s.answersOut (Machine.issue i chk (fun c => c.floats t d (f c)) s) :=
  .issue fun c s => c.floats_staysOut t d _ s

theorem float1 {t : BitVec 2} {d a : BitVec 6} {f : Format → Nat → Nat × W32} : s.answersOut (Machine.issue i chk (fun c => c.float1 t d a f) s) :=
  .issue fun c s => c.float1_staysOut t d a f s

theorem float2 {t : BitVec 2} {d a b : BitVec 6} {f : Format → Nat → Nat → Nat × W32} : s.answersOut (Machine.issue i chk (fun c => c.float2 t d a b f) s) :=
  .issue fun c s => c.float2_staysOut t d a b f s

theorem float3 {t : BitVec 2} {d a b : BitVec 6} {f : Format → Nat → Nat → Nat → Nat × W32} :
    s.answersOut (Machine.issue i chk (fun c => c.float3 t d a b f) s) :=
  .issue fun c s => c.float3_staysOut t d a b f s

theorem scale {t : BitVec 2} {d a b : BitVec 6} {r : BitVec 2} : s.answersOut (Machine.issue i chk (fun c => c.scale t d a b r) s) :=
  .issue fun c s => c.scale_staysOut t d a b r s

theorem floatCompare {t : BitVec 2} {cc p : BitVec 3} {a b : BitVec 6} : s.answersOut (Machine.issue i chk (fun c => c.floatCompare t cc p a b) s) :=
  .issue fun c s => c.floatCompare_staysOut t cc p a b s

theorem access {q : Ctx → State → Ask} : s.answersOut (Machine.issue i chk (fun c s => c.access (q c s) s) s) := .issue fun c s => c.access_staysOut _ s

theorem atomAccess {q : Ctx → State → Ask} : s.answersOut (Machine.issue i chk (fun c s => c.atomAccess (q c s) s) s) :=
  .issue fun c s => c.atomAccess_staysOut _ s

end State.answersOut

/-! ## Control -/

theorem execYield_answersOut (s : State) : s.answersOut (execYield s) :=
  .issue fun c s => .ite (c.next_staysOut s)
    (((State.staysOut.updThread_rest s _ _ fun _ => by rfl).trans (c.next_staysOut _)).trans (State.endRunOf_staysOut _ _ _ _))

theorem execRttAdv_answersOut (s : State) : s.answersOut (execRttAdv s) := by
  refine .issue fun c s => ?_
  have h := s.afterInstr_staysOut c.k 3 c.th.trapPc
  generalize s.afterInstr c.k 3 c.th.trapPc = x at h ⊢
  obtain ⟨s1, pc⟩ := x
  cases pc with
  | none => exact h.trans (c.wait_staysOut _ _)
  | some pc => exact h.trans (State.returnFromTrap_staysOut _ _ _ _ _)

theorem execMfs_answersOut (d : BitVec 6) (e : BitVec 12) (s : State) : s.answersOut (execMfs d e s) :=
  .issue fun c s => .ite ((c.putS_staysOut s d _).trans (c.next_staysOut _)) ((c.putV_staysOut s _ _).trans (c.next_staysOut _))

theorem execMts_answersOut (t : BitVec 6) (e : BitVec 12) (s : State) : s.answersOut (execMts t e s) :=
  .issue fun c s => (State.staysOut.updThread_rest s _ _ fun _ => by simp).trans (c.next_staysOut _)

theorem Core.endAp_staysOut (x : Core) (a : Nat) :
    x.staysOut { (x.updThread a fun t => { t with slotA := Slot.none, ended := true }).closeFinal with aq := x.aq.map fun q => { q with closed := true } } :=
  (Core.staysOut.updThread x a (Thread.keepsOut_of_eq fun _ => by rfl)).trans ((Core.closeFinal_staysOut _).trans (.of_thr rfl))

theorem execExit_answersOut (s : State) : s.answersOut (execExit s) :=
  .issue fun c s => .ite ((State.staysOut.updCore s c.k fun x => x.endAp_staysOut c.a).trans (State.settleBatches_staysOut _ _))
    ((c.next_staysOut s).trans (State.exitLanes_staysOut _ _ _ _ _))

theorem execJmp_answersOut (a : BitVec 6) (s : State) : s.answersOut (execJmp a s) :=
  .issue fun c s => .ite (c.trapWith_staysOut _ _ _ s) (c.jump_staysOut _ s)

theorem execCallReg_answersOut (d a : BitVec 6) (s : State) : s.answersOut (execCallReg d a s) :=
  .issue fun c s => .ite (c.trapWith_staysOut _ _ _ s) ((c.putS_staysOut s d _).trans (c.jump_staysOut _ _))

theorem execCallDisp_answersOut (d : BitVec 6) (s : State) : s.answersOut (execCallDisp d s) :=
  .issue fun c s => (c.putSClean_staysOut s d _).trans (c.jump_staysOut _ _)

theorem execRet_answersOut (a : BitVec 6) (s : State) : s.answersOut (execRet a s) :=
  .issue fun c s => .ite (c.trapWith_staysOut _ _ _ s) (c.jump_staysOut _ s)

theorem execLoop_answersOut (a : BitVec 6) (s : State) : s.answersOut (execLoop a s) :=
  .issue fun c s => .ite (c.jump_staysOut _ s) ((State.staysOut.updThread_rest s _ _ fun _ => by rfl).trans (State.staysOut.updSlot _ _ _ _ _))

theorem execLoopbrk_answersOut (s : State) : s.answersOut (execLoopbrk s) := by
  refine .issue fun c s => ?_
  cases c.th.loops with
  | nil => exact c.next_staysOut s
  | cons l rest => exact (State.staysOut.updThread_rest s _ _ fun _ => by rfl).trans (c.jump_staysOut _ _)

theorem Ctx.splitBranch_staysOut (c : Ctx) (dest : W64) (s : State) :
    s.staysOut ((s.updThread c.k c.a fun t => t.updSlot c.iss.slot fun sl => { sl with st := .live, pc := dest, mask := c.pass }).endRunOf c.k c.a c.iss.slot) :=
  (State.staysOut.updThread_rest s _ _ fun _ => by simp).trans (State.endRunOf_staysOut _ _ _ _)

theorem execBrv_answersOut (s : State) : s.answersOut (execBrv s) :=
  .issueWith fun c s => .ite (c.jump_staysOut _ s) (.ite (s.exitAhead_staysOut _ _)
    (.ite ((State.staysOut.updSlot s _ _ _ _).trans (c.splitBranch_staysOut _ _)) (c.push_staysOut _ s fun s => c.splitBranch_staysOut _ s)))

theorem execReconv_answersOut (s : State) : s.answersOut (execReconv s) :=
  .issue fun c s => c.push_staysOut _ s fun s => (State.staysOut.updSlot s _ _ _ _).trans (c.next_staysOut _)

theorem execJoinw_answersOut (d a : BitVec 6) (s : State) : s.answersOut (execJoinw d a s) := by
  refine .issue fun c s => ?_
  have h : s.staysOut ((s.fillJoinw c.k c.a (otherSlot c.iss.slot)).expireJoinw c.k c.a (otherSlot c.iss.slot) s.now) :=
    (s.fillJoinw_staysOut _ _ _).trans (State.expireJoinw_staysOut _ _ _ _ _)
  dsimp only
  generalize ((s.fillJoinw c.k c.a (otherSlot c.iss.slot)).expireJoinw c.k c.a (otherSlot c.iss.slot) s.now) = u at h ⊢
  refine h.trans (.ite ?_ (.ite (u.endJoinw_staysOut _ _ _ _ _) (c.wait_staysOut _ u)))
  exact ((State.staysOut.updThread_rest u _ _ fun _ => by simp).trans (State.endRunOf_staysOut _ _ _ _)).trans (State.settle_staysOut _ _ _)

theorem execFragwake_answersOut (a : BitVec 6) (s : State) : s.answersOut (execFragwake a s) :=
  .issue fun c s => (c.next_staysOut s).trans (State.wakeFragments_staysOut _ _ _)

theorem execXimm_answersOut (x : BitVec 26) (s : State) : s.answersOut (execXimm x s) := by
  intro iss core hcur _ _
  refine ⟨{ s with cur := some { iss with xs := iss.xs ++ [x], tpc := nextPc iss.tpc } }, ?_, .of_cores rfl⟩
  simp [execXimm, hcur]

theorem execEmulatedMajor_answersOut (w : BitVec 32) (s : State) : s.answersOut (execEmulatedMajor w s) := by
  intro iss core hcur hcore _
  unfold execEmulatedMajor
  simp only [hcur, hcore]
  have hs := mkCtx_staysOut iss core (.emulatedMajor w) s
  generalize mkCtx iss core (.emulatedMajor w) s = x at hs
  obtain ⟨c, s1⟩ := x
  dsimp only at hs ⊢
  split
  · exact ⟨_, rfl, hs.trans (s1.exitAhead_staysOut _ _)⟩
  · split
    · exact ⟨_, rfl, hs.trans (c.trap_staysOut _ s1)⟩
    · split
      · exact ⟨_, rfl, hs.trans (c.trap_staysOut _ s1)⟩
      · split
        · exact ⟨_, rfl, hs.trans (c.trap_staysOut _ s1)⟩
        · split
          · exact ⟨_, rfl, hs.trans (s1.killBlock_staysOut _ _ _ _ _)⟩
          · exact ⟨_, rfl, hs.trans (s1.enterHandler_staysOut _ _ _ _ _)⟩

end Sys2Proof.Machine
end

section
/-! PROOFS. The synchronising, memory, matrix, version and conversion words begin no run-ahead (R52): for each, what its effect is made of. -/

namespace Sys2Proof.Machine

/-! ## Barriers, registers and waits -/

theorem Ctx.nextCore_staysOut (c : Ctx) {f : Core → Core} (hf : ∀ x : Core, (f x).thr = x.thr) (s : State) : s.staysOut (c.next (s.updCore c.k f)) :=
  (State.staysOut.updCore_rest s c.k hf).trans (c.next_staysOut _)

theorem execBarwait_answersOut (b : BitVec 6) (s : State) : s.answersOut (execBarwait b s) :=
  .issue fun c s => .ite (c.wait_staysOut _ s) (c.nextCore_staysOut (fun _ => by rfl) s)

theorem Core.give_staysOut (x : Core) (a now m : Nat) :
    x.staysOut ((x.updThread a fun t => { t with v := t.v.take (t.window - m), window := t.window - m }).release now m) :=
  (Core.staysOut.updThread x a (Thread.keepsOut_of_eq fun _ => by rfl)).trans (Core.release_staysOut _ _ _)

theorem execRgive_answersOut (k : BitVec 6) (s : State) : s.answersOut (execRgive k s) :=
  .issue fun c s => .ite ((State.staysOut.updCore s c.k fun x => x.give_staysOut _ _ _).trans (c.next_staysOut _)) (c.wait_staysOut _ s)

theorem execRclaim_answersOut (k : BitVec 6) (s : State) : s.answersOut (execRclaim k s) :=
  .issue fun c s => (State.staysOut.updCore_rest s c.k fun _ => by rfl).trans (c.wait_staysOut _ _)

theorem Core.claim_staysOut (x : Core) (a m : Nat) : x.staysOut { x.updThread a (fun t => t.grow m) with pool := x.pool - m } :=
  (x.grow_staysOut a m).trans (.of_thr rfl)

theorem execRclaimT_answersOut (d k : BitVec 6) (s : State) : s.answersOut (execRclaimT d k s) := by
  refine .issue fun c s => ?_
  have h := s.endCycles_staysOut c.k
  dsimp only
  generalize s.endCycles c.k = u at h ⊢
  exact h.trans ((State.staysOut.ite (State.staysOut.updCore u c.k fun x => x.claim_staysOut _ _) (.refl u)).trans
    ((c.putPAll_staysOut _ _ _).trans (c.next_staysOut _)))

theorem execTbwait_answersOut (d a b : BitVec 6) (s : State) : s.answersOut (execTbwait d a b s) :=
  .issue fun c s => .ite (c.trapWith_staysOut _ _ _ s) (.ite (c.trapWith_staysOut _ _ _ s)
    (.ite ((State.staysOut.updCore s c.k fun x => x.endTbwait_staysOut _ _).trans ((c.putS_staysOut _ _ _).trans (c.next_staysOut _))) (c.wait_staysOut _ s)))

theorem execFemark_answersOut (a b : BitVec 6) (s : State) : s.answersOut (execFemark a b s) := by
  refine .issue fun c s => .ite (c.wait_staysOut _ s) ?_
  split
  · exact c.trapWith_staysOut _ _ _ s
  · exact (c.append_staysOut _ s).trans (c.next_staysOut _)

theorem execFepoll_answersOut (d a : BitVec 6) (s : State) : s.answersOut (execFepoll d a s) := by
  refine .issueWith fun c s => .ite (c.wait_staysOut _ s) ?_
  split
  · exact c.trapWith_staysOut _ _ _ s
  · exact (c.append_staysOut _ s).trans (c.next_staysOut _)

theorem execWaitb_answersOut (a : BitVec 6) (s : State) : s.answersOut (execWaitb a s) :=
  .issue fun c s => .ite ((State.staysOut.updCore s c.k fun x => x.acquireEngines_staysOut).trans (c.next_staysOut _)) (c.wait_staysOut _ s)

theorem execTfence_answersOut (s : State) : s.answersOut (execTfence s) :=
  .issue fun c s => .ite (c.next_staysOut s) (.ite (c.wait_staysOut _ s)
    ((State.staysOut.of_cores (t := { s with seq := s.seq + 1 }) rfl).trans (c.nextCore_staysOut (fun _ => by rfl) _)))

/-! ## Memory -/

theorem execCopy_answersOut (a b : BitVec 6) (m : BitVec 4) (s : State) : s.answersOut (execCopy a b m s) :=
  .issue fun c s => .ite (c.wait_staysOut _ s) ((c.append_staysOut _ s).trans (c.nextCore_staysOut (fun _ => by rfl) _))

theorem execPref_answersOut (a b : BitVec 6) (s : State) : s.answersOut (execPref a b s) :=
  .issue fun c s => (State.staysOut.foldl c.actLanes _ (fun s _ => c.prefetchLine_staysOut false _ s) s).trans (c.next_staysOut _)

theorem execPrefRo_answersOut (a b : BitVec 6) (s : State) : s.answersOut (execPrefRo a b s) :=
  .issue fun c s => (State.staysOut.foldl c.actLanes _ (fun s _ => c.prefetchLine_staysOut true _ s) s).trans (c.next_staysOut _)

theorem execCinvRo_answersOut (s : State) : s.answersOut (execCinvRo s) :=
  .issue fun c s => (State.staysOut.updDie s _ _).trans (c.nextCore_staysOut (fun _ => by rfl) _)

theorem execCinvL1_answersOut (s : State) : s.answersOut (execCinvL1 s) := .issue fun c s => c.nextCore_staysOut (fun _ => by rfl) s

theorem execPgreq_answersOut (a b : BitVec 6) (s : State) : s.answersOut (execPgreq a b s) := by
  refine .issue fun c s => ?_
  have h := State.staysOut.foldl_fst c.actLanes
    (fun (acc : State × Bool) i => ((c.requestPage (c.lineAddr a b i) acc.1).1, acc.2 || (c.requestPage (c.lineAddr a b i) acc.1).2))
    (fun p i => c.requestPage_staysOut _ p.1) (s, false)
  exact h.trans (.ite (c.wait_staysOut _ _) (c.next_staysOut _))

theorem execTlbinv_answersOut (a : BitVec 6) (s : State) : s.answersOut (execTlbinv a s) :=
  .issue fun c s => (State.staysOut.ite (s.dropTlb_staysOut _ _) (.refl s)).trans (c.next_staysOut _)

theorem execTlbinvAll_answersOut (s : State) : s.answersOut (execTlbinvAll s) := .issue fun c s => (s.dropTlb_staysOut _ _).trans (c.next_staysOut _)

/-! ## Queues -/

theorem execSmovAq_answersOut (d a : BitVec 6) (s : State) : s.answersOut (execSmovAq d a s) :=
  .issue fun c s => .ite ((State.staysOut.updCore_rest s c.k fun _ => by rfl).trans (c.wait_staysOut _ _))
    ((State.staysOut.updCore_rest s c.k fun _ => by rfl).trans (c.scalar_staysOut _ _ _))

theorem execVmovFromMqi_answersOut (d a : BitVec 6) (s : State) : s.answersOut (execVmovFromMqi d a s) := by
  refine .issue fun c s => ?_
  cases (c.core.recv a.toNat).messages with
  | nil => exact c.wait_staysOut _ s
  | cons m rest => exact (State.staysOut.updCore_rest s c.k fun _ => by rfl).trans (c.vector_staysOut _ _ _)

theorem execVmovToMqo_answersOut (d a : BitVec 6) (s : State) : s.answersOut (execVmovToMqo d a s) := by
  refine .issue fun c s => ?_
  split
  · exact c.next_staysOut s
  · next b _ =>
    split
    · exact .ite (c.wait_staysOut _ s) (c.next_staysOut s)
    · next k _ =>
      split
      · exact c.next_staysOut s
      · exact .ite (c.next_staysOut s) (.ite (c.wait_staysOut _ s)
          (((State.staysOut.updCore_rest s k fun _ => by rfl).trans (.of_cores rfl)).trans (c.next_staysOut _)))

theorem execAqpush_answersOut (d a : BitVec 6) (s : State) : s.answersOut (execAqpush d a s) :=
  .issue fun c s => .ite (c.wait_staysOut _ s) (c.nextCore_staysOut (fun _ => by rfl) s)

theorem execAqclose_answersOut (d : BitVec 6) (s : State) : s.answersOut (execAqclose d s) := .issue fun c s => c.nextCore_staysOut (fun _ => by rfl) s

theorem execMqbind_answersOut (d a : BitVec 6) (s : State) : s.answersOut (execMqbind d a s) := .issue fun c s => c.nextCore_staysOut (fun _ => by rfl) s

theorem Ctx.nextP_staysOut (c : Ctx) (s : State) (n : Nat) (v : W32) : s.staysOut (c.next (c.putP s n v)) := (c.putP_staysOut s n v).trans (c.next_staysOut _)

theorem Ctx.nextS_staysOut (c : Ctx) (s : State) (d : BitVec 6) (v : W64) : s.staysOut (c.next (c.putS s d v)) := (c.putS_staysOut s d v).trans (c.next_staysOut _)

theorem execMqtry_answersOut (d a : BitVec 6) (s : State) : s.answersOut (execMqtry d a s) := .issue fun c s => c.nextP_staysOut s _ _

/-! ## Lanes -/

theorem execVaddc_answersOut (d a b : BitVec 6) (s : State) : s.answersOut (execVaddc d a b s) :=
  .issue fun c s => (c.putP_staysOut s _ _).trans (c.vector_staysOut _ _ _)

theorem execReduce_answersOut (d a : BitVec 6) (m : BitVec 4) (s : State) : s.answersOut (execReduce d a m s) :=
  .issue fun c s => (c.flags_staysOut _ s).trans (c.vector_staysOut _ _ _)

theorem execScan_answersOut (d a : BitVec 6) (m : BitVec 4) (s : State) : s.answersOut (execScan d a m s) :=
  .issue fun c s => (c.flags_staysOut _ s).trans (c.vector_staysOut _ _ _)

theorem execArgmax_answersOut (d a : BitVec 6) (m : BitVec 4) (s : State) : s.answersOut (execArgmax d a m s) :=
  .issue fun c s => (c.putV_staysOut s _ _).trans ((c.putV_staysOut _ _ _).trans (c.next_staysOut _))

theorem execCvt_answersOut (d a : BitVec 6) (x y : BitVec 3) (m : BitVec 4) (s : State) : s.answersOut (execCvt d a x y m s) :=
  .issue fun c s => .trans (c.drawn_staysOut _ _ s) (.ite ((c.putV2_staysOut _ _ _).trans (c.next_staysOut _)) (c.vector_staysOut _ _ _))

theorem execCvtwide_answersOut (d a t : BitVec 6) (s : State) : s.answersOut (execCvtwide d a t s) :=
  .issue fun c s => (State.staysOut.foldl _ _ (fun s _ => c.putV_staysOut s _ _) s).trans (c.next_staysOut _)

theorem execMxq_answersOut (d a t : BitVec 6) (m : BitVec 4) (s : State) : s.answersOut (execMxq d a t m s) := by
  refine .issue fun c s => ?_
  dsimp only
  split
  · exact c.next_staysOut s
  · exact (c.drawn_staysOut _ _ s).trans (c.vector_staysOut _ _ _)

/-! ## The matrix unit -/

theorem execMma_answersOut (d a b : BitVec 6) (m : BitVec 4) (s : State) : s.answersOut (execMma d a b m s) :=
  .issue fun c s => .ite (c.trapWith_staysOut _ _ _ s) (.ite (c.trapWith_staysOut _ _ _ s) (c.queueMatrix_staysOut _ _ s))

theorem execMzero_answersOut (d : BitVec 6) (s : State) : s.answersOut (execMzero d s) :=
  .issue fun c s => .ite (c.trapWith_staysOut _ _ _ s) (c.queueMatrix_staysOut _ _ s)

theorem execMbatch_answersOut (d : BitVec 6) (s : State) : s.answersOut (execMbatch d s) :=
  .issue fun c s => ((c.putSClean_staysOut s _ _).trans (c.nextCore_staysOut (fun _ => by rfl) _)).trans (State.settleBatches_staysOut _ _)

theorem execDrain_answersOut (d a b : BitVec 6) (s : State) : s.answersOut (execDrain d a b s) :=
  .issue fun c s => .ite (c.trapWith_staysOut _ _ _ s) (.ite (c.trapWith_staysOut _ _ _ s)
    ((State.staysOut.updCore_rest s c.k fun _ => by rfl).trans (c.queueMatrix_staysOut _ _ _)))

theorem execEpiset_answersOut (a b : BitVec 6) (s : State) : s.answersOut (execEpiset a b s) := by
  refine .issue fun c s => ?_
  extract_lets n aux va
  refine .ite (c.trap_staysOut _ s) ?_
  have h := c.readProgram_staysOut va s
  generalize c.readProgram va s = x at h ⊢
  obtain ⟨s1, r⟩ := x
  refine h.trans ?_
  cases r with
  | fatal e => exact .ite (s1.discardFault_staysOut _ _) ((s1.reportFatal_staysOut _ _ _ _ _ _).trans ((c.append_staysOut _ _).trans (c.next_staysOut _)))
  | pending => exact c.wait_staysOut _ s1
  | absent page => exact .ite (s1.discardFault_staysOut _ _) ((s1.requestPage_staysOut _ _ _ _ _).trans (c.wait_staysOut _ _))
  | words ws =>
    dsimp only
    split
    · exact c.trap_staysOut _ s1
    · exact .ite (c.trap_staysOut _ s1) (.ite (c.trapWith_staysOut _ _ _ s1) (c.nextCore_staysOut (fun _ => by rfl) s1))

/-! ## Free lists, egress and versions -/

theorem Ctx.endRunNextS_staysOut (c : Ctx) (s : State) (d : BitVec 6) (v : W64) : s.staysOut ((c.next (c.putS s d v)).endRun c.k c.a) :=
  (c.nextS_staysOut s d v).trans (State.endRun_staysOut _ _ _)

theorem Ctx.endRunNextP_staysOut (c : Ctx) (s : State) (n : Nat) (v : W32) : s.staysOut ((c.next (c.putP s n v)).endRun c.k c.a) :=
  (c.nextP_staysOut s n v).trans (State.endRun_staysOut _ _ _)

theorem execFlpop_answersOut (d a : BitVec 6) (s : State) : s.answersOut (execFlpop d a s) :=
  .issue fun c s => c.unlessRedundant_staysOut (.ite (c.wait_staysOut _ s) ((s.popFor_staysOut _ _).trans (c.endRunNextS_staysOut _ _ _)))

theorem execFlpush_answersOut (a b : BitVec 6) (s : State) : s.answersOut (execFlpush a b s) := by
  refine .issue fun c s => c.unlessRedundant_staysOut ?_
  dsimp only
  split
  · exact c.next_staysOut s
  · exact .ite (c.trapWith_staysOut _ _ _ s) (.ite (c.trapWith_staysOut _ _ _ s) ((s.pushFor_staysOut _ _ _).trans (c.next_staysOut _)))

theorem execEgrsv_answersOut (d a : BitVec 6) (s : State) : s.answersOut (execEgrsv d a s) :=
  .issue fun c s => c.unlessRedundant_staysOut (.ite (c.egressRange_staysOut _ s) (.ite (c.endRunNextS_staysOut s _ _) (.ite (c.egressRange_staysOut _ s)
    (.ite ((s.reserve_staysOut _ _ _).trans (c.endRunNextS_staysOut _ _ _)) (c.wait_staysOut _ s)))))

theorem execEgpub_answersOut (a : BitVec 6) (s : State) : s.answersOut (execEgpub a s) :=
  .issue fun c s => c.unlessRedundant_staysOut
    (.ite (((State.staysOut.updDomain s _ _).trans (State.settleEgress_staysOut _ _)).trans (c.next_staysOut _))
      (.ite (c.next_staysOut s) (c.egressRange_staysOut _ s)))

theorem State.putShadow_staysOut (s : State) (d : Nat) (q : W32) (v : W64) : s.staysOut (s.putShadow d q v) := s.engineWrite_staysOut _ _ _ _

theorem execEgpush_answersOut (a b : BitVec 6) (s : State) : s.answersOut (execEgpush a b s) :=
  .issue fun c s => c.unlessRedundant_staysOut (.ite (.ite (c.next_staysOut s) (c.egressRange_staysOut _ s))
    ((State.staysOut.foldl c.actLanes _ (fun s _ => (s.putShadow_staysOut _ _ _).trans (State.staysOut.updDomain _ _ _)) s).trans (c.next_staysOut _)))

theorem execEgrel_answersOut (d a b : BitVec 6) (s : State) : s.answersOut (execEgrel d a b s) :=
  .issue fun c s => c.unlessRedundant_staysOut (c.release_staysOut d a b false s)

theorem execEgrelV_answersOut (d a b : BitVec 6) (s : State) : s.answersOut (execEgrelV d a b s) :=
  .issue fun c s => c.unlessRedundant_staysOut (c.release_staysOut d a b true s)

theorem execResolveC_answersOut (d a b : BitVec 6) (s : State) : s.answersOut (execResolveC d a b s) :=
  .issue fun c s => c.unlessRedundant_staysOut (c.resolve_staysOut d a b false s)

theorem execResolveS_answersOut (d a b : BitVec 6) (s : State) : s.answersOut (execResolveS d a b s) :=
  .issue fun c s => c.unlessRedundant_staysOut (c.resolve_staysOut d a b true s)

theorem execVidq_answersOut (d a b : BitVec 6) (s : State) : s.answersOut (execVidq d a b s) :=
  .issue fun c s => (State.staysOut.of_cores (t := { s with free := s.free + 1 }) rfl).trans (c.nextS_staysOut _ _ _)

theorem State.updPair_staysOut (s : State) (die i : Nat) (f : Pair → Pair) : s.staysOut (s.updPair die i f) := .updDie s _ _

theorem Ctx.waitNext_staysOut (c : Ctx) (why : Wait) {s t : State} (h : s.staysOut t) : s.staysOut (c.wait why { t with seq := t.seq + 1 }) :=
  State.staysOut.trans (h.trans (.of_cores (t := { t with seq := t.seq + 1 }) rfl)) (c.wait_staysOut why _)

theorem execSigsync_answersOut (d : BitVec 6) (s : State) : s.answersOut (execSigsync d s) := by
  refine .issue fun c s => .ite (c.endRunNextP_staysOut s _ _) (.ite (c.endRunNextP_staysOut s _ _) ?_)
  exact c.waitNext_staysOut _ ((State.staysOut.updCore_rest s c.k fun _ => by rfl).trans (State.updPair_staysOut _ _ _ _))

theorem execKvxl_answersOut (d a b : BitVec 6) (s : State) : s.answersOut (execKvxl d a b s) := .issueWith fun c s => c.access_staysOut _ s

theorem execKvmap_answersOut (d a b : BitVec 6) (s : State) : s.answersOut (execKvmap d a b s) :=
  .issue fun c s => .ite (c.trapWith_staysOut _ _ _ s) (c.access_staysOut _ s)

theorem execKvappend_answersOut (d a b : BitVec 6) (s : State) : s.answersOut (execKvappend d a b s) :=
  .issue fun c s => c.unlessRedundant_staysOut (.ite (c.wait_staysOut _ s) (.ite (c.trapWith_staysOut _ _ _ s) (c.kvAppend_staysOut d a b s)))

end Sys2Proof.Machine
end

section
/-! PROOFS. Whatever a word decodes to begins no run-ahead (R102, R359): the majors one by one, each in the order of its table. -/

namespace Sys2Proof.Machine

/-- What a table of words decodes to is answered by a state in which nobody has begun run-ahead. -/
def State.decodesOut (s : State) (o : Option (Instr × Bool)) : Prop := ∀ x, o = some x → s.answersOut (exec x.1 s)

namespace State.decodesOut

variable {s : State}

theorem reserved : s.decodesOut none := fun _ h => by cases h

theorem word {i : Instr} {b : Bool} (h : s.answersOut (exec i s)) : s.decodesOut (some (i, b)) := fun x hx => by
  cases hx
  exact h

theorem ite {p : Prop} [Decidable p] {o u : Option (Instr × Bool)} (ho : s.decodesOut o) (hu : s.decodesOut u) : s.decodesOut (if p then o else u) := by
  split
  · exact ho
  · exact hu

end State.decodesOut

theorem State.decodeMajor00_decodesOut (s : State) (w : W32) : s.decodesOut (decodeMajor00 w) :=
  .ite (.word (.issue fun c s => c.next_staysOut s)) <| .ite (.word (execYield_answersOut s)) <|
  .ite (.word (.issue fun c s => c.trap_staysOut _ s)) <| .ite (.word (.issue fun c s => c.trap_staysOut _ s)) <|
  .ite (.word (.issue fun _ s => s.returnFromTrap_staysOut _ _ _ _)) <| .ite (.word (execRttAdv_answersOut s)) <|
  .ite (.word (execMfs_answersOut _ _ s)) <| .ite (.word (execMts_answersOut _ _ s)) <| .ite (.word (execExit_answersOut s)) <|
  .ite (.word (execJmp_answersOut _ s)) <| .ite (.word (execCallReg_answersOut _ _ s)) <| .ite (.word (execCallDisp_answersOut _ s)) <|
  .ite (.word (execRet_answersOut _ s)) <| .ite (.word (execLoop_answersOut _ s)) <| .ite (.word (execLoopbrk_answersOut s)) <| .reserved

theorem State.decodeMajor01_decodesOut (s : State) (w : W32) : s.decodesOut (decodeMajor01 w) :=
  .word (.issue fun c s => c.jump_staysOut _ s)

theorem State.decodeMajor02_decodesOut (s : State) (w : W32) : s.decodesOut (decodeMajor02 w) :=
  .ite (.word (execBrv_answersOut s)) <| .ite (.word (execReconv_answersOut s)) <| .ite (.word (execJoinw_answersOut _ _ s)) <|
  .ite (.word (execFragwake_answersOut _ s)) <| .reserved

theorem State.decodeMajor03_decodesOut (s : State) (w : W32) : s.decodesOut (decodeMajor03 w) :=
  .ite (.word .scalar) <| .ite (.word .scalar) <| .ite (.word .scalar) <| .ite (.word .scalar) <| .ite (.word .scalar) <| .ite (.word .scalar) <|
  .ite (.word .scalar) <| .ite (.word .scalar) <| .ite (.word .scalar) <| .ite (.word .scalar) <| .ite (.word .scalar) <| .ite (.word .scalar) <|
  .ite (.word .scalar) <| .ite (.word .scalar) <| .ite (.word .scalar) <| .ite (.word .scalar) <| .ite (.word .scalar) <| .ite (.word .scalar) <|
  .ite (.word .scalar) <| .ite (.word .scalar) <| .ite (.word (execSmovAq_answersOut _ _ s)) <| .reserved

theorem State.decodeMajor04_decodesOut (s : State) (w : W32) : s.decodesOut (decodeMajor04 w) :=
  .word .scalar

theorem State.decodeMajor05_decodesOut (s : State) (w : W32) : s.decodesOut (decodeMajor05 w) :=
  .word .scalar

theorem State.decodeMajor06_decodesOut (s : State) (w : W32) : s.decodesOut (decodeMajor06 w) :=
  .ite (.word .pred) <| .ite (.word .pred) <| .ite (.word .pred) <| .ite (.word .pred) <| .ite (.word .pred) <| .ite (.word .pred) <|
  .ite (.word .scalar) <| .ite (.word .pred) <| .ite (.word .scalar) <| .ite (.word .scalar) <| .ite (.word .pred) <| .reserved

theorem State.decodeMajor07_decodesOut (s : State) (w : W32) : s.decodesOut (decodeMajor07 w) :=
  .ite (.word .vector) <| .ite (.word .vector) <| .ite (.word (execVaddc_answersOut _ _ _ s)) <| .ite (.word .vector) <| .ite (.word .vector) <|
  .ite (.word .vector) <| .ite (.word .vector) <| .ite (.word .vector) <| .ite (.word .vector) <| .ite (.word .vector) <| .ite (.word .vector) <|
  .ite (.word .vector) <| .ite (.word .vector) <| .ite (.word .vector) <| .ite (.word .vector) <| .ite (.word .vector) <| .ite (.word .vector) <|
  .ite (.word .vector) <| .ite (.word .vector) <| .ite (.word .vector) <| .ite (.word (execVmovFromMqi_answersOut _ _ s)) <|
  .ite (.word (execVmovToMqo_answersOut _ _ s)) <| .ite (.word .vector) <| .reserved

theorem State.decodeMajor08_decodesOut (s : State) (w : W32) : s.decodesOut (decodeMajor08 w) :=
  .word .vector

theorem State.decodeMajor09_decodesOut (s : State) (w : W32) : s.decodesOut (decodeMajor09 w) :=
  .word .vector

theorem State.decodeMajor0A_decodesOut (s : State) (w : W32) : s.decodesOut (decodeMajor0A w) :=
  .ite (.word .predicate) <| .ite (.word .predicate) <| .ite (.word .predicate) <| .ite (.word .predicate) <| .ite (.word .predicate) <|
  .ite (.word .predicate) <| .ite (.word .vector) <| .reserved

theorem State.decodeMajor0B_decodesOut (s : State) (w : W32) : s.decodesOut (decodeMajor0B w) :=
  .ite (.word .float2) <| .ite (.word .float2) <| .ite (.word .float2) <| .ite (.word .float2) <| .ite (.word .float2) <|
  .ite (.word .floatCompare) <| .ite (.word .float1) <| .ite (.word .float1) <| .ite (.word .float3) <| .ite (.word .floats) <|
  .ite (.word .float1) <| .ite (.word .scale) <| .reserved

theorem State.decodeMajor0C_decodesOut (s : State) (w : W32) : s.decodesOut (decodeMajor0C w) :=
  .ite (.word .float2) <| .ite (.word .float2) <| .ite (.word .float2) <| .ite (.word .float2) <| .ite (.word .float2) <|
  .ite (.word .floatCompare) <| .ite (.word .float1) <| .ite (.word .float1) <| .ite (.word .float3) <| .ite (.word .floats) <|
  .ite (.word .float1) <| .ite (.word .scale) <| .reserved

theorem State.decodeMajor0D_decodesOut (s : State) (w : W32) : s.decodesOut (decodeMajor0D w) :=
  .ite (.word .float3) <| .reserved

theorem State.decodeMajor0E_decodesOut (s : State) (w : W32) : s.decodesOut (decodeMajor0E w) :=
  .ite (.word .float1) <| .ite (.word .float1) <| .ite (.word .float1) <| .ite (.word .float1) <| .ite (.word .float1) <| .reserved

theorem State.decodeMajor0F_decodesOut (s : State) (w : W32) : s.decodesOut (decodeMajor0F w) :=
  .ite (.word (execCvt_answersOut _ _ _ _ _ s)) <| .ite (.word (.issue fun c s => c.packNarrow_staysOut _ _ _ _ _ s)) <|
  .ite (.word (.issue fun c s => c.packNarrow_staysOut _ _ _ _ _ s)) <| .ite (.word (execCvtwide_answersOut _ _ _ s)) <| .ite (.word .vector) <|
  .ite (.word (execMxq_answersOut _ _ _ _ s)) <| .reserved

theorem State.decodeMajor10_decodesOut (s : State) (w : W32) : s.decodesOut (decodeMajor10 w) :=
  .ite (.word .permute) <| .ite (.word .permute) <| .ite (.word .permute) <| .ite (.word .permute) <| .ite (.word .permute) <|
  .ite (.word .permute) <| .reserved

theorem State.decodeMajor11_decodesOut (s : State) (w : W32) : s.decodesOut (decodeMajor11 w) :=
  .ite (.word .scalar) <| .ite (.word .pred) <| .ite (.word .pred) <| .ite (.word .pred) <| .ite (.word (execReduce_answersOut _ _ _ s)) <|
  .ite (.word (execScan_answersOut _ _ _ s)) <| .ite (.word (execArgmax_answersOut _ _ _ s)) <| .ite (.word .vector) <| .ite (.word .predicate) <|
  .reserved

theorem State.decodeMajor18_decodesOut (s : State) (w : W32) : s.decodesOut (decodeMajor18 w) :=
  .ite (.word .atomAccess) <| .ite (.word .atomAccess) <| .ite (.word .atomAccess) <| .ite (.word .atomAccess) <| .reserved

theorem State.decodeMajor19_decodesOut (s : State) (w : W32) : s.decodesOut (decodeMajor19 w) :=
  .ite (.word (execCopy_answersOut _ _ _ s)) <| .reserved

theorem State.decodeMajor1A_decodesOut (s : State) (w : W32) : s.decodesOut (decodeMajor1A w) :=
  .ite (.word .access) <| .ite (.word .access) <| .ite (.word .access) <| .ite (.word (execTbwait_answersOut _ _ _ s)) <|
  .ite (.word (execFemark_answersOut _ _ s)) <| .ite (.word (execFepoll_answersOut _ _ s)) <| .reserved

theorem State.decodeMajor1B_decodesOut (s : State) (w : W32) : s.decodesOut (decodeMajor1B w) :=
  .ite (.word (.issue fun c s => c.arrive_staysOut _ _ _ s)) <| .ite (.word (.issue fun c s => c.arrive_staysOut _ _ _ s)) <|
  .ite (.word (execBarwait_answersOut _ s)) <| .ite (.word (.issue fun c s => c.arrive_staysOut _ _ _ s)) <|
  .ite (.word (.issue fun c s => c.wait_staysOut _ s)) <| .ite (.word (.issue fun c s => c.waitCounter_staysOut _ _ s)) <|
  .ite (.word (.issue fun c s => c.waitCounter_staysOut _ _ s)) <| .ite (.word (execWaitb_answersOut _ s)) <|
  .ite (.word (execTfence_answersOut s)) <| .reserved

theorem State.decodeMajor1C_decodesOut (s : State) (w : W32) : s.decodesOut (decodeMajor1C w) :=
  .ite (.word (execAqpush_answersOut _ _ s)) <| .ite (.word (execAqclose_answersOut _ s)) <| .ite (.word (execMqbind_answersOut _ _ s)) <|
  .ite (.word (execMqtry_answersOut _ _ s)) <| .reserved

theorem State.decodeMajor1D_decodesOut (s : State) (w : W32) : s.decodesOut (decodeMajor1D w) :=
  .ite (.word (execRgive_answersOut _ s)) <| .ite (.word (execRclaim_answersOut _ s)) <| .ite (.word (execRclaimT_answersOut _ _ s)) <| .reserved

theorem State.decodeMajor1E_decodesOut (s : State) (w : W32) : s.decodesOut (decodeMajor1E w) :=
  .ite (.word (execMma_answersOut _ _ _ _ s)) <| .ite (.word (execMzero_answersOut _ s)) <| .reserved

theorem State.decodeMajor1F_decodesOut (s : State) (w : W32) : s.decodesOut (decodeMajor1F w) :=
  .ite (.word (execMbatch_answersOut _ s)) <| .ite (.word (execEpiset_answersOut _ _ s)) <| .ite (.word (execDrain_answersOut _ _ _ s)) <| .reserved

theorem State.decodeMajor20_decodesOut (s : State) (w : W32) : s.decodesOut (decodeMajor20 w) :=
  .ite (.word (execResolveC_answersOut _ _ _ s)) <| .ite (.word (execResolveS_answersOut _ _ _ s)) <| .ite (.word (execVidq_answersOut _ _ _ s)) <|
  .ite (.word (.issue fun c s => c.nextS_staysOut s _ _)) <| .ite (.word (.issue fun c s => c.nextP_staysOut s _ _)) <|
  .ite (.word (.issue fun c s => c.nextP_staysOut s _ _)) <| .ite (.word (execSigsync_answersOut _ s)) <| .reserved

theorem State.decodeMajor21_decodesOut (s : State) (w : W32) : s.decodesOut (decodeMajor21 w) :=
  .ite (.word (execEgrsv_answersOut _ _ s)) <| .ite (.word (execEgpub_answersOut _ s)) <| .ite (.word (execEgpush_answersOut _ _ s)) <|
  .ite (.word (execEgrel_answersOut _ _ _ s)) <| .ite (.word (execEgrelV_answersOut _ _ _ s)) <| .reserved

theorem State.decodeMajor22_decodesOut (s : State) (w : W32) : s.decodesOut (decodeMajor22 w) :=
  .ite (.word (execKvxl_answersOut _ _ _ s)) <| .ite (.word (execKvappend_answersOut _ _ _ s)) <| .ite (.word (execKvmap_answersOut _ _ _ s)) <|
  .reserved

theorem State.decodeMajor23_decodesOut (s : State) (w : W32) : s.decodesOut (decodeMajor23 w) :=
  .ite (.word (execFlpop_answersOut _ _ s)) <| .ite (.word (execFlpush_answersOut _ _ s)) <| .reserved

theorem State.decodeMajor24_decodesOut (s : State) (w : W32) : s.decodesOut (decodeMajor24 w) :=
  .ite (.word (execPref_answersOut _ _ s)) <| .ite (.word (execPrefRo_answersOut _ _ s)) <| .ite (.word (execCinvRo_answersOut s)) <|
  .ite (.word (execCinvL1_answersOut s)) <| .ite (.word (execPgreq_answersOut _ _ s)) <| .ite (.word (execTlbinv_answersOut _ s)) <|
  .ite (.word (execTlbinvAll_answersOut s)) <| .reserved

theorem State.decodeMajor30_decodesOut (s : State) (w : W32) : s.decodesOut (decodeMajor30 w) :=
  .ite (.word .vector) <| .ite (.word .vector) <| .reserved

theorem State.decodeMajor31_decodesOut (s : State) (w : W32) : s.decodesOut (decodeMajor31 w) :=
  .ite (.word .vector) <| .ite (.word .vector) <| .ite (.word .vector) <| .reserved

/-- The memory accesses: loads and stores. -/
theorem State.decodeMemory_decodesOut (s : State) (xs : List Ximm) (major : Nat) (w : W32) : s.decodesOut (decodeMemory xs major w) := by
  unfold decodeMemory
  extract_lets t d a o
  split
  · exact .ite (.word .issueLoad) (.word .issueLoad)
  · exact .word .issueStore
  · exact .word .issueLoad
  · exact .word .issueStore
  · exact .ite (.word .issueStore) (.word .issueLoad)
  · exact .ite (.ite (.word .issueStore) (.ite (.word .issueStore) (.word .issueStore))) (.ite (.word .issueLoad) (.ite (.word .issueLoad) (.word .issueLoad)))
  · exact .reserved

theorem State.decodeRaw_decodesOut (s : State) (xs : List Ximm) (w : W32) : s.decodesOut (decodeRaw xs w) := by
  unfold decodeRaw
  split
  · exact s.decodeMajor00_decodesOut w
  · exact s.decodeMajor01_decodesOut w
  · exact s.decodeMajor02_decodesOut w
  · exact s.decodeMajor03_decodesOut w
  · exact s.decodeMajor04_decodesOut w
  · exact s.decodeMajor05_decodesOut w
  · exact s.decodeMajor06_decodesOut w
  · exact s.decodeMajor07_decodesOut w
  · exact s.decodeMajor08_decodesOut w
  · exact s.decodeMajor09_decodesOut w
  · exact s.decodeMajor0A_decodesOut w
  · exact s.decodeMajor0B_decodesOut w
  · exact s.decodeMajor0C_decodesOut w
  · exact s.decodeMajor0D_decodesOut w
  · exact s.decodeMajor0E_decodesOut w
  · exact s.decodeMajor0F_decodesOut w
  · exact s.decodeMajor10_decodesOut w
  · exact s.decodeMajor11_decodesOut w
  · exact s.decodeMemory_decodesOut xs _ w
  · exact s.decodeMemory_decodesOut xs _ w
  · exact s.decodeMemory_decodesOut xs _ w
  · exact s.decodeMemory_decodesOut xs _ w
  · exact s.decodeMemory_decodesOut xs _ w
  · exact s.decodeMemory_decodesOut xs _ w
  · exact s.decodeMajor18_decodesOut w
  · exact s.decodeMajor19_decodesOut w
  · exact s.decodeMajor1A_decodesOut w
  · exact s.decodeMajor1B_decodesOut w
  · exact s.decodeMajor1C_decodesOut w
  · exact s.decodeMajor1D_decodesOut w
  · exact s.decodeMajor1E_decodesOut w
  · exact s.decodeMajor1F_decodesOut w
  · exact s.decodeMajor20_decodesOut w
  · exact s.decodeMajor21_decodesOut w
  · exact s.decodeMajor22_decodesOut w
  · exact s.decodeMajor23_decodesOut w
  · exact s.decodeMajor24_decodesOut w
  · exact s.decodeMajor30_decodesOut w
  · exact s.decodeMajor31_decodesOut w
  · exact .word (execXimm_answersOut _ s)
  · exact .ite (.word (execEmulatedMajor_answersOut w s)) .reserved

end Sys2Proof.Machine
end

section
/-! PROOFS. A block in which nobody waits (R340, R356): the polls of its agents and the cycles that have passed change none of its slots, and a unit whose run goes on
issues at once. -/

namespace Sys2Proof.Machine

/-- No slot of a block waits. -/
def Core.idle (c : Core) : Prop := ∀ y ≤ apAgent, ∀ z, ((c.thread y).slot z).st = .live ∨ ((c.thread y).slot z).st = .empty

section
variable {s : State} {k a : Nat} {c : Core} {w : SlotId}

/-! ## Polls -/

theorem State.framesDue_of_none (hc : s.core? k = some c) (h : c.reframe = []) : s.framesDue k a = s := by
  simp [State.framesDue, hc, h]

theorem State.tryReserve_of_idle (hc : s.core? k = some c) (h : ((c.thread a).slot w).st = .live ∨ ((c.thread a).slot w).st = .empty) :
    s.tryReserve k a w = s := by
  unfold State.tryReserve
  rw [State.thread_of_core _ _ _ _ hc, hc]
  rcases h with h | h <;> rw [h]

theorem State.tryRelease_of_idle (hc : s.core? k = some c) (h : ((c.thread a).slot w).st = .live ∨ ((c.thread a).slot w).st = .empty) :
    s.tryRelease k a w = s := by
  unfold State.tryRelease
  rw [State.thread_of_core _ _ _ _ hc]
  rcases h with h | h <;> simp [h]

theorem State.trySigsync_of_idle (hc : s.core? k = some c) (h : ((c.thread a).slot w).st = .live ∨ ((c.thread a).slot w).st = .empty) :
    s.trySigsync k a w = s := by
  unfold State.trySigsync
  rw [State.thread_of_core _ _ _ _ hc]
  rcases h with h | h <;> simp [h]

theorem State.pollAgent_of_idle (hc : s.core? k = some c) (hidle : c.idle) (hframes : c.reframe = []) (ha : a ≤ apAgent) : s.pollAgent k a = s := by
  have hslot (w : SlotId) : ((s.tryReserve k a w).tryRelease k a w).trySigsync k a w = s := by
    rw [State.tryReserve_of_idle hc (hidle a ha w), State.tryRelease_of_idle hc (hidle a ha w), State.trySigsync_of_idle hc (hidle a ha w)]
  simp only [State.pollAgent, State.framesDue_of_none hc hframes, List.foldl_cons, List.foldl_nil, hslot]

/-! ## The cycles that have passed -/

theorem State.grantHead_of_none (hc : s.core? k = some c) (h : c.claims = []) : s.grantHead k = s := by
  simp [State.grantHead, hc, h]

/-- What the end of earlier cycles changes of a block in which nobody claims registers (R56). -/
def Core.poolPassed (now : Nat) (c : Core) : Core :=
  { c with pool := c.pool + releasedBefore now c.released, released := c.released.filter fun r => decide (now ≤ r.1) }

theorem State.endCycles_of_none (hc : s.core? k = some c) (h : c.claims = []) : s.endCycles k = s.updCore k (Core.poolPassed s.now) := by
  have hc' : (s.updCore k (Core.poolPassed s.now)).core? k = some (c.poolPassed s.now) := by simp [hc]
  have hgrant (l : List Nat) : l.foldl (fun (s : State) _ => s.grantHead k) (s.updCore k (Core.poolPassed s.now)) = s.updCore k (Core.poolPassed s.now) := by
    induction l with
    | nil => rfl
    | cons x l ih =>
      rw [List.foldl_cons, State.grantHead_of_none hc' h]
      exact ih
  exact hgrant _

theorem State.fillJoinw_of_idle (hc : s.core? k = some c) (h : ((c.thread a).slot w).st = .live ∨ ((c.thread a).slot w).st = .empty) :
    s.fillJoinw k a w = s := by
  unfold State.fillJoinw
  rcases h with h | h <;> simp [hc, h]

theorem State.expireJoinw_of_idle (hc : s.core? k = some c) (h : ((c.thread a).slot w).st = .live ∨ ((c.thread a).slot w).st = .empty) (now : Nat) :
    s.expireJoinw k a w now = s := by
  unfold State.expireJoinw
  rw [State.thread_of_core _ _ _ _ hc]
  rcases h with h | h <;> simp [h]

theorem Core.stuckSince_of_idle (h : ((c.thread a).slot .a).st = .live ∨ ((c.thread a).slot .a).st = .empty) : c.stuckSince a = none := by
  have h' : (c.thread a).slotA.st = .live ∨ (c.thread a).slotA.st = .empty := h
  unfold Core.stuckSince
  rcases h' with h | h <;> simp [h]

theorem State.joinCycles_of_idle (hc : s.core? k = some c) (hidle : c.idle) (ha : a ≤ apAgent) : s.joinCycles k a = s := by
  have hstuck : ((s.core? k).bind fun c => c.stuckSince a) = none := by
    rw [hc]
    exact Core.stuckSince_of_idle (hidle a ha .a)
  have hbreak : s.breakJoinw k a = s := by simp [State.breakJoinw, hstuck]
  simp only [State.joinCycles, State.fillJoinw_of_idle hc (hidle a ha _), State.expireJoinw_of_idle hc (hidle a ha _), hbreak]

theorem State.joinsPassed_of_idle (hc : s.core? k = some c) (hidle : c.idle) : s.joinsPassed k = s := by
  have hfold (l : List Nat) (hl : ∀ w ∈ l, w ≤ apAgent) : l.foldl (fun (s : State) w => s.joinCycles k w) s = s := by
    induction l with
    | nil => rfl
    | cons x l ih =>
      rw [List.foldl_cons, State.joinCycles_of_idle hc hidle (hl x (by simp))]
      exact ih fun w hw => hl w (by simp [hw])
  exact hfold _ fun w hw => Nat.le_of_lt (List.mem_range.mp hw)

/-! ## Who issues -/

theorem State.mayIssue_of_live {t : State} (h : ((c.thread a).slot w).st = .live) : s.mayIssue k a c w = t.mayIssue k a c w := by
  have hopen (u : State) : u.slotOpen k a c w = true := by simp [State.slotOpen, h]
  simp only [State.mayIssue, hopen]

theorem State.actPort_of_run (ex : Instr → State → Out) {p : Nat} (hc : s.core? k = some c) (hidle : c.idle) (hframes : c.reframe = []) (hp : p < 4)
    (hrun : (c.portOf p).run = some (a, w)) (hmay : s.mayIssue k a c w = true) : s.actPort ex k p = s.issueSlot ex k a w := by
  have hpoll (l : List Nat) (hl : ∀ a ∈ l, a ≤ apAgent) : l.foldl (fun (s : State) a => s.pollAgent k a) s = s := by
    induction l with
    | nil => rfl
    | cons x l ih =>
      rw [List.foldl_cons, State.pollAgent_of_idle hc hidle hframes (hl x (by simp))]
      exact ih fun w hw => hl w (by simp [hw])
  have hwarps : ∀ a ∈ portWarps p, a ≤ apAgent := fun a ha => by
    simp only [portWarps, List.mem_cons, List.not_mem_nil, or_false] at ha
    simp only [apAgent]
    omega
  simp [State.actPort, hpoll _ hwarps, State.issuePort, hc, hrun, hmay]

theorem State.actAp_of_running (ex : Instr → State → Out) (hc : s.core? k = some c) (hidle : c.idle) (hframes : c.reframe = []) (hphase : c.phase = .running)
    (hmay : s.mayIssue k apAgent c .a = true) : s.actAp ex k = s.issueSlot ex k apAgent .a := by
  simp [State.actAp, State.pollAgent_of_idle hc hidle hframes (Nat.le_refl _), State.issueAp, hc, hmay, Core.stopped, hphase]

end

end Sys2Proof.Machine
end

section
/-! PROOFS. A unit of one word that nothing holds up issues (R82, R87, R96, R99, R104): the state in which its word is executed, and what the step adds afterwards. -/

namespace Sys2Proof.Machine

/-! ## Where the unit begins -/

theorem State.issueSlot_of_ready {s t : State} {ex : Instr → State → Out} {k a : Nat} {w : SlotId} {c : Core} {xs group : List SlotWord}
    (hc : s.core? k = some c) (hfirst : c.firstIssue = none) (hra : ((c.thread a).slot w).ra = none) (hheld : (c.thread a).deferred = [])
    (hlink : (c.thread a).linkEvents = []) (hread : s.readUnit k 3 [] ((c.thread a).slot w).pc = (t, .ready xs group)) :
    s.issueSlot ex k a w = t.issueReady ex k a w xs group := by
  have harrives : s.arrives k a w = false := by
    unfold State.arrives
    rw [State.thread_of_core _ _ _ _ hc]
    simp [hra]
  have hat : ((c.thread a).slot w).atReconvergence = false := by simp [Slot.atReconvergence, hra]
  simp [State.issueSlot, hc, Core.budgetEnds, hfirst, harrives, hat, hheld, hlink, hread]

/-- The state in which the slots of a unit begin to issue, in a cycle. -/
def State.opened (s : State) (k a : Nat) (w : SlotId) (t : Nat) : State :=
  ((((({ s with now := t } : State).endCycles k).joinsPassed k).updCore k fun c => c.passPorts a t).updSlot k a w fun sl => { sl with st := .live })

/-- A state that keeps the package but for a core, and of the block there what a slot's issue depends on. -/
structure State.opensTo (s : State) (k : Nat) (c : Core) (u : State) : Prop where
  mem : u.mem = s.mem
  dies : u.dies = s.dies
  others : ∀ j, j ≠ k → u.core? j = s.core? j
  core : ∃ d, u.core? k = some d ∧ (∀ y, d.thread y = c.thread y) ∧ d.frags = c.frags

theorem Thread.updSlot_of_live {t : Thread} {w : SlotId} (h : (t.slot w).st = .live) : (t.updSlot w fun sl => { sl with st := .live }) = t := by
  have hsl (x : Slot) (hx : x.st = .live) : { x with st := .live } = x := by rw [← hx]
  cases w with
  | a => exact congrArg (fun x => { t with slotA := x }) (hsl _ h)
  | b => exact congrArg (fun x => { t with slotB := x }) (hsl _ h)

theorem Core.thread_updThread_self (c : Core) (a : Nat) {g : Thread → Thread} (h : g (c.thread a) = c.thread a) (y : Nat) :
    (c.updThread a g).thread y = c.thread y := by
  by_cases hy : y = a
  · subst hy
    by_cases hle : y ≤ apAgent
    · rw [Core.thread_updThread_same _ _ _ hle, h]
    · rw [Core.updThread, if_neg hle]
  · exact Core.thread_updThread_other _ _ _ _ hy

theorem Core.updThread_frags (c : Core) (a : Nat) (g : Thread → Thread) : (c.updThread a g).frags = c.frags := by
  unfold Core.updThread
  split <;> rfl

theorem State.opened_opensTo {s : State} {k a : Nat} {w : SlotId} {c : Core} (hc : s.core? k = some c) (hclaims : c.claims = []) (hidle : c.idle)
    (hlive : ((c.thread a).slot w).st = .live) (t : Nat) : s.opensTo k c (s.opened k a w t) ∧ (s.opened k a w t).now = t := by
  have hc' : ({ s with now := t } : State).core? k = some c := hc
  have hpool : (({ s with now := t } : State).updCore k (Core.poolPassed t)).core? k = some (c.poolPassed t) := by simp [hc']
  have heq : s.opened k a w t = ((({ s with now := t } : State).updCore k (Core.poolPassed t)).updCore k fun c => c.passPorts a t).updSlot k a w
      fun sl => { sl with st := .live } := by
    unfold State.opened
    rw [State.endCycles_of_none hc' hclaims]
    exact congrArg (fun u : State => (u.updCore k fun c => c.passPorts a t).updSlot k a w fun sl => { sl with st := .live })
      (State.joinsPassed_of_idle hpool hidle)
  rw [heq]
  refine ⟨⟨rfl, rfl, fun j hj => ?_, ?_⟩, rfl⟩
  · simp only [State.updSlot, State.updThread, State.core?_updCore_other _ _ _ _ hj]
    rfl
  · refine ⟨((c.poolPassed t).passPorts a t).updThread a fun th => th.updSlot w fun sl => { sl with st := .live }, ?_, ?_, ?_⟩
    · simp [State.updSlot, State.updThread, hc']
    · exact Core.thread_updThread_self ((c.poolPassed t).passPorts a t) a (Thread.updSlot_of_live hlive)
    · exact Core.updThread_frags ((c.poolPassed t).passPorts a t) a _

theorem State.opensTo.thread {s u : State} {k : Nat} {c : Core} (h : s.opensTo k c u) (hc : s.core? k = some c) (y : Nat) : u.thread k y = s.thread k y := by
  obtain ⟨d, hd, hthreads, -⟩ := h.core
  rw [State.thread_of_core _ _ _ _ hd, State.thread_of_core _ _ _ _ hc, hthreads]

/-! ## The word -/

/-- The PC of the first word of a unit. -/
def firstPc (xs : List SlotWord) (m : SlotWord) : W64 :=
  match xs with
  | x :: _ => x.pc
  | [] => m.pc

/-- The state of a unit's issue with its prefixes read, at a PC. -/
def State.atPrefix (s : State) (k a : Nat) (w : SlotId) (xs : List SlotWord) (m : SlotWord) (i : Instr) (tpc : W64) : State :=
  { s with cur := some { core := k, agent := a, slot := w, pc := firstPc xs m, tpc := tpc, xs := xs.map fun x => x.word.extractLsb' 0 26, guard := m.guard,
                         unused := m.word ^^^ (encode i).getD m.word } }

/-- The state in which the word of a unit is executed. -/
def State.atWord (s : State) (k a : Nat) (w : SlotId) (xs : List SlotWord) (m : SlotWord) (i : Instr) : State := s.atPrefix k a w xs m i m.pc

/-- The prefixes of a word change nothing but what the issue holds of them. -/
theorem foldl_ximm (xs : List SlotWord) (s : State) (iss : Issue) :
    ∃ tpc, xs.foldl (fun s x => Out.orSame (exec (.ximm (x.word.extractLsb' 0 26)) s) s) { s with cur := some iss } =
      { s with cur := some { iss with xs := iss.xs ++ xs.map fun x => x.word.extractLsb' 0 26, tpc := tpc } } := by
  induction xs generalizing iss with
  | nil => exact ⟨iss.tpc, by simp⟩
  | cons x xs ih =>
    obtain ⟨tpc, h⟩ := ih { iss with xs := iss.xs ++ [x.word.extractLsb' 0 26], tpc := nextPc iss.tpc }
    refine ⟨tpc, ?_⟩
    rw [List.foldl_cons]
    refine Eq.trans h ?_
    simp

theorem State.issueMember_of_word {s t : State} {k a : Nat} {w : SlotId} {xs : List SlotWord} {m : SlotWord} {i : Instr} {b : Bool}
    (hcontrol : m.badControl (decide (a ≥ 16)) = none) (hsplit : ((s.core? k).any fun c => c.loopSplit a m.pc) = false) (hximm : m.isXimm = false)
    (hdecode : decodeRaw (xs.map fun x => x.word.extractLsb' 0 26) m.word = some (i, b)) (hexec : exec i (s.atWord k a w xs m i) = .next t) :
    s.issueMember exec k a w xs m = { t with cur := none } := by
  obtain ⟨tpc, hfold⟩ := foldl_ximm xs s
    { core := k, agent := a, slot := w, pc := firstPc xs m, tpc := firstPc xs m, xs := [], guard := m.guard, unused := m.word ^^^ (encode i).getD m.word }
  have hrun (p : State) (hp : p = s.atPrefix k a w xs m i tpc) :
      ({ Out.orSame (exec i { p with cur := p.cur.map fun c => { c with tpc := m.pc } }) { p with cur := p.cur.map fun c => { c with tpc := m.pc } } with
          cur := none } : State) = { t with cur := none } := by
    have hword : ({ p with cur := p.cur.map fun c => { c with tpc := m.pc } } : State) = s.atWord k a w xs m i := by
      rw [hp]
      rfl
    rw [hword, hexec]
    rfl
  unfold State.issueMember
  simp only [hcontrol, hsplit, hdecode, hximm, Bool.false_eq_true, if_false]
  exact hrun _ hfold

end Sys2Proof.Machine
end

section
/-! PROOFS. What a step adds to the effect of a word (R87, R90, R91, R356, R360, R379): the hint before it, and after it the next issue time, the run and the
counters of the core, and the note of the warps that have become ready. -/

namespace Sys2Proof.Machine

/-! ## The hint -/

/-- A thread but for its hint. -/
def Thread.hintless (t : Thread) : Thread := { t with hint := .neutral }

theorem Core.loopSplit_of_hintless {c d : Core} {a : Nat} (h : (d.thread a).hintless = (c.thread a).hintless) (hf : d.frags = c.frags) (pc : W64) :
    d.loopSplit a pc = c.loopSplit a pc := by
  have hloops : (d.thread a).loops = (c.thread a).loops := (congrArg Thread.loops h :)
  have hslotA : (d.thread a).slotA = (c.thread a).slotA := (congrArg Thread.slotA h :)
  have hslotB : (d.thread a).slotB = (c.thread a).slotB := (congrArg Thread.slotB h :)
  have hstack : (d.thread a).stack = (c.thread a).stack := (congrArg Thread.stack h :)
  simp only [Core.loopSplit, Core.converged, hloops, hslotA, hslotB, hstack, hf]

/-- A state in which a slot has given its hint. -/
structure State.hintedTo (s : State) (k a : Nat) (c : Core) (hint : Option Hint) (u : State) : Prop where
  mem : u.mem = s.mem
  dies : u.dies = s.dies
  now : u.now = s.now
  others : ∀ j, j ≠ k → u.core? j = s.core? j
  core : ∃ d, u.core? k = some d ∧ (∀ y, (d.thread y).hintless = (c.thread y).hintless) ∧ d.frags = c.frags ∧ (d.thread a).hint = hint.getD (c.thread a).hint

theorem State.hintedTo_none {s : State} {k a : Nat} {c : Core} (hc : s.core? k = some c) : s.hintedTo k a c none s :=
  ⟨rfl, rfl, rfl, fun _ _ => rfl, c, hc, fun _ => rfl, rfl, rfl⟩

theorem Core.hintless_updThread (c : Core) (a y : Nat) (h : Hint) : ((c.updThread a fun t => { t with hint := h }).thread y).hintless = (c.thread y).hintless := by
  by_cases hy : y = a
  · subst hy
    by_cases hle : y ≤ apAgent
    · rw [Core.thread_updThread_same _ _ _ hle]
      rfl
    · rw [Core.updThread, if_neg hle]
  · rw [Core.thread_updThread_other _ _ _ _ hy]

theorem State.hintedTo_some {s : State} {k a : Nat} {c : Core} (hc : s.core? k = some c) (ha : a ≤ apAgent) (h : Hint) :
    s.hintedTo k a c (some h) (s.updThread k a fun t => { t with hint := h }) where
  mem := rfl
  dies := rfl
  now := rfl
  others j hj := State.core?_updCore_other _ _ _ _ hj
  core := by
    refine ⟨c.updThread a fun t => { t with hint := h }, ?_, fun y => c.hintless_updThread a y h, Core.updThread_frags _ _ _, ?_⟩
    · simp [State.updThread, hc]
    · rw [Core.thread_updThread_same _ _ _ ha]
      rfl

/-- The hint that a slot of an agent gives: the access processor gives none. -/
def SlotWord.hintOf (m : SlotWord) (a : Nat) : Option Hint := if a = apAgent then none else m.hint

theorem State.giveHint_hintedTo {s : State} {k a : Nat} {c : Core} (hc : s.core? k = some c) (ha : a ≤ apAgent) (m : SlotWord) :
    s.hintedTo k a c (m.hintOf a) (s.giveHint k a m) := by
  unfold State.giveHint SlotWord.hintOf
  by_cases hap : a ≥ 16
  · have : a = apAgent := Nat.le_antisymm ha hap
    rw [if_pos hap, if_pos this]
    exact State.hintedTo_none hc
  · have : a ≠ apAgent := fun h => hap (Nat.le_of_eq h.symm)
    rw [if_neg hap, if_neg this]
    cases m.hint with
    | none => exact State.hintedTo_none hc
    | some h => exact State.hintedTo_some hc ha h

/-! ## After the word -/

/-- A thread but for what a step adds to it. -/
def Thread.settled (t : Thread) : Thread := { t with nextAt := 0, hint := .neutral, readyAt := 0 }

/-- A state that a step leaves where a word has left another: it adds only to the issue times, hints and ready times of threads, to runs and registers free, and
to the counters of cores. -/
structure State.leaves (s t : State) : Prop where
  mem : t.mem = s.mem
  cur : t.cur = s.cur
  domains : t.domains = s.domains
  host : t.host = s.host
  flits : t.flits = s.flits
  die : ∀ d, ({ t.die d with cores := [] } : Die) = { s.die d with cores := [] }
  thread : ∀ k a, (t.thread k a).settled = (s.thread k a).settled

namespace State.leaves

variable {s t u : State}

@[refl] theorem refl (s : State) : s.leaves s := ⟨rfl, rfl, rfl, rfl, rfl, fun _ => rfl, fun _ _ => rfl⟩

theorem trans (h : s.leaves t) (h' : t.leaves u) : s.leaves u where
  mem := h'.mem.trans h.mem
  cur := h'.cur.trans h.cur
  domains := h'.domains.trans h.domains
  host := h'.host.trans h.host
  flits := h'.flits.trans h.flits
  die d := (h'.die d).trans (h.die d)
  thread k a := (h'.thread k a).trans (h.thread k a)

theorem updCore (s : State) (k : Nat) {f : Core → Core} (hf : ∀ c, s.core? k = some c → ∀ a, ((f c).thread a).settled = (c.thread a).settled) :
    s.leaves (s.updCore k f) where
  mem := rfl
  cur := rfl
  domains := rfl
  host := rfl
  flits := rfl
  die _ := rfl
  thread j a := by
    by_cases hj : j = k
    · subst hj
      rw [State.thread, State.thread, State.core?_updCore_same]
      cases hc : s.core? j with
      | none => rfl
      | some c => exact hf c hc a
    · rw [State.thread, State.core?_updCore_other _ _ _ _ hj]
      rfl

theorem updCore_rest (s : State) (k : Nat) {f : Core → Core} (hf : ∀ c : Core, (f c).thr = c.thr) : s.leaves (s.updCore k f) :=
  .updCore s k fun c _ a => by rw [Core.thread, Core.thread, hf]

theorem updThread (s : State) (k a : Nat) {f : Thread → Thread} (hf : (f (s.thread k a)).settled = (s.thread k a).settled) :
    s.leaves (s.updThread k a f) := .updCore s k fun c hc b => by
  rw [State.thread_of_core _ _ _ _ hc] at hf
  by_cases hb : b = a
  · subst hb
    by_cases hle : b ≤ apAgent
    · rw [Core.thread_updThread_same _ _ _ hle, hf]
    · rw [Core.updThread, if_neg hle]
  · rw [Core.thread_updThread_other _ _ _ _ hb]

theorem countCore (s : State) (k : Nat) (f : CoreCounters → CoreCounters) : s.leaves (s.countCore k f) where
  mem := s.updDie_mem _ _
  cur := s.updDie_cur _ _
  domains := s.updDie_domains _ _
  host := s.updDie_host _ _
  flits := s.updDie_flits _ _
  die d := by
    unfold State.countCore
    by_cases hd : d = dieOfCore k
    · subst hd
      by_cases hlt : dieOfCore k < 12
      · rw [State.die_updDie_same _ _ hlt]
        split <;> rfl
      · have hsame (g : Die → Die) : s.updDie (dieOfCore k) g = s := if_neg hlt
        rw [hsame]
    · rw [State.die_updDie_other _ _ hd]
  thread j a := by
    rw [State.thread, State.core?, State.countCore, State.updDie_cores, ← State.core?, ← State.thread]

theorem ahead (h : s.leaves t) (k a : Nat) : (t.thread k a).ahead = (s.thread k a).ahead := (congrArg Thread.ahead (h.thread k a) :)

theorem ite {p : Prop} [Decidable p] (ht : s.leaves t) (hu : s.leaves u) : s.leaves (if p then t else u) := by
  split <;> assumption

theorem takeHint (s : State) (k a : Nat) (h : Hint) : s.leaves (s.takeHint k a h) := .updThread s k a rfl

theorem endRun (s : State) (k a : Nat) : s.leaves (s.endRun k a) := by
  unfold State.endRun
  split
  · rfl
  · exact .updCore_rest s k fun _ => by rfl

end State.leaves

theorem State.afterIssue_leaves {s : State} {k a : Nat} (hout : (s.thread k a).ahead = none) (w : SlotId) (t : Nat) (slow ahead : Bool) (n : Nat)
    (issued : List SlotWord) : s.leaves (s.afterIssue k a w t slow ahead n issued) := by
  unfold State.afterIssue
  split
  · rfl
  · extract_lets ap stall s1 s2 s3
    have h1 : s.leaves s1 := .updCore_rest s k fun _ => by rfl
    have h2 : s1.leaves s2 := .updThread s1 k a (by simp [Thread.settled, h1.ahead, hout])
    have h3 : s2.leaves s3 := .countCore s2 k _
    have h03 : s.leaves s3 := h1.trans (h2.trans h3)
    have hrun (u : State) (hu : s.leaves u) : s.leaves (if ((u.thread k a).ahead.any fun h => decide (Config.aheadLimit ≤ h.issued)) then u.exitAhead k a else u) := by
      simpa [hu.ahead, hout] using hu
    exact .ite h03 (hrun _ (h03.trans (.trans (.updCore_rest s3 k fun _ => by rfl) (.ite (.endRun _ k a) (.refl _)))))

/-! ## The note of what has become ready -/

theorem KMap.find_mapKeyed {α : Type} (m : KMap α) (g : Nat → α → α) (k : Nat) : KMap.find (m.map fun x => (x.1, g x.1 x.2)) k = (m.find k).map (g k) := by
  induction m with
  | nil => rfl
  | cons x m ih =>
    simp only [List.map_cons, KMap.find]
    split
    · next h => rw [← h]; rfl
    · exact ih

theorem getElem?_zip_range {α : Type} (l : List α) (i : Nat) : ((List.range l.length).zip l)[i]? = l[i]?.map (Prod.mk i) := by
  by_cases h : i < l.length
  · rw [List.getElem?_eq_getElem (by simpa using h), List.getElem?_eq_getElem h]
    simp
  · rw [List.getElem?_eq_none (by simp; omega), List.getElem?_eq_none (by omega)]
    rfl

theorem Core.stampReady_settled (before after : State) (k : Nat) (c : Core) (a : Nat) :
    ((c.stampReady before after k).thread a).settled = (c.thread a).settled := by
  simp only [Core.stampReady, Core.thread, nth, List.getElem?_map, getElem?_zip_range]
  cases c.thr[a]? with
  | none => rfl
  | some t =>
    simp only [Option.map_some, Option.getD_some]
    split <;> rfl

theorem State.stampReady_leaves (s before : State) : s.leaves (s.stampReady before) where
  mem := rfl
  cur := rfl
  domains := rfl
  host := rfl
  flits := rfl
  die _ := rfl
  thread k a := by
    have hcore : (s.stampReady before).core? k = (s.core? k).map (Core.stampReady before s k) :=
      KMap.find_mapKeyed s.cores (fun k c => c.stampReady before s k) k
    rw [State.thread, State.thread, hcore]
    cases s.core? k with
    | none => rfl
    | some c => exact c.stampReady_settled before s k a

end Sys2Proof.Machine
end

section
/-! PROOFS. The settling of O41: the step that an act of the plan takes (R31, R82, R85, R96, R99, R340, R356). -/

namespace Sys2Proof.Machine

/-! ## A unit of one word -/

theorem State.issueGroup_single (s start : State) (ex : Instr → State → Out) (k a : Nat) (w : SlotId) (xs : List SlotWord) (m : SlotWord) :
    ((s.giveHint k a m).issueMember ex k a w xs m).leaves (s.issueGroup ex k a w start xs [] [m]).state := by
  unfold State.issueGroup
  extract_lets old s1 alone sl
  split
  · split
    · rfl
    · exact .takeHint s1 k a old
  · split
    · exact .takeHint s1 k a old
    · cases sl.st <;> rfl

theorem State.issueReady_leaves {s t : State} {ex : Instr → State → Out} {k a : Nat} {w : SlotId} {c : Core} {xs : List SlotWord} {m : SlotWord}
    (hc : s.core? k = some c) (hfirst : c.firstIssue = none)
    (hfault : unitFault xs [m] (decide (a ≥ 16)) (if a ≥ 16 then 0 else (c.portOf a).count) = none)
    (hmember : ((s.opened k a w (c.apTime (c.issueTime s.now a [m]) a xs [m])).giveHint k a m).issueMember ex k a w xs m = t)
    (hout : (t.thread k a).ahead = none) : t.leaves (s.issueReady ex k a w xs [m]) := by
  have hgroup := (s.opened k a w (c.apTime (c.issueTime s.now a [m]) a xs [m])).issueGroup_single
    (s.opened k a w (c.apTime (c.issueTime s.now a [m]) a xs [m])) ex k a w xs m
  rw [hmember] at hgroup
  have hbudget (τ : Nat) : c.budgetEnds τ = none := by simp [Core.budgetEnds, hfirst]
  unfold State.issueReady
  rw [hc]
  dsimp only
  rw [hbudget]
  dsimp only
  rw [hfault]
  exact .ite (hgroup.trans (.updCore_rest _ k fun _ => by rfl)) (hgroup.trans (State.afterIssue_leaves ((hgroup.ahead k a).trans hout) _ _ _ _ _ _))

/-! ## Acts of the plan -/

theorem step_of_plan {s : State} {p : Plan} {rest : List Plan} (h : s.plan = p :: rest) : step s = finishStep s (({ s with plan := rest } : State).act exec p) := by
  unfold step State.advanceBy
  rw [h]

theorem step_of_event {s : State} {i : Instr} {rest : List Plan} (h : s.plan = .event i :: rest) (hgo : s.stopped = false) :
    step s = finishStep s (exec i { s with plan := rest }) := by
  rw [step_of_plan h]
  simp [State.act, hgo]

theorem State.act_port {s : State} (ex : Instr → State → Out) (hgo : s.stopped = false) (k p : Nat) : s.act ex (.port k p) = .next (s.actPort ex k p) := by
  simp [State.act, hgo]

theorem State.act_ap {s : State} (ex : Instr → State → Out) (hgo : s.stopped = false) (k : Nat) : s.act ex (.ap k) = .next (s.actAp ex k) := by
  simp [State.act, hgo]

theorem placeOf_eq (pc : W64) : placeOf pc = pc.toNat / 4 % 4 := by
  have hmask : pc.toNat &&& 15 = pc.toNat % 16 := Nat.and_two_pow_sub_one_eq_mod pc.toNat 4
  simp only [placeOf, BitVec.toNat_ushiftRight, BitVec.toNat_and, Nat.shiftRight_eq_div_pow]
  have hlit : (0xF#64).toNat = 15 := rfl
  rw [hlit, hmask]
  omega

theorem slotWordOf_word (pk : BitVec 128) (pc : W64) : (slotWordOf pk pc).word = pk.extractLsb' (32 * (pc.toNat / 4 % 4)) 32 := by
  simp only [slotWordOf, placeOf_eq]

theorem State.readUnit_of_word {s t : State} {k : Nat} {pc : W64} {pk : BitVec 128} (hfetch : s.fetch k pc = (t, .packet pk)) (hlayout : pk.extractLsb' 30 2 = 0#2)
    (hximm : (slotWordOf pk pc).isXimm = false) (hchain : (slotWordOf pk pc).chained = false) :
    s.readUnit k 3 [] pc = (t, .ready [] [slotWordOf pk pc]) := by
  have hgroup : chainGroup pk 2 (slotWordOf pk pc) = [slotWordOf pk pc] := by simp [chainGroup, hchain]
  unfold State.readUnit
  rw [hfetch]
  simp [hlayout, hximm, hgroup]

theorem step_of_issue {s : State} {k a : Nat} {w : SlotId} {c : Core} {p : Plan} {rest : List Plan} (hplan : s.plan = p :: rest) (hgo : s.stopped = false)
    (hc : s.core? k = some c) (hphase : c.phase = .running)
    (hact : a < 16 ∧ p = .port k (a % 4) ∧ (c.portOf a).run = some (a, w) ∨ a = apAgent ∧ w = .a ∧ p = .ap k)
    (hidle : c.idle) (hmay : s.mayIssue k a c w = true) (hlive : ((c.thread a).slot w).st = .live) (hframes : c.reframe = []) :
    step s = .next ((({ s with plan := rest } : State).issueSlot exec k a w).stampReady s) := by
  have hc' : ({ s with plan := rest } : State).core? k = some c := hc
  have hgo' : ({ s with plan := rest } : State).stopped = false := hgo
  have hmay' : ({ s with plan := rest } : State).mayIssue k a c w = true := (State.mayIssue_of_live hlive).trans hmay
  rw [step_of_plan hplan]
  rcases hact with ⟨-, rfl, hrun⟩ | ⟨rfl, rfl, rfl⟩
  · have hport : c.portOf (a % 4) = c.portOf a := by simp [Core.portOf]
    have hact := State.actPort_of_run exec hc' hidle hframes (Nat.mod_lt a (by decide)) (hport ▸ hrun) hmay'
    rw [State.act_port exec hgo', hact]
    rfl
  · have hact := State.actAp_of_running exec hc' hidle hframes hphase hmay'
    rw [State.act_ap exec hgo', hact]
    rfl

/-- A block whose core has fetched stands as before for what issues. -/
theorem Core.uncached_fields {c d : Core} (h : d.uncached = c.uncached) :
    d.thr = c.thr ∧ d.ports = c.ports ∧ d.firstIssue = c.firstIssue ∧ d.claims = c.claims :=
  ⟨(congrArg Core.thr h :), (congrArg Core.ports h :), (congrArg Core.firstIssue h :), (congrArg Core.claims h :)⟩

/-- A unit begins in its cycle, with the hint that its control gives. -/
theorem State.unit_begins {s : State} {k a : Nat} {w : SlotId} {c : Core} (hc : s.core? k = some c) (ha : a ≤ apAgent) (hclaims : c.claims = []) (hidle : c.idle)
    (hlive : ((c.thread a).slot w).st = .live) (t : Nat) (m : SlotWord) :
    ({ s with now := t } : State).hintedTo k a c (m.hintOf a) ((s.opened k a w t).giveHint k a m) := by
  obtain ⟨⟨hmem, hdies, hothers, d, hd, hthreads, hfrags⟩, hnow⟩ := State.opened_opensTo hc hclaims hidle hlive t
  obtain ⟨hmem', hdies', hnow', hothers', e, he, hethreads, hefrags, hhint⟩ := State.giveHint_hintedTo hd ha m
  refine ⟨hmem'.trans hmem, hdies'.trans hdies, hnow'.trans hnow, fun j hj => (hothers' j hj).trans (hothers j hj), e, he, fun y => ?_, hefrags.trans hfrags, ?_⟩
  · rw [hethreads, hthreads]
  · rw [hhint, hthreads]

/-- The word of a unit is executed, from the state in which the unit begins. -/
theorem State.word_answered {s : State} {k a : Nat} {w : SlotId} {c : Core} {xs : List SlotWord} {m : SlotWord} {i : Instr} {b : Bool} (hc : s.core? k = some c)
    (hahead : (c.thread a).ahead = none) (hdecode : decodeRaw (xs.map fun x => x.word.extractLsb' 0 26) m.word = some (i, b)) :
    ∃ t, exec i (s.atWord k a w xs m i) = .next t ∧ (t.thread k a).ahead = none := by
  have hcore : (s.atWord k a w xs m i).core? k = some c := hc
  obtain ⟨t, hexec, hstays⟩ := (s.atWord k a w xs m i).decodeRaw_decodesOut _ _ _ hdecode _ c rfl hcore hahead
  refine ⟨t, hexec, hstays k a ?_⟩
  rw [State.thread_of_core _ _ _ _ hcore]
  exact hahead

end Sys2Proof.Machine

section
open Sys2Proof Sys2Proof.Machine

/-- Settles O41: nothing holds the slot up, so the unit that is read issues; its word is executed after its prefixes, and answers (`decodeRaw_decodesOut`). -/
theorem stepRunsTheDecodedWord : Obligations.StepRunsTheDecodedWord := by
  unfold Obligations.StepRunsTheDecodedWord
  refine ⟨fun s i rest => step_of_event, ?_, ?_⟩
  · intro s s1 k pc pk hfetch hlayout m
    exact ⟨slotWordOf_word pk pc, State.readUnit_of_word hfetch hlayout⟩
  · intro s s2 k a w core xs m i b p rest hplan hgo hc hphase hact hidle hlive hmay hheld hlink hahead hra hfirst hclaims hframes s0 hread hfault hcontrol hsplit
      hximm hdecode now first
    have ha : a ≤ apAgent := hact.elim (fun h => Nat.le_of_lt h.1) (fun h => Nat.le_of_eq h.1)
    have hap : (a ≥ 16) = (a = apAgent) := propext ⟨fun h => Nat.le_antisymm ha h, fun h => Nat.le_of_eq h.symm⟩
    have hstep := step_of_issue hplan hgo hc hphase hact hidle hmay hlive hframes
    have hc0 : s0.core? k = some core := hc
    rw [State.issueSlot_of_ready hc0 hfirst hra hheld hlink hread] at hstep
    obtain ⟨c, hc2, hsame⟩ := ((s0.readUnit_cachesOnly k 3 [] ((core.thread a).slot w).pc).of_fst hread).core hc0
    obtain ⟨hthr, hports, hfirst2, hclaims2⟩ := Core.uncached_fields hsame
    have hthread (y : Nat) : c.thread y = core.thread y := by rw [Core.thread, hthr, Core.thread]
    have hport : c.portOf a = core.portOf a := by rw [Core.portOf, hports, Core.portOf]
    have hidle2 : c.idle := fun y hy z => by
      rw [hthread]
      exact hidle y hy z
    have hlive2 : ((c.thread a).slot w).st = .live := by
      rw [hthread]
      exact hlive
    have hnow : now = c.apTime (c.issueTime s2.now a [m]) a xs [m] := by simp only [now, hc2, Option.getD_some]
    obtain ⟨hmem, hdies, hclock, hothers, e, he, hethread, hefrags, hhint⟩ := State.unit_begins hc2 ha (hclaims2.trans hclaims) hidle2 hlive2 now m
    have heahead : (e.thread a).ahead = none := by
      have hsameAhead : (e.thread a).ahead = (c.thread a).ahead := (congrArg Thread.ahead (hethread a) :)
      rw [hsameAhead, hthread, hahead]
    obtain ⟨t, hexec, htahead⟩ := State.word_answered (w := w) he heahead hdecode
    have hmember : ((s2.opened k a w now).giveHint k a m).issueMember exec k a w xs m = { t with cur := none } := by
      refine State.issueMember_of_word ?_ ?_ hximm hdecode hexec
      · simpa only [hap] using hcontrol
      · rw [hc2] at hsplit
        rw [he]
        exact (Core.loopSplit_of_hintless (hethread a) hefrags m.pc).trans hsplit
    have hleaves : ({ t with cur := none } : State).leaves (s2.issueReady exec k a w xs [m]) := by
      refine State.issueReady_leaves hc2 (hfirst2.trans hfirst) ?_ (hnow ▸ hmember) htahead
      simpa only [hap, hport] using hfault
    have hstamped := hleaves.trans (State.stampReady_leaves _ s)
    refine ⟨((s2.opened k a w now).giveHint k a m).atWord k a w xs m i, t, (s2.issueReady exec k a w xs [m]).stampReady s, rfl, hclock, hmem, hdies, hothers,
      fun y => ?_, ?_, hexec, hstep, hstamped.mem, hstamped.cur, hstamped.domains, hstamped.host, hstamped.flits, fun d _ => hstamped.die d, hstamped.thread⟩
    · rw [State.thread_of_core (((s2.opened k a w now).giveHint k a m).atWord k a w xs m i) k y e he, State.thread_of_core _ _ _ _ hc2]
      exact hethread y
    · rw [State.thread_of_core (((s2.opened k a w now).giveHint k a m).atWord k a w xs m i) k a e he, State.thread_of_core _ _ _ _ hc2]
      exact hhint

end

end

section
/-! PROOFS. An instruction whose effect is on its block: what it sees of it, going on and waiting after a change of the block, and the frames of such changes
(R31, R49, R82, R87, R94). -/

namespace Sys2Proof.Machine

/-! ## What an acting instruction sees of its block -/

section
variable {s s1 : State} {i : Instr} {c : Ctx}

theorem State.acting_core1 (h : s.acting i = some (c, s1)) : s1.core? c.k = some c.core := by
  have hcores : s1.cores = s.cores := by rw [State.acting_state h]
  rw [State.core?, hcores]
  exact State.acting_core h

theorem State.acting_here (h : s.acting i = some (c, s1)) : c.here s1 = c.core := by rw [Ctx.here, State.acting_core1 h, Option.getD_some]

/-- A check of the instruction's own that fails is an illegal instruction (R104 e). -/
theorem issue_acting_fails {e : W8} (h : s.acting i = some (c, s1)) (chk : Ctx → State → Option W8) (body : Ctx → State → State) (hk : chk c s1 = some e) :
    issue i chk body s = .next (c.trapWith 4#8 e c.pass s1) := by
  obtain ⟨core, h1, h2, h3, -, h5, h6, h7, -, h9, -, -⟩ := State.acting_spec h
  have h2' : s.core? c.iss.core = some core := h2
  simp only [issue, issueWith, h1, h2', h3, h5, h6, h7, Ctx.execute, h9]
  simp [hk, Ctx.trapWith, illegal]

/-- A vector register that a field names lies within the window (R39, R104). -/
theorem State.acting_vec1 {n : BitVec 6} (h : s.acting i = some (c, s1)) (hd : c.form.d = vec1 n) : n.toNat < (c.my s1).window := by
  obtain ⟨core, -, -, -, -, -, -, hreject, -⟩ := State.acting_spec h
  obtain ⟨v, sr, p, hth⟩ := State.acting_thread h
  have hwin : c.th.window = (c.my s1).window := by rw [hth]
  rw [← hwin]
  by_contra hn
  have hout : c.th.window < n.toNat + 1 := by omega
  simp only [Form.reject, hd, vec1, FieldCheck.detail, gt_iff_lt, hout, if_true] at hreject
  split_ifs at hreject

end

/-! ## The block after a change -/

section
variable {c : Ctx} {s : State} {α : Type}

theorem Ctx.present_updCore (h : c.present s) (g : Core → Core) : c.present (s.updCore c.k g) := ⟨by simpa using h.1, h.2⟩

theorem Ctx.here_updCore (h : c.present s) (g : Core → Core) : c.here (s.updCore c.k g) = g (c.here s) := by
  obtain ⟨core, hcore⟩ := Option.isSome_iff_exists.mp h.1
  simp [Ctx.here, hcore]

theorem Ctx.my_updCore (h : c.present s) {g : Core → Core} (hg : ∀ x : Core, (g x).thr = x.thr) : c.my (s.updCore c.k g) = c.my s := by
  obtain ⟨core, hcore⟩ := Option.isSome_iff_exists.mp h.1
  simp [Ctx.my, State.thread, hcore, Core.thread, hg]

/-- What does not look at the threads of a block is not changed with one of them. -/
theorem Ctx.here_updThread {F : Core → α} (hF : ∀ x thr, F { x with thr := thr } = F x) (k a : Nat) (g : Thread → Thread) :
    F (c.here (s.updThread k a g)) = F (c.here s) := by
  by_cases hk : c.k = k
  · subst hk
    cases hc : s.core? c.k with
    | none => simp [Ctx.here, State.updThread, hc]
    | some core =>
      simp only [Ctx.here, State.updThread, State.core?_updCore_same, hc, Option.map_some, Option.getD_some]
      rw [Core.updThread_eq, hF]
  · simp only [Ctx.here, State.updThread, State.core?_updCore_other _ _ _ _ hk]

/-! ## Going on -/

theorem Ctx.here_next {F : Core → α} (hF : ∀ x thr, F { x with thr := thr } = F x) : F (c.here (c.next s)) = F (c.here s) := Ctx.here_updThread hF _ _ _

theorem Ctx.next_eq (hn : (c.my s).ahead = none) : c.next s = s.updThread c.k c.a fun t => t.advanced c.iss.slot c.iss.tpc := State.advance_eq _ _ _ _ _ hn

theorem Ctx.my_next (hp : c.present s) (hn : (c.my s).ahead = none) : c.my (c.next s) = (c.my s).advanced c.iss.slot c.iss.tpc := by
  rw [Ctx.next_eq hn, Ctx.my_updThread hp]

theorem Ctx.falls_next (hp : c.present s) (hn : (c.my s).ahead = none) : c.falls s (c.next s) := by
  unfold Ctx.falls
  rw [Ctx.my_next hp hn]
  exact Thread.advanced_falls _ _ _

/-- Where a slot goes depends on the loop stack alone. -/
theorem Ctx.falls_of_loops {s' t : State} (h : c.falls s t) (hl : (c.my s).loops = (c.my s').loops) : c.falls s' t := by
  obtain ⟨hst, hpc, hloops⟩ := h
  rw [Thread.loopNext_loops _ _ _ hl] at hpc hloops
  exact ⟨hst, hpc, hloops⟩

/-! ## Waiting -/

theorem State.endRunOf_eq (s : State) (k a : Nat) (w : SlotId) : ∃ f : Core → List Port, s.endRunOf k a w = s.updCore k fun x => { x with ports := f x } := by
  unfold State.endRunOf
  split
  · refine ⟨Core.ports, ?_⟩
    simp only [State.updCore, KMap.alter_id]
  · exact ⟨_, rfl⟩

/-- A wait changes the state of its slot, and what runs on the port. -/
theorem State.wait_eq (s : State) (k a : Nat) (w : SlotId) (why : Wait) : ∃ f : Core → List Port,
    s.wait k a w why = (s.updThread k a fun t => t.updSlot w fun sl => { sl with st := .waiting why }).updCore k fun x => { x with ports := f x } := by
  unfold State.wait
  dsimp only
  split
  · refine ⟨Core.ports, ?_⟩
    simp only [State.updCore, State.updSlot, KMap.alter_id]
  · exact State.endRunOf_eq _ _ _ _

theorem State.wait_structural (s : State) (k a : Nat) (w : SlotId) :
    s.wait k a w .structural = s.updThread k a fun t => t.updSlot w fun sl => { sl with st := .waiting .structural } := by
  simp [State.wait, State.updSlot]

/-- No run of a slot is left on its port once it has been ended. -/
theorem State.endRunOf_ends {k a : Nat} {w : SlotId} {core : Core} (ha : a < 16) (h : (s.endRunOf k a w).core? k = some core) :
    (core.portOf a).run ≠ some (a, w) := by
  simp only [State.endRunOf, show ¬ a ≥ 16 by omega, if_false, State.core?_updCore_same] at h
  obtain ⟨x, -, rfl⟩ := Option.map_eq_some_iff.mp h
  simp only [Core.portOf, nth_alterPad_same]
  split
  · simp
  · assumption

theorem Ctx.my_wait (h : c.present s) (why : Wait) : c.my (c.wait why s) = (c.my s).updSlot c.iss.slot fun sl => { sl with st := .waiting why } := by
  obtain ⟨f, hf⟩ := s.wait_eq c.k c.a c.iss.slot why
  rw [Ctx.wait, hf, Ctx.my_updCore (Ctx.present_updThread h _) fun _ => by rfl, Ctx.my_updThread h]

theorem Ctx.here_wait {F : Core → α} (h : c.present s) (hthr : ∀ x thr, F { x with thr := thr } = F x) (hports : ∀ x ports, F { x with ports := ports } = F x)
    (why : Wait) : F (c.here (c.wait why s)) = F (c.here s) := by
  obtain ⟨f, hf⟩ := s.wait_eq c.k c.a c.iss.slot why
  rw [Ctx.wait, hf, Ctx.here_updCore (Ctx.present_updThread h _), hports, Ctx.here_updThread hthr]

theorem Ctx.waits_wait (hp : c.present s) (why : Wait) : c.waits s (c.wait why s) why := by
  refine ⟨?_, fun hw core hcore ha => ?_, ?_⟩
  · rw [Ctx.my_wait hp, Thread.updSlot_slot]
  · simp only [Ctx.wait, State.wait, hw, if_false] at hcore
    exact State.endRunOf_ends ha hcore
  · rw [Ctx.my_wait hp]
    cases c.iss.slot <;> rfl

/-- A wait is the same seen from before a change of the block that left the thread alone. -/
theorem Ctx.waits_of_my {s' t : State} {w : Wait} (h : c.waits s t w) (hm : c.my s = c.my s') : c.waits s' t w := by
  obtain ⟨hslot, hrun, hloops⟩ := h
  rw [hm] at hslot hloops
  exact ⟨hslot, hrun, hloops⟩

end

/-! ## Frames -/

/-- A loosening of block fields that are no threads. -/
def Loosen.besideThreads (x : Loosen) : Prop := ∀ c : Core, ∀ thr, x.core { c with thr := thr } = { x.core c with thr := thr }

theorem Loosen.besideThreads.thr {x : Loosen} (h : x.besideThreads) (c : Core) : (x.core c).thr = c.thr := (congrArg Core.thr (h c c.thr) :)

theorem Loosen.besideThreads.updThread {x : Loosen} (h : x.besideThreads) (c : Core) (a : Nat) (g : Thread → Thread) :
    x.core (c.updThread a g) = (x.core c).updThread a g := by
  unfold Core.updThread
  split
  · rw [h, h.thr]
  · rfl

theorem Loosen.besideThreads.thread {x : Loosen} (h : x.besideThreads) (c : Core) (a : Nat) : (x.core c).thread a = c.thread a := by
  rw [Core.thread, h.thr, Core.thread]

section
variable {c : Ctx} {s t : State} {vs ss ps : List Nat} {x : Loosen}

theorem Ctx.rest_updCore {g : Core → Core} (hg : ∀ y, x.core (g y) = x.core y) : c.rest (s.updCore c.k g) vs ss ps x = c.rest s vs ss ps x := by
  simp only [Ctx.rest, State.except, State.updCore_updCore, hg, State.updCore_now]

/-- What agrees without a loosening agrees with one of the block and of what the instruction leaves of its thread. -/
theorem Ctx.rest_loosen (h : c.rest t vs ss ps = c.rest s vs ss ps) (hx : x.besideThreads)
    (hthread : ∀ (u : Thread) now, x.thread (u.except now c.iss.slot vs ss ps) = (x.thread u).except now c.iss.slot vs ss ps) (hstate : x.state = id) :
    c.rest t vs ss ps x = c.rest s vs ss ps x := by
  have key (u : State) : c.rest u vs ss ps x = (c.rest u vs ss ps).updCore c.k fun y => (x.core y).updThread c.a x.thread := by
    simp only [Ctx.rest, State.except, hstate, id]
    rw [State.updCore, State.updCore, State.updCore, KMap.alter_alter]
    simp only [hx.updThread, Core.updThread_updThread, hthread]
  rw [key, key, h]

theorem Ctx.rest_loosenThread {g : Thread → Thread} (hx : x.besideThreads)
    (hg : ∀ u : Thread, (x.thread (g u)).except s.now c.iss.slot vs ss ps = (x.thread u).except s.now c.iss.slot vs ss ps) :
    c.rest (s.updThread c.k c.a g) vs ss ps x = c.rest s vs ss ps x :=
  State.except_updThread _ _ _ _ _ _ _ _ _ (fun y => hx.updThread y _) (fun y => hx.thread y _) (hg _)

theorem Ctx.rest_next (hx : x.besideThreads) (hadv : ∀ (u : Thread) w pc, x.thread (u.advanced w pc) = (x.thread u).advanced w pc) (hn : (c.my s).ahead = none) :
    c.rest (c.next s) vs ss ps x = c.rest s vs ss ps x := by
  rw [Ctx.next_eq hn]
  exact Ctx.rest_loosenThread hx fun u => by rw [hadv, Thread.except_advanced]

/-- Where a slot stands makes no difference to the rest. -/
theorem Thread.except_updSlot (u : Thread) (now : Nat) (w : SlotId) (st : SlotState) :
    (u.updSlot w fun sl => { sl with st := st }).except now w vs ss ps = u.except now w vs ss ps := by
  cases w <;> rfl

theorem Ctx.rest_waitStructural : c.rest (c.wait .structural s) vs ss ps = c.rest s vs ss ps := by
  rw [Ctx.wait, State.wait_structural]
  exact Ctx.rest_updThread _ _ _ _ _ _ fun u => u.except_updSlot _ _ _

theorem Ctx.rest_wait (hx : x.besideThreads) (hports : ∀ y ports, x.core { y with ports := ports } = x.core y)
    (hslot : ∀ (u : Thread) w f, x.thread (u.updSlot w f) = (x.thread u).updSlot w f) (why : Wait) :
    c.rest (c.wait why s) vs ss ps x = c.rest s vs ss ps x := by
  obtain ⟨f, hf⟩ := s.wait_eq c.k c.a c.iss.slot why
  rw [Ctx.wait, hf, Ctx.rest_updCore fun y => hports y _]
  exact Ctx.rest_loosenThread hx fun u => by rw [hslot, Thread.except_updSlot]

end

end Sys2Proof.Machine
end

section
/-! PROOFS. The queues between the access processor and the warps (O26). -/

namespace Sys2Proof.Machine

/-! ## One queue of a block -/

@[simp] theorem Core.aqueue_updQueue_same (x : Core) (q : Nat) (f : AQueue → AQueue) : (x.updQueue q f).aqueue q = f (x.aqueue q) := by
  simp [Core.aqueue, Core.updQueue]

theorem Core.aqueue_updQueue_other (x : Core) {q m : Nat} (f : AQueue → AQueue) (h : m ≠ q) : (x.updQueue q f).aqueue m = x.aqueue m :=
  nth_alterPad_other _ _ _ _ _ h

/-- The place of a slot in a line of waiting pops: it stands there once, and those that were there still do (R46). -/
theorem joinLine_spec (l : List (Nat × SlotId × Nat)) (a : Nat) (w : SlotId) (now : Nat) :
    (∃ y ∈ joinLine l a w now, (y.1, y.2.1) = (a, w)) ∧ (∀ y ∈ l, y ∈ joinLine l a w now) ∧
      ∀ y ∈ joinLine l a w now, y ∈ l ∨ y = (a, w, now) ∧ ∀ z ∈ l, ¬ (z.1, z.2.1) = (a, w) := by
  unfold joinLine
  split
  · next h =>
    obtain ⟨y, hy, hmine⟩ := List.any_eq_true.mp h
    exact ⟨⟨y, hy, of_decide_eq_true hmine⟩, fun _ hz => hz, fun _ hz => .inl hz⟩
  · next h =>
    have hnew : ∀ z ∈ l, ¬ (z.1, z.2.1) = (a, w) := fun z hz hmine => h (List.any_eq_true.mpr ⟨z, hz, decide_eq_true hmine⟩)
    refine ⟨⟨(a, w, now), by simp, rfl⟩, fun y hy => ?_, fun y hy => ?_⟩
    · rw [← List.takeWhile_append_dropWhile (p := fun x : Nat × SlotId × Nat => decide (x.2.2 < now) || decide (x.1 % 4 ≤ a % 4)) (l := l)] at hy
      simp only [List.mem_append, List.mem_cons] at hy ⊢
      exact hy.imp_right .inr
    · simp only [List.mem_append, List.mem_cons] at hy
      rcases hy with hy | rfl | hy
      · exact .inl ((List.takeWhile_sublist _).mem hy)
      · exact .inr ⟨rfl, hnew⟩
      · exact .inl ((List.dropWhile_sublist _).mem hy)

/-- The oldest entry may be popped: there is one, and what came before its push is performed (R339). -/
theorem Core.popReady_of_entries {x : Core} {q : Nat} (h : (x.aqueue q).entries ≠ []) :
    x.popReady q = true ↔ ∀ y ∈ (x.thread apAgent).inflight, (x.aqueue q).after.headD 0 ≤ y.tag ∨ y.performed = true := by
  unfold Core.popReady
  split
  · next he => exact absurd he h
  · simp [Thread.performedBelow]

theorem Core.popReady_of_none {x : Core} {q : Nat} (h : (x.aqueue q).entries = []) : x.popReady q = (x.aqueue q).closed := by
  simp [Core.popReady, h]

/-! ## What the instructions do to a queue -/

/-- Beside a queue, the run of the warp may change. -/
def looseQueues : Loosen := { core := fun x => { x with aq := [], ports := [] } }

theorem looseQueues_besideThreads : looseQueues.besideThreads := fun _ _ => rfl

section
variable {s s1 : State} {c : Ctx} {d a : BitVec 6} {i : Instr}

/-- What a change of one queue leaves, seen in the block after it. -/
theorem State.acting_updQueue (h : s.acting i = some (c, s1)) (q : Nat) (f : AQueue → AQueue) :
    let s2 := s1.updCore c.k fun y => y.updQueue q f
    c.present s2 ∧ c.my s2 = c.my s1 ∧ (c.here s2).aqueue q = f (c.core.aqueue q) ∧ (∀ m, m ≠ q → (c.here s2).aqueue m = c.core.aqueue m) ∧
      ∀ vs ss ps, c.rest s2 vs ss ps looseQueues = c.rest s1 vs ss ps looseQueues := by
  have hp := State.acting_present h
  refine ⟨Ctx.present_updCore hp _, Ctx.my_updCore hp fun _ => rfl, ?_, fun m hm => ?_, fun _ _ _ => Ctx.rest_updCore fun _ => rfl⟩
  · rw [Ctx.here_updCore hp, Core.aqueue_updQueue_same, State.acting_here h]
  · rw [Ctx.here_updCore hp, Core.aqueue_updQueue_other _ _ hm, State.acting_here h]

/-- A pop that takes: its register holds the entry, or all ones where there is none, and its slot goes on (R45, R46). -/
theorem smovAq_takes (h : s.acting (.smovAq d a) = some (c, s1))
    (hgo : ((c.core.aqueue a.toNat).entries = [] ∧ (c.core.aqueue a.toNat).closed = true) ∨
      (c.core.popsBefore a.toNat c.a c.iss.slot = [] ∧ c.core.popReady a.toNat = true)) :
    let old := c.core.aqueue a.toNat
    ∃ t, exec (.smovAq d a) s = .next t ∧ c.holdsS t d.toNat (old.entries.headD 0xFFFFFFFFFFFFFFFF#64) ∧
      (c.here t).aqueue a.toNat = { old with entries := old.entries.drop 1, after := old.after.drop 1,
                                             waiters := old.waiters.filter fun x => decide ((x.1, x.2.1) ≠ (c.a, c.iss.slot)) } ∧
      (∀ m, m ≠ a.toNat → (c.here t).aqueue m = c.core.aqueue m) ∧ c.falls s1 t ∧ c.rest t [] [d.toNat] [] looseQueues = c.rest s1 [] [d.toNat] [] looseQueues := by
  intro old
  obtain ⟨hp, hmy, hq, hothers, hrest⟩ := State.acting_updQueue h a.toNat fun q =>
    { q with entries := q.entries.drop 1, after := q.after.drop 1, waiters := q.waiters.filter fun x => decide ((x.1, x.2.1) ≠ (c.a, c.iss.slot)) }
  have hn := (congrArg Thread.ahead hmy).trans (State.acting_notAhead h)
  obtain ⟨hs, hfalls, -, hsame⟩ := c.scalar_spec _ d (old.entries.headD 0xFFFFFFFFFFFFFFFF#64) hp hn
  refine ⟨_, issue_acting h _ _ rfl |>.trans (congrArg _ (if_neg ?_)), hs, ?_, fun m hm => ?_, Ctx.falls_of_loops hfalls (by rw [hmy]),
    (Ctx.rest_loosen hsame looseQueues_besideThreads (fun _ _ => rfl) rfl).trans (hrest _ _ _)⟩
  · rcases hgo with ⟨hnone, hclosed⟩ | ⟨hfirst, hready⟩
    · simp [hnone, hclosed]
    · simp [hfirst, hready]
  · rw [← hq]
    exact (Ctx.here_next (F := fun x => x.aqueue a.toNat) fun _ _ => rfl).trans (Ctx.here_updThread (F := fun x => x.aqueue a.toNat) (fun _ _ => rfl) _ _ _)
  · rw [← hothers m hm]
    exact (Ctx.here_next (F := fun x => x.aqueue m) fun _ _ => rfl).trans (Ctx.here_updThread (F := fun x => x.aqueue m) (fun _ _ => rfl) _ _ _)

/-- A pop that waits takes its place in the line (R46). -/
theorem smovAq_waits (h : s.acting (.smovAq d a) = some (c, s1))
    (hspent : ¬ ((c.core.aqueue a.toNat).entries = [] ∧ (c.core.aqueue a.toNat).closed = true))
    (hgo : c.core.popsBefore a.toNat c.a c.iss.slot ≠ [] ∨ c.core.popReady a.toNat = false) :
    let old := c.core.aqueue a.toNat
    ∃ t, exec (.smovAq d a) s = .next t ∧ c.waits s1 t (.pop a.toNat) ∧
      (c.here t).aqueue a.toNat = { old with waiters := joinLine old.waiters c.a c.iss.slot s1.now } ∧
      (∀ m, m ≠ a.toNat → (c.here t).aqueue m = c.core.aqueue m) ∧ c.rest t [] [] [] looseQueues = c.rest s1 [] [] [] looseQueues := by
  intro old
  obtain ⟨hp, hmy, hq, hothers, hrest⟩ := State.acting_updQueue h a.toNat fun q => { q with waiters := joinLine q.waiters c.a c.iss.slot s1.now }
  refine ⟨_, issue_acting h _ _ rfl |>.trans (congrArg _ (if_pos ?_)), Ctx.waits_of_my (Ctx.waits_wait hp _) hmy, ?_, fun m hm => ?_,
    (Ctx.rest_wait looseQueues_besideThreads (fun _ _ => rfl) (fun _ _ _ => rfl) _).trans (hrest _ _ _)⟩
  · have hspent' : ((c.core.aqueue a.toNat).entries.isEmpty && (c.core.aqueue a.toNat).closed) = false := by
      simpa [← Bool.not_eq_true] using hspent
    simpa [hspent'] using hgo
  · rw [← hq]
    exact Ctx.here_wait (F := fun x => x.aqueue a.toNat) hp (fun _ _ => rfl) (fun _ _ => rfl) _
  · rw [← hothers m hm]
    exact Ctx.here_wait (F := fun x => x.aqueue m) hp (fun _ _ => rfl) (fun _ _ => rfl) _

/-- A change of one queue, after which the slot goes on. -/
theorem State.acting_queueNext (h : s.acting i = some (c, s1)) (q : Nat) (f : AQueue → AQueue) :
    let t := c.next (s1.updCore c.k fun y => y.updQueue q f)
    (c.here t).aqueue q = f (c.core.aqueue q) ∧ (∀ m, m ≠ q → (c.here t).aqueue m = c.core.aqueue m) ∧ c.falls s1 t ∧
      c.rest t [] [] [] looseQueues = c.rest s1 [] [] [] looseQueues := by
  obtain ⟨hp, hmy, hq, hothers, hrest⟩ := State.acting_updQueue h q f
  have hn := (congrArg Thread.ahead hmy).trans (State.acting_notAhead h)
  refine ⟨?_, fun m hm => ?_, Ctx.falls_of_loops (Ctx.falls_next hp hn) (by rw [hmy]),
    (Ctx.rest_next looseQueues_besideThreads (fun _ _ _ => rfl) hn).trans (hrest _ _ _)⟩
  · rw [← hq]
    exact Ctx.here_next (F := fun x => x.aqueue q) fun _ _ => rfl
  · rw [← hothers m hm]
    exact Ctx.here_next (F := fun x => x.aqueue m) fun _ _ => rfl

end

end Sys2Proof.Machine

open Sys2Proof Sys2Proof.Machine

/-- Settles O26: a pop takes or waits (`smovAq_takes`, `smovAq_waits`), and a push or a close changes its queue alone (`State.acting_queueNext`). -/
theorem queuesPassEntriesInOrder : Obligations.QueuesPassEntriesInOrder := by
  unfold Obligations.QueuesPassEntriesInOrder
  intro d a s s1 c q loose others
  refine ⟨fun h => ?_, fun h => ?_, fun h => ?_⟩
  · intro old mine first there spent
    refine ⟨fun x rest hentries hfirst hthere => ?_, fun hspent => ?_, fun hspent hnot => ?_⟩
    · have hready : c.core.popReady a.toNat = true := (Core.popReady_of_entries (by rw [hentries]; simp)).mpr hthere
      obtain ⟨t, ht, hs, hq, hothers, hfalls, hrest⟩ := smovAq_takes h (.inr ⟨hfirst, hready⟩)
      rw [hentries] at hs hq
      refine ⟨t, ht, hs, (congrArg AQueue.entries hq :), (congrArg AQueue.after hq :), fun y => ?_, (congrArg AQueue.closed hq :), hothers, hfalls, hrest⟩
      simp only [q, hq, List.mem_filter, decide_eq_true_eq, mine, ne_eq, old]
    · obtain ⟨t, ht, hs, hq, hothers, hfalls, hrest⟩ := smovAq_takes h (.inl hspent)
      obtain ⟨hnone, hclosed⟩ := hspent
      rw [hnone] at hs hq
      exact ⟨t, ht, hs, (congrArg AQueue.entries hq :), (congrArg AQueue.closed hq :).trans hclosed, hothers, hfalls, hrest⟩
    · have hgo : c.core.popsBefore a.toNat c.a c.iss.slot ≠ [] ∨ c.core.popReady a.toNat = false := by
        by_contra hboth
        obtain ⟨hfirst, hready⟩ := not_or.mp hboth
        have hready : c.core.popReady a.toNat = true := by simpa using hready
        by_cases hnone : old.entries = []
        · exact hspent ⟨hnone, (Core.popReady_of_none hnone).symm.trans hready⟩
        · exact hnot ⟨not_not.mp hfirst, hnone, (Core.popReady_of_entries hnone).mp hready⟩
      obtain ⟨t, ht, hwaits, hq, hothers, hrest⟩ := smovAq_waits h hspent hgo
      obtain ⟨hmine, hkeeps, honly⟩ := joinLine_spec old.waiters c.a c.iss.slot s1.now
      have hline : (q t a).waiters = joinLine old.waiters c.a c.iss.slot s1.now := congrArg AQueue.waiters hq
      rw [← hline] at hmine hkeeps honly
      exact ⟨t, ht, hwaits, (congrArg AQueue.entries hq :), (congrArg AQueue.closed hq :), hothers, hmine, hkeeps, honly, hrest⟩
  · refine ⟨fun hopen hroom => ?_, fun hopen hfull => ?_, fun hclosed => ?_⟩
    · obtain ⟨hq, hothers, hfalls, hrest⟩ := State.acting_queueNext h d.toNat fun q => { q with entries := q.entries ++ [c.s a], after := q.after ++ [s1.seq] }
      have hdo : exec (.aqpush d a) s = .next _ := (issue_acting h _ _ (by simp [closedCheck, hopen])).trans
        (congrArg _ (if_neg (by simpa [Config.aqDepth] using hroom)))
      exact ⟨_, hdo, (congrArg AQueue.entries hq :), (congrArg AQueue.closed hq :).trans hopen, (congrArg AQueue.after hq :), hothers, hfalls, hrest⟩
    · have hdo : exec (.aqpush d a) s = .next _ := (issue_acting h _ _ (by simp [closedCheck, hopen])).trans
        (congrArg _ (if_pos (by simpa [Config.aqDepth] using hfull)))
      exact ⟨_, hdo, Ctx.waits_wait (State.acting_present h) _, Ctx.rest_waitStructural⟩
    · exact issue_acting_fails h _ _ (by simp [closedCheck, hclosed])
  · obtain ⟨hq, hothers, hfalls, hrest⟩ := State.acting_queueNext h d.toNat fun q => { q with closed := true }
    exact ⟨_, issue_acting h _ _ rfl, (congrArg AQueue.closed hq :), (congrArg AQueue.entries hq :), hothers, hfalls, hrest⟩

end

section
/-! PROOFS. Messages between blocks (O27). -/

namespace Sys2Proof.Machine

/-! ## Threads of the package after a change of a block that leaves its threads alone -/

theorem State.thread_updCore_rest (s : State) (k j a : Nat) {g : Core → Core} (hg : ∀ x : Core, (g x).thr = x.thr) : (s.updCore k g).thread j a = s.thread j a := by
  by_cases hj : j = k
  · subst hj
    cases hc : s.core? j <;> simp [State.thread, hc, Core.thread, hg]
  · simp [State.thread, State.core?_updCore_other _ _ _ _ hj]

/-- What does not look at the threads of a block is not changed with a thread of the package. -/
theorem State.core?_updThread_some {α : Type} {F : Core → α} (hF : ∀ x thr, F { x with thr := thr } = F x) {s : State} {j : Nat} {core : Core}
    (hc : s.core? j = some core) (k a : Nat) (g : Thread → Thread) : ∃ x, (s.updThread k a g).core? j = some x ∧ F x = F core := by
  by_cases hj : j = k
  · subst hj
    refine ⟨core.updThread a g, by simp [State.updThread, hc], ?_⟩
    rw [Core.updThread_eq, hF]
  · exact ⟨core, by rw [State.updThread, State.core?_updCore_other _ _ _ _ hj, hc], rfl⟩

/-- Going on changes where a thread's lanes stand, and nothing else of it. -/
theorem Thread.apart_advanced (t : Thread) (w : SlotId) (tpc : W64) : (t.advanced w tpc).apart = t.apart := by cases w <;> rfl

/-! ## Receiving (R45, R48, R148) -/

/-- A receive register with other messages. -/
def Core.setMessages (x : Core) (q : Nat) (ms : List (List W32)) : Core :=
  { x with mqi := alterPad MQueue.empty x.mqi q fun r => { r with messages := ms } }

theorem Core.recv_setMessages (x : Core) (q : Nat) (ms : List (List W32)) : (x.setMessages q ms).recv q = { x.recv q with messages := ms } := by
  simp [Core.recv, Core.setMessages]

/-- Beside a receive register. -/
def looseReceive : Loosen := { core := fun x => { x with mqi := [] } }

theorem looseReceive_besideThreads : looseReceive.besideThreads := fun _ _ => rfl

theorem looseRun_besideThreads : looseRun.besideThreads := fun _ _ => rfl

/-- A blocking wait alone. -/
theorem Ctx.wait_spec {c : Ctx} {s : State} (hp : c.present s) (why : Wait) :
    c.waits s (c.wait why s) why ∧ c.rest (c.wait why s) [] [] [] looseRun = c.rest s [] [] [] looseRun :=
  ⟨Ctx.waits_wait hp why, Ctx.rest_wait looseRun_besideThreads (fun _ _ => rfl) (fun _ _ _ => rfl) why⟩

/-- Going on alone. -/
theorem Ctx.next_spec {c : Ctx} {s : State} (hp : c.present s) (hn : (c.my s).ahead = none) : c.falls s (c.next s) ∧ c.rest (c.next s) [] [] [] = c.rest s [] [] [] :=
  ⟨Ctx.falls_next hp hn, Ctx.rest_next (fun _ _ => rfl) (fun _ _ _ => rfl) hn⟩

section
variable {s s1 : State} {c : Ctx} {d a : BitVec 6}

theorem vmovFromMqi_takes (h : s.acting (.vmovFromMqi d a) = some (c, s1)) {m : List W32} {rest : List (List W32)}
    (hm : (c.core.recv a.toNat).messages = m :: rest) :
    ∃ t, exec (.vmovFromMqi d a) s = .next t ∧ c.holdsV s1 t d.toNat (fun l => nth m l 0#32) ∧
      (c.here t).recv a.toNat = { c.core.recv a.toNat with messages := rest } ∧ (∀ n, n ≠ a.toNat → (c.here t).recv n = c.core.recv n) ∧ c.falls s1 t ∧
      c.rest t [d.toNat] [] [] looseReceive = c.rest s1 [d.toNat] [] [] looseReceive := by
  have hp := State.acting_present h
  have hmy : c.my (s1.updCore c.k fun x => x.setMessages a.toNat rest) = c.my s1 := Ctx.my_updCore hp fun _ => rfl
  have hn := (congrArg Thread.ahead hmy).trans (State.acting_notAhead h)
  have hwin : d.toNat < (c.my (s1.updCore c.k fun x => x.setMessages a.toNat rest)).window := hmy ▸ State.acting_vec1 h (by rw [State.acting_form h]; rfl)
  obtain ⟨hv, hfalls, -, hsame⟩ := c.vector_spec _ d (fun l => nth m l 0#32) (Ctx.present_updCore hp _) hn hwin
  have hhere (n : Nat) : (c.here (c.vector d (fun l => nth m l 0#32) (s1.updCore c.k fun x => x.setMessages a.toNat rest))).recv n =
      (c.core.setMessages a.toNat rest).recv n := by
    rw [← State.acting_here h, ← Ctx.here_updCore hp fun x => x.setMessages a.toNat rest]
    exact (Ctx.here_next (F := fun x => x.recv n) fun _ _ => rfl).trans (Ctx.here_updThread (F := fun x => x.recv n) (fun _ _ => rfl) _ _ _)
  refine ⟨_, (issue_acting h _ _ rfl).trans (by rw [hm]; rfl), ?_, ?_, fun n hne => ?_, Ctx.falls_of_loops hfalls (by rw [hmy]),
    (Ctx.rest_loosen hsame looseReceive_besideThreads (fun _ _ => rfl) rfl).trans (Ctx.rest_updCore fun _ => rfl)⟩
  · unfold Ctx.holdsV
    rw [← hmy]
    exact hv
  · rw [hhere, Core.recv_setMessages]
  · rw [hhere]
    exact nth_alterPad_other _ _ _ _ _ hne

theorem vmovFromMqi_waits (h : s.acting (.vmovFromMqi d a) = some (c, s1)) (hm : (c.core.recv a.toNat).messages = []) :
    exec (.vmovFromMqi d a) s = .next (c.wait (.receive a.toNat) s1) := (issue_acting h _ _ rfl).trans (by rw [hm])

/-! ## Sending (R47, R148, R223) -/

/-- A receive register with room promised to one more message (R223). -/
def Core.promise (x : Core) (q : Nat) : Core := { x with mqi := alterPad MQueue.empty x.mqi q fun r => { r with promised := r.promised + 1 } }

theorem Core.recv_promise (x : Core) (q : Nat) : (x.promise q).recv q = { x.recv q with promised := (x.recv q).promised + 1 } := by
  simp [Core.recv, Core.promise]

/-- The flit that carries the words of a send to a receive register of a block on core `k` (R412, R416). -/
def Ctx.messageFlit (c : Ctx) (d a : BitVec 6) (k queue : Nat) : Flit :=
  { dDie := dieOfCore k, dLeaf := clusterOfCore k * 2, sDie := dieOfCore c.k, sLeaf := clusterOfCore c.k * 2, cls := 0, resp := true
    domain := if c.core.vid = 0 then 0 else c.core.launch.domain, vid := c.core.vid, form := 2, cseq := 0#16, key := queue
    body := .message ((List.range 32).map fun l => if bit c.pass l then c.v a l else 0#32) k queue c.k d.toNat
    at_ := .leaf (dieOfCore c.k) (clusterOfCore c.k * 2) }

/-- The package once a message for a receive register of core `k` has left. -/
def State.sentTo (s : State) (k queue : Nat) (f : Flit) : State := { s.updCore k fun x => x.promise queue with flits := s.flits ++ [f] }

theorem State.core?_sentTo (s : State) (k queue j : Nat) (f : Flit) : (s.sentTo k queue f).core? j = (s.updCore k fun x => x.promise queue).core? j := rfl

/-- A send whose target block is not resident waits for it, or is discarded (R223). -/
theorem vmovToMqo_absent (h : s.acting (.vmovToMqo d a) = some (c, s1)) {b : Binding} (hb : c.core.binding d.toNat s1.now = some b)
    (hnone : s1.coreOfBlock c.k c.core b.gang b.block = none) :
    exec (.vmovToMqo d a) s = .next (if s1.unplaced (dieOfCore c.k) c.core b.gang then c.wait (.send d.toNat) s1 else c.next s1) :=
  (issue_acting h _ _ (by simp only [unboundCheck, hb])).trans (by simp only [hb, hnone])

/-- A send to a block that is resident: discarded where it has ended, else it waits for room, or the message leaves as a flit (R47, R223). -/
theorem vmovToMqo_resident (h : s.acting (.vmovToMqo d a) = some (c, s1)) {b : Binding} {k : Nat} {target : Core}
    (hb : c.core.binding d.toNat s1.now = some b) (hk : s1.coreOfBlock c.k c.core b.gang b.block = some k) (hcore : s1.core? k = some target) :
    exec (.vmovToMqo d a) s = .next
      (if target.phase = .killed ∨ target.phase = .completed ∨ target.phase = .halted then c.next s1
        else if 16 ≤ (target.recv b.queue).messages.length + (target.recv b.queue).promised then c.wait (.send d.toNat) s1
        else c.next (s1.sentTo k b.queue (c.messageFlit d a k b.queue))) :=
  (issue_acting h _ _ (by simp only [unboundCheck, hb])).trans (by simp only [hb, hk, hcore]; rfl)

/-- What a send leaves once its message is under way. -/
theorem Ctx.sends_spec {k queue : Nat} {target : Core} (hp : c.present s1) (hn : (c.my s1).ahead = none) (hcore : s1.core? k = some target) (f : Flit) :
    let t := c.next (s1.sentTo k queue f)
    t.flits = s1.flits ++ [f] ∧ (∃ x, t.core? k = some x ∧ x.recv queue = { target.recv queue with promised := (target.recv queue).promised + 1 }) ∧
      c.falls s1 t ∧ (c.my t).apart = (c.my s1).apart ∧ t.mem = s1.mem := by
  intro t
  have hmy : c.my (s1.sentTo k queue f) = c.my s1 := s1.thread_updCore_rest k _ _ fun _ => rfl
  have hsent : (s1.sentTo k queue f).core? k = some (target.promise queue) := by rw [State.core?_sentTo, State.core?_updCore_same, hcore, Option.map_some]
  have hp' : c.present (s1.sentTo k queue f) := by
    refine ⟨?_, hp.2⟩
    by_cases hk : c.k = k
    · rw [hk, hsent, Option.isSome_some]
    · rw [State.core?_sentTo, State.core?_updCore_other _ _ _ _ hk]
      exact hp.1
  have hn' : (c.my (s1.sentTo k queue f)).ahead = none := hmy ▸ hn
  refine ⟨rfl, ?_, Ctx.falls_of_loops (Ctx.falls_next hp' hn') (by rw [hmy]), ?_, rfl⟩
  · obtain ⟨x, hx, hrecv⟩ := State.core?_updThread_some (F := fun x => x.recv queue) (fun _ _ => rfl) hsent c.k c.a _
    exact ⟨x, hx, hrecv.trans (Core.recv_promise _ _)⟩
  · rw [Ctx.my_next hp' hn', Thread.apart_advanced, hmy]

/-- A send register that is not bound (R47). -/
theorem vmovToMqo_unbound (h : s.acting (.vmovToMqo d a) = some (c, s1)) (hb : c.core.binding d.toNat s1.now = none) :
    exec (.vmovToMqo d a) s = .next (c.trapWith 4#8 5#8 c.pass s1) := issue_acting_fails h _ _ (by simp only [unboundCheck, hb])

end

/-! ## Bindings (R223) and `MQTRY` (R225) -/

/-- The target that `MQBIND` names with a value, as its fields have it (R223). -/
def bindingOf (v : Nat) (now : Nat) : Binding := { gang := v / 2 ^ 3 % 2 ^ 4, block := v % 2 ^ 3, queue := v / 2 ^ 8 % 2 ^ 2, since := now }

/-- A value that names a block of the launch, with no reserved bit set (R223). -/
def goodTarget (launch : Launch) (v : Nat) : Prop := v < 2 ^ 10 ∧ v / 2 ^ 7 % 2 = 0 ∧ v / 2 ^ 3 % 2 ^ 4 < launch.gangs ∧ v % 2 ^ 3 < launch.blocks

theorem targetOk_iff (launch : Launch) (v : W64) : targetOk launch v = true ↔ goodTarget launch v.toNat := by
  have hhigh : v.extractLsb' 10 54 = 0#54 ↔ v.toNat < 2 ^ 10 := by
    rw [← BitVec.toNat_inj, BitVec.extractLsb'_toNat, Nat.shiftRight_eq_div_pow, BitVec.toNat_ofNat]
    omega
  have hbit : v.getLsbD 7 = false ↔ v.toNat / 2 ^ 7 % 2 = 0 := by
    rw [BitVec.getLsbD, Nat.testBit_eq_decide_div_mod_eq, decide_eq_false_iff_not]
    omega
  simp only [targetOk, Bool.and_eq_true, decide_eq_true_eq, hhigh, hbit, BitVec.extractLsb'_toNat, Nat.shiftRight_eq_div_pow, Nat.pow_zero, Nat.div_one,
    goodTarget, and_assoc]

/-- A send register with a new binding; the one that governs the cycle stands behind it. -/
def Core.bind (x : Core) (q : Nat) (b : Binding) (now : Nat) : Core :=
  { x with mqo := alterPad [] x.mqo q fun l => b :: (l.filter fun y => decide (y.since < now)).take 1 }

theorem Core.mqo_bind_other (x : Core) {q n : Nat} (b : Binding) (now : Nat) (h : n ≠ q) : nth (x.bind q b now).mqo n [] = nth x.mqo n [] :=
  nth_alterPad_other _ _ _ _ _ h

/-- The first of a list is the first of those that a test keeps of it. -/
theorem find?_take_filter {α : Type} (l : List α) (p : α → Bool) : ((l.filter p).take 1).find? p = l.find? p := by
  induction l with
  | nil => rfl
  | cons x l ih =>
    cases hx : p x with
    | true => simp [hx]
    | false => simpa [hx] using ih

theorem Core.binding_bind_later (x : Core) (q : Nat) (b : Binding) {now later : Nat} (h : b.since < later) : (x.bind q b now).binding q later = some b := by
  simp [Core.binding, Core.bind, h]

theorem Core.binding_bind_now (x : Core) (q : Nat) (b : Binding) : (x.bind q b b.since).binding q b.since = x.binding q b.since := by
  simp only [Core.binding, Core.bind, nth_alterPad_same, List.find?_cons, Nat.lt_irrefl, decide_false]
  exact find?_take_filter _ _

/-- Beside a send register. -/
def looseBindings : Loosen := { core := fun x => { x with mqo := [] } }

theorem looseBindings_besideThreads : looseBindings.besideThreads := fun _ _ => rfl

section
variable {s s1 : State} {c : Ctx} {d a : BitVec 6}

theorem mqbind_binds (h : s.acting (.mqbind d a) = some (c, s1)) (hgood : goodTarget c.core.launch (c.s a).toNat) :
    let b := bindingOf (c.s a).toNat s1.now
    ∃ t, exec (.mqbind d a) s = .next t ∧ (∀ later, s1.now < later → (c.here t).binding d.toNat later = some b) ∧
      (c.here t).binding d.toNat s1.now = c.core.binding d.toNat s1.now ∧ (∀ n, n ≠ d.toNat → nth (c.here t).mqo n [] = nth c.core.mqo n []) ∧ c.falls s1 t ∧
      c.rest t [] [] [] looseBindings = c.rest s1 [] [] [] looseBindings := by
  intro b
  have hp := State.acting_present h
  have hok : targetOk c.core.launch (c.s a) = true := (targetOk_iff _ _).mpr hgood
  have hb : b = { gang := ((c.s a).extractLsb' 3 4).toNat, block := ((c.s a).extractLsb' 0 3).toNat, queue := ((c.s a).extractLsb' 8 2).toNat, since := s1.now } := by
    simp [b, bindingOf, BitVec.extractLsb'_toNat, Nat.shiftRight_eq_div_pow]
  have hdo : exec (.mqbind d a) s = .next (c.next (s1.updCore c.k fun x => x.bind d.toNat b s1.now)) := by
    rw [hb]
    exact issue_acting h _ _ (by simp [targetCheck, hok])
  have hmy : c.my (s1.updCore c.k fun x => x.bind d.toNat b s1.now) = c.my s1 := Ctx.my_updCore hp fun _ => rfl
  have hn := (congrArg Thread.ahead hmy).trans (State.acting_notAhead h)
  have hhere : (c.here (c.next (s1.updCore c.k fun x => x.bind d.toNat b s1.now))).mqo = (c.core.bind d.toNat b s1.now).mqo := by
    rw [← State.acting_here h, ← Ctx.here_updCore hp fun x => x.bind d.toNat b s1.now]
    exact Ctx.here_next (F := Core.mqo) fun _ _ => rfl
  have hbinding (now : Nat) : (c.here (c.next (s1.updCore c.k fun x => x.bind d.toNat b s1.now))).binding d.toNat now =
      (c.core.bind d.toNat b s1.now).binding d.toNat now := by simp only [Core.binding, hhere]
  refine ⟨_, hdo, fun later hl => ?_, ?_, fun n hne => ?_, Ctx.falls_of_loops (Ctx.falls_next (Ctx.present_updCore hp _) hn) (by rw [hmy]),
    (Ctx.rest_next looseBindings_besideThreads (fun _ _ _ => rfl) hn).trans (Ctx.rest_updCore fun _ => rfl)⟩
  · rw [hbinding]
    exact Core.binding_bind_later _ _ _ hl
  · rw [hbinding]
    exact Core.binding_bind_now c.core d.toNat b
  · rw [hhere]
    exact Core.mqo_bind_other _ _ _ hne

/-- A value that names no block of the launch is an illegal instruction (R223). -/
theorem mqbind_refused (h : s.acting (.mqbind d a) = some (c, s1)) (hbad : ¬ goodTarget c.core.launch (c.s a).toNat) :
    exec (.mqbind d a) s = .next (c.trapWith 4#8 7#8 c.pass s1) := by
  obtain ⟨-, -, -, -, -, -, -, -, -, -, hpass, -⟩ := State.acting_spec h
  have hok : targetOk c.core.launch (c.s a) = false := by
    rw [← Bool.not_eq_true, targetOk_iff]
    exact hbad
  exact issue_acting_fails h _ _ (by simp [targetCheck, hok, hpass])

theorem mqtry_spec (h : s.acting (.mqtry d a) = some (c, s1)) :
    let q := c.core.recv a.toNat
    ∃ t, exec (.mqtry d a) s = .next t ∧
      c.holdsP s1 t d.toNat (if q.messages.length ≤ (if q.freshAt = s1.now then q.fresh else 0) then 0#32 else 0xFFFFFFFF#32) ∧ c.falls s1 t ∧
      c.rest t [] [] [d.toNat] = c.rest s1 [] [] [d.toNat] := by
  intro q
  obtain ⟨hholds, hfalls, -, hrest⟩ := c.pred_spec s1 d.toNat (spread (decide ((if q.freshAt = s1.now then q.fresh else 0) < q.messages.length)))
    (State.acting_present h) (State.acting_notAhead h)
  have hvalue : spread (decide ((if q.freshAt = s1.now then q.fresh else 0) < q.messages.length)) =
      if q.messages.length ≤ (if q.freshAt = s1.now then q.fresh else 0) then 0#32 else 0xFFFFFFFF#32 := by
    by_cases hlen : q.messages.length ≤ (if q.freshAt = s1.now then q.fresh else 0)
    · rw [if_pos hlen, decide_eq_false (by omega)]
      rfl
    · rw [if_neg hlen, decide_eq_true (by omega)]
      rfl
  exact ⟨_, issue_acting h _ _ rfl, hvalue ▸ hholds, hfalls, hrest⟩

end

end Sys2Proof.Machine

open Sys2Proof Sys2Proof.Machine

/-- Settles O27: receives, sends and bindings case by case, as the registers of the two blocks stand. -/
theorem messagesGoToTheBoundRegister : Obligations.MessagesGoToTheBoundRegister := by
  unfold Obligations.MessagesGoToTheBoundRegister
  intro d a s s1 c
  refine ⟨fun h => ⟨fun m rest hm => vmovFromMqi_takes h hm, fun hm => ?_⟩, fun b h hb hnone => ⟨fun hwaits => ?_, fun hgone => ?_⟩,
    fun b k target h hb hk hcore => ⟨fun hlive hroom => ?_, fun hlive hfull => ?_, fun hgone => ?_⟩, vmovToMqo_unbound,
    fun h => ⟨mqbind_binds h, mqbind_refused h⟩, mqtry_spec⟩
  · exact ⟨_, vmovFromMqi_waits h hm, Ctx.wait_spec (State.acting_present h) _⟩
  · exact ⟨_, (vmovToMqo_absent h hb hnone).trans (congrArg _ (if_pos hwaits)), Ctx.wait_spec (State.acting_present h) _⟩
  · exact ⟨_, (vmovToMqo_absent h hb hnone).trans (congrArg _ (if_neg (Bool.eq_false_iff.mp hgone))), Ctx.next_spec (State.acting_present h) (State.acting_notAhead h)⟩
  · obtain ⟨hflits, hpromised, hfalls, hapart, hmem⟩ := Ctx.sends_spec (queue := b.queue) (State.acting_present h) (State.acting_notAhead h) hcore (c.messageFlit d a k b.queue)
    have hdo := (vmovToMqo_resident h hb hk hcore).trans (congrArg _ ((if_neg hlive).trans (if_neg (Nat.not_le.mpr hroom))))
    exact ⟨_, _, hdo, hflits, rfl, rfl, rfl, hpromised, hfalls, hapart, hmem⟩
  · have hdo := (vmovToMqo_resident h hb hk hcore).trans (congrArg _ ((if_neg hlive).trans (if_pos hfull)))
    exact ⟨_, hdo, Ctx.wait_spec (State.acting_present h) _⟩
  · have hdo := (vmovToMqo_resident h hb hk hcore).trans (congrArg _ (if_pos hgone))
    exact ⟨_, hdo, Ctx.next_spec (State.acting_present h) (State.acting_notAhead h)⟩

end

section
/-! PROOFS. The register windows of the warps and the pool of a block (O29). -/

namespace Sys2Proof.Machine

/-! ## Lists of releases and claims -/

theorem releasedBefore_eq (now : Nat) (rs : List (Nat × Nat)) : releasedBefore now rs = ((rs.filter fun r => decide (r.1 < now)).map Prod.snd).sum := by
  have key (n : Nat) : rs.foldl (fun n r => if r.1 < now then n + r.2 else n) n = n + ((rs.filter fun r => decide (r.1 < now)).map Prod.snd).sum := by
    induction rs generalizing n with
    | nil => rfl
    | cons r rs ih =>
      rw [List.foldl_cons, ih]
      by_cases h : r.1 < now
      · simp [h, Nat.add_assoc]
      · simp [h]
  simpa [releasedBefore] using key 0

/-- A claim joins the queue behind those that are not after it (R56). -/
theorem addClaim_split (x : Nat × Nat × Nat) (claims : List (Nat × Nat × Nat)) : ∃ l r, claims = l ++ r ∧ addClaim x claims = l ++ x :: r ∧
    (∀ y ∈ l, ¬ (x.2.2 < y.2.2 ∨ x.2.2 = y.2.2 ∧ x.1 < y.1)) ∧ ∀ y ∈ r.head?, x.2.2 < y.2.2 ∨ x.2.2 = y.2.2 ∧ x.1 < y.1 := by
  induction claims with
  | nil => exact ⟨[], [], rfl, rfl, by simp, by simp⟩
  | cons y rest ih =>
    by_cases h : x.2.2 < y.2.2 ∨ (x.2.2 = y.2.2 ∧ x.1 < y.1)
    · exact ⟨[], y :: rest, rfl, by rw [addClaim, if_pos h, List.nil_append], by simp, by simpa using h⟩
    · obtain ⟨l, r, hclaims, hadd, hl, hr⟩ := ih
      refine ⟨y :: l, r, by rw [hclaims, List.cons_append], by rw [addClaim, if_neg h, hadd, List.cons_append], fun z hz => ?_, hr⟩
      rcases List.mem_cons.mp hz with rfl | hz
      · exact h
      · exact hl z hz

/-! ## The end of a cycle (R56) -/

section
variable {s : State} {k w : Nat} {x : Core}

/-- A claim that cannot be granted stays. -/
theorem State.grantHead_idle (hc : s.core? k = some x) (h : ∀ y ∈ x.claims.head?, x.pool < y.2.1 ∨ s.now ≤ y.2.2) : s.grantHead k = s := by
  unfold State.grantHead
  rw [hc]
  dsimp only
  cases hclaims : x.claims with
  | nil => rfl
  | cons y rest =>
    have hy := h y (by rw [hclaims]; rfl)
    exact if_neg fun hgrant => by
      obtain ⟨hneed, hsince⟩ := hgrant
      rcases hy with hy | hy
      · exact absurd hneed (Nat.not_le.mpr hy)
      · exact absurd hsince (Nat.not_lt.mpr hy)

theorem State.grants_idle (hc : s.core? k = some x) (h : ∀ y ∈ x.claims.head?, x.pool < y.2.1 ∨ s.now ≤ y.2.2) (l : List Nat) :
    l.foldl (fun s _ => s.grantHead k) s = s := by
  induction l with
  | nil => rfl
  | cons y l ih => rw [List.foldl_cons, State.grantHead_idle hc h, ih]

/-- A block in which a slot of an agent may have gone on. -/
def Core.goneOn (x y : Core) (a : Nat) : Prop :=
  { y with thr := [] } = { x with thr := [] } ∧ (∀ b, b ≠ a → y.thread b = x.thread b) ∧ (y.thread a).apart = (x.thread a).apart ∧
    ((x.thread a).loops = [] → (y.thread a).loops = [])

theorem Core.goneOn.trans {y z : Core} (h1 : x.goneOn y w) (h2 : y.goneOn z w) : x.goneOn z w := by
  obtain ⟨hrest1, hothers1, hapart1, hloops1⟩ := h1
  obtain ⟨hrest2, hothers2, hapart2, hloops2⟩ := h2
  exact ⟨hrest2.trans hrest1, fun b hb => (hothers2 b hb).trans (hothers1 b hb), hapart2.trans hapart1, fun h => hloops2 (hloops1 h)⟩

theorem Thread.advanced_slot_other (t : Thread) {w v : SlotId} (h : v ≠ w) (tpc : W64) : (t.advanced w tpc).slot v = t.slot v := by
  cases v <;> cases w
  · exact absurd rfl h
  · rfl
  · rfl
  · exact absurd rfl h

/-- A slot whose wait ends goes on; everything else of the block stays. -/
theorem State.releaseSlot_spec (hc : s.core? k = some x) (ha : w ≤ apAgent) (hn : (x.thread w).ahead = none) (v : SlotId) (p : Wait → Bool) :
    ∃ y, (s.releaseSlot k w v p).core? k = some y ∧ x.goneOn y w ∧ (s.releaseSlot k w v p).mem = s.mem ∧ (s.releaseSlot k w v p).now = s.now ∧
      (∀ u, u ≠ v → (y.thread w).slot u = (x.thread w).slot u) ∧
      ∀ why, ((x.thread w).slot v).st = .waiting why → p why = true → x.acts = true →
        ((y.thread w).slot v).st = .live ∧ ((y.thread w).slot v).pc = ((x.thread w).loopNext ((x.thread w).slot v).pc).1 := by
  have hthread := State.thread_of_core s k w x hc
  have hstays (h : s.releaseSlot k w v p = s) (hnot : ∀ why, ((x.thread w).slot v).st = .waiting why → ¬ (p why = true ∧ x.acts = true)) :
      ∃ y, (s.releaseSlot k w v p).core? k = some y ∧ x.goneOn y w ∧ (s.releaseSlot k w v p).mem = s.mem ∧ (s.releaseSlot k w v p).now = s.now ∧
        (∀ u, u ≠ v → (y.thread w).slot u = (x.thread w).slot u) ∧
        ∀ why, ((x.thread w).slot v).st = .waiting why → p why = true → x.acts = true →
          ((y.thread w).slot v).st = .live ∧ ((y.thread w).slot v).pc = ((x.thread w).loopNext ((x.thread w).slot v).pc).1 := by
    rw [h]
    exact ⟨x, hc, ⟨rfl, fun _ _ => rfl, rfl, id⟩, rfl, rfl, fun _ _ => rfl, fun why hst hp hacts => absurd ⟨hp, hacts⟩ (hnot why hst)⟩
  by_cases hwaits : ∃ why, ((x.thread w).slot v).st = .waiting why
  · obtain ⟨why, hst⟩ := hwaits
    have hdo : s.releaseSlot k w v p = if p why && x.acts then s.advance k w v ((x.thread w).slot v).pc else s := by
      simp only [State.releaseSlot, hthread, hst, State.blockActs, hc, Option.any_some]
    by_cases hgo : (p why && x.acts) = true
    · rw [hdo, if_pos hgo, State.advance_eq _ _ _ _ _ (hthread ▸ hn)]
      have hself := Core.thread_updThread_same x w (fun t => t.advanced v ((x.thread w).slot v).pc) ha
      refine ⟨x.updThread w fun t => t.advanced v ((x.thread w).slot v).pc, by simp [State.updThread, hc],
        ⟨by rw [Core.updThread_eq], fun b hb => Core.thread_updThread_other _ _ _ _ hb, ?_, fun hl => ?_⟩, rfl, rfl, fun u hu => ?_, fun _ _ _ _ => ?_⟩
      · rw [hself, Thread.apart_advanced]
      · rw [hself]
        have hloops := (Thread.advanced_falls (x.thread w) v ((x.thread w).slot v).pc).2.2
        rw [hloops, Thread.loopNext, hl]
      · rw [hself, Thread.advanced_slot_other _ hu]
      · rw [hself]
        have hfalls := Thread.advanced_falls (x.thread w) v ((x.thread w).slot v).pc
        exact ⟨hfalls.1, hfalls.2.1⟩
    · have hstill := hdo.trans (if_neg hgo)
      have hnot : ∀ y, ((x.thread w).slot v).st = .waiting y → ¬ (p y = true ∧ x.acts = true) := by
        intro y hy
        obtain rfl : why = y := by rw [hst] at hy; injection hy
        simpa using hgo
      exact hstays hstill hnot
  · refine hstays ?_ fun why hst => absurd ⟨why, hst⟩ hwaits
    unfold State.releaseSlot
    dsimp only
    split
    · next y hy => exact absurd ⟨y, by rw [← hthread]; exact hy⟩ hwaits
    · rfl

/-- The test on a wait for a grant. -/
def isClaim (why : Wait) : Bool := decide (why = .rclaim)

/-- A block whose oldest claim has been granted (R56). -/
def Core.granted (x : Core) (w need : Nat) (rest : List (Nat × Nat × Nat)) : Core :=
  { x.updThread w (fun t => t.grow need) with claims := rest, pool := x.pool - need }

theorem Core.thread_granted_same (x : Core) (ha : w ≤ apAgent) (need : Nat) (rest : List (Nat × Nat × Nat)) :
    (x.granted w need rest).thread w = (x.thread w).grow need := Core.thread_updThread_same _ _ _ ha

theorem Core.thread_granted_other (x : Core) {y : Nat} (h : y ≠ w) (need : Nat) (rest : List (Nat × Nat × Nat)) :
    (x.granted w need rest).thread y = x.thread y := Core.thread_updThread_other _ _ _ _ h

theorem Core.granted_eq (x : Core) (need : Nat) (rest : List (Nat × Nat × Nat)) :
    x.granted w need rest = { x with thr := (x.granted w need rest).thr, claims := rest, pool := x.pool - need } := by
  rw [Core.granted, Core.updThread_eq]

/-- A grant: the window grows, and a slot that waits for it goes on (R55, R56). -/
theorem State.grantHead_grants {need since : Nat} {rest : List (Nat × Nat × Nat)} (hc : s.core? k = some x) (hclaims : x.claims = (w, need, since) :: rest)
    (ha : w ≤ apAgent) (hn : (x.thread w).ahead = none) (hneed : need ≤ x.pool) (hsince : since < s.now) :
    ∃ y, (s.grantHead k).core? k = some y ∧ (x.granted w need rest).goneOn y w ∧ (s.grantHead k).mem = s.mem ∧ (s.grantHead k).now = s.now ∧
      ∀ v, x.acts = true → ((x.thread w).slot v).st = .waiting .rclaim →
        ((y.thread w).slot v).st = .live ∧ ((x.thread w).loops = [] → ((y.thread w).slot v).pc = nextPc ((x.thread w).slot v).pc) := by
  have hdo : s.grantHead k = ((s.updCore k fun y => y.granted w need rest).releaseSlot k w .a isClaim).releaseSlot k w .b isClaim := by
    simp only [State.grantHead, hc, hclaims, if_pos (And.intro hneed hsince)]
    rfl
  rw [hdo]
  have hc0 : (s.updCore k fun y => y.granted w need rest).core? k = some (x.granted w need rest) := by simp [hc]
  have hself : (x.granted w need rest).thread w = (x.thread w).grow need := x.thread_granted_same ha _ _
  have hn0 : ((x.granted w need rest).thread w).ahead = none := by
    rw [hself]
    exact hn
  obtain ⟨y, hy, hgone1, hmem1, hnow1, hkeep1, hgo1⟩ := State.releaseSlot_spec hc0 ha hn0 .a isClaim
  have ⟨hrest1, _, hapart1, hloops1⟩ := hgone1
  have hny : (y.thread w).ahead = none := (congrArg Thread.ahead hapart1).trans hn0
  obtain ⟨z, hz, hgone2, hmem2, hnow2, hkeep2, hgo2⟩ := State.releaseSlot_spec hy ha hny .b isClaim
  refine ⟨z, hz, hgone1.trans hgone2, hmem2.trans hmem1, hnow2.trans hnow1, fun v hacts hst => ?_⟩
  have hacts1 : (x.granted w need rest).acts = true := by
    rw [Core.granted_eq]
    exact hacts
  have hactsy : y.acts = true := (congrArg Core.acts hrest1).trans hacts1
  have hpc (t : Thread) (pc : W64) (h : t.loops = []) : (t.loopNext pc).1 = nextPc pc := by rw [Thread.loopNext, h]
  cases v with
  | a =>
    have hst0 : (((x.granted w need rest).thread w).slot .a).st = .waiting .rclaim := by
      rw [hself]
      exact hst
    obtain ⟨hlive, hat⟩ := hgo1 .rclaim hst0 rfl hacts1
    rw [hkeep2 .a (by decide)]
    refine ⟨hlive, fun hl => ?_⟩
    rw [hat, hself]
    exact hpc _ _ hl
  | b =>
    have hsame : (y.thread w).slot .b = (x.thread w).slot .b := by
      rw [hkeep1 .b (by decide), hself]
      rfl
    obtain ⟨hlive, hat⟩ := hgo2 .rclaim (by rw [hsame]; exact hst) rfl hactsy
    refine ⟨hlive, fun hl => ?_⟩
    rw [hat, hsame]
    exact hpc _ _ (hloops1 (by rw [hself]; exact hl))

/-- The end of the cycles before this one: what was released, then the grants (R56). -/
theorem State.endCycles_eq (s : State) (k : Nat) :
    s.endCycles k = (List.range' 1 15).foldl (fun s _ => s.grantHead k) ((s.updCore k (Core.poolPassed s.now)).grantHead k) := by
  have hall : s.endCycles k = (List.range 16).foldl (fun s _ => s.grantHead k) (s.updCore k (Core.poolPassed s.now)) := rfl
  rw [hall, show List.range 16 = 0 :: List.range' 1 15 by decide, List.foldl_cons]

theorem Core.poolPassed_pool (now : Nat) (x : Core) :
    (x.poolPassed now).pool = x.pool + ((x.released.filter fun r => decide (r.1 < now)).map Prod.snd).sum := by rw [← releasedBefore_eq]; rfl

theorem Core.poolPassed_released (now : Nat) (x : Core) : (x.poolPassed now).released = x.released.filter fun r => !decide (r.1 < now) := by
  refine List.filter_congr fun r _ => ?_
  rw [← decide_not]
  exact decide_eq_decide.mpr Nat.not_lt.symm

theorem State.endCycles_grants {need since : Nat} {rest : List (Nat × Nat × Nat)} (hc : s.core? k = some x) (hclaims : x.claims = (w, need, since) :: rest)
    (ha : w ≤ apAgent) (hn : (x.thread w).ahead = none) (hneed : need ≤ (x.poolPassed s.now).pool) (hsince : since < s.now)
    (hnext : ∀ y ∈ rest.head?, (x.poolPassed s.now).pool < need + y.2.1 ∨ s.now ≤ y.2.2) :
    ∃ y, (s.endCycles k).core? k = some y ∧ ((x.poolPassed s.now).granted w need rest).goneOn y w ∧ (s.endCycles k).mem = s.mem ∧
      ∀ v, x.acts = true → ((x.thread w).slot v).st = .waiting .rclaim →
        ((y.thread w).slot v).st = .live ∧ ((x.thread w).loops = [] → ((y.thread w).slot v).pc = nextPc ((x.thread w).slot v).pc) := by
  have hc1 : (s.updCore k (Core.poolPassed s.now)).core? k = some (x.poolPassed s.now) := by simp [hc]
  obtain ⟨y, hy, hgone, hmem, hnow, hgo⟩ := State.grantHead_grants hc1 hclaims ha hn hneed hsince
  have hrest : { y with thr := [] } = { (x.poolPassed s.now).granted w need rest with thr := [] } := hgone.1
  rw [Core.granted_eq] at hrest
  have hidle : ∀ z ∈ y.claims.head?, y.pool < z.2.1 ∨ ((s.updCore k (Core.poolPassed s.now)).grantHead k).now ≤ z.2.2 := by
    rw [(congrArg Core.claims hrest :), (congrArg Core.pool hrest :), hnow]
    intro z hz
    exact (hnext z hz).imp (fun h => by simp only; omega) id
  rw [State.endCycles_eq, State.grants_idle hy hidle]
  exact ⟨y, hy, hgone, hmem, hgo⟩

theorem State.endCycles_idle (hc : s.core? k = some x) (h : ∀ y ∈ x.claims.head?, (x.poolPassed s.now).pool < y.2.1 ∨ s.now ≤ y.2.2) :
    s.endCycles k = s.updCore k (Core.poolPassed s.now) := by
  have hc1 : (s.updCore k (Core.poolPassed s.now)).core? k = some (x.poolPassed s.now) := by simp [hc]
  rw [State.endCycles_eq, State.grantHead_idle hc1 h, State.grants_idle hc1 h]

/-- A block that is resident stays so when cycles end. -/
theorem State.endCycles_isSome (hc : (s.core? k).isSome) : ((s.endCycles k).core? k).isSome := by
  have hslot (u : State) (w : Nat) (v : SlotId) (p : Wait → Bool) (hu : (u.core? k).isSome) : ((u.releaseSlot k w v p).core? k).isSome := by
    unfold State.releaseSlot
    dsimp only
    split
    · split
      · simpa [State.advance, State.updThread] using hu
      · exact hu
    · exact hu
  have hgrant (u : State) (hu : (u.core? k).isSome) : ((u.grantHead k).core? k).isSome := by
    unfold State.grantHead
    split
    · exact hu
    · split
      · split
        · exact hslot _ _ _ _ (hslot _ _ _ _ (by simpa using hu))
        · exact hu
      · exact hu
  have hgrants (l : List Nat) (u : State) (hu : (u.core? k).isSome) : ((l.foldl (fun s _ => s.grantHead k) u).core? k).isSome := by
    induction l generalizing u with
    | nil => exact hu
    | cons y l ih => exact ih _ (hgrant u hu)
  exact hgrants _ _ (by simpa using hc)

end

/-! ## Releases and claims of a warp -/

theorem looseWindow_besideThreads : looseWindow.besideThreads := fun _ _ => rfl

theorem looseWindow_advanced (t : Thread) (w : SlotId) (tpc : W64) : looseWindow.thread (t.advanced w tpc) = (looseWindow.thread t).advanced w tpc := by
  cases w <;> rfl

theorem looseWindow_except (t : Thread) (now : Nat) (w : SlotId) (ss ps : List Nat) :
    looseWindow.thread (t.except now w [] ss ps) = (looseWindow.thread t).except now w [] ss ps := by
  cases w <;> rfl

/-- A window without its top registers (R55). -/
def Thread.shrink (t : Thread) (m : Nat) : Thread := { t with v := t.v.take (t.window - m), window := t.window - m }

theorem Thread.vreg_shrink (t : Thread) (m : Nat) {n : Nat} (h : n < t.window - m) : (t.shrink m).vreg n = t.vreg n := by
  simp [Thread.vreg, Thread.shrink, nth, h]

theorem Core.release_eq (x : Core) (now n : Nat) : x.release now n = { x with released := x.released ++ if n = 0 then [] else [(now, n)] } := by
  unfold Core.release
  split <;> simp

theorem blend_allLanes (x y : W32) : blend allLanes x y = x := by
  have hall : allLanes = BitVec.allOnes 32 := by decide
  rw [blend, hall, BitVec.and_allOnes, BitVec.not_allOnes, BitVec.and_zero, BitVec.or_zero]

section
variable {c : Ctx} {s : State}

/-- A predicate written in every lane, after which the slot goes on. -/
theorem Ctx.predAll_spec (d : Nat) (v : W32) (hp : c.present s) (hn : (c.my s).ahead = none) :
    let t := c.next (c.putPAll s d v)
    (c.my t).pval d = (if d = 7 then allLanes else v) ∧ (c.my t).v = (c.my s).v ∧ (c.my t).window = (c.my s).window ∧ c.falls s t ∧
      c.rest t [] [] [d] = c.rest s [] [] [d] := by
  have hnm : isNamed [] [] [d] (.p d) = true := by simp [isNamed]
  obtain ⟨hmy, hfalls, hrest⟩ := Ctx.write_next c s
    (fun t => ((t.remember s.now c.form.lat (.p d) allLanes).supersede (.p d) allLanes).setP d allLanes v) [] [] [d] hp hn
    (fun t => by rw [(Thread.setP_fields _ _ _ _).2.2.1]; rfl)
    (fun t => by rw [(Thread.setP_fields _ _ _ _).2.2.2.1]; rfl)
    (fun t => by rw [Thread.except_setP _ _ _ _ _ _ _ _ _ (by simp), Thread.except_supersede _ _ _ _ _ _ _ _ hnm,
      Thread.except_remember _ _ _ _ _ _ _ _ _ hnm])
  obtain ⟨hv, -, hpreds, -⟩ := Thread.advanced_fields
    (((c.my s).remember s.now c.form.lat (.p d) allLanes).supersede (.p d) allLanes |>.setP d allLanes v) c.iss.slot c.iss.tpc
  obtain ⟨hv', -, -, -, -, hwindow⟩ := Thread.setP_fields (((c.my s).remember s.now c.form.lat (.p d) allLanes).supersede (.p d) allLanes) d allLanes v
  refine ⟨?_, (congrArg Thread.v hmy).trans (hv.trans hv'), ?_, hfalls, hrest⟩
  · split
    · next h => simp [Thread.pval, h]
    · next h =>
      have hsame : (c.my (c.next (c.putPAll s d v))).pval d =
          ((((c.my s).remember s.now c.form.lat (.p d) allLanes).supersede (.p d) allLanes).setP d allLanes v).pval d := by
        have hp : (c.my (c.next (c.putPAll s d v))).p = _ := (congrArg Thread.p hmy).trans hpreds
        rw [Thread.pval, hp, Thread.pval]
      rw [hsame, Thread.pval_setP _ _ _ _ h, blend_allLanes]
  · refine (congrArg Thread.window hmy).trans (Eq.trans ?_ hwindow)
    exact (congrArg Thread.window (Thread.apart_advanced _ _ _) :)

end

section
variable {s s1 : State} {c : Ctx} {d k : BitVec 6} {i : Instr}

/-- A block in which a claim has joined the queue. -/
def Core.claiming (x : Core) (mine : Nat × Nat × Nat) : Core := { x with claims := addClaim mine x.claims }

/-- What an instruction reads of its window is what the package holds. -/
theorem State.acting_window (h : s.acting i = some (c, s1)) : c.th.window = (c.my s1).window := by
  obtain ⟨v, sr, p, hth⟩ := State.acting_thread h
  rw [hth]

/-- The checks of the window pass in a warp that has converged, within the limits (R55). -/
theorem windowCheck_passes {ok : Nat → Bool} (hconv : c.core.converged c.a = true) (hok : ok c.th.window = true) : windowCheck ok c s1 = none := by
  simp [windowCheck, hconv, hok]

/-- A warp that has not converged takes a trap (R55, R104 e). -/
theorem windowCheck_diverged {ok : Nat → Bool} (hconv : c.core.converged c.a = false) : windowCheck ok c s1 = some 0x0C#8 := by
  simp [windowCheck, hconv]

theorem rgive_gives (h : s.acting (.rgive k) = some (c, s1)) (hconv : c.core.converged c.a = true) (hlow : 16 + 8 * k.toNat ≤ c.th.window)
    (hgl : c.th.counter .gl = 0) (hlo : c.th.counter .lo = 0) :
    let m := 8 * k.toNat
    ∃ t, exec (.rgive k) s = .next t ∧ (c.my t).window = c.th.window - m ∧ (c.here t).pool = c.core.pool ∧
      (c.here t).released = c.core.released ++ (if m = 0 then [] else [(s1.now, m)]) ∧
      (∀ n < c.th.window - m, (c.my t).vreg n = (c.my s1).vreg n) ∧ (c.here t).claims = c.core.claims ∧ c.falls s1 t ∧
      c.rest t [] [] [] looseWindow = c.rest s1 [] [] [] looseWindow := by
  intro m
  have hp := State.acting_present h
  have hdo : exec (.rgive k) s = .next (c.next ((s1.updThread c.k c.a fun t => t.shrink m).updCore c.k fun x => x.release s1.now m)) := by
    rw [State.updThread, State.updCore_updCore]
    exact (issue_acting h _ _ (windowCheck_passes hconv (by simpa using hlow))).trans (congrArg _ (if_pos ⟨hgl, hlo⟩))
  have hp2 := Ctx.present_updThread hp fun t => t.shrink m
  have hmy : c.my ((s1.updThread c.k c.a fun t => t.shrink m).updCore c.k fun x => x.release s1.now m) = (c.my s1).shrink m := by
    rw [Ctx.my_updCore hp2 fun x => by rw [Core.release_eq], Ctx.my_updThread hp]
  have hn : (c.my ((s1.updThread c.k c.a fun t => t.shrink m).updCore c.k fun x => x.release s1.now m)).ahead = none := by
    rw [hmy]
    exact State.acting_notAhead h
  have hmyt := (Ctx.my_next (Ctx.present_updCore hp2 _) hn).trans (by rw [hmy])
  have hapart := (congrArg Thread.apart hmyt).trans (Thread.apart_advanced _ _ _)
  have hhere {α : Type} (F : Core → α) (hF : ∀ x thr, F { x with thr := thr } = F x) :
      F (c.here (c.next ((s1.updThread c.k c.a fun t => t.shrink m).updCore c.k fun x => x.release s1.now m))) =
        F { c.core with released := c.core.released ++ if m = 0 then [] else [(s1.now, m)] } := by
    rw [Ctx.here_next hF, Ctx.here_updCore hp2, Core.release_eq, ← State.acting_here h]
    exact Ctx.here_updThread (F := fun y => F { y with released := y.released ++ if m = 0 then [] else [(s1.now, m)] })
      (fun y thr => hF { y with released := y.released ++ if m = 0 then [] else [(s1.now, m)] } thr) _ _ _
  have hwin := State.acting_window h
  refine ⟨_, hdo, ?_, hhere Core.pool fun _ _ => rfl, hhere Core.released fun _ _ => rfl, fun n hlt => ?_, hhere Core.claims fun _ _ => rfl,
    Ctx.falls_of_loops (Ctx.falls_next (Ctx.present_updCore hp2 _) hn) (by rw [hmy]; rfl), ?_⟩
  · rw [hwin]
    exact (congrArg Thread.window hapart :)
  · rw [hwin] at hlt
    exact (congrArg (fun t => Thread.vreg t n) hapart :).trans (Thread.vreg_shrink _ _ hlt)
  · rw [Ctx.rest_next looseWindow_besideThreads looseWindow_advanced hn, Ctx.rest_updCore fun y => by rw [Core.release_eq]; rfl]
    exact Ctx.rest_loosenThread looseWindow_besideThreads fun _ => rfl

theorem rgive_waits (h : s.acting (.rgive k) = some (c, s1)) (hconv : c.core.converged c.a = true) (hlow : 16 + 8 * k.toNat ≤ c.th.window)
    (hbusy : ¬ (c.th.counter .gl = 0 ∧ c.th.counter .lo = 0)) :
    ∃ t, exec (.rgive k) s = .next t ∧ c.waits s1 t .rgive ∧ c.rest t [] [] [] looseRun = c.rest s1 [] [] [] looseRun :=
  ⟨_, (issue_acting h _ _ (windowCheck_passes hconv (by simpa using hlow))).trans (congrArg _ (if_neg hbusy)), Ctx.wait_spec (State.acting_present h) _⟩

theorem rclaim_joins (h : s.acting (.rclaim k) = some (c, s1)) (hconv : c.core.converged c.a = true) (hhigh : c.th.window + 8 * k.toNat ≤ 64) :
    let mine := (c.a, 8 * k.toNat, s1.now)
    ∃ t, exec (.rclaim k) s = .next t ∧ c.waits s1 t .rclaim ∧ (c.here t).claims = addClaim mine c.core.claims ∧ (c.here t).pool = c.core.pool ∧
      (c.my t).window = c.th.window ∧ (c.my t).v = (c.my s1).v ∧ c.rest t [] [] [] looseWindow = c.rest s1 [] [] [] looseWindow := by
  intro mine
  have hp := State.acting_present h
  have hdo : exec (.rclaim k) s = .next (c.wait .rclaim (s1.updCore c.k fun x => x.claiming mine)) :=
    issue_acting h _ _ (windowCheck_passes hconv (by simpa using hhigh))
  have hp2 := Ctx.present_updCore hp fun x => x.claiming mine
  have hmy : c.my (s1.updCore c.k fun x => x.claiming mine) = c.my s1 := Ctx.my_updCore hp fun _ => rfl
  have hhere : c.here (s1.updCore c.k fun x => x.claiming mine) = c.core.claiming mine := by
    rw [Ctx.here_updCore hp, State.acting_here h]
  have hslot {α : Type} (F : Thread → α) (hF : ∀ (t : Thread) w f, F (t.updSlot w f) = F t) :
      F (c.my (c.wait .rclaim (s1.updCore c.k fun x => x.claiming mine))) = F (c.my s1) := by
    rw [Ctx.my_wait hp2, hF, hmy]
  refine ⟨_, hdo, Ctx.waits_of_my (Ctx.waits_wait hp2 _) hmy, ?_, ?_, ?_, hslot Thread.v fun t w f => by cases w <;> rfl, ?_⟩
  · exact (Ctx.here_wait (F := Core.claims) hp2 (fun _ _ => rfl) (fun _ _ => rfl) _).trans (congrArg Core.claims hhere :)
  · exact (Ctx.here_wait (F := Core.pool) hp2 (fun _ _ => rfl) (fun _ _ => rfl) _).trans (congrArg Core.pool hhere :)
  · rw [State.acting_window h]
    exact hslot Thread.window fun t w f => by cases w <;> rfl
  · rw [Ctx.rest_wait looseWindow_besideThreads (fun _ _ => rfl) fun t w f => by cases w <;> rfl]
    exact Ctx.rest_updCore fun _ => rfl

/-- The package once `RCLAIM.t` has taken its registers. -/
def State.taken (s : State) (k a m : Nat) : State := (s.updThread k a fun t => t.grow m).updCore k fun x => { x with pool := x.pool - m }

/-- Whether a claim is met at once: nobody waits before it, and the pool holds enough (R55). -/
def Core.meets (x : Core) (m : Nat) : Bool := x.claims.isEmpty && decide (m ≤ x.pool)

theorem rclaimT_does (h : s.acting (.rclaimT d k) = some (c, s1)) (hconv : c.core.converged c.a = true) (hhigh : c.th.window + 8 * k.toNat ≤ 64) :
    let m := 8 * k.toNat
    let s2 := s1.endCycles c.k
    let got := (c.here s2).meets m
    exec (.rclaimT d k) s = .next (c.next (c.putPAll (if got then s2.taken c.k c.a m else s2) d.toNat (spread got))) := by
  intro m s2 got
  obtain ⟨x, hx⟩ := Option.isSome_iff_exists.mp (State.endCycles_isSome (s := s1) (State.acting_present h).1)
  have hgot : (s2.core? c.k).any (fun x => x.claims.isEmpty && decide (m ≤ x.pool)) = got := by
    simp only [got, Ctx.here, s2, hx, Option.any_some, Option.getD_some, Core.meets]
  have hpool (y : Core) : ({ y.updThread c.a (fun t => t.grow m) with pool := y.pool - m } : Core) =
      { y.updThread c.a (fun t => t.grow m) with pool := (y.updThread c.a fun t => t.grow m).pool - m } := by rw [Core.updThread_eq]
  refine (issue_acting h _ _ (windowCheck_passes hconv (by simpa using hhigh))).trans (congrArg _ ?_)
  simp only [State.taken, State.updThread, State.updCore_updCore, ← hpool]
  rw [← hgot]

theorem Ctx.taken_spec {s2 : State} (hp : c.present s2) (m : Nat) :
    let t := s2.taken c.k c.a m
    c.present t ∧ c.my t = (c.my s2).grow m ∧ (c.here t).claims = (c.here s2).claims ∧ (c.here t).pool = (c.here s2).pool - m ∧
      ∀ vs ss ps, c.rest t vs ss ps looseWindow = c.rest s2 vs ss ps looseWindow := by
  intro t
  have hp2 := Ctx.present_updThread hp fun u => u.grow m
  refine ⟨Ctx.present_updCore hp2 _, ?_, ?_, ?_, fun vs ss ps => ?_⟩
  · rw [← Ctx.my_updThread hp fun u => u.grow m]
    exact Ctx.my_updCore hp2 fun _ => rfl
  · exact (congrArg Core.claims (Ctx.here_updCore hp2 _)).trans (Ctx.here_updThread (F := Core.claims) (fun _ _ => rfl) _ _ _)
  · exact (congrArg Core.pool (Ctx.here_updCore hp2 _)).trans (Ctx.here_updThread (F := fun x => x.pool - m) (fun _ _ => rfl) _ _ _)
  · exact (Ctx.rest_updCore (g := fun x => { x with pool := x.pool - m }) fun _ => rfl).trans
      (Ctx.rest_loosenThread (g := fun u => u.grow m) looseWindow_besideThreads fun _ => rfl)

theorem Ctx.takes_spec {s2 : State} (hp : c.present s2) (hn : (c.my s2).ahead = none) (m d : Nat) :
    let t := c.next (c.putPAll (if (c.here s2).meets m then s2.taken c.k c.a m else s2) d (spread ((c.here s2).meets m)))
    let got : Prop := (c.here s2).claims = [] ∧ m ≤ (c.here s2).pool
    let bits (x : W32) : W32 := if d = 7 then allLanes else x
    c.falls s2 t ∧ (c.here t).claims = (c.here s2).claims ∧ c.rest t [] [] [d] looseWindow = c.rest s2 [] [] [d] looseWindow ∧
      (got → (c.my t).pval d = bits allLanes ∧ (c.here t).pool = (c.here s2).pool - m ∧ (c.my t).window = (c.my s2).window + m ∧
        (c.my t).v = (c.my s2).v ++ List.replicate m VReg.zero) ∧
      (¬ got → (c.my t).pval d = bits 0#32 ∧ (c.here t).pool = (c.here s2).pool ∧ (c.my t).window = (c.my s2).window ∧ (c.my t).v = (c.my s2).v) := by
  intro t got bits
  have hhere {α : Type} (F : Core → α) (hF : ∀ x thr, F { x with thr := thr } = F x) (u : State) (v : W32) :
      F (c.here (c.next (c.putPAll u d v))) = F (c.here u) := (Ctx.here_next hF).trans (Ctx.here_updThread hF _ _ _)
  have hgot : (c.here s2).meets m = true ↔ got := by simp [Core.meets, got]
  by_cases hmeets : (c.here s2).meets m = true
  · have hyes := hgot.mp hmeets
    obtain ⟨hp3, hmy3, hclaims3, hpool3, hrest3⟩ := Ctx.taken_spec hp m
    obtain ⟨hpval, hv, hwindow, hfalls, hrest⟩ := Ctx.predAll_spec d allLanes hp3 (by rw [hmy3]; exact hn)
    have ht : t = c.next (c.putPAll (s2.taken c.k c.a m) d allLanes) := by simp only [t, hmeets, if_true, spread]
    rw [hmy3] at hv hwindow
    rw [ht]
    exact ⟨Ctx.falls_of_loops hfalls (by rw [hmy3]; rfl), (hhere Core.claims (fun _ _ => rfl) _ _).trans hclaims3,
      (Ctx.rest_loosen hrest looseWindow_besideThreads (fun u _ => looseWindow_except u _ _ _ _) rfl).trans (hrest3 _ _ _),
      fun _ => ⟨hpval, (hhere Core.pool (fun _ _ => rfl) _ _).trans hpool3, hwindow, hv⟩, fun hno => absurd hyes hno⟩
  · have hno : ¬ got := fun hyes => hmeets (hgot.mpr hyes)
    obtain ⟨hpval, hv, hwindow, hfalls, hrest⟩ := Ctx.predAll_spec d 0#32 hp hn
    have ht : t = c.next (c.putPAll s2 d 0#32) := by simp [t, hmeets, spread]
    rw [ht]
    exact ⟨hfalls, hhere Core.claims (fun _ _ => rfl) _ _, Ctx.rest_loosen hrest looseWindow_besideThreads (fun u _ => looseWindow_except u _ _ _ _) rfl, fun hyes => absurd hyes hno,
      fun _ => ⟨hpval, hhere Core.pool (fun _ _ => rfl) _ _, hwindow, hv⟩⟩

end

theorem exec_claimGrant (k : Nat) (s : State) : exec (.claimGrant k) s = .next (s.endCycles k) := rfl

end Sys2Proof.Machine

open Sys2Proof Sys2Proof.Machine

/-- Settles O29: what each instruction does to a window, and the ends of the cycles (`State.endCycles_grants`, `State.endCycles_idle`). -/
theorem windowsShrinkAndGrow : Obligations.WindowsShrinkAndGrow := by
  unfold Obligations.WindowsShrinkAndGrow
  refine ⟨fun d k s s1 c => ?_, fun s k w need since core rest hc hclaims hw hn => ?_⟩
  · intro m before
    refine ⟨fun h hconv hlow => ⟨rgive_gives h hconv hlow, rgive_waits h hconv hlow⟩, fun h hconv hhigh => ?_, fun h hconv hhigh => ?_, fun hconv => ?_⟩
    · obtain ⟨l, r, hsplit, hadd, hl, hr⟩ := addClaim_split (c.a, m, s1.now) c.core.claims
      obtain ⟨t, hdo, hwaits, hclaims, hpool, hwindow, hv, hrest⟩ := rclaim_joins h hconv hhigh
      exact ⟨t, l, r, hdo, hwaits, hsplit, hclaims.trans hadd, hl, hr, hpool, hwindow, hv, hrest⟩
    · exact ⟨_, rclaimT_does h hconv hhigh, Ctx.takes_spec ⟨State.endCycles_isSome (State.acting_present h).1, (State.acting_present h).2⟩
        (State.endCycles_staysOut _ _ _ _ (State.acting_notAhead h)) _ _⟩
    · exact ⟨fun h => issue_acting_fails h _ _ (windowCheck_diverged hconv), fun h => issue_acting_fails h _ _ (windowCheck_diverged hconv),
        fun h => issue_acting_fails h _ _ (windowCheck_diverged hconv)⟩
  · have ha : w ≤ apAgent := by unfold apAgent; omega
    rw [← Core.poolPassed_pool, ← Core.poolPassed_released]
    refine ⟨fun hneed hsince hnext => ?_, fun hnot => ?_⟩
    · obtain ⟨y, hy, ⟨hfields, hothers, hapart, -⟩, hmem, hgo⟩ := State.endCycles_grants hc hclaims ha hn hneed hsince hnext
      rw [Core.granted_eq] at hfields
      have hgrown := hapart.trans (congrArg Thread.apart (Core.thread_granted_same _ ha _ _))
      exact ⟨_, y, rfl, hy, (congrArg Core.pool hfields :), (congrArg Core.claims hfields :), (congrArg Core.released hfields :),
        (congrArg Thread.window hgrown :), (congrArg Thread.v hgrown :), hgo, fun z hz => (hothers z hz).trans (Core.thread_granted_other _ hz _ _), hmem⟩
    · have hidle := State.endCycles_idle hc (by simpa [hclaims] using hnot)
      exact ⟨s.updCore k (Core.poolPassed s.now), core.poolPassed s.now, by rw [exec_claimGrant, hidle], by simp [hc], rfl, rfl, rfl, rfl, rfl⟩

end

section
/-! PROOFS. A local load of an address that the poison marks of its lane's slice do not reach (O43). -/

namespace Sys2Proof.Machine

/-! ## The counterexample

The poison marks of the lane store of a thread have keys `laneSector lane sec = 65536 · lane + sec`, and a load of a lane finds the marks of the keys from
`65536 · lane` to `65536 · lane + 65535` alone. The statement bounds no address, so an element of lane 0 may lie at 2 MiB, sector 65536 of its slice: the key
`laneSector 0 65536` of that sector is the one of sector 0 of lane 1, whose mark the load of lane 0 does not find. No instruction issues such an access,
since a slice ends below 2 MiB (R187, R262, R265). -/

/-- A 32-bit element of lane 0 at 2 MiB of its slice. -/
def farElem : Elem := { lane := 0, va := 0x200000, off := 0, size := 2, op := .read, got := 0#128, poison := false }

/-- A load of that element into lane 0 of `v0`. -/
def farLoad : Access :=
  { tag := 0, kind := .load, path := .lo, space := .ls, mode := .normal, scalar := false, dst := 0, dests := [(.v 0, 1#32)], size := 2, pc := 0#64,
    lanes := 1#32, absent := 0#32, reqs := [], elems := [farElem], landed := [], extra := [], taint := 0#32, stuck := false, done := false }

/-- A warp that has issued it, with sector 0 of its lane 1 marked. -/
def farWarp : Thread := { Thread.absent with v := [VReg.zero], window := 1, inflight := [farLoad], lsPoison := [laneSector 1 0] }

/-- Its block. -/
def farBlock : Core := { Core.start State.reset [] placedLaunch 0 0 0 0 0 0 0 0 with phase := .running, thr := [farWarp] }

/-- The block alone in a package. -/
def farState : State := { State.reset with cores := [(0, farBlock)] }

/-- The load delivers its lane without a mark. -/
theorem farLoad_returns_unmarked :
    ((farState.returnAccess 0 0 0 0).core? 0).map (fun u => bit ((u.thread 0).vreg 0).poison 0) = some false := by decide

end Sys2Proof.Machine

open Sys2Proof Sys2Proof.Machine

/-- Refutes O43: a load of lane 0 at 2 MiB of its slice returns unmarked, while the key of that sector, which is also that of lane 1's sector 0, is marked. -/
theorem not_localLoadsReturnWhatTheyFind : ¬ Obligations.LocalLoadsReturnWhatTheyFind := by
  unfold Obligations.LocalLoadsReturnWhatTheyFind
  intro h
  obtain ⟨hload, -⟩ := h farState 0 0 0 farBlock farLoad rfl rfl (by decide) (by decide) rfl rfl rfl rfl rfl rfl rfl (by decide) rfl
    (by simp [farLoad, farElem, Elem.fits, Elem.byte, sizeBytes]) (by decide) (by decide)
  obtain ⟨t, u, hexec, hu, ⟨hvectors, -⟩, -⟩ := hload rfl (by decide)
  obtain ⟨-, hpoison, -⟩ := hvectors 0 0 1#32 rfl (by decide) 0 (by decide)
  have ht : t = farState.returnAccess 0 0 0 0 := by
    injection hexec with ht
    exact ht.symm
  have hunmarked := farLoad_returns_unmarked
  rw [← ht, hu] at hunmarked
  have hclear : bit ((u.thread 0).vreg 0).poison 0 = false := by simpa using hunmarked
  rw [hclear] at hpoison
  exact absurd hpoison (by decide)

end

section
/-! PROOFS. A write that arrives marks an invalidation that waits in the same inbox (O55). -/

namespace Sys2Proof.Machine

/-! ## The counterexample

A write that is performed marks every invalidation of its line that is under way from the line's home, in the network and in the inboxes (R335). The statement
has the inbox of the home die lose the write and stay as it was otherwise; so an invalidation of the line that waits there from the home itself, which the
statement does not rule out, is marked against it. A home sends its invalidations to other dies only (R281), so that no run has such a message. -/

/-- A write of die 1 to the first bytes of line 0, whose home is die 0. -/
def markingWrite : LineReq := { engineReq 0 [engineElem 0 2 (.put 1#128)] with die := 1 }

/-- The message that carries it. -/
def markingMsg : Msg := { src := 1, dst := 0, seq := 1, stamp := List.replicate 12 0#32, body := .write markingWrite }

/-- An invalidation of line 0 from its home. -/
def ownInvalidation : Msg := { src := 0, dst := 0, seq := 1, stamp := List.replicate 12 0#32, body := .invalidate 0 [] }

/-- A package after reset in which both wait at die 0. -/
def markingState : State := State.reset.updDie 0 fun d => { d with inbox := [markingMsg, ownInvalidation] }

/-- The writers that the invalidations in an inbox are marked with. -/
def inboxMarks (ms : List Msg) : List (Nat × Nat) := ms.flatMap fun m => match m.body with
  | .invalidate _ marks => marks
  | _ => []

/-- The line is one that a write allocates without an eviction. -/
theorem markingState_easyLine : markingState.easyLine 0 3 := by
  refine ⟨⟨?_, ?_⟩, ?_, ?_, ?_⟩ <;> decide +kernel

theorem markingMsg_deliverable : markingState.deliverable markingMsg = true := by decide +kernel

/-- The write leaves die 0 with the invalidation marked. -/
theorem markingMsg_marks {t : State} (h : execRemoteWriteApply 0 0 markingState = .next t) : inboxMarks (t.die 0).inbox = [(0, 19)] := by
  have hmarks : (match execRemoteWriteApply 0 0 markingState with | .next u => inboxMarks (u.die 0).inbox | _ => []) = [(0, 19)] := by decide +kernel
  rw [h] at hmarks
  exact hmarks

end Sys2Proof.Machine

open Sys2Proof Sys2Proof.Machine

/-- Refutes O55: a write from another die, performed at its home, does not leave the rest of the inbox as it was, since it marks an invalidation of its line
there (R335). -/
theorem not_trafficIsCarriedInOrder : ¬ Obligations.TrafficIsCarriedInOrder := by
  unfold Obligations.TrafficIsCarriedInOrder
  rintro ⟨-, hinbox, -⟩
  obtain ⟨hwrite, -⟩ := hinbox markingState 0 0 markingMsg (by decide) rfl (by decide) (by decide)
  obtain ⟨happly, -⟩ := hwrite markingWrite rfl
  obtain ⟨t, hexec, htaken, -⟩ := happly markingMsg_deliverable (by decide) (by decide) markingState_easyLine (by decide +kernel) rfl rfl (by decide +kernel)
    (by simp [markingWrite, engineReq, engineElem, Elem.fits, Elem.byte, sizeBytes])
  have hunmarked : inboxMarks (t.die 0).inbox = [] := congrArg inboxMarks htaken
  rw [markingMsg_marks hexec] at hunmarked
  exact absurd hunmarked (by decide)

end

section
/-! PROOFS. Entering a handler and leaving it (R68, R69, R131, R132), as the instruction that does it sees it. -/

namespace Sys2Proof.Machine

/-! ## What an acting instruction reads beside the registers -/

/-- What is no register of its thread an instruction reads as the package holds it. -/
theorem State.acting_field {s s1 : State} {i : Instr} {c : Ctx} {α : Type} (h : s.acting i = some (c, s1)) {F : Thread → α}
    (hF : ∀ (t : Thread) v sr p, F { t with v := v, s := sr, p := p } = F t) : F c.th = F (c.my s1) := by
  obtain ⟨v, sr, p, hth⟩ := State.acting_thread h
  rw [hth, hF]

/-! ## The run that ends (R31) -/

theorem State.endRun_eq (s : State) (k a : Nat) : ∃ f : Core → List Port, s.endRun k a = s.updCore k fun x => { x with ports := f x } := by
  unfold State.endRun
  split
  · refine ⟨Core.ports, ?_⟩
    simp only [State.updCore, KMap.alter_id]
  · exact ⟨_, rfl⟩

/-- No run of a warp is left on its port once it has been ended. -/
theorem State.endRun_ends {s : State} {k a : Nat} {core : Core} (w : SlotId) (ha : a < 16) (h : (s.endRun k a).core? k = some core) :
    (core.portOf a).run ≠ some (a, w) := by
  rw [State.endRun, if_neg (by omega), State.core?_updCore_same] at h
  obtain ⟨x, -, rfl⟩ := Option.map_eq_some_iff.mp h
  simp only [Core.portOf, nth_alterPad_same]
  cases hrun : (nth x.ports (a % 4) Port.idle).run with
  | none => simp [hrun]
  | some r => by_cases hr : r.1 = a <;> simp [hr, hrun, Prod.ext_iff]

section
variable {c : Ctx} {s : State} {vs ss ps : List Nat}

theorem Ctx.runEnded_endRun (c : Ctx) (s : State) : c.runEnded (s.endRun c.k c.a) := fun _ hcore ha => State.endRun_ends _ ha hcore

theorem Ctx.my_endRun (c : Ctx) (s : State) : c.my (s.endRun c.k c.a) = c.my s := State.thread_endRun _ _ _ _ _

/-! ## Frames of a trap -/

theorem looseTrap_besideThreads : looseTrap.besideThreads := fun _ _ => rfl

theorem Ctx.rest_endRun : c.rest (s.endRun c.k c.a) vs ss ps looseTrap = c.rest s vs ss ps looseTrap := by
  obtain ⟨f, hf⟩ := s.endRun_eq c.k c.a
  rw [hf]
  exact Ctx.rest_updCore fun _ => rfl

/-- A counter of a core lies in the tables of its die that belong to its cores. -/
theorem State.countCore_die (s : State) (k d : Nat) (f : CoreCounters → CoreCounters) :
    { (s.countCore k f).die d with cores := [] } = { s.die d with cores := [] } := by
  by_cases hd : d = dieOfCore k ∧ d < 12
  · obtain ⟨rfl, hlt⟩ := hd
    rw [State.countCore, State.die_updDie_same _ _ hlt]
    split <;> rfl
  · by_cases hk : d = dieOfCore k
    · rw [State.countCore, State.updDie, if_neg (by subst hk; exact fun h => hd ⟨rfl, h⟩)]
    · rw [State.countCore, State.die_updDie_other _ _ hk]

theorem Ctx.rest_countCore (f : CoreCounters → CoreCounters) : c.rest (s.countCore c.k f) vs ss ps looseTrap = c.rest s vs ss ps looseTrap := by
  have hdies : ((List.range Config.dies).map fun d => { (s.countCore c.k f).die d with cores := [] }) =
      (List.range Config.dies).map fun d => { s.die d with cores := [] } := by simp only [State.countCore_die]
  obtain ⟨ds, hds⟩ : ∃ ds, s.countCore c.k f = { s with dies := ds } := by
    unfold State.countCore State.updDie
    split
    · exact ⟨_, rfl⟩
    · exact ⟨s.dies, rfl⟩
  rw [hds] at hdies ⊢
  exact congrArg (fun ds => { ({ c.rest s vs ss ps looseTrap with dies := ds } : State) with free := 0 }) hdies

/-! ## Entering a handler (R68, R132) -/

/-- What the handler of an instruction's trap begins with; the rest is as it was. -/
theorem Ctx.enterHandler_enters {core : Core} (hc : s.core? c.k = some core) (ha : c.a ≤ apAgent) (entry : W32) {x : TrapInfo} (hpc : x.pc = c.iss.pc) :
    c.entersHandler s (s.enterHandler c.k c.a c.iss.slot x (c.core.launch.code + entry.setWidth 64)) entry x.code x.detail x.resume x.mask := by
  have he := State.enterHandler_enters hc ha c.iss.slot x (c.core.launch.code + entry.setWidth 64)
  refine ⟨⟨congrArg Slot.st he.slot, congrArg Slot.pc he.slot, ?_⟩, he.cause.trans (causeWord_eq _ _ _ _), he.pc.trans hpc, he.mask, he.handler,
    c.runEnded_endRun _, ?_⟩
  · rw [State.enterHandler, Ctx.my_endRun, Ctx.my, State.thread_countCore, State.thread_updThread hc ha, Ctx.my, State.thread_of_core _ _ _ _ hc]
    cases c.iss.slot <;> rfl
  · rw [State.enterHandler, Ctx.rest_endRun, Ctx.rest_countCore]
    refine Ctx.rest_loosenThread looseTrap_besideThreads fun u => ?_
    cases c.iss.slot <;> rfl

/-! ## Leaving it (R69, R132) -/

/-- A slot never stands at the first place of a packet: there it goes on at the next one (R82). -/
def landing (pc : W64) : W64 := if pc.toNat / 4 % 4 = 0 then pc + 4#64 else pc

/-- What a return from a handler does: the slot goes on at its place, outside the handler and without a run, and nothing else changes. -/
theorem Ctx.returnFromTrap_spec (hp : c.present s) (pc : W64) :
    let t := s.returnFromTrap c.k c.a c.iss.slot pc
    c.lands s t (landing pc) ∧ (c.my t).handler = none ∧ c.runEnded t ∧
      ((c.my t).trapCause = (c.my s).trapCause ∧ (c.my t).trapPc = (c.my s).trapPc ∧ (c.my t).trapMask = (c.my s).trapMask) ∧
      ((c.my t).v = (c.my s).v ∧ (c.my t).s = (c.my s).s ∧ (c.my t).p = (c.my s).p) ∧ c.rest t [] [] [] looseTrap = c.rest s [] [] [] looseTrap := by
  intro t
  have hrest : c.rest t [] [] [] looseTrap = c.rest s [] [] [] looseTrap := by
    refine Ctx.rest_endRun.trans (Ctx.rest_loosenThread looseTrap_besideThreads fun u => ?_)
    cases c.iss.slot <;> rfl
  have hmy : c.my t = _ := (c.my_endRun _).trans (Ctx.my_updThread hp _)
  rw [Ctx.lands, hmy, landing, ← placeOf_eq]
  refine ⟨?_, rfl, c.runEnded_endRun _, ?_, ?_, hrest⟩
  all_goals cases c.iss.slot <;> exact ⟨rfl, rfl, rfl⟩

end

/-! ## The place after an instruction (R69, R82, R99) -/

theorem packetOf_toNat_mod (pc : W64) : (packetOf pc).toNat % 16 = 0 := by
  have hlow : packetOf pc &&& 0xF#64 = 0#64 := by simp [packetOf, BitVec.and_assoc]
  have hmask : (packetOf pc).toNat &&& 15 = (packetOf pc).toNat % 16 := Nat.and_two_pow_sub_one_eq_mod (packetOf pc).toNat 4
  rw [← hmask]
  exact congrArg BitVec.toNat hlow

/-- The slot after a word is never the first of a packet. -/
theorem landing_nextPc (pc : W64) : landing (nextPc pc) = nextPc pc := by
  refine if_neg ?_
  unfold nextPc
  split
  · next h =>
    have hpacket := packetOf_toNat_mod (packetOf pc + 16#64)
    change ((packetOf (packetOf pc + 16#64)) + 4#64).toNat / 4 % 4 ≠ 0
    rw [BitVec.toNat_add, BitVec.toNat_ofNat]
    omega
  · next h =>
    rw [placeOf_eq] at h
    rw [BitVec.toNat_add, BitVec.toNat_ofNat]
    omega

theorem State.codeWord_cachesOnly (s : State) (k : Nat) (pc : W64) : s.cachesOnly (s.codeWord k pc).1 := by
  have hf := s.fetch_cachesOnly k pc
  unfold State.codeWord
  split
  all_goals next h => exact hf.of_fst h

/-- Reading past an instruction changes nothing of the blocks but what their cores hold of the code. -/
theorem State.afterInstr_cachesOnly (s : State) (k n : Nat) (pc : W64) : s.cachesOnly (s.afterInstr k n pc).1 := by
  induction n generalizing s pc with
  | zero => exact .refl s
  | succ n ih =>
    have hw := s.codeWord_cachesOnly k pc
    unfold State.afterInstr
    split
    · next h =>
      split
      · exact (hw.of_fst h).trans (ih _ _)
      · exact hw.of_fst h
    · next h => exact hw.of_fst h

/-- Past a word that is no XIMM lies the next slot (R69, R99). -/
theorem State.afterInstr_of_word {s : State} {k : Nat} {pc : W64} {w : W32} (n : Nat) (hword : (s.codeWord k pc).2 = some w) (hw : w.toNat / 2 ^ 26 ≠ 0x3F) :
    (s.afterInstr k (n + 1) pc).2 = some (nextPc pc) := by
  have hmajor : fld 26 6 w ≠ 0x3F#6 := fun h => hw (by
    have hn := congrArg BitVec.toNat h
    have hlt := w.isLt
    have hlit : (0x3F#6).toNat = 63 := rfl
    rw [fld, BitVec.extractLsb'_toNat, Nat.shiftRight_eq_div_pow, hlit] at hn
    omega)
  unfold State.afterInstr
  split
  · next h =>
    rw [h] at hword
    cases hword
    rw [if_neg hmajor]
  · next h =>
    rw [h] at hword
    cases hword

theorem Ctx.present_of_cachesOnly {c : Ctx} {s t : State} (hp : c.present s) (h : s.cachesOnly t) : c.present t := by
  obtain ⟨core, hcore⟩ := Option.isSome_iff_exists.mp hp.1
  obtain ⟨d, hd, -⟩ := h.core hcore
  exact ⟨by rw [hd]; rfl, hp.2⟩

/-! ## The instructions -/

section
variable {s s1 : State} {i : Instr} {c : Ctx}

/-- A trap of an acting instruction of a warp that may take one enters the handler of its grid (R68, R132). -/
theorem State.acting_takesTrap (h : s.acting i = some (c, s1)) (hmay : c.mayTrap) {x : TrapInfo} (hpc : x.pc = c.iss.pc) (hx : x.code ≠ 0x0A#8) :
    c.entersHandler s1 (c.trap x s1) c.core.launch.trapEntry x.code x.detail x.resume x.mask := by
  obtain ⟨ha, hfree, hentry, hversion⟩ := hmay
  have hc := State.acting_core1 h
  have hmy : c.my s1 = c.core.thread c.a := State.thread_of_core _ _ _ _ hc
  have hcan : c.core.canTrap c.a :=
    { warp := ha
      version := hversion
      free := by rw [← hmy, ← State.acting_field h (F := Thread.handler) fun _ _ _ _ => rfl, hfree]
      notAhead := by rw [← hmy, State.acting_notAhead h]
      entry := hentry }
  rw [Ctx.trap, State.takeTrap_enters hc hcan _ _ hx]
  exact Ctx.enterHandler_enters hc (State.acting_present h).2 _ hpc

/-- In its handler's slot a return passes its check (R132). -/
theorem handlerCheck_passes (hin : c.th.handler = some c.iss.slot) : handlerCheck c s1 = none := if_pos hin

/-- `RTT.adv` returns past the instruction at TRAPPC once its code is there (R69). -/
theorem rttAdv_returns (h : s.acting .rttAdv = some (c, s1)) (hin : c.th.handler = some c.iss.slot) {pc : W64}
    (hafter : (s1.afterInstr c.k 3 c.th.trapPc).2 = some pc) :
    exec .rttAdv s = .next ((s1.afterInstr c.k 3 c.th.trapPc).1.returnFromTrap c.k c.a c.iss.slot pc) := by
  refine (issue_acting h _ _ (handlerCheck_passes hin)).trans (congrArg _ ?_)
  split
  · next hx =>
    rw [hx] at hafter ⊢
    cases hafter
    rfl
  · next hx =>
    rw [hx] at hafter
    cases hafter

/-- Until then it waits (R69). -/
theorem rttAdv_waits (h : s.acting .rttAdv = some (c, s1)) (hin : c.th.handler = some c.iss.slot) (hafter : (s1.afterInstr c.k 3 c.th.trapPc).2 = none) :
    exec .rttAdv s = .next (c.wait .structural (s1.afterInstr c.k 3 c.th.trapPc).1) := by
  refine (issue_acting h _ _ (handlerCheck_passes hin)).trans (congrArg _ ?_)
  split
  · next hx =>
    rw [hx] at hafter
    cases hafter
  · next hx => rw [hx]

theorem Thread.apart_updSlot (t : Thread) (w : SlotId) (f : Slot → Slot) : (t.updSlot w f).apart = t.apart := by cases w <;> rfl

end

end Sys2Proof.Machine

open Sys2Proof Sys2Proof.Machine

/-- Settles O18: both are traps of an acting instruction (`State.acting_takesTrap`). -/
theorem softwareTrapsEnterTheHandler : Obligations.SoftwareTrapsEnterTheHandler := by
  unfold Obligations.SoftwareTrapsEnterTheHandler
  intro n s s1 c
  exact ⟨fun h hmay => ⟨_, issue_acting h _ _ rfl, State.acting_takesTrap h hmay rfl (show 0x0F#8 ≠ 0x0A#8 by decide)⟩,
    fun h hmay => ⟨_, issue_acting h _ _ rfl, State.acting_takesTrap h hmay rfl (show 0x10#8 ≠ 0x0A#8 by decide)⟩⟩

/-- Settles O20: a return does the same wherever it goes (`Ctx.returnFromTrap_spec`), and reading the code there leaves the thread alone
(`State.afterInstr_cachesOnly`). -/
theorem returnsLeaveTheHandler : Obligations.ReturnsLeaveTheHandler := by
  unfold Obligations.ReturnsLeaveTheHandler
  intro s s1 c place
  refine ⟨fun h hin => ?_, fun h hin => ?_⟩
  · obtain ⟨hlands, hout, hrun, ⟨hcause, hpc, hmask⟩, -, hrest⟩ := Ctx.returnFromTrap_spec (State.acting_present h) c.th.trapPc
    have hfield {α : Type} (F : Thread → α) := State.acting_field h (F := F)
    exact ⟨_, issue_acting h _ _ (handlerCheck_passes hin), hlands, hout, hrun, hcause.trans (hfield Thread.trapCause fun _ _ _ _ => rfl).symm,
      hpc.trans (hfield Thread.trapPc fun _ _ _ _ => rfl).symm, hmask.trans (hfield Thread.trapMask fun _ _ _ _ => rfl).symm, hrest⟩
  · have hreads := s1.afterInstr_cachesOnly c.k 3 c.th.trapPc
    have hp := Ctx.present_of_cachesOnly (State.acting_present h) hreads
    have hmy := hreads.thread c.k c.a
    refine ⟨fun pc hafter => ?_, fun hafter => ?_⟩
    · obtain ⟨⟨hst, hslot, -⟩, hout, hrun, -, ⟨hv, hs, hpreds⟩, -⟩ := Ctx.returnFromTrap_spec hp pc
      refine ⟨_, rttAdv_returns h hin hafter, hst, hslot, hout, hrun, hv.trans (congrArg Thread.v hmy), hs.trans (congrArg Thread.s hmy),
        hpreds.trans (congrArg Thread.p hmy), fun w hword hw => ?_⟩
      obtain rfl : pc = nextPc c.th.trapPc := Option.some.inj (hafter.symm.trans (State.afterInstr_of_word 2 hword hw))
      exact hslot.trans (landing_nextPc _)
    · refine ⟨_, rttAdv_waits h hin hafter, Ctx.waits_of_my (Ctx.waits_wait hp _) hmy, ?_⟩
      rw [Ctx.my_wait hp, Thread.apart_updSlot]
      exact congrArg Thread.apart hmy

end

section
/-! PROOFS. Reading and writing the system registers (R60 to R80, R119). -/

namespace Sys2Proof.Machine

/-! ## What `MFS` reads (R60, R61) -/

section
variable {c : Ctx} {s : State}

/-- The scalar system registers of the table are read as it says. -/
theorem Ctx.readSys_systemTable (c : Ctx) (s : State) : ∀ x ∈ c.systemTable s, c.readSys s x.1 = x.2 := by
  have hinhibit (ahead inhibit : Bool) : ((if inhibit then 2#64 else 0#64) ||| if ahead then 1#64 else 0#64) =
      BitVec.ofNat 64 (ahead.toNat + 2 * inhibit.toNat) := by revert ahead inhibit; decide
  have hlink : s.linkModule c.th = s.feltModule (c.th.wctl.toNat / 128 % 16) (c.th.wctl.toNat / 16 % 8) := by
    simp [State.linkModule, State.feltModule, State.bundle, Nat.shiftRight_eq_div_pow]
  simp [Ctx.systemTable, Ctx.readSys, hinhibit, hlink, coreNum, dieOfCore, Config.coresPerDie]

/-- They are scalar ones (R60). -/
theorem Ctx.systemTable_scalar {n : Nat} {v : W64} (h : (n, v) ∈ c.systemTable s) : (sysReg? n).map Prod.fst = some false := by
  have hall : ∀ x ∈ c.systemTable s, (sysReg? x.1).map Prod.fst = some false := by simp [Ctx.systemTable, sysReg?]
  exact hall _ h

end

section
variable {s s1 : State} {c : Ctx} {d : BitVec 6} {e : BitVec 12}

theorem State.acting_mfsForm (h : s.acting (.mfs d e) = some (c, s1)) : c.form = mfsForm c.ap d e := State.acting_form h

theorem mfs_scalar (h : s.acting (.mfs d e) = some (c, s1)) (hsel : (sysReg? e.toNat).map Prod.fst = some false) :
    exec (.mfs d e) s = .next (c.scalar d (c.readSys s1 e.toNat) s1) := by
  obtain ⟨x, hx, hfst⟩ := Option.map_eq_some_iff.mp hsel
  have hform : c.form.vw = [] := by simp [State.acting_mfsForm h, mfsForm, hx, hfst]
  exact (issue_acting h _ _ rfl).trans (congrArg _ (if_pos hform))

theorem mfs_vector (h : s.acting (.mfs d e) = some (c, s1)) (hsel : (sysReg? e.toNat).map Prod.fst = some true) :
    exec (.mfs d e) s = .next (c.vector d (c.readSysLane s1 e.toNat) s1) ∧ d.toNat < (c.my s1).window := by
  obtain ⟨x, hx, hfst⟩ := Option.map_eq_some_iff.mp hsel
  have hform : c.form.vw ≠ [] ∧ c.form.d = vec1 d := by simp [State.acting_mfsForm h, mfsForm, hx, hfst]
  exact ⟨(issue_acting h _ _ rfl).trans (congrArg _ (if_neg hform.1)), State.acting_vec1 h hform.2⟩

end

/-! ## What `MTS` writes (R62, R69, R71 to R75) -/

/-- Bits above others are taken from what is shifted down to them. -/
theorem and_shiftLeft_eq (x m i : Nat) : x &&& m <<< i = (x >>> i &&& m) <<< i := by
  apply Nat.eq_of_testBit_eq
  intro j
  by_cases hj : i ≤ j <;> simp [Nat.testBit_shiftLeft, Nat.testBit_shiftRight, hj]

/-- FPSTAT keeps five bits (R72). -/
theorem fpstat_bits (v : W64) : v.setWidth 32 &&& 0x1F#32 = BitVec.ofNat 32 (v.toNat % 32) := by
  have hmask : v.toNat % 2 ^ 32 &&& (31#32).toNat = v.toNat % 2 ^ 32 % 2 ^ 5 := Nat.and_two_pow_sub_one_eq_mod _ 5
  apply BitVec.eq_of_toNat_eq
  rw [BitVec.toNat_and, BitVec.toNat_setWidth, hmask, BitVec.toNat_ofNat]
  omega

/-- WCTL keeps bits 1 to 0 and 10 to 4 (R73). -/
theorem wctl_bits (v : W64) : v.setWidth 32 &&& 0x7F3#32 = BitVec.ofNat 32 (v.toNat % 4 + v.toNat / 16 % 128 * 16) := by
  have hlow (x : Nat) : x &&& 3 = x % 4 := Nat.and_two_pow_sub_one_eq_mod x 2
  have hhigh (x : Nat) : x &&& 127 = x % 128 := Nat.and_two_pow_sub_one_eq_mod x 7
  have hmask (x : Nat) : x &&& (127 <<< 4 ||| 3) = x / 16 % 128 * 16 + x % 4 := by
    rw [Nat.and_or_distrib_left, and_shiftLeft_eq, hlow, hhigh, ← Nat.shiftLeft_add_eq_or_of_lt (by omega), Nat.shiftLeft_eq, Nat.shiftRight_eq_div_pow]
  have hkept : v.toNat % 2 ^ 32 &&& (0x7F3#32).toNat = v.toNat % 2 ^ 32 / 16 % 128 * 16 + v.toNat % 2 ^ 32 % 4 := hmask _
  apply BitVec.eq_of_toNat_eq
  rw [BitVec.toNat_and, BitVec.toNat_setWidth, hkept, BitVec.toNat_ofNat]
  omega

/-- TRAPPC keeps the address of a word (R69). -/
theorem trapPc_bits (v : W64) : v &&& ~~~3#64 = BitVec.ofNat 64 (v.toNat / 4 * 4) := by
  have hshift : v &&& ~~~3#64 = (v >>> 2) <<< 2 := by
    apply BitVec.eq_of_getLsbD_eq
    intro i hi
    have hlow : (3#64).getLsbD i = decide (i < 2) := Nat.testBit_two_pow_sub_one 2 i
    rw [BitVec.getLsbD_and, BitVec.getLsbD_not, hlow, BitVec.getLsbD_shiftLeft, BitVec.getLsbD_ushiftRight]
    by_cases h2 : i < 2
    · simp [h2]
    · simp [hi, h2, show 2 + (i - 2) = i by omega]
  apply BitVec.eq_of_toNat_eq
  rw [hshift, BitVec.toNat_shiftLeft, BitVec.toNat_ushiftRight, Nat.shiftLeft_eq, Nat.shiftRight_eq_div_pow, BitVec.toNat_ofNat]

/-- TRAPPC is written in a handler, and not to the first place of a packet (R69). -/
theorem trapPc_writable_iff (t : Thread) (v : W64) :
    (t.handler.isSome && decide (v.extractLsb' 2 2 ≠ 0#2)) = true ↔ t.handler.isSome = true ∧ v.toNat / 4 % 4 ≠ 0 := by
  have hplace : v.extractLsb' 2 2 = 0#2 ↔ v.toNat / 4 % 4 = 0 := by
    rw [← BitVec.toNat_inj, BitVec.extractLsb'_toNat, Nat.shiftRight_eq_div_pow]
    rfl
  simp [hplace]

/-- What a write to a system register leaves in those that can be written (R62, R69, R71 to R75). -/
structure Thread.sysWritten (t u : Thread) (n : Nat) (v : W64) : Prop where
  inhibit : u.inhibit = if n = 0x15 then decide (v.toNat / 2 % 2 = 1) else t.inhibit
  trapPc : u.trapPc = if n = 0x21 ∧ t.handler.isSome = true ∧ v.toNat / 4 % 4 ≠ 0 then BitVec.ofNat 64 (v.toNat / 4 * 4) else t.trapPc
  fpstat : u.fpstat = if n = 0x30 then BitVec.ofNat 32 (v.toNat % 32) else t.fpstat
  wctl : u.wctl = if n = 0x31 then BitVec.ofNat 32 (v.toNat % 4 + v.toNat / 16 % 128 * 16) else t.wctl

theorem Thread.writeSys_written (t : Thread) (n : Nat) (v : W64) : t.sysWritten (t.writeSys n v) n v := by
  unfold Thread.writeSys
  split
  · exact ⟨by simp [BitVec.getLsbD, Nat.testBit_eq_decide_div_mod_eq], rfl, rfl, rfl⟩
  · dsimp only
    split
    · next h => exact ⟨rfl, by rw [if_pos ⟨rfl, (trapPc_writable_iff t v).mp h⟩, trapPc_bits], rfl, rfl⟩
    · next h => exact ⟨rfl, by rw [if_neg fun hw => h ((trapPc_writable_iff t v).mpr hw.2)], rfl, rfl⟩
  · exact ⟨rfl, rfl, fpstat_bits v, rfl⟩
  · exact ⟨rfl, rfl, rfl, wctl_bits v⟩
  · next h15 h21 h30 h31 => exact ⟨by rw [if_neg h15], by rw [if_neg fun h => h21 h.1], by rw [if_neg h30], by rw [if_neg h31]⟩

/-- Where the slots stand makes no difference. -/
theorem Thread.sysWritten.of_apart {t u x : Thread} {n : Nat} {v : W64} (h : t.sysWritten u n v) (hx : x.apart = u.apart) : t.sysWritten x n v :=
  ⟨(congrArg Thread.inhibit hx :).trans h.inhibit, (congrArg Thread.trapPc hx :).trans h.trapPc, (congrArg Thread.fpstat hx :).trans h.fpstat,
    (congrArg Thread.wctl hx :).trans h.wctl⟩

/-- The system registers that `MTS` may write. -/
def looseSys : Loosen := { thread := fun t => { t with inhibit := false, trapPc := 0#64, fpstat := 0#32, wctl := 0#32 } }

theorem looseSys_besideThreads : looseSys.besideThreads := fun _ _ => rfl

/-- A write to a system register leaves the rest of the thread alone. -/
theorem Thread.writeSys_rest (t : Thread) (n : Nat) (v : W64) : looseSys.thread (t.writeSys n v) = looseSys.thread t := by
  unfold Thread.writeSys
  split
  case h_2 => dsimp only; split <;> rfl
  all_goals rfl

/-- `MTS` writes its thread and goes on (R119). -/
theorem mts_writes {s s1 : State} {c : Ctx} {r : BitVec 6} {e : BitVec 12} (h : s.acting (.mts r e) = some (c, s1)) :
    ∃ t, exec (.mts r e) s = .next t ∧ c.falls s1 t ∧ c.rest t [] [] [] looseSys = c.rest s1 [] [] [] looseSys ∧
      (c.my s1).sysWritten (c.my t) e.toNat (c.s r) := by
  have hp := State.acting_present h
  let s2 := s1.updThread c.k c.a fun t => t.writeSys e.toNat (c.s r)
  have hmy : c.my s2 = (c.my s1).writeSys e.toNat (c.s r) := Ctx.my_updThread hp _
  have hp2 : c.present s2 := Ctx.present_updThread hp _
  have hn : (c.my s2).ahead = none := by rw [hmy, Thread.writeSys_ahead, State.acting_notAhead h]
  refine ⟨c.next s2, issue_acting h _ _ rfl, Ctx.falls_of_loops (Ctx.falls_next hp2 hn) ?_, ?_, ?_⟩
  · exact (congrArg Thread.loops hmy).trans (congrArg Thread.loops (Thread.writeSys_rest (c.my s1) _ _) :)
  · exact (Ctx.rest_next looseSys_besideThreads (fun _ w _ => by cases w <;> rfl) hn).trans
      (Ctx.rest_loosenThread looseSys_besideThreads fun u => by rw [Thread.writeSys_rest])
  · rw [Ctx.my_next hp2 hn, hmy]
    exact (Thread.writeSys_written _ _ _).of_apart (Thread.apart_advanced _ _ _)

end Sys2Proof.Machine

open Sys2Proof Sys2Proof.Machine

/-- Settles O21: a scalar register is read by the table (`Ctx.readSys_systemTable`, `mfs_scalar`), a vector one lane by lane (`mfs_vector`). -/
theorem systemRegistersAreRead : Obligations.SystemRegistersAreRead := by
  unfold Obligations.SystemRegistersAreRead
  intro d e s s1 c h
  have hp := State.acting_present h
  have hn := State.acting_notAhead h
  refine ⟨fun v hv => ?_, fun hsel => ?_⟩
  · have hread : c.readSys s1 e.toNat = v := c.readSys_systemTable s1 _ hv
    obtain ⟨hs, hfalls, -, hrest⟩ := c.scalar_spec s1 d v hp hn
    exact ⟨_, hread ▸ mfs_scalar h (Ctx.systemTable_scalar hv), hs, hfalls, hrest⟩
  · have hvec : (sysReg? e.toNat).map Prod.fst = some true := by rcases hsel with he | he <;> rw [he] <;> rfl
    obtain ⟨hdo, hwindow⟩ := mfs_vector h hvec
    obtain ⟨hv, hfalls, -, hrest⟩ := c.vector_spec s1 d (c.readSysLane s1 e.toNat) hp hn hwindow
    refine ⟨_, hdo, ?_, hfalls, hrest⟩
    rcases hsel with he | he <;> rw [he] at hv ⊢ <;> exact hv

/-- Settles O22: one write of the thread, after which the slot goes on (`mts_writes`). -/
theorem systemRegistersAreWritten : Obligations.SystemRegistersAreWritten := by
  unfold Obligations.SystemRegistersAreWritten
  intro r e s s1 c h loose v pcOk
  obtain ⟨t, hdo, hfalls, hrest, hinhibit, hpc, hfpstat, hwctl⟩ := mts_writes h
  have hhandler : c.th.handler = (c.my s1).handler := State.acting_field h (F := Thread.handler) fun _ _ _ _ => rfl
  rw [← hhandler] at hpc
  refine ⟨t, hdo, hfalls, hrest, hinhibit, fun hnot => hpc.trans (if_neg ?_), fun he hok => hpc.trans (if_pos ⟨he, hok⟩), hfpstat, hwctl⟩
  rintro ⟨he, hok⟩
  exact hnot.elim (· he) (· hok)

end

section
/-! PROOFS. A packet word that is issued (R94, R104, R105): what it comes to before its own effect, whichever it is. -/

namespace Sys2Proof.Machine

/-! ## What an issued word sees -/

section
variable {s s1 : State} {iss : Issue} {core : Core} {i : Instr} {c : Ctx}

theorem mkCtx_iss (h : mkCtx iss core i s = (c, s1)) : c.iss = iss := (congrArg (fun x => x.1.iss) h).symm

theorem mkCtx_core (h : mkCtx iss core i s = (c, s1)) : c.core = core := (congrArg (fun x => x.1.core) h).symm

/-- Early reads use free values and change no block. -/
theorem mkCtx_core? (h : mkCtx iss core i s = (c, s1)) (k : Nat) : s1.core? k = s.core? k := (congrArg (fun x => x.2.core? k) h).symm

/-- The thread as an issued word reads it differs from the thread in registers alone. -/
theorem mkCtx_thread (h : mkCtx iss core i s = (c, s1)) : ∃ v sr p, c.th = { core.thread c.a with v := v, s := sr, p := p } := by
  have hth := mkCtx_th iss core i s
  rw [h] at hth
  rw [Ctx.a, mkCtx_iss h]
  exact hth

/-- What it means that a packet word is issued. -/
theorem State.issuing_spec (h : s.issuing i = some (c, s1)) :
    s.cur = some c.iss ∧ s.core? c.k = some c.core ∧ mkCtx c.iss c.core i s = (c, s1) ∧ c.a ≤ apAgent ∧
      (form? c.ap c.iss.xs i).isSome = true ∧ c.th.ahead = none ∧ c.interlocked s1.now = false := by
  unfold State.issuing at h
  split at h
  · cases h
  · next iss hcur =>
    split at h
    · cases h
    · next core hcore =>
      dsimp only at h
      split at h
      · next hc =>
        obtain ⟨hagent, hform, hahead, hlock, -⟩ := hc
        have hctx : mkCtx iss core i s = (c, s1) := Option.some.inj h
        rw [hctx] at hform hahead hlock
        obtain rfl := mkCtx_iss hctx
        obtain rfl := mkCtx_core hctx
        exact ⟨hcur, hcore, hctx, hagent, hform, hahead, hlock⟩
      · cases h

/-- An issued word whose form is legal comes to its checks, its guard and its effect (R104). -/
theorem issueWith_issuing (h : s.issuing i = some (c, s1)) (hlegal : c.form.reject c.ap c.th.window c.iss = none)
    (chk : Ctx → State → Option W8) (body : Ctx → State → State) (load : Ctx → Ahead → State → State) :
    issueWith i chk body load s = .next (c.execute chk body s1) := by
  obtain ⟨hcur, hcore, hctx, -, -, hahead, hlock⟩ := State.issuing_spec h
  have hcore' : s.core? c.iss.core = some c.core := hcore
  simp [issueWith, hcur, hcore', hctx, hahead, hlock, hlegal]

/-- An issued word stands in a resident block. -/
theorem State.issuing_present (h : s.issuing i = some (c, s1)) : c.present s1 := by
  obtain ⟨-, hcore, hctx, hagent, -⟩ := State.issuing_spec h
  exact ⟨by rw [mkCtx_core? hctx, hcore]; rfl, hagent⟩

/-- Its thread runs outside run-ahead. -/
theorem State.issuing_notAhead (h : s.issuing i = some (c, s1)) : (c.my s1).ahead = none := by
  obtain ⟨-, hcore, hctx, -, -, hahead, -⟩ := State.issuing_spec h
  obtain ⟨v, sr, p, hth⟩ := mkCtx_thread hctx
  rw [hth] at hahead
  rw [Ctx.my, State.thread_of_core _ _ _ c.core ((mkCtx_core? hctx _).trans hcore)]
  exact hahead

end

/-! ## Every packet word is issued, with the checks of its own (R104 e) -/

/-- The bits of a word from a place up hold something when the word reaches that place. -/
theorem high_bits_ne_zero_iff (v : W64) {n len : Nat} (h : n + len = 64) : v.extractLsb' n len ≠ 0#len ↔ 2 ^ n ≤ v.toNat := by
  have hlt : v.toNat / 2 ^ n < 2 ^ len := Nat.div_lt_of_lt_mul (by rw [← Nat.pow_add, h]; exact v.isLt)
  rw [ne_eq, ← BitVec.toNat_inj, BitVec.extractLsb'_toNat, Nat.shiftRight_eq_div_pow, Nat.mod_eq_of_lt hlt, BitVec.toNat_ofNat, Nat.zero_mod,
    Nat.div_eq_zero_iff]
  have := Nat.two_pow_pos n
  omega

theorem episet_ownCheck (a b : BitVec 6) : ownCheck (.episet a b) = fun c _ =>
    if decide (c.pass ≠ 0#32) && (decide ((c.s a).extractLsb' 8 56 ≠ 0#56) || decide ((c.s b).extractLsb' 32 32 ≠ 0#32)) then some 9#8 else none := by
  funext c s
  simp only [ownCheck, high_bits_ne_zero_iff (c.s a) (n := 8) (len := 56) rfl, high_bits_ne_zero_iff (c.s b) (n := 32) (len := 32) rfl,
    Bool.and_eq_true, Bool.or_eq_true, decide_eq_true_eq]

theorem drain_ownCheck (d a b : BitVec 6) : ownCheck (.drain d a b) = fun c _ =>
    if decide (c.pass ≠ 0#32) && decide ((c.s b).extractLsb' 49 15 ≠ 0#15) then some 0#8 else none := by
  funext c s
  simp only [ownCheck, high_bits_ne_zero_iff (c.s b) (n := 49) (len := 15) rfl, Bool.and_eq_true, decide_eq_true_eq]

/-- A packet word is issued, with its own check among the checks. -/
theorem exec_issues {ap : Bool} {xs : List Ximm} {i : Instr} (hform : (form? ap xs i).isSome = true) (hmajor : ∀ w, i ≠ .emulatedMajor w) :
    ∃ body load, ∀ s, exec i s = issueWith i (ownCheck i) body load s := by
  cases i
  case emulatedMajor w => exact absurd rfl (hmajor w)
  case episet a b =>
    rw [episet_ownCheck]
    exact ⟨_, _, fun _ => rfl⟩
  case drain d a b =>
    rw [drain_ownCheck]
    exact ⟨_, _, fun _ => rfl⟩
  any_goals exact ⟨_, _, fun _ => rfl⟩
  all_goals cases hform

/-! ## A guard that passes nothing (R94) -/

/-- Where its own checks hold and its guard is read in time, an instruction that no lane passes only goes on. -/
theorem Ctx.execute_of_no_lane {c : Ctx} {s : State} {chk : Ctx → State → Option W8} (body : Ctx → State → State) (hchk : chk c s = none)
    (hguard : (c.th.wctl.getLsbD 0 && c.guardEarly s.now) = false) (hpass : c.pass = 0#32) : c.execute chk body s = c.next s := by
  have hstall : c.shortStall s.now = none := by
    unfold Ctx.shortStall
    cases hw : c.th.wctl.getLsbD 0
    · simp
    · simp_all
  unfold Ctx.execute
  dsimp only
  rw [hguard, if_neg Bool.false_ne_true, hchk]
  dsimp only
  rw [hstall]
  exact if_pos hpass

/-! ## The slot after a word (R82) -/

/-- A word without the bits of a mask is not changed by taking them away. -/
theorem and_not_of_and_eq_zero {n : Nat} {x m : BitVec n} (h : x &&& m = 0#n) : x &&& ~~~m = x := by
  ext i hi
  have hbit := congrArg (fun y => y[i]) h
  simp only [BitVec.getElem_and, BitVec.getElem_zero] at hbit
  cases hx : x[i] <;> simp_all

/-- A packet after a packet is one. -/
theorem packetOf_add_packet (pc : W64) : packetOf (packetOf pc + 16#64) = packetOf pc + 16#64 := by
  have hpacket := packetOf_toNat_mod pc
  have hlow (x : W64) : (x &&& 0xF#64).toNat = x.toNat % 16 := Nat.and_two_pow_sub_one_eq_mod x.toNat 4
  refine and_not_of_and_eq_zero (BitVec.eq_of_toNat_eq ?_)
  rw [hlow, BitVec.toNat_add, BitVec.toNat_ofNat, BitVec.toNat_ofNat]
  omega

/-- Past slot 3 the next slot is slot 1 of the next packet. -/
theorem nextPc_eq (pc : W64) : nextPc pc = if pc.toNat / 4 % 4 = 3 then (pc &&& 0xFFFFFFFFFFFFFFF0#64) + 20#64 else pc + 4#64 := by
  have hslot : slot1 (packetOf pc + 16#64) = packetOf pc + 20#64 := by
    change packetOf (packetOf pc + 16#64) + 4#64 = _
    rw [packetOf_add_packet, BitVec.add_assoc]
    rfl
  rw [nextPc, placeOf_eq, hslot]
  rfl

theorem count_pred {n : W32} (h : n.toNat > 1) : n - 1#32 = BitVec.ofNat 32 (n.toNat - 1) := by
  bv_omega

end Sys2Proof.Machine

open Sys2Proof Sys2Proof.Machine

/-- Settles O31: every packet word is issued with its own checks (`exec_issues`), and past them one that no lane passes only goes on
(`Ctx.execute_of_no_lane`). -/
theorem guardsThatPassNothingOnlyGoOn : Obligations.GuardsThatPassNothingOnlyGoOn := by
  unfold Obligations.GuardsThatPassNothingOnlyGoOn
  intro i s s1 c h hmajor hlegal hown hguard hpass
  obtain ⟨-, -, -, -, hform, -⟩ := State.issuing_spec h
  obtain ⟨body, load, hexec⟩ := exec_issues hform hmajor
  have hn := State.issuing_notAhead h
  refine ⟨c.next s1, ?_, Ctx.falls_next (State.issuing_present h) hn, Ctx.rest_next (fun _ _ => rfl) (fun _ _ _ => rfl) hn⟩
  rw [hexec, issueWith_issuing h hlegal, Ctx.execute_of_no_lane body hown hguard hpass]

/-- Settles O19: the emulation handler is entered as any other (`Ctx.enterHandler_enters`). -/
theorem emulatedMajorsEnterTheEmulationHandler : Obligations.EmulatedMajorsEnterTheEmulationHandler := by
  unfold Obligations.EmulatedMajorsEnterTheEmulationHandler
  intro w s s1 iss core c hcur hcore hctx hagent hxs hahead hhandler hversion hentry
  obtain rfl := mkCtx_iss hctx
  obtain rfl := mkCtx_core hctx
  have hap : c.ap = false := by simp [Ctx.ap]; omega
  refine ⟨_, ?_, Ctx.enterHandler_enters (x := ⟨7#8, 0#8, true, c.iss.pc, c.pass⟩) ((mkCtx_core? hctx _).trans hcore) (by simp only [Ctx.a, apAgent]; omega) _ rfl⟩
  change execEmulatedMajor w s = _
  simp [execEmulatedMajor, hcur, hcore, hctx, hahead, hhandler, hversion, hentry, hap, Nat.not_lt.mpr hxs]

/-- Settles O16: the loop test by its cases. -/
theorem fallingThroughFollowsTheLoopTest : Obligations.FallingThroughFollowsTheLoopTest := by
  unfold Obligations.FallingThroughFollowsTheLoopTest
  intro t tpc after
  have hafter : nextPc tpc = after := nextPc_eq tpc
  refine ⟨fun hnone => ?_, fun l rest hloops => ?_⟩
  · rw [Thread.loopNext, hnone, hafter]
  · intro ends
    have hends : (placeOf tpc = 3 ∧ packetOf tpc = l.last) ↔ ends := by rw [placeOf_eq]; rfl
    have hnext : t.loopNext tpc = if ends then if l.count.toNat > 1 then (l.start, { l with count := l.count - 1#32 } :: rest) else (after, rest)
        else (after, l :: rest) := by
      simp only [Thread.loopNext, hloops, hafter, hends]
    refine ⟨fun hnot => ?_, fun hend hmore => ?_, fun hend hlast => ?_⟩
    · rw [hnext, if_neg hnot]
    · rw [hnext, if_pos hend, if_pos hmore, count_pred hmore]
    · rw [hnext, if_pos hend, if_neg (Nat.not_lt.mpr hlast)]

end

section
/-! PROOFS. A block on a core that the package does not have (O32). -/

namespace Sys2Proof.Machine

/-! ## The counterexample

Poison consumed is reported in the error log of the issuing die (R401, R407). A package has the dies 0 to 11 (R10), and a report on another one is lost. The
statement does not bound the core, so the block may lie on core 1536, the first of a die 12: its warp enters its handler, and no record stands in the log of
that die. No run places a block there, since the dispatcher knows the cores of its own die alone (R350). -/

/-- A warp whose `s1` is poisoned. -/
def poisonedWarp : Thread :=
  { Thread.absent with s := [SReg.zero, { SReg.zero with poison := true }], slotA := { Slot.none with st := .live, mask := 1#32 }, ended := false }

/-- Its block, with a handler. -/
def outlyingBlock : Core :=
  { Core.start State.reset [] { placedLaunch with trapEntry := 0x100#32 } 0 0 0 0 0 0 0 0 with phase := .running, thr := [poisonedWarp] }

/-- The issue of an instruction without prefixes or a guard by that warp. -/
def outlyingIssue : Issue := { core := 1536, agent := 0, slot := .a, pc := slot1 placedCode, tpc := slot1 placedCode, xs := [], guard := 7#4, unused := 0#32 }

/-- The block alone in a package, on the first core past its last die. -/
def outlyingState : State := { State.reset with cores := [(1536, outlyingBlock)], cur := some outlyingIssue }

/-- What `SMOV s0, s1` sees there. -/
def outlyingCtx : Ctx := (mkCtx outlyingIssue outlyingBlock (.smov 0#6 1#6) outlyingState).1

theorem outlyingState_issuing : outlyingState.issuing (.smov 0#6 1#6) = some (outlyingCtx, outlyingState) := by decide +kernel

/-- It takes its trap, and no log of a die 12 holds a record. -/
theorem outlyingState_unlogged {t : State} (h : exec (.smov 0#6 1#6) outlyingState = .next t) : (t.die 12).errlog = [] := by
  have hlog : (match exec (.smov 0#6 1#6) outlyingState with | .next u => (u.die 12).errlog | _ => []) = [] := by decide +kernel
  rw [h] at hlog
  exact hlog

end Sys2Proof.Machine

open Sys2Proof Sys2Proof.Machine

/-- Refutes O32: on core 1536, which is of no die, poison consumed enters the handler but no error log takes its record. -/
theorem not_failedChecksEnterTheHandler : ¬ Obligations.FailedChecksEnterTheHandler := by
  unfold Obligations.FailedChecksEnterTheHandler
  intro h
  obtain ⟨-, -, -, -, hpoison⟩ := h (.smov 0#6 1#6) outlyingState outlyingState outlyingCtx outlyingState_issuing (by simp)
    ⟨by decide +kernel, by decide +kernel, by decide +kernel, by decide +kernel⟩
  obtain ⟨t, r, hexec, hlog, -⟩ := hpoison (by decide +kernel) (by decide +kernel) (by decide +kernel) (by decide +kernel)
  have hdie : dieOfCore outlyingCtx.k = 12 := by decide +kernel
  rw [hdie, outlyingState_unlogged hexec] at hlog
  cases hlog

end

section
/-! PROOFS. Words and instructions (R95 to R102): the words of a packet decode to what they encode. -/

namespace Sys2Proof
open Sys2Proof.Machine

/-! ## The fields of a word that is put together from parts -/

section
variable {m n k : Nat}

/-- A field above the last part of a word lies in what stands before that part. -/
@[simp] theorem field_append_high (x : BitVec m) (y : BitVec n) {lo len : Nat} (h : n ≤ lo) :
    BitVec.extractLsb' lo len (no_index (x ++ y)) = x.extractLsb' (lo - n) len :=
  BitVec.extractLsb'_append_eq_of_le h

/-- A field inside the last part of a word lies in that part. -/
@[simp] theorem field_append_low (x : BitVec m) (y : BitVec n) {lo len : Nat} (h : lo + len ≤ n) :
    BitVec.extractLsb' lo len (no_index (x ++ y)) = y.extractLsb' lo len :=
  BitVec.extractLsb'_append_eq_of_add_le h

/-- A field of a field is a field. -/
@[simp] theorem field_field (w : BitVec k) {lo len lo' len' : Nat} (h : lo' + len' ≤ len) :
    (w.extractLsb' lo len).extractLsb' lo' len' = w.extractLsb' (lo + lo') len' := by
  apply BitVec.eq_of_getLsbD_eq
  intro i hi
  simp [hi, show lo' + i < len by omega, Nat.add_assoc]

/-- Two parts make a word when they are its upper and its lower bits. -/
theorem append_eq_iff (x : BitVec m) (y : BitVec n) (w : BitVec (m + n)) :
    @Eq (no_index (BitVec (m + n))) (no_index (x ++ y)) w ↔ x = w.extractLsb' n m ∧ y = w.extractLsb' 0 n := by
  constructor
  · rintro rfl
    simp [field_append_high, field_append_low]
  · rintro ⟨rfl, rfl⟩
    rw [BitVec.extractLsb'_append_extractLsb'_eq_extractLsb' (by omega), BitVec.extractLsb'_eq_self]

/-- A word masked to some of its fields has a value when those fields do, and the value has no bit elsewhere. -/
theorem and_eq_iff (w m c : W32) (rs : List (Nat × Nat)) (hm : ∀ i < 32, m.getLsbD i = rs.any fun r => decide (r.1 ≤ i ∧ i < r.1 + r.2)) :
    w &&& m = c ↔ (∀ r ∈ rs, w.extractLsb' r.1 r.2 = c.extractLsb' r.1 r.2) ∧ c ||| m = m := by
  constructor
  · rintro rfl
    refine ⟨fun r hr => ?_, by ext i; simp⟩
    apply BitVec.eq_of_getLsbD_eq
    intro i hi
    by_cases h32 : r.1 + i < 32
    · have : m.getLsbD (r.1 + i) = true := by
        rw [hm _ h32, List.any_eq_true]
        exact ⟨r, hr, by simp [hi]⟩
      simp [this]
    · simp [BitVec.getLsbD_of_ge _ _ (Nat.le_of_not_lt h32)]
  · rintro ⟨h, hc⟩
    have hc' : c = c &&& m := by rw [← hc]; ext i; simp; tauto
    rw [hc']
    apply BitVec.eq_of_getLsbD_eq
    intro i hi
    rw [BitVec.getLsbD_and, BitVec.getLsbD_and]
    cases hb : m.getLsbD i with
    | false => simp
    | true =>
      rw [hm i hi, List.any_eq_true] at hb
      obtain ⟨r, hr, hb⟩ := hb
      obtain ⟨h1, h2⟩ := of_decide_eq_true hb
      have := congrArg (fun x => x.getLsbD (i - r.1)) (h r hr)
      simpa [show i - r.1 < r.2 by omega, show r.1 + (i - r.1) = i by omega] using this

/-! ### A field that an entry divides -/

section
variable (w : BitVec k) (lo : Nat)

theorem field_eq_iff {m n : Nat} (c : BitVec (m + n)) :
    w.extractLsb' lo (m + n) = c ↔ w.extractLsb' (lo + n) m = c.extractLsb' n m ∧ w.extractLsb' lo n = c.extractLsb' 0 n := by
  rw [← BitVec.extractLsb'_append_extractLsb'_eq_extractLsb' rfl, append_eq_iff]

/-- An fn field read as its OP and what follows it (R96). -/
theorem fn8_iff (c : BitVec 8) : w.extractLsb' lo 8 = c ↔ w.extractLsb' (lo + 4) 4 = c.extractLsb' 4 4 ∧ w.extractLsb' lo 4 = c.extractLsb' 0 4 :=
  field_eq_iff w lo (m := 4) (n := 4) c

theorem fn7_iff (c : BitVec 7) : w.extractLsb' lo 7 = c ↔ w.extractLsb' (lo + 3) 4 = c.extractLsb' 3 4 ∧ w.extractLsb' lo 3 = c.extractLsb' 0 3 :=
  field_eq_iff w lo (m := 4) (n := 3) c

theorem fn5_iff (c : BitVec 5) : w.extractLsb' lo 5 = c ↔ w.extractLsb' (lo + 1) 4 = c.extractLsb' 1 4 ∧ w.extractLsb' lo 1 = c.extractLsb' 0 1 :=
  field_eq_iff w lo (m := 4) (n := 1) c

/-- An fn field read as U and I, or the upper of them, and the operation (R96). -/
theorem op8_iff (c : BitVec 8) : w.extractLsb' lo 8 = c ↔ w.extractLsb' (lo + 6) 2 = c.extractLsb' 6 2 ∧ w.extractLsb' lo 6 = c.extractLsb' 0 6 :=
  field_eq_iff w lo (m := 2) (n := 6) c

theorem op7_iff (c : BitVec 7) : w.extractLsb' lo 7 = c ↔ w.extractLsb' (lo + 6) 1 = c.extractLsb' 6 1 ∧ w.extractLsb' lo 6 = c.extractLsb' 0 6 :=
  field_eq_iff w lo (m := 1) (n := 6) c

end

/-! ### The masks of the decoder -/

section
variable (w c : W32)

@[simp] theorem and_0xFF_iff : w &&& 0xFF#32 = c ↔ fld 0 8 w = fld 0 8 c ∧ c ||| 0xFF#32 = 0xFF#32 := by
  simpa [fld] using and_eq_iff w 0xFF#32 c [(0, 8)] (by decide)

@[simp] theorem and_0xBF_iff : w &&& 0xBF#32 = c ↔ (fld 7 1 w = fld 7 1 c ∧ fld 0 6 w = fld 0 6 c) ∧ c ||| 0xBF#32 = 0xBF#32 := by
  simpa [fld] using and_eq_iff w 0xBF#32 c [(7, 1), (0, 6)] (by decide)

@[simp] theorem and_0x7F_iff : w &&& 0x7F#32 = c ↔ fld 0 7 w = fld 0 7 c ∧ c ||| 0x7F#32 = 0x7F#32 := by
  simpa [fld] using and_eq_iff w 0x7F#32 c [(0, 7)] (by decide)

@[simp] theorem and_0x3F_iff : w &&& 0x3F#32 = c ↔ fld 0 6 w = fld 0 6 c ∧ c ||| 0x3F#32 = 0x3F#32 := by
  simpa [fld] using and_eq_iff w 0x3F#32 c [(0, 6)] (by decide)

@[simp] theorem and_0xFE_iff : w &&& 0xFE#32 = c ↔ fld 1 7 w = fld 1 7 c ∧ c ||| 0xFE#32 = 0xFE#32 := by
  simpa [fld] using and_eq_iff w 0xFE#32 c [(1, 7)] (by decide)

@[simp] theorem and_0xF0_iff : w &&& 0xF0#32 = c ↔ fld 4 4 w = fld 4 4 c ∧ c ||| 0xF0#32 = 0xF0#32 := by
  simpa [fld] using and_eq_iff w 0xF0#32 c [(4, 4)] (by decide)

@[simp] theorem and_0xFC_iff : w &&& 0xFC#32 = c ↔ fld 2 6 w = fld 2 6 c ∧ c ||| 0xFC#32 = 0xFC#32 := by
  simpa [fld] using and_eq_iff w 0xFC#32 c [(2, 6)] (by decide)

@[simp] theorem and_0xF3_iff : w &&& 0xF3#32 = c ↔ (fld 4 4 w = fld 4 4 c ∧ fld 0 2 w = fld 0 2 c) ∧ c ||| 0xF3#32 = 0xF3#32 := by
  simpa [fld] using and_eq_iff w 0xF3#32 c [(4, 4), (0, 2)] (by decide)

@[simp] theorem and_0xF8_iff : w &&& 0xF8#32 = c ↔ fld 3 5 w = fld 3 5 c ∧ c ||| 0xF8#32 = 0xF8#32 := by
  simpa [fld] using and_eq_iff w 0xF8#32 c [(3, 5)] (by decide)

@[simp] theorem and_0xF7_iff : w &&& 0xF7#32 = c ↔ (fld 4 4 w = fld 4 4 c ∧ fld 0 3 w = fld 0 3 c) ∧ c ||| 0xF7#32 = 0xF7#32 := by
  simpa [fld] using and_eq_iff w 0xF7#32 c [(4, 4), (0, 3)] (by decide)

@[simp] theorem and_0x3FFFF00_iff : w &&& 0x3FFFF00#32 = c ↔ fld 8 18 w = fld 8 18 c ∧ c ||| 0x3FFFF00#32 = 0x3FFFF00#32 := by
  simpa [fld] using and_eq_iff w 0x3FFFF00#32 c [(8, 18)] (by decide)

@[simp] theorem and_0x3FF0000_iff : w &&& 0x3FF0000#32 = c ↔ fld 16 10 w = fld 16 10 c ∧ c ||| 0x3FF0000#32 = 0x3FF0000#32 := by
  simpa [fld] using and_eq_iff w 0x3FF0000#32 c [(16, 10)] (by decide)

@[simp] theorem and_0x3F03F00_iff : w &&& 0x3F03F00#32 = c ↔ (fld 20 6 w = fld 20 6 c ∧ fld 8 6 w = fld 8 6 c) ∧ c ||| 0x3F03F00#32 = 0x3F03F00#32 := by
  simpa [fld] using and_eq_iff w 0x3F03F00#32 c [(20, 6), (8, 6)] (by decide)

@[simp] theorem and_0x3F00_iff : w &&& 0x3F00#32 = c ↔ fld 8 6 w = fld 8 6 c ∧ c ||| 0x3F00#32 = 0x3F00#32 := by
  simpa [fld] using and_eq_iff w 0x3F00#32 c [(8, 6)] (by decide)

@[simp] theorem and_0xFFF00_iff : w &&& 0xFFF00#32 = c ↔ fld 8 12 w = fld 8 12 c ∧ c ||| 0xFFF00#32 = 0xFFF00#32 := by
  simpa [fld] using and_eq_iff w 0xFFF00#32 c [(8, 12)] (by decide)

@[simp] theorem and_0x3F00000_iff : w &&& 0x3F00000#32 = c ↔ fld 20 6 w = fld 20 6 c ∧ c ||| 0x3F00000#32 = 0x3F00000#32 := by
  simpa [fld] using and_eq_iff w 0x3F00000#32 c [(20, 6)] (by decide)

@[simp] theorem and_0x3FFC000_iff : w &&& 0x3FFC000#32 = c ↔ fld 14 12 w = fld 14 12 c ∧ c ||| 0x3FFC000#32 = 0x3FFC000#32 := by
  simpa [fld] using and_eq_iff w 0x3FFC000#32 c [(14, 12)] (by decide)

@[simp] theorem and_0xFC000_iff : w &&& 0xFC000#32 = c ↔ fld 14 6 w = fld 14 6 c ∧ c ||| 0xFC000#32 = 0xFC000#32 := by
  simpa [fld] using and_eq_iff w 0xFC000#32 c [(14, 6)] (by decide)

end

end

/-! ## The fields that choose among accesses of one word (R98) -/

theorem attrMode_toNat_iff (t : BitVec 10) : (attrMode t).toNat = 4 ↔ attrMode t = 4#3 := by
  generalize attrMode t = x
  revert x
  decide

theorem attrSpace_toNat_iff (t : BitVec 10) : (attrSpace t).toNat = 1 ↔ attrSpace t = 1#3 := by
  generalize attrSpace t = x
  revert x
  decide

/-- The spaces 3 to 5 are those of the tensor buffers. -/
theorem attrSpace_tile_iff (t : BitVec 10) : (3 ≤ (attrSpace t).toNat ∧ (attrSpace t).toNat ≤ 5) ↔ attrSpace t = 3#3 ∨ attrSpace t = 4#3 ∨ attrSpace t = 5#3 := by
  generalize attrSpace t = x
  revert x
  decide

/-! ## The instruction of a word -/

/-- What the decoder owes to an instruction that it reads from a word. -/
def ReadFrom (xs : List Ximm) (w : W32) (i : Instr) : Prop := i.wf = true ∧ isEpilogue i = false ∧ chosenBy i xs = true ∧ encode i = some w

/-- Every reading that a decoder accepts is one of the word. -/
def Reads (xs : List Ximm) (w : W32) (o : Option (Instr × Bool)) : Prop := ∀ p ∈ o, p.2 = true → ReadFrom xs w p.1

section
variable {xs : List Ximm} {w : W32}

@[simp] theorem Reads.none : Reads xs w none := by simp [Reads]

@[simp] theorem Reads.some_iff {p : Instr × Bool} : Reads xs w (some p) ↔ (p.2 = true → ReadFrom xs w p.1) := by simp [Reads]

theorem Reads.ite {c : Prop} [Decidable c] {o o' : Option (Instr × Bool)} (h : c → Reads xs w o) (h' : ¬c → Reads xs w o') :
    Reads xs w (if c then o else o') := by
  split
  · next hc => exact h hc
  · next hc => exact h' hc

theorem decodeMajor00_reads (hmajor : fld 26 6 w = 0x00#6) : Reads xs w (decodeMajor00 w) := by
  unfold decodeMajor00
  repeat' refine Reads.ite (fun h => ?_) (fun _ => ?_)
  all_goals simp_all [append_eq_iff, ReadFrom, Instr.wf.eq_def, isEpilogue.eq_def, chosenBy.eq_def, encode.eq_def, fld, -BitVec.reduceAppend]

theorem decodeMajor01_reads (hmajor : fld 26 6 w = 0x01#6) : Reads xs w (decodeMajor01 w) := by
  unfold decodeMajor01
  simp_all [append_eq_iff, ReadFrom, Instr.wf.eq_def, isEpilogue.eq_def, chosenBy.eq_def, encode.eq_def, fld, -BitVec.reduceAppend]

theorem decodeMajor02_reads (hmajor : fld 26 6 w = 0x02#6) : Reads xs w (decodeMajor02 w) := by
  unfold decodeMajor02
  repeat' refine Reads.ite (fun h => ?_) (fun _ => ?_)
  all_goals simp_all [append_eq_iff, ReadFrom, Instr.wf.eq_def, isEpilogue.eq_def, chosenBy.eq_def, encode.eq_def, fld, -BitVec.reduceAppend]

theorem decodeMajor03_reads (hmajor : fld 26 6 w = 0x03#6) : Reads xs w (decodeMajor03 w) := by
  unfold decodeMajor03
  repeat' refine Reads.ite (fun h => ?_) (fun _ => ?_)
  all_goals simp_all [append_eq_iff, ReadFrom, Instr.wf.eq_def, isEpilogue.eq_def, chosenBy.eq_def, encode.eq_def, fld, -BitVec.reduceAppend]

theorem decodeMajor04_reads (hmajor : fld 26 6 w = 0x04#6) : Reads xs w (decodeMajor04 w) := by
  unfold decodeMajor04
  simp_all [append_eq_iff, ReadFrom, Instr.wf.eq_def, isEpilogue.eq_def, chosenBy.eq_def, encode.eq_def, fld, -BitVec.reduceAppend]

theorem decodeMajor05_reads (hmajor : fld 26 6 w = 0x05#6) : Reads xs w (decodeMajor05 w) := by
  unfold decodeMajor05
  simp_all [append_eq_iff, ReadFrom, Instr.wf.eq_def, isEpilogue.eq_def, chosenBy.eq_def, encode.eq_def, fld, -BitVec.reduceAppend]

theorem decodeMajor06_reads (hmajor : fld 26 6 w = 0x06#6) : Reads xs w (decodeMajor06 w) := by
  unfold decodeMajor06
  repeat' refine Reads.ite (fun h => ?_) (fun _ => ?_)
  all_goals simp_all [append_eq_iff, ReadFrom, Instr.wf.eq_def, isEpilogue.eq_def, chosenBy.eq_def, encode.eq_def, fld, -BitVec.reduceAppend]

theorem decodeMajor07_reads (hmajor : fld 26 6 w = 0x07#6) : Reads xs w (decodeMajor07 w) := by
  unfold decodeMajor07
  repeat' refine Reads.ite (fun h => ?_) (fun _ => ?_)
  all_goals simp_all [append_eq_iff, ReadFrom, Instr.wf.eq_def, isEpilogue.eq_def, chosenBy.eq_def, encode.eq_def, fld, -BitVec.reduceAppend]

theorem decodeMajor08_reads (hmajor : fld 26 6 w = 0x08#6) : Reads xs w (decodeMajor08 w) := by
  unfold decodeMajor08
  simp_all [append_eq_iff, ReadFrom, Instr.wf.eq_def, isEpilogue.eq_def, chosenBy.eq_def, encode.eq_def, fld, -BitVec.reduceAppend]

theorem decodeMajor09_reads (hmajor : fld 26 6 w = 0x09#6) : Reads xs w (decodeMajor09 w) := by
  unfold decodeMajor09
  simp_all [append_eq_iff, ReadFrom, Instr.wf.eq_def, isEpilogue.eq_def, chosenBy.eq_def, encode.eq_def, fld, -BitVec.reduceAppend]

theorem decodeMajor0A_reads (hmajor : fld 26 6 w = 0x0A#6) : Reads xs w (decodeMajor0A w) := by
  unfold decodeMajor0A
  repeat' refine Reads.ite (fun h => ?_) (fun _ => ?_)
  all_goals simp_all [append_eq_iff, ReadFrom, Instr.wf.eq_def, isEpilogue.eq_def, chosenBy.eq_def, encode.eq_def, fld, -BitVec.reduceAppend]

theorem decodeMajor0B_reads (hmajor : fld 26 6 w = 0x0B#6) : Reads xs w (decodeMajor0B w) := by
  unfold decodeMajor0B
  repeat' refine Reads.ite (fun h => ?_) (fun _ => ?_)
  all_goals simp_all [append_eq_iff, ReadFrom, Instr.wf.eq_def, isEpilogue.eq_def, chosenBy.eq_def, encode.eq_def, fld, -BitVec.reduceAppend]

theorem decodeMajor0C_reads (hmajor : fld 26 6 w = 0x0C#6) : Reads xs w (decodeMajor0C w) := by
  unfold decodeMajor0C
  repeat' refine Reads.ite (fun h => ?_) (fun _ => ?_)
  all_goals simp_all [append_eq_iff, ReadFrom, Instr.wf.eq_def, isEpilogue.eq_def, chosenBy.eq_def, encode.eq_def, fld, -BitVec.reduceAppend]

theorem decodeMajor0D_reads (hmajor : fld 26 6 w = 0x0D#6) : Reads xs w (decodeMajor0D w) := by
  unfold decodeMajor0D
  repeat' refine Reads.ite (fun h => ?_) (fun _ => ?_)
  all_goals simp_all [append_eq_iff, ReadFrom, Instr.wf.eq_def, isEpilogue.eq_def, chosenBy.eq_def, encode.eq_def, fld, -BitVec.reduceAppend]

theorem decodeMajor0E_reads (hmajor : fld 26 6 w = 0x0E#6) : Reads xs w (decodeMajor0E w) := by
  unfold decodeMajor0E
  repeat' refine Reads.ite (fun h => ?_) (fun _ => ?_)
  all_goals simp_all [append_eq_iff, ReadFrom, Instr.wf.eq_def, isEpilogue.eq_def, chosenBy.eq_def, encode.eq_def, fld, -BitVec.reduceAppend]

theorem decodeMajor0F_reads (hmajor : fld 26 6 w = 0x0F#6) : Reads xs w (decodeMajor0F w) := by
  unfold decodeMajor0F
  repeat' refine Reads.ite (fun h => ?_) (fun _ => ?_)
  all_goals simp_all [append_eq_iff, ReadFrom, Instr.wf.eq_def, isEpilogue.eq_def, chosenBy.eq_def, encode.eq_def, fld, -BitVec.reduceAppend]

theorem decodeMajor10_reads (hmajor : fld 26 6 w = 0x10#6) : Reads xs w (decodeMajor10 w) := by
  unfold decodeMajor10
  repeat' refine Reads.ite (fun h => ?_) (fun _ => ?_)
  all_goals simp_all [append_eq_iff, ReadFrom, Instr.wf.eq_def, isEpilogue.eq_def, chosenBy.eq_def, encode.eq_def, fld, -BitVec.reduceAppend]

theorem decodeMajor11_reads (hmajor : fld 26 6 w = 0x11#6) : Reads xs w (decodeMajor11 w) := by
  unfold decodeMajor11
  repeat' refine Reads.ite (fun h => ?_) (fun _ => ?_)
  all_goals simp_all [append_eq_iff, ReadFrom, Instr.wf.eq_def, isEpilogue.eq_def, chosenBy.eq_def, encode.eq_def, fld, -BitVec.reduceAppend]

theorem decodeMajor18_reads (hmajor : fld 26 6 w = 0x18#6) : Reads xs w (decodeMajor18 w) := by
  unfold decodeMajor18
  repeat' refine Reads.ite (fun h => ?_) (fun _ => ?_)
  all_goals simp_all [append_eq_iff, ReadFrom, Instr.wf.eq_def, isEpilogue.eq_def, chosenBy.eq_def, encode.eq_def, fld, -BitVec.reduceAppend]

theorem decodeMajor19_reads (hmajor : fld 26 6 w = 0x19#6) : Reads xs w (decodeMajor19 w) := by
  unfold decodeMajor19
  repeat' refine Reads.ite (fun h => ?_) (fun _ => ?_)
  all_goals simp_all [append_eq_iff, ReadFrom, Instr.wf.eq_def, isEpilogue.eq_def, chosenBy.eq_def, encode.eq_def, fld, -BitVec.reduceAppend]

theorem decodeMajor1A_reads (hmajor : fld 26 6 w = 0x1A#6) : Reads xs w (decodeMajor1A w) := by
  unfold decodeMajor1A
  repeat' refine Reads.ite (fun h => ?_) (fun _ => ?_)
  all_goals simp_all [append_eq_iff, ReadFrom, Instr.wf.eq_def, isEpilogue.eq_def, chosenBy.eq_def, encode.eq_def, fld, -BitVec.reduceAppend]

theorem decodeMajor1B_reads (hmajor : fld 26 6 w = 0x1B#6) : Reads xs w (decodeMajor1B w) := by
  unfold decodeMajor1B
  repeat' refine Reads.ite (fun h => ?_) (fun _ => ?_)
  all_goals simp_all [append_eq_iff, ReadFrom, Instr.wf.eq_def, isEpilogue.eq_def, chosenBy.eq_def, encode.eq_def, fld, -BitVec.reduceAppend]

theorem decodeMajor1C_reads (hmajor : fld 26 6 w = 0x1C#6) : Reads xs w (decodeMajor1C w) := by
  unfold decodeMajor1C
  repeat' refine Reads.ite (fun h => ?_) (fun _ => ?_)
  all_goals simp_all [append_eq_iff, ReadFrom, Instr.wf.eq_def, isEpilogue.eq_def, chosenBy.eq_def, encode.eq_def, fld, -BitVec.reduceAppend]

theorem decodeMajor1D_reads (hmajor : fld 26 6 w = 0x1D#6) : Reads xs w (decodeMajor1D w) := by
  unfold decodeMajor1D
  repeat' refine Reads.ite (fun h => ?_) (fun _ => ?_)
  all_goals simp_all [append_eq_iff, ReadFrom, Instr.wf.eq_def, isEpilogue.eq_def, chosenBy.eq_def, encode.eq_def, fld, -BitVec.reduceAppend]

theorem decodeMajor1E_reads (hmajor : fld 26 6 w = 0x1E#6) : Reads xs w (decodeMajor1E w) := by
  unfold decodeMajor1E
  repeat' refine Reads.ite (fun h => ?_) (fun _ => ?_)
  all_goals simp_all [append_eq_iff, ReadFrom, Instr.wf.eq_def, isEpilogue.eq_def, chosenBy.eq_def, encode.eq_def, fld, -BitVec.reduceAppend]

theorem decodeMajor1F_reads (hmajor : fld 26 6 w = 0x1F#6) : Reads xs w (decodeMajor1F w) := by
  unfold decodeMajor1F
  repeat' refine Reads.ite (fun h => ?_) (fun _ => ?_)
  all_goals simp_all [append_eq_iff, ReadFrom, Instr.wf.eq_def, isEpilogue.eq_def, chosenBy.eq_def, encode.eq_def, fld, -BitVec.reduceAppend]

theorem decodeMajor20_reads (hmajor : fld 26 6 w = 0x20#6) : Reads xs w (decodeMajor20 w) := by
  unfold decodeMajor20
  repeat' refine Reads.ite (fun h => ?_) (fun _ => ?_)
  all_goals simp_all [append_eq_iff, ReadFrom, Instr.wf.eq_def, isEpilogue.eq_def, chosenBy.eq_def, encode.eq_def, fld, -BitVec.reduceAppend]

theorem decodeMajor21_reads (hmajor : fld 26 6 w = 0x21#6) : Reads xs w (decodeMajor21 w) := by
  unfold decodeMajor21
  repeat' refine Reads.ite (fun h => ?_) (fun _ => ?_)
  all_goals simp_all [append_eq_iff, ReadFrom, Instr.wf.eq_def, isEpilogue.eq_def, chosenBy.eq_def, encode.eq_def, fld, -BitVec.reduceAppend]

theorem decodeMajor22_reads (hmajor : fld 26 6 w = 0x22#6) : Reads xs w (decodeMajor22 w) := by
  unfold decodeMajor22
  repeat' refine Reads.ite (fun h => ?_) (fun _ => ?_)
  all_goals simp_all [append_eq_iff, ReadFrom, Instr.wf.eq_def, isEpilogue.eq_def, chosenBy.eq_def, encode.eq_def, fld, -BitVec.reduceAppend]

theorem decodeMajor23_reads (hmajor : fld 26 6 w = 0x23#6) : Reads xs w (decodeMajor23 w) := by
  unfold decodeMajor23
  repeat' refine Reads.ite (fun h => ?_) (fun _ => ?_)
  all_goals simp_all [append_eq_iff, ReadFrom, Instr.wf.eq_def, isEpilogue.eq_def, chosenBy.eq_def, encode.eq_def, fld, -BitVec.reduceAppend]

theorem decodeMajor24_reads (hmajor : fld 26 6 w = 0x24#6) : Reads xs w (decodeMajor24 w) := by
  unfold decodeMajor24
  repeat' refine Reads.ite (fun h => ?_) (fun _ => ?_)
  all_goals simp_all [append_eq_iff, ReadFrom, Instr.wf.eq_def, isEpilogue.eq_def, chosenBy.eq_def, encode.eq_def, fld, -BitVec.reduceAppend]

theorem decodeMajor30_reads (hmajor : fld 26 6 w = 0x30#6) : Reads xs w (decodeMajor30 w) := by
  unfold decodeMajor30
  repeat' refine Reads.ite (fun h => ?_) (fun _ => ?_)
  all_goals simp_all [append_eq_iff, ReadFrom, Instr.wf.eq_def, isEpilogue.eq_def, chosenBy.eq_def, encode.eq_def, fld, -BitVec.reduceAppend]

theorem decodeMajor31_reads (hmajor : fld 26 6 w = 0x31#6) : Reads xs w (decodeMajor31 w) := by
  unfold decodeMajor31
  repeat' refine Reads.ite (fun h => ?_) (fun _ => ?_)
  all_goals simp_all [append_eq_iff, ReadFrom, Instr.wf.eq_def, isEpilogue.eq_def, chosenBy.eq_def, encode.eq_def, fld, -BitVec.reduceAppend]

theorem decodeMemory12_reads (hmajor : fld 26 6 w = 0x12#6) : Reads xs w (decodeMemory xs 0x12 w) := by
  change Reads xs w (if attrMode (attrOf (defaultAttr 0x12) xs) = 4#3 then some (.ldc _ _ _, true) else some (.ld _ _ _, true))
  refine .ite (fun h => ?_) fun h => ?_
  all_goals simp_all [attrMode_toNat_iff, append_eq_iff, ReadFrom, Instr.wf.eq_def, isEpilogue.eq_def, chosenBy.eq_def, encode.eq_def, fld, -BitVec.reduceAppend]

theorem decodeMemory16_reads (hmajor : fld 26 6 w = 0x16#6) : Reads xs w (decodeMemory xs 0x16 w) := by
  change Reads xs w (if attrStore (attrOf (defaultAttr 0x16) xs) = true then some (.sts _ _ _, true) else some (.lds _ _ _, true))
  refine .ite (fun h => ?_) fun h => ?_
  all_goals simp_all [append_eq_iff, ReadFrom, Instr.wf.eq_def, isEpilogue.eq_def, chosenBy.eq_def, encode.eq_def, fld, -BitVec.reduceAppend]

theorem decodeMemory17_reads (hmajor : fld 26 6 w = 0x17#6) : Reads xs w (decodeMemory xs 0x17 w) := by
  change Reads xs w (if attrStore (attrOf (defaultAttr 0x17) xs) = true then
      if attrSpace (attrOf (defaultAttr 0x17) xs) = 1#3 then some (.stl _ _ _, true)
      else if attrSpace (attrOf (defaultAttr 0x17) xs) = 3#3 ∨ attrSpace (attrOf (defaultAttr 0x17) xs) = 4#3 ∨ attrSpace (attrOf (defaultAttr 0x17) xs) = 5#3 then
        some (.stts _ _ _, true)
      else some (.stsh _ _ _, true)
    else
      if attrSpace (attrOf (defaultAttr 0x17) xs) = 1#3 then some (.ldl _ _ _, true)
      else if attrSpace (attrOf (defaultAttr 0x17) xs) = 3#3 ∨ attrSpace (attrOf (defaultAttr 0x17) xs) = 4#3 ∨ attrSpace (attrOf (defaultAttr 0x17) xs) = 5#3 then
        some (.ldts _ _ _, true)
      else some (.ldsh _ _ _, true))
  refine .ite (fun hstore => .ite (fun h => ?_) fun h => .ite (fun h => ?_) fun h => ?_) fun hstore => .ite (fun h => ?_) fun h => .ite (fun h => ?_) fun h => ?_
  all_goals simp_all [attrSpace_toNat_iff, attrSpace_tile_iff, append_eq_iff, ReadFrom, Instr.wf.eq_def, isEpilogue.eq_def, chosenBy.eq_def, encode.eq_def, fld, -BitVec.reduceAppend]

theorem decodeMemory13_reads (hmajor : fld 26 6 w = 0x13#6) : Reads xs w (decodeMemory xs 0x13 w) := by
  unfold decodeMemory
  simp_all [append_eq_iff, ReadFrom, Instr.wf.eq_def, isEpilogue.eq_def, chosenBy.eq_def, encode.eq_def, fld, -BitVec.reduceAppend]

theorem decodeMemory14_reads (hmajor : fld 26 6 w = 0x14#6) : Reads xs w (decodeMemory xs 0x14 w) := by
  unfold decodeMemory
  simp_all [append_eq_iff, ReadFrom, Instr.wf.eq_def, isEpilogue.eq_def, chosenBy.eq_def, encode.eq_def, fld, -BitVec.reduceAppend]

theorem decodeMemory15_reads (hmajor : fld 26 6 w = 0x15#6) : Reads xs w (decodeMemory xs 0x15 w) := by
  unfold decodeMemory
  simp_all [append_eq_iff, ReadFrom, Instr.wf.eq_def, isEpilogue.eq_def, chosenBy.eq_def, encode.eq_def, fld, -BitVec.reduceAppend]

/-- R105: a major that a handler may emulate keeps its whole word. -/
theorem emulatedMajor_readFrom (hmajor : 0x32 ≤ (fld 26 6 w).toNat ∧ (fld 26 6 w).toNat ≤ 0x3E) : ReadFrom xs w (.emulatedMajor w) := by
  refine ⟨?_, rfl, rfl, rfl⟩
  simp only [Instr.wf.eq_def, Bool.and_eq_true, decide_eq_true_eq]
  exact hmajor

theorem decodeRaw_reads : Reads xs w (decodeRaw xs w) := by
  unfold decodeRaw
  have hmajor {n : Nat} (hn : (fld 26 6 w).toNat = n) : fld 26 6 w = BitVec.ofNat 6 n := by rw [← hn, BitVec.ofNat_toNat, BitVec.setWidth_eq]
  split
  case h_1 h => exact decodeMajor00_reads (hmajor h)
  case h_2 h => exact decodeMajor01_reads (hmajor h)
  case h_3 h => exact decodeMajor02_reads (hmajor h)
  case h_4 h => exact decodeMajor03_reads (hmajor h)
  case h_5 h => exact decodeMajor04_reads (hmajor h)
  case h_6 h => exact decodeMajor05_reads (hmajor h)
  case h_7 h => exact decodeMajor06_reads (hmajor h)
  case h_8 h => exact decodeMajor07_reads (hmajor h)
  case h_9 h => exact decodeMajor08_reads (hmajor h)
  case h_10 h => exact decodeMajor09_reads (hmajor h)
  case h_11 h => exact decodeMajor0A_reads (hmajor h)
  case h_12 h => exact decodeMajor0B_reads (hmajor h)
  case h_13 h => exact decodeMajor0C_reads (hmajor h)
  case h_14 h => exact decodeMajor0D_reads (hmajor h)
  case h_15 h => exact decodeMajor0E_reads (hmajor h)
  case h_16 h => exact decodeMajor0F_reads (hmajor h)
  case h_17 h => exact decodeMajor10_reads (hmajor h)
  case h_18 h => exact decodeMajor11_reads (hmajor h)
  case h_19 h => exact decodeMemory12_reads (hmajor h)
  case h_20 h => exact decodeMemory13_reads (hmajor h)
  case h_21 h => exact decodeMemory14_reads (hmajor h)
  case h_22 h => exact decodeMemory15_reads (hmajor h)
  case h_23 h => exact decodeMemory16_reads (hmajor h)
  case h_24 h => exact decodeMemory17_reads (hmajor h)
  case h_25 h => exact decodeMajor18_reads (hmajor h)
  case h_26 h => exact decodeMajor19_reads (hmajor h)
  case h_27 h => exact decodeMajor1A_reads (hmajor h)
  case h_28 h => exact decodeMajor1B_reads (hmajor h)
  case h_29 h => exact decodeMajor1C_reads (hmajor h)
  case h_30 h => exact decodeMajor1D_reads (hmajor h)
  case h_31 h => exact decodeMajor1E_reads (hmajor h)
  case h_32 h => exact decodeMajor1F_reads (hmajor h)
  case h_33 h => exact decodeMajor20_reads (hmajor h)
  case h_34 h => exact decodeMajor21_reads (hmajor h)
  case h_35 h => exact decodeMajor22_reads (hmajor h)
  case h_36 h => exact decodeMajor23_reads (hmajor h)
  case h_37 h => exact decodeMajor24_reads (hmajor h)
  case h_38 h => exact decodeMajor30_reads (hmajor h)
  case h_39 h => exact decodeMajor31_reads (hmajor h)
  case h_40 h =>
    have := hmajor h
    simp_all [append_eq_iff, ReadFrom, Instr.wf.eq_def, isEpilogue.eq_def, chosenBy.eq_def, encode.eq_def, fld, -BitVec.reduceAppend]
  case h_41 =>
    refine .ite (fun hmajor => ?_) fun _ => .none
    exact Reads.some_iff.mpr fun _ => emulatedMajor_readFrom hmajor

/-! ## The word of an instruction -/

/-- The word of the instruction is read as the instruction, with every unused field zero. -/
def ReadBack (xs : List Ximm) (i : Instr) : Prop := ∀ w, encode i = some w → decodeRaw xs w = some (i, true)

theorem readBack_iff {i : Instr} (h : encode i = some w) : ReadBack xs i ↔ decodeRaw xs w = some (i, true) := by
  simp [ReadBack, h]

theorem decodeRaw_of_emulated (hmajor : 0x32 ≤ (fld 26 6 w).toNat ∧ (fld 26 6 w).toNat ≤ 0x3E) : decodeRaw xs w = some (.emulatedMajor w, true) := by
  unfold decodeRaw
  split
  case h_41 => exact if_pos hmajor
  all_goals omega

theorem formControl_readBack {ap : Bool} {i : Instr} (hg : (formControl ap i).isSome = true) : ReadBack xs i := by
  cases i
  case nop | yield | trap | bkpt | rtt | rttAdv | mfs | mts | exit | jmp | callReg | callDisp | ret | loop | loopbrk =>
    refine (readBack_iff rfl).mpr ?_
    simp_all [decodeRaw, decodeMajor00, fld, -BitVec.reduceAppend]
  case bra =>
    refine (readBack_iff rfl).mpr ?_
    simp_all [decodeRaw, decodeMajor01, fld, -BitVec.reduceAppend]
  case brv | reconv | joinw | fragwake =>
    refine (readBack_iff rfl).mpr ?_
    simp_all [decodeRaw, decodeMajor02, fld, -BitVec.reduceAppend]
  all_goals cases hg

theorem formScalar_readBack {i : Instr} (hg : (formScalar i).isSome = true) (hwf : i.wf = true) : ReadBack xs i := by
  cases i
  case sadd | ssub | smul | smulh | sdiv | sand | sor | sxor | sshl | sshr | ssra | smin | smax | scmp | ssel | spopc | sclz | sbfe | sbfi | smov | smovAq =>
    refine (readBack_iff rfl).mpr ?_
    simp_all [decodeRaw, decodeMajor03, fld, op8_iff, op7_iff, -BitVec.reduceAppend]
  case saddi =>
    refine (readBack_iff rfl).mpr ?_
    simp_all [decodeRaw, decodeMajor04, fld, -BitVec.reduceAppend]
  case sli =>
    refine (readBack_iff rfl).mpr ?_
    simp_all [decodeRaw, decodeMajor05, fld, -BitVec.reduceAppend]
  case pmovCc d a m =>
    simp only [Instr.wf.eq_def] at hwf
    have hlow : m ≠ 0#4 ∧ m ≠ 1#4 ∧ m ≠ 2#4 := by refine ⟨?_, ?_, ?_⟩ <;> rintro rfl <;> simp at hwf
    refine (readBack_iff rfl).mpr ?_
    simp_all [decodeRaw, decodeMajor06, fld, fn8_iff, fn7_iff, -BitVec.reduceAppend]
  case pand | por | pxor | pnot | pmovPp | pmovPs | pmovSp | pseti | ppopc | pfirst =>
    refine (readBack_iff rfl).mpr ?_
    simp_all [decodeRaw, decodeMajor06, fld, -BitVec.reduceAppend]
  all_goals cases hg

theorem formVector_readBack {i : Instr} (hg : (formVector i).isSome = true) : ReadBack xs i := by
  cases i
  case vadd | vsub | vaddc | vmul | vmulh | vmad | vand | vor | vxor | vshl | vshr | vsra | vmin | vmax | vabsd | vpopc | vclz | vbfe | vbfi | vmov | vmovFromMqi | vmovToMqo | vdot4 =>
    refine (readBack_iff rfl).mpr ?_
    simp_all [decodeRaw, decodeMajor07, fld, op8_iff, op7_iff, -BitVec.reduceAppend]
  case vaddi =>
    refine (readBack_iff rfl).mpr ?_
    simp_all [decodeRaw, decodeMajor08, fld, -BitVec.reduceAppend]
  case vli =>
    refine (readBack_iff rfl).mpr ?_
    simp_all [decodeRaw, decodeMajor09, fld, -BitVec.reduceAppend]
  case vcmpEq | vcmpNe | vcmpLt | vcmpLe | vcmpGt | vcmpGe | vsel =>
    refine (readBack_iff rfl).mpr ?_
    simp_all [decodeRaw, decodeMajor0A, fld, -BitVec.reduceAppend]
  case vdot4I16 | vdot4I4 =>
    refine (readBack_iff rfl).mpr ?_
    simp_all [decodeRaw, decodeMajor30, fld, -BitVec.reduceAppend]
  case vmovBt | vorBmm | vxorBmm =>
    refine (readBack_iff rfl).mpr ?_
    simp_all [decodeRaw, decodeMajor31, fld, -BitVec.reduceAppend]
  all_goals cases hg

theorem formFloat_readBack {i : Instr} (hg : (formFloat i).isSome = true) (hwf : i.wf = true) : ReadBack xs i := by
  cases i
  case fadd | fsub | fmul | fmin | fmax | fcmp | fneg | fabs | fclamp | fdot2 | fround | fscale =>
    refine (readBack_iff rfl).mpr ?_
    simp_all [decodeRaw, decodeMajor0B, fld, fn8_iff, -BitVec.reduceAppend]
  case faddT | fsubT | fmulT | fminT | fmaxT | fcmpF64 | fnegT | fabsT | fclampT | fdot2Packed | froundT | fscaleT =>
    simp only [Instr.wf.eq_def] at hwf
    refine (readBack_iff rfl).mpr ?_
    simp_all [decodeRaw, decodeMajor0C, fld, fn8_iff, fn5_iff, -BitVec.reduceAppend]
  case ffma =>
    refine (readBack_iff rfl).mpr ?_
    simp_all [decodeRaw, decodeMajor0D, fld, -BitVec.reduceAppend]
  case exp2 | lg2 | rcp | rsq | sqrt =>
    refine (readBack_iff rfl).mpr ?_
    simp_all [decodeRaw, decodeMajor0E, fld, fn8_iff, -BitVec.reduceAppend]
  case cvt | cvtpk2 | cvtpk4 | cvtwide | mxscale | mxq =>
    simp only [Instr.wf.eq_def] at hwf
    refine (readBack_iff rfl).mpr ?_
    simp_all [decodeRaw, decodeMajor0F, fld, fn8_iff, -BitVec.reduceAppend]
  all_goals cases hg

theorem formCross_readBack {i : Instr} (hg : (formCross i).isSome = true) (hwf : i.wf = true) : ReadBack xs i := by
  cases i
  case perm | permx | shflup | shfldn | bcastReg | bcastImm =>
    refine (readBack_iff rfl).mpr ?_
    simp_all [decodeRaw, decodeMajor10, fld, -BitVec.reduceAppend]
  case voteBallot | voteAny | voteAll | voteUni | reduce | scan | argmax | matchAny | matchFirst =>
    simp only [Instr.wf.eq_def] at hwf
    refine (readBack_iff rfl).mpr ?_
    simp_all [decodeRaw, decodeMajor11, fld, fn8_iff, -BitVec.reduceAppend]
  all_goals cases hg

theorem formMemory_readBack {ap : Bool} {i : Instr} (hg : (formMemory ap xs i).isSome = true) (hwf : i.wf = true) (hc : chosenBy i xs = true) : ReadBack xs i := by
  cases i
  case ld | ldc | st | ldIndexed | stIndexed | lds | sts | ldsh | stsh | ldl | stl =>
    simp only [chosenBy.eq_def] at hc
    refine (readBack_iff rfl).mpr ?_
    simp_all [attrMode_toNat_iff, attrSpace_toNat_iff, attrSpace_tile_iff, decodeRaw, decodeMemory, fld, -BitVec.reduceAppend]
  case ldts | stts =>
    simp only [chosenBy.eq_def, attrSpace_tile_iff, Bool.and_eq_true, decide_eq_true_eq] at hc
    refine (readBack_iff rfl).mpr ?_
    obtain ⟨hdir, hs | hs | hs⟩ := hc
    all_goals simp_all [decodeRaw, decodeMemory, fld, -BitVec.reduceAppend]
  case atom | atomcas | atomsh | red =>
    refine (readBack_iff rfl).mpr ?_
    simp_all [decodeRaw, decodeMajor18, fld, -BitVec.reduceAppend]
  case copy =>
    simp only [Instr.wf.eq_def] at hwf
    refine (readBack_iff rfl).mpr ?_
    simp_all [decodeRaw, decodeMajor19, fld, -BitVec.reduceAppend]
  case tbinit | tbexpect | tbarrive | tbwait | femark | fepoll =>
    refine (readBack_iff rfl).mpr ?_
    simp_all [decodeRaw, decodeMajor1A, fld, -BitVec.reduceAppend]
  case pref | prefRo | cinvRo | cinvL1 | pgreq | tlbinv | tlbinvAll =>
    refine (readBack_iff rfl).mpr ?_
    simp_all [decodeRaw, decodeMajor24, fld, -BitVec.reduceAppend]
  all_goals cases hg

theorem formSystem_readBack {ap : Bool} {i : Instr} (hg : (formSystem ap i).isSome = true) (hwf : i.wf = true) : ReadBack xs i := by
  cases i
  case bar | bararr | barwait | bardrop | fence | waitcReg | waitcImm | waitb | tfence =>
    simp only [Instr.wf.eq_def] at hwf
    refine (readBack_iff rfl).mpr ?_
    simp_all [decodeRaw, decodeMajor1B, fld, fn8_iff, -BitVec.reduceAppend]
  case aqpush | aqclose | mqbind | mqtry =>
    refine (readBack_iff rfl).mpr ?_
    simp_all [decodeRaw, decodeMajor1C, fld, -BitVec.reduceAppend]
  case rgive | rclaim | rclaimT =>
    refine (readBack_iff rfl).mpr ?_
    simp_all [decodeRaw, decodeMajor1D, fld, -BitVec.reduceAppend]
  case mma | mzero =>
    simp only [Instr.wf.eq_def] at hwf
    refine (readBack_iff rfl).mpr ?_
    simp_all [decodeRaw, decodeMajor1E, fld, -BitVec.reduceAppend]
  case mbatch | episet | drain =>
    refine (readBack_iff rfl).mpr ?_
    simp_all [decodeRaw, decodeMajor1F, fld, -BitVec.reduceAppend]
  case resolveC | resolveS | vidq | vidqFree | specchk | specchkLive | sigsync =>
    refine (readBack_iff rfl).mpr ?_
    simp_all [decodeRaw, decodeMajor20, fld, -BitVec.reduceAppend]
  case egrsv | egpub | egpush | egrel | egrelV =>
    refine (readBack_iff rfl).mpr ?_
    simp_all [decodeRaw, decodeMajor21, fld, -BitVec.reduceAppend]
  case kvxl | kvappend | kvmap =>
    refine (readBack_iff rfl).mpr ?_
    simp_all [decodeRaw, decodeMajor22, fld, -BitVec.reduceAppend]
  case flpop | flpush =>
    refine (readBack_iff rfl).mpr ?_
    simp_all [decodeRaw, decodeMajor23, fld, -BitVec.reduceAppend]
  case emulatedMajor w =>
    simp only [Instr.wf.eq_def, Bool.and_eq_true, decide_eq_true_eq] at hwf
    exact (readBack_iff rfl).mpr (decodeRaw_of_emulated hwf)
  all_goals cases hg

theorem ximm_readBack (p : BitVec 26) : ReadBack xs (.ximm p) := by
  refine (readBack_iff rfl).mpr ?_
  simp [decodeRaw, fld, -BitVec.reduceAppend]

/-- An instruction that has a word has a form in one of the seven groups, or is an XIMM or an epilogue operation. -/
theorem word_groups (xs : List Ximm) (i : Instr) :
    ((formControl false i).isSome || (formScalar i).isSome || (formVector i).isSome || (formFloat i).isSome || (formCross i).isSome ||
      (formMemory false xs i).isSome || (formSystem false i).isSome || (i matches .ximm _) || isEpilogue i || (encode i).isNone) = true := by
  cases i <;> rfl

theorem packetWord_readBack {i : Instr} (hwf : i.wf = true) (hp : isEpilogue i = false) (hc : chosenBy i xs = true) : ReadBack xs i := by
  have hgroup := word_groups xs i
  simp only [hp, Bool.or_eq_true, Bool.false_eq_true, or_false] at hgroup
  rcases hgroup with (((((((h | h) | h) | h) | h) | h) | h) | h) | h
  · exact formControl_readBack h
  · exact formScalar_readBack h hwf
  · exact formVector_readBack h
  · exact formFloat_readBack h hwf
  · exact formCross_readBack h hwf
  · exact formMemory_readBack h hwf hc
  · exact formSystem_readBack h hwf
  · split at h
    · exact ximm_readBack _
    · cases h
  · intro w hw
    rw [hw] at h
    cases h

theorem decode_eq_some_iff {i : Instr} : decode xs w = some i ↔ decodeRaw xs w = some (i, true) := by
  unfold decode
  split <;> simp_all

end

end Sys2Proof

open Sys2Proof Sys2Proof.Machine

/-- Settles O37: each group of packet words is read back as its instruction, and each major's table reads from a word only what encodes to it. -/
theorem packetWordsRoundTrip : Obligations.PacketWordsRoundTrip := by
  refine ⟨fun xs i w hwf hp hc h => ?_, fun xs i w h => ?_⟩
  · exact decode_eq_some_iff.mpr (packetWord_readBack hwf hp hc w h)
  · exact decodeRaw_reads _ (decode_eq_some_iff.mp h) rfl

/-- Settles O39: the decoder is evaluated at each of the words. -/
theorem wordsDecodeToTheirInstructions : Obligations.WordsDecodeToTheirInstructions := by
  unfold Obligations.WordsDecodeToTheirInstructions
  decide

end

section
/-! PROOFS. Transfers, loops and words without effect (R115 to R118, R121, R122): where a slot goes, what it leaves, and what stays as it was. -/

namespace Sys2Proof.Machine

/-! ## Addresses of packets and words (R49, R82, R115) -/

theorem low4_eq_zero_iff (v : W64) : v &&& 0xF#64 = 0#64 ↔ v.toNat % 16 = 0 := by
  have hlow : (v &&& 0xF#64).toNat = v.toNat % 16 := Nat.and_two_pow_sub_one_eq_mod v.toNat 4
  rw [← BitVec.toNat_inj, hlow]
  rfl

theorem low2_eq_zero_iff (v : W64) : v &&& 3#64 = 0#64 ↔ v.toNat % 4 = 0 := by
  have hlow : (v &&& 3#64).toNat = v.toNat % 4 := Nat.and_two_pow_sub_one_eq_mod v.toNat 2
  rw [← BitVec.toNat_inj, hlow]
  rfl

/-- A multiple of 16 is the address of a packet. -/
theorem packetOf_of_aligned {v : W64} (h : v.toNat % 16 = 0) : packetOf v = v := and_not_of_and_eq_zero ((low4_eq_zero_iff v).mpr h)

theorem slot1_of_aligned {v : W64} (h : v.toNat % 16 = 0) : slot1 v = v + 4#64 := congrArg (· + 4#64) (packetOf_of_aligned h)

/-- A displacement in packets names a packet (R115). -/
theorem Ctx.target_aligned (c : Ctx) (disp : W64) : (c.target disp).toNat % 16 = 0 := by
  have hpacket := packetOf_toNat_mod c.iss.tpc
  rw [Ctx.target, BitVec.toNat_add, BitVec.toNat_shiftLeft, Nat.shiftLeft_eq]
  omega

theorem Ctx.target_eq (c : Ctx) (disp : W64) : c.target disp = c.packetAt disp - 4#64 := by
  have hshift : disp <<< 4 = 16#64 * disp := by
    rw [BitVec.shiftLeft_eq_mul_twoPow, BitVec.mul_comm]
    rfl
  rw [Ctx.target, Ctx.packetAt, BitVec.add_sub_cancel, hshift]
  rfl

theorem Ctx.slot1_target (c : Ctx) (disp : W64) : slot1 (c.target disp) = c.packetAt disp := by
  rw [slot1_of_aligned (c.target_aligned disp), c.target_eq, BitVec.sub_add_cancel]

/-- Slot 1 of the packet after the one that a displacement names (R121). -/
theorem Ctx.slot1_after_target (c : Ctx) (disp : W64) : slot1 (c.target disp + 16#64) = c.packetAt disp - 4#64 + 20#64 := by
  have haligned := c.target_aligned disp
  rw [slot1_of_aligned, c.target_eq, BitVec.add_assoc]
  · rfl
  · rw [BitVec.toNat_add, BitVec.toNat_ofNat]
    omega

/-! ## The run that a transfer ends (R31, R117) -/

section
variable {c : Ctx} {s t : State} {vs ss ps : List Nat} {x : Loosen}

theorem Ctx.my_endRunOf (c : Ctx) (s : State) (w : SlotId) : c.my (s.endRunOf c.k c.a w) = c.my s := by
  obtain ⟨f, hf⟩ := s.endRunOf_eq c.k c.a w
  rw [hf]
  exact State.thread_updCore_rest _ _ _ _ fun _ => rfl

theorem Ctx.runEnded_endRunOf (c : Ctx) (s : State) : c.runEnded (s.endRunOf c.k c.a c.iss.slot) := fun _ hcore ha => State.endRunOf_ends ha hcore

theorem Ctx.rest_endRunOf (hports : ∀ y ports, x.core { y with ports := ports } = x.core y) (w : SlotId) :
    c.rest (s.endRunOf c.k c.a w) vs ss ps x = c.rest s vs ss ps x := by
  obtain ⟨f, hf⟩ := s.endRunOf_eq c.k c.a w
  rw [hf]
  exact Ctx.rest_updCore fun y => hports y _

/-- What agrees without the run that may end agrees with it. -/
theorem Ctx.rest_looseRun (h : c.rest t vs ss ps = c.rest s vs ss ps) : c.rest t vs ss ps looseRun = c.rest s vs ss ps looseRun :=
  Ctx.rest_loosen h looseRun_besideThreads (fun _ _ => rfl) rfl

/-- Where a slot is sent makes no difference to the rest. -/
theorem Ctx.rest_goto (w : W64) : c.rest (s.goto c.k c.a c.iss.slot w) vs ss ps = c.rest s vs ss ps :=
  Ctx.rest_updThread _ _ _ _ _ _ fun _ => by cases c.iss.slot <;> rfl

theorem Ctx.my_goto (hp : c.present s) (pc : W64) :
    c.my (s.goto c.k c.a c.iss.slot pc) = (c.my s).updSlot c.iss.slot fun sl => { sl with st := .live, pc := pc } := Ctx.my_updThread hp _

/-- What a taken transfer does (R115, R117). -/
theorem Ctx.jump_spec (hp : c.present s) (pc : W64) :
    c.my (c.jump pc s) = ((c.my s).updSlot c.iss.slot fun sl => { sl with st := .live, pc := pc }) ∧ c.lands s (c.jump pc s) pc ∧
      c.runEnded (c.jump pc s) ∧ c.rest (c.jump pc s) vs ss ps looseRun = c.rest s vs ss ps looseRun := by
  have hmy : c.my (c.jump pc s) = (c.my s).updSlot c.iss.slot fun sl => { sl with st := .live, pc := pc } :=
    (c.my_endRunOf _ _).trans (Ctx.my_goto hp pc)
  refine ⟨hmy, ?_, c.runEnded_endRunOf _, (Ctx.rest_endRunOf (fun _ _ => rfl) _).trans (Ctx.rest_looseRun (Ctx.rest_goto pc))⟩
  rw [Ctx.lands, hmy]
  cases c.iss.slot <;> exact ⟨rfl, rfl, rfl⟩

/-- A jump is the same seen from before a change of the thread that left its loop stack alone. -/
theorem Ctx.lands_of_loops {s' : State} {pc : W64} (h : c.lands s t pc) (hl : (c.my s).loops = (c.my s').loops) : c.lands s' t pc := by
  obtain ⟨hst, hpc, hloops⟩ := h
  exact ⟨hst, hpc, hloops.trans hl⟩

/-! ## Links (R115, R116) -/

/-- A call's state with the link written, before the transfer. -/
def Ctx.linked (c : Ctx) (d : BitVec 6) (taint : Bool) (s : State) : State :=
  s.updThread c.k c.a fun t =>
    ((t.remember s.now c.form.lat (.s d.toNat) allLanes).supersede (.s d.toNat) allLanes).setS d.toNat (nextPc c.iss.tpc) taint

/-- A call leaves its link and goes to its target (R115). -/
theorem Ctx.call_spec (hp : c.present s) (d : BitVec 6) (taint : Bool) (pc : W64) :
    let t := c.jump pc (c.linked d taint s)
    c.lands s t pc ∧ c.runEnded t ∧ (c.my t).sreg d.toNat = { val := nextPc c.iss.tpc, poison := false, taint := taint } ∧
      c.rest t [] [d.toNat] [] looseRun = c.rest s [] [d.toNat] [] looseRun := by
  have hnm : isNamed [] [d.toNat] [] (.s d.toNat) = true := by simp [isNamed]
  have hlink : c.my (c.linked d taint s) = ((((c.my s).remember s.now c.form.lat (.s d.toNat) allLanes).supersede (.s d.toNat) allLanes).setS d.toNat
      (nextPc c.iss.tpc) taint) := Ctx.my_updThread hp _
  obtain ⟨hmy, hlands, hrun, hrest⟩ := Ctx.jump_spec (s := c.linked d taint s) (vs := []) (ss := [d.toNat]) (ps := []) (Ctx.present_updThread hp _) pc
  refine ⟨Ctx.lands_of_loops hlands (by rw [hlink]; rfl), hrun, ?_, hrest.trans (Ctx.rest_looseRun (Ctx.rest_updThread _ _ _ _ _ _ fun u => ?_))⟩
  · rw [hmy, hlink]
    cases c.iss.slot <;> simp [Thread.sreg, Thread.updSlot, Thread.setS]
  · rw [Thread.except_setS _ _ _ _ _ _ _ _ _ (by simp), Thread.except_supersede _ _ _ _ _ _ _ _ hnm, Thread.except_remember _ _ _ _ _ _ _ _ _ hnm]

end

/-! ## The transfers (R115, R116, R125) -/

section
variable {s s1 : State} {i : Instr} {c : Ctx} {d a : BitVec 6}

/-- A branch that is not divergent takes all lanes of its slot (R125). -/
theorem brv_uniform (h : s.acting .brv = some (c, s1)) (hall : c.pass = c.mask) : exec .brv s = .next (c.jump (c.packetAt c.x) s1) := by
  refine (issueWith_acting h _ _ _ rfl).trans (congrArg _ ?_)
  dsimp only
  rw [if_pos (by rw [hall]; exact BitVec.and_not_self _), c.slot1_target]

/-- The link of a call through a register has the taint of that register (R50). -/
theorem State.acting_callTaint (h : s.acting (.callReg d a) = some (c, s1)) : c.taintAny = (c.th.sreg a.toNat).taint := by
  have hform : c.form = form c.ap c.iss.xs (.callReg d a) := State.acting_form h
  have hsr : c.form.sr = [a.toNat] := by rw [hform]; rfl
  have hreads (l : Nat) : c.reads l = [] := by rw [Ctx.reads, hform]; rfl
  simp only [Ctx.taintAny, Ctx.taintAt, hsr, hreads, List.any_cons, List.any_nil, Bool.or_false]
  rw [Bool.or_eq_left_iff_imp, List.any_eq_true]
  rintro ⟨-, -, htaint⟩
  exact htaint

/-- A transfer that is taken without a link: whatever would be said of a link is said of none. -/
theorem State.acting_jumps {pc : W64} {P : State → BitVec 6 → Prop} (h : s.acting i = some (c, s1)) (hdo : exec i s = .next (c.jump pc s1)) :
    ∃ t, exec i s = .next t ∧ c.lands s1 t pc ∧ c.runEnded t ∧ (∀ d, none = some d → P t d) ∧ c.rest t [] [] [] looseRun = c.rest s1 [] [] [] looseRun := by
  obtain ⟨-, hlands, hrun, hrest⟩ := Ctx.jump_spec (vs := []) (ss := []) (ps := []) (State.acting_present h) pc
  exact ⟨_, hdo, hlands, hrun, fun _ hd => (by cases hd), hrest⟩

/-- A transfer that leaves a link. -/
theorem State.acting_calls {pc : W64} {taint : Bool} (h : s.acting i = some (c, s1)) (hdo : exec i s = .next (c.jump pc (c.linked d taint s1))) :
    ∃ t, exec i s = .next t ∧ c.lands s1 t pc ∧ c.runEnded t ∧
      (c.my t).sreg d.toNat = { val := nextPc c.iss.tpc, poison := false, taint := taint } ∧
      c.rest t [] [d.toNat] [] looseRun = c.rest s1 [] [d.toNat] [] looseRun :=
  ⟨_, hdo, Ctx.call_spec (State.acting_present h) d taint pc⟩

theorem jmp_taken (h : s.acting (.jmp a) = some (c, s1)) (hal : (c.s a).toNat % 16 = 0) : exec (.jmp a) s = .next (c.jump (c.s a + 4#64) s1) := by
  refine (issue_acting h _ _ rfl).trans (congrArg _ ?_)
  dsimp only
  rw [if_neg (not_not.mpr ((low4_eq_zero_iff _).mpr hal)), slot1_of_aligned hal]

theorem callReg_taken (h : s.acting (.callReg d a) = some (c, s1)) (hal : (c.s a).toNat % 16 = 0) :
    exec (.callReg d a) s = .next (c.jump (c.s a + 4#64) (c.linked d (c.th.sreg a.toNat).taint s1)) := by
  refine (issue_acting h _ _ rfl).trans (congrArg _ ?_)
  dsimp only
  rw [if_neg (not_not.mpr ((low4_eq_zero_iff _).mpr hal)), slot1_of_aligned hal, ← State.acting_callTaint h]
  rfl

theorem callDisp_taken (h : s.acting (.callDisp d) = some (c, s1)) : exec (.callDisp d) s = .next (c.jump (c.packetAt c.x) (c.linked d false s1)) := by
  rw [← c.slot1_target]
  exact issue_acting h _ _ rfl

theorem bra_taken {e : BitVec 26} (h : s.acting (.bra e) = some (c, s1)) : exec (.bra e) s = .next (c.jump (c.packetAt (c.disp26 e)) s1) := by
  rw [← c.slot1_target]
  exact issue_acting h _ _ rfl

/-- Where a return goes whose address is a word's (R115). -/
theorem Ctx.transfer_ret {pc : W64} {link : Option (BitVec 6)} (hgo : c.transfer (.ret a) = some (pc, link)) :
    (c.s a).toNat % 4 = 0 ∧ pc = (if (c.s a).toNat % 16 = 0 then c.s a + 4#64 else c.s a) ∧ link = none := by
  change (if (c.s a).toNat % 16 = 0 then some (c.s a + 4#64, none) else if (c.s a).toNat % 4 = 0 then some (c.s a, none) else none) = _ at hgo
  split at hgo
  · next h16 =>
    cases hgo
    exact ⟨by omega, (if_pos h16).symm, rfl⟩
  · next h16 =>
    obtain ⟨h4, hto⟩ := Option.ite_none_right_eq_some.mp hgo
    cases hto
    exact ⟨h4, (if_neg h16).symm, rfl⟩

/-- A return to a packet goes to its slot 1, and one to another word goes there (R115). -/
theorem ret_taken (h : s.acting (.ret a) = some (c, s1)) (hal : (c.s a).toNat % 4 = 0) :
    exec (.ret a) s = .next (c.jump (if (c.s a).toNat % 16 = 0 then c.s a + 4#64 else c.s a) s1) := by
  refine (issue_acting h _ _ rfl).trans (congrArg _ ?_)
  dsimp only
  rw [if_neg (not_not.mpr ((low2_eq_zero_iff _).mpr hal)), placeOf_eq]
  by_cases h16 : (c.s a).toNat % 16 = 0
  · rw [if_pos (by omega), if_pos h16, slot1_of_aligned h16]
  · rw [if_neg (by omega), if_neg h16]

end

/-! ## Loops (R121, R122) -/

section
variable {s s1 : State} {c : Ctx} {a : BitVec 6}

theorem count_eq_zero_iff (v : W64) : v.setWidth 32 = 0#32 ↔ v.toNat % 2 ^ 32 = 0 := by
  rw [← BitVec.toNat_inj, BitVec.toNat_setWidth]
  rfl

/-- A count of 0 skips the body (R121). -/
theorem loop_skips (h : s.acting (.loop a) = some (c, s1)) (hcheck : loopCheck c s1 = none) (hzero : (c.s a).toNat % 2 ^ 32 = 0) :
    exec (.loop a) s = .next (c.jump (c.packetAt c.x - 4#64 + 20#64) s1) := by
  refine (issue_acting h _ _ hcheck).trans (congrArg _ ?_)
  dsimp only
  rw [if_pos ((count_eq_zero_iff _).mpr hzero), c.slot1_after_target]

/-- A thread inside one more loop (R121). -/
def Thread.inLoop (t : Thread) (l : LoopEntry) : Thread := { t with loops := l :: t.loops }

/-- Another count enters the body (R121). -/
theorem loop_enters (h : s.acting (.loop a) = some (c, s1)) (hcheck : loopCheck c s1 = none) (hcount : (c.s a).toNat % 2 ^ 32 ≠ 0) :
    exec (.loop a) s = .next ((s1.updThread c.k c.a fun t =>
      t.inLoop { start := nextPc c.iss.tpc, last := c.packetAt c.x - 4#64, count := BitVec.ofNat 32 (c.s a).toNat }).goto
        c.k c.a c.iss.slot (nextPc c.iss.tpc)) := by
  refine (issue_acting h _ _ hcheck).trans (congrArg _ ?_)
  dsimp only
  rw [if_neg (mt (count_eq_zero_iff _).mp hcount), c.target_eq]
  rfl

/-- `LOOPBRK` leaves the innermost loop (R122). -/
theorem loopbrk_leaves {l : LoopEntry} {rest : List LoopEntry} (h : s.acting .loopbrk = some (c, s1)) (hloops : (c.my s1).loops = l :: rest) :
    exec .loopbrk s = .next (c.jump (slot1 (l.last + 16#64)) (s1.updThread c.k c.a fun t => { t with loops := rest })) := by
  have hth : c.th.loops = l :: rest := (State.acting_field h (F := Thread.loops) fun _ _ _ _ => rfl).trans hloops
  refine (issue_acting h _ _ (by simp [loopbrkCheck, hth])).trans (congrArg _ ?_)
  simp only [hth]

/-! ## Words without effect (R118) -/

theorem nop_goes (h : s.acting .nop = some (c, s1)) : exec .nop s = .next (c.next s1) := issue_acting h _ _ rfl

theorem State.acting_ap {i : Instr} (h : s.acting i = some (c, s1)) : c.ap = true ↔ c.a = apAgent := by
  have ha := (State.acting_present h).2
  simp only [Ctx.ap, decide_eq_true_eq, apAgent, Ctx.a] at ha ⊢
  omega

/-- The yield hint of a thread may change too, and its run may end. -/
def looseYield : Loosen := { thread := fun t => { t with hint := .neutral }, core := fun y => { y with ports := [] } }

theorem looseYield_besideThreads : looseYield.besideThreads := fun _ _ => rfl

/-- In a warp `YIELD` leaves its hint, goes on and ends the run (R118). -/
theorem yield_warp (h : s.acting .yield = some (c, s1)) (hwarp : c.a ≠ apAgent) :
    ∃ t, exec .yield s = .next t ∧ c.falls s1 t ∧ c.rest t [] [] [] looseYield = c.rest s1 [] [] [] looseYield ∧ (c.my t).hint = .yield ∧ c.runEnded t := by
  have hp := State.acting_present h
  let s2 := s1.updThread c.k c.a fun t => { t with hint := .yield }
  have hmy : c.my s2 = { c.my s1 with hint := .yield } := Ctx.my_updThread hp _
  have hp2 : c.present s2 := Ctx.present_updThread hp _
  have hn : (c.my s2).ahead = none := by rw [hmy]; exact State.acting_notAhead h
  have hfalls : c.falls s1 (c.next s2) := Ctx.falls_of_loops (Ctx.falls_next hp2 hn) (by rw [hmy])
  have hmy3 : c.my ((c.next s2).endRunOf c.k c.a c.iss.slot) = c.my (c.next s2) := c.my_endRunOf _ _
  refine ⟨_, (issue_acting h _ _ rfl).trans (congrArg _ (if_neg (mt (State.acting_ap h).mp hwarp))), ?_, ?_, ?_, c.runEnded_endRunOf _⟩
  · rw [Ctx.falls, hmy3]
    exact hfalls
  · exact (Ctx.rest_endRunOf (fun _ _ => rfl) _).trans ((Ctx.rest_next looseYield_besideThreads (fun _ w _ => by cases w <;> rfl) hn).trans
      (Ctx.rest_loosenThread looseYield_besideThreads fun _ => rfl))
  · rw [hmy3, Ctx.my_next hp2 hn, hmy]
    exact (congrArg Thread.hint (Thread.apart_advanced _ _ _) :)

end

end Sys2Proof.Machine

open Sys2Proof Sys2Proof.Machine

/-- Settles O13: each transfer is a jump, with or without a link (`State.acting_jumps`, `State.acting_calls`). -/
theorem takenTransfersGoToTheirTarget : Obligations.TakenTransfersGoToTheirTarget := by
  unfold Obligations.TakenTransfersGoToTheirTarget
  intro i s s1 c pc link h hgo
  cases i
  case jmp a =>
    obtain ⟨hal, hto⟩ := (Option.ite_none_right_eq_some (p := (c.s a).toNat % 16 = 0)).mp hgo
    cases hto
    exact State.acting_jumps h (jmp_taken h hal)
  case callReg d a =>
    obtain ⟨hal, hto⟩ := (Option.ite_none_right_eq_some (p := (c.s a).toNat % 16 = 0)).mp hgo
    cases hto
    obtain ⟨t, ht, hlands, hrun, hlink, hrest⟩ := State.acting_calls h (callReg_taken h hal)
    exact ⟨t, ht, hlands, hrun, fun _ hd => (by cases hd; exact hlink), hrest⟩
  case callDisp d =>
    cases hgo
    obtain ⟨t, ht, hlands, hrun, hlink, hrest⟩ := State.acting_calls h (callDisp_taken h)
    exact ⟨t, ht, hlands, hrun, fun _ hd => (by cases hd; exact hlink), hrest⟩
  case ret a =>
    obtain ⟨hal, rfl, rfl⟩ := Ctx.transfer_ret hgo
    exact State.acting_jumps h (ret_taken h hal)
  case bra e =>
    cases hgo
    exact State.acting_jumps h (bra_taken h)
  case brv =>
    obtain ⟨hall, hto⟩ := (Option.ite_none_right_eq_some (p := c.pass = c.mask)).mp hgo
    cases hto
    exact State.acting_jumps h (brv_uniform h hall)
  all_goals cases hgo

/-- Settles O14: the checks of the target come before the link. -/
theorem misalignedTargetsTrap : Obligations.MisalignedTargetsTrap := by
  unfold Obligations.MisalignedTargetsTrap
  intro d a s s1 c
  refine ⟨fun h hmis => ?_, fun h hmis => ?_, fun h hmis => ?_⟩
  · exact (issue_acting h _ _ rfl).trans (congrArg _ (if_pos (mt (low4_eq_zero_iff _).mp hmis)))
  · exact (issue_acting h _ _ rfl).trans (congrArg _ (if_pos (mt (low4_eq_zero_iff _).mp hmis)))
  · exact (issue_acting h _ _ rfl).trans (congrArg _ (if_pos (mt (low2_eq_zero_iff _).mp hmis)))

/-- Settles O15: a loop is skipped by a jump (`loop_skips`), entered by a push (`loop_enters`) and left by a jump (`loopbrk_leaves`). -/
theorem loopsPushSkipAndBreak : Obligations.LoopsPushSkipAndBreak := by
  unfold Obligations.LoopsPushSkipAndBreak
  intro a s s1 c
  refine ⟨fun h hcheck => ?_, fun l rest h hloops => ?_⟩
  · intro last
    by_cases hzero : (c.s a).toNat % 2 ^ 32 = 0
    · obtain ⟨t, ht, hlands, hrun, -, hrest⟩ := State.acting_jumps (P := fun _ _ => True) h (loop_skips h hcheck hzero)
      exact ⟨t, ht, hrest, fun _ => ⟨hlands, hrun⟩, fun hcount => absurd hzero hcount⟩
    · have hp := State.acting_present h
      refine ⟨_, loop_enters h hcheck hzero, ?_, fun h0 => absurd h0 hzero, fun _ => ?_⟩
      · exact Ctx.rest_looseRun ((Ctx.rest_goto _).trans (Ctx.rest_updThread _ _ _ _ _ _ fun _ => by cases c.iss.slot <;> rfl))
      · rw [Ctx.my_goto (Ctx.present_updThread hp _), Ctx.my_updThread hp]
        cases c.iss.slot <;> exact ⟨rfl, rfl, rfl⟩
  · have hp := State.acting_present h
    obtain ⟨-, ⟨hst, hpc, hleft⟩, hrun, hrest⟩ := Ctx.jump_spec (s := s1.updThread c.k c.a fun t => { t with loops := rest }) (vs := []) (ss := []) (ps := [])
      (Ctx.present_updThread hp _) (slot1 (l.last + 16#64))
    refine ⟨_, loopbrk_leaves h hloops, hst, hpc, hleft.trans (by rw [Ctx.my_updThread hp]), hrun, hrest.trans ?_⟩
    exact Ctx.rest_looseRun (Ctx.rest_updThread _ _ _ _ _ _ fun _ => by cases c.iss.slot <;> rfl)

/-- Settles O17: in the access processor `YIELD` goes on as `NOP` does; in a warp see `yield_warp`. -/
theorem wordsWithoutEffectOnlyGoOn : Obligations.WordsWithoutEffectOnlyGoOn := by
  unfold Obligations.WordsWithoutEffectOnlyGoOn
  intro x s s1 c
  have goesOn {i : Instr} (h : s.acting i = some (c, s1)) : c.falls s1 (c.next s1) ∧ c.rest (c.next s1) [] [] [] = c.rest s1 [] [] [] :=
    ⟨Ctx.falls_next (State.acting_present h) (State.acting_notAhead h), Ctx.rest_next (fun _ _ => rfl) (fun _ _ _ => rfl) (State.acting_notAhead h)⟩
  refine ⟨fun h => ⟨_, nop_goes h, goesOn h⟩, fun h => ?_, fun iss hcur => ?_⟩
  · intro loose
    by_cases hap : c.a = apAgent
    · obtain ⟨hfalls, hrest⟩ := goesOn h
      exact ⟨_, (issue_acting h _ _ rfl).trans (congrArg _ (if_pos ((State.acting_ap h).mpr hap))), hfalls,
        Ctx.rest_loosen hrest looseYield_besideThreads (fun _ _ => by cases c.iss.slot <;> rfl) rfl, fun _ => hrest, fun hwarp => absurd hap hwarp⟩
    · obtain ⟨t, ht, hfalls, hrest, hhint, hrun⟩ := yield_warp h hap
      exact ⟨t, ht, hfalls, hrest, fun h16 => absurd h16 hap, fun _ => ⟨hhint, hrun⟩⟩
  · change execXimm x s = _
    rw [execXimm, hcur]

end

section
/-! PROOFS. Branches that diverge and joins that open (R123 to R125): pushing a frame, and what writing frames to memory leaves of the threads. -/

namespace Sys2Proof.Machine

/-! ## What frames in memory leave of the threads (R367) -/

/-- Of the threads of the package nothing has changed, and every block is still there. -/
def State.threadsKept (s t : State) : Prop := ∀ k, (t.core? k).map Core.thr = (s.core? k).map Core.thr

namespace State.threadsKept

variable {s t u : State}

@[refl] theorem refl (s : State) : s.threadsKept s := fun _ => rfl

theorem trans (h : s.threadsKept t) (h' : t.threadsKept u) : s.threadsKept u := fun k => (h' k).trans (h k)

theorem of_cores (h : t.cores = s.cores) : s.threadsKept t := fun k => by rw [State.core?, h, State.core?]

theorem of_cachesOnly (h : s.cachesOnly t) : s.threadsKept t := fun k => by
  have hk := congrArg (Option.map Core.thr) (h k)
  simp only [Option.map_map] at hk
  exact hk

theorem of_slices (h : s.slicesOnly t) : s.threadsKept t := .of_cores h.cores

theorem updCore (s : State) (k : Nat) {f : Core → Core} (hf : ∀ c : Core, (f c).thr = c.thr) : s.threadsKept (s.updCore k f) := fun j => by
  by_cases hj : j = k
  · subst hj
    rw [State.core?_updCore_same, Option.map_map]
    exact congrArg (fun g => (s.core? j).map g) (funext hf)
  · rw [State.core?_updCore_other _ _ _ _ hj]

theorem foldl {α : Type} (l : List α) (f : State → α → State) (hf : ∀ (s : State) x, s.threadsKept (f s x)) (s : State) : s.threadsKept (l.foldl f s) := by
  induction l generalizing s with
  | nil => exact .refl s
  | cons x l ih => exact (hf s x).trans (ih _)

theorem thread (h : s.threadsKept t) (k a : Nat) : t.thread k a = s.thread k a := by
  have hk := h k
  unfold State.thread
  cases hs : s.core? k <;> cases ht : t.core? k <;> simp_all [Core.thread]

theorem present {c : Ctx} (h : s.threadsKept t) (hp : c.present s) : c.present t := by
  refine ⟨?_, hp.2⟩
  have hk := congrArg Option.isSome (h c.k)
  simp only [Option.isSome_map] at hk
  exact hk.trans hp.1

end State.threadsKept

theorem State.reframe_threadsKept (s : State) (k w : Nat) : s.threadsKept (s.reframe k w) := .updCore s k fun _ => rfl

theorem State.requestPage_threadsKept (s : State) (die asid page : Nat) (frag : Option (Nat × Nat)) (big : Bool) :
    s.threadsKept (s.requestPage die asid page frag big) := .of_cores (State.updDie_cores _ _ _)

theorem State.reportFatal_threadsKept (s : State) (k agent : Nat) (detail : W8) (pc addr : W64) (sect : W8) :
    s.threadsKept (s.reportFatal k agent detail pc addr sect) := by
  unfold State.reportFatal
  split
  · rfl
  · split
    · split
      · exact .updCore s k fun _ => rfl
      · rfl
    · exact .of_cores rfl

theorem State.writeFrame_threadsKept (s : State) (k w i : Nat) (f : Frame) : s.threadsKept (s.writeFrame k w i f) := by
  unfold State.writeFrame
  split
  · rfl
  · next c _ =>
    have htr := s.translate_cachesOnly k c.launch.asid (c.frameAddr w i) .write
    dsimp only
    split
    · next h =>
      exact (State.threadsKept.of_cachesOnly (htr.of_fst h)).trans
        ((State.threadsKept.of_slices (State.engineWrite_slicesOnly _ _ _ _ _)).trans (.of_slices (State.engineWrite_slicesOnly _ _ _ _ _)))
    · next h => exact (State.threadsKept.of_cachesOnly (htr.of_fst h)).trans (State.reportFatal_threadsKept _ _ _ _ _ _ _)
    · next h =>
      exact (State.threadsKept.of_cachesOnly (htr.of_fst h)).trans ((State.requestPage_threadsKept _ _ _ _ _ _).trans (State.reframe_threadsKept _ _ _))
    · next h => exact (State.threadsKept.of_cachesOnly (htr.of_fst h)).trans (State.reframe_threadsKept _ _ _)

theorem State.writeFrames_threadsKept (s : State) (k w : Nat) : s.threadsKept (s.writeFrames k w) :=
  .foldl _ (fun (s : State) (x : Nat × Frame) => s.writeFrame k w x.1 x.2) (fun s x => s.writeFrame_threadsKept k w x.1 x.2) s

theorem State.pushReady_threadsKept (s : State) (k w : Nat) : s.threadsKept (s.pushReady k w).1 := by
  unfold State.pushReady
  split
  · rfl
  · next c _ =>
    have htr := s.translate_cachesOnly k c.launch.asid (c.frameAddr w (c.thread w).stack.length) .write
    dsimp only
    split
    · next h => exact (State.threadsKept.of_cachesOnly (htr.of_fst h)).trans (State.requestPage_threadsKept _ _ _ _ _ _)
    · next h => exact .of_cachesOnly (htr.of_fst h)
    · next h => exact .of_cachesOnly (htr.of_fst h)

/-- The block after the run of a slot has been ended. -/
theorem State.endRunOf_core {s : State} {k : Nat} {core : Core} (hc : s.core? k = some core) (a : Nat) (w : SlotId) :
    ∃ d ports, (s.endRunOf k a w).core? k = some d ∧ d = { core with ports := ports } := by
  obtain ⟨f, hf⟩ := s.endRunOf_eq k a w
  exact ⟨_, f core, by rw [hf, State.core?_updCore_same, hc, Option.map_some], rfl⟩

/-! ## Pushing a frame (R123) -/

section
variable {s s1 : State} {i : Instr} {c : Ctx}

/-- A thread with one more frame. -/
def Thread.withFrame (t : Thread) (f : Frame) : Thread := { t with stack := f :: t.stack }

@[simp] theorem Thread.slot_withFrame (t : Thread) (f : Frame) (w : SlotId) : (t.withFrame f).slot w = t.slot w := by cases w <;> rfl

/-- A frame pushed by an instruction, once the place where it goes is in reach. -/
def Ctx.pushed (c : Ctx) (f : Frame) (s : State) : State := (s.pushReady c.k c.a).1.pushFrame c.k c.a f

theorem Ctx.pushed_spec {s : State} (hp : c.present s) (f : Frame) : c.present (c.pushed f s) ∧ c.my (c.pushed f s) = (c.my s).withFrame f := by
  have hready := s.pushReady_threadsKept c.k c.a
  have hpr := hready.present hp
  have hwrite := ((s.pushReady c.k c.a).1.updThread c.k c.a fun t => t.withFrame f).writeFrame_threadsKept c.k c.a
    ((s.pushReady c.k c.a).1.thread c.k c.a).stack.length f
  refine ⟨hwrite.present (Ctx.present_updThread hpr _), (hwrite.thread _ _).trans ?_⟩
  exact (Ctx.my_updThread hpr _).trans (congrArg (Thread.withFrame · f) (hready.thread _ _))

/-- An instruction that pushes a frame within its depth, where the frame's page is there, goes on with it (R123). -/
theorem Ctx.push_goes (h : s.acting i = some (c, s1)) (hdepth : (c.my s1).stack.length < c.core.launch.divFrames)
    (hready : (s1.pushReady c.k c.a).2 = true) (f : Frame) (go : State → State) : c.push f s1 go = go (c.pushed f s1) := by
  have hstack : c.th.stack = (c.my s1).stack := State.acting_field h (F := Thread.stack) fun _ _ _ _ => rfl
  unfold Ctx.push
  rw [hstack, if_neg (by omega)]
  simp [hready, Ctx.pushed]

/-- Beyond the depth it raises the overflow trap (R123). -/
theorem Ctx.push_overflows (h : s.acting i = some (c, s1)) (hdepth : c.core.launch.divFrames ≤ (c.my s1).stack.length) (f : Frame) (go : State → State) :
    c.push f s1 go = c.trapWith 0x0C#8 0#8 c.pass s1 := by
  have hstack : c.th.stack = (c.my s1).stack := State.acting_field h (F := Thread.stack) fun _ _ _ _ => rfl
  unfold Ctx.push
  rw [hstack, if_pos hdepth]

/-- A slot is the same as the instruction reads it. -/
theorem State.acting_slot (h : s.acting i = some (c, s1)) (w : SlotId) : c.th.slot w = (c.my s1).slot w :=
  State.acting_field h (F := fun t => t.slot w) fun _ _ _ _ => by cases w <;> rfl

/-! ## Branches that diverge (R125) -/

/-- The passing lanes of a branch go to its target, and its run ends. -/
def Ctx.divert (c : Ctx) (s : State) : State :=
  (s.updThread c.k c.a fun t => t.updSlot c.iss.slot fun sl => { sl with st := .live, pc := c.packetAt c.x, mask := c.pass }).endRunOf c.k c.a c.iss.slot

theorem Thread.slot_updSlot_other (t : Thread) (w : SlotId) (f : Slot → Slot) : (t.updSlot (otherSlot w) f).slot w = t.slot w := by cases w <;> rfl

theorem Thread.otherSlot_updSlot (t : Thread) (w : SlotId) (f : Slot → Slot) : (t.updSlot w f).slot (otherSlot w) = t.slot (otherSlot w) := by cases w <;> rfl

/-- Besides the slot, a diverted branch leaves its thread alone. -/
theorem Ctx.divert_spec {s : State} (hp : c.present s) :
    let t := c.divert s
    (c.my t).slot c.iss.slot = { (c.my s).slot c.iss.slot with st := .live, pc := c.packetAt c.x, mask := c.pass } ∧
      (c.my t).slot (otherSlot c.iss.slot) = (c.my s).slot (otherSlot c.iss.slot) ∧ (c.my t).stack = (c.my s).stack ∧
      (c.my t).loops = (c.my s).loops ∧ c.runEnded t ∧ (c.my t).apart = (c.my s).apart := by
  intro t
  have hmy : c.my t = (c.my s).updSlot c.iss.slot fun sl => { sl with st := .live, pc := c.packetAt c.x, mask := c.pass } :=
    (c.my_endRunOf _ _).trans (Ctx.my_updThread hp _)
  rw [hmy, Thread.updSlot_slot, Thread.otherSlot_updSlot, Thread.apart_updSlot]
  refine ⟨rfl, rfl, ?_, ?_, c.runEnded_endRunOf _, rfl⟩
  all_goals cases c.iss.slot <;> rfl

/-- The lanes that pass are lanes of the slot, so that others stay where they are not all. -/
theorem State.acting_lanesStay (h : s.acting i = some (c, s1)) (hdiv : c.pass ≠ c.mask) : c.mask &&& ~~~c.pass ≠ 0#32 := by
  obtain ⟨core, -, -, hctx, -⟩ := State.acting_spec h
  obtain ⟨p, hpass⟩ : ∃ p, c.pass = c.mask &&& p := by
    rw [← show (mkCtx c.iss core i s).1 = c by rw [hctx]]
    exact ⟨_, rfl⟩
  rintro hnone
  refine hdiv ?_
  rw [hpass] at hnone ⊢
  ext j hj
  have hbit := congrArg (fun x => x[j]) hnone
  simp only [BitVec.getElem_and, BitVec.getElem_not, BitVec.getElem_zero] at hbit ⊢
  cases hm : c.mask[j] <;> cases hpj : p[j] <;> simp_all

/-- The effect of a branch that diverges: it splits its slot, with the frame of the lanes that stay where the other slot is taken. -/
theorem brv_diverges (h : s.acting .brv = some (c, s1)) (hdiv : c.pass ≠ c.mask) :
    exec .brv s = .next (if ((c.my s1).slot (otherSlot c.iss.slot)).st = .empty
      then c.divert (s1.updSlot c.k c.a (otherSlot c.iss.slot) fun _ =>
        { (c.my s1).slot c.iss.slot with st := .live, pc := nextPc c.iss.tpc, mask := c.mask &&& ~~~c.pass })
      else c.push (.path (nextPc c.iss.tpc) (c.mask &&& ~~~c.pass) ((c.my s1).slot c.iss.slot).ra ((c.my s1).slot c.iss.slot).fragId) s1 c.divert) := by
  have hth : c.th.ahead = none := (State.acting_field h (F := Thread.ahead) fun _ _ _ _ => rfl).trans (State.acting_notAhead h)
  refine (issueWith_acting h _ _ _ rfl).trans (congrArg _ ?_)
  dsimp only
  rw [if_neg (State.acting_lanesStay h hdiv), hth, Option.isSome_none, if_neg Bool.false_ne_true, c.slot1_target, State.acting_slot h, State.acting_slot h]
  rfl

theorem looseSlots_besideThreads : looseSlots.besideThreads := fun _ _ => rfl

/-- Changes of the slots alone make no difference beside them. -/
theorem looseSlots_updSlot (t : Thread) (w : SlotId) (f : Slot → Slot) : looseSlots.thread (t.updSlot w f) = looseSlots.thread t := by
  cases w <;> rfl

/-! ## Joins that open (R124) -/

/-- `RECONV` pushes its join and goes on with its address (R124). -/
theorem reconv_opens (h : s.acting .reconv = some (c, s1)) (hdepth : (c.my s1).stack.length < c.core.launch.divFrames)
    (hready : (s1.pushReady c.k c.a).2 = true) :
    exec .reconv s = .next (c.next ((c.pushed (.join (c.packetAt c.x - 4#64) c.mask 0#32 ((c.my s1).slot c.iss.slot).ra) s1).updSlot c.k c.a c.iss.slot
      fun sl => { sl with ra := some (c.packetAt c.x - 4#64) })) := by
  refine (issue_acting h _ _ rfl).trans (congrArg _ ?_)
  dsimp only
  rw [Ctx.push_goes h hdepth hready, c.target_eq, State.acting_slot h]

theorem Thread.advanced_stack (t : Thread) (w : SlotId) (tpc : W64) : (t.advanced w tpc).stack = t.stack := by cases w <;> rfl

theorem Thread.updSlot_stack (t : Thread) (w : SlotId) (f : Slot → Slot) : (t.updSlot w f).stack = t.stack := by cases w <;> rfl

/-- The slot goes on with the address of its join, whose frame is on top of the stack (R124). -/
theorem reconv_spec (h : s.acting .reconv = some (c, s1)) (hdepth : (c.my s1).stack.length < c.core.launch.divFrames)
    (hready : (s1.pushReady c.k c.a).2 = true) :
    ∃ t, exec .reconv s = .next t ∧ c.falls s1 t ∧ ((c.my t).slot c.iss.slot).ra = some (c.packetAt c.x - 4#64) ∧
      (c.my t).stack = .join (c.packetAt c.x - 4#64) c.mask 0#32 ((c.my s1).slot c.iss.slot).ra :: (c.my s1).stack ∧
      (c.my t).apart = (c.my s1).apart := by
  let f := Frame.join (c.packetAt c.x - 4#64) c.mask 0#32 ((c.my s1).slot c.iss.slot).ra
  let g : Slot → Slot := fun sl => { sl with ra := some (c.packetAt c.x - 4#64) }
  obtain ⟨hpushed, hframe⟩ := Ctx.pushed_spec (State.acting_present h) f
  have hset : c.my ((c.pushed f s1).updSlot c.k c.a c.iss.slot g) = ((c.my s1).withFrame f).updSlot c.iss.slot g :=
    (Ctx.my_updThread hpushed _).trans (congrArg (Thread.updSlot · _ _) hframe)
  have hp : c.present ((c.pushed f s1).updSlot c.k c.a c.iss.slot g) := Ctx.present_updThread hpushed _
  have hn : (c.my ((c.pushed f s1).updSlot c.k c.a c.iss.slot g)).ahead = none := by
    rw [hset, Thread.updSlot_ahead]
    exact State.acting_notAhead h
  have hmy := Ctx.my_next hp hn
  rw [hset] at hmy
  refine ⟨_, reconv_opens h hdepth hready, Ctx.falls_of_loops (Ctx.falls_next hp hn) ?_, ?_, ?_, ?_⟩
  · rw [hset]
    cases c.iss.slot <;> rfl
  · rw [hmy]
    cases c.iss.slot <;> rfl
  · rw [hmy, Thread.advanced_stack, Thread.updSlot_stack]
    rfl
  · rw [hmy, Thread.apart_advanced, Thread.apart_updSlot]
    rfl

end

end Sys2Proof.Machine

open Sys2Proof Sys2Proof.Machine

/-- Settles O23: the lanes that stay go to the other slot, or to a frame where it is taken (`brv_diverges`, `Ctx.pushed_spec`, `Ctx.push_overflows`). -/
theorem divergingBranchesSplitTheSlot : Obligations.DivergingBranchesSplitTheSlot := by
  unfold Obligations.DivergingBranchesSplitTheSlot
  intro s s1 c h hdiv other mine stay
  have hp := State.acting_present h
  have hdo := brv_diverges h hdiv
  refine ⟨fun hempty => ?_, fun htaken hdepth hready => ?_, fun htaken hdepth => ?_⟩
  · rw [if_pos hempty] at hdo
    have hstay : c.my (s1.updSlot c.k c.a other fun _ => { mine with st := .live, pc := nextPc c.iss.tpc, mask := stay }) = (c.my s1).updSlot other _ :=
      Ctx.my_updThread hp _
    obtain ⟨hmine, hother, hstack, hloops, hrun, -⟩ := Ctx.divert_spec (Ctx.present_updThread hp fun t =>
      t.updSlot other fun _ => { mine with st := .live, pc := nextPc c.iss.tpc, mask := stay })
    refine ⟨_, hdo, hmine.trans ?_, hother.trans ?_, hstack.trans ?_, hloops.trans ?_, hrun, ?_⟩
    · exact congrArg (fun sl : Slot => { sl with st := .live, pc := c.packetAt c.x, mask := c.pass })
        ((congrArg (fun t => t.slot c.iss.slot) hstay).trans (Thread.slot_updSlot_other _ _ _))
    · exact (congrArg (fun t => t.slot other) hstay).trans (Thread.updSlot_slot _ _ _)
    · exact (congrArg Thread.stack hstay).trans (by cases other <;> rfl)
    · exact (congrArg Thread.loops hstay).trans (by cases other <;> rfl)
    · refine (Ctx.rest_endRunOf (fun _ _ => rfl) _).trans ((Ctx.rest_loosenThread looseSlots_besideThreads fun u => ?_).trans
        (Ctx.rest_loosenThread looseSlots_besideThreads fun u => ?_))
      · rw [looseSlots_updSlot]
      · rw [looseSlots_updSlot]
  · rw [if_neg htaken, Ctx.push_goes h hdepth hready] at hdo
    obtain ⟨hpushed, hframe⟩ := Ctx.pushed_spec hp (.path (nextPc c.iss.tpc) stay mine.ra mine.fragId)
    obtain ⟨hmine, hother, hstack, hloops, hrun, hapart⟩ := Ctx.divert_spec hpushed
    rw [hframe] at hstack hloops hapart
    rw [hframe, Thread.slot_withFrame] at hmine hother
    exact ⟨_, hdo, hmine, hother, hstack, hloops, hrun, hapart⟩
  · rw [if_neg htaken, Ctx.push_overflows h hdepth] at hdo
    exact hdo

end

section
/-! PROOFS. Holders of lanes (R123 to R127): what settling a warp does to its slots and frames, and a slot that arrives at its join. -/

namespace Sys2Proof.Machine

/-! ## Settling keeps what no lanes stand in -/

/-- Of the threads of a block nothing but where their lanes stand has changed. -/
def Core.apartKept (c d : Core) : Prop := ∀ a, (d.thread a).apart = (c.thread a).apart

namespace Core.apartKept

variable {c d e : Core}

@[refl] theorem refl (c : Core) : c.apartKept c := fun _ => rfl

theorem trans (h : c.apartKept d) (h' : d.apartKept e) : c.apartKept e := fun a => (h' a).trans (h a)

theorem updThread (c : Core) (w : Nat) {f : Thread → Thread} (hf : ∀ t, (f t).apart = t.apart) : c.apartKept (c.updThread w f) := fun a => by
  by_cases ha : a = w
  · subst ha
    by_cases hw : a ≤ apAgent
    · rw [Core.thread_updThread_same _ _ _ hw, hf]
    · rw [Core.updThread, if_neg hw]
  · rw [Core.thread_updThread_other _ _ _ _ ha]

end Core.apartKept

theorem Core.freeFragment_apartKept (c : Core) (i : Nat) : c.apartKept (c.freeFragment i) := fun a => by
  unfold Core.freeFragment Core.thread nth
  cases h : c.thr[a]? <;> simp [h, Thread.apart]

theorem Core.refillOnce_apartKept {c d : Core} {w : Nat} (h : c.refillOnce w = some d) : c.apartKept d := by
  unfold Core.refillOnce at h
  dsimp only at h
  split at h
  · cases h
  · split at h
    · cases h
      exact (c.freeFragment_apartKept _).trans (.updThread _ _ fun t => t.apart_updSlot _ _)
    · split at h
      · cases h
        exact .updThread _ _ fun t => t.apart_updSlot _ _
      · cases h

theorem Core.refill_apartKept (c : Core) (w : Nat) : c.apartKept (c.refill w) := by
  unfold Core.refill
  split
  · rfl
  · next h =>
    split
    · exact Core.refillOnce_apartKept h
    · next h' => exact (Core.refillOnce_apartKept h).trans (Core.refillOnce_apartKept h')

theorem Core.settleJoins_apartKept (c : Core) (w n : Nat) : c.apartKept (c.settleJoins w n) := by
  induction n generalizing c with
  | zero => rfl
  | succ n ih =>
    unfold Core.settleJoins
    split
    · rfl
    · refine Core.apartKept.trans ?_ (ih _)
      exact .updThread _ _ fun _ => rfl
    · dsimp only
      refine Core.apartKept.trans ?_ (ih _)
      split
      · next sl _ => exact .updThread _ _ fun t => (t.apart_updSlot sl _ :)
      · exact .updThread _ _ fun _ => rfl

/-! ## A warp after it has lost lanes (R126, R127, R132) -/

@[simp] theorem Slot.dropEmpty_none : Slot.none.dropEmpty = Slot.none := rfl

@[simp] theorem Slot.dropEmpty_mask (sl : Slot) : sl.dropEmpty.mask = sl.mask := by
  unfold Slot.dropEmpty
  split
  · next h => exact h.symm
  · rfl

theorem Slot.dropEmpty_of_mask {sl : Slot} (h : sl.mask ≠ 0#32) : sl.dropEmpty = sl := if_neg h

theorem Slot.dropEmpty_of_empty {sl : Slot} (h : sl.mask = 0#32) : sl.dropEmpty = Slot.none := if_pos h

theorem Thread.dropEmpty_apart (t : Thread) : t.dropEmpty.apart = t.apart := by
  unfold Thread.dropEmpty
  dsimp only
  split
  · split <;> rfl
  · rfl

@[simp] theorem Thread.dropEmpty_stack (t : Thread) : t.dropEmpty.stack = t.stack := by
  unfold Thread.dropEmpty
  dsimp only
  split
  · split <;> rfl
  · rfl

@[simp] theorem Thread.dropEmpty_slot (t : Thread) (w : SlotId) : t.dropEmpty.slot w = (t.slot w).dropEmpty := by
  unfold Thread.dropEmpty
  dsimp only
  split
  · split <;> cases w <;> rfl
  · cases w <;> rfl

/-- Outside a handler nothing but the slots may change. -/
theorem Thread.dropEmpty_of_unhandled {t : Thread} (h : t.handler = none) : t.dropEmpty = { t with slotA := t.slotA.dropEmpty, slotB := t.slotB.dropEmpty } := by
  unfold Thread.dropEmpty
  dsimp only
  rw [h]

/-- A block after a warp has lost lanes. -/
def Core.settled (c : Core) (w : Nat) : Core := ((c.updThread w Thread.dropEmpty).settleJoins w 65).refill w

theorem Core.settled_apartKept (c : Core) (w : Nat) : c.apartKept (c.settled w) :=
  (Core.apartKept.updThread c w Thread.dropEmpty_apart).trans ((Core.settleJoins_apartKept _ w 65).trans (Core.refill_apartKept _ w))

theorem State.settle_eq (s : State) (k w : Nat) :
    s.settle k w = if ((s.updCore k fun c => c.settled w).thread k w).stack = (s.thread k w).stack then s.updCore k fun c => c.settled w
      else (s.updCore k fun c => c.settled w).writeFrames k w := rfl

theorem State.settle_thread {s : State} {k : Nat} {c : Core} (hc : s.core? k = some c) (w a : Nat) : (s.settle k w).thread k a = (c.settled w).thread a := by
  have hupd : (s.updCore k fun c => c.settled w).thread k a = (c.settled w).thread a := State.thread_of_core _ _ _ _ (by simp [hc])
  rw [State.settle_eq]
  split
  · exact hupd
  · exact ((State.writeFrames_threadsKept _ _ _).thread k a).trans hupd

/-- Where no slot can be filled from a fragment or a frame. -/
theorem Core.refill_of_none {c : Core} {w : Nat} (hfrag : c.readyFragment w = none) (hpath : takePath (c.thread w).stack = none) : c.refill w = c := by
  have honce : c.refillOnce w = none := by
    unfold Core.refillOnce
    dsimp only
    split
    · rfl
    · simp only [hfrag, hpath]
  rw [Core.refill, honce]

theorem Core.settleJoins_of_none {c : Core} {w : Nat} (n : Nat) (h : takeJoin (c.live w) (c.thread w).stack = none) : c.settleJoins w n = c := by
  cases n with
  | zero => rfl
  | succ n => rw [Core.settleJoins, h]

/-- Fragments are not looked up by the threads. -/
theorem Core.readyFragment_updThread (c : Core) (a w : Nat) (g : Thread → Thread) : (c.updThread a g).readyFragment w = c.readyFragment w := by
  rw [Core.updThread_eq]
  rfl

/-- The lanes of a warp, by its slots and frames. -/
theorem Core.live_eq (c : Core) (w : Nat) (sl : SlotId) :
    c.live w = (c.thread w).stack.foldl (fun m f => m ||| f.held) (((c.thread w).slot sl).mask ||| ((c.thread w).slot (otherSlot sl)).mask ||| c.fragLanes w) := by
  cases sl
  · rfl
  · rw [BitVec.or_comm (((c.thread w).slot .b).mask)]
    rfl

theorem Core.fragLanes_updThread (c : Core) (a w : Nat) (g : Thread → Thread) : (c.updThread a g).fragLanes w = c.fragLanes w := by
  rw [Core.updThread_eq]
  rfl

/-- A warp in which nothing completes and nothing fills a slot only drops its empty slots. -/
theorem Core.settled_of_none {c : Core} {w : Nat} (hw : w ≤ apAgent) (hjoin : takeJoin ((c.updThread w Thread.dropEmpty).live w) (c.thread w).stack = none)
    (hfrag : c.readyFragment w = none) (hpath : takePath (c.thread w).stack = none) : c.settled w = c.updThread w Thread.dropEmpty := by
  have hstack : ((c.updThread w Thread.dropEmpty).thread w).stack = (c.thread w).stack := by
    rw [Core.thread_updThread_same _ _ _ hw, Thread.dropEmpty_stack]
  rw [Core.settled, Core.settleJoins_of_none _ (by rw [hstack]; exact hjoin), Core.refill_of_none _ (by rw [hstack]; exact hpath)]
  rw [Core.readyFragment_updThread, hfrag]

/-! ## A slot arrives at its join (R126) -/

theorem eq_or_eq_otherSlot (x w : SlotId) : x = w ∨ x = otherSlot w := by cases x <;> cases w <;> decide

/-- A thread whose slot has gone into its frames. -/
def Thread.arrived (t : Thread) (w : SlotId) (st : List Frame) : Thread := { t.updSlot w (fun _ => Slot.none) with stack := st }

theorem Thread.arrived_slots (t : Thread) (w : SlotId) (st : List Frame) :
    (t.arrived w st).slot w = Slot.none ∧ (t.arrived w st).slot (otherSlot w) = t.slot (otherSlot w) ∧ (t.arrived w st).apart = t.apart := by
  cases w <;> exact ⟨rfl, rfl, rfl⟩

section
variable {c : Core} {a : Nat} {w : SlotId} {l : W64} {e together : W32} {sv : Option W64} {m : W32}

/-- The lanes that one frame and one slot hold are those of the warp. -/
theorem Core.live_arrived (hw : a ≤ apAgent) (hfrags : c.fragLanes a = 0#32) (hgone : ((c.thread a).slot w).mask = 0#32)
    (hstack : (c.thread a).stack = [.join l e together sv]) :
    (c.updThread a Thread.dropEmpty).live a = ((c.thread a).slot (otherSlot w)).mask ||| together := by
  rw [Core.live_eq _ _ w, Core.fragLanes_updThread, Core.thread_updThread_same _ _ _ hw, Thread.dropEmpty_stack, Thread.dropEmpty_slot, Thread.dropEmpty_slot,
    Slot.dropEmpty_mask, Slot.dropEmpty_mask, hfrags, hgone, hstack]
  simp [Frame.held]

/-- Where the lanes arrived are all that are expected of the live ones, none is missing. -/
theorem none_missing {e other together : W32} (h : together = (e &&& (other ||| together))) : e &&& other &&& ~~~together = 0#32 := by
  ext i hi
  have hbit := congrArg (fun x => x[i]) h
  revert hbit
  simp only [BitVec.getElem_and, BitVec.getElem_or, BitVec.getElem_not, BitVec.getElem_zero]
  cases e[i] <;> cases other[i] <;> cases together[i] <;> decide

/-- While a lane that is expected stands elsewhere, a join does not complete. -/
theorem takeJoin_of_missing {other : W32} (h : e &&& other &&& ~~~together ≠ 0#32) : takeJoin (other ||| together) [.join l e together sv] = none := by
  simp only [takeJoin, if_neg (mt none_missing h)]

/-- The slot that has arrived stays empty while its join waits for lanes. -/
theorem Core.settled_waits (hw : a ≤ apAgent) (hfrags : c.fragLanes a = 0#32) (hready : c.readyFragment a = none) (hgone : (c.thread a).slot w = Slot.none)
    (hstack : (c.thread a).stack = [.join l e together sv]) (hmissing : e &&& ((c.thread a).slot (otherSlot w)).mask &&& ~~~together ≠ 0#32) :
    ((c.settled a).thread a).slot w = Slot.none ∧ ((c.settled a).thread a).stack = [.join l e together sv] := by
  have hjoin : takeJoin ((c.updThread a Thread.dropEmpty).live a) (c.thread a).stack = none := by
    rw [Core.live_arrived hw hfrags (by rw [hgone]; rfl) hstack, hstack, takeJoin_of_missing hmissing]
  rw [Core.settled_of_none hw hjoin hready (by rw [hstack]; rfl), Core.thread_updThread_same _ _ _ hw, Thread.dropEmpty_slot, hgone, Thread.dropEmpty_stack]
  exact ⟨rfl, hstack⟩

/-- The lanes of a join that has completed go on together in slot A, and no frame is left (R126). -/
theorem Core.settled_joined (hw : a ≤ apAgent) (hfrags : c.fragLanes a = 0#32) (hready : c.readyFragment a = none) (hgone : (c.thread a).slot w = Slot.none)
    (hother : ((c.thread a).slot (otherSlot w)).mask = 0#32) (hstack : (c.thread a).stack = [.join l e e sv]) (he : e ≠ 0#32) :
    ((c.settled a).thread a).slotA = { st := .live, pc := slot1 l, mask := e, ra := sv, fragId := 0xFF#8 } ∧
      ((c.settled a).thread a).slotB = Slot.none ∧ ((c.settled a).thread a).stack = [] := by
  let d := c.updThread a Thread.dropEmpty
  have hthread : d.thread a = (c.thread a).dropEmpty := Core.thread_updThread_same _ _ _ hw
  have hslot (x : SlotId) : (d.thread a).slot x = Slot.none := by
    rw [hthread, Thread.dropEmpty_slot]
    obtain rfl | rfl := eq_or_eq_otherSlot x w
    · rw [hgone, Slot.dropEmpty_none]
    · exact Slot.dropEmpty_of_empty hother
  have hempty : (d.thread a).emptySlot = some .a := by
    have hA : (d.thread a).slotA = Slot.none := hslot .a
    rw [Thread.emptySlot, hA]
    rfl
  have htake : takeJoin (d.live a) (d.thread a).stack = some ([], some (slot1 l, e, sv), 0) := by
    rw [Core.live_arrived hw hfrags (by rw [hgone]; rfl) hstack, hother, hthread, Thread.dropEmpty_stack, hstack, BitVec.zero_or]
    simp [takeJoin, he]
  let x := d.updThread a fun t => { t.updSlot .a fun _ => { st := .live, pc := slot1 l, mask := e, ra := sv, fragId := 0xFF#8 } with stack := [] }
  have hx : x.thread a = { (d.thread a).updSlot .a fun _ => { st := .live, pc := slot1 l, mask := e, ra := sv, fragId := 0xFF#8 } with stack := [] } :=
    Core.thread_updThread_same _ _ _ hw
  have hstackx : (x.thread a).stack = [] := by rw [hx]
  have hsettled : c.settled a = x := by
    have hjoins : d.settleJoins a 65 = x.settleJoins a 64 := by
      rw [Core.settleJoins, htake]
      simp only [hempty]
      rfl
    rw [Core.settled, hjoins, Core.settleJoins_of_none _ (by rw [hstackx]; rfl), Core.refill_of_none _ (by rw [hstackx]; rfl)]
    rw [Core.readyFragment_updThread, Core.readyFragment_updThread, hready]
  rw [hsettled, hx]
  exact ⟨rfl, hslot .b, rfl⟩

end

section
variable {s : State} {k a : Nat} {w : SlotId} {core : Core} {l : W64} {e arr : W32} {sv : Option W64}

/-- What the only join of a warp is when a slot has arrived there (R126): its lanes are with the others, and the slot is empty. -/
theorem State.arriveAt_thread (hc : s.core? k = some core) (ha : a ≤ apAgent) (hst : ((core.thread a).slot w).st = .live)
    (hra : ((core.thread a).slot w).ra = some l) (hpc : ((core.thread a).slot w).pc = slot1 l) (hstack : (core.thread a).stack = [.join l e arr sv])
    (hsub : ((core.thread a).slot w).mask &&& ~~~e = 0#32) :
    ∃ d : Core, (s.arriveAt k a w).thread k a = (d.settled a).thread a ∧
      d.thread a = (core.thread a).arrived w [.join l e (arr ||| ((core.thread a).slot w).mask) sv] ∧ d.fragLanes a = core.fragLanes a ∧
      d.readyFragment a = core.readyFragment a := by
  let st : List Frame := [.join l e (arr ||| ((core.thread a).slot w).mask) sv]
  have hframe : arriveFrame l ((core.thread a).slot w).mask (core.thread a).stack = some st := by rw [hstack, arriveFrame, if_pos ⟨rfl, hsub⟩]
  let u := s.updThread k a fun t => t.arrived w st
  have hcu : u.core? k = some (core.updThread a fun t => t.arrived w st) := by simp [u, State.updThread, hc]
  obtain ⟨d, ports, hd, hports⟩ := State.endRunOf_core hcu a w
  have harrive : s.arriveAt k a w = ((u.endRunOf k a w).settle k a).writeFrames k a := by
    unfold State.arriveAt
    simp only [State.thread_of_core _ _ _ _ hc, hra, hst, hpc, hframe, ne_eq, not_true_eq_false, or_self, if_false]
    rfl
  refine ⟨d, ?_, ?_, ?_, ?_⟩
  · rw [harrive, (State.writeFrames_threadsKept _ _ _).thread, State.settle_thread hd]
  · rw [hports]
    exact Core.thread_updThread_same _ _ _ ha
  · rw [hports]
    exact core.fragLanes_updThread _ _ _
  · rw [hports]
    exact core.readyFragment_updThread _ _ _

end

end Sys2Proof.Machine
end

section
/-! PROOFS. Waits at `JOINW` (R129, R130): how one ends, when one has ended, and two slots that meet. -/

namespace Sys2Proof.Machine

/-! ## A wait that ends (R129) -/

/-- A thread whose slot has the lanes that it gathered in a predicate, and no fragment's number. -/
def Thread.joined (t : Thread) (now p : Nat) (w : SlotId) : Thread :=
  (((t.forget now (.p p) allLanes).supersede (.p p) allLanes).setP p allLanes (t.slot w).mask).updSlot w fun sl => { sl with fragId := 0xFF#8 }

/-- A wait only changes what it waits for when a register that it will write is written. -/
theorem Slot.supersede_eq (sl : Slot) (r : RegRef) (m : W32) : ∃ st, sl.supersede r m = { sl with st := st } := by
  unfold Slot.supersede
  split
  · exact ⟨_, rfl⟩
  · exact ⟨sl.st, rfl⟩

theorem Slot.supersede_of_live {sl : Slot} (h : sl.st = .live) (r : RegRef) (m : W32) : sl.supersede r m = sl := by
  unfold Slot.supersede
  rw [h]

theorem Thread.slot_supersede (t : Thread) (r : RegRef) (m : W32) (w : SlotId) : (t.supersede r m).slot w = (t.slot w).supersede r m := by cases w <;> rfl

theorem Thread.slot_setP (t : Thread) (n : Nat) (m v : W32) (w : SlotId) : (t.setP n m v).slot w = t.slot w := by
  unfold Thread.setP
  split
  · rfl
  · cases w <;> rfl

theorem Thread.slot_forget (t : Thread) (now : Nat) (r : RegRef) (m : W32) (w : SlotId) : (t.forget now r m).slot w = t.slot w := by cases w <;> rfl

@[simp] theorem Thread.joined_ahead (t : Thread) (now p : Nat) (w : SlotId) : (t.joined now p w).ahead = t.ahead := by simp [Thread.joined]

theorem Thread.joined_loops (t : Thread) (now p : Nat) (w : SlotId) : (t.joined now p w).loops = t.loops := by
  unfold Thread.joined
  cases w <;> exact (Thread.setP_fields _ _ _ _).2.2.2.1

theorem Thread.joined_slot (t : Thread) (now p : Nat) (w : SlotId) : ∃ st, (t.joined now p w).slot w = { t.slot w with st := st, fragId := 0xFF#8 } := by
  rw [Thread.joined, Thread.updSlot_slot, Thread.slot_setP, Thread.slot_supersede, Thread.slot_forget]
  obtain ⟨st, hst⟩ := (t.slot w).supersede_eq (.p p) allLanes
  exact ⟨st, by rw [hst]⟩

theorem Thread.joined_otherSlot (t : Thread) (now p : Nat) (w : SlotId) :
    (t.joined now p w).slot (otherSlot w) = (t.slot (otherSlot w)).supersede (.p p) allLanes := by
  rw [Thread.joined, Thread.otherSlot_updSlot, Thread.slot_setP, Thread.slot_supersede, Thread.slot_forget]

theorem Thread.joined_pval (t : Thread) (now p : Nat) (w : SlotId) : (t.joined now p w).pval p = if p = 7 then allLanes else (t.slot w).mask := by
  have hpval (u : Thread) (f : Slot → Slot) : (u.updSlot w f).pval p = u.pval p := by cases w <;> rfl
  rw [Thread.joined, hpval]
  split
  · next h => simp [Thread.pval, h]
  · next h => rw [Thread.pval_setP _ _ _ _ h, blend_allLanes]

theorem Thread.otherSlot_advanced (t : Thread) (w : SlotId) (tpc : W64) : (t.advanced w tpc).slot (otherSlot w) = t.slot (otherSlot w) := by cases w <;> rfl

/-! ### What it leaves alone -/

/-- A thread apart from a slot. -/
def Thread.without (t : Thread) (w : SlotId) : Thread := t.updSlot w fun _ => Slot.none

section
variable {now : Nat} {w : SlotId} {vs ss ps : List Nat}

theorem Thread.except_forget (t : Thread) (r : RegRef) (m : W32) (h : isNamed vs ss ps r = true) :
    (t.forget now r m).except now w vs ss ps = t.except now w vs ss ps := by
  cases w <;> simp only [Thread.except, Thread.updSlot, Thread.forget, notReady_pendingBut _ _ _ _ _ h] <;> rfl

theorem Thread.except_without_advanced (t : Thread) (tpc : W64) :
    ((t.advanced w tpc).without w).except now w vs ss ps = (t.without w).except now w vs ss ps := by
  cases h : t.ahead <;> cases w <;>
    simp [Thread.except, Thread.waitsApart, Slot.notAwaited, Thread.advanced, Thread.updSlot, Thread.without, h, List.filter_filter]

theorem Thread.setP_without (t : Thread) (n : Nat) (m v : W32) : (t.setP n m v).without w = (t.without w).setP n m v := by
  unfold Thread.setP
  split
  · rfl
  · cases w <;> rfl

theorem Thread.updSlot_without (t : Thread) (f : Slot → Slot) : (t.updSlot w f).without w = t.without w := by cases w <;> rfl

theorem Thread.supersede_without (t : Thread) (r : RegRef) (m : W32) : (t.supersede r m).without w = (t.without w).supersede r m := by cases w <;> rfl

theorem Thread.forget_without (t : Thread) (r : RegRef) (m : W32) : (t.forget now r m).without w = (t.without w).forget now r m := by cases w <;> rfl

/-- A wait that ends changes its slot, its predicate and the loop stack alone. -/
theorem Thread.except_joined (t : Thread) (p : Nat) (tpc : W64) :
    (((t.joined now p w).advanced w tpc).without w).except now w [] [] [p] = (t.without w).except now w [] [] [p] := by
  have hnm : isNamed [] [] [p] (.p p) = true := by simp [isNamed]
  rw [Thread.except_without_advanced, Thread.joined, Thread.updSlot_without, Thread.setP_without, Thread.supersede_without, Thread.forget_without,
    Thread.except_setP _ _ _ _ _ _ _ _ _ (by simp), Thread.except_supersede _ _ _ _ _ _ _ _ hnm, Thread.except_forget _ _ _ hnm]

theorem Thread.except_without_other (t : Thread) :
    (t.without (otherSlot w)).except now w vs ss ps = (t.except now w vs ss ps).without (otherSlot w) := by cases w <;> rfl

end

/-- The slots of the warp and its run may change too. -/
def looseJoin : Loosen :=
  { core := fun x => { x with ports := [] }, thread := fun t => { t with slotA := Slot.none, slotB := Slot.none } }

theorem looseJoin_besideThreads : looseJoin.besideThreads := fun _ _ => rfl

theorem looseJoin_thread (t : Thread) (w : SlotId) : looseJoin.thread t = (t.without w).without (otherSlot w) := by cases w <;> rfl

theorem looseJoin_updSlot (t : Thread) (w : SlotId) (f : Slot → Slot) : looseJoin.thread (t.updSlot w f) = looseJoin.thread t := by cases w <;> rfl

/-! ### In the state -/

section
variable {s : State} {k a p : Nat} {w : SlotId} {core : Core} {tpc : W64}

theorem State.endJoinw_eq (h : (s.thread k a).ahead = none) :
    s.endJoinw k a w p tpc = s.updThread k a fun t => (t.joined s.now p w).advanced w tpc := by
  have hend : s.endJoinw k a w p tpc = (s.updThread k a fun t => t.joined s.now p w).advance k a w tpc := by
    unfold State.endJoinw
    dsimp only
    congr 1
    exact State.updThread_congr _ _ _ _ _ (Thread.outside_of_out h _)
  have hahead := State.staysOut.updThread_rest s k a (f := fun t => t.joined s.now p w) (fun t => t.joined_ahead _ _ _) k a h
  rw [hend, State.advance_eq _ _ _ _ _ hahead, State.updThread_updThread]

/-- What the end of a wait leaves: its slot goes on, and its predicate holds the lanes gathered (R129). -/
structure State.joinEnded (s t : State) (k a : Nat) (w : SlotId) (p : Nat) (tpc : W64) : Prop where
  slot : (t.thread k a).slot w =
    { (s.thread k a).slot w with st := .live, pc := ((s.thread k a).loopNext tpc).1, fragId := 0xFF#8 }
  other : (t.thread k a).slot (otherSlot w) = ((s.thread k a).slot (otherSlot w)).supersede (.p p) allLanes
  loops : (t.thread k a).loops = ((s.thread k a).loopNext tpc).2
  pval : (t.thread k a).pval p = if p = 7 then allLanes else ((s.thread k a).slot w).mask

theorem State.endJoinw_ended (hc : s.core? k = some core) (ha : a ≤ apAgent) (h : (core.thread a).ahead = none) :
    s.joinEnded (s.endJoinw k a w p tpc) k a w p tpc := by
  have hthread := State.thread_of_core s k a core hc
  have hend : (s.endJoinw k a w p tpc).thread k a = ((core.thread a).joined s.now p w).advanced w tpc := by
    rw [State.endJoinw_eq (hthread.symm ▸ h), State.thread_updThread hc ha]
  have hnext : ((core.thread a).joined s.now p w).loopNext tpc = (core.thread a).loopNext tpc := Thread.loopNext_loops _ _ _ (Thread.joined_loops _ _ _ _)
  obtain ⟨st, hslot⟩ := (core.thread a).joined_slot s.now p w
  refine ⟨?_, ?_, ?_, ?_⟩
  · have hadv (t : Thread) : (t.advanced w tpc).slot w = { t.slot w with st := .live, pc := (t.loopNext tpc).1 } := by cases w <;> rfl
    rw [hend, hadv, hnext, hslot, hthread]
  · rw [hend, Thread.otherSlot_advanced, Thread.joined_otherSlot, hthread]
  · rw [hend, (Thread.advanced_falls _ _ _).2.2, hnext, hthread]
  · have hpval (t : Thread) : (t.advanced w tpc).pval p = t.pval p := by cases w <;> rfl
    rw [hend, hpval, Thread.joined_pval, hthread]

/-- Nothing else is changed by it. -/
theorem State.endJoinw_except (h : (s.thread k a).ahead = none) {x : Loosen} (hx : x.besideThreads)
    (hthread : ∀ t u : Thread, ∀ now, (t.without w).except now w [] [] [p] = (u.without w).except now w [] [] [p] →
      (x.thread t).except now w [] [] [p] = (x.thread u).except now w [] [] [p]) :
    (s.endJoinw k a w p tpc).except k a w [] [] [p] x = s.except k a w [] [] [p] x := by
  rw [State.endJoinw_eq h]
  exact State.except_updThread _ _ _ _ _ _ _ _ _ (fun y => hx.updThread y _) (fun y => hx.thread y _) (hthread _ _ _ (Thread.except_joined _ _ _))

end

/-! ## When a wait is over (R129) -/

/-- A wait at `JOINW` of a slot is over: no live lane that it expects is missing, or its limit has passed (R129). -/
def Core.joinOver (c : Core) (now a : Nat) (w : SlotId) : Prop :=
  c.acts = true ∧ ∃ p x st li q, ((c.thread a).slot w).st = .waiting (.joinw p x st li q) ∧
    (x &&& c.live a &&& ~~~((c.thread a).slot w).mask = 0#32 ∨ 0 < li ∧ st + li < now)

section
variable {s : State} {k a : Nat} {w : SlotId} {core : Core} {p start limit : Nat} {e : W32} {tpc : W64}

theorem State.fillJoinw_ends (hc : s.core? k = some core) (hacts : core.acts = true) (hwait : ((core.thread a).slot w).st = .waiting (.joinw p e start limit tpc))
    (hall : e &&& core.live a &&& ~~~((core.thread a).slot w).mask = 0#32) : s.fillJoinw k a w = s.endJoinw k a w p tpc := by
  simp only [State.fillJoinw, hc, hwait, hacts, Core.joinDone, hall, decide_true, Bool.and_self, if_true]

theorem State.fillJoinw_waits (hc : s.core? k = some core)
    (h : ∀ p x st li q, ((core.thread a).slot w).st = .waiting (.joinw p x st li q) → core.acts = true →
      x &&& core.live a &&& ~~~((core.thread a).slot w).mask ≠ 0#32) : s.fillJoinw k a w = s := by
  unfold State.fillJoinw
  rw [hc]
  dsimp only
  split
  · next hwait =>
    refine if_neg fun hdone => ?_
    simp only [Core.joinDone, Bool.and_eq_true, decide_eq_true_eq] at hdone
    exact h _ _ _ _ _ hwait hdone.1 hdone.2
  · rfl

theorem State.expireJoinw_ends {now : Nat} (hc : s.core? k = some core) (hacts : core.acts = true)
    (hwait : ((core.thread a).slot w).st = .waiting (.joinw p e start limit tpc)) (hlimit : 0 < limit) (hpast : start + limit < now) :
    s.expireJoinw k a w now = s.endJoinw k a w p tpc := by
  simp only [State.expireJoinw, State.thread_of_core _ _ _ _ hc, hc, hwait, Option.any_some, hacts]
  exact if_pos ⟨hlimit, hpast⟩

theorem State.expireJoinw_waits {now : Nat} (hc : s.core? k = some core)
    (h : ∀ p x st li q, ((core.thread a).slot w).st = .waiting (.joinw p x st li q) → core.acts = true → ¬ (0 < li ∧ st + li < now)) :
    s.expireJoinw k a w now = s := by
  unfold State.expireJoinw
  rw [State.thread_of_core _ _ _ _ hc, hc, Option.any_some]
  split
  · next hacts hwait => exact if_neg (h _ _ _ _ _ hwait hacts)
  · rfl

/-- A wait that is not over goes on. -/
theorem State.joinPolled_of_not_over (hc : s.core? k = some core) (h : ¬ core.joinOver s.now a w) :
    (s.fillJoinw k a w).expireJoinw k a w s.now = s := by
  rw [State.fillJoinw_waits hc fun p x st li q hwait hacts hall => h ⟨hacts, p, x, st, li, q, hwait, .inl hall⟩]
  exact State.expireJoinw_waits hc fun p x st li q hwait hacts hpast => h ⟨hacts, p, x, st, li, q, hwait, .inr hpast⟩

/-- A wait that is over ends. -/
theorem State.joinPolled_of_over (hc : s.core? k = some core) (ha : a ≤ apAgent) (hahead : (core.thread a).ahead = none) (h : core.joinOver s.now a w) :
    ∃ p tpc, (s.fillJoinw k a w).expireJoinw k a w s.now = s.endJoinw k a w p tpc := by
  obtain ⟨hacts, p, x, st, li, tpc, hwait, hover⟩ := h
  refine ⟨p, tpc, ?_⟩
  by_cases hall : x &&& core.live a &&& ~~~((core.thread a).slot w).mask = 0#32
  · rw [State.fillJoinw_ends hc hacts hwait hall]
    obtain ⟨d, hd⟩ : ∃ d, (s.endJoinw k a w p tpc).core? k = some d := by
      rw [State.endJoinw_eq ((State.thread_of_core _ _ _ _ hc).symm ▸ hahead), State.updThread, State.core?_updCore_same, hc]
      exact ⟨_, rfl⟩
    have hslot := (State.endJoinw_ended (w := w) (p := p) (tpc := tpc) hc ha hahead).slot
    rw [State.thread_of_core _ _ _ _ hd] at hslot
    exact State.expireJoinw_of_idle hd (.inl (by rw [hslot])) _
  · obtain ⟨hlimit, hpast⟩ := hover.resolve_left hall
    rw [State.fillJoinw_waits hc fun p' x' st' li' q' hwait' _ => ?_]
    · exact State.expireJoinw_ends hc hacts hwait hlimit hpast
    · rw [hwait] at hwait'
      cases hwait'
      exact hall

/-- Of two waits that need lanes held apart from both, the earlier ends once a cycle has passed since the later began (R130). -/
theorem State.breakJoinw_ends {p' start' limit' : Nat} {e' : W32} {tpc' : W64} (hc : s.core? k = some core) (hacts : core.acts = true)
    (hwait : ((core.thread a).slot w).st = .waiting (.joinw p e start limit tpc))
    (hother : ((core.thread a).slot (otherSlot w)).st = .waiting (.joinw p' e' start' limit' tpc'))
    (hstuck : e &&& core.stowed a &&& ~~~((core.thread a).slot w).mask ≠ 0#32)
    (hstuck' : e' &&& core.stowed a &&& ~~~((core.thread a).slot (otherSlot w)).mask ≠ 0#32)
    (hfirst : start < start' ∨ start = start' ∧ w = .a) (hpast : max start start' < s.now) : s.breakJoinw k a = s.endJoinw k a w p tpc := by
  have hthread := State.thread_of_core s k a core hc
  cases w
  · have hA : (core.thread a).slotA.st = .waiting (.joinw p e start limit tpc) := hwait
    have hB : (core.thread a).slotB.st = .waiting (.joinw p' e' start' limit' tpc') := hother
    have hsince : core.stuckSince a = some (max start start') := by
      simp only [Core.stuckSince, hA, hB, hacts, Core.joinStuck]
      exact if_pos (by simpa using ⟨hstuck, hstuck'⟩)
    simp only [State.breakJoinw, hc, Option.bind_some, hsince, hthread, hA, hB]
    rw [if_neg (by omega), if_neg (by omega)]
  · have hA : (core.thread a).slotA.st = .waiting (.joinw p' e' start' limit' tpc') := hother
    have hB : (core.thread a).slotB.st = .waiting (.joinw p e start limit tpc) := hwait
    have hsince : core.stuckSince a = some (max start' start) := by
      simp only [Core.stuckSince, hA, hB, hacts, Core.joinStuck]
      exact if_pos (by simpa using ⟨hstuck', hstuck⟩)
    have hlater : start < start' := hfirst.resolve_right fun h => nomatch h.2
    simp only [State.breakJoinw, hc, Option.bind_some, hsince, hthread, hA, hB]
    rw [if_neg (by omega), if_pos hlater]

end

/-! ## `JOINW` (R129) -/

/-- A slot waits at `JOINW` where another stands, with the same join ahead of it (R129). -/
def Slot.meets (other mine : Slot) : Bool :=
  match other.st with
  | .waiting (.joinw _ _ _ _ _) => decide (other.pc = mine.pc) && decide (other.ra = mine.ra)
  | _ => false

theorem Slot.meets_iff {other mine : Slot} :
    other.meets mine = true ↔ (∃ p x st li q, other.st = .waiting (.joinw p x st li q)) ∧ other.pc = mine.pc ∧ other.ra = mine.ra := by
  unfold Slot.meets
  split
  · next h => simp [h]
  · next h => exact ⟨fun hno => (nomatch hno), fun ⟨⟨p, x, st, li, q, hwait⟩, _⟩ => absurd hwait (h p x st li q)⟩

/-- The lanes of a slot go to the other one. -/
def Thread.merged (t : Thread) (w : SlotId) (lanes : W32) : Thread :=
  (t.updSlot (otherSlot w) fun sl => { sl with mask := sl.mask ||| lanes }).updSlot w fun _ => Slot.none

theorem Thread.merged_slots (t : Thread) (w : SlotId) (lanes : W32) :
    (t.merged w lanes).slot w = Slot.none ∧ (t.merged w lanes).slot (otherSlot w) = { t.slot (otherSlot w) with mask := (t.slot (otherSlot w)).mask ||| lanes } ∧
      (t.merged w lanes).stack = t.stack ∧ (t.merged w lanes).handler = t.handler := by
  cases w <;> exact ⟨rfl, rfl, rfl, rfl⟩

section
variable {s s1 : State} {c : Ctx} {d a : BitVec 6}

/-- What `JOINW` does once the wait of the other slot has been looked at (R129). -/
def Ctx.joinOrWait (c : Ctx) (d : Nat) (e : W32) (mine : Slot) (s : State) : State :=
  if ((c.my s).slot (otherSlot c.iss.slot)).meets mine then
    ((s.updThread c.k c.a fun t => t.merged c.iss.slot mine.mask).endRunOf c.k c.a c.iss.slot).settle c.k c.a
  else if c.core.joinDone c.a mine.mask e then s.endJoinw c.k c.a c.iss.slot d c.iss.tpc
  else c.wait (.joinw d e s.now c.x.toNat c.iss.tpc) s

theorem joinw_does (h : s.acting (.joinw d a) = some (c, s1)) (hcheck : joinwCheck c s1 = none) :
    exec (.joinw d a) s = .next (c.joinOrWait d.toNat ((c.s a).setWidth 32) ((c.my s1).slot c.iss.slot)
      ((s1.fillJoinw c.k c.a (otherSlot c.iss.slot)).expireJoinw c.k c.a (otherSlot c.iss.slot) s1.now)) := by
  refine (issue_acting h _ _ hcheck).trans (congrArg _ ?_)
  dsimp only
  rw [State.acting_slot h]
  rfl

/-- A warp that does not come to hold fewer lanes than before fills no slot. -/
theorem State.settle_of_none {s : State} {k w : Nat} {c : Core} (hc : s.core? k = some c) (hw : w ≤ apAgent)
    (hjoin : takeJoin ((c.updThread w Thread.dropEmpty).live w) (c.thread w).stack = none) (hfrag : c.readyFragment w = none)
    (hpath : takePath (c.thread w).stack = none) : s.settle k w = s.updThread k w Thread.dropEmpty := by
  have hupd : (s.updCore k fun x => x.settled w) = s.updThread k w Thread.dropEmpty := State.updCore_congr _ _ _ _ fun x hx => by
    cases hc.symm.trans hx
    exact Core.settled_of_none hw hjoin hfrag hpath
  rw [State.settle_eq, hupd, State.thread_updThread hc hw, State.thread_of_core _ _ _ _ hc, Thread.dropEmpty_stack, if_pos rfl]

/-- A run that has ended stays ended while a thread changes. -/
theorem Ctx.runEnded_updThread {s : State} (h : c.runEnded s) (n : Nat) (g : Thread → Thread) : c.runEnded (s.updThread c.k n g) := fun core hcore hwarp => by
  obtain ⟨d, hd, rfl⟩ := Option.map_eq_some_iff.mp ((State.core?_updCore_same _ _ _).symm.trans hcore)
  rw [Core.updThread_eq]
  exact h d hd hwarp

/-- Two slots that meet go on as one (R129). -/
theorem Ctx.merge_spec {mine : Slot} (hc : s.core? c.k = some c.core) (ha : c.a ≤ apAgent) (hstack : (c.my s).stack = [])
    (hready : c.core.readyFragment c.a = none) (hlanes : ((c.my s).slot (otherSlot c.iss.slot)).mask ≠ 0#32) (hhandler : (c.my s).handler = none) :
    let t := ((s.updThread c.k c.a fun t => t.merged c.iss.slot mine.mask).endRunOf c.k c.a c.iss.slot).settle c.k c.a
    (c.my t).slot (otherSlot c.iss.slot) =
        { (c.my s).slot (otherSlot c.iss.slot) with mask := ((c.my s).slot (otherSlot c.iss.slot)).mask ||| mine.mask } ∧
      (c.my t).slot c.iss.slot = Slot.none ∧ c.runEnded t ∧ c.rest t [] [] [] looseJoin = c.rest s [] [] [] looseJoin := by
  intro t
  let u := s.updThread c.k c.a fun t => t.merged c.iss.slot mine.mask
  have hp : c.present s := ⟨by rw [hc]; rfl, ha⟩
  have hmyu : c.my (u.endRunOf c.k c.a c.iss.slot) = (c.my s).merged c.iss.slot mine.mask := (c.my_endRunOf _ _).trans (Ctx.my_updThread hp _)
  obtain ⟨hgone, hkept, hframes, hunhandled⟩ := (c.my s).merged_slots c.iss.slot mine.mask
  have hcu : u.core? c.k = some (c.core.updThread c.a fun t => t.merged c.iss.slot mine.mask) := by simp [u, State.updThread, hc]
  obtain ⟨d, ports, hd, hports⟩ := State.endRunOf_core hcu c.a c.iss.slot
  have hdready : d.readyFragment c.a = none := by
    rw [hports]
    exact (c.core.readyFragment_updThread c.a c.a _).trans hready
  have hdstack : (d.thread c.a).stack = [] := by
    rw [← State.thread_of_core _ _ _ _ hd, ← Ctx.my, hmyu, hframes, hstack]
  have hsettle : t = (u.endRunOf c.k c.a c.iss.slot).updThread c.k c.a Thread.dropEmpty := by
    refine State.settle_of_none hd ha ?_ hdready ?_
    · rw [hdstack]
      rfl
    · rw [hdstack]
      rfl
  have hpu : c.present (u.endRunOf c.k c.a c.iss.slot) := ⟨by rw [hd]; rfl, ha⟩
  have hmyt : c.my t = ((c.my s).merged c.iss.slot mine.mask).dropEmpty := by rw [hsettle, Ctx.my_updThread hpu, hmyu]
  have hboth : ((c.my s).slot (otherSlot c.iss.slot)).mask ||| mine.mask ≠ 0#32 := fun hzero => hlanes (BitVec.or_eq_zero_iff.mp hzero).1
  refine ⟨?_, ?_, ?_, ?_⟩
  · rw [hmyt, Thread.dropEmpty_slot, hkept, Slot.dropEmpty_of_mask hboth]
  · rw [hmyt, Thread.dropEmpty_slot, hgone, Slot.dropEmpty_none]
  · rw [hsettle]
    exact Ctx.runEnded_updThread (c.runEnded_endRunOf _) _ _
  · rw [hsettle]
    refine (State.except_updThread _ _ _ _ _ _ _ _ _ (fun y => looseJoin_besideThreads.updThread y _) (fun y => looseJoin_besideThreads.thread y _) ?_).trans
      ((Ctx.rest_endRunOf (fun _ _ => rfl) _).trans (Ctx.rest_loosenThread looseJoin_besideThreads fun v => ?_))
    · have hnone : ((u.endRunOf c.k c.a c.iss.slot).thread c.k c.a).handler = none := (congrArg Thread.handler hmyu).trans (hunhandled.trans hhandler)
      rw [Thread.dropEmpty_of_unhandled hnone]
      rfl
    · rw [Thread.merged, looseJoin_updSlot, looseJoin_updSlot]

/-- What `JOINW` does where the wait of the other slot has just ended leaves that slot alone. -/
theorem Ctx.joinOrWait_leaves {mine : Slot} {e : W32} {core : Core} {n : Nat} (hc : s.core? c.k = some core) (ha : c.a ≤ apAgent)
    (hahead : (core.thread c.a).ahead = none) (hlive : ((c.my s).slot (otherSlot c.iss.slot)).st = .live) :
    (c.my (c.joinOrWait n e mine s)).slot (otherSlot c.iss.slot) = (c.my s).slot (otherSlot c.iss.slot) := by
  have happart : ((c.my s).slot (otherSlot c.iss.slot)).meets mine = false := by rw [Slot.meets, hlive]
  rw [Ctx.joinOrWait, happart, if_neg Bool.false_ne_true]
  split
  · exact (State.endJoinw_ended hc ha hahead).other.trans (Slot.supersede_of_live hlive _ _)
  · rw [Ctx.my_wait ⟨by rw [hc]; rfl, ha⟩, Thread.otherSlot_updSlot]

/-- A wait changes its slot and the run alone. -/
theorem Ctx.rest_wait_looseJoin {vs ss ps : List Nat} (why : Wait) : c.rest (c.wait why s) vs ss ps looseJoin = c.rest s vs ss ps looseJoin := by
  obtain ⟨f, hf⟩ := s.wait_eq c.k c.a c.iss.slot why
  rw [Ctx.wait, hf]
  refine (Ctx.rest_updCore fun _ => by rfl).trans ?_
  exact Ctx.rest_loosenThread looseJoin_besideThreads fun u => by rw [looseJoin_updSlot]

/-- A wait of the other slot that is over ends before `JOINW` looks at it (R129). -/
theorem joinw_ends_other (h : s.acting (.joinw d a) = some (c, s1)) (hcheck : joinwCheck c s1 = none)
    (hover : c.core.joinOver s1.now c.a (otherSlot c.iss.slot)) :
    ∃ t, exec (.joinw d a) s = .next t ∧ ((c.my t).slot (otherSlot c.iss.slot)).st = .live ∧
      ((c.my t).slot (otherSlot c.iss.slot)).mask = ((c.my s1).slot (otherSlot c.iss.slot)).mask := by
  have hc := State.acting_core1 h
  have ha := (State.acting_present h).2
  have hn := State.acting_notAhead h
  have hahead : (c.core.thread c.a).ahead = none := State.thread_of_core _ _ _ _ hc ▸ hn
  obtain ⟨p, tpc, hpolled⟩ := State.joinPolled_of_over hc ha hahead hover
  have hslot := (State.endJoinw_ended (w := otherSlot c.iss.slot) (p := p) (tpc := tpc) hc ha hahead).slot
  obtain ⟨u, hu⟩ : ∃ u, (s1.endJoinw c.k c.a (otherSlot c.iss.slot) p tpc).core? c.k = some u := by
    rw [State.endJoinw_eq hn, State.updThread, State.core?_updCore_same, hc]
    exact ⟨_, rfl⟩
  have huahead : (u.thread c.a).ahead = none := by
    rw [← State.thread_of_core _ _ _ _ hu]
    exact State.endJoinw_staysOut _ _ _ _ _ _ _ _ hn
  have hleft := Ctx.joinOrWait_leaves (n := d.toNat) (e := (c.s a).setWidth 32) (mine := (c.my s1).slot c.iss.slot) hu ha huahead (congrArg Slot.st hslot)
  rw [← hpolled] at hleft hslot
  exact ⟨_, joinw_does h hcheck, (congrArg Slot.st hleft).trans (congrArg Slot.st hslot), (congrArg Slot.mask hleft).trans (congrArg Slot.mask hslot :)⟩

/-- `JOINW` that holds every live lane it expects goes on at once (R129). -/
theorem Ctx.join_spec {core : Core} {n : Nat} (hc : s.core? c.k = some core) (ha : c.a ≤ apAgent) (hahead : (core.thread c.a).ahead = none) :
    let t := s.endJoinw c.k c.a c.iss.slot n c.iss.tpc
    c.falls s t ∧ ((c.my t).slot c.iss.slot).fragId = 0xFF#8 ∧ (c.my t).pval n = (if n = 7 then allLanes else ((c.my s).slot c.iss.slot).mask) ∧
      c.rest t [] [] [n] looseJoin = c.rest s [] [] [n] looseJoin := by
  intro t
  obtain ⟨hslot, -, hloops, hpval⟩ := State.endJoinw_ended (w := c.iss.slot) (p := n) (tpc := c.iss.tpc) hc ha hahead
  refine ⟨⟨congrArg Slot.st hslot, congrArg Slot.pc hslot, hloops⟩, congrArg Slot.fragId hslot, hpval, ?_⟩
  refine State.endJoinw_except ((State.thread_of_core _ _ _ _ hc).symm ▸ hahead) looseJoin_besideThreads fun v u now huv => ?_
  rw [looseJoin_thread v c.iss.slot, looseJoin_thread u c.iss.slot, Thread.except_without_other, Thread.except_without_other, huv]

end

end Sys2Proof.Machine

open Sys2Proof Sys2Proof.Machine

/-- Settles O24: a join opens (`reconv_opens`), its lanes arrive and go on together (`State.arriveAt_thread`, `Core.settled_waits`, `Core.settled_joined`),
`JOINW` merges, goes on or waits (`joinw_does`), and a wait ends (`State.endJoinw_ended`). -/
theorem lanesMeetAtJoins : Obligations.LanesMeetAtJoins := by
  unfold Obligations.LanesMeetAtJoins
  refine ⟨fun s s1 c h hdepth hready => reconv_spec h hdepth hready, ?_, ?_, ?_⟩
  · intro s k a w core l e arr sv hc ha hahead hst hra hpc hstack hsub hfrags hready _ together
    have ha' : a ≤ apAgent := Nat.le_of_lt ha
    obtain ⟨d, harrive, hthread, hdfrags, hdready⟩ := State.arriveAt_thread hc ha' hst hra hpc hstack hsub
    obtain ⟨hgone, hother, hapart⟩ := (core.thread a).arrived_slots w [.join l e together sv]
    have hexec : exec (.reconvergenceArrival k a w) s = .next (s.arriveAt k a w) := by
      change execReconvergenceArrival k a w s = _
      rw [execReconvergenceArrival, State.thread_of_core _ _ _ _ hc, hahead]
    rw [← hthread] at hgone hother hapart
    have hdstack : (d.thread a).stack = [.join l e together sv] := by rw [hthread]; rfl
    refine ⟨_, hexec, ?_, fun hmissing => ?_, fun hempty hmask hall he => ?_⟩
    · rw [harrive, Core.settled_apartKept, hapart]
    · rw [harrive]
      exact Core.settled_waits ha' (hdfrags.trans hfrags) (hdready.trans hready) hgone hdstack (by rw [hother]; exact hmissing)
    · rw [harrive]
      rw [hall] at hdstack
      exact Core.settled_joined ha' (hdfrags.trans hfrags) (hdready.trans hready) hgone (by rw [hother]; exact hmask) hdstack he
  · intro d a s s1 c h hcheck other mine e meets ended loose
    have hc := State.acting_core1 h
    have hp := State.acting_present h
    have hmy : c.my s1 = c.core.thread c.a := State.thread_of_core _ _ _ _ hc
    have hahead : (c.core.thread c.a).ahead = none := hmy ▸ State.acting_notAhead h
    have hdo := joinw_does h hcheck
    have hended : ended ↔ c.core.joinOver s1.now c.a (otherSlot c.iss.slot) := by
      rw [Core.joinOver, ← hmy]
    have hstays (hnot : ¬ ended) := State.joinPolled_of_not_over hc (mt hended.mpr hnot)
    refine ⟨fun hover => joinw_ends_other h hcheck (hended.mp hover), fun hmeets hnot hstack hfrags hready hlanes hhandler => ?_, fun hapart hnot hall => ?_,
      fun hapart hnot hmissing => ?_⟩
    · rw [hstays hnot, Ctx.joinOrWait, if_pos (Slot.meets_iff.mpr hmeets)] at hdo
      exact ⟨_, hdo, Ctx.merge_spec hc hp.2 hstack hready hlanes ((State.acting_field h (F := Thread.handler) fun _ _ _ _ => rfl).symm.trans hhandler)⟩
    · have hdone : c.core.joinDone c.a ((c.my s1).slot c.iss.slot).mask ((c.s a).setWidth 32) = true := decide_eq_true hall
      rw [hstays hnot, Ctx.joinOrWait, if_neg (mt Slot.meets_iff.mp hapart), if_pos hdone] at hdo
      exact ⟨_, hdo, Ctx.join_spec hc hp.2 hahead⟩
    · have hdone : ¬ c.core.joinDone c.a ((c.my s1).slot c.iss.slot).mask ((c.s a).setWidth 32) = true := mt of_decide_eq_true hmissing
      rw [hstays hnot, Ctx.joinOrWait, if_neg (mt Slot.meets_iff.mp hapart), if_neg hdone] at hdo
      exact ⟨_, hdo, Ctx.waits_wait hp _, Ctx.rest_wait_looseJoin _⟩
  · intro s k a w core p start limit e tpc hc hacts ha hahead hwait mine after loose ends
    have ha' : a ≤ apAgent := Nat.le_of_lt ha
    have hthread := State.thread_of_core s k a core hc
    have hends : ends (s.endJoinw k a w p tpc) := by
      obtain ⟨hslot, -, hloops, hpval⟩ := State.endJoinw_ended (w := w) (p := p) (tpc := tpc) hc ha' hahead
      rw [hthread] at hslot hloops hpval
      exact ⟨hslot, hloops, hpval, (State.endJoinw_except (hthread.symm ▸ hahead) (fun _ _ => rfl) fun _ _ _ h => h).symm⟩
    refine ⟨fun hall => ⟨_, ?_, hends⟩, fun hlimit hpast => ⟨_, ?_, hends⟩, fun p' start' limit' e' tpc' hother hstuck hstuck' hfirst hpast => ⟨_, ?_, hends⟩⟩
    · exact congrArg _ (State.fillJoinw_ends hc hacts hwait hall)
    · exact congrArg _ (State.expireJoinw_ends hc hacts hwait hlimit hpast)
    · exact congrArg _ (State.breakJoinw_ends hc hacts hwait hother hstuck hstuck' hfirst hpast)

end

section
/-! PROOFS. `FRAGWAKE` in a block that has stopped for a dump (O25). -/

namespace Sys2Proof.Machine

/-! ## The counterexample

A block that has stopped for a dump keeps its fragment table as it is (R398), so that a fragment is neither made ready nor taken by a slot there. The
statement does not ask that the block still acts. No port issues for a block that has stopped; the other clauses do not turn on it. -/

/-- A fragment of warp 0 that is parked, with lane 1. -/
def parkedFragment : Fragment := { Fragment.free with valid := true, warp := 0, mask := 2#32 }

/-- The warp, with lane 0 in slot A. -/
def wakingWarp : Thread := { Thread.absent with slotA := { Slot.none with st := .live, mask := 1#32 }, ended := false }

/-- Its block, which has been halted. -/
def haltedBlock : Core := { Core.start State.reset [] placedLaunch 0 0 0 0 0 0 0 0 with phase := .halted, thr := [wakingWarp], frags := [parkedFragment] }

/-- The issue of an instruction without prefixes or a guard by that warp. -/
def wakingIssue : Issue := { core := 0, agent := 0, slot := .a, pc := slot1 placedCode, tpc := slot1 placedCode, xs := [], guard := 7#4, unused := 0#32 }

/-- The block alone in a package. -/
def haltedState : State := { State.reset with cores := [(0, haltedBlock)], cur := some wakingIssue }

/-- What `FRAGWAKE s0` sees there: `s0` names fragment 0. -/
def wakingCtx : Ctx := (mkCtx wakingIssue haltedBlock (.fragwake 0#6) haltedState).1

theorem haltedState_acting : haltedState.acting (.fragwake 0#6) = some (wakingCtx, haltedState) := by decide +kernel

/-- The fragment stays parked. -/
theorem haltedState_unwoken {t : State} (h : exec (.fragwake 0#6) haltedState = .next t) : nth (wakingCtx.here t).frags 0 Fragment.free = parkedFragment := by
  have hkept : (match exec (.fragwake 0#6) haltedState with | .next u => nth (wakingCtx.here u).frags 0 Fragment.free | _ => parkedFragment) = parkedFragment := by
    decide +kernel
  rw [h] at hkept
  exact hkept

end Sys2Proof.Machine

open Sys2Proof Sys2Proof.Machine

/-- Refutes O25: in a block that has stopped for a dump `FRAGWAKE` leaves the fragment that it names parked. -/
theorem not_lanesExitAndFragmentsWake : ¬ Obligations.LanesExitAndFragmentsWake := by
  unfold Obligations.LanesExitAndFragmentsWake
  rintro ⟨-, -, -, hwake⟩
  obtain ⟨t, hexec, -, -, hfragment⟩ := hwake 0#6 haltedState haltedState wakingCtx haltedState_acting
  obtain ⟨hnamed, -⟩ := hfragment 0 parkedFragment (by decide +kernel) rfl
  have hwoken := hnamed (.inl (by decide +kernel))
  rw [haltedState_unwoken hexec] at hwoken
  rcases hwoken with hready | ⟨hfreed, -⟩
  · exact absurd (congrArg Fragment.ready hready) (by decide)
  · exact absurd hfreed (by decide)

end

section
/-! PROOFS. Words as numbers: the operations of integer instructions agree with what the rules say of the numbers that the words stand for (R139, R145). -/

namespace Sys2Proof.Machine

section
variable {n : Nat}

theorem ofInt_sub (x y : Int) : BitVec.ofInt n (x - y) = BitVec.ofInt n x - BitVec.ofInt n y := by
  rw [Int.sub_eq_add_neg, BitVec.ofInt_add, BitVec.ofInt_neg, BitVec.sub_eq_add_neg]

@[simp] theorem ofInt_num (u : BitVec 1) (x : BitVec n) : BitVec.ofInt n (num u x) = x := by
  unfold num
  split <;> simp

theorem num_inj {u : BitVec 1} {x y : BitVec n} : num u x = num u y ↔ x = y :=
  ⟨fun h => by simpa using congrArg (BitVec.ofInt n) h, congrArg _⟩

theorem lessThan_eq_num_lt (u : BitVec 1) (a b : BitVec n) : lessThan u a b = decide (num u a < num u b) := by
  unfold lessThan num
  split
  · simp [BitVec.ult_eq_decide]
  · exact BitVec.slt_eq_decide

theorem num_le_eq_not_lessThan (u : BitVec 1) (a b : BitVec n) : decide (num u a ≤ num u b) = !lessThan u b a := by
  rw [lessThan_eq_num_lt, ← decide_not]
  simp only [not_lt]

theorem ofInt_min_num (u : BitVec 1) (a b : BitVec n) : BitVec.ofInt n (min (num u a) (num u b)) = if lessThan u b a then b else a := by
  rw [lessThan_eq_num_lt, min_comm, min_def]
  by_cases h : num u b < num u a
  · simp [h, h.le]
  · rcases (not_lt.mp h).eq_or_lt with he | hlt
    · simp [num_inj.mp he]
    · simp [h, hlt.not_ge]

theorem ofInt_max_num (u : BitVec 1) (a b : BitVec n) : BitVec.ofInt n (max (num u a) (num u b)) = if lessThan u a b then b else a := by
  rw [lessThan_eq_num_lt, max_def_lt]
  split <;> simp_all

theorem mulHigh_eq_num (u : BitVec 1) (a b : BitVec n) : mulHigh u a b = BitVec.ofInt n (num u a * num u b / 2 ^ n) := by
  unfold mulHigh num
  split
  · rw [← BitVec.ofInt_natCast]
    simp
  · rfl

theorem divide_eq_num (u : BitVec 1) (a b : W64) :
    divide u a b = if b = 0#64 then 0xFFFFFFFFFFFFFFFF#64 else BitVec.ofInt 64 ((num u a).tdiv (num u b)) := by
  unfold divide num
  split
  · rfl
  · split
    · apply BitVec.eq_of_toNat_eq
      rw [Int.tdiv_eq_ediv_of_nonneg (Int.natCast_nonneg _), ← Int.natCast_ediv, BitVec.ofInt_natCast, BitVec.toNat_udiv, BitVec.toNat_ofNat,
        Nat.mod_eq_of_lt ((Nat.div_le_self _ _).trans_lt a.isLt)]
    · rw [← BitVec.toInt_inj, BitVec.toInt_sdiv, BitVec.toInt_ofInt]

theorem shiftLeft_eq_mul (a b : BitVec n) : shiftLeft a b = if b.toNat ≥ n then 0 else BitVec.ofNat n (a.toNat * 2 ^ b.toNat) := by
  unfold shiftLeft
  split
  · rfl
  · apply BitVec.eq_of_toNat_eq
    simp [Nat.shiftLeft_eq]

theorem shiftRight_eq_div (a b : BitVec n) : shiftRight a b = if b.toNat ≥ n then 0 else BitVec.ofNat n (a.toNat / 2 ^ b.toNat) := by
  unfold shiftRight
  split
  · rfl
  · apply BitVec.eq_of_toNat_eq
    rw [BitVec.toNat_ushiftRight, Nat.shiftRight_eq_div_pow, BitVec.toNat_ofNat, Nat.mod_eq_of_lt ((Nat.div_le_self _ _).trans_lt a.isLt)]

theorem shiftArith_eq_div (a b : BitVec n) : shiftArith a b = BitVec.ofInt n (a.toInt / 2 ^ min b.toNat (n - 1)) := by
  rw [shiftArith, BitVec.sshiftRight_eq, Int.shiftRight_eq_div_pow]
  simp

/-- The distance of two words: the greater less the other. -/
theorem ofNat_natAbs_sub_num (u : BitVec 1) (a b : BitVec n) :
    BitVec.ofNat n (num u a - num u b).natAbs = if lessThan u a b then b - a else a - b := by
  rw [lessThan_eq_num_lt, ← BitVec.ofInt_natCast]
  by_cases h : num u a < num u b
  · rw [Int.ofNat_natAbs_of_nonpos (by omega), neg_sub, ofInt_sub]
    simp [h]
  · rw [Int.natAbs_of_nonneg (by omega), ofInt_sub]
    simp [h]

theorem length_filter_eq_sum {α : Type} (p : α → Bool) (l : List α) : (l.filter p).length = (l.map fun x => (p x).toNat).sum := by
  induction l with
  | nil => rfl
  | cons x l ih => cases h : p x <;> simp [h, ih, Nat.add_comm]

theorem popCount_eq_ones (x : BitVec n) : popCount x = ones x := length_filter_eq_sum _ _

theorem length_filter_range_lt (k n : Nat) : ((List.range n).filter fun i => decide (k < i)).length = n - 1 - k := by
  induction n with
  | zero => simp
  | succ n ih =>
    rw [List.range_succ, List.filter_append, List.length_append, ih]
    by_cases h : k < n <;> simp [h] <;> omega

theorem leadingZeros_eq_zerosAbove (x : BitVec n) : leadingZeros x = zerosAbove x := by
  unfold leadingZeros zerosAbove
  split
  · next h => simp [h]
  · next h =>
    have hx : x.toNat ≠ 0 := fun h0 => h (BitVec.eq_of_toNat_eq (by simpa using h0))
    simp only [← Nat.log2_lt hx, length_filter_range_lt]

end

theorem firstLane_eq_lowest (m : W32) : firstLane m = lowest m := by
  have hhead : (lanesOf m).head? = (List.range 32).find? fun i => m.getLsbD i := List.head?_filter
  rw [lowest, ← hhead, firstLane]
  cases lanesOf m <;> rfl

end Sys2Proof.Machine

end

section
/-! PROOFS. Scalar instructions leave their result (R139, R141, R143, R154). -/

namespace Sys2Proof.Machine

section
variable {s s1 : State} {c : Ctx} {i : Instr}

theorem resultLatency_ne_zero (i : Instr) : resultLatency i ≠ 0 := by
  unfold resultLatency
  split <;> decide

theorem acting_scalar {d : BitVec 6} {w : Ctx → W64} {v : W64} (h : s.acting i = some (c, s1))
    (hexec : exec i s = issue i noCheck (fun c => c.scalar d (w c)) s) (hv : w c = v) : exec i s = .next (c.scalar d v s1) := by
  rw [hexec, issue_acting h _ _ rfl, hv]

theorem scalarResult_latency {r : BitVec 6 × W64} (hr : c.scalarResult i = some r) (ap : Bool) (xs : List Ximm) : (form ap xs i).lat = resultLatency i := by
  cases i <;> cases hr <;> rfl

/-- An instruction with a scalar result writes the value that the rules give (R139, R141, R143, R154). -/
theorem scalarResult_exec {d : BitVec 6} {v : W64} (h : s.acting i = some (c, s1)) (hr : c.scalarResult i = some (d, v)) :
    exec i s = .next (c.scalar d v s1) := by
  cases i <;> cases hr
  case sadd | ssub | smul | saddi => exact acting_scalar h rfl (by simp [ofInt_sub, BitVec.ofInt_add, BitVec.ofInt_mul])
  case smulh => exact acting_scalar h rfl (mulHigh_eq_num _ _ _)
  case sdiv => exact acting_scalar h rfl (divide_eq_num _ _ _)
  case sshl => exact acting_scalar h rfl (shiftLeft_eq_mul _ _)
  case sshr => exact acting_scalar h rfl (shiftRight_eq_div _ _)
  case ssra => exact acting_scalar h rfl (shiftArith_eq_div _ _)
  case smin => exact acting_scalar h rfl (ofInt_min_num _ _ _).symm
  case smax => exact acting_scalar h rfl (ofInt_max_num _ _ _).symm
  case scmp =>
    refine acting_scalar h rfl ?_
    simp only [lessThan_eq_num_lt, decide_eq_true_eq, num_inj]
    split_ifs <;> rfl
  case ssel => exact acting_scalar h rfl (ite_not _ _ _)
  case spopc | ppopc => exact acting_scalar h rfl (congrArg _ (popCount_eq_ones _))
  case sclz => exact acting_scalar h rfl (congrArg _ (leadingZeros_eq_zerosAbove _))
  case pfirst => exact acting_scalar h rfl (congrArg _ (firstLane_eq_lowest _))
  all_goals exact acting_scalar h rfl rfl

end

end Sys2Proof.Machine

open Sys2Proof Sys2Proof.Machine

/-- Settles O1: the model writes the value of the rules (`scalarResult_exec`), with the latency of its form (`scalarResult_latency`). -/
theorem scalarInstructionsLeaveTheirResult : Obligations.ScalarInstructionsLeaveTheirResult := by
  unfold Obligations.ScalarInstructionsLeaveTheirResult
  intro i s s1 c d v h hr
  have hlat : c.form.lat = resultLatency i := State.acting_form h ▸ scalarResult_latency hr _ _
  obtain ⟨hs, hfalls, hready, hrest⟩ := c.scalar_spec s1 d v (State.acting_present h) (State.acting_notAhead h)
  exact ⟨_, scalarResult_exec h hr, hs, hfalls, hlat ▸ hready (hlat ▸ resultLatency_ne_zero i), hrest⟩

end

section
/-! PROOFS. Predicate instructions leave their result (R143, R149, R154). -/

namespace Sys2Proof.Machine

/-! ## Masks bit by bit -/

theorem W32.eq_of_bit {x y : W32} (h : ∀ l < 32, bit x l = bit y l) : x = y := BitVec.eq_of_getLsbD_eq h

theorem bit_and (x y : W32) (l : Nat) : bit (x &&& y) l = (bit x l && bit y l) := BitVec.getLsbD_and

theorem bit_or (x y : W32) (l : Nat) : bit (x ||| y) l = (bit x l || bit y l) := BitVec.getLsbD_or

theorem bit_xor (x y : W32) (l : Nat) : bit (x ^^^ y) l = (bit x l ^^ bit y l) := BitVec.getLsbD_xor

@[simp] theorem bit_zero (l : Nat) : bit 0#32 l = false := BitVec.getLsbD_zero

theorem bit_spread {b : Bool} {l : Nat} (hl : l < 32) : bit (spread b) l = b := by
  cases b
  · simp [spread]
  · exact (show ∀ j < 32, bit (spread true) j = true by decide) l hl

theorem spread_eq_maskOf (b : Bool) : spread b = maskOf fun _ => b :=
  W32.eq_of_bit fun l hl => by rw [bit_spread hl, bit_maskOf _ _ hl]

theorem bit_lt {x : W32} {l : Nat} (h : bit x l = true) : l < 32 := BitVec.lt_of_getLsbD h

theorem exists_bit_of_ne_zero {x : W32} (h : x ≠ 0#32) : ∃ l, bit x l = true := by
  by_contra hn
  exact h (W32.eq_of_bit fun l _ => by simpa using fun hl => hn ⟨l, hl⟩)

theorem mem_lanesOf {m : W32} {l : Nat} : l ∈ lanesOf m ↔ bit m l = true := by
  simpa [lanesOf] using bit_lt

theorem firstLane_least {m : W32} (h : m ≠ 0#32) : bit m (firstLane m) = true ∧ ∀ j < firstLane m, bit m j = false := by
  obtain ⟨l, hl⟩ := exists_bit_of_ne_zero h
  rw [firstLane_eq_lowest, lowest]
  cases hfind : (List.range 32).find? fun i => m.getLsbD i with
  | none => exact absurd hl (List.find?_eq_none.mp hfind l (List.mem_range.mpr (bit_lt hl)))
  | some k =>
    obtain ⟨hk, -, hbelow⟩ := List.find?_range_eq_some.mp hfind
    exact ⟨hk, fun j hj => by simpa [bit] using hbelow j hj⟩

theorem firstLane_eq_iff {m : W32} {l : Nat} (hl : bit m l = true) : firstLane m = l ↔ ∀ j < l, bit m j = false := by
  have hm : m ≠ 0#32 := by rintro rfl; simp at hl
  obtain ⟨hfirst, hbelow⟩ := firstLane_least hm
  constructor
  · rintro rfl
    exact hbelow
  · intro h
    by_contra hne
    rcases Nat.lt_or_gt_of_ne hne with hlt | hgt
    · simp [h _ hlt] at hfirst
    · simp [hbelow _ hgt] at hl

/-- A mask that shares a lane with the passing ones (`VOTE.any`). -/
theorem decide_and_ne_zero (x y : W32) : decide (x &&& y ≠ 0#32) = (List.range 32).any fun l => bit y l && bit x l := by
  rw [Bool.eq_iff_iff, decide_eq_true_eq]
  simp only [List.any_eq_true, List.mem_range, Bool.and_eq_true]
  constructor
  · intro h
    obtain ⟨l, hl⟩ := exists_bit_of_ne_zero h
    obtain ⟨hx, hy⟩ := Bool.and_eq_true_iff.mp (bit_and x y l ▸ hl)
    exact ⟨l, bit_lt hx, hy, hx⟩
  · rintro ⟨l, -, hy, hx⟩ h0
    have := congrArg (bit · l) h0
    simp [bit_and, hx, hy] at this

/-- A mask that covers the passing lanes (`VOTE.all`). -/
theorem decide_and_eq_right (x y : W32) : decide (x &&& y = y) = (List.range 32).all fun l => !bit y l || bit x l := by
  rw [Bool.eq_iff_iff, decide_eq_true_eq]
  simp only [List.all_eq_true, List.mem_range]
  constructor
  · intro h l _
    rw [← h, bit_and]
    cases bit x l <;> cases bit y l <;> rfl
  · intro h
    refine W32.eq_of_bit fun l hl => ?_
    have := h l hl
    rw [bit_and]
    cases hx : bit x l <;> simp_all

/-- Lanes that all hold what the first of them holds hold the same pairwise (`VOTE.uni`). -/
theorem lanesOf_all_eq_first {α : Type} [DecidableEq α] (f : Nat → α) {m : W32} (hm : m ≠ 0#32) :
    ((lanesOf m).all fun l => decide (f l = f (firstLane m))) =
      (List.range 32).all fun l => (List.range 32).all fun j => !bit m l || !bit m j || decide (f l = f j) := by
  obtain ⟨hfirst, -⟩ := firstLane_least hm
  rw [Bool.eq_iff_iff]
  simp only [List.all_eq_true, mem_lanesOf, List.mem_range, decide_eq_true_eq, Bool.or_eq_true, Bool.not_eq_true']
  constructor
  · intro h l _ j _
    cases hl : bit m l
    · simp
    cases hj : bit m j
    · simp
    simp [h l hl, h j hj]
  · intro h l hl
    simpa [hl, hfirst] using h l (bit_lt hl) _ (bit_lt hfirst)

section
variable {s s1 : State} {c : Ctx} {i : Instr}

/-- In a passing lane: no lane below matches (`MATCH.first`). -/
theorem Ctx.firstLane_matches (c : Ctx) (a : BitVec 6) {l : Nat} (hl : bit c.pass l = true) :
    decide (firstLane (c.matches a l) = l) = (List.range 32).all fun j => !decide (j < l) || !bit c.pass j || decide (c.v a j ≠ c.v a l) := by
  have hself : bit (c.matches a l) l = true := by simp [Ctx.matches, bit_lt hl, hl]
  rw [Bool.eq_iff_iff, decide_eq_true_eq, firstLane_eq_iff hself]
  simp only [List.all_eq_true, List.mem_range, Bool.or_eq_true, Bool.not_eq_true', decide_eq_false_iff_not, decide_eq_true_eq]
  constructor
  · intro h j hj
    by_cases hlt : j < l
    · have hm := h j hlt
      rw [Ctx.matches, bit_maskOf _ _ hj, Bool.and_eq_false_iff, decide_eq_false_iff_not] at hm
      exact hm.elim (fun hp => .inl (.inr hp)) .inr
    · exact .inl (.inl hlt)
  · intro h j hlt
    have hj : j < 32 := hlt.trans (bit_lt hl)
    rw [Ctx.matches, bit_maskOf _ _ hj]
    rcases h j hj with (hn | hp) | hne
    · exact absurd hlt hn
    · simp [hp]
    · simp [hne]

/-! ## Predicate results -/

/-- The access processor issues only the words whose form allows it (R104 b). -/
theorem State.acting_warp (h : s.acting i = some (c, s1)) (hform : c.form.ap = false) : c.ap = false := by
  obtain ⟨core, -, -, -, -, -, -, hreject, -⟩ := State.acting_spec h
  cases hap : c.ap
  · rfl
  · simp [Form.reject, hform, hap] at hreject

/-- In a warp only the passing bits of a predicate result count (R39, R41). -/
theorem Ctx.holdsP_congr {t : State} {d : Nat} {v w : W32} (hap : c.ap = false) (hsame : ∀ l, bit c.pass l = true → bit v l = bit w l)
    (h : c.holdsP s t d v) : c.holdsP s t d w := by
  unfold Ctx.holdsP at h ⊢
  simp only [hap] at h ⊢
  split
  · next hd => simpa [hd] using h
  · next hd =>
    simp only [hd, if_false, Bool.false_eq_true] at h ⊢
    intro l hl
    rw [h l hl]
    split
    · next hp => exact hsame l hp
    · rfl

/-- An instruction writes a value that shows in its predicate as `v` would. -/
def Ctx.showsP (c : Ctx) (s s1 : State) (d : Nat) (v : W32) : Prop :=
  ∃ w, exec c.instr s = .next (c.next (c.putP s1 d w)) ∧ ∀ t, c.holdsP s1 t d w → c.holdsP s1 t d v

theorem acting_pred {d : BitVec 6} {w : Ctx → W32} {v : W32} (h : s.acting i = some (c, s1))
    (hexec : exec i s = issue i noCheck (fun c => c.pred d (w c)) s) (hv : w c = v) : c.showsP s s1 d.toNat v := by
  refine ⟨v, ?_, fun _ => id⟩
  rw [State.acting_instr h, hexec, issue_acting h _ _ rfl, hv]
  rfl

/-- In a warp the value need agree in the passing lanes alone. -/
theorem acting_pred_passing {d : BitVec 6} {w : Ctx → W32} {v : W32} (h : s.acting i = some (c, s1)) (hap : c.ap = false)
    (hexec : exec i s = issue i noCheck (fun c => c.pred d (w c)) s) (hv : ∀ l, bit c.pass l = true → bit (w c) l = bit v l) :
    c.showsP s s1 d.toNat v := by
  refine ⟨w c, ?_, fun t => Ctx.holdsP_congr hap hv⟩
  rw [State.acting_instr h, hexec, issue_acting h _ _ rfl]
  rfl

theorem predResult_latency {r : Nat × W32} (hr : c.predResult i = some r) (ap : Bool) (xs : List Ximm) : (form ap xs i).lat = resultLatency i := by
  cases i <;> cases hr <;> rfl

/-- An instruction with a predicate result shows what the rules give (R143, R149, R154). -/
theorem predResult_shows {d : Nat} {v : W32} (h : s.acting i = some (c, s1)) (hr : c.predResult i = some (d, v)) : c.showsP s s1 d v := by
  cases i <;> cases hr
  case pmovCc =>
    refine acting_pred h rfl ?_
    unfold zeroCompare spread
    split <;> simp [*, ← BitVec.toInt_inj, BitVec.slt_eq_decide, BitVec.sle_eq_decide, allLanes]
  case pseti => exact acting_pred h rfl (BitVec.signExtend_eq_setWidth_of_le _ (by decide)).symm
  case vcmpEq | vcmpNe => exact acting_pred h rfl (by simp only [BitVec.toNat_inj, ne_eq])
  case vcmpLt => exact acting_pred h rfl (by simp only [lessThan_eq_num_lt])
  case vcmpGt => exact acting_pred h rfl (by simp only [lessThan_eq_num_lt, gt_iff_lt])
  case vcmpLe | vcmpGe => exact acting_pred h rfl (by simp only [num_le_eq_not_lessThan, ge_iff_le])
  case voteAny => exact acting_pred h rfl ((spread_eq_maskOf _).trans (by rw [decide_and_ne_zero]))
  case voteAll => exact acting_pred h rfl ((spread_eq_maskOf _).trans (by rw [decide_and_eq_right]))
  case voteUni d a =>
    obtain ⟨-, -, -, -, -, -, -, -, -, -, hpass, -⟩ := State.acting_spec h
    exact acting_pred h rfl ((spread_eq_maskOf _).trans (by rw [lanesOf_all_eq_first (c.v a) hpass]))
  case matchFirst d a =>
    refine acting_pred_passing h (State.acting_warp h (State.acting_form h ▸ rfl)) rfl fun l hl => ?_
    rw [bit_maskOf _ _ (bit_lt hl), bit_maskOf _ _ (bit_lt hl), Ctx.firstLane_matches c a hl]
  all_goals exact acting_pred h rfl rfl

end

end Sys2Proof.Machine

open Sys2Proof Sys2Proof.Machine

/-- Settles O2: what is written shows as the rules' value in the passing bits (`predResult_shows`). -/
theorem predicateInstructionsLeaveTheirResult : Obligations.PredicateInstructionsLeaveTheirResult := by
  unfold Obligations.PredicateInstructionsLeaveTheirResult
  intro i s s1 c d v h hr
  have hlat : c.form.lat = resultLatency i := State.acting_form h ▸ predResult_latency hr _ _
  obtain ⟨w, hexec, hshows⟩ := predResult_shows h hr
  rw [State.acting_instr h] at hexec
  obtain ⟨hp, hfalls, hready, hrest⟩ := c.pred_spec s1 d w (State.acting_present h) (State.acting_notAhead h)
  exact ⟨_, hexec, hshows _ hp, hfalls, hlat ▸ hready (hlat ▸ resultLatency_ne_zero i), hrest⟩

end

section
/-! PROOFS. Integer lane and cross-lane instructions leave their result (R145 to R150, R154 to R156). -/

namespace Sys2Proof.Machine

/-! ## Dot products and rows of bits -/

theorem foldl_add_eq_sum (f : Nat → Int) (l : List Nat) (x : Int) : l.foldl (fun t k => t + f k) x = x + (l.map f).sum := by
  induction l generalizing x with
  | nil => simp
  | cons k l ih => simp [ih, Int.add_assoc]

theorem fieldNum_eq_element (w : Nat) (unsigned : Bool) (x : W32) (k : Nat) : fieldNum w unsigned x k = element w unsigned x k := by
  have hbits : x.extractLsb' (w * k) w = BitVec.ofNat w (x.toNat / 2 ^ (w * k)) := by
    apply BitVec.eq_of_toNat_eq
    simp [Nat.shiftRight_eq_div_pow]
  unfold fieldNum element
  rw [hbits]
  cases unsigned <;> simp

theorem byteNum_eq_element (u : BitVec 1) (x : W32) (k : Nat) : byteNum u (byteOf x k) = element 8 (decide (u = 1#1)) x k := by
  rw [← fieldNum_eq_element, byteNum, byteOf, fieldNum]
  simp only [decide_eq_true_eq]

theorem clamp_eq_max_min {lo hi t : Int} (h : lo ≤ hi) : max lo (min t hi) = clamp lo hi t := by
  unfold clamp
  split_ifs <;> omega

theorem dotSum_eq_dotProduct (w n : Nat) (m : BitVec 3) (x y acc : W32) : dotSum w n m x y acc = dotProduct w n m x y acc := by
  simp only [dotSum, dotProduct, foldl_add_eq_sum, fieldNum_eq_element, Int.add_comm _ (List.sum _)]
  cases hsat : m.getLsbD 2
  · simp
  · cases hboth : m.getLsbD 0 && m.getLsbD 1
    · simp only [Bool.true_and, hboth, if_true, Bool.false_eq_true, if_false]
      rw [clamp_eq_max_min (by decide)]
    · simp only [Bool.true_and, hboth, if_true]
      rw [clamp_eq_max_min (by decide)]

theorem bit_foldl_or (f : Nat → W32) (l : List Nat) (m : W32) (x : Nat) :
    bit (l.foldl (fun m j => m ||| f j) m) x = (bit m x || l.any fun j => bit (f j) x) := by
  induction l generalizing m with
  | nil => simp
  | cons j l ih => simp only [List.foldl_cons, ih, List.any_cons, bit_or, Bool.or_assoc]

theorem bit_foldl_xor (f : Nat → W32) (l : List Nat) (m : W32) (x : Nat) :
    bit (l.foldl (fun m j => m ^^^ f j) m) x = (bit m x ^^ decide ((l.filter fun j => bit (f j) x).length % 2 = 1)) := by
  induction l generalizing m with
  | nil => simp
  | cons j l ih =>
    simp only [List.foldl_cons, ih, List.filter_cons, bit_xor]
    cases hj : bit (f j) x
    · simp
    · rcases Nat.mod_two_eq_zero_or_one (l.filter fun j => bit (f j) x).length with h0 | h1
      · simp [h0, Nat.add_mod]
      · simp [h1, Nat.add_mod]

/-- The rows that a lane's bits select, combined by OR (`VOR.bmm`). -/
theorem Ctx.rows_or (c : Ctx) (a b : BitVec 6) (l : Nat) : (c.rows a b l).foldl (fun m x => m ||| x) 0#32 =
    maskOf fun x => (List.range 32).any fun j => bit (c.v a l) j && bit (c.seen b j) x := by
  refine W32.eq_of_bit fun x hx => ?_
  rw [Ctx.rows, List.foldl_map, bit_foldl_or, bit_maskOf _ _ hx, lanesOf, List.any_filter]
  simp [Ctx.active, Ctx.seen]

/-- The rows that a lane's bits select, combined by XOR (`VXOR.bmm`). -/
theorem Ctx.rows_xor (c : Ctx) (a b : BitVec 6) (l : Nat) : (c.rows a b l).foldl (fun m x => m ^^^ x) 0#32 =
    maskOf fun x => decide (((List.range 32).filter fun j => bit (c.v a l) j && bit (c.seen b j) x).length % 2 = 1) := by
  refine W32.eq_of_bit fun x hx => ?_
  have hfilter : (fun j => bit (c.v a l) j && bit (c.seen b j) x) = fun j => bit (c.active b j) x && bit (c.v a l) j := by
    funext j
    rw [Bool.and_comm]
    rfl
  rw [Ctx.rows, List.foldl_map, bit_foldl_xor, bit_maskOf _ _ hx, lanesOf, List.filter_filter, bit_zero, Bool.false_xor, hfilter]

section
variable {s s1 : State} {c : Ctx} {i : Instr}

/-! ## Vector results -/

theorem acting_vector {d : BitVec 6} {w : Ctx → Nat → W32} {f : Nat → W32} (h : s.acting i = some (c, s1))
    (hexec : exec i s = issue i noCheck (fun c => c.vector d (w c)) s) (hf : ∀ l, w c l = f l) : exec i s = .next (c.vector d f s1) := by
  rw [hexec, issue_acting h _ _ rfl, show w c = f from funext hf]

/-- A permute takes, for each lane, the lane that its instruction names (R150). -/
theorem acting_permute {d a : BitVec 6} (h : s.acting i = some (c, s1)) (hexec : exec i s = issue i noCheck (fun c => c.permute d a) s)
    (hsource : ∀ l, sourceLane i c.th l = c.source i l) : exec i s = .next (c.vector d (fun l => c.seen a (c.source i l)) s1) := by
  refine acting_vector (w := fun c l => c.active a (sourceLane c.instr c.th l)) h hexec fun l => ?_
  rw [State.acting_instr h, hsource]
  rfl

theorem vectorResult_form {d : BitVec 6} {f : Nat → W32} (hr : c.vectorResult i = some (d, f)) (ap : Bool) (xs : List Ximm) :
    (form ap xs i).lat = resultLatency i ∧ (form ap xs i).d = vec1 d := by
  cases i <;> cases hr <;> exact ⟨rfl, rfl⟩

/-- An integer lane or cross-lane instruction writes what the rules give (R145 to R156). -/
theorem vectorResult_exec {d : BitVec 6} {f : Nat → W32} (h : s.acting i = some (c, s1)) (hr : c.vectorResult i = some (d, f)) :
    exec i s = .next (c.vector d f s1) := by
  cases i <;> cases hr
  case vadd | vsub | vmul | vmad =>
    exact acting_vector h rfl fun l => by simp [ofInt_sub, BitVec.ofInt_add, BitVec.ofInt_mul]
  case vmulh => exact acting_vector h rfl fun l => mulHigh_eq_num _ _ _
  case vshl => exact acting_vector h rfl fun l => shiftLeft_eq_mul _ _
  case vshr => exact acting_vector h rfl fun l => shiftRight_eq_div _ _
  case vsra => exact acting_vector h rfl fun l => shiftArith_eq_div _ _
  case vmin => exact acting_vector h rfl fun l => (ofInt_min_num _ _ _).symm
  case vmax => exact acting_vector h rfl fun l => (ofInt_max_num _ _ _).symm
  case vabsd => exact acting_vector h rfl fun l => (ofNat_natAbs_sub_num _ _ _).symm
  case vpopc => exact acting_vector h rfl fun l => congrArg _ (popCount_eq_ones _)
  case vclz => exact acting_vector h rfl fun l => congrArg _ (leadingZeros_eq_zerosAbove _)
  case vdot4 =>
    exact acting_vector h rfl fun l => by simp only [foldl_add_eq_sum, byteNum_eq_element, Int.zero_add, BitVec.ofInt_add, BitVec.ofInt_toInt]
  case vaddi a k =>
    refine acting_vector h rfl fun l => ?_
    rw [BitVec.ofInt_add, BitVec.ofInt_toInt, ← BitVec.signExtend_eq_setWidth_of_le (c.imm14 k) (by decide)]
    rfl
  case vli => exact acting_vector h rfl fun l => (BitVec.signExtend_eq_setWidth_of_le _ (by decide)).symm
  case vsel => exact acting_vector h rfl fun l => ite_not _ _ _
  case vdot4I16 | vdot4I4 => exact acting_vector h rfl fun l => dotSum_eq_dotProduct _ _ _ _ _ _
  case perm | permx | shflup | shfldn | bcastReg | bcastImm => exact acting_permute h rfl fun _ => rfl
  case vorBmm => exact acting_vector h rfl fun l => c.rows_or _ _ l
  case vxorBmm => exact acting_vector h rfl fun l => c.rows_xor _ _ l
  all_goals exact acting_vector h rfl fun _ => rfl

end

end Sys2Proof.Machine

open Sys2Proof Sys2Proof.Machine

/-- Settles O3: the model writes the lanes of the rules (`vectorResult_exec`) in a register within the window (`State.acting_vec1`). -/
theorem vectorInstructionsLeaveTheirResult : Obligations.VectorInstructionsLeaveTheirResult := by
  unfold Obligations.VectorInstructionsLeaveTheirResult
  intro i s s1 c d f h hr
  obtain ⟨hlat, hd⟩ := State.acting_form h ▸ vectorResult_form hr c.ap c.iss.xs
  obtain ⟨hv, hfalls, hready, hrest⟩ := c.vector_spec s1 d f (State.acting_present h) (State.acting_notAhead h) (State.acting_vec1 h hd)
  exact ⟨_, vectorResult_exec h hr, hv, hfalls, hlat ▸ hready (hlat ▸ resultLatency_ne_zero i), hrest⟩

end

section
/-! PROOFS. Bit fields are extracted and inserted (R140). -/

namespace Sys2Proof.Machine

section
variable {n : Nat}

theorem fieldPos_eq (c : BitVec n) : fieldPos c = c.toNat % 256 := BitVec.toNat_setWidth ..

theorem fieldLen_eq (c : BitVec n) : fieldLen c n = min (c.toNat / 256 % 256) n := by
  simp [fieldLen, Nat.shiftRight_eq_div_pow]

theorem getLsbD_bfe_unsigned (x c : BitVec n) {j : Nat} (hj : j < n) :
    (bfe x c false).getLsbD j = (decide (j < fieldLen c n) && x.getLsbD (fieldPos c + j)) := by
  by_cases hlen : fieldLen c n = 0
  · simp [bfe, hlen]
  · rw [bfe, if_neg hlen, Bool.false_and, if_neg Bool.false_ne_true, BitVec.getLsbD_ofNat, Nat.testBit_mod_two_pow, Nat.testBit_shiftRight]
    simp [hj, BitVec.testBit_toNat]

/-- The signed field is the field as a word of its own length, sign-extended (R140). -/
theorem bfe_signed (x c : BitVec n) (hlen : fieldLen c n ≠ 0) :
    bfe x c true = (BitVec.ofNat (fieldLen c n) (x.toNat >>> fieldPos c)).signExtend n := by
  have hmsb : ((x.toNat >>> fieldPos c) % 2 ^ fieldLen c n).testBit (fieldLen c n - 1) = (BitVec.ofNat (fieldLen c n) (x.toNat >>> fieldPos c)).msb := by
    rw [BitVec.msb_eq_getLsbD_last, ← BitVec.testBit_toNat, BitVec.toNat_ofNat]
  rw [bfe, if_neg hlen, Bool.true_and, hmsb, BitVec.signExtend, BitVec.toInt_eq_msb_cond, BitVec.toNat_ofNat]
  split
  · simp
  · rw [BitVec.ofInt_natCast]

theorem getLsbD_bfe_signed (x c : BitVec n) {j : Nat} (hj : j < n) :
    (bfe x c true).getLsbD j = (decide (0 < fieldLen c n) && x.getLsbD (fieldPos c + min j (fieldLen c n - 1))) := by
  by_cases hlen : fieldLen c n = 0
  · simp [bfe, hlen]
  · have hbit {k : Nat} (hk : k < fieldLen c n) :
        (BitVec.ofNat (fieldLen c n) (x.toNat >>> fieldPos c)).getLsbD k = x.getLsbD (fieldPos c + k) := by
      rw [BitVec.getLsbD_ofNat, Nat.testBit_shiftRight, BitVec.testBit_toNat, decide_eq_true hk, Bool.true_and]
    have hpos : 0 < fieldLen c n := Nat.pos_of_ne_zero hlen
    rw [bfe_signed x c hlen, BitVec.getLsbD_signExtend, BitVec.msb_eq_getLsbD_last]
    by_cases hin : j < fieldLen c n
    · rw [min_eq_left (by omega), if_pos hin, hbit hin]
      simp [hj, hpos]
    · rw [min_eq_right (by omega), if_neg hin, hbit (by omega)]
      simp [hj, hpos]

theorem getLsbD_bfi (old x c : BitVec n) {j : Nat} (hj : j < n) : (bfi old x c).getLsbD j =
    if fieldPos c ≤ j ∧ j < fieldPos c + fieldLen c n then x.getLsbD (j - fieldPos c) else old.getLsbD j := by
  have hmask : (BitVec.ofNat n ((2 ^ fieldLen c n - 1) * 2 ^ fieldPos c)).getLsbD j = decide (fieldPos c ≤ j ∧ j < fieldPos c + fieldLen c n) := by
    rw [BitVec.getLsbD_ofNat, Nat.testBit_mul_two_pow, Nat.testBit_two_pow_sub_one, decide_eq_true hj, Bool.true_and, Bool.eq_iff_iff]
    simp only [Bool.and_eq_true, decide_eq_true_eq]
    omega
  rw [bfi, BitVec.getLsbD_or, BitVec.getLsbD_and, BitVec.getLsbD_and, BitVec.getLsbD_not, BitVec.getLsbD_shiftLeft, hmask]
  split
  · next hin => simp only [hin, hj, not_lt.mpr hin.1, and_self, decide_true, decide_false, Bool.not_true, Bool.and_false, Bool.not_false, Bool.true_and,
      Bool.and_true, Bool.false_or]
  · next hout => simp only [hout, hj, decide_true, decide_false, Bool.not_false, Bool.and_false, Bool.and_true, Bool.or_false]
end

end Sys2Proof.Machine

open Sys2Proof Sys2Proof.Machine

/-- Settles O4: the position and the length are the low bytes of the control word (`fieldPos_eq`, `fieldLen_eq`). -/
theorem bitFieldsAreExtractedAndInserted : Obligations.BitFieldsAreExtractedAndInserted := by
  unfold Obligations.BitFieldsAreExtractedAndInserted
  intro n x old c j _ hj
  rw [← fieldPos_eq, ← fieldLen_eq]
  exact ⟨getLsbD_bfe_unsigned x c hj, getLsbD_bfe_signed x c hj, getLsbD_bfi old x c hj⟩

end

section
/-! PROOFS. Instructions with two results, or with a result and flags: a pair of vector registers, a predicate and a vector register, FPSTAT (R146, R153, R164). -/

namespace Sys2Proof.Machine

section
variable {c : Ctx} {s t : State} {n : Nat} {f : Nat → W32} {v : W32} {vs ss ps : List Nat} {α : Type}

/-! ## One write, seen from the rest of the thread -/

theorem Ctx.present_putV (hp : c.present s) : c.present (c.putV s n f) := Ctx.present_updThread hp _

theorem Ctx.present_putP (hp : c.present s) : c.present (c.putP s n v) := Ctx.present_updThread hp _

/-- A write of a vector register is not seen in what does not look at vector registers, recent results, slots and accesses. -/
theorem Ctx.my_putV_field (F : Thread → α) (hp : c.present s)
    (hF : ∀ (t : Thread) regs recent a b inflight, F { t with v := regs, recent := recent, slotA := a, slotB := b, inflight := inflight } = F t := by
      intros; rfl) : F (c.my (c.putV s n f)) = F (c.my s) := by
  rw [Ctx.putV, Ctx.my_updThread hp, Thread.setV]
  split <;> exact hF (c.my s) _ _ _ _ _

/-- A write of a predicate is not seen in what does not look at predicates, recent results, slots and accesses. -/
theorem Ctx.my_putP_field (F : Thread → α) (hp : c.present s)
    (hF : ∀ (t : Thread) preds recent a b inflight, F { t with p := preds, recent := recent, slotA := a, slotB := b, inflight := inflight } = F t := by
      intros; rfl) : F (c.my (c.putP s n v)) = F (c.my s) := by
  rw [Ctx.putP, Ctx.my_updThread hp, Thread.setP]
  split <;> exact hF (c.my s) _ _ _ _ _

/-- Going on is not seen in what looks neither at slots nor at loops. -/
theorem Ctx.my_next_field (F : Thread → α) (hp : c.present s) (hn : (c.my s).ahead = none)
    (hF : ∀ (t : Thread) a b loops done, F { t with slotA := a, slotB := b, loops := loops, aheadDone := done } = F t := by intros; rfl) :
    F (c.my (c.next s)) = F (c.my s) := by
  rw [Ctx.my_next hp hn, Thread.advanced]
  cases c.iss.slot <;> exact hF (c.my s) _ _ _ _

theorem Ctx.vreg_putV_other {j : Nat} (hp : c.present s) (hj : j ≠ n) : (c.my (c.putV s n f)).vreg j = (c.my s).vreg j := by
  rw [Ctx.putV, Ctx.my_updThread hp, Thread.vreg_setV_other _ _ _ _ _ _ hj]
  rfl

theorem Ctx.rest_putV (h : n ∈ vs) : c.rest (c.putV s n f) vs ss ps = c.rest s vs ss ps := by
  have hnamed : isNamed vs ss ps (.v n) = true := by simpa [isNamed] using h
  refine Ctx.rest_updThread _ _ _ _ _ _ fun t => ?_
  rw [Thread.except_setV _ _ _ _ _ _ _ _ _ _ h, Thread.except_supersede _ _ _ _ _ _ _ _ hnamed, Thread.except_remember _ _ _ _ _ _ _ _ _ hnamed]

theorem Ctx.rest_putP (h : n ∈ ps) : c.rest (c.putP s n v) vs ss ps = c.rest s vs ss ps := by
  have hnamed : isNamed vs ss ps (.p n) = true := by simpa [isNamed] using h
  refine Ctx.rest_updThread _ _ _ _ _ _ fun t => ?_
  rw [Thread.except_setP _ _ _ _ _ _ _ _ _ h, Thread.except_supersede _ _ _ _ _ _ _ _ hnamed, Thread.except_remember _ _ _ _ _ _ _ _ _ hnamed]

theorem Ctx.rest_next_plain (hn : (c.my s).ahead = none) : c.rest (c.next s) vs ss ps = c.rest s vs ss ps :=
  Ctx.rest_next (fun _ _ => rfl) (fun _ _ _ => rfl) hn

/-- What a vector register holds after an instruction depends on the register before and after it alone. -/
theorem Ctx.holdsV_of_vreg {s' t' : State} (h : c.holdsV s t n f) (hs : (c.my s').vreg n = (c.my s).vreg n) (ht : (c.my t').vreg n = (c.my t).vreg n) :
    c.holdsV s' t' n f := by
  unfold Ctx.holdsV Thread.lane at h ⊢
  rw [hs, ht]
  exact h

/-- The same of a predicate. -/
theorem Ctx.holdsP_of_pval {t' : State} (h : c.holdsP s t n v) (ht : (c.my t').pval n = (c.my t).pval n) : c.holdsP s t' n v := by
  unfold Ctx.holdsP at h ⊢
  rw [ht, show (c.my t').pval 7 = (c.my t).pval 7 from rfl]
  exact h

/-! ## Two results -/

/-- What an instruction with a predicate result and a vector result does. -/
theorem Ctx.pred_vector_spec {d : BitVec 6} (hp : c.present s) (hn : (c.my s).ahead = none) (hwin : d.toNat < (c.my s).window) :
    c.holdsV s (c.vector d f (c.putP s n v)) d.toNat f ∧ c.holdsP s (c.vector d f (c.putP s n v)) n v ∧ c.falls s (c.vector d f (c.putP s n v)) ∧
      c.rest (c.vector d f (c.putP s n v)) [d.toNat] [] [n] = c.rest s [d.toNat] [] [n] := by
  have hp1 : c.present (c.putP s n v) := Ctx.present_putP hp
  have hn1 : (c.my (c.putP s n v)).ahead = none := (Ctx.my_putP_field Thread.ahead hp).trans hn
  have hp2 : c.present (c.putV (c.putP s n v) d.toNat f) := Ctx.present_putV hp1
  have hn2 : (c.my (c.putV (c.putP s n v) d.toNat f)).ahead = none := (Ctx.my_putV_field Thread.ahead hp1).trans hn1
  obtain ⟨hv, hfalls, -, -⟩ := c.vector_spec _ d f hp1 hn1 ((Ctx.my_putP_field Thread.window hp).symm ▸ hwin)
  obtain ⟨hpred, -⟩ := c.pred_spec s n v hp hn
  refine ⟨?_, ?_, ?_, ?_⟩
  · exact Ctx.holdsV_of_vreg hv (Ctx.my_putP_field (Thread.vreg · _) hp).symm rfl
  · refine Ctx.holdsP_of_pval hpred ?_
    calc (c.my (c.next (c.putV (c.putP s n v) d.toNat f))).pval n
      _ = (c.my (c.putV (c.putP s n v) d.toNat f)).pval n := Ctx.my_next_field (Thread.pval · n) hp2 hn2
      _ = (c.my (c.putP s n v)).pval n := Ctx.my_putV_field (Thread.pval · n) hp1
      _ = (c.my (c.next (c.putP s n v))).pval n := (Ctx.my_next_field (Thread.pval · n) hp1 hn1).symm
  · exact Ctx.falls_of_loops hfalls (Ctx.my_putP_field Thread.loops hp)
  · exact (Ctx.rest_next_plain hn2).trans ((Ctx.rest_putV (by simp)).trans (Ctx.rest_putP (by simp)))

/-- What an instruction with results in a pair of vector registers does. -/
theorem Ctx.vector_pair_spec {d : BitVec 6} {g : Nat → W32} (hp : c.present s) (hn : (c.my s).ahead = none) (heven : d.toNat % 2 = 0)
    (hwin : d.toNat + 2 ≤ (c.my s).window) :
    let t := c.next (c.putV (c.putV s d.toNat f) (d.toNat + 1) g)
    c.holdsV s t d.toNat f ∧ c.holdsV s t (d.toNat + 1) g ∧ c.falls s t ∧
      c.rest t [d.toNat, d.toNat + 1] [] [] = c.rest s [d.toNat, d.toNat + 1] [] [] := by
  intro t
  have hp1 : c.present (c.putV s d.toNat f) := Ctx.present_putV hp
  have hn1 : (c.my (c.putV s d.toNat f)).ahead = none := (Ctx.my_putV_field Thread.ahead hp).trans hn
  have hp2 : c.present (c.putV (c.putV s d.toNat f) (d.toNat + 1) g) := Ctx.present_putV hp1
  have hn2 : (c.my (c.putV (c.putV s d.toNat f) (d.toNat + 1) g)).ahead = none := (Ctx.my_putV_field Thread.ahead hp1).trans hn1
  have hwin1 : (c.my (c.putV s d.toNat f)).window = (c.my s).window := Ctx.my_putV_field Thread.window hp
  have hupper : (d + 1#6).toNat = d.toNat + 1 := by
    have := d.isLt
    rw [BitVec.toNat_add, BitVec.toNat_ofNat]
    omega
  obtain ⟨hlow, -⟩ := c.vector_spec s d f hp hn (by omega)
  obtain ⟨hhigh, hfalls, -, -⟩ := c.vector_spec _ (d + 1#6) g hp1 hn1 (by omega)
  rw [hupper, Ctx.vector, hupper] at hhigh
  rw [Ctx.vector, hupper] at hfalls
  refine ⟨?_, ?_, ?_, ?_⟩
  · refine Ctx.holdsV_of_vreg hlow rfl ?_
    calc (c.my t).vreg d.toNat
      _ = (c.my (c.putV (c.putV s d.toNat f) (d.toNat + 1) g)).vreg d.toNat := Ctx.my_next_field (Thread.vreg · _) hp2 hn2
      _ = (c.my (c.putV s d.toNat f)).vreg d.toNat := Ctx.vreg_putV_other hp1 (by omega)
      _ = (c.my (c.vector d f s)).vreg d.toNat := (Ctx.my_next_field (Thread.vreg · _) hp1 hn1).symm
  · exact Ctx.holdsV_of_vreg hhigh (Ctx.vreg_putV_other hp (by omega)).symm rfl
  · exact Ctx.falls_of_loops hfalls (Ctx.my_putV_field Thread.loops hp)
  · exact (Ctx.rest_next_plain hn2).trans ((Ctx.rest_putV (by simp)).trans (Ctx.rest_putV (by simp)))

/-! ## A result and flags -/

theorem looseFloat_besideThreads : looseFloat.besideThreads := fun _ _ => rfl

theorem Ctx.my_flags (hp : c.present s) (x : W32) : c.my (c.flags x s) = { c.my s with fpstat := (c.my s).fpstat ||| x } := by
  unfold Ctx.flags
  split
  · next h => simp [h]
  · exact Ctx.my_updThread hp _

theorem Ctx.present_flags (hp : c.present s) (x : W32) : c.present (c.flags x s) := by
  unfold Ctx.flags
  split
  · exact hp
  · exact Ctx.present_updThread hp _

theorem Ctx.rest_flags (x : W32) : c.rest (c.flags x s) vs ss ps looseFloat = c.rest s vs ss ps looseFloat := by
  unfold Ctx.flags
  split
  · rfl
  · exact Ctx.rest_loosenThread looseFloat_besideThreads fun _ => rfl

/-- What an instruction with a vector result that raises flags does (R164). -/
theorem Ctx.flags_vector_spec {d : BitVec 6} {x : W32} (hp : c.present s) (hn : (c.my s).ahead = none) (hwin : d.toNat < (c.my s).window) :
    let t := c.vector d f (c.flags x s)
    c.falls s t ∧ c.rest t [d.toNat] [] [] looseFloat = c.rest s [d.toNat] [] [] looseFloat ∧ (c.my t).gen = (c.my s).gen ∧
      (c.my t).fpstat = (c.my s).fpstat ||| x ∧ c.holdsV s t d.toNat f := by
  intro t
  have hmy := Ctx.my_flags hp x
  have hp1 : c.present (c.flags x s) := Ctx.present_flags hp x
  have hn1 : (c.my (c.flags x s)).ahead = none := by rw [hmy]; exact hn
  have hp2 : c.present (c.putV (c.flags x s) d.toNat f) := Ctx.present_putV hp1
  have hn2 : (c.my (c.putV (c.flags x s) d.toNat f)).ahead = none := (Ctx.my_putV_field Thread.ahead hp1).trans hn1
  obtain ⟨hv, hfalls, -, hrest⟩ := c.vector_spec _ d f hp1 hn1 (by rw [hmy]; exact hwin)
  refine ⟨Ctx.falls_of_loops hfalls (by rw [hmy]), ?_, ?_, ?_, Ctx.holdsV_of_vreg hv (by rw [hmy]; rfl) rfl⟩
  · exact (Ctx.rest_loosen hrest looseFloat_besideThreads (fun _ _ => by cases c.iss.slot <;> rfl) rfl).trans (Ctx.rest_flags x)
  · exact ((Ctx.my_next_field Thread.gen hp2 hn2).trans (Ctx.my_putV_field Thread.gen hp1)).trans (by rw [hmy])
  · exact ((Ctx.my_next_field Thread.fpstat hp2 hn2).trans (Ctx.my_putV_field Thread.fpstat hp1)).trans (by rw [hmy])

end

theorem Ctx.carrySum_eq_withCarry (c : Ctx) (a b : BitVec 6) : c.carrySum a b = c.withCarry a b := by
  funext l
  rw [Ctx.carrySum, Ctx.withCarry]
  cases bit (c.th.pval 6) l <;> rfl

end Sys2Proof.Machine

open Sys2Proof Sys2Proof.Machine

/-- Settles O5: a predicate and a vector register are written (`Ctx.pred_vector_spec`). -/
theorem addWithCarryUsesAndLeavesTheCarry : Obligations.AddWithCarryUsesAndLeavesTheCarry := by
  unfold Obligations.AddWithCarryUsesAndLeavesTheCarry
  intro d a b s s1 c h
  rw [← Ctx.carrySum_eq_withCarry]
  exact ⟨_, issue_acting h _ _ rfl, Ctx.pred_vector_spec (State.acting_present h) (State.acting_notAhead h) (State.acting_vec1 h (State.acting_form h ▸ rfl))⟩

end

section
/-! PROOFS. The order of what the codes of a floating-point format hold (R158, R172). -/

namespace Sys2Proof.Machine

/-- The value of a finite magnitude code, in units of the least subnormal of the format (R158). -/
def Format.weight (f : Format) (c : Nat) : Nat :=
  if c / 2 ^ f.mbits = 0 then c % 2 ^ f.mbits else (c % 2 ^ f.mbits + 2 ^ f.mbits) * 2 ^ (c / 2 ^ f.mbits - 1)

theorem Format.weight_strictMono (f : Format) : StrictMono f.weight := by
  refine strictMono_nat_of_lt_succ fun c => ?_
  have hpos : 0 < 2 ^ f.mbits := Nat.two_pow_pos _
  have hdiv := Nat.div_add_mod c (2 ^ f.mbits)
  have hmod := Nat.mod_lt c hpos
  unfold Format.weight
  generalize c / 2 ^ f.mbits = q at *
  generalize c % 2 ^ f.mbits = r at *
  generalize 2 ^ f.mbits = M at *
  subst hdiv
  by_cases hcarry : r + 1 < M
  · have hq : (M * q + r + 1) / M = q := by rw [Nat.add_assoc, Nat.mul_add_div hpos, Nat.div_eq_of_lt hcarry, Nat.add_zero]
    have hr : (M * q + r + 1) % M = r + 1 := by rw [Nat.add_assoc, Nat.mul_add_mod, Nat.mod_eq_of_lt hcarry]
    rw [hq, hr]
    split
    · omega
    · exact Nat.mul_lt_mul_of_pos_right (by omega) (Nat.two_pow_pos _)
  · have hnext : M * q + r + 1 = M * (q + 1) := by rw [Nat.mul_add, Nat.mul_one]; omega
    rw [hnext, Nat.mul_div_cancel_left _ hpos, Nat.mul_mod_right, if_neg (Nat.succ_ne_zero q), Nat.zero_add, Nat.add_sub_cancel]
    cases q with
    | zero => simpa using hmod
    | succ k =>
      rw [if_neg (Nat.succ_ne_zero k), Nat.add_sub_cancel, Nat.pow_succ, ← Nat.mul_assoc, Nat.mul_right_comm]
      exact Nat.mul_lt_mul_of_pos_right (by omega) (Nat.two_pow_pos _)

/-- The exponent of the least subnormal of a format, negated. -/
def Format.depth (f : Format) : Int := f.bias + f.mbits - 1

theorem Format.isNan_decode {f : Format} (hnans : f.nans = .ieee) (x : Nat) : (f.decode x).isNan = decide (f.infCode < f.magnitude x) := by
  unfold Format.decode
  simp only [hnans, true_and, reduceCtorEq, false_and, if_false, gt_iff_lt]
  split_ifs <;> simp_all [Num.isNan]

/-- A code that is no NaN holds an infinity, a zero, or its weight with its sign. -/
theorem Format.decode_cases {f : Format} (hinf : f.hasInf = true → f.nans = .ieee) {x : Nat} (hx : (f.decode x).isNan = false) :
    (f.decode x = .inf (f.neg x) ∧ f.hasInf = true ∧ f.magnitude x = f.infCode) ∨
    ((f.hasInf = true → f.magnitude x < f.infCode) ∧
      ((f.decode x = .zero (f.neg x) ∧ f.magnitude x = 0) ∨
       ∃ m e, f.decode x = .fin (f.neg x) m e ∧ 0 < f.magnitude x ∧ 0 ≤ e + f.depth ∧ f.weight (f.magnitude x) = m * 2 ^ (e + f.depth).toNat)) := by
  unfold Format.decode at hx ⊢
  simp only [Nat.shiftRight_eq_div_pow] at hx ⊢
  split_ifs at hx ⊢ with hieee hones hisInf hzero hsub
  · simp [Num.isNan] at hx
  · simp [Num.isNan] at hx
  · exact .inl ⟨rfl, hisInf⟩
  all_goals
    have hbelow (h : f.hasInf = true) : f.magnitude x < f.infCode :=
      lt_of_le_of_ne (not_lt.mp fun hlt => hieee ⟨hinf h, hlt⟩) fun heq => hisInf ⟨h, heq⟩
  · exact .inr ⟨hbelow, .inl ⟨rfl, hzero⟩⟩
  · refine .inr ⟨hbelow, .inr ⟨_, _, rfl, Nat.pos_of_ne_zero hzero, ?_⟩⟩
    have hexp : 1 - (f.bias : Int) - f.mbits + f.depth = 0 := by unfold Format.depth; omega
    rw [hexp, Format.weight, if_pos hsub]
    simp
  · refine .inr ⟨hbelow, .inr ⟨_, _, rfl, Nat.pos_of_ne_zero hzero, ?_⟩⟩
    rw [Format.weight, if_neg hsub]
    generalize f.magnitude x / 2 ^ f.mbits = q at hsub ⊢
    have hexp : (q : Int) - f.bias - f.mbits + f.depth = (q - 1 : Nat) := by unfold Format.depth; omega
    rw [hexp]
    simp

/-- The weight of a code with its sign. -/
def Format.signed (f : Format) (x : Nat) : Int := if f.neg x then -(f.weight (f.magnitude x) : Int) else f.weight (f.magnitude x)

@[simp] theorem Format.weight_zero (f : Format) : f.weight 0 = 0 := by simp [Format.weight]

/-- Codes with the order of their signed weights are in the order of their places, but for the two zeros. -/
theorem Format.signed_lt_iff {f : Format} {x y : Nat} (h : ¬ (f.magnitude x = 0 ∧ f.magnitude y = 0)) :
    f.signed x < f.signed y ↔ orderKey f x < orderKey f y := by
  have hlt := f.weight_strictMono.lt_iff_lt (a := f.magnitude x) (b := f.magnitude y)
  have hgt := f.weight_strictMono.lt_iff_lt (a := f.magnitude y) (b := f.magnitude x)
  have hx := f.weight_strictMono.lt_iff_lt (a := 0) (b := f.magnitude x)
  have hy := f.weight_strictMono.lt_iff_lt (a := 0) (b := f.magnitude y)
  rw [Format.weight_zero] at hx hy
  unfold Format.signed orderKey
  split_ifs <;> omega

/-- What a finite code holds: its signed weight, in units of any exponent down to the depth of the format. -/
def Num.weighs (f : Format) (a : Num) (w : Int) : Prop :=
  a.isInf = false ∧ (∀ e, a.exp? = some e → 0 ≤ e + f.depth) ∧
    ∀ k, (∀ e, a.exp? = some e → k ≤ e) → 0 ≤ k + f.depth → a.scaled k * 2 ^ (k + f.depth).toNat = w

/-- A code that is no NaN holds an infinity, or what weighs as it says and is zero where its magnitude is. -/
theorem Format.decode_weighs {f : Format} (hinf : f.hasInf = true → f.nans = .ieee) {x : Nat} (hx : (f.decode x).isNan = false) :
    (f.decode x = .inf (f.neg x) ∧ f.hasInf = true ∧ f.magnitude x = f.infCode) ∨
    ((f.hasInf = true → f.magnitude x < f.infCode) ∧ (f.decode x).weighs f (f.signed x) ∧ (f.decode x).isZero = decide (f.magnitude x = 0) ∧
      (f.magnitude x = 0 → f.decode x = .zero (f.neg x))) := by
  rcases f.decode_cases hinf hx with hisInf | ⟨hbelow, ⟨hd, hmag⟩ | ⟨m, e, hd, hmag, he, hw⟩⟩
  · exact .inl hisInf
  · refine .inr ⟨hbelow, ?_, by simp [hd, hmag, Num.isZero], fun _ => hd⟩
    rw [hd]
    exact ⟨rfl, by simp [Num.exp?], fun k _ _ => by simp [Num.scaled, Format.signed, hmag]⟩
  · refine .inr ⟨hbelow, ?_, by simp [hd, hmag.ne', Num.isZero], fun h => absurd h hmag.ne'⟩
    rw [hd]
    refine ⟨rfl, fun _ h => Option.some.inj h ▸ he, fun k hk h0 => ?_⟩
    have hexp : (e + f.depth).toNat = (e - k).toNat + (k + f.depth).toNat := by have := hk e rfl; omega
    rw [Format.signed, hw, hexp, pow_add, ← mul_assoc]
    cases f.neg x <;> simp [Num.scaled]

theorem minExp_pair_le (a b : Num) : (∀ e, a.exp? = some e → minExp [a, b] ≤ e) ∧ ∀ e, b.exp? = some e → minExp [a, b] ≤ e := by
  unfold minExp
  constructor <;> intro e he <;> simp only [List.foldl_cons, List.foldl_nil, he] <;> split <;> omega

/-- Two values that are neither infinite nor both zero compare as multiples of a power of two. -/
theorem Num.lt_eq_scaled {a b : Num} (ha : a.isInf = false) (hb : b.isInf = false) (hz : (a.isZero && b.isZero) = false) :
    a.lt b = decide (a.scaled (minExp [a, b]) < b.scaled (minExp [a, b])) := by
  cases a <;> cases b <;> simp_all [Num.lt, Num.isInf, Num.isZero]

/-- Two values that are neither infinite nor both zero compare as they weigh. -/
theorem Num.lt_of_weighs {f : Format} {a b : Num} {v w : Int} (hdepth : 0 ≤ 4096 + f.depth) (ha : a.weighs f v) (hb : b.weighs f w)
    (hz : (a.isZero && b.isZero) = false) : a.lt b = decide (v < w) := by
  obtain ⟨ainf, aexp, aw⟩ := ha
  obtain ⟨binf, bexp, bw⟩ := hb
  obtain ⟨ha, hb⟩ := minExp_pair_le a b
  have h0 : 0 ≤ minExp [a, b] + f.depth := by
    unfold minExp
    simp only [List.foldl_cons, List.foldl_nil]
    cases hea : a.exp? <;> cases heb : b.exp? <;> grind
  rw [Num.lt_eq_scaled ainf binf hz, ← aw _ ha h0, ← bw _ hb h0]
  simp

theorem Num.inf_lt (n : Bool) {b : Num} (hb : b.isInf = false) : (Num.inf n).lt b = n ∧ b.lt (.inf n) = !n := by
  cases n <;> cases b <;> simp_all [Num.lt, Num.isInf]

/-- `Num.lt` orders what the codes of a format hold as their places do (R172). -/
theorem Format.decode_lt {f : Format} (hinf : f.hasInf = true → f.nans = .ieee) {x y : Nat} (hx : (f.decode x).isNan = false)
    (hy : (f.decode y).isNan = false) : (f.decode x).lt (f.decode y) = decide (orderKey f x < orderKey f y) := by
  have hdepth : 0 ≤ 4096 + f.depth := by unfold Format.depth; omega
  rcases f.decode_weighs hinf hx with ⟨hdx, hix, hmx⟩ | ⟨hbx, hwx, hzx, hx0⟩ <;>
    rcases f.decode_weighs hinf hy with ⟨hdy, hiy, hmy⟩ | ⟨hby, hwy, hzy, hy0⟩
  · rw [hdx, hdy]
    cases hnx : f.neg x <;> cases hny : f.neg y <;> simp [Num.lt, orderKey, hnx, hny, hmx, hmy]
    omega
  · have hlt := hby hix
    rw [hdx, (Num.inf_lt _ hwy.1).1]
    cases hnx : f.neg x <;> cases hny : f.neg y <;> simp [orderKey, hnx, hny, hmx] <;> omega
  · have hlt := hbx hiy
    rw [hdy, (Num.inf_lt _ hwx.1).2]
    cases hnx : f.neg x <;> cases hny : f.neg y <;> simp [orderKey, hnx, hny, hmy] <;> omega
  · by_cases hboth : f.magnitude x = 0 ∧ f.magnitude y = 0
    · obtain ⟨hmx, hmy⟩ := hboth
      rw [hx0 hmx, hy0 hmy]
      cases hnx : f.neg x <;> cases hny : f.neg y <;> simp [Num.lt, orderKey, hnx, hny, hmx, hmy]
    · rw [Num.lt_of_weighs hdepth hwx hwy (by simpa [hzx, hzy] using hboth)]
      exact decide_eq_decide.mpr (Format.signed_lt_iff hboth)

end Sys2Proof.Machine

end

section
/-! PROOFS. `ARGMAX` finds the first greatest lane (R153). -/

namespace Sys2Proof.Machine

/-! ## The rank of a lane (R153) -/

/-- A code that is no NaN holds a zero where its magnitude is 0. -/
theorem Format.isZero_decode {f : Format} (hinf : f.hasInf = true → f.nans = .ieee) {x : Nat} (hx : (f.decode x).isNan = false) :
    (f.decode x).isZero = decide (f.magnitude x = 0) := by
  rcases f.decode_weighs hinf hx with ⟨hd, -, hmag⟩ | ⟨-, -, hzero, -⟩
  · simp [hd, hmag, Num.isZero, Format.infCode]
  · exact hzero

/-- What lies below and is not the same: the places of the two codes are in order, and they are not the two zeros. -/
theorem Format.lt_and_not_same {f : Format} (hinf : f.hasInf = true → f.nans = .ieee) {x y : Nat} (hx : (f.decode x).isNan = false)
    (hy : (f.decode y).isNan = false) : ((f.decode x).lt (f.decode y) && !(f.decode x).same (f.decode y)) =
      decide (orderKey f x < orderKey f y ∧ ¬ (f.magnitude x = 0 ∧ f.magnitude y = 0)) := by
  rw [Num.same, Format.decode_lt hinf hx hy, Format.isZero_decode hinf hx, Format.isZero_decode hinf hy, Bool.eq_iff_iff]
  simp only [Bool.and_eq_true, Bool.not_eq_true', Bool.or_eq_false_iff, Bool.and_eq_false_iff, Bool.not_eq_false', decide_eq_true_eq, decide_eq_false_iff_not]
  omega

theorem fp32_isNan (x : W32) : (fp32.decode x.toNat).isNan = decide (fp32.magnitude x.toNat > 0x7F800000) := Format.isNan_decode rfl _

theorem rankOf_float (x : W32) : rankOf 0#4 x = if fp32.magnitude x.toNat > 0x7F800000 then -(2 ^ 31) else
    if fp32.neg x.toNat then -(fp32.magnitude x.toNat : Int) else fp32.magnitude x.toNat := rfl

theorem rankOf_float_low (x : W32) : -(2 ^ 31) ≤ rankOf 0#4 x ∧ (rankOf 0#4 x = -(2 ^ 31) ↔ (fp32.decode x.toNat).isNan = true) := by
  rw [rankOf_float, fp32_isNan, decide_eq_true_eq]
  split_ifs <;> omega

/-- As floating-point lanes: a NaN below every number, the two zeros equal, the others in their order. -/
theorem ranksBelow_float (x y : W32) : ranksBelow 0 x y = decide (rankOf 0#4 x < rankOf 0#4 y) := by
  obtain ⟨hlowx, hnanx⟩ := rankOf_float_low x
  obtain ⟨hlowy, hnany⟩ := rankOf_float_low y
  simp only [ranksBelow]
  cases hy : (fp32.decode y.toNat).isNan
  · cases hx : (fp32.decode x.toNat).isNan
    · simp only [Bool.false_eq_true, if_false, Format.lt_and_not_same (fun _ => rfl) hx hy]
      refine decide_eq_decide.mpr ?_
      rw [fp32_isNan, decide_eq_false_iff_not] at hx hy
      rw [rankOf_float, rankOf_float, if_neg hx, if_neg hy, orderKey, orderKey]
      split_ifs <;> omega
    · have hlt : rankOf 0#4 x < rankOf 0#4 y := by
        have hne : rankOf 0#4 y ≠ -(2 ^ 31) := fun h => by simp [hnany.mp h] at hy
        have heq := hnanx.mpr hx
        omega
      simp [hlt]
  · have heq := hnany.mpr hy
    simp [show ¬ rankOf 0#4 x < rankOf 0#4 y by omega]

/-- A lane ranks below another where its rank is the lower. -/
theorem ranksBelow_eq_rankOf (m : BitVec 4) (x y : W32) : ranksBelow m.toNat x y = decide (rankOf m x < rankOf m y) := by
  by_cases h0 : m = 0#4
  · subst h0; exact ranksBelow_float x y
  by_cases h1 : m = 1#4
  · subst h1; exact BitVec.slt_eq_decide
  simp only [rankOf, h0, h1, if_false]
  unfold ranksBelow
  split
  · next h => exact absurd (BitVec.eq_of_toNat_eq h) h0
  · next h => exact absurd (BitVec.eq_of_toNat_eq h) h1
  · simp [BitVec.ult_eq_decide]

/-- The best lane so far after one more: the later lane takes its place only where it ranks above it. -/
def bestLane (rank : Nat → Int) (best j : Nat) : Nat := if rank best < rank j then j else best

/-- The best of ascending lanes has the highest rank, and is the lowest of its rank. -/
theorem foldl_best (rank : Nat → Int) (l : List Nat) (i : Nat) (hsorted : (i :: l).Pairwise (· < ·)) :
    let w := l.foldl (bestLane rank) i
    w ∈ i :: l ∧ ∀ j ∈ i :: l, rank j ≤ rank w ∧ (j < w → rank j < rank w) := by
  induction l generalizing i with
  | nil => simp
  | cons k l ih =>
    intro w
    obtain ⟨hi, hk⟩ := List.pairwise_cons.mp hsorted
    by_cases hbetter : rank i < rank k
    · obtain ⟨hmem, hbest⟩ := ih k hk
      have hw : w = l.foldl (bestLane rank) k := by simp [w, bestLane, hbetter]
      rw [← hw] at hmem hbest
      have hkw := (hbest k List.mem_cons_self).1
      refine ⟨List.mem_cons_of_mem _ hmem, fun j hj => ?_⟩
      rcases List.mem_cons.mp hj with rfl | hj
      · exact ⟨by omega, fun _ => by omega⟩
      · exact hbest j hj
    · have hsub : (i :: l).Pairwise (· < ·) := List.pairwise_cons.mpr ⟨fun j hj => hi j (List.mem_cons_of_mem _ hj), hk.of_cons⟩
      obtain ⟨hmem, hbest⟩ := ih i hsub
      have hw : w = l.foldl (bestLane rank) i := by simp [w, bestLane, hbetter]
      rw [← hw] at hmem hbest
      obtain ⟨hiw, hlow⟩ := hbest i List.mem_cons_self
      have hik := hi k List.mem_cons_self
      refine ⟨by rcases List.mem_cons.mp hmem with h | h <;> simp [h], fun j hj => ?_⟩
      rcases List.mem_cons.mp hj with rfl | hj
      · exact ⟨hiw, hlow⟩
      rcases List.mem_cons.mp hj with rfl | hj
      · exact ⟨by omega, fun h => by have := hlow (by omega); omega⟩
      · exact hbest j (List.mem_cons_of_mem _ hj)

theorem lanesOf_sorted (m : W32) : (lanesOf m).Pairwise (· < ·) := List.pairwise_lt_range.filter _

/-- The winning lane of `ARGMAX` is a passing lane of the highest rank, the lowest such (R153). -/
theorem Ctx.argmaxLane_wins (c : Ctx) (a : BitVec 6) (m : BitVec 4) (hpass : c.pass ≠ 0#32) :
    let w := c.argmaxLane a m.toNat
    bit c.pass w = true ∧ ∀ j, bit c.pass j = true → rankOf m (c.v a j) ≤ rankOf m (c.v a w) ∧ (j < w → rankOf m (c.v a j) < rankOf m (c.v a w)) := by
  obtain ⟨l, hl⟩ := exists_bit_of_ne_zero hpass
  simp only [Ctx.argmaxLane, ranksBelow_eq_rankOf, decide_eq_true_eq, ← mem_lanesOf] at hl ⊢
  have hsorted := lanesOf_sorted c.pass
  cases hlanes : lanesOf c.pass with
  | nil => simp [hlanes] at hl
  | cons i rest => exact foldl_best (fun j => rankOf m (c.v a j)) rest i (hlanes ▸ hsorted)

/-- The value that `ARGMAX` gives where the best lane holds a NaN: all passing lanes do. -/
theorem argmax_nan (m : BitVec 4) (x : W32) :
    (decide (m = 0#4) && (fp32.decode x.toNat).isNan) = true ↔ m = 0#4 ∧ rankOf m x = -(2 ^ 31) := by
  rw [Bool.and_eq_true, decide_eq_true_eq]
  refine and_congr_right ?_
  rintro rfl
  exact (rankOf_float_low x).2.symm

/-- The check of the first field of a word that is legal passes (R104 d). -/
theorem Form.reject_first {f : Form} {ap : Bool} {window : Nat} {iss : Issue} (h : f.reject ap window iss = none) :
    f.d.detail window (decide (iss.unused.extractLsb' 20 6 ≠ 0#6)) = none := by
  by_contra hfails
  obtain ⟨e, he⟩ := Option.ne_none_iff_exists'.mp hfails
  simp only [Form.reject, he] at h
  split_ifs at h

/-- The pair of registers that a first field names lies within the window, from an even register up (R39, R104). -/
theorem State.acting_pair {s s1 : State} {c : Ctx} {i : Instr} {n : BitVec 6} (h : s.acting i = some (c, s1)) (hd : c.form.d = vecs n 2) :
    n.toNat + 2 ≤ (c.my s1).window ∧ n.toNat % 2 = 0 := by
  obtain ⟨core, -, -, -, -, -, -, hreject, -⟩ := State.acting_spec h
  have hpass := Form.reject_first hreject
  rw [hd, vecs, FieldCheck.detail, State.acting_window h] at hpass
  split_ifs at hpass with hout hodd
  omega

end Sys2Proof.Machine

open Sys2Proof Sys2Proof.Machine

/-- Settles O6: the winner of the lanes (`Ctx.argmaxLane_wins`) and the pair of registers (`Ctx.vector_pair_spec`). -/
theorem argmaxFindsTheFirstGreatestLane : Obligations.ArgmaxFindsTheFirstGreatestLane := by
  unfold Obligations.ArgmaxFindsTheFirstGreatestLane
  intro d a m s s1 c h
  obtain ⟨-, -, -, -, -, -, -, -, -, -, hpass, -⟩ := State.acting_spec h
  obtain ⟨hwin, heven⟩ := State.acting_pair (n := d) h (State.acting_form h ▸ rfl)
  obtain ⟨hw, hbest⟩ := c.argmaxLane_wins a m hpass
  obtain ⟨hvalue, hlane, hfalls, hrest⟩ := Ctx.vector_pair_spec (f := _) (g := _) (State.acting_present h) (State.acting_notAhead h) heven hwin
  refine ⟨_, c.argmaxLane a m.toNat, issue_acting h _ _ rfl, bit_lt hw, hw, fun j _ => hbest j, ?_, hlane, hfalls, hrest⟩
  simp only [← argmax_nan]
  exact hvalue

end

section
/-! PROOFS. Reductions and scans combine the passing lanes (R151, R152). -/

namespace Sys2Proof.Machine

/-! ## The integer operations (R151) -/

/-- An operation that combines lanes in any grouping, with its identity. -/
structure Combines (op : W32 → W32 → W32) (e : W32) : Prop where
  assoc : ∀ x y z, op (op x y) z = op x (op y z)
  left : ∀ x, op e x = x
  right : ∀ x, op x e = x

section
variable {α : Type} [LinearOrder α] {r : W32 → α} {e : W32}

theorem combines_least (hr : Function.Injective r) (htop : ∀ x, r x ≤ r e) : Combines (fun x y => if r x ≤ r y then x else y) e where
  assoc x y z := by grind
  left x := by
    have := htop x
    split
    · next h => exact hr (le_antisymm h this)
    · rfl
  right x := if_pos (htop x)

theorem combines_greatest (hr : Function.Injective r) (hbot : ∀ x, r e ≤ r x) : Combines (fun x y => if r x ≤ r y then y else x) e where
  assoc x y z := by grind
  left x := if_pos (hbot x)
  right x := by
    have := hbot x
    split
    · next h => exact hr (le_antisymm this h)
    · rfl

end

theorem combines_add : Combines (fun x y => BitVec.ofNat 32 (x.toNat + y.toNat)) 0#32 := by
  have hadd (x y : W32) : BitVec.ofNat 32 (x.toNat + y.toNat) = x + y := by rw [BitVec.ofNat_add]; simp
  simp only [hadd]
  exact ⟨BitVec.add_assoc, fun _ => BitVec.zero_add _, BitVec.add_zero⟩

theorem intOp_cases : ∀ m : BitVec 4, m.toNat < 8 → m = 0#4 ∨ m = 1#4 ∨ m = 2#4 ∨ m = 3#4 ∨ m = 4#4 ∨ m = 5#4 ∨ m = 6#4 ∨ m = 7#4 := by decide

theorem toInt_injective : Function.Injective (BitVec.toInt : W32 → Int) := fun _ _ => BitVec.eq_of_toInt_eq

/-- The integer operations with the identities of the rule. -/
theorem combineInt_combines {m : BitVec 4} (hm : m.toNat < 8) : Combines (combineInt m) (identity m.toNat) := by
  rcases intOp_cases m hm with rfl | rfl | rfl | rfl | rfl | rfl | rfl | rfl
  · exact combines_add
  · exact combines_least toInt_injective fun x => show x.toInt ≤ 2147483647 by have := x.toInt_lt; omega
  · exact combines_greatest toInt_injective fun x => show -2147483648 ≤ x.toInt by have := x.le_toInt; omega
  · exact combines_least BitVec.toNat_injective fun x => show x.toNat ≤ 4294967295 by omega
  · exact combines_greatest BitVec.toNat_injective fun x => Nat.zero_le _
  · exact ⟨BitVec.and_assoc, fun _ => BitVec.allOnes_and, fun _ => BitVec.and_allOnes⟩
  · exact ⟨BitVec.or_assoc, fun _ => BitVec.zero_or, fun _ => BitVec.or_zero⟩
  · exact ⟨BitVec.xor_assoc, fun _ => BitVec.zero_xor, fun _ => BitVec.xor_zero⟩

theorem ite_lt_eq_least {α : Type} [LinearOrder α] (r : W32 → α) (x y : W32) : (if r y < r x then y else x) = if r x ≤ r y then x else y := by
  simp only [← not_le, ite_not]

theorem ite_lt_eq_greatest {α : Type} [LinearOrder α] {r : W32 → α} (hr : Function.Injective r) (x y : W32) :
    (if r x < r y then y else x) = if r x ≤ r y then y else x := by
  rcases lt_trichotomy (r x) (r y) with h | h | h
  · simp [h, h.le]
  · simp [hr h]
  · simp [h.not_gt, h.not_ge]

/-- The model combines two lanes by the operation of the rule, with no flag. -/
theorem combine_int {m : BitVec 4} (hm : m.toNat < 8) (x y : W32) : combine m.toNat x y = (combineInt m x y, 0#32) := by
  rcases intOp_cases m hm with rfl | rfl | rfl | rfl | rfl | rfl | rfl | rfl
  · rfl
  · exact congrArg (·, 0#32) ((if_congr BitVec.slt_iff_toInt_lt rfl rfl).trans (ite_lt_eq_least BitVec.toInt x y))
  · exact congrArg (·, 0#32) ((if_congr BitVec.slt_iff_toInt_lt rfl rfl).trans (ite_lt_eq_greatest toInt_injective x y))
  · exact congrArg (·, 0#32) ((if_congr BitVec.ult_iff_toNat_lt rfl rfl).trans (ite_lt_eq_least BitVec.toNat x y))
  · exact congrArg (·, 0#32) ((if_congr BitVec.ult_iff_toNat_lt rfl rfl).trans (ite_lt_eq_greatest BitVec.toNat_injective x y))
  · rfl
  · rfl
  · rfl

/-! ## Folds over consecutive lanes -/

/-- An operation over `n` consecutive lanes from lane `a` up. -/
def foldFrom (op : W32 → W32 → W32) (e : W32) (x : Nat → W32) (a n : Nat) : W32 := (List.range' a n).foldl (fun y j => op y (x j)) e

section
variable {op : W32 → W32 → W32} {e : W32} (h : Combines op e) (x : Nat → W32)
include h

theorem Combines.foldl_eq (l : List Nat) (y : W32) : l.foldl (fun y j => op y (x j)) y = op y (l.foldl (fun y j => op y (x j)) e) := by
  induction l generalizing y with
  | nil => exact (h.right y).symm
  | cons j l ih => rw [List.foldl_cons, List.foldl_cons, ih, ih (op e (x j)), h.left, h.assoc]

theorem Combines.foldFrom_one (a : Nat) : foldFrom op e x a 1 = x a := h.left _

theorem Combines.foldFrom_append (a n k : Nat) : op (foldFrom op e x a n) (foldFrom op e x (a + n) k) = foldFrom op e x a (n + k) := by
  rw [foldFrom, foldFrom, foldFrom, ← List.range'_append_1, List.foldl_append]
  exact (h.foldl_eq x _ _).symm

end

/-! ## Stages (R152) -/

theorem stage_lane (st : Stage) (f : Nat → List W32 → W32 × W32) {i : Nat} (hi : i < 32) : nth (stage st f).1 i 0#32 = (f i st.1).1 := by
  simp only [stage, List.map_map]
  exact nth_map_range _ _ _ _ hi

/-- A stage that raises no flag leaves the flags so far. -/
theorem stage_flags (st : Stage) (f : Nat → List W32 → W32 × W32) (hf : ∀ i x, (f i x).2 = 0#32) : (stage st f).2 = st.2 := by
  simp only [stage, List.foldl_map, hf, BitVec.or_zero]
  induction List.range 32 with
  | nil => rfl
  | cons i l ih => exact ih

/-- The two lanes that a stage of the butterfly combines stand in the two halves of a block. -/
theorem butterfly_halves : ∀ k < 5, ∀ i < 32, max i (i ^^^ 2 ^ k) < 32 ∧ min i (i ^^^ 2 ^ k) / 2 ^ k = 2 * (i / 2 ^ (k + 1)) ∧
    max i (i ^^^ 2 ^ k) / 2 ^ k = 2 * (i / 2 ^ (k + 1)) + 1 := by decide

/-- One stage of the butterfly of `REDUCE`. -/
def reduceStage (m : Nat) (st : Stage) (k : Nat) : Stage :=
  stage st fun i x => combine m (nth x (min i (i ^^^ 2 ^ k)) 0#32) (nth x (max i (i ^^^ 2 ^ k)) 0#32)

/-- One stage of `SCAN`. -/
def scanStage (m : Nat) (st : Stage) (k : Nat) : Stage :=
  stage st fun i x => if i ≥ 2 ^ k then combine m (nth x (i - 2 ^ k) 0#32) (nth x i 0#32) else (nth x i 0#32, 0#32)

theorem reduceLanes_eq (m : Nat) (x : List W32) : reduceLanes m x = (List.range 5).foldl (reduceStage m) (x, 0#32) := rfl

theorem scanLanes_eq (m : Nat) (x : List W32) : scanLanes m x = (List.range 5).foldl (scanStage m) (x, 0#32) := rfl

section
variable {m : Nat} {op : W32 → W32 → W32} {e : W32} (h : Combines op e) (hop : ∀ x y, combine m x y = (op x y, 0#32)) (x : List W32)
include h hop

/-- After `n` stages of the butterfly a lane holds the operation over its block of `2 ^ n` lanes. -/
theorem reduceStages_lane {n : Nat} (hn : n ≤ 5) {i : Nat} (hi : i < 32) :
    nth ((List.range n).foldl (reduceStage m) (x, 0#32)).1 i 0#32 = foldFrom op e (nth x · 0#32) (2 ^ n * (i / 2 ^ n)) (2 ^ n) := by
  induction n generalizing i with
  | zero => simp [h.foldFrom_one]
  | succ n ih =>
    obtain ⟨hmax, hlow, hhigh⟩ := butterfly_halves n (by omega) i hi
    rw [List.range_succ, List.foldl_append, List.foldl_cons, List.foldl_nil, reduceStage, stage_lane _ _ hi, hop, ih (by omega) (by omega),
      ih (by omega) hmax, hlow, hhigh, Nat.mul_succ, h.foldFrom_append, ← Nat.mul_assoc, ← Nat.pow_succ, ← Nat.mul_two, ← Nat.pow_succ]

/-- After `n` stages of a scan a lane holds the operation over the `2 ^ n` lanes up to itself, or all of them. -/
theorem scanStages_lane (n : Nat) {i : Nat} (hi : i < 32) :
    nth ((List.range n).foldl (scanStage m) (x, 0#32)).1 i 0#32 =
        foldFrom op e (nth x · 0#32) (i + 1 - 2 ^ n) (min (2 ^ n) (i + 1)) := by
  induction n generalizing i with
  | zero => simp [h.foldFrom_one]
  | succ n ih =>
    rw [List.range_succ, List.foldl_append, List.foldl_cons, List.foldl_nil, scanStage, stage_lane _ _ hi, Nat.pow_succ']
    split
    · next hle =>
      have hstart : i + 1 - 2 ^ n = (i - 2 ^ n + 1 - 2 ^ n) + min (2 ^ n) (i - 2 ^ n + 1) := by omega
      have hbefore : i - 2 ^ n < 32 := (Nat.sub_le _ _).trans_lt hi
      rw [hop, ih hbefore, ih hi, hstart, min_eq_left (by omega : 2 ^ n ≤ i + 1), h.foldFrom_append]
      generalize 2 ^ n = p at *
      dsimp only
      congr 1 <;> omega
    · next hlt =>
      rw [ih hi]
      generalize 2 ^ n = p at *
      dsimp only
      congr 1 <;> omega

end

theorem foldl_flags (l : List Nat) (step : Stage → Nat → Stage) (hstep : ∀ st k, (step st k).2 = st.2) (st : Stage) : (l.foldl step st).2 = st.2 := by
  induction l generalizing st with
  | nil => rfl
  | cons k l ih => rw [List.foldl_cons, ih, hstep]

section
variable {m : BitVec 4} (hm : m.toNat < 8) (x : List W32)
include hm

theorem reduceLanes_flags : (reduceLanes m.toNat x).2 = 0#32 :=
  foldl_flags _ _ (fun st k => stage_flags st _ fun i x => by simp only [combine_int hm]) _

theorem scanLanes_flags : (scanLanes m.toNat x).2 = 0#32 :=
  foldl_flags _ _ (fun st k => stage_flags st _ fun i x => by rw [combine_int hm]; split <;> rfl) _

/-- Every lane of a reduction holds the operation over all lanes. -/
theorem reduceLanes_lane {i : Nat} (hi : i < 32) : nth (reduceLanes m.toNat x).1 i 0#32 = foldFrom (combineInt m) (identity m.toNat) (nth x · 0#32) 0 32 := by
  have hblock : 2 ^ 5 * (i / 2 ^ 5) = 0 := by omega
  rw [reduceLanes_eq, reduceStages_lane (combineInt_combines hm) (combine_int hm) x le_rfl hi, hblock]
  rfl

/-- A lane of a scan holds the operation over the lanes up to itself. -/
theorem scanLanes_lane {i : Nat} (hi : i < 32) :
    nth (scanLanes m.toNat x).1 i 0#32 = foldFrom (combineInt m) (identity m.toNat) (nth x · 0#32) 0 (i + 1) := by
  rw [scanLanes_eq, scanStages_lane (combineInt_combines hm) (combine_int hm) x 5 hi, show i + 1 - 2 ^ 5 = 0 by omega, show min (2 ^ 5) (i + 1) = i + 1 by omega]

end

/-- Lanes that do not pass count with the identity: the operation over the inputs up to a lane is that over the passing lanes up to it. -/
theorem Ctx.foldFrom_inputs (c : Ctx) (a : BitVec 6) {m : BitVec 4} (hm : m.toNat < 8) {l : Nat} (hl : l < 32) :
    foldFrom (combineInt m) (identity m.toNat) (nth (c.inputs a m.toNat) · 0#32) 0 (l + 1) =
      (c.upTo l).foldl (fun x j => combineInt m x (c.v a j)) (identity m.toNat) := by
  have hlanes : c.upTo l = (List.range (l + 1)).filter fun j => bit c.pass j := by
    rw [Ctx.upTo, show 32 = (l + 1) + (31 - l) by omega, List.range_add, List.filter_append]
    have hupper : ((List.range (31 - l)).map fun j => l + 1 + j).filter (fun j => bit c.pass j && decide (j ≤ l)) = [] := by
      simp only [List.filter_eq_nil_iff, List.mem_map, Bool.and_eq_true, decide_eq_true_eq]
      omega
    rw [hupper, List.append_nil]
    refine List.filter_congr fun j hj => ?_
    rw [decide_eq_true (Nat.lt_succ_iff.mp (List.mem_range.mp hj)), Bool.and_true]
  rw [hlanes, List.foldl_filter, foldFrom, ← List.range_eq_range']
  refine List.foldl_ext _ _ _ fun y j hj => ?_
  have hj32 : j < 32 := by have := List.mem_range.mp hj; omega
  rw [Ctx.inputs, nth_map_range _ _ _ _ hj32]
  split
  · rfl
  · exact (combineInt_combines hm).right y

theorem Ctx.holdsV_congr {c : Ctx} {s t : State} {n : Nat} {f g : Nat → W32} (h : c.holdsV s t n f) (hfg : ∀ l < 32, f l = g l) : c.holdsV s t n g :=
  fun l hl => hfg l hl ▸ h l hl

/-- A reduction or a scan writes what its last stage holds and ORs the flags of the stages into FPSTAT; an integer one raises none. -/
theorem State.acting_reduces {s s1 : State} {c : Ctx} {i : Instr} {d : BitVec 6} {st : Stage} {isInt : Prop} {r : Nat → W32} (h : s.acting i = some (c, s1))
    (hd : c.form.d = vec1 d) (hexec : exec i s = .next (c.vector d (fun l => nth st.1 l 0#32) (c.flags st.2 s1))) (hflags : isInt → st.2 = 0#32)
    (hlanes : isInt → ∀ l < 32, nth st.1 l 0#32 = r l) :
    ∃ t, exec i s = .next t ∧ c.falls s1 t ∧ c.rest t [d.toNat] [] [] looseFloat = c.rest s1 [d.toNat] [] [] looseFloat ∧ (c.my t).gen = (c.my s1).gen ∧
      (isInt → (c.my t).fpstat = (c.my s1).fpstat ∧ c.holdsV s1 t d.toNat r) ∧
      ((c.my t).fpstat = (c.my s1).fpstat ||| st.2 ∧ c.holdsV s1 t d.toNat fun l => nth st.1 l 0#32) := by
  obtain ⟨hfalls, hrest, hgen, hfpstat, hv⟩ := Ctx.flags_vector_spec (f := fun l => nth st.1 l 0#32) (x := st.2) (State.acting_present h)
    (State.acting_notAhead h) (State.acting_vec1 h hd)
  refine ⟨_, hexec, hfalls, hrest, hgen, fun hint => ⟨?_, Ctx.holdsV_congr hv (hlanes hint)⟩, hfpstat, hv⟩
  rw [hfpstat, hflags hint, BitVec.or_zero]

end Sys2Proof.Machine

open Sys2Proof Sys2Proof.Machine

/-- Settles O7: the last stage of an integer form holds the fold over the passing lanes (`reduceLanes_lane`, `scanLanes_lane`, `Ctx.foldFrom_inputs`). -/
theorem reductionsCombineThePassingLanes : Obligations.ReductionsCombineThePassingLanes := by
  unfold Obligations.ReductionsCombineThePassingLanes
  intro d a m s s1 c
  refine ⟨fun h => ?_, fun h => ?_⟩
  · obtain ⟨t, hexec, hfalls, hrest, hgen, hint, hfloat⟩ := State.acting_reduces (d := d) (st := reduceLanes m.toNat (c.inputs a m.toNat))
      (isInt := m.toNat < 8) h (State.acting_form h ▸ rfl) (issue_acting h _ _ rfl) (fun hm => reduceLanes_flags hm _) fun hm l hl =>
        (reduceLanes_lane hm _ hl).trans (c.foldFrom_inputs a hm (by decide : 31 < 32))
    exact ⟨t, hexec, hfalls, hrest, hgen, hint, fun _ => hfloat⟩
  · obtain ⟨t, hexec, hfalls, hrest, hgen, hint, hfloat⟩ := State.acting_reduces (d := d) (st := scanLanes m.toNat (c.inputs a m.toNat))
      (isInt := m.toNat < 8) h (State.acting_form h ▸ rfl) (issue_acting h _ _ rfl) (fun hm => scanLanes_flags hm _) fun hm l hl =>
        (scanLanes_lane hm _ hl).trans (c.foldFrom_inputs a hm hl)
    exact ⟨t, hexec, hfalls, hrest, hgen, hint, fun _ => hfloat⟩

end
